-- ==== Sys2Proof/Word.lean ====
section
/-! DEFINITION. Word.lean: the word types of the engine and the index types of its units (Table 00.1, Table 00.2 use
32-bit registers, R5 and R11; the units are numbered as chapter 00 names them). -/
namespace Sys2Proof

/-- A byte of any memory. -/
abbrev Byte := BitVec 8
/-- A 16-bit field. -/
abbrev Half := BitVec 16
/-- A register of the window, 32 bits wide (R11). -/
abbrev Word := BitVec 32
/-- The payload of a 64-bit access (R11). -/
abbrev Dword := BitVec 64

/-- Cores C0 to C5. -/
abbrev CoreId := Fin 6
/-- Arrays A0 to A3 of a core. -/
abbrev ArrId := Fin 4
/-- Data-mover channels DX0 to DX3. -/
abbrev ChanId := Fin 4
/-- Partitions P0 to P7. -/
abbrev PartId := Fin 8
/-- Stream ports IN0 to IN3. -/
abbrev StreamId := Fin 4
/-- Link ports L0 to L3. -/
abbrev LinkId := Fin 4
/-- Fabric regions Z0 to Z7. -/
abbrev RegionId := Fin 8
/-- Configuration sets 0 to 3 of an engine. -/
abbrev SetId := Fin 4
/-- Halo buffers HB0 to HB3 of a core. -/
abbrev HaloId := Fin 4
/-- Physical token counters 0 to 63 of a core. -/
abbrev TokId := Fin 64
/-- Engine queues 0 to 4 of a core: MX, VX, WX, DX, FX. -/
abbrev EngId := Fin 5

end Sys2Proof
end

