-- ==== Sys2Proof/Syntax.lean ====
section
/-! DEFINITION. Syntax.lean: the commands of the engine, one constructor per row of the opcode table, with their operands.
A command of the register window carries the access that makes it (R11, R13); a command that reports a physical finding
(a faulty column, a bad read, a reading of a monitor) carries the finding (log 8). -/
namespace Sys2Proof

/-- Who makes an access of the register window: its world, and the partition that SECURITY records name, 0xFF for a
master that serves none (R13). -/
structure Access where
  secure : Bool
  master : Byte
  deriving DecidableEq, Repr

/-- The sizes of a window access (R11). -/
inductive AccSize where
  | b8 | b16 | b32 | b64
  deriving DecidableEq, Repr

/-- A camera line as it arrives: its header fields and payload (R23). -/
structure CameraLine where
  frame : Half
  line  : Half
  sof   : Bool
  eof   : Bool
  payload : List Byte
  deriving DecidableEq, Repr

/-- The kinds of access that the Lamplighter and the queues make at the memory port: a job packet, a completion entry, a fault-ring
record, a buffer table, a package. -/
inductive MemSite where
  | packet | entry | ring | table | package
  deriving DecidableEq, Repr

/-- The request that met an error response (R22): a read of the k-th outstanding transfer of a
channel, or the write of its granule g, the next page walk's read, the next access of a kind, or a load's container. -/
inductive MemSource where
  | dx (c : CoreId) (ch : ChanId) (k : Nat) (write : Bool) (g : Nat)
  | walk
  | access (x : MemSite)
  | fabric
  deriving DecidableEq, Repr

/-- Where an array fault was met (R102, R103): on the k-th row in flight, in the plane load, or on the accumulator read of the row that
a pass with K_t = 0 merges. -/
inductive FaultSite where
  | row (k : Nat)
  | load
  | merge
  deriving DecidableEq, Repr

/-- The memories that scrub and ECC name (R320, Table 01.15), and a partition's fence-cache, tag and queue state as one word
(PART_STATE of Table 14.3). -/
inductive MemName where
  | core (c : CoreId) | acc (c : CoreId) | wbuf (c : CoreId) | curve (c : CoreId) | dmem (c : CoreId)
  | bank (c : CoreId) (b : Bool)
  | staging | llImem | llDmem
  | bram (z : RegionId)
  | replayBuf (l : LinkId)
  | part (p : PartId)
  deriving DecidableEq, Repr

/-- A word of a memory, by its byte offset; none: the finding names none. -/
abbrev WordAt := Option (MemName × Nat)

/-- An array fault: the arrays on which it was met, its cause (R102), band and group (R109), its site, and the word of an uncorrectable
read (R324). -/
structure ArrayFinding where
  arrays : BitVec 4
  cause  : BitVec 3
  band   : BitVec 3
  group  : BitVec 3
  site   : FaultSite
  word   : WordAt
  deriving DecidableEq, Repr

/-- A unit whose read may be held on an invalid accumulator row (R106). -/
inductive ReadUnit where
  | vx | wx
  | dx (ch : ChanId)
  deriving DecidableEq, Repr

/-- The vector engine or the window engine. -/
inductive VecEng where
  | vx | wx
  deriving DecidableEq, Repr

/-- A fault met by VX or WX (R166), an uncorrectable read of a control core's data memory, each with the word read, or an uncorrectable
fetch at a byte offset of the active bank (R216). -/
inductive EngineFinding where
  | vec (eng : VecEng) (cause : BitVec 2) (word : WordAt)
  | control (word : WordAt)
  | fetch (off : BitVec 17)
  deriving DecidableEq, Repr

/-- A path of halo traffic: the next or the previous core in the ring, or the core of the same number on an engine. -/
inductive HaloPath where
  | next | prev
  | remote (e : BitVec 5)
  deriving DecidableEq, Repr

/-- Who waits in a halo wait (R206): the control core or a taken command of an engine for an arrival, or a channel for a
credit. ch tells DX commands apart; other engines ignore it. -/
inductive HaloWaiter where
  | control
  | taken (e : EngId) (ch : ChanId)
  | chan (ch : ChanId)
  deriving DecidableEq, Repr

/-- The halo-buffer registers that a control program writes (R213). -/
inductive HaloReg where
  | ctrl | win | seq
  deriving DecidableEq, Repr

/-- What the control core reads or branches on (R221): a logical token counter or a scalar register. -/
inductive CtlSrc where
  | tok (t : BitVec 6)
  | sc (r : BitVec 4)
  deriving DecidableEq, Repr

/-- What a control program asks to wait for (R220): a logical token counter, or k free words of an engine queue. -/
inductive WaitReq where
  | tok (t : BitVec 6) (v : Half)
  | space (e : EngId) (k : Nat)
  deriving DecidableEq, Repr

/-- How a control program stops (R219, R249): at its end, or at an undefined encoding. -/
inductive ProgramEnd where
  | ended
  | illegal (addr : BitVec 18) (word : Word)
  deriving DecidableEq, Repr

/-- A mailbox: 0 to 7 the partitions', 8 the secure one (R265, R414). -/
abbrev MboxId := Fin 9

/-- A candle entry: 0 to 63 of the table, 64 the implicit entry (R298, R300). -/
abbrev EntryId := Fin 65

/-- What a scrub visit finds in a word (R320). -/
inductive EccFinding where
  | clean | corrected | uncorrectable
  deriving DecidableEq, Repr

/-- A monitor's reading for a slack window (R328): its number, slack and ring-oscillator count. -/
structure SlackReading where
  mon   : Fin 44
  slack : Byte
  ring  : Half
  deriving DecidableEq, Repr

/-- What BIST finds at a cold start (R397): the faulty columns of each array, arrays beyond repair, cores beyond repair. -/
structure BistFinding where
  columns : List (CoreId × ArrId × Fin 128)
  arrays  : List (CoreId × ArrId)
  cores   : List CoreId
  deriving DecidableEq, Repr

/-- What the configuration port finds on the routing selects of a frame (Table 16.6, checks 9 and 10). -/
inductive FrameFinding where
  | ok | contention | floating
  deriving DecidableEq, Repr

/-- Where the output stage meets an uncorrectable bias or mantissa (R102, cause 6): the place of its row, 0 the oldest, and the word read. -/
structure OutputSite where
  core : CoreId
  row  : Nat
  word : WordAt
  deriving DecidableEq, Repr

/-- A fault of the data mover (R192): its cause of Table 08.6, and the word read. -/
structure DxFinding where
  cause : BitVec 3
  word  : WordAt
  deriving DecidableEq, Repr

/-- A compiled switch point (R242, R243): the address of its instruction, and its first word. -/
structure SwitchPoint where
  addr : BitVec 18
  word : Nat
  deriving DecidableEq, Repr

/-- An access to a fence record that an error response ends (R413): the record's address, and whether the access reads it. -/
structure FenceAccess where
  addr : BitVec 48
  read : Bool
  deriving DecidableEq, Repr

/-- A sample of the supply monitors (Table 14.8): whether the rail is above its range, and the six bits as sampled. -/
structure SupplySample where
  high : Bool
  pins : BitVec 6
  deriving DecidableEq, Repr

/-- A physical FX fault (R384): an uncorrectable core-memory read of a word (cause 2), a FIFO parity error (cause 4). -/
inductive FxFinding where
  | coreRead (word : WordAt)
  | parity
  deriving DecidableEq, Repr

/-- A command of the engine: one constructor per row of the opcode table. -/
inductive Instr where
  | registerWrite (acc : Access) (off : BitVec 25) (size : AccSize) (val : Dword)
  | gintStatusClear (acc : Access) (val : Word)
  | ptIntStatusClear (acc : Access) (p : PartId) (val : Word)
  | smIntStatusClear (acc : Access) (val : Word)
  | sfIntStatusClear (acc : Access) (val : Word)
  | streamCtrlWrite (acc : Access) (n : StreamId) (val : Word)
  | streamRingWrite (acc : Access) (n : StreamId) (val : Word)
  | streamLineArrival (n : StreamId) (at_ : Nat) (line : CameraLine)
  | streamDropRead (acc : Access) (n : StreamId)
  | stemLineAvailable (n : StreamId)
  | vofsAckArrival
  | regulatorTimeout
  | throttleLevelChange (level : BitVec 3)
  | tempUpdate (temp : Byte)
  | ktickEdge (at_ : Nat)
  | memoryErrorResponse (src : MemSource)
  | curveWriteRelease (c : CoreId)
  | configSetWrite (acc : Access) (off : BitVec 25) (val : Word)
  | mxCommandStart (c : CoreId)
  | mxPassFormation (c : CoreId)
  | mxPassStart (c : CoreId)
  | mxCommandComplete (c : CoreId)
  | mxSnuffComplete (c : CoreId)
  | mxSnuffTimeout (c : CoreId)
  | arrayFault (c : CoreId) (fault : ArrayFinding)
  | arrayReplayDone (c : CoreId)
  | mxOutputReadFault (at_ : OutputSite)
  | accReadRelease (c : CoreId) (unit : ReadUnit)
  | satCountRead (acc : Access) (c : CoreId)
  | rowsIssuedRead (acc : Access) (c : CoreId)
  | zeroCellsRead (acc : Access) (c : CoreId)
  | stallFeedRead (acc : Access) (c : CoreId)
  | stallDrainRead (acc : Access) (c : CoreId)
  | stallLoadRead (acc : Access) (c : CoreId)
  | frozenRead (acc : Access) (c : CoreId)
  | throttledRead (acc : Access) (c : CoreId)
  | swapWaitRead (acc : Access) (c : CoreId)
  | stallMapRead (acc : Access) (c : CoreId)
  | replaysRead (acc : Access) (c : CoreId)
  | stemSkipRead (acc : Access) (c : CoreId)
  | stemWaitRead (acc : Access) (c : CoreId)
  | vxCommandStart (c : CoreId)
  | vxCommandComplete (c : CoreId)
  | wxCommandStart (c : CoreId)
  | wxCommandComplete (c : CoreId)
  | vxwxSnuffComplete (c : CoreId) (eng : VecEng)
  | engineFault (c : CoreId) (fault : EngineFinding)
  | vxElemsRead (acc : Access) (c : CoreId)
  | wxElemsRead (acc : Access) (c : CoreId)
  | dxCommandStart (c : CoreId) (ch : ChanId)
  | dxTransferIssue (c : CoreId) (ch : ChanId)
  | dxTransferAck (c : CoreId) (ch : ChanId) (k : Nat)
  | dxCommandComplete (c : CoreId) (ch : ChanId)
  | dxSnuffComplete (c : CoreId) (ch : ChanId)
  | dxFault (c : CoreId) (ch : ChanId) (finding : DxFinding)
  | mportCapWindow
  | mpqLockSet (acc : Access) (val : Word)
  | bytesExtRead (acc : Access) (c : CoreId)
  | xfersRead (acc : Access) (c : CoreId)
  | creditWaitRead (acc : Access) (c : CoreId)
  | mpBytesRead (acc : Access) (p : PartId)
  | hbCtrlWrite (acc : Access) (c : CoreId) (k : HaloId) (val : Word)
  | haloCreditGrant (c : CoreId) (path : HaloPath) (v : Byte)
  | haloRunArrival (c : CoreId) (path : HaloPath)
  | haloRelease (c : CoreId) (k : HaloId)
  | haloCreditReturn (c : CoreId) (path : HaloPath)
  | haloTimeout (c : CoreId) (unit : HaloWaiter)
  | haloDropRead (acc : Access) (c : CoreId)
  | queueWordPush (c : CoreId) (e : EngId) (first : Bool) (w : Word) (corrupt : Bool)
  | packetAbort (c : CoreId) (e : EngId)
  | ctlTokenWrite (c : CoreId) (t : BitVec 6) (v : Half)
  | ctlHaloRegWrite (c : CoreId) (k : HaloId) (r : HaloReg) (val : Word)
  | ctlRead (c : CoreId) (src : CtlSrc)
  | ctlBranch (c : CoreId) (src : CtlSrc)
  | ctlWait (c : CoreId) (req : WaitReq)
  | ctlWaitSatisfied (c : CoreId)
  | ctlProgramEnd (c : CoreId) (how : ProgramEnd)
  | ctlLockstepMismatch (c : CoreId) (comparator : BitVec 16)
  | bankSwitchPoint (c : CoreId) (point : SwitchPoint) (target : BitVec 17)
  | bankSwitch (c : CoreId)
  | imemWrite (c : CoreId) (bank : Bool) (off : Nat) (data : List Byte)
  | bankReady (c : CoreId)
  | packetTake (c : CoreId) (e : EngId) (ecc : Bool)
  | queuePointerMismatch (c : CoreId) (e : EngId) (freePtr : Bool) (a b : BitVec 6)
  | stallMonitorExpiry (c : CoreId)
  | haltComplete (c : CoreId)
  | coreRestart (acc : Access) (c : CoreId)
  | coreReset (acc : Access) (c : CoreId)
  | haltReq (acc : Access) (c : CoreId)
  | coreRecoveryReset (c : CoreId) (selfTestOk : Bool)
  | queueCntRead (acc : Access) (c : CoreId) (e : EngId)
  | mbAck (acc : Access) (m : MboxId)
  | mbCapsRead
  | mbPartitionConfig
  | mbQueueCreate
  | mbQueueDestroy
  | mbAsidAttach
  | mbAsidRevoke
  | mbProgramLoad
  | packageVerifyEnd
  | mbProgramUnload
  | fenceRegister
  | fenceRelease
  | fenceClearError
  | fenceRegisterProxy
  | mbTickConfig
  | mbCandleTable
  | fabricLoad
  | fabricUnload
  | fabricLoadAbort
  | linkEnumerate
  | linkSetGroup
  | mbMarginReport
  | resourceClaim
  | resourceRelease
  | resourceQuery
  | mbWarmRestart
  | doorbell (acc : Access) (p : PartId) (val : Word)
  | dbRejectRead (acc : Access) (p : PartId)
  | jobAdmission (qid : Byte)
  | jobPull (c : CoreId) (qid : Byte)
  | jobEnd (job : Nat)
  | fencePortSignal (acc : Access) (p : PartId) (val : Word)
  | fenceIoError (site : FenceAccess)
  | fenceStaleRead (acc : Access) (p : PartId)
  | fsigRejectRead (acc : Access) (p : PartId)
  | tlbInvalidate (acc : Access) (p : PartId) (val : Word)
  | tlbInvalidateDone (p : PartId)
  | faultRingEnable (acc : Access) (p : PartId) (val : Word)
  | faultRingTailWrite (acc : Access) (p : PartId) (val : Word)
  | frLostRead (acc : Access) (p : PartId)
  | tickSourceEvent
  | tickTimerExpiry
  | tickWatchdogExpiry
  | holdoverTick
  | earlyRead (acc : Access)
  | synthRead (acc : Access)
  | guttersRead (acc : Access)
  | candleStart (e : EntryId)
  | preemptRestart (job : Nat)
  | candleGutter (e : EntryId)
  | handover (c : CoreId)
  | lampSubtimerExpiry
  | lampTestStart (c : CoreId)
  | lampDeferExpiry (c : CoreId)
  | lampVerdict (c : CoreId) (failing : BitVec 32)
  | arrayWake (c : CoreId) (a : ArrId)
  | columnDiagnosis (c : CoreId) (a : ArrId) (column : Option (Fin 128))
  | scrubVisit (mem : MemName) (off : Nat) (found : EccFinding)
  | scrubWriteback (mem : MemName) (off : Nat)
  | coreAliveExpiry (c : CoreId)
  | llWatchdogExpiry
  | llLockstepMismatch
  | clockMonitorFault (n : Fin 9)
  | supplyFault (rail : Fin 3) (sample : SupplySample)
  | pacingExpiry
  | lampOverdueExpiry (c : CoreId) (a : ArrId)
  | sfKsafeStopWrite (acc : Access) (val : Word)
  | sfDualMapWrite (acc : Access) (val : Word)
  | fcCountRead (acc : Access) (k : Fin 6)
  | corrCountRead (acc : Access)
  | dualFailRead (acc : Access)
  | slackWindow (readings : List SlackReading)
  | marginPlannerRun
  | binChange
  | clockRelockDone
  | dataFlitReceive (l : LinkId) (flit : List Byte)
  | controlFlitReceive (l : LinkId) (flit : List Byte)
  | linkRetrain (l : LinkId)
  | linkRetrainEnd (l : LinkId) (lanes : Byte)
  | portRetry (l : LinkId)
  | crcRead (acc : Access) (l : LinkId)
  | replayRead (acc : Access) (l : LinkId)
  | retrainRead (acc : Access) (l : LinkId)
  | flitsRead (acc : Access) (l : LinkId)
  | token (l : LinkId)
  | enumTokenTimeout
  | membership (l : LinkId)
  | join (l : LinkId)
  | joinTimeout
  | probe (l : LinkId)
  | probeReply (l : LinkId)
  | runAck (l : LinkId)
  | runRefuse (l : LinkId)
  | multicastRunReceive (l : LinkId)
  | signal (l : LinkId)
  | update (l : LinkId)
  | subscribe (l : LinkId)
  | subReply (l : LinkId)
  | unsubscribe (l : LinkId)
  | heartbeatSend
  | heartbeatLoss (e : BitVec 5)
  | settleWindowEnd
  | linkTickMarker (l : LinkId) (at_ : Nat) (count : Word)
  | linkTickDue
  | fabricFrame (found : FrameFinding)
  | fabricRelease
  | cfgStart (acc : Access) (val : Word)
  | cfgAbort (acc : Access) (val : Word)
  | cfgDataPush (acc : Access) (val : Word)
  | configScanMismatch (z : RegionId) (frame : BitVec 12)
  | uclkWrite (acc : Access) (n : Fin 16) (val : Word)
  | uclkErrRead (acc : Access)
  | kioWrite (acc : Access) (n : Fin 64) (val : Word)
  | timerCtrlWrite (acc : Access) (k : Fin 4) (val : Word)
  | timerPeriodicExpiry (k : Fin 4)
  | userWatchdogExpiry (k : Fin 4)
  | watchdogService (k : Fin 4)
  | loadsRead (acc : Access) (z : RegionId)
  | bramErrRead (acc : Access) (z : RegionId)
  | bramUncorr (z : RegionId) (port : Fin 96) (off : Nat)
  | fxCommandStart (c : CoreId)
  | fxDone (c : CoreId) (taken : Nat) (beats : List (BitVec 256))
  | fxErr (c : CoreId) (code : Byte) (taken : Nat) (beats : List (BitVec 256))
  | fxCommandComplete (c : CoreId)
  | fxFault (c : CoreId) (fault : FxFinding)
  | fxSnuffComplete (c : CoreId)
  | fxSnuffTimeout (c : CoreId)
  | fxSpuriousRead (acc : Access) (c : CoreId)
  | coldResetRelease (kroot : Bool)
  | llResetCold (acc : Access) (val : Word)
  | bootApertureWrite (acc : Access) (off : BitVec 24) (data : List Byte)
  | bootRelease (acc : Access) (val : Word)
  | bistDone (found : BistFinding)
  | bootImageCheck (copyBad : BitVec 2)
  | llResetWarm (acc : Access) (val : Word)
  | llPartResetWrite (acc : Access) (val : Word)
  | llRegionResetWrite (acc : Access) (val : Word)
  | llWorldReq (acc : Access) (val : Word)
  | worldScrubDone
  | coreRetentionExit (c : CoreId)
  | mbSend (acc : Access) (m : MboxId) (val : Word)
  | candleEnded (e : EntryId)
  | cmdReady (z : RegionId)
  | uclkLock (n : Fin 16)
  | coreResetDone (c : CoreId)
  deriving DecidableEq, Repr

end Sys2Proof
end

