-- ==== Sys2Proof/Decode.lean ====
section
/-! DEFINITION. Decode.lean: the engine's commands have no encoding in the table (no row gives bits), so no word spells a
command. -/
namespace Sys2Proof

/-- The command that a word of the table's bits spells: none, for no row gives bits. -/
def decodeTableWord (_nbits _w : Nat) : Option Instr := none

end Sys2Proof
end

