-- ==== Sys2Proof/Config.lean ====
section
/-! DEFINITION. Config.lean: what an implementation fixes and the manual does not state, and the free values. Nothing here
has a body, so no proof can see a value: a statement about them holds whatever they are. -/
namespace Sys2Proof

/-- The n-th free byte: the value of a byte the manual calls undefined (R22: a granule whose write failed). The step
reads and advances the counter State.freeCtr (log 7). -/
opaque Config.freeByte : Nat → Byte

/-- Whether region entry j of a package holds ZC64 data: the entry does not say it, Deldex lays it out (R255 check 15, log 28). -/
opaque Config.zcRegion : List Byte → Nat → Bool

/-- The nanoseconds that a bank write of a number of bytes and its check take; R412 bounds them (R258, log 7). -/
opaque Config.bankWrite : Nat → Nat

/-- What a requester of a core-memory bank that has been refused in 16 consecutive cycles takes of a cycle before the stationary feeder,
none where it waits no longer: the pieces of 32 bytes that are left; and whether one takes the output stage's write. R189 gives the turn,
but no rule gives the cycles in which VX, WX, DX and FX request (log 12). -/
opaque Config.readTurn : Nat → Option Nat
opaque Config.writeTurn : Nat → Bool

/-- The code that CROP with pad_mode = 2 and excl_pad = 1 reads where one reflection does not reach the map: its set, the channel, the
coordinates. Check 4 of Table 07.11 does not test such a crop, R158 never reflects twice, and no rule gives the code (log 57). -/
opaque Config.reflectCode : Vector Word 64 → Nat → Int → Int → Nat

/-- The ports of other engines (engine, port) that are not up at a time in fs. R340 counts paths over up ports of all members and gives
an engine no way to learn of a far port (log 22). -/
opaque Config.farDown : Nat → List (Nat × Nat)

/-- Whether at a time in fs a multicast command of a group runs on another engine of the system: R342 has op 1 of MB_LINK_ENUMERATE ask it, and gives
engine 0 no way to learn it (log 22). -/
opaque Config.groupElsewhere : Nat → Nat → Bool

/-- A signal that the extension port gives to its region (Table 16.10). -/
inductive PortIn where
  | cmdValid
  | cmdWord (bit : Fin 256)
  | inValid
  | inData (bit : Fin 256)
  | inLast
  | outReady
  | abort
  deriving DecidableEq, Repr, Inhabited

/-- A signal of the beat handshake that a region gives to its extension port (Table 16.10). -/
inductive PortOut where
  | inReady
  | outValid
  | outData (bit : Fin 256)
  deriving DecidableEq, Repr, Inhabited

/-- A source of a wire in a fabric region (R361 to R364, R378, R380): a LUT's or flip-flop's output of a cell, a pipeline register, a received
boundary signal (side 0 the previous region, 1 the next), a bit of a block-RAM port's read data, a port's error output, the input of a pin, a
signal of the extension port, the pulse of a timer. -/
inductive FabricNet where
  | low
  | lut (cell : Fin 65536)
  | ff (cell : Fin 65536)
  | pipe (i : Nat)
  | edge (side : Fin 2) (bit : Fin 64)
  | ram (port : Fin 96) (bit : Fin 128)
  | ramErr (port : Fin 96)
  | pin (n : Fin 64)
  | ext (x : PortIn)
  | timer (k : Fin 4)
  deriving DecidableEq, Repr, Inhabited

/-- A cell (R361): the truth table of its LUT and the sources of its four inputs, a first; the clock line, clock enable and initial value
of its flip-flop, which takes the LUT's output. -/
structure FabricCell where
  truth  : BitVec 16
  a      : FabricNet
  b      : FabricNet
  c      : FabricNet
  d      : FabricNet
  line   : Fin 4
  enable : FabricNet
  init   : Bool
  deriving DecidableEq, Repr, Inhabited

/-- A pipeline register of a routing segment (R362). -/
structure FabricPipe where
  src  : FabricNet
  line : Fin 4
  init : Bool
  deriving DecidableEq, Repr, Inhabited

/-- A port of a block RAM (R364): its clock line, the log of its width in bytes, its sources. -/
structure FabricRamPort where
  line   : Fin 4
  wlog   : Fin 5
  enable : FabricNet
  write  : FabricNet
  addr   : List FabricNet
  data   : List FabricNet
  deriving DecidableEq, Repr, Inhabited

/-- What the private frame layout (R4) makes of configuration memory: its cells, pipeline registers and block-RAM ports (port 2 i + 1 is
port B of block RAM i), the clock line and the sent signals of each boundary, and the driver of each pin (log 89). -/
opaque Config.fabricCell : List Host.Cell → Fin 65536 → FabricCell
opaque Config.fabricPipes : List Host.Cell → List FabricPipe
opaque Config.fabricRam : List Host.Cell → Fin 96 → FabricRamPort
opaque Config.fabricEdgeLine : List Host.Cell → Fin 2 → Fin 4
opaque Config.fabricEdgeOut : List Host.Cell → Fin 2 → Fin 64 → FabricNet
opaque Config.fabricPinDrive : List Host.Cell → Fin 64 → FabricNet
opaque Config.fabricPinValue : List Host.Cell → Fin 64 → FabricNet
opaque Config.fabricPortOut : List Host.Cell → PortOut → FabricNet

/-- The level at a pin at a time, and what a disabled input buffer gives; the output of a LUT in a combinational loop (log 89). -/
opaque Config.pinLevel : Nat → Fin 64 → Bool
opaque Config.pinDisabled : Nat → Fin 64 → Bool
opaque Config.fabricLoop : List Host.Cell → FabricNet → Bool

/-- The golden lamp-test signature of an array with the given effective width: the XOR of its eight group signatures.
The golden ROM is private (R321; log 7). -/
opaque Config.goldenSignature : Nat → Word

end Sys2Proof
end

