-- ==== Sys2Proof/Machine/Bits.lean ====
section
/-! DEFINITION. Machine/Bits.lean: bit fields of register words, saturating counters, little-endian bytes (R5) and the
access codes' arithmetic (Table 00.2). -/
namespace Sys2Proof.Machine
open Sys2Proof

/-- The field [lo+len-1 : lo] of a word, as a number (R5). -/
def fld {n : Nat} (w : BitVec n) (lo len : Nat) : Nat := (w.toNat >>> lo) % 2 ^ len

/-- Bit i of a word. -/
def bitAt {n : Nat} (w : BitVec n) (i : Nat) : Bool := w.toNat.testBit i

/-- A field read as a two's-complement number. -/
def sfld {n : Nat} (w : BitVec n) (lo len : Nat) : Int :=
  let v := fld w lo len
  if v < 2 ^ (len - 1) then (v : Int) else (v : Int) - (2 ^ len : Nat)

/-- A number placed at bit lo of a register word. -/
def put (lo v : Nat) : Word := BitVec.ofNat 32 (v <<< lo)

/-- A flag as a bit value. -/
def b2n (b : Bool) : Nat := if b then 1 else 0

/-- A mask of the low len bits shifted to lo. -/
def maskAt (lo len : Nat) : Word := BitVec.ofNat 32 ((2 ^ len - 1) <<< lo)

/-- W1C: each 1 of the written word clears the bit, each 0 leaves it (Table 00.2). -/
def w1c {n : Nat} (old val : BitVec n) : BitVec n := old &&& ~~~ val

/-- A counter that saturates at 0xFFFF_FFFF (R14, R84, R109 and the other counters' tables). -/
def satAdd (w : Word) (n : Nat) : Word :=
  if w.toNat + n < 2 ^ 32 then BitVec.ofNat 32 (w.toNat + n) else BitVec.allOnes 32

/-- A counter of 16 bits that saturates at 0xFFFF (R250). -/
def satAdd16 (w : Half) (n : Nat) : Half :=
  if w.toNat + n < 2 ^ 16 then BitVec.ofNat 16 (w.toNat + n) else BitVec.allOnes 16

/-- The n little-endian bytes of a number (R5). -/
def leBytes : Nat → Nat → List Byte
  | 0, _ => []
  | n + 1, v => BitVec.ofNat 8 v :: leBytes n (v / 256)

/-- The number that little-endian bytes spell (R5). -/
def leNat : List Byte → Nat
  | [] => 0
  | b :: bs => b.toNat + 256 * leNat bs

/-- A number read as an n-bit two's-complement value. -/
def signed (n v : Nat) : Int :=
  if v % 2 ^ n < 2 ^ (n - 1) then ((v % 2 ^ n : Nat) : Int) else ((v % 2 ^ n : Nat) : Int) - (2 ^ n : Nat)

/-- An integer as the number of its n-bit two's-complement code. -/
def unsigned (n : Nat) (v : Int) : Nat := (v % (2 ^ n : Nat)).toNat

/-- The set bits of a mask, in ascending order, below n. -/
def bitsOf (n m : Nat) : List Nat := (List.range n).filter (fun i => m.testBit i)

/-- How many of the low n bits are set. -/
def popcount (n m : Nat) : Nat := (bitsOf n m).length

/-- Change entry i of a vector. -/
def updAt {α : Type} {n : Nat} (v : Vector α n) (i : Fin n) (f : α → α) : Vector α n := v.set i (f v[i])

/-- The index n as a member of Fin m, by remainder (register numbers whose field has exactly the right width). -/
def fin (m n : Nat) (h : 0 < m := by decide) : Fin m := ⟨n % m, Nat.mod_lt n h⟩

/-- The number whose bits are given by a test, n of them. -/
def bitNum (n : Nat) (f : Nat → Bool) : Nat := ((List.range n).map (fun i => b2n (f i) * 2 ^ i)).sum

/-- Change the n-th entry of a list. -/
def modNth {α : Type} (f : α → α) : Nat → List α → List α
  | _, [] => []
  | 0, x :: xs => f x :: xs
  | n + 1, x :: xs => x :: modNth f n xs

/-- Insert an entry by its key, behind those with the same one. -/
def insertBy {α : Type} (key : α → Nat) (x : α) : List α → List α
  | [] => [x]
  | y :: ys => if key x < key y then x :: y :: ys else y :: insertBy key x ys

/-- A list by rising key; entries with one key keep their order. -/
def sortBy {α : Type} (key : α → Nat) (l : List α) : List α := l.foldl (fun acc x => insertBy key x acc) []

/-- Remove the n-th entry of a list. -/
def dropNth {α : Type} : Nat → List α → List α
  | _, [] => []
  | 0, _ :: xs => xs
  | n + 1, x :: xs => x :: dropNth n xs

/-- Rounding up to a whole number of pieces. -/
def ceilDiv (a b : Nat) : Nat := (a + b - 1) / b

end Sys2Proof.Machine
end

