-- ==== Sys2Proof/Machine/Mem.lean ====
section
/-! DEFINITION. Machine/Mem.lean: a byte memory as a list of cells in one canonical form (addresses rising, no listed
0x00), with its loads and stores. Every memory of the engine has this form: an unlisted byte reads 0x00, which R390
and R400 give the on-chip memories at a cold start, and which is DESIGN CHOICE (log 6) for external memory. -/
namespace Sys2Proof.Machine
open Sys2Proof

/-- A byte memory. -/
abbrev Memory := List Host.Cell

/-- What a byte that nothing has written reads as (log 6). -/
def unlistedByte : Byte := 0#8

/-- The canonical form: addresses strictly rising, no cell equal to what an unlisted byte reads as. -/
abbrev Memory.wf (m : Memory) : Prop :=
  m.Pairwise (fun a b => a.1 < b.1) ∧ ∀ c ∈ m, c.2 ≠ unlistedByte

/-- The byte at an address. -/
def memLoad : Memory → Nat → Byte
  | [], _ => unlistedByte
  | c :: m, a => if c.1 = a then c.2 else memLoad m a

/-- The cells that bytes stored from address a list: none for a 0x00. -/
def cellsFrom : Nat → List Byte → Memory
  | _, [] => []
  | a, b :: bs => if b = unlistedByte then cellsFrom (a + 1) bs else (a, b) :: cellsFrom (a + 1) bs

/-- Store bytes from address a on. -/
def memStore (m : Memory) (a : Nat) (bs : List Byte) : Memory :=
  m.filter (fun c => decide (c.1 < a)) ++ cellsFrom a bs ++ m.filter (fun c => decide (a + bs.length ≤ c.1))

/-- n bytes from address a on. -/
def memBytes (m : Memory) (a n : Nat) : List Byte :=
  let w := m.filter (fun c => decide (a ≤ c.1) && decide (c.1 < a + n))
  (List.range n).map (fun i => memLoad w (a + i))

/-- A little-endian number of n bytes. -/
def memNat (m : Memory) (a n : Nat) : Nat := leNat (memBytes m a n)

/-- Zero n bytes from a on. -/
def memZero (m : Memory) (a n : Nat) : Memory :=
  m.filter (fun c => decide (c.1 < a) || decide (a + n ≤ c.1))

end Sys2Proof.Machine
end

