-- ==== Sys2Proof/Machine/Numbers.lean ====
section
/-! DEFINITION. Machine/Numbers.lean: the formats and the requantisation arithmetic of chapter 02 (R37 to R59), and the
two CRCs of the manual (R183, R335). All arithmetic is on unbounded integers, as R37 says. -/
namespace Sys2Proof.Machine
open Sys2Proof

/-- The integer types of saturate (R37). -/
inductive IType where
  | u8 | s8 | s16 | s32
  deriving DecidableEq, Repr

/-- The lowest value of a type (R37). -/
def typeLo : IType → Int
  | .u8 => 0 | .s8 => -128 | .s16 => -32768 | .s32 => -2147483648

/-- The highest value of a type (R37). -/
def typeHi : IType → Int
  | .u8 => 255 | .s8 => 127 | .s16 => 32767 | .s32 => 2147483647

/-- saturate (R37). -/
def saturate (v : Int) (t : IType) : Int :=
  if v < typeLo t then typeLo t else if typeHi t < v then typeHi t else v

/-- round_half_even (R37): v / 2^n to the nearest integer, ties to the even one. -/
def roundHalfEven (v : Int) (n : Nat) : Int :=
  if n = 0 then v else
  let d : Int := ((2 ^ n : Nat) : Int)
  let q := Int.fdiv v d
  let r := v - q * d
  let h : Int := ((2 ^ (n - 1) : Nat) : Int)
  if h < r then q + 1 else if r = h then q + Int.fmod q 2 else q

/-- The bytes an element of a type takes. -/
def typeBytes : IType → Nat
  | .u8 => 1 | .s8 => 1 | .s16 => 2 | .s32 => 4

/-- The operand width code of Table 02.4 and Table 07.1: 0 u8, 1 s8, 2 s16, 3 s32. -/
def typeOf (n : Nat) : IType :=
  if n = 0 then .u8 else if n = 1 then .s8 else if n = 2 then .s16 else .s32

/-- The value that the stored bytes of an element hold. -/
def typeValue (t : IType) (v : Nat) : Int :=
  match t with
  | .u8 => ((v % 256 : Nat) : Int)
  | .s8 => signed 8 v
  | .s16 => signed 16 v
  | .s32 => signed 32 v

/-- The bytes that store a value of a type. -/
def typeStore (t : IType) (v : Int) : List Byte := leBytes (typeBytes t) (unsigned (8 * typeBytes t) v)

/-- The 9-bit operand of a stored byte (R38): b - zp for u8, b for s8. -/
def operand9 (s8 : Bool) (zp : Nat) (b : Byte) : Int :=
  if s8 then signed 8 b.toNat else (b.toNat : Int) - (zp : Int)

/-- The default BG4 table as a 128-bit field (R45). -/
def bg4Default : BitVec 128 := 0x81A1B7C8D8E6F3007F5F4938281A0D00#128

/-- decode_bg4 (R37, R44): entry code of a 128-bit table field, read as s8. -/
def decodeBg4 (table : BitVec 128) (code : Nat) : Int := signed 8 (fld table (8 * code) 8)

/-- The elements of a BG4 weight row (R42): two codes a byte, the low nibble first. -/
def bg4Row (table : BitVec 128) : List Byte → List Int
  | [] => []
  | b :: bs => decodeBg4 table (b.toNat % 16) :: decodeBg4 table (b.toNat / 16) :: bg4Row table bs

/-- The elements of an s8 weight row (R41). -/
def s8Row (bs : List Byte) : List Int := bs.map (fun b => signed 8 b.toNat)

/-- The shift k of a pass in bits (Table 03.7). -/
def shiftBits (shift : Nat) : Nat := 8 * shift

/-- The exact value of a drain merge before saturation (Table 02.3): 0 overwrite, 1 accumulate, 2 subtract. -/
def mergeExact (merge shift : Nat) (a s : Int) : Int :=
  let x := s * ((2 ^ shiftBits shift : Nat) : Int)
  if merge = 0 then x else if merge = 1 then a + x else a - x

/-- The drain merge (R48). -/
def mergeValue (merge shift : Nat) (a s : Int) : Int := saturate (mergeExact merge shift a s) .s32

/-- Whether a merge saturates (R49). -/
def mergeSaturates (merge shift : Nat) (a s : Int) : Bool :=
  decide (mergeValue merge shift a s ≠ mergeExact merge shift a s)

/-- The fields of a requantisation control word (R50, Table 02.4). -/
structure Requant where
  tMult   : Nat
  sh      : Nat
  outType : Nat
  curveEn : Bool
  curveSel : Nat
  biasEn  : Bool
  zpOut   : Int
  deriving DecidableEq, Repr

/-- The control word of two register words (Table 02.4). -/
def requantOf (lo hi : Word) : Requant :=
  { tMult := fld lo 0 16, sh := fld lo 16 6, outType := fld lo 22 2, curveEn := bitAt lo 24,
    curveSel := fld lo 25 4, biasEn := bitAt lo 29, zpOut := sfld hi 0 16 }

/-- Whether sh and out_type are legal (R50): sh 16 to 55, out_type not 3. -/
def requantLegal (q : Requant) : Bool := decide (16 ≤ q.sh) && decide (q.sh ≤ 55) && decide (q.outType ≠ 3)

/-- The curve-table entry that an intermediate selects (R52). -/
def curveEntry (t : Int) : Nat := (t + 32768).toNat / 1024

/-- The curve step of the pipeline (R52, R53) on a table image of 256 bytes. -/
def curveStep (image : List Byte) (t : Int) : Int :=
  let u := (t + 32768).toNat
  let idx := curveEntry t
  let d := u - idx * 1024
  let e : Word := BitVec.ofNat 32 (leNat ((image.drop (4 * idx)).take 4))
  saturate (sfld e 0 16 + roundHalfEven (sfld e 16 12 * (d : Int)) (fld e 28 4)) .s16

/-- The intermediate of R52, from the exact sum v and the multiplier. -/
def requantMid (q : Requant) (v : Int) (mul : Nat) : Int := saturate (roundHalfEven (v * (mul : Int)) q.sh) .s16

/-- The pipeline of R52 from the exact sum v and the multiplier on. -/
def requantTail (q : Requant) (image : List Byte) (v : Int) (mul : Nat) : Int :=
  let t := requantMid q v mul
  let t := if q.curveEn then curveStep image t else t
  saturate (t + q.zpOut) (typeOf q.outType)

/-- The byte of curve-table memory's image at which the entry of an intermediate lies; none: the curve is off (R53). -/
def curveAt (q : Requant) (v : Int) (mul : Nat) : Option Nat :=
  if q.curveEn then some (256 * q.curveSel + 4 * curveEntry (requantMid q v mul)) else none

/-- The output code of an accumulator value (R52). -/
def requant (q : Requant) (image : List Byte) (acc bias : Int) (mant : Nat) : Int :=
  requantTail q image (acc + (if q.biasEn then bias else 0)) (q.tMult * mant)

/-- An on-device encoding (R59): base, mantissa, zero point. -/
structure Encoding where
  base : Int
  mant : Nat
  zp   : Nat
  deriving DecidableEq, Repr

/-- The encoding of a recorded range (R59). DESIGN CHOICE (log 93): q is not cut to the 32 bits of its declaration before it is compared with
255. -/
def encodeRange (lo hi : Int) (t sh : Nat) : Encoding :=
  if lo < hi ∧ t ≠ 0 then
    let q := (255 * 2 ^ sh) / (t * (hi - lo).toNat)
    let m := if 255 < q then 255 else q
    { base := lo, mant := if m = 0 then 1 else m, zp := 0 }
  else { base := lo, mant := 1, zp := 0 }

/-- One step of CRC-8, polynomial 0x07, no reflection (R183). -/
def crc8Step (crc : Byte) : Byte :=
  if bitAt crc 7 then (crc <<< 1) ^^^ 0x07#8 else crc <<< 1

/-- CRC-8 of the ZC64 page header (R183): initial value 0xFF, no final exclusive or. -/
def crc8 (bs : List Byte) : Byte :=
  bs.foldl (fun c b => Nat.repeat crc8Step 8 (c ^^^ b)) 0xFF#8

/-- One bit of the reflected CRC-32C division, polynomial 0x1EDC6F41 (R335). -/
def crc32Step (crc : Word) : Word :=
  if bitAt crc 0 then (crc >>> 1) ^^^ 0x82F63B78#32 else crc >>> 1

/-- The running CRC-32C over bytes. -/
def crc32Run (c : Word) (bs : List Byte) : Word :=
  bs.foldl (fun c b => Nat.repeat crc32Step 8 (c ^^^ BitVec.ofNat 32 b.toNat)) c

/-- CRC-32C with initial value and final exclusive or of all ones (R335). -/
def crc32c (bs : List Byte) : Word := ~~~ crc32Run (BitVec.allOnes 32) bs

end Sys2Proof.Machine
end

