-- ==== Sys2Proof/Machine/State.lean ====
section
/-! DEFINITION. Machine/State.lean: everything the manual gives the machine, as plain data, and State.reset, the engine
held in cold reset (R390). INVENTORY.md lists every field with the rule that names it and its reset value. -/
namespace Sys2Proof.Machine
open Sys2Proof

/-- Reasons for which the machine stops with a fault: none. Every trouble the manual describes is a next state (a halt
record, a fault record, a refusal status, an ignored write), so no command ends in a fault. No constructor: nobody
raises one, and a statement about faults would be empty. -/
inductive Fault where
  deriving DecidableEq, Repr

/-- Reasons for which a command is refused. notModelled: raised by an arm of exec whose command has no meaning yet; safe,
for nothing can be proved of such a command but that it stops. -/
inductive Refusal where
  | notModelled (mnemonic : String)
  deriving DecidableEq, Repr

/-- The grade (Table 00.1). -/
inductive Grade where
  | s96 | s94 | s92
  deriving DecidableEq, Repr

/-! ### The boundary (chapter 01) -/

/-- A line the stem feeder holds in a ring slot (R23, R121, R123). avail: it is available to the feeder. -/
structure HeldLine where
  slot  : Nat
  avail : Bool
  deriving DecidableEq, Repr

/-- A stream input port (R24, R25, Table 01.7). -/
structure StrmPort where
  ctrl    : Word
  ring    : Word
  credits : Byte
  wpos    : Nat                 -- the slot that the next line fills
  lastFrame : Half
  inFrame : Bool
  cfgErr  : Bool
  drop    : Word
  held    : List HeldLine       -- lines in ring order that the feeder has not released
  deriving DecidableEq, Repr

/-- Global registers, the regulator, the thermal inputs and the pins (R14, R18, R26 to R31). -/
structure Boundary where
  gintStatus : BitVec 12
  gintEnable : BitVec 12
  strm     : Vector StrmPort 4
  throttle : BitVec 3
  thrNext  : Option (BitVec 3)  -- a new THR_LEVEL, sampled at the next pattern start (R27)
  tempC    : Byte
  warnC    : Byte
  warn     : Bool
  vofsCode : BitVec 4
  vofsAck  : BitVec 4
  timedOut : Bool
  vofsFrom : Nat                -- when VOFS_CODE last changed (R26)
  ktickLast : Option Nat        -- the last KTICK edge taken (R30)
  kroot    : Bool               -- KROOT as sampled (R29)
  krootPin : Bool               -- the strap's level
  ksafeA   : Bool
  ksafeB   : Bool
  deriving DecidableEq, Repr

/-! ### Staging and the memory port (R174, R190, R195) -/

/-- A staging region register (Table 08.7). -/
structure SgRegion where
  owner  : BitVec 4
  secure : Bool
  boot   : Bool
  deriving DecidableEq, Repr

/-- The staging and memory-port registers. -/
structure Sg where
  cls     : Vector Word 4
  cap     : Vector Half 8
  lock    : Bool
  bytes   : Vector Word 8       -- SG_MP_BYTES_Pp
  bytesRem : Vector Nat 8       -- bytes issued and not yet a whole 64-byte unit
  window  : Vector Nat 8        -- bytes issued against the cap of the present window (R190)
  issued  : Nat                 -- data-mover transfers issued so far: their order at the port (R20)
  regions : Vector SgRegion 16
  deriving DecidableEq, Repr

/-! ### Arrays and the matrix engine (chapters 03 to 06) -/

/-- A stationary plane (R60 to R63): for each logical position the operands of rows 0 on; a row or position that is
not listed holds operand 0 (R62). The bypass map travels with the plane (R77). -/
structure Plane where
  map  : BitVec 128
  cols : List (List Int)
  deriving DecidableEq, Repr

/-- The hold points of one array (R85, R90, R92, Table 04.1). A slice's beats are the difference of its neighbours' step
counts (R90); the beats of a deskew chain and of a drain FIFO follow from the rows in flight (R92). -/
structure Grid where
  steps : Vector Nat 64         -- n(b, g) at 8 b + g, since the array was last empty
  owed  : Vector Nat 8          -- beats that the feeder FIFO of each band lacks of its 8
  swap  : Option Nat            -- the step in which the last swap began; none once every cell has taken its plane
  deriving DecidableEq, Repr

/-- One array of a core (R60, R75, R77, R84, R90, R103, R129, R308). -/
structure ArrayUnit where
  retired : Bool
  powered : Bool
  staged  : BitVec 128          -- the staged bypass map (R77)
  mapNow  : BitVec 128          -- the map in force for the active plane (Table 03.13)
  plane   : Option Plane        -- the active plane; none: invalid (R66)
  invalid : BitVec 1024         -- accumulator rows marked invalid (R103)
  grid    : Grid
  deriving DecidableEq, Repr

/-- Ports of a core's memories that other units hold for the coming cycles, in cycles (R86, R189). -/
structure BankUse where
  weights : Vector Nat 8        -- the read port of weight-buffer bank b: fill writes
  acc     : Vector Nat 32       -- accumulator bank g of array a at 8 a + g: data-mover accesses
  lines   : Vector Nat 16       -- the write port of core-memory bank j: stream port line writes
  halos   : Vector Nat 16       -- the same port: inbound halo rows
  refused : Nat                 -- consecutive cycles in which the output stage's write was refused
  wrote   : Nat                 -- consecutive cycles in which it was granted
  fed     : Nat                 -- consecutive cycles in which the stationary feeder read
  deriving DecidableEq, Repr

/-- A packet's command as an engine holds it (R225 to R227, Table 10.2), with physical set and counters (R232). -/
structure EngCmd where
  set     : SetId
  part    : PartId
  tag     : BitVec 14
  job     : Nat
  start   : Bool
  wait    : Option (TokId × Half)
  waitLog : BitVec 6            -- the logical counter waited on, for the halt detail (Table 10.8)
  post0   : Option (TokId × Nat)
  post1   : Option (TokId × Nat)
  chan    : ChanId
  since   : Nat                 -- when it was taken: its wait began then (R206)
  deriving DecidableEq, Repr

/-- The effective fields of one pass (R136). -/
structure MxEff where
  idx   : Nat
  kRg0  : Nat
  kT    : Nat
  kh    : Nat
  kw    : Nat
  koffY : Nat
  koffX : Nat
  xBase : Nat                   -- in 128-byte units
  w     : Nat                   -- in 64-byte units
  p0    : Nat
  merge : Nat
  shift : Nat
  reuse : Bool
  fin   : Bool
  slot  : Nat
  ch    : Nat
  entryReserved : Bool          -- the K-step entry has a non-zero reserved field (Table 06.7 check 6)
  deriving DecidableEq, Repr

/-- A started MX command (R137). -/
structure MxCmd where
  ord     : Nat
  cmd     : EngCmd
  cfg     : Vector Word 64
  next    : Nat                 -- the next pass to start
  limit   : Nat                 -- passes from here on do not run: their check has failed (R81, R137)
  mStart  : Nat                 -- first weight row of the next pass (R100), 0 but for a resumed pass
  reload  : Bool                -- the next pass loads its plane even if it is a reuse pass (R100, R104)
  freeze  : Bool                -- R88
  deriving DecidableEq, Repr

/-- A plane load, and once it has made 128 steps the complete shadow plane (R62, R64). In step t of the columns of a group, column c takes
entry t - c. -/
structure MxLoad where
  ord    : Nat
  eff    : MxEff
  mStart : Nat
  cols   : Vector Nat 8         -- steps that the columns of each group have made
  need   : List Nat             -- how many pieces of core memory steps 0 to t need (R116)
  got    : Nat                  -- pieces fetched
  waiting : Bool                -- a stem line that it needs is not available (R121)
  follows : Bool                -- it began while the pass before was entering rows: its wait is for the swap (R65)
  planes : List (ArrId × Plane)
  deriving DecidableEq, Repr

/-- The pass now entering rows (R61, R80). -/
structure MxRun where
  ord  : Nat
  eff  : MxEff
  next : Vector Nat 4           -- the next row to enter on each array
  stop : Nat                    -- rows from here on do not enter
  deriving DecidableEq, Repr

/-- What one array holds of a weight row (R61, R92). -/
structure MxPart where
  arr    : ArrId
  entry  : Nat                  -- the step of block (0, 0) in which the row entered
  map    : BitVec 128           -- the bypass map of the plane it streams against
  sums   : List Int             -- its column sums, by logical position
  merged : Byte                 -- bit g: group g has merged its part
  deriving DecidableEq, Repr

/-- A weight row in flight: entered on some array, not yet merged on every masked array (R61). -/
structure MxRow where
  ord   : Nat
  eff   : MxEff
  row   : Nat
  arrs  : Nat                   -- how many arrays it enters
  parts : List MxPart
  hits  : List Nat              -- positions whose merge has saturated on some array (Table 03.13)
  deriving DecidableEq, Repr

/-- A merged row in the output stage (R73): age 0 until its bias, mantissas and sums are read, then the cycles since its
merge. -/
structure MxOut where
  ord   : Nat
  eff   : MxEff
  row   : Nat
  age   : Nat
  codes : List (Nat × List Byte)
  deriving DecidableEq, Repr

/-- A group replay (R104, R138). phase 0: draining other groups' rows, 1: lamp test running, 2: replaying. -/
structure MxReplay where
  ord   : Nat
  first : Nat
  last  : Nat
  count : Nat
  phase : Nat
  deriving DecidableEq, Repr

/-- A resume record (R98, R100; R165 for VX and WX, where pos is row_resume). -/
structure Resume where
  valid  : Bool
  replay : Bool
  set    : SetId
  mask   : BitVec 4
  mRes   : Nat
  pos    : Nat
  deriving DecidableEq, Repr

/-- The stem feeder's frame cursor (R123). -/
structure StemCursor where
  port     : StreamId
  seeking  : Bool
  s0       : Nat
  frame    : Half
  received : Nat                -- lines of the frame received so far
  released : Nat                -- lines of the frame released so far
  hunt     : Bool               -- a started stem command looks for the first line with sof
  drain    : Bool               -- later lines of a released frame are released as they arrive
  deriving DecidableEq, Repr

/-- How a snuff stands in MX: none; a request that stops entry (R97); the drain before MX's own halt (R81). -/
inductive MxStop where
  | none
  | snuff (pos : Option (Nat × Nat × Nat))   -- command ordinal, pass, resume row
  | drain
  deriving DecidableEq, Repr

/-- The MX engine of a core. -/
structure Mx where
  sets     : Vector (Vector Word 64) 4
  taken    : Option EngCmd
  started  : List MxCmd
  nextOrd  : Nat
  load     : Option MxLoad
  run      : Option MxRun
  flight   : List MxRow
  outq     : List MxOut
  stop     : MxStop
  stopMask : BitVec 4           -- arrays whose planes the snuff under way discards (R98)
  stopAt   : Nat                -- the cycle in which the snuff request came (R99)
  stopReplay : Bool             -- the snuff's record will ask for a replay (R99, R108)
  stopped  : Bool               -- it has reported that it has stopped (R244)
  replay   : Option MxReplay
  replays  : Nat                -- replays of the present group so far
  resume   : Resume
  resumed  : Option Nat         -- ordinal of the started command that the record describes
  redo     : Option Nat         -- ordinal of the command whose record a set write cleared: it runs from its first pass (R101)
  passIdx  : BitVec 24
  curSet   : SetId
  sat      : Word
  rows     : Word
  zeros    : Word
  stallFeed : Word
  stallDrain : Word
  stallLoad : Word
  frozen   : Word
  throttled : Word
  swapWait : Word
  stallMap : Word
  replayCnt : Word
  faultInfo : Word
  cursor   : StemCursor
  stemSkip : Word
  stemWait : Word
  deriving DecidableEq, Repr

/-! ### Vector and window engines (chapter 07) -/

/-- A started VX or WX command. acc holds a reduction's progress: sum, best, index of best, count, any seen. -/
structure VecRun where
  cmd   : EngCmd
  cfg   : Vector Word 64
  row   : Nat                   -- output rows completed
  cyc   : Nat                   -- cycles spent on the present row
  tail  : Nat                   -- cycles since the last input read
  sum   : Int
  best  : Int
  bestI : Nat
  cnt   : Nat
  seen  : Bool
  enc   : List Encoding
  held  : Bool                  -- waits for an invalid accumulator row (R106)
  deriving DecidableEq, Repr

/-- The VX or the WX engine of a core (R146 to R169). -/
structure Vec where
  sets    : Vector (Vector Word 64) 4
  taken   : Option EngCmd
  run     : Option VecRun
  parked  : Option EngCmd       -- a snuffed command, to resume before another is taken (R246)
  snuff   : Bool
  curSet  : SetId
  elems   : Word
  resume  : Resume
  faultCause : BitVec 2
  faultRow   : BitVec 28
  deriving DecidableEq, Repr

/-! ### The data mover (chapter 08) -/

/-- Where a transfer's bytes go (Table 08.1, R187, R188, R205). -/
inductive DxTarget where
  | ext | core | acc | wbuf | staging | curve
  | cast (mask : BitVec 6)
  | group (g : BitVec 4)
  | haloNext | haloPrev
  | haloLink (port : LinkId) (engine : BitVec 5)
  deriving DecidableEq, Repr

/-- One transfer between its issue and its retirement, in run order (R172). All runs below done are covered once it and the
transfers before it are acknowledged. -/
structure DxXfer where
  ord    : Nat                  -- its place in the engine's issue order (R20)
  run    : Nat                  -- the first run it serves
  done   : Nat
  ext    : Nat                  -- external bytes it moves
  owed   : Nat                  -- of these, bytes whose requests wait for a cap window (R190)
  prio   : BitVec 4             -- the interconnect priority that its requests carry (R190)
  ports  : List (BitVec 3)      -- the memory-port channels of its external pieces (R19)
  extRead : Bool                -- it reads external memory
  target : DxTarget
  writes : List (Nat × List Byte)
  dvas   : List Nat             -- the virtual addresses of external writes, one each
  err    : Nat                  -- a fault cause of Table 08.6 met on it, 0 none
  landed : Bool                 -- its writes have been performed
  acked  : Bool
  held   : Bool                 -- a curve-table write kept back behind a running command (R54)
  members : BitVec 32           -- receivers whose acknowledgement is still awaited (R188, R202)
  deriving DecidableEq, Repr

/-- The running command of a channel. fault: a cause of Table 08.6 that stopped it, 6 its own halt, 0 none. -/
structure DxRun where
  cmd    : EngCmd
  cfg    : Vector Word 64
  run    : Nat                  -- the next run to issue from
  off    : Nat                  -- bytes of that run already issued; for ZC64 the next page
  buf    : List (List Byte)     -- the channel's buffer: rows of a transposed block (R181); a page's header between its transfers
  entry  : Word                 -- GATHER: the index entry read when that run was formed (R180)
  unitsTaken : Nat              -- units whose credit has been taken
  unitsPosted : Nat             -- units whose arrival has been posted, in unit order
  runsAcked : Nat               -- the lowest run not fully acknowledged
  out    : List DxXfer
  waiting : Bool                -- waits for a credit (R177)
  haloWait : Option Nat         -- a halo credit wait, with the time it began (R206)
  held   : Bool                 -- waits for an invalid accumulator row (R106)
  fault  : Nat
  deriving DecidableEq, Repr

/-- A channel's resume record (R191). -/
structure DxResume where
  valid    : Bool
  set      : SetId
  credHeld : Bool
  run      : Nat
  deriving DecidableEq, Repr

/-- One channel (R171). -/
structure DxChan where
  waiting : Option EngCmd
  run     : Option DxRun
  parked  : Option EngCmd       -- a snuffed command, to resume before another is taken (R246)
  snuff   : Bool
  resume  : DxResume
  pos     : Word
  deriving DecidableEq, Repr

/-- The data mover of a core. -/
structure Dx where
  sets     : Vector (Vector Word 64) 4
  chans    : Vector DxChan 4
  fault    : Word
  bytesExt : Word
  extRem   : Nat                -- external bytes moved and not yet a whole 64-byte unit
  xfers    : Word
  credWait : Word
  deriving DecidableEq, Repr

/-! ### Halos (chapter 09) -/

/-- A halo buffer (R199 to R203, Table 09.3). -/
structure HaloBuf where
  ctrl : Word
  win  : Word
  seqStart : Half
  nextSeq  : Half
  held : Byte
  part : Bool                   -- partial: a unit has runs written but is not complete
  err  : Bool
  dead : Bool                   -- it accepts nothing further until it is re-enabled (R202)
  lost : Bool                   -- its source has left the membership since it was enabled (R209)
  deriving DecidableEq, Repr

/-- The halo registers of a core. -/
structure Halo where
  bufs : Vector HaloBuf 4
  tmo  : BitVec 24
  drop : Word
  last : BitVec 9
  credNext : Byte
  credPrev : Byte
  credEng  : Vector Byte 32
  openNext : Bool               -- the receiver's grant stands: returned credits count (R212)
  openPrev : Bool
  openEng  : Word
  deriving DecidableEq, Repr


/-! ### The extension engine (chapter 16) -/

/-- A started FX command (R381, R382). sent: cmd_word has been sent. outq: output beats the extension gave that core
memory has not yet accepted. -/
structure FxRun where
  cmd  : EngCmd
  cfg  : Vector Word 64
  waitLoad : Bool
  sent : Bool
  sentAt : Nat                  -- when cmd_word was sent
  fetched : Nat                 -- input beats read from core memory
  inq : List (BitVec 256)       -- the FIFO towards the extension: beats read and not yet taken, at most 64
  taken : Nat                   -- input beats that the extension has taken
  written : Nat                 -- output beats that core memory has accepted
  outq : List (BitVec 256)      -- the FIFO from the extension: beats accepted and not yet written, at most 64
  done : Bool
  doneAt : Nat                  -- when done arrived
  deriving DecidableEq, Repr

/-- The FX engine of a core (R380 to R386). -/
structure Fx where
  sets    : Vector (Vector Word 64) 4
  taken   : Option EngCmd
  run     : Option FxRun
  parked  : Option EngCmd       -- a snuffed command, to resume before another is taken (R246)
  abort   : Bool                -- the abort level, raised by a snuff (R383)
  abortAt : Nat                 -- when it was raised
  abortTill : Nat               -- until when a core reset holds it (R383)
  errAt : Option Nat            -- when err last ended a command (R385)
  curSet  : SetId
  resumeValid : Bool
  resumeSet : SetId
  faultInfo : BitVec 11
  inCount : Word
  outCount : Word
  spurious : Word
  deriving DecidableEq, Repr

/-! ### Queues, control core and halts (chapter 10) -/

/-- One queue slot in use: its words so far, its length, and whether it is committed or taken (R222, R223). -/
structure QSlot where
  words  : List Word
  len    : Nat
  order  : Option Nat           -- commit order; none while the packet is open
  taken  : Bool
  job    : Nat
  deriving DecidableEq, Repr

/-- One engine queue (R222 to R228). slots lists the slots in use, oldest first; the free pointer names the first. -/
structure EngQueue where
  slots   : List QSlot
  wptrA   : BitVec 6
  wptrB   : BitVec 6
  fptrA   : BitVec 6
  fptrB   : BitVec 6
  ignoring : Bool               -- words are ignored until the next packet's first word (R223)
  overrun : Byte
  rewinds : Half
  ignored : Half
  commits : Nat
  deriving DecidableEq, Repr

/-- What the control core waits on (R220). A wait on the arr_tok of an enabled halo buffer is a halo wait (R206). -/
inductive CtlWait where
  | none
  | tok (t : TokId) (v : Half)
  | space (e : EngId) (k : Nat)
  | bank
  deriving DecidableEq, Repr

/-- The control core of a core (R215 to R221, R242, R243, R250). -/
structure Ctl where
  running  : Bool               -- a control program runs
  job      : Nat                -- the job it serves
  part     : PartId
  tag      : BitVec 14
  wait     : CtlWait
  waitFrom : Nat                -- the time the wait began (R206)
  addr     : BitVec 18          -- the next instruction and its bank, where the model knows it (log 9)
  seg      : Option (Nat × Nat) -- the segment the program is in: handle and section (R243, R258)
  active   : Bool               -- the active bank
  ready    : Bool
  seen     : Bool               -- ready was seen as 1 at a switch point (R243)
  actWr    : Half
  target   : BitVec 17          -- where fetch goes on after the switch
  ended    : Bool               -- the program has reached its end (R219)
  overran  : Bool               -- an overrun bit of the job's partition was set during the job (R219)
  deriving DecidableEq, Repr

/-- A halt condition (R244, R245, Table 10.8). code 0: a core fault, which records no halt code (R166). -/
structure HaltCond where
  code   : Byte
  detail : Word
  eng    : BitVec 3
  set    : BitVec 2
  addr   : Nat := 0             -- the address that the fault record will hold
  deriving DecidableEq, Repr

/-- The halt record registers (Table 10.9). -/
structure HaltRec where
  addr   : BitVec 18            -- DX_HALT_ADDR
  info   : Word
  detail : Word
  second : Word
  time   : Word
  deriving DecidableEq, Repr

/-- How far a halt has come (R244, R246, R250): running, halting (the condition recorded, the first further one, when the recorded one arose), halted
(cause as recorded, or a core fault), in reset since a time. -/
inductive CorePhase where
  | live
  | halting (cond : HaltCond) (second : Option HaltCond) (since : Nat)
  | halted (cond : HaltCond)
  | reset (since : Nat)
  deriving DecidableEq, Repr

/-- Allocations of one partition on one core (R129, R232). -/
structure Alloc where
  accBase : BitVec 4
  accCount : BitVec 4
  tokBase : BitVec 6
  tokCount : BitVec 7
  setBase : BitVec 2
  setCount : BitVec 3
  deriving DecidableEq, Repr

/-- Who last held each slot, counter and set: a resource is cleared when it passes to another partition (R130, R234). -/
structure Owners where
  acc : Vector PartId 8
  tok : Vector PartId 64
  set : Vector PartId 4
  deriving DecidableEq, Repr

/-- The lamp test of a core (R307, R321): idle; due, waiting for MX since a time, with its deferral (0: a test that is not a
tick's); running on arrays since a core cycle, and whether it is a tick or sub-timer test. -/
inductive Lamp where
  | idle
  | due (since : Nat) (deferUs : Nat)
  | running (since : Nat) (arrays : BitVec 4) (tick : Bool)
  deriving DecidableEq, Repr

/-- The on-chip memories of one core (R36). The accumulator holds row r, column c of array a at byte
a * 512 KiB + 512 r + 4 c. -/
structure CoreMem where
  core  : Memory
  acc   : Memory
  wbuf  : Memory
  curve : Memory
  dmem  : Memory
  bank0 : Memory
  bank1 : Memory
  deriving DecidableEq, Repr

/-- One core (Table 00.1, chapters 03 to 10 and 16). -/
structure Core where
  ctrlReq : BitVec 3            -- DX_CORE_CTRL as it reads (Table 00.2, log 90)
  retired : Bool
  secure  : Bool                -- its world (R406)
  powered : Bool
  retained : Bool               -- in retention (R410)
  phase   : CorePhase
  halt    : HaltRec
  arrays  : Vector ArrayUnit 4
  mx      : Mx
  vx      : Vec
  wx      : Vec
  rm      : Vector (Word × Word) 512
  sc      : Vector Word 16
  dx      : Dx
  halo    : Halo
  queues  : Vector EngQueue 5
  toks    : Vector Half 64
  allocs  : Vector Alloc 8
  owners  : Owners
  ctl     : Ctl
  bankSeg : Vector (Option (Nat × Nat)) 2   -- the segment each bank holds: handle, section (R258)
  fx      : Fx
  lamp    : Lamp
  lampNext : Option (Nat × Nat)  -- a tick's lamp test that waits for the test under way, with its deferral (R307)
  lampOwn : Bool                -- the snuff of its own lamp test halts the core (R307)
  lampBad : BitVec 32           -- failing column groups, bit 8a + g, that wait for their diagnosis (R324)
  mem     : CoreMem
  bankUse : BankUse
  stall   : List (Nat × Nat)    -- counts of the stall monitor (R239) by candle entry, 64 the implicit one; zero counts are not listed
  cyc     : Nat                 -- the free-running array-cycle counter (R95)
  enabled : Nat                 -- cycles of it that the throttle pattern enabled
  level   : BitVec 3            -- the throttle level of the pattern under way (R27, R95)
  deriving DecidableEq, Repr

/-! ### Partitions, mailboxes, queues, fences (chapter 12) -/

/-- A mailbox (R265, R414). -/
structure Mailbox where
  req  : Vector Word 16
  rep  : Vector Word 16
  busy : Bool
  replyValid : Bool
  overrun : Bool
  deriving DecidableEq, Repr

/-- A partition: its configuration (R263, R264) and its page (Table 12.12). -/
structure Partition where
  enabled : Bool
  secure  : Bool
  fenceQuota : Nat
  tagBase : Nat
  tagCount : Nat
  queueQuota : Nat
  mbox    : Mailbox
  intStatus : BitVec 5
  intEnable : BitVec 5
  dbReject : Word
  qSel    : Byte
  frBase  : BitVec 48
  frCtrl  : BitVec 12
  frHead  : Word
  frTail  : Word
  frLost  : Word
  fsigId  : BitVec 12
  fsigErr : Bool
  fsigLo  : Word
  fenceStale : Word
  fsigReject : Word
  tagSel  : BitVec 14
  tlbVa   : BitVec 48
  deriving DecidableEq, Repr

/-- An invalidation under way or held behind one (R273): partition, ASID, whole ASID or one page. -/
structure TlbInv where
  part : PartId
  asid : Nat
  all  : Bool
  page : Nat
  deriving DecidableEq, Repr

/-- A cached page-table entry (R273). below: the levels below it, 3 to 0; index: the number of the 512^below pages that it maps; entry: its
eight bytes. -/
structure TlbEntry where
  asid : Nat
  below : Nat
  index : Nat
  entry : Nat
  deriving DecidableEq, Repr

/-- An attached ASID (R270). -/
structure Attach where
  asid : Nat
  part : PartId
  secure : Bool
  root : Nat
  deriving DecidableEq, Repr

/-- What a fid names: a record by its address, or a partition's proxy (R283, R346). -/
inductive FenceKey where
  | record (addr : Nat)
  | proxy (part : PartId) (fid : Nat)
  deriving DecidableEq, Repr

/-- A fence wait of a head: what it waits on and its extended target (R284, R285). -/
structure FenceWait where
  key    : FenceKey
  target : BitVec 64
  deriving DecidableEq, Repr

/-- A queue's head once admitted (R277): its packet and its waits. -/
structure Head where
  packet : List Byte
  waits  : List FenceWait
  deriving DecidableEq, Repr

/-- The state of a queue (Table 12.12): enabled, disabled, error. -/
inductive QState where
  | enabled | disabled | error
  deriving DecidableEq, Repr

/-- A submission queue (R274, R275). -/
structure HostQueue where
  qid  : Nat
  part : PartId
  asid : Nat
  secure : Bool
  sq   : Nat
  cq   : Nat
  log2n : Nat
  state : QState
  submitted : Nat               -- packets submitted since creation
  pulled : Nat
  head : Option Head
  destroy : Option (Fin 9)      -- the mailbox of an MB_QUEUE_DESTROY that waits for its pulled jobs
  deriving DecidableEq, Repr

/-- What the engine holds of a context tag (R281). -/
structure TagState where
  tag : Nat
  qid : Nat
  seq : Nat
  fault : Bool
  valid : Bool
  deriving DecidableEq, Repr

/-- A remote subscription to a fence at its home (R346). -/
structure Subscriber where
  engine : Nat
  part   : Nat
  fid    : Nat
  deriving DecidableEq, Repr

/-- A fence the engine is the home of: its record's address, its cached contents, its subscribers (R282, R413). owner is
the owner word of the record: ASID, partition, world. -/
structure Fence where
  addr  : Nat
  value : BitVec 64
  err   : Bool
  ext   : Bool
  ownAsid : Nat
  ownPart : PartId
  ownSecure : Bool
  ownEngine : Nat
  subs  : List Subscriber
  cached : Bool                 -- the cache holds it; an entry that was discarded is read again at its next use (R404, R413)
  deriving DecidableEq, Repr

/-- A registration (R283): a partition-local fid of a record, or of a remote fence through a proxy (R346). -/
structure FenceReg where
  part : PartId
  fid  : Nat
  asid : Nat
  addr : Nat
  home : Option (Nat × Nat)
  deriving DecidableEq, Repr

/-- A proxy's copy of a remote fence (R346). pendingReply: the SUB_REPLY has not come yet. -/
structure Proxy where
  part  : PartId
  fid   : Nat
  asid  : Nat
  engine : Nat
  homeFid : Nat
  value : BitVec 64
  err   : Bool
  pending : Option (Fin 9 × Word)
  deriving DecidableEq, Repr

/-- A core's part in a job (R219, R279): whether it has ended, and whether the core was handed over (R306). -/
structure JobCore where
  core  : CoreId
  ended : Bool
  handed : Bool
  deriving DecidableEq, Repr

/-- Why a job has failed: halt code, class and detail of its first failing core (Table 12.8). -/
structure JobFail where
  halt   : Nat
  fc     : Nat
  detail : Nat
  deriving DecidableEq, Repr

/-- What the Lamplighter keeps of a preempted core of a job while another job runs on it (R221, R303; log 27). -/
structure SavedCore where
  core : CoreId
  ctl  : Ctl
  sc   : Vector Word 16
  toks : Vector Half 64
  queues : Vector EngQueue 5
  mx   : Mx
  vx   : Vec
  wx   : Vec
  dx   : Dx
  fx   : Fx
  halt : HaltRec
  phase : CorePhase
  deriving DecidableEq, Repr

/-- Whether a job is its entry's running job, is paused, is demoted and runs, or is demoted and waits (R303, R305). -/
inductive JobPhase where
  | running | paused | demoted | demotedPaused
  deriving DecidableEq, Repr

/-- A started job (R219, R278, R279). twin: the cores of its twin run (R322). entry none: the implicit entry. -/
structure Job where
  id   : Nat
  qid  : Nat
  seq  : Nat
  part : PartId
  asid : Nat
  secure : Bool
  tag  : BitVec 14
  irq  : Bool
  packet : List Byte
  slot : Nat
  variant : Nat
  entry : Option Nat
  cores : List JobCore
  twins : List (CoreId × CoreId)
  fail  : Option JobFail
  phase : JobPhase
  start : Nat
  buffers : List (Nat × Nat)
  written : List Nat             -- the buffer entries that the package marks written (Table 11.4)
  saved : List SavedCore
  deriving DecidableEq, Repr

/-- A program slot (R256, R262): its load count, and its package while one is loaded. -/
structure ProgSlot where
  count : Nat
  asid  : Nat
  part  : Option PartId
  package : List Byte
  va    : Nat                   -- its device virtual address (R259)
  store : Nat                   -- staging byte offset of its program store copy
  deriving DecidableEq, Repr

/-- A package under verification (R255, R269). -/
structure Verify where
  mbox : Fin 9
  req  : Vector Word 16
  part : PartId
  asid : Nat
  bytes : List Byte
  deriving DecidableEq, Repr

/-- What a record says, before its number and time (Table 14.2). toPart: the one ring it goes to, none for the rings of
every enabled partition (R313). job: context tag and qid. -/
structure RecIn where
  event  : Bool := false
  code   : Nat
  fc     : Nat := 0
  dangerous : Bool := false
  toPart : Option PartId := none
  part   : Nat := 0
  job    : Option (Nat × Nat) := none
  unit   : Nat := 0
  index  : Nat := 0
  sub    : Nat := 0
  halt   : Nat := 0
  detail : Nat := 0
  addr   : Nat := 0
  deriving DecidableEq, Repr

/-- The host side of the engine. sent: requests the Lamplighter has not taken, in order (R269). portErr: the kinds of access whose next
one the system chip answers with an error (R22, log 8). owed: records that wait for the data writes of a job (R20). -/
structure HostSide where
  parts   : Vector Partition 8
  smBox   : Mailbox
  smIntStatus : BitVec 2
  smIntEnable : BitVec 2
  sent    : List (Fin 9)
  asids   : List Attach
  tlb     : List TlbEntry
  tlbInv  : List TlbInv
  queues  : List HostQueue
  tags    : List TagState
  fences  : List Fence
  regs    : List FenceReg
  proxies : List Proxy
  jobs    : List Job
  nextJob : Nat
  slots   : Vector ProgSlot 64
  verify  : Option Verify
  genCount : Word
  rrLast  : Vector Nat 8        -- the qid pulled last in each partition, for the round robin (R278)
  portErr : List MemSite
  owed    : List (Nat × RecIn)
  performed : List Nat          -- transfers under way whose writes have been performed before a later write of their granules (R20)
  refused : List (Nat × Nat)    -- partition and address of accesses that the descriptors have refused (R408, log 97)
  deriving DecidableEq, Repr

/-! ### The tick and the candles (chapter 13) -/

/-- The tick state (R296). -/
inductive TickState where
  | stopped | locked | holdover
  deriving DecidableEq, Repr

/-- The state of a candle-table entry in a tick (R302, Table 13.6). -/
inductive EntryState where
  | invalid | pending | running | paused | ended | guttered | demoted
  deriving DecidableEq, Repr

/-- What the engine holds of an entry besides its table words: its state, the elapsed time up to since, and when it last
began to run (R302, R304). full: it has guttered or ended and pulls no further job in this tick. -/
structure EntryRun where
  state : EntryState
  elapsed : Nat
  since : Nat
  full  : Bool
  deriving DecidableEq, Repr

/-- The tick window (Table 13.6) and what runs behind it. -/
structure Tick where
  ctrl    : Word
  period  : BitVec 20
  state   : TickState
  count   : Word
  last    : Nat                 -- when the last tick occurred
  raised  : List Nat            -- source events raised and not yet taken, with their times (R295)
  early   : Word
  synth   : Word
  gutters : Word
  linkComp : BitVec 24
  pendCfg : Option (Word × BitVec 20)   -- a configuration that waits for the next tick (R297)
  active  : Vector (BitVec 128) 64
  shadow  : Vector (BitVec 128) 64
  commit  : Option (Vector (BitVec 128) 64 × Nat)   -- a committed table and the time of its reply (R299)
  runs    : Vector EntryRun 64
  implicit : EntryRun           -- the implicit entry of R300
  short   : BitVec 64
  gated   : BitVec 24
  binPend : Option (BitVec 3)   -- a bin change due at the next tick (R330)
  binDue  : Bool                -- that tick has come: the change goes before its lamp tests
  relock  : Option (Nat × List CoreId)  -- clocks relock since, and the cores to restart (R330)
  subAt   : Nat                 -- the last lamp-test point: tick or sub-timer (R307)
  deriving DecidableEq, Repr

/-! ### Safety and ageing (chapter 14) -/

/-- A slack monitor (R328, Table 14.8). -/
structure Slack where
  now  : Byte
  low  : Byte
  ring : Half
  sinceRun : Byte               -- minimum since the last planner run (R332)
  deriving DecidableEq, Repr

/-- The safety window and the fault machinery (Table 14.8, R311 to R333). -/
structure Safety where
  stopReq : Bool                -- SF_KSAFE_STOP.stop as it reads (Table 00.2, log 90)
  stopped : Bool
  cause   : Byte
  toggling : Bool
  fcCount : Vector Word 6
  corr    : Word
  dualMap : BitVec 18
  dualFail : Word
  cwdg    : BitVec 6
  clkSup  : BitVec 7
  intStatus : BitVec 5
  intEnable : BitVec 5
  lampSig : Vector Word 24
  marginCfg : Word
  marginCode : BitVec 4         -- the code of the margin table (R329, R399)
  bin     : BitVec 3
  exhausted : Bool
  forcing : Byte
  lastRun : Nat
  plannerDue : Bool             -- a planner run is due or under way
  planStep : Option Byte        -- a step of the code that waits for VOFS_ACK: the monitor that forced it (R329)
  fresh    : Nat                -- slack windows that the planner still waits for after a step (R329)
  slack   : Vector Slack 44
  log     : Vector (BitVec 256) 64
  logHead : Word
  seq     : Half
  engTimes : List Nat           -- times of FC_ENGINE faults (R311)
  fatal   : Bool                -- every core is held in reset until a cold start (Table 14.1)
  lampPass : Bool               -- the first lamp test since the start has passed (R318)
  lampOk  : Vector Nat 24       -- per array: the time from which the lamp-overdue monitor counts (Table 14.5)
  lampArmed : BitVec 24
  toggledAt : Option Nat        -- the last toggle point, none before the first since the start (Table 14.5)
  aliveAt : Vector (Option Nat) 6   -- the last CORE_ALIVE expiry (R324)
  poison  : List (MemName × Nat)    -- uncorrectable words, by byte offset (R320)
  corrected : List (MemName × Nat)  -- words corrected since their last scrub visit
  scrubAt : List (MemName × Nat)    -- when each memory last finished a scrub pass, if it has since cold start
  uncorrAt : List (MemName × Nat)   -- addresses that have shown an uncorrectable error (R324)
  duals   : List (Nat × CoreId × Nat × Nat × Word)  -- dual-run signatures: job, core, buffer, channel, signature (R323)
  deriving DecidableEq, Repr

/-! ### Links (chapter 15) -/

/-- A flit, its header fields taken apart (Table 15.1). -/
structure Flit where
  cls  : Fin 4
  last : Bool
  lseq : Half
  dst  : BitVec 5
  src  : BitVec 5
  pseq : BitVec 12
  addr : BitVec 24
  info : BitVec 22
  payload : List Byte
  deriving DecidableEq, Repr

/-- A heartbeat record (Table 15.2). -/
structure HbRec where
  origin : BitVec 5
  member : Bool
  islanded : Bool
  seq    : Half
  epoch  : Half
  deriving DecidableEq, Repr

/-- The path by which a core's halo traffic comes or goes: a ring neighbour or another engine. A grant or return message
carries the path of the counter it changes. -/
structure HaloMsg where
  core  : CoreId                -- the core it travels to
  path  : HaloPath
  grant : Option Byte           -- some v: the credit count takes v; none: it is incremented
  deriving DecidableEq, Repr

/-- A control flit (Table 15.2): what its sender says of itself. halo: halo credits, whose place in the payload no table gives (log 22). -/
structure ControlFlit where
  ack     : Half
  nak     : Bool
  hears   : Bool
  tick    : Option Word         -- a tick marker, with the ticks forwarded
  credits : Vector Nat 4
  records : List HbRec          -- at most 28
  halo    : List (BitVec 5 × HaloMsg)
  deriving DecidableEq, Repr

/-- A link port (R334 to R338, Table 15.8). -/
structure LinkPort where
  secure : Bool
  control : Option ControlFlit  -- the last control flit that left
  state  : BitVec 2
  lanes  : BitVec 4
  laneMask : Byte               -- the lanes in use
  trainedLanes : Byte           -- the lanes that trained (LK_Pl_LANES)
  neighbour : Option (BitVec 5 × BitVec 2)
  crc    : Word
  replay : Word
  retrain : Word
  flits  : Word
  txSeq  : Half                 -- lseq of the last data flit sent
  buffer : List Flit            -- the replay buffer: sent and not acknowledged, oldest first
  sendq  : List Flit            -- data flits that wait for a credit, a free buffer entry or the port
  credits : Vector Nat 4
  rxSeq  : Half                 -- ack_lseq: the last data flit accepted in order
  nak    : Bool                 -- the next control flit carries nak
  discarding : Bool             -- a discard has happened since the last accepted flit
  freed  : Vector Nat 4         -- buffers freed since the last control flit
  heard  : Bool                 -- the neighbour reports heard
  hears  : Bool                 -- good flits arrive: one has since the lanes trained
  nakSeq : Half
  nakCount : Nat                -- successive control flits with nak and the same ack_lseq
  goodAt : Nat                  -- when the last good flit arrived
  retrainAt : Nat               -- when the present or last retrain began
  fails  : Nat                  -- failed retrains in a row
  hbWait : List HbRec           -- heartbeat records that wait for a control flit
  haloOut : List (BitVec 5 × HaloMsg)  -- halo credits that leave with the next control flit, each with its engine (R201, R203)
  deriving DecidableEq, Repr

/-- A run sent to another engine and not yet acknowledged end to end (R341). owner: the transfer it serves. -/
structure SentRun where
  dst   : BitVec 5
  port  : Option LinkId         -- the port that a halo command names (R205); none: by the route table
  flits : List Flit
  owner : Option (CoreId × ChanId × Nat)
  deriving DecidableEq, Repr

/-- An enumeration under way (R342, R343), on engine 0 (which holds the request) or on an engine that the token has reached.
phase 0 counting, 1 second-ring check, 2 measuring. -/
structure EnumRun where
  mbox  : Option (Fin 9)
  since : Nat
  topo  : Nat
  x     : Nat
  y     : Nat
  phase : Nat
  before : BitVec 2             -- the system state before the request
  addr  : Nat                   -- the address that the token gave
  starter : Bool                -- it has started a row of a torus
  from_ : LinkId                -- the port by which the token came
  probes : Word                 -- engines whose PROBE_REPLY has not come
  reached : Nat                 -- the engines that engine 0 knows the count to have reached
  rowEnd : Nat                  -- on an engine that has started a row: the address behind the row's last, 64 until the token has come back
  deriving DecidableEq, Repr

/-- An op 1 request that waits for its members' acknowledgements (R342, R343). -/
structure GroupSet where
  mbox : Fin 9
  waits : Word
  deriving DecidableEq, Repr

/-- The link window and the system state (R339 to R359). -/
structure Links where
  ports   : Vector LinkPort 4
  sys     : BitVec 2            -- 0 single, 1 enumerating, 2 member, 3 islanded
  primary : Bool
  joinFail : Bool
  addr    : BitVec 5
  epoch   : Half
  members : Word
  topo    : BitVec 2
  xm1     : BitVec 3
  ym1     : BitVec 2
  count   : BitVec 6
  config  : Word
  tickSys : BitVec 24           -- L_sys in ns
  enumResult : Word
  groups  : Vector Word 16
  lat     : Vector Half 32
  routes  : Vector (Option LinkId) 32
  paths   : Vector (List (Nat × Nat)) 32  -- the route to each engine, hop by hop: each engine on it and the port by which it forwards (R340)
  farDown : List (Nat × Nat)         -- engines and ports of other engines that are not up, as this engine knows them (R340, log 22)
  heardAt : Vector (Option Nat) 32   -- the last heartbeat of each engine (LK_HEARD)
  lossFrom : Vector (Option Nat) 32  -- loss timers (R348)
  lost    : Word                -- members whose timer has expired in this settle window
  settle  : Option Nat          -- when the settle window opened (R349)
  hbAt    : Nat
  hbSeq   : Half
  hbSeen  : List (BitVec 5 × Half)   -- the last 64 records of each origin (R348, log 102)
  pseqTo  : Vector (BitVec 12) 32
  pseqFrom : Vector (BitVec 12) 32
  rx      : List (LinkId × Flit)     -- accepted flits for this engine, in order of arrival, not yet consumed
  sent    : List SentRun
  enum    : Option EnumRun
  groupSet : Option GroupSet
  joins   : List (Nat × BitVec 5 × Word)  -- joins that wait: time of arrival, address, configured mask; in their order (R352)
  joinAt  : Option Nat
  markerDue : Option Nat        -- the link tick is due (R344)
  markerAt : Nat                -- when its marker or source event arrived (R357)
  tickFwd : Word                -- ticks forwarded since enumeration
  deriving DecidableEq, Repr

/-! ### Fabric (chapter 16) -/

/-- The signals that a region receives over one boundary (R363): two synchroniser stages, which an asynchronous boundary passes first,
and the receiving register. -/
structure EdgeIn where
  first  : BitVec 64
  second : BitVec 64
  reg    : BitVec 64
  deriving DecidableEq, Repr

/-- A word that a block-RAM port reads, and its error output (R364). -/
structure RamRead where
  data : BitVec 128
  err  : Bool
  deriving DecidableEq, Repr

/-- What a region's user logic holds (R361 to R364). -/
structure Logic where
  ffs   : List (Fin 65536)      -- cells whose flip-flop is 1, rising
  pipes : List Nat              -- pipeline registers that are 1, rising
  edges : Vector EdgeIn 2       -- 0 from the previous region, 1 from the next
  rams  : Vector (RamRead × RamRead) 96  -- each block-RAM port: the word read one cycle ago, and its output
  ranTo : Nat                   -- the time up to which its clocks have run
  deriving DecidableEq, Repr

/-- A fabric region (R360 to R373, Table 16.15). -/
structure Region where
  logic   : Logic
  async   : Vector Bool 2       -- the boundary from the previous and from the next region is asynchronous
  secure  : Bool
  state   : BitVec 3
  powered : Bool
  cmdReady : Bool
  lastCode : Byte
  failFrame : BitVec 12
  extId   : Half
  clk     : Word
  loads   : Word
  bramErr : Word
  pinMask : BitVec 64
  fxLine  : BitVec 2
  bram    : Memory
  config  : Memory              -- applied frames: payload of frame i at 256 i (private layout, R4)
  crcs    : List (Nat × Word × Word)  -- what the scan compares (R373): each applied frame's index, its record's first word and crc
  deriving DecidableEq, Repr

/-- A load under way (R369 to R372). path 1 mailbox, 2 host. header: the checked header, none before its checks. -/
structure FbLoad where
  path   : Nat
  region : RegionId
  mbox   : Fin 9
  part   : PartId
  asid   : Nat
  va     : Nat
  len    : Nat
  header : Option (List Byte)
  got    : Nat                  -- container bytes taken
  applied : List Nat
  deriving DecidableEq, Repr

/-- The owner of a pin (Table 16.15 FB_PIN_OWNn). use 0 free, 1 region, 2 tick. -/
structure PinOwn where
  use    : BitVec 2
  region : RegionId
  part   : PartId
  secure : Bool
  deriving DecidableEq, Repr

/-- A fabric timer (R378). use 0 free, 1 watchdog, 2 periodic, 3 lamp sub-timer. -/
structure FbTimer where
  reload : BitVec 24
  enable : Bool
  since  : Nat                  -- when it was last loaded
  pulsed : Option Nat           -- the last expiry as a periodic timer
  use    : BitVec 2
  region : RegionId
  part   : PartId
  ll     : Bool
  secure : Bool
  deriving DecidableEq, Repr

/-- The fabric window and its controller. -/
structure Fabric where
  regions : Vector Region 8
  cfgRegion : BitVec 3
  cmd     : BitVec 2            -- FB_CFG_CMD as it reads (Table 00.2, log 90)
  dataLo  : Word
  fifo    : List Dword
  load    : Option FbLoad
  lastCode : BitVec 4
  frames  : BitVec 12
  scanRegion : BitVec 3
  scanPasses : Half
  scanFor : Nat                 -- time spent in the present pass (R373)
  uclk    : Vector (BitVec 11) 16
  lock    : BitVec 16
  uclkErr : Word
  kio     : Vector (BitVec 6) 64
  pins    : Vector PinOwn 64
  ioVolt  : BitVec 2
  timers  : Vector FbTimer 4
  deriving DecidableEq, Repr

/-! ### Start-up (chapter 17) -/

/-- A memory region descriptor (R408). -/
structure Mrd where
  base   : Word
  limit  : Word
  enable : Bool
  deriving DecidableEq, Repr

/-- The boot sequencer, the resets, the world requests and the power of the domains that no other field holds. -/
structure Boot where
  state   : BitVec 3            -- LL_BOOT_STATUS.state; 0 also while cold reset is held
  held    : Bool                -- the system chip holds cold reset (R390 step 1)
  bistDone : Bool
  releaseSeen : Bool
  slotB   : Bool
  noValid : Bool
  slotCode : Vector (BitVec 3) 2
  seq     : Word
  vector  : Word
  bist    : BitVec 19
  cause   : Word
  header  : List Byte           -- the kept image header (R395)
  llImem  : Memory
  llDmem  : Memory
  pdAon   : Bool
  pdSg    : Bool
  pdLnk   : BitVec 4
  worldBusy : Option (BitVec 2 × BitVec 3 × Bool)
  worldErr : Bool
  worldKind : BitVec 2
  worldIndex : BitVec 3
  partBusy : BitVec 8           -- LL_PART_RESET: the partitions whose reset runs (R404)
  mrdNs   : Vector Mrd 16
  mrdS    : Vector Mrd 16
  deriving DecidableEq, Repr

/-! ### Messages on the core ring (R197, R201 to R205) -/

/-- A transfer of a halo run on its way to a core (R202, R205). start and len: the run's place in the window and its length; off: the
bytes of the run before this piece; runLast: the piece ends its run. sender: the transfer that waits for its acknowledgement. -/
structure HaloRun where
  core  : CoreId
  path  : HaloPath              -- the source as the receiver sees it
  part  : PartId
  seq   : Half
  start : Int
  len   : Nat
  off   : Nat
  data  : List Byte
  runLast : Bool
  unitLast : Bool
  sender : Option (CoreId × ChanId × Nat)
  link  : Option (LinkId × BitVec 12)
  deriving DecidableEq, Repr

/-! ### The whole engine -/

/-- The time that each core has used of its own since base, where the clock stands at upto (log 13): the model's own bookkeeping of cores
that run in parallel while the commands name one at a time. -/
structure Ahead where
  base : Nat
  upto : Nat
  used : Vector Nat 6
  deriving DecidableEq, Repr

/-- The state of the engine. The first five fields are the model's own: the queue of waiting commands, the index of the
next free value (log 7), the data of the last read (log 8), the clock (log 3), whether the system chip answers the next page
walk's read with an error (log 8). The messages and runs on the core ring follow. -/
structure State where
  pending : List Instr
  ahead   : Ahead
  freeCtr : Nat
  busData : Dword
  time    : Nat
  walkErr : Bool
  haloMsgs : List HaloMsg
  haloRuns : List HaloRun
  grade   : Grade
  bnd     : Boundary
  sg      : Sg
  cores   : Vector Core 6
  dram    : Memory
  staging : Memory
  host    : HostSide
  tick    : Tick
  safety  : Safety
  links   : Links
  fabric  : Fabric
  boot    : Boot
  deriving DecidableEq, Repr

/-! ### The state after reset: the system chip holds cold reset (R390 step 1) -/

/-- A set of 64 registers, each 0. -/
def resetSets : Vector (Vector Word 64) 4 := Vector.replicate 4 (Vector.replicate 64 0)

def StrmPort.reset : StrmPort :=
  { ctrl := 0, ring := 0, credits := 0, wpos := 0, lastFrame := 0, inFrame := false, cfgErr := false, drop := 0, held := [] }

def Boundary.reset : Boundary :=
  { gintStatus := 0, gintEnable := 0, strm := Vector.replicate 4 StrmPort.reset, throttle := 0, thrNext := none,
    tempC := 0, warnC := 0x69, warn := false, vofsCode := 0, vofsAck := 0, timedOut := false, vofsFrom := 0,
    ktickLast := none, kroot := false, krootPin := false, ksafeA := false, ksafeB := false }

/-- Staging regions 0 and 1 read 0x28 (Lamplighter, boot), the others 0 (Table 08.7). -/
def Sg.reset : Sg :=
  { cls := Vector.replicate 4 0x100, cap := Vector.replicate 8 0, lock := false, bytes := Vector.replicate 8 0,
    bytesRem := Vector.replicate 8 0,
    window := Vector.replicate 8 0, issued := 0,
    regions := Vector.ofFn (fun r : Fin 16 =>
      if r.val < 2 then { owner := 8, secure := false, boot := true } else { owner := 0, secure := false, boot := false }) }

def Grid.reset : Grid := { steps := Vector.replicate 64 0, owed := Vector.replicate 8 0, swap := none }

def BankUse.reset : BankUse :=
  { weights := Vector.replicate 8 0, acc := Vector.replicate 32 0, lines := Vector.replicate 16 0,
    halos := Vector.replicate 16 0, refused := 0, wrote := 0, fed := 0 }

def ArrayUnit.reset : ArrayUnit :=
  { retired := false, powered := false, staged := 0, mapNow := 0, plane := none, invalid := 0, grid := Grid.reset }

def Resume.reset : Resume := { valid := false, replay := false, set := 0, mask := 0, mRes := 0, pos := 0 }

/-- The stem cursor seeks (R125: MX_STEM_STATUS reads 0x0002_0000). -/
def StemCursor.reset : StemCursor :=
  { port := 0, seeking := true, s0 := 0, frame := 0, received := 0, released := 0,
    hunt := false, drain := false }

def Mx.reset : Mx :=
  { sets := resetSets, taken := none, started := [], nextOrd := 0, load := none, run := none, flight := [], outq := [],
    stop := .none, stopMask := 0, stopAt := 0, stopReplay := false, stopped := false, replay := none, replays := 0, resume := Resume.reset,
        resumed := none, redo := none, passIdx := 0,
    curSet := 0, sat := 0, rows := 0, zeros := 0, stallFeed := 0, stallDrain := 0, stallLoad := 0,
    frozen := 0, throttled := 0, swapWait := 0, stallMap := 0, replayCnt := 0, faultInfo := 0,
    cursor := StemCursor.reset, stemSkip := 0, stemWait := 0 }

def Vec.reset : Vec :=
  { sets := resetSets, taken := none, run := none, parked := none, snuff := false, curSet := 0, elems := 0,
    resume := Resume.reset, faultCause := 0, faultRow := 0 }

def DxChan.reset : DxChan :=
  { waiting := none, run := none, parked := none, snuff := false,
    resume := { valid := false, set := 0, credHeld := false, run := 0 }, pos := 0 }

def Dx.reset : Dx :=
  { sets := resetSets, chans := Vector.replicate 4 DxChan.reset, fault := 0, bytesExt := 0, extRem := 0, xfers := 0, credWait := 0 }

def HaloBuf.reset : HaloBuf :=
  { ctrl := 0, win := 0, seqStart := 0, nextSeq := 0, held := 0, part := false, err := false, dead := false, lost := false }

def Halo.reset : Halo :=
  { bufs := Vector.replicate 4 HaloBuf.reset, tmo := 0, drop := 0, last := 0, credNext := 0, credPrev := 0,
    credEng := Vector.replicate 32 0, openNext := false, openPrev := false, openEng := 0 }

def EngQueue.reset : EngQueue :=
  { slots := [], wptrA := 0, wptrB := 0, fptrA := 0, fptrB := 0, ignoring := false, overrun := 0, rewinds := 0,
    ignored := 0, commits := 0 }

def Ctl.reset : Ctl :=
  { running := false, job := 0, part := 0, tag := 0, wait := .none, waitFrom := 0, addr := 0, seg := none, active := false,
    ready := false, seen := false, actWr := 0, target := 0, ended := false, overran := false }

def Fx.reset : Fx :=
  { sets := resetSets, taken := none, run := none, parked := none, abort := false, abortAt := 0, abortTill := 0, errAt := none, curSet := 0,
    resumeValid := false, resumeSet := 0, faultInfo := 0, inCount := 0, outCount := 0, spurious := 0 }

/-- An empty range-monitor entry (R155). -/
def emptyRange : Word × Word := (0x7FFFFFFF, 0x80000000)

/-- P0 holds every slot, token counter and set (R133, R250, R263). -/
def resetAllocs : Vector Alloc 8 :=
  Vector.ofFn (fun p : Fin 8 =>
    if p.val = 0 then { accBase := 0, accCount := 8, tokBase := 0, tokCount := 64, setBase := 0, setCount := 4 }
    else { accBase := 0, accCount := 0, tokBase := 0, tokCount := 0, setBase := 0, setCount := 0 })

/-- A core as cold reset leaves it, unpowered. -/
def Core.cold : Core :=
  { ctrlReq := 0, retired := false, secure := false, powered := false, retained := false, phase := .live,
    halt := { addr := 0, info := 0, detail := 0, second := 0, time := 0 }, arrays := Vector.replicate 4 ArrayUnit.reset,
    mx := Mx.reset, vx := Vec.reset, wx := Vec.reset, rm := Vector.replicate 512 emptyRange, sc := Vector.replicate 16 0,
    dx := Dx.reset, halo := Halo.reset, queues := Vector.replicate 5 EngQueue.reset, toks := Vector.replicate 64 0,
    allocs := resetAllocs,
    owners := { acc := Vector.replicate 8 0, tok := Vector.replicate 64 0, set := Vector.replicate 4 0 }, ctl := Ctl.reset,
        bankSeg := Vector.replicate 2 none, fx := Fx.reset, lamp := .idle, lampNext := none, lampOwn := false, lampBad := 0,
    mem := { core := [], acc := [], wbuf := [], curve := [], dmem := [], bank0 := [], bank1 := [] }, bankUse := BankUse.reset, stall := [],
    cyc := 0, enabled := 0, level := 0 }

def Mailbox.reset : Mailbox :=
  { req := Vector.replicate 16 0, rep := Vector.replicate 16 0, busy := false, replyValid := false, overrun := false }

/-- A partition: P0 is enabled and holds everything, the others nothing (R263). -/
def Partition.cold (p : PartId) : Partition :=
  { enabled := p.val = 0, secure := false, fenceQuota := if p.val = 0 then 4095 else 0, tagBase := 0,
    tagCount := if p.val = 0 then 16384 else 0, queueQuota := if p.val = 0 then 256 else 0, mbox := Mailbox.reset,
    intStatus := 0, intEnable := 0, dbReject := 0, qSel := 0, frBase := 0, frCtrl := 0, frHead := 0, frTail := 0,
    frLost := 0, fsigId := 0, fsigErr := false, fsigLo := 0, fenceStale := 0, fsigReject := 0, tagSel := 0, tlbVa := 0 }

def ProgSlot.reset : ProgSlot := { count := 0, asid := 0, part := none, package := [], va := 0, store := 0 }

def HostSide.cold : HostSide :=
  { parts := Vector.ofFn Partition.cold, smBox := Mailbox.reset, smIntStatus := 0, smIntEnable := 3, sent := [],
    asids := [], tlb := [], tlbInv := [], queues := [], tags := [], fences := [], regs := [], proxies := [], jobs := [],
    nextJob := 1, slots := Vector.replicate 64 ProgSlot.reset, verify := none, genCount := 0,
    rrLast := Vector.replicate 8 0, portErr := [], owed := [], performed := [], refused := [] }

def EntryRun.reset : EntryRun := { state := .invalid, elapsed := 0, since := 0, full := false }

/-- TK_CTRL reads 0x103, TK_PERIOD 40,000 (Table 13.6). -/
def Tick.cold : Tick :=
  { ctrl := 0x103, period := 40000, state := .stopped, count := 0, last := 0, raised := [], early := 0, synth := 0,
    gutters := 0, linkComp := 0, pendCfg := none, active := Vector.replicate 64 0, shadow := Vector.replicate 64 0,
    commit := none, runs := Vector.replicate 64 EntryRun.reset, implicit := EntryRun.reset, short := 0, gated := 0,
    binPend := none, binDue := false, relock := none, subAt := 0 }

/-- The twin map after reset, by grade (Table 14.8). -/
def dualMapReset : Grade → BitVec 18
  | .s96 => 0x2521A
  | .s94 => 0x3F21A
  | .s92 => 0x3FFC1

def Safety.cold (g : Grade) : Safety :=
  { stopReq := false, stopped := false, cause := 0, toggling := false, fcCount := Vector.replicate 6 0, corr := 0,
    dualMap := dualMapReset g, dualFail := 0, cwdg := 0, clkSup := 0, intStatus := 0, intEnable := 0xF,
    lampSig := Vector.replicate 24 0, marginCfg := 0x0E100514, marginCode := 0, bin := 0, exhausted := false, forcing := 0, lastRun := 0,
    plannerDue := false, planStep := none, fresh := 0, slack := Vector.replicate 44 { now := 0xFF, low := 0xFF, ring := 0, sinceRun := 0xFF },
    log := Vector.replicate 64 0, logHead := 0, seq := 0, engTimes := [], fatal := false, lampPass := false,
    lampOk := Vector.replicate 24 0, lampArmed := 0, toggledAt := none, aliveAt := Vector.replicate 6 none, poison := [],
    corrected := [], scrubAt := [], uncorrAt := [], duals := [] }

/-- A port has 64 credits of each class (R336). -/
def LinkPort.cold : LinkPort :=
  { secure := false, control := none, state := 0, lanes := 0, laneMask := 0, trainedLanes := 0, neighbour := none, crc := 0, replay := 0, retrain := 0,
    flits := 0, txSeq := 0, buffer := [], sendq := [], credits := Vector.replicate 4 64, rxSeq := 0, nak := false,
    discarding := false, freed := Vector.replicate 4 0, heard := false, hears := false, nakSeq := 0, nakCount := 0, goodAt := 0,
    retrainAt := 0, fails := 0, hbWait := [], haloOut := [] }

def Links.cold : Links :=
  { ports := Vector.replicate 4 LinkPort.cold, sys := 0, primary := false, joinFail := false, addr := 0, epoch := 0,
    members := 0, topo := 0, xm1 := 0, ym1 := 0, count := 0, config := 0, tickSys := 0, enumResult := 0,
    groups := Vector.replicate 16 0, lat := Vector.replicate 32 0, routes := Vector.replicate 32 none,
    paths := Vector.replicate 32 [], farDown := [],
    heardAt := Vector.replicate 32 none, lossFrom := Vector.replicate 32 none, lost := 0, settle := none, hbAt := 0,
    hbSeq := 0, hbSeen := [], pseqTo := Vector.replicate 32 0, pseqFrom := Vector.replicate 32 0, rx := [], sent := [],
    enum := none, groupSet := none, joins := [], joinAt := none, markerDue := none, markerAt := 0, tickFwd := 0 }

/-- Every register of a region's logic at 0. -/
def Logic.cold : Logic :=
  { ffs := [], pipes := [], edges := Vector.replicate 2 { first := 0, second := 0, reg := 0 }, 
    rams := Vector.replicate 96 ({ data := 0, err := false }, { data := 0, err := false }), ranTo := 0 }

def Region.cold : Region :=
  { logic := Logic.cold, async := Vector.replicate 2 false, secure := false, state := 0, powered := false, cmdReady := false, lastCode := 0,
      failFrame := 0, extId := 0,
    clk := 0xFFFFFFFF, loads := 0, bramErr := 0, pinMask := 0, fxLine := 0, bram := [], config := [], crcs := [] }

def FbTimer.reset : FbTimer :=
  { reload := 0, enable := false, since := 0, pulsed := none, use := 0, region := 0, part := 0, ll := false, secure := false }

/-- FB_UCLKn reads 0xC8 (Table 16.15). -/
def Fabric.cold : Fabric :=
  { regions := Vector.replicate 8 Region.cold, cfgRegion := 0, cmd := 0, dataLo := 0, fifo := [], load := none, lastCode := 0,
    frames := 0, scanRegion := 0, scanPasses := 0, scanFor := 0, uclk := Vector.replicate 16 0xC8, lock := 0,
    uclkErr := 0, kio := Vector.replicate 64 0,
    pins := Vector.replicate 64 { use := 0, region := 0, part := 0, secure := false }, ioVolt := 0,
    timers := Vector.replicate 4 FbTimer.reset }

def Boot.cold : Boot :=
  { state := 0, held := true, bistDone := false, releaseSeen := false, slotB := false, noValid := false,
    slotCode := Vector.replicate 2 0, seq := 0, vector := 0, bist := 0, cause := 0, header := [], llImem := [],
    llDmem := [], pdAon := false, pdSg := false, pdLnk := 0, worldBusy := none, worldErr := false, worldKind := 0,
    worldIndex := 0, partBusy := 0, mrdNs := Vector.replicate 16 { base := 0, limit := 0, enable := false },
    mrdS := Vector.replicate 16 { base := 0, limit := 0, enable := false } }

/-- The engine right after reset: an S96 (log 5) held in cold reset, with no command waiting. -/
def State.reset : State :=
  { pending := [], ahead := { base := 0, upto := 0, used := Vector.replicate 6 0 }, freeCtr := 0, busData := 0, time := 0, walkErr := false,
      haloMsgs := [], haloRuns := [], grade := .s96,
    bnd := Boundary.reset, sg := Sg.reset, cores := Vector.replicate 6 Core.cold, dram := [], staging := [],
    host := HostSide.cold, tick := Tick.cold, safety := Safety.cold .s96, links := Links.cold, fabric := Fabric.cold,
    boot := Boot.cold }

end Sys2Proof.Machine
end

