-- ==== Sys2Proof/Machine/Ops.lean ====
section
/-! DEFINITION. Machine/Ops.lean: the operations that every chapter uses: time, presence and service of units (R1, R325,
R407), register sets, updates of one core, one partition or one port, token counters (R232 to R236), world checks of the
memory port (R408) and address translation (R271 to R273). -/
namespace Sys2Proof.Machine
open Sys2Proof

/-! ### Time (log 3) -/

/-- A time of n microseconds in units of 1/232,560 ns. -/
def us (n : Nat) : Nat := n * 232560000
/-- A time of n nanoseconds. -/
def nsec (n : Nat) : Nat := n * 232560
/-- The array-clock period of a clock bin (R33: 1.00, 0.95, 0.90, 0.85, 0.80 GHz). -/
def binPeriod (b : BitVec 3) : Nat :=
  match b.toNat with
  | 0 => 232560 | 1 => 244800 | 2 => 258400 | 3 => 273600 | _ => 290700
/-- The CK_TICK count in microseconds since cold start (Table 14.2). -/
def nowUs (s : State) : Nat := s.time / 232560000
/-- Time does not run backwards: a timed event moves the clock to its time. -/
def atTime (t : Nat) (s : State) : State := { s with time := max s.time t }

/-! ### Presence and service -/

/-- Cores of a grade (Table 00.1). -/
def coreCount : Grade → Nat
  | .s96 => 6 | .s94 => 4 | .s92 => 2
/-- Whether a grade has the core. -/
def corePresent (g : Grade) (c : CoreId) : Bool := decide (c.val < coreCount g)
/-- Whether a grade has array a in its cores. -/
def arrayPresent (g : Grade) (a : ArrId) : Bool := decide (g ≠ .s92) || decide (a.val < 2)
/-- Whether a grade has the fabric region. -/
def regionPresent (g : Grade) (z : RegionId) : Bool :=
  match g with
  | .s96 => true | .s94 => decide (z.val < 4) | .s92 => false
/-- Whether a grade has the link port. -/
def linkPresent (g : Grade) (l : LinkId) : Bool :=
  match g with
  | .s96 => true | .s94 => decide (l.val < 2) | .s92 => false
/-- Whether a grade has the stream port. -/
def streamPresent (g : Grade) (n : StreamId) : Bool := decide (g ≠ .s92) || decide (n.val < 2)

/-- Whether a scrub for a world change runs on a block (R407): kind 0 core, 1 region, 2 port. -/
def scrubbing (s : State) (kind index : Nat) : Bool :=
  match s.boot.worldBusy with
  | some (k, i, _) => decide (k.toNat = kind) && decide (i.toNat = index)
  | none => false

/-- A core that is present, not retired and not under a scrub (R325, R407). -/
def inService (s : State) (c : CoreId) : Bool :=
  corePresent s.grade c && !(s.cores[c]).retired && !(scrubbing s 0 c.val)

/-- An array that is present and not retired, on a core in service. -/
def arrayInService (s : State) (c : CoreId) (a : ArrId) : Bool :=
  inService s c && arrayPresent s.grade a && !((s.cores[c]).arrays[a]).retired

/-- The cores in service, ascending. -/
def coresInService (s : State) : List CoreId := (List.finRange 6).filter (fun c => inService s c)

/-- A core that stands in the ring: neither fused off nor retired (R197). -/
def inRing (s : State) (c : CoreId) : Bool := corePresent s.grade c && !(s.cores[c]).retired

/-- The core after c in the ring, itself where it is alone (R197). -/
def ringNext (s : State) (c : CoreId) : CoreId :=
  ((((List.finRange 6).filter (fun d => decide (c < d))) ++ List.finRange 6).filter (fun d => inRing s d)).headD c

/-- The core before c in the ring (R197). -/
def ringPrev (s : State) (c : CoreId) : CoreId :=
  ((((List.finRange 6).filter (fun d => decide (d < c))).reverse ++ (List.finRange 6).reverse).filter
    (fun d => inRing s d)).headD c

/-! ### Updates of one unit -/

/-- Change one core. -/
def modCore (c : CoreId) (f : Core → Core) (s : State) : State := { s with cores := updAt s.cores c f }
/-- Change one partition. -/
def modPart (p : PartId) (f : Partition → Partition) (s : State) : State :=
  { s with host := { s.host with parts := updAt s.host.parts p f } }
/-- Change one stream port. -/
def modPort (n : StreamId) (f : StrmPort → StrmPort) (s : State) : State :=
  { s with bnd := { s.bnd with strm := updAt s.bnd.strm n f } }
/-- Change one link port. -/
def modLink (l : LinkId) (f : LinkPort → LinkPort) (s : State) : State :=
  { s with links := { s.links with ports := updAt s.links.ports l f } }
/-- Change one fabric region. -/
def modRegion (z : RegionId) (f : Region → Region) (s : State) : State :=
  { s with fabric := { s.fabric with regions := updAt s.fabric.regions z f } }
/-- Change the matrix engine of a core. -/
def modMx (c : CoreId) (f : Mx → Mx) (s : State) : State := modCore c (fun k => { k with mx := f k.mx }) s
/-- Change one channel of a core's data mover. -/
def modChan (c : CoreId) (ch : ChanId) (f : DxChan → DxChan) (s : State) : State :=
  modCore c (fun k => { k with dx := { k.dx with chans := updAt k.dx.chans ch f } }) s
/-- Change the job of a number. -/
def modJob (id : Nat) (f : Job → Job) (s : State) : State :=
  { s with host := { s.host with jobs := s.host.jobs.map (fun j => if j.id = id then f j else j) } }
/-- The started job of a number. -/
def findJob (s : State) (id : Nat) : Option Job := s.host.jobs.find? (fun j => decide (j.id = id))
/-- Change the submission queue of a number. -/
def modQueue (q : Nat) (f : HostQueue → HostQueue) (s : State) : State :=
  { s with host := { s.host with queues := s.host.queues.map (fun h => if h.qid = q then f h else h) } }
/-- The submission queue of a number. -/
def findQueue (s : State) (q : Nat) : Option HostQueue := s.host.queues.find? (fun h => decide (h.qid = q))

/-- Apply a step for each member of a list. -/
def forAll {α : Type} (l : List α) (f : α → State → State) (s : State) : State := l.foldl (fun s x => f x s) s

/-- Set global interrupt causes (R18). -/
def setGint (mask : BitVec 12) (s : State) : State :=
  { s with bnd := { s.bnd with gintStatus := s.bnd.gintStatus ||| mask } }
/-- Set interrupt causes of a partition (Table 12.12). -/
def setPtInt (p : PartId) (mask : BitVec 5) (s : State) : State :=
  modPart p (fun x => { x with intStatus := x.intStatus ||| mask }) s
/-- Set causes of the secure mailbox (R414): bit 0 reply, bit 1 security fault. -/
def setSmInt (mask : BitVec 2) (s : State) : State :=
  { s with host := { s.host with smIntStatus := s.host.smIntStatus ||| mask } }
/-- Set KINT_SAFE causes (R415). -/
def setSfInt (mask : BitVec 5) (s : State) : State :=
  { s with safety := { s.safety with intStatus := s.safety.intStatus ||| mask } }

/-- A memory has finished a scrub pass; its initialisation counts as one (Table 14.8, SF_SCRUB_STATUS). -/
def finishScrub (m : MemName) (s : State) : State :=
  { s with safety := { s.safety with scrubAt := (m, s.time) :: s.safety.scrubAt.filter (fun x => decide (x.1 ≠ m)) } }

/-! ### Uncorrectable words (R320) -/

/-- Whether a memory is of a core. -/
def ofCore (c : CoreId) (m : MemName) : Bool :=
  match m with
  | .core d => decide (d = c) | .acc d => decide (d = c) | .wbuf d => decide (d = c) | .curve d => decide (d = c)
  | .dmem d => decide (d = c) | .bank d _ => decide (d = c) | _ => false

/-- Whether a read of n bytes of a memory from a on meets a word with poison check bits. -/
def meetsPoison (s : State) (m : MemName) (a n : Nat) : Bool :=
  decide (0 < n) && s.safety.poison.any (fun x => decide (x.1 = m) && decide (a < x.2 + 8) && decide (x.2 < a + n))

/-- Writes of ranges, each an address and a length, in one cycle: a word that they write whole loses its poison. -/
def freshWords (m : MemName) (ranges : List (Nat × Nat)) (s : State) : State :=
  let whole (off : Nat) : Bool := (List.range 8).all (fun i =>
    ranges.any (fun r => decide (r.1 ≤ off + i) && decide (off + i < r.1 + r.2)))
  { s with safety := { s.safety with poison := s.safety.poison.filter (fun x => !(decide (x.1 = m) && whole x.2)) } }

/-- The capability table changes (R293). -/
def bumpGen (s : State) : State := { s with host := { s.host with genCount := s.host.genCount + 1 } }

/-- VOFS_CODE moves one step from the acknowledged value towards the margin table's code (R26, R399). -/
def vofsStep (s : State) : State :=
  let ack := s.bnd.vofsAck
  if ack = s.safety.marginCode then { s with bnd := { s.bnd with vofsCode := ack } }
  else { s with bnd := { s.bnd with vofsCode := if ack < s.safety.marginCode then ack + 1 else ack - 1, vofsFrom := s.time } }

/-- The next free value is read: the counter advances (log 7). -/
def takeFree (n : Nat) (s : State) : List Byte × State :=
  ((List.range n).map (fun i => Config.freeByte (s.freeCtr + i)), { s with freeCtr := s.freeCtr + n })

/-- Core c takes a time of its own (R304, log 13): cores run in parallel, so the clock stands at the latest of those that have run since
it was last moved otherwise. -/
def spend (c : CoreId) (d : Nat) (s : State) : State :=
  let a : Ahead := if s.time = s.ahead.upto then s.ahead else { base := s.time, upto := s.time, used := Vector.replicate 6 0 }
  let n := a.used[c] + d
  let t := max a.upto (a.base + n)
  { s with time := t, ahead := { a with upto := t, used := a.used.set c n } }

/-- Parts of core c that run at the same time, one after another in the model: together they take what the longest takes. -/
def together (c : CoreId) (fs : List (State → State)) (s : State) : State :=
  let s := spend c 0 s
  let from_ := s.ahead.used[c]
  let at_ (n : Nat) (s : State) : State := { s with ahead := { s.ahead with used := s.ahead.used.set c n } }
  let r := fs.foldl (fun (x : State × Nat) f => let t := f (at_ from_ x.1); (t, max x.2 t.ahead.used[c])) (s, from_)
  at_ r.2 r.1

/-! ### The lamp test of a core (R307) -/

/-- A lamp test becomes due on a core: a tick's, or with deferUs 0 one before the next command (R323). A tick's goes in place of the other; a
test of some arrays that is under way (R104, R308) ends first; a tick's test already due or under way stands. -/
def lampDue (t deferUs : Nat) (k : Core) : Core :=
  match k.lamp with
  | .idle => { k with lamp := .due t deferUs }
  | .due _ 0 => { k with lamp := .due t deferUs }
  | .running _ _ false => { k with lampNext := if deferUs = 0 ∧ k.lampNext.isSome then k.lampNext else some (t, deferUs) }
  | _ => k

/-- A test is over; a tick's test that waited for it is due. -/
def lampOver (k : Core) : Core :=
  match k.lampNext with
  | some (t, d) => { k with lamp := .due t d, lampNext := none }
  | none => { k with lamp := .idle }

/-! ### Error responses on the host's accesses (R22) -/

/-- Whether the next access of a kind meets an error response, which is then used up. -/
def meetsErr (x : MemSite) (s : State) : Bool × State :=
  if x ∈ s.host.portErr then (true, { s with host := { s.host with portErr := s.host.portErr.erase x } }) else (false, s)

/-! ### Register sets -/

/-- The register of a set at a byte offset. -/
def reg (v : Vector Word 64) (off : Nat) : Word := v[off / 4]?.getD 0
/-- Change the register of a set at index i, below 64. -/
def setReg (v : Vector Word 64) (i : Nat) (w : Word) : Vector Word 64 := v.setIfInBounds i w

/-! ### Memory banks held by other units (R86, R189) -/

/-- The pieces of a unit size that bytes a to a + n - 1 touch, by number. -/
def pieces (unit a n : Nat) : List Nat :=
  if n = 0 then [] else (List.range ((a + n - 1) / unit + 1 - a / unit)).map (fun i => a / unit + i)
/-- Each listed bank is held for one more cycle per mention. -/
def addUse {n : Nat} (v : Vector Nat n) (l : List Nat) : Vector Nat n := Vector.ofFn (fun i => v[i] + l.count i.val)
/-- A cycle passes. -/
def passUse {n : Nat} (v : Vector Nat n) : Vector Nat n := v.map (fun x => x - 1)
/-- A data-mover access takes each accumulator bank it touches, 16 columns a cycle (R86, log 78). -/
def useAcc (a n : Nat) (k : Core) : Core :=
  { k with bankUse := { k.bankUse with
      acc := addUse k.bankUse.acc ((pieces 64 a n).map (fun q => 8 * (q / 8192 % 4) + q % 8)) } }
/-- A camera line's beats take the write ports of core-memory banks: a header, then 32 payload bytes each (R121, R189). -/
def useLines (a n : Nat) (k : Core) : Core :=
  let beats := (List.range (ceilDiv n 32)).flatMap (fun i => pieces 128 (a + 16 + 32 * i) (min 32 (n - 32 * i)))
  { k with bankUse := { k.bankUse with lines := addUse k.bankUse.lines ((a / 128 :: beats).map (fun q => q % 16)) } }
/-- An inbound halo run takes the write port of each core-memory bank it writes (R189). -/
def useHalos (a n : Nat) (k : Core) : Core :=
  { k with bankUse := { k.bankUse with halos := addUse k.bankUse.halos ((pieces 128 a n).map (fun q => q % 16)) } }
/-- One array-clock cycle of the ports. -/
def passBanks (u : BankUse) : BankUse :=
  { u with weights := passUse u.weights, acc := passUse u.acc, lines := passUse u.lines, halos := passUse u.halos }

/-! ### Token counters and sets (R232 to R236) -/

/-- The physical counter of a logical one, where the partition holds it. -/
def physTok (a : Alloc) (t : Nat) : Option TokId :=
  if t < a.tokCount.toNat ∧ a.tokBase.toNat + t < 64 then some (fin 64 (a.tokBase.toNat + t)) else none

/-- The physical set of a logical one, where the partition holds it. -/
def physSet (a : Alloc) (n : Nat) : Option SetId :=
  if n < a.setCount.toNat ∧ a.setBase.toNat + n < 4 then some (fin 4 (a.setBase.toNat + n)) else none

/-- The logical number of a physical counter in a partition's range. -/
def logTok (a : Alloc) (t : TokId) : Nat := t.val - a.tokBase.toNat

/-- The jobs of which a core is part. -/
def jobsOn (s : State) (c : CoreId) : List Job :=
  s.host.jobs.filter (fun j => j.cores.any (fun x => decide (x.core = c)))

/-- The cores of a candle-table entry's mask; under the implicit entry every core in service (R237, R300). -/
def entryCores (s : State) (e : Option Nat) : List CoreId :=
  match e with
  | none => coresInService s
  | some n => (List.finRange 6).filter (fun c => bitAt ((s.tick.active[n]?).getD 0) (4 + c.val))

/-- The cores of a candle group, by its entry's number, 64 the implicit entry's (R237). -/
def groupCores (s : State) (g : Nat) : List CoreId := entryCores s (if g < 64 then some g else none)

/-- A progress event of R238 in core c: the stall count of every group with this core returns to zero. -/
def progress (c : CoreId) (s : State) : State :=
  let stands (x : Nat × Nat) : Bool := !(decide (c ∈ groupCores s x.1))
  { s with cores := s.cores.map (fun k => { k with stall := k.stall.filter stands }) }

/-- The value of a counter. -/
def tok (s : State) (c : CoreId) (t : TokId) : Half := ((s.cores[c]).toks)[t]
/-- Write a counter; a change is a progress event. -/
def setTok (c : CoreId) (t : TokId) (v : Half) (s : State) : State :=
  progress c (modCore c (fun k => { k with toks := k.toks.set t v }) s)
/-- Decrement a counter that reads at least 1 (R235, R236). -/
def decTok (c : CoreId) (t : TokId) (s : State) : State :=
  if tok s c t = 0 then s else setTok c t (tok s c t - 1) s

/-! ### The memory port (R19, R408) -/

/-- The channel of the memory port to which a 4 KiB piece of system-physical address goes (R19). -/
def mportChannel (spa : Nat) : BitVec 3 := BitVec.ofNat 3 (fld (BitVec.ofNat 64 spa) 12 3 ^^^ fld (BitVec.ofNat 64 spa) 15 3)

/-- The end of the system-physical address space (R19). -/
def spaEnd : Nat := 2 ^ 44

/-- Whether a page lies inside an enabled descriptor (R408). -/
def mrdHolds (d : Mrd) (page : Nat) : Bool :=
  d.enable && decide (d.base.toNat ≤ page) && decide (page ≤ d.limit.toNat)

/-- Whether the descriptors refuse a non-secure access at an address (R408). -/
def mrdRefuses (s : State) (secure : Bool) (spa : Nat) : Bool :=
  let page := spa / 4096
  !secure && (s.boot.mrdS.toList.any (fun d => mrdHolds d page) ||
    (s.boot.mrdNs.toList.any (fun d => d.enable && decide (d.base.toNat ≤ d.limit.toNat)) &&
      !(s.boot.mrdNs.toList.any (fun d => mrdHolds d page))))

/-! ### Translation (R271 to R273) -/

/-- Why a translation fails: the halt code, its kind, and whether it also logs a security fault. -/
structure TransErr where
  code : Byte
  kind : Nat
  security : Bool
  deriving DecidableEq, Repr

/-- The outcome of a translation: an address, with the world that the access carries to the interconnect (R272), or a failure. -/
inductive Trans where
  | ok (spa : Nat) (world : Bool)
  | err (e : TransErr)
  deriving DecidableEq, Repr

/-- A page-table entry, its reserved fields zero (Table 12.5). -/
def pteReserved (e : Nat) : Bool := decide ((e >>> 4) % 256 ≠ 0) || decide (e >>> 44 ≠ 0)
/-- The address field of an entry. -/
def pteAddr (e : Nat) : Nat := (e >>> 12) % 2 ^ 32 * 4096

/-- What a leaf says of one page: its address, whether it may be written, its world. -/
structure PageLeaf where
  spa  : Nat
  write : Bool
  secure : Bool
  deriving DecidableEq, Repr

/-- The kind with which a walk fails on an entry with n levels below it (R271). An entry that is not valid fails so whatever its reserved
fields hold (log 96). -/
def pteFault (n e : Nat) : Option Nat :=
  let leaf := e.testBit 1
  if ¬ e.testBit 0 then some 1
  else if pteReserved e ∨ (leaf ∧ 2 ≤ n) ∨ (¬ leaf ∧ n = 0) ∨ (leaf ∧ n = 1 ∧ (e >>> 12) % 512 ≠ 0) then some 3
  else none

/-- The cached entry of a page with n levels below it (R273). -/
def cachedPte (s : State) (asid page n : Nat) : Option TlbEntry :=
  s.host.tlb.find? (fun t => decide (t.asid = asid) && decide (t.below = n) && decide (t.index = page / 512 ^ n))

/-- The walk from a table at level 4 - n (R271), over cached entries where there are any (R273): the leaf or the failure, and the entries that it
has read. A read that the system chip answers with an error fails it (R22). -/
def walk (s : State) (secure : Bool) (asid page : Nat) : Nat → Nat → Except TransErr PageLeaf × List TlbEntry
  | 0, _ => (.error ⟨0x0D, 3, false⟩, [])
  | n + 1, table =>
    let at_ := table + 8 * (page / 512 ^ n % 512)
    let old := cachedPte s asid page n
    if old.isNone ∧ mrdRefuses s secure at_ then (.error ⟨0x0D, 3, true⟩, [])
    else if old.isNone ∧ s.walkErr then (.error ⟨0x0D, 3, false⟩, [])
    else
      let t := old.getD { asid := asid, below := n, index := page / 512 ^ n, entry := memNat s.dram at_ 8 }
      let new := if old.isNone then [t] else []
      match pteFault n t.entry with
      | some kind => (.error ⟨0x0D, kind, false⟩, [])
      | none =>
        if t.entry.testBit 1 then
          (.ok { spa := pteAddr t.entry + (if n = 1 then page % 512 * 4096 else 0), write := t.entry.testBit 2, secure := t.entry.testBit 3 }, new)
        else let r := walk s secure asid page n (pteAddr t.entry); (r.1, new ++ r.2)

/-- The root table of an attached ASID. -/
def rootOf (s : State) (asid : Nat) : Option Attach := s.host.asids.find? (fun a => decide (a.asid = asid))

/-- The leaf for a page by the walk from its ASID's root. The entries that the walk has read are cached (R273, log 63); a pending error response
is used up by the walk that it has failed. -/
def leafOf (s : State) (secure : Bool) (asid page : Nat) : Except TransErr PageLeaf × State :=
  match rootOf s asid with
  | none => (.error ⟨0x0D, 1, false⟩, s)
  | some a =>
    let r := walk s secure asid page 4 a.root
    let failed := match r.1 with | .error e => decide (e.kind = 3) && !e.security | .ok _ => false
    (r.1, { s with walkErr := s.walkErr && !failed, host := { s.host with tlb := r.2 ++ s.host.tlb } })

/-- Translate a device virtual address for a queue of a world (R271, R272, R408). The world of the leaf is checked before
its write permission. -/
def translate (s : State) (secure : Bool) (asid va : Nat) (write : Bool) : Trans × State :=
  let r := leafOf s secure asid (va % 2 ^ 48 / 4096)
  match r.1 with
  | .error e => (.err e, r.2)
  | .ok t =>
    if t.secure ∧ ¬ secure then (.err ⟨0x0E, 5, true⟩, r.2)
    else if write ∧ ¬ t.write then (.err ⟨0x0D, 2, false⟩, r.2)
    else
      let spa := t.spa + va % 4096
      if mrdRefuses r.2 secure spa then (.err ⟨0x0E, 3, true⟩, r.2) else (.ok spa t.secure, r.2)

/-- The descriptors have refused an access of the host side: its security fault is still to be logged (R408, log 97). -/
def noteRefused (asid va : Nat) (s : State) : State :=
  { s with host := { s.host with refused := s.host.refused ++ [((rootOf s asid).elim 0xFF (fun a => a.part.val), va)] } }

/-- Read n bytes at a virtual address page by page; none where a page fails. -/
def readVa (s : State) (secure : Bool) (asid : Nat) : Nat → Nat → Nat → Option (List Byte) × State
  | _, _, 0 => (some [], s)
  | 0, _, _ => (none, s)
  | fuel + 1, va, n =>
    let m := min n (4096 - va % 4096)
    match translate s secure asid va false with
    | (.err e, s') => (none, if e.security then noteRefused asid va s' else s')
    | (.ok spa _, s') =>
      match readVa s' secure asid fuel (va + m) (n - m) with
      | (none, s'') => (none, s'')
      | (some bs, s'') => (some (memBytes s''.dram spa m ++ bs), s'')

/-- n bytes at a virtual address (n below 2^25). -/
def readBytes (s : State) (secure : Bool) (asid va n : Nat) : Option (List Byte) × State :=
  readVa s secure asid (n / 4096 + 2) va n

/-- Read n bytes for an access of a kind; none also where it meets an error response. -/
def readFor (x : MemSite) (s : State) (secure : Bool) (asid va n : Nat) : Option (List Byte) × State :=
  match meetsErr x s with
  | (true, s) => (none, s)
  | (false, s) => readBytes s secure asid va n

/-! ### External writes under way (R20) -/

/-- Whether two lists of external writes share a 64-byte granule. -/
def granulesMeet (v w : List (Nat × List Byte)) : Bool :=
  v.any (fun a => w.any (fun b =>
    decide (a.1 / 64 < ceilDiv (b.1 + b.2.length) 64) && decide (b.1 / 64 < ceilDiv (a.1 + a.2.length) 64)))

/-- The transfers of the whole engine that are under way. -/
def dxUnderWay (s : State) : List DxXfer :=
  s.cores.toList.flatMap (fun k => k.dx.chans.toList.flatMap (fun x => match x.run with
    | some r => r.out.filter (fun y => !y.acked) | none => []))

/-- Put a transfer where its issue order belongs, latest first. -/
def byLatest (x : DxXfer) : List DxXfer → List DxXfer
  | [] => [x]
  | y :: l => if x.ord < y.ord then y :: byLatest x l else x :: y :: l

/-- Whether a transfer's external writes wait to be performed. -/
def writesWait (s : State) (x : DxXfer) : Bool :=
  decide (x.target = .ext) && !x.landed && decide (x.err = 0) && decide (x.ord ∉ s.host.performed)

/-- The waiting writes, issued before a bound, that are performed before the writes w: those that meet them, or meet one of these, in the
engine's issue order. -/
def writesBefore (s : State) (bound : Nat) (w : List (Nat × List Byte)) : List DxXfer :=
  (((dxUnderWay s).filter (fun y => writesWait s y && decide (y.ord < bound))).foldr byLatest []).foldl (fun l y =>
    if granulesMeet y.writes w ∨ l.any (fun x => granulesMeet y.writes x.writes) then y :: l else l) []

/-- Before a write of the engine, earlier writes of its granules are performed. -/
def performBefore (spa : Nat) (bs : List Byte) (s : State) : State :=
  let l := writesBefore s s.sg.issued [(spa, bs)]
  { s with
    dram := (l.flatMap (fun x => x.writes)).foldl (fun m w => memStore m w.1 w.2) s.dram
    host := { s.host with
        performed := (s.host.performed ++ l.map (fun x => x.ord)).filter (fun o => (dxUnderWay s).any (fun x => decide (x.ord = o))) } }

/-- Store bytes at a system-physical address. -/
def storeSpa (spa : Nat) (bs : List Byte) (s : State) : State := { s with dram := memStore s.dram spa bs }

/-- Store bytes behind the earlier writes of their granules (R20). -/
def storeAfter (spa : Nat) (bs : List Byte) (s : State) : State := storeSpa spa bs (performBefore spa bs s)

/-- A write that meets an error response: its 64-byte granule holds free bytes (R22). -/
def spoilSpa (spa : Nat) (s : State) : State :=
  let f := takeFree 64 s
  storeSpa (spa / 64 * 64) f.1 f.2

/-- A write of a kind within one granule: whether it is accepted. -/
def writeFor (x : MemSite) (spa : Nat) (bs : List Byte) (s : State) : Bool × State :=
  match meetsErr x s with
  | (true, s) => (false, spoilSpa spa (performBefore spa bs s))
  | (false, s) => (true, storeAfter spa bs s)

end Sys2Proof.Machine
end

