-- ==== Sys2Proof/Machine/Records.lean ====
section
/-! DEFINITION. Machine/Records.lean: fault and event records (R312 to R315), where they go (R313), the fault rings (R292),
the secure log and the class counts (R333, R415), the KSAFE stop (R318) and security faults (R13). -/
namespace Sys2Proof.Machine
open Sys2Proof

/-- The 32 bytes of a record as a number (Table 14.2). -/
def recordBits (r : RecIn) (seq usNow : Nat) : BitVec 256 :=
  BitVec.ofNat 256 ((if r.event then 2 else 1) + r.code * 2 ^ 8 + r.fc * 2 ^ 16 + b2n r.dangerous * 2 ^ 19
    + r.part * 2 ^ 20 + b2n r.job.isSome * 2 ^ 23 + r.unit * 2 ^ 24 + r.index % 256 * 2 ^ 32 + r.sub % 256 * 2 ^ 40
    + seq * 2 ^ 48 + (r.job.getD (0, 0)).1 * 2 ^ 64 + r.halt * 2 ^ 80 + (r.job.getD (0, 0)).2 * 2 ^ 88
    + r.detail % 2 ^ 32 * 2 ^ 96 + r.addr % 2 ^ 64 * 2 ^ 128 + usNow % 2 ^ 64 * 2 ^ 192)

/-- Write a record into a partition's fault ring (R292): dropped and counted where the ring is full or disabled, or where
its address does not translate or its write meets an error response (DEDUCED, log 20). -/
def ringWrite (p : PartId) (bits : BitVec 256) (s : State) : State :=
  let x := s.host.parts[p]
  let n := fld x.frCtrl 8 4
  let lost (s : State) : State := setPtInt p 0b01000 (modPart p (fun x => { x with frLost := satAdd x.frLost 1 }) s)
  if ¬ bitAt x.frCtrl 0 ∨ (x.frHead - x.frTail).toNat = 2 ^ n then lost s
  else
    let va := x.frBase.toNat + 32 * (x.frHead.toNat % 2 ^ n)
    match translate s x.secure (fld x.frCtrl 1 6) va true with
    | (.err e, s) => lost (if e.security then noteRefused (fld x.frCtrl 1 6) va s else s)
    | (.ok spa _, s) =>
      match writeFor .ring spa (leBytes 32 bits.toNat) s with
      | (false, s) => lost s
      | (true, s) => setPtInt p 0b00100 (modPart p (fun x => { x with frHead := x.frHead + 1 }) s)

/-- Both KSAFE pins are driven low and held low; SF_STATUS keeps the first cause (R318). -/
def ksafeStop (code : Nat) (s : State) : State :=
  let s := { s with bnd := { s.bnd with ksafeA := false, ksafeB := false } }
  if s.safety.stopped then s
  else setSfInt 0b00001 { s with safety := { s.safety with
    stopped := true, toggling := false, cause := BitVec.ofNat 8 code } }

/-- The class under which a fault is recorded: a third FC_ENGINE within 10 s of the first is FC_FATAL (R311). -/
def recordedClass (r : RecIn) (s : State) : Nat :=
  if ¬ r.event ∧ r.fc = 4 then
    if 2 ≤ (s.safety.engTimes.filter (fun t => decide (nowUs s ≤ t + 10000000))).length then 5 else 4
  else r.fc

/-- The KINT_SAFE causes that a record sets (R415). -/
def recordCauses (r : RecIn) (fc : Nat) : BitVec 5 :=
  (if ¬ r.event ∧ (2 ≤ fc ∨ r.dangerous) then 0b00010 else if r.event ∧ (r.code = 1 ∨ r.code = 2) then 0b00100
   else if ¬ r.event ∧ r.code = 6 then 0b01000 else 0b10000)

/-- Write a record: its rings, the secure log, the class count, the interrupt causes, the KSAFE stop (R311, R313, R318). -/
def postRecord (r : RecIn) (s : State) : State :=
  let fc := recordedClass r s
  let bits := recordBits { r with fc := fc } s.safety.seq.toNat (nowUs s)
  let s := match r.toPart with
    | some p => ringWrite p bits s
    | none => forAll ((List.finRange 8).filter (fun p : PartId => (s.host.parts[p]).enabled)) (fun p => ringWrite p bits) s
  let sf := s.safety
  let s := setSfInt (recordCauses r fc) { s with safety := { sf with
    log := updAt sf.log (fin 64 sf.seq.toNat) (fun _ => bits)
    logHead := sf.logHead + 1
    seq := sf.seq + 1
    fcCount := if r.event then sf.fcCount else updAt sf.fcCount (fin 6 fc) (fun w => satAdd w 1)
    engTimes := if ¬ r.event ∧ r.fc = 4 then
        nowUs s :: sf.engTimes.filter (fun t => decide (nowUs s ≤ t + 10000000)) else sf.engTimes
    fatal := sf.fatal || decide (¬ r.event ∧ fc = 5) } }
  if r.dangerous then ksafeStop r.code s else s

/-- A security fault (R13, Table 14.3): its record, and security_fault of the secure mailbox. index 0xFF: no partition. -/
def securityFault (unit index addr : Nat) (s : State) : State :=
  setSmInt 0b10 (postRecord { code := 0x0A, unit := unit, index := index, addr := addr } s)

/-- An access refused by the world check of R13. -/
def refuseAccess (acc : Access) (off : Nat) (s : State) : State :=
  securityFault (if acc.master = 0xFF#8 then 0 else 9) acc.master.toNat off { s with busData := 0 }

/-- The security faults of accesses that the descriptors have refused (R13, R408). Where the records of these faults are refused in a ring, no
more follow (log 97). -/
def flushRefused (s : State) : State :=
  let t := forAll s.host.refused (fun x => securityFault 9 x.1 x.2) { s with host := { s.host with refused := [] } }
  { t with host := { t.host with refused := [] } }

/-- Read n bytes for the host side; a read that the descriptors refuse logs its fault (R408). -/
def hostRead (s : State) (secure : Bool) (asid va n : Nat) : Option (List Byte) × State :=
  let r := readBytes s secure asid va n
  (r.1, flushRefused r.2)

/-- The same for a read of a kind that an error response may meet (R22). -/
def hostReadFor (x : MemSite) (s : State) (secure : Bool) (asid va n : Nat) : Option (List Byte) × State :=
  let r := readFor x s secure asid va n
  (r.1, flushRefused r.2)

/-- The job part of a record that concerns a job. -/
def jobRec (j : Job) : Option (Nat × Nat) := some (j.tag.toNat, j.qid)

/-! ### Records of a job follow its data writes (R20) -/

/-- Whether a data write of a job waits for its acknowledgement. -/
def jobUnacked (s : State) (id : Nat) : Bool :=
  s.cores.toList.any (fun k => k.dx.chans.toList.any (fun x => x.run.any (fun r => decide (r.cmd.job = id)
    && r.out.any (fun t => decide (t.target = .ext) && !t.acked))))

/-- A record that concerns a job is written once every data write of the job has been acknowledged; a dangerous fault drops KSAFE at
once (R20, R318). -/
def postFor (id : Nat) (r : RecIn) (s : State) : State :=
  if r.job.isSome ∧ jobUnacked s id then
    let s := { s with host := { s.host with owed := s.host.owed ++ [(id, r)] } }
    if r.dangerous then ksafeStop r.code s else s
  else postRecord r s

/-- The records whose jobs have no write outstanding any more are written, oldest first. -/
def flushOwed (s : State) : State :=
  let due := s.host.owed.filter (fun x => !(jobUnacked s x.1))
  forAll due (fun x => postRecord x.2) { s with host := { s.host with owed := s.host.owed.filter (fun x => jobUnacked s x.1) } }

end Sys2Proof.Machine
end

