-- ==== Sys2Proof/Machine/Halt.lean ====
section
/-! DEFINITION. Machine/Halt.lean: how a core halts (R244, R245), how a snuff reaches its engines (R97, R165, R191, R383),
increments of token counters (R235), taken packets' waits and posts (R226, R227), and the detail words of Table 10.6. -/
namespace Sys2Proof.Machine
open Sys2Proof

/-- The standard detail word (Table 10.6). -/
def stdDetail (eng set chan table order extra : Nat) : Word :=
  put 0 eng ||| put 3 set ||| put 5 chan ||| put 8 table ||| put 12 order ||| put 16 (extra % 65536)

/-- A halt condition raised by a unit with a set: engine numbers as Table 10.10. -/
def haltCond (code : Byte) (eng set : Nat) (detail : Word) : HaltCond :=
  { code := code, detail := detail, eng := BitVec.ofNat 3 eng, set := BitVec.ofNat 2 set }

/-- The extra field of HALT_MEM_RANGE: the highest byte reached over 128, saturating (Table 10.8). -/
def memExtra (hi : Nat) : Nat := if 0xFFFF < hi / 128 then 0xFFFF else hi / 128

/-- The extra field of HALT_ACC_RANGE: the row reached, saturating at 2,047, and the slot count (Table 10.8). -/
def accExtra (row count : Nat) : Nat := (if 2047 < row then 2047 else row) + count * 2048

/-- The end of core memory. -/
def coreBytes : Nat := 0x800000

/-! ### A snuff request to the engines -/

/-- The masked arrays of a matrix-engine configuration. -/
def cfgMask (cfg : Vector Word 64) : BitVec 4 := BitVec.ofNat 4 (fld (reg cfg 0x04) 0 4)

/-- The largest next-row index of the running pass over its masked arrays (R97). -/
def mxFront (m : Mx) (r : MxRun) : Nat :=
  match m.started.find? (fun k => decide (k.ord = r.ord)) with
  | some k => ((bitsOf 4 (cfgMask k.cfg).toNat).map (fun a => (r.next[a]?).getD 0)).foldl max 0
  | none => r.stop

/-- What a snuff request to MX records (R97, R98): command, pass and resume row. A replay resumes with its group; a running pass with
rows that no array has entered from the largest next row; otherwise the first started command with a pass left, from that pass. -/
def mxSnuffPos (m : Mx) : Option (Nat × Nat × Nat) :=
  match m.replay, m.run.filter (fun r => decide (mxFront m r < r.stop)) with
  | some r, _ => some (r.ord, r.first, 0)
  | none, some r => some (r.ord, r.eff.idx, mxFront m r)
  | none, none => (m.started.find? (fun k => decide (k.next < k.limit))).map (fun k => (k.ord, k.next, k.mStart))

/-- The command of a position runs the position's pass next, from its row, with a load of its plane (R100). -/
def rewindTo (pos : Option (Nat × Nat × Nat)) (l : List MxCmd) : List MxCmd :=
  match pos with
  | some (ord, idx, row) => l.map (fun k => if k.ord = ord then { k with next := idx, mStart := row, reload := true } else k)
  | none => l

/-- A snuff request reaches MX in cycle now (R97): no command starts, the load is abandoned, and no row at or past the largest next
row enters; arrays that lag enter theirs up to it. A test or replay of R104 makes it a record with replay = 1 (R108), from the
group's first pass. An engine with nothing started has stopped at once. -/
def mxSnuff (now : Nat) (m : Mx) : Mx :=
  if m.stopped ∨ m.stop ≠ .none then m
  else if m.started = [] ∧ m.flight = [] ∧ m.outq = [] then { m with stopped := true }
  else
    { m with
      stop := .snuff (mxSnuffPos m)
      stopMask := m.started.foldl (fun b k => b ||| cfgMask k.cfg) 0
      stopAt := now
      stopReplay := m.replay.isSome
      load := none
      started := rewindTo (mxSnuffPos m) m.started
      run := m.run.map (fun r => { r with stop := min r.stop (mxFront m r) }) }

/-- The drain before MX's own halt (R81, R137): pass idx of command ord and all that would follow do not run; passes before them
complete. With no command named, only the commands already started run on. -/
def mxDrain (ord : Option Nat) (idx : Nat) (m : Mx) : Mx :=
  let started := match ord with
    | none => m.started
    | some o => m.started.map (fun k =>
        if k.ord < o then k else { k with limit := if k.ord = o then min k.limit idx else 0 })
  { m with
    stop := .drain
    started := started
    load := m.load.filter (fun l => started.any (fun k => decide (k.ord = l.ord) && decide (l.eff.idx < k.limit))) }

/-- A snuff request to every engine of a core (R97, R165, R191, R383); an FX command whose done has come completes normally (R385). -/
def snuffEngines (now : Nat) (k : Core) : Core :=
  { k with
    mx := mxSnuff k.cyc k.mx
    vx := { k.vx with snuff := k.vx.run.isSome }
    wx := { k.wx with snuff := k.wx.run.isSome }
    dx := { k.dx with chans := k.dx.chans.map (fun x => { x with snuff := x.run.isSome }) }
    fx := if k.fx.run.any (fun r => !r.done) ∧ ¬ k.fx.abort then { k.fx with abort := true, abortAt := now } else k.fx }

/-- Whether every engine of a core has stopped (R244 step 5). -/
def enginesStopped (k : Core) : Bool :=
  (k.mx.stopped || (k.mx.started.isEmpty && k.mx.flight.isEmpty && k.mx.outq.isEmpty)) && k.vx.run.isNone
    && k.wx.run.isNone && k.dx.chans.toList.all (fun x => x.run.isNone) && k.fx.run.isNone

/-- Rewind an open packet of a queue (R223). -/
def rewindOpen (q : EngQueue) : EngQueue :=
  if q.slots.any (fun x => x.order.isNone) then
    { q with slots := q.slots.filter (fun x => x.order.isSome), rewinds := satAdd16 q.rewinds 1,
             wptrA := q.wptrA - 1, wptrB := q.wptrB - 1 }
  else q

/-- Whether a condition is a snuff. -/
def isSnuff (h : HaltCond) : Bool := decide (h.code = 0x0F#8)

/-- The place of a condition among those of one cycle (R245): lower goes first. -/
def haltRank (h : HaltCond) : Nat :=
  match h.code.toNat with
  | 0x0C => 0 | 0x0B => 1 | 0x13 => 2 | 0x14 => 3
  | n => 256 * (if h.eng = 5 then 4 else if h.eng.toNat < 5 then 5 + h.eng.toNat else 4 + h.eng.toNat) + n

/-- A further condition h while a core halts with first, which arose at since (R245): a snuff request and a core fault (R166) change
nothing unless, for the fault, the core halts by a snuff; a condition during a snuff becomes the recorded one; one of the
same cycle with precedence does too; any other may become the second. -/
def furtherHalt (now : Nat) (h first : HaltCond) (second : Option HaltCond) (since : Nat) : CorePhase :=
  if isSnuff h then .halting first second since
  else if isSnuff first then .halting h (some first) now
  else if h.code = 0 then .halting first second since
  else if since = now ∧ first.code ≠ 0 ∧ haltRank h < haltRank first then .halting h (second.orElse (fun _ => some first)) since
  else .halting first (second.orElse (fun _ => some h)) since

/-- A halt condition arises in a core (R244, R245). While it runs: the control core stops and rewinds its open packets, and
every engine is snuffed. Halted or in reset: nothing changes. -/
def raiseHalt (c : CoreId) (h : HaltCond) (s : State) : State :=
  modCore c (fun k =>
    match k.phase with
    | .live => snuffEngines s.time { k with phase := .halting h none s.time, queues := k.queues.map rewindOpen }
    | .halting first second since => { k with phase := furtherHalt s.time h first second since }
    | .halted _ => k
    | .reset _ => k) s

/-- A snuff with a cause of Table 10.8: 1 pre-emption, 2 ASID revocation, 3 partition reset, 4 warm restart, 5 request. -/
def snuffCore (c : CoreId) (cause : Nat) (s : State) : State := raiseHalt c (haltCond 0x0F 6 0 (put 0 cause)) s

/-- A halt of HALT_PERMISSION kinds 3 and 5 also logs a security fault (Table 10.8). -/
def haltSecurity (c : CoreId) (addr : Nat) (s : State) : State := securityFault 1 c.val addr s

/-- Raise a condition; HALT_PERMISSION of kinds 3 and 5 also logs a security fault. -/
def raiseLogged (c : CoreId) (h : HaltCond) (s : State) : State :=
  let kind := fld h.detail 16 4
  raiseHalt c h (if h.code = 0x0E#8 ∧ (kind = 3 ∨ kind = 5) then haltSecurity c h.addr s else s)

/-- HALT_TOKEN_RANGE (Table 10.8). -/
def tokenHalt (eng kind t count : Nat) : HaltCond :=
  haltCond 0x08 eng 0 (put 0 eng ||| put 3 kind ||| put 4 (t % 64) ||| put 10 count)

/-- Increment a counter (R235): past 65,535 it stays and the core halts with kind 1. -/
def incTok (c : CoreId) (t : TokId) (n eng : Nat) (p : PartId) (s : State) : State :=
  if 65535 < (tok s c t).toNat + n then
    raiseHalt c (tokenHalt eng 1 t.val ((s.cores[c]).allocs[p]).tokCount.toNat) s
  else if n = 0 then s else setTok c t (tok s c t + BitVec.ofNat 16 n) s

/-- A completing command posts its increments (R227): both at once where they name one counter. -/
def postTokens (c : CoreId) (eng : Nat) (cmd : EngCmd) (s : State) : State :=
  match cmd.post0, cmd.post1 with
  | some (t0, n0), some (t1, n1) =>
    if t0 = t1 then incTok c t0 (n0 + n1) eng cmd.part s
    else incTok c t1 n1 eng cmd.part (incTok c t0 n0 eng cmd.part s)
  | some (t, n), none => incTok c t n eng cmd.part s
  | none, some (t, n) => incTok c t n eng cmd.part s
  | none, none => s

/-- A taken command's wait is satisfied (R226). -/
def waitDone (k : Core) (cmd : EngCmd) : Bool :=
  match cmd.wait with
  | none => true
  | some (t, v) => decide (v.toNat ≤ (k.toks[t]).toNat)

/-- The core runs: powered, in service, neither halting, halted nor in reset. -/
def coreLive (s : State) (c : CoreId) : Bool :=
  inService s c && (s.cores[c]).powered && !(s.cores[c]).retained && decide ((s.cores[c]).phase = .live)

/-- The core is halted (R82, R213, R250). -/
def coreHalted (k : Core) : Bool := match k.phase with | .halted _ => true | _ => false

/-- Register-window writes to a core's sets need a halted core (R82, R167, R193, R386). -/
def inReset (k : Core) : Bool := match k.phase with | .reset _ => true | _ => false

end Sys2Proof.Machine
end

