-- ==== Sys2Proof/Machine/LinkOps.lean ====
section
/-! DEFINITION. Machine/LinkOps.lean: flits as bytes (R335, Table 15.1), what a port may send (R336, R337), routes (R339, R340),
and how runs and messages leave the engine (R341, Table 15.3). -/
namespace Sys2Proof.Machine
open Sys2Proof

/-! ### Flits as bytes -/

/-- Bytes 0 to 11 of a data flit's header (Table 15.1). -/
def flitHead (f : Flit) : List Byte :=
  leBytes 12 (1 + f.cls.val * 2 ^ 4 + b2n f.last * 2 ^ 6 + f.lseq.toNat * 2 ^ 8 + f.dst.toNat * 2 ^ 24 + f.src.toNat * 2 ^ 29
    + f.payload.length / 16 * 2 ^ 34 + f.pseq.toNat * 2 ^ 38 + f.addr.toNat * 2 ^ 50 + f.info.toNat * 2 ^ 74)

/-- The 256 bytes of a data flit. -/
def flitBytes (f : Flit) : List Byte :=
  let pay := f.payload ++ List.replicate (240 - f.payload.length) 0#8
  flitHead f ++ leBytes 4 (crc32c (flitHead f ++ pay)).toNat ++ pay

/-- Whether the CRC of 256 raw bytes holds and their type is one a port knows, reserved bit clear (R335). -/
def flitGood (raw : List Byte) : Bool :=
  let h := leNat (raw.take 12)
  decide (raw.length = 256) && decide (h % 16 = 1 ∨ h % 16 = 2) && !(h.testBit 7)
    && decide (leNat ((raw.drop 12).take 4) = (crc32c (raw.take 12 ++ raw.drop 16)).toNat)

/-- The data flit that raw bytes spell. -/
def flitOf (raw : List Byte) : Flit :=
  let h := leNat (raw.take 12)
  { cls := fin 4 (h / 2 ^ 4 % 4), last := h.testBit 6, lseq := BitVec.ofNat 16 (h / 2 ^ 8),
    dst := BitVec.ofNat 5 (h / 2 ^ 24), src := BitVec.ofNat 5 (h / 2 ^ 29), pseq := BitVec.ofNat 12 (h / 2 ^ 38),
    addr := BitVec.ofNat 24 (h / 2 ^ 50), info := BitVec.ofNat 22 (h / 2 ^ 74),
    payload := (raw.drop 16).take (h / 2 ^ 34 % 16 * 16) }

/-! ### Sending on a port -/

/-- A port that may carry flits: up, and not being scrubbed. -/
def linkUp (s : State) (l : LinkId) : Bool := decide ((s.links.ports[l]).state = 3) && !(scrubbing s 2 l.val)

/-- The first waiting flit that a port may send: its class has a credit and the replay buffer has room (R336, R337). -/
def sendable (p : LinkPort) : Option Flit :=
  if 512 ≤ p.buffer.length then none else p.sendq.find? (fun f => decide (0 < p.credits[f.cls]))

/-- Send what may be sent, at most n flits: each takes the next lseq, a credit and a place in the replay buffer. -/
def pumpPort : Nat → LinkPort → LinkPort
  | 0, p => p
  | n + 1, p =>
    match sendable p with
    | none => p
    | some f =>
      pumpPort n { p with
        sendq := p.sendq.erase f
        txSeq := p.txSeq + 1
        buffer := p.buffer ++ [{ f with lseq := p.txSeq + 1 }]
        credits := updAt p.credits f.cls (fun c => c - 1)
        flits := satAdd p.flits 1 }

/-- Let a port send. -/
def pump (l : LinkId) (s : State) : State :=
  if linkUp s l then modLink l (fun p => pumpPort p.sendq.length p) s else s

/-- Put flits behind those that wait at a port. -/
def queueOn (l : LinkId) (fs : List Flit) (s : State) : State := modLink l (fun p => { p with sendq := p.sendq ++ fs }) s

/-- Give flits to a port. -/
def sendOn (l : LinkId) (fs : List Flit) (s : State) : State := pump l (queueOn l fs s)

/-- The lanes of a port have trained. -/
def trained (p : LinkPort) : Bool := decide (p.laneMask ≠ 0)

/-- A port that takes flits in, and sends control flits: trained and not being scrubbed. -/
def receives (s : State) (l : LinkId) : Bool := trained s.links.ports[l] && !(scrubbing s 2 l.val)

/-- The ports that send control flits. -/
def livePorts (s : State) : List LinkId := (List.finRange 4).filter (fun l => receives s l)

/-- The control flit that a port would send now: its full state (R336, Table 15.2). nak is carried at least once after the first discard,
and by every flit until one is accepted in order (R337, log 22). -/
def controlOf (tick : Option Word) (p : LinkPort) : ControlFlit :=
  { ack := p.rxSeq, nak := p.nak || p.discarding, hears := p.hears, tick := tick, credits := p.freed, records := p.hbWait.take 28,
    halo := p.haloOut }

/-- A port sends a control flit: the credits freed, the halo credits and at most 28 heartbeat records leave with it (R336, R348). -/
def sendControl (tick : Option Word) (l : LinkId) (s : State) : State :=
  modLink l (fun p => { p with
    control := some (controlOf tick p), nak := false, freed := Vector.replicate 4 0, hbWait := p.hbWait.drop 28, haloOut := [] }) s

/-- A heartbeat record as 8 bytes (Table 15.2). -/
def hbBytes (r : HbRec) : List Byte :=
  leBytes 1 r.origin.toNat ++ leBytes 1 (b2n r.member + b2n r.islanded * 2) ++ leBytes 2 r.seq.toNat ++ leBytes 2 r.epoch.toNat
    ++ leBytes 2 0

/-- A slot of the payload that holds no record. -/
def hbEmpty : List Byte := 0xFF#8 :: List.replicate 7 0#8

/-- Payload bytes 16 to 255 of a control flit (Table 15.2). -/
def controlPayload (f : ControlFlit) : List Byte :=
  leBytes 2 f.ack.toNat ++ leBytes 1 (b2n f.nak + b2n f.hears * 2 + b2n f.tick.isSome * 4) ++ leBytes 1 0 ++ leBytes 4 (f.tick.getD 0).toNat
    ++ f.credits.toList.flatMap (fun n => leBytes 2 n) ++ (f.records.flatMap hbBytes ++ (List.replicate (28 - f.records.length) hbEmpty).flatten)

/-- Bytes 0 to 11 of a control flit's header: type 2, the neighbour, the sender (Table 15.1). -/
def controlHead (src dst : BitVec 5) : List Byte := leBytes 12 (2 + dst.toNat * 2 ^ 24 + src.toNat * 2 ^ 29)

/-- The 256 bytes of a control flit. -/
def controlBytes (src dst : BitVec 5) (f : ControlFlit) : List Byte :=
  controlHead src dst ++ leBytes 4 (crc32c (controlHead src dst ++ controlPayload f)).toNat ++ controlPayload f

/-! ### Topology and routes -/

/-- The cabling of Table 15.4: the engine at the far end of each port of an engine. -/
def cabling (topo x y a : Nat) : List (LinkId × Nat) :=
  let n := x * y
  if topo = 3 then
    let cx := a % x
    let cy := a / x
    [(0, cy * x + (cx + 1) % x), (1, cy * x + (cx + x - 1) % x), (2, (cy + 1) % y * x + cx), (3, (cy + y - 1) % y * x + cx)]
  else if topo = 2 then [(0, (a + 1) % n), (1, (a + n - 1) % n), (2, (a + 1) % n), (3, (a + n - 1) % n)]
  else [(0, (a + 1) % n), (1, (a + n - 1) % n)]

/-- The other port of a ring through an engine: L0 and L1, L2 and L3 (Table 15.4). -/
def across (l : LinkId) : LinkId := fin 4 (if l.val % 2 = 0 then l.val + 1 else l.val - 1)

/-- The engines that reach one of a list by one hop over a port that is not down, or are in it. -/
def hopBack (topo x y : Nat) (down : List (Nat × Nat)) (members : Word) (near : List Nat) : List Nat :=
  (List.range 32).filter (fun a => decide (a ∈ near) ||
    (bitAt members a && (cabling topo x y a).any (fun e => decide (e.2 ∈ near) && !(decide ((a, e.1.val) ∈ down)))))

/-- The engines within k hops of engine d over members (R340). -/
def within (topo x y : Nat) (down : List (Nat × Nat)) (members : Word) (d : Nat) : Nat → List Nat
  | 0 => [d]
  | k + 1 => hopBack topo x y down members (within topo x y down members d k)

/-- Hops from engine a to engine d, 32 where there is no path. -/
def hops (topo x y : Nat) (down : List (Nat × Nat)) (members : Word) (a d : Nat) : Nat :=
  ((List.range 32).find? (fun k => decide (a ∈ within topo x y down members d k))).getD 32

/-- X: in a ring the number of engines, which LK_TOPO's field need not hold (log 22). -/
def linkX (k : Links) : Nat := if k.topo = 3 then k.xm1.toNat + 1 else k.count.toNat
/-- Y: 1 in a ring. -/
def linkY (k : Links) : Nat := if k.topo = 3 then k.ym1.toNat + 1 else 1

/-- The ports that are not up, each with its engine: what the engine knows of the others, and its own. -/
def downPorts (s : State) : List (Nat × Nat) :=
  s.links.farDown ++ ((List.finRange 4).filter (fun l => !(linkUp s l))).map (fun l => (s.links.addr.toNat, l.val))

/-- A port of an engine, the next engine, and the hops beyond it. -/
structure Way where
  port : LinkId
  next : Nat
  more : Nat
  deriving DecidableEq, Repr

/-- The up ports of engine a that lie on a path over members to engine d. -/
def waysFrom (k : Links) (down : List (Nat × Nat)) (a d : Nat) : List Way :=
  let others := k.members &&& ~~~ BitVec.ofNat 32 (2 ^ a)
  if d = a ∨ ¬ bitAt k.members d ∨ k.topo = 0 then []
  else (((cabling k.topo.toNat (linkX k) (linkY k) a).filter (fun w => !(decide ((a, w.1.val) ∈ down)) && bitAt k.members w.2)).map
      (fun w => { port := w.1, next := w.2, more := hops k.topo.toNat (linkX k) (linkY k) down others w.2 d : Way })).filter
        (fun w => decide (w.more < 32))

/-- The fewest hops beyond the next engine. -/
def fewest (ways : List Way) : Nat := (ways.map (fun w => w.more)).foldl min 32

/-- How engine a forwards to engine d: by its lowest-numbered up port on a path of fewest hops (R340). -/
def wayFrom (k : Links) (down : List (Nat × Nat)) (a d : Nat) : Option Way :=
  let ways := waysFrom k down a d
  ways.find? (fun w => decide (w.more = fewest ways))

/-- The route from engine a to engine d, hop by hop. -/
def pathFrom (k : Links) (down : List (Nat × Nat)) (d : Nat) : Nat → Nat → List (Nat × Nat)
  | 0, _ => []
  | n + 1, a =>
    match wayFrom k down a d with
    | none => []
    | some w => (a, w.port.val) :: pathFrom k down d n w.next

/-- The route to engine d: every engine on it forwards by the rule of R340. -/
def pathTo (s : State) (d : Nat) : List (Nat × Nat) := pathFrom s.links (downPorts s) d 32 s.links.addr.toNat

/-- The port by which the route to engine d leaves. -/
def routeTo (s : State) (d : Nat) : Option LinkId := (wayFrom s.links (downPorts s) s.links.addr.toNat d).map (fun w => w.port)

/-! ### The world of a port (R345) -/

/-- The partition that a run's flit names (Table 15.1). -/
def flitPart (f : Flit) : PartId := fin 8 (fld f.info (if f.cls = 0 then 19 else 4) 3)

/-- Whether a port carries the traffic of a partition: they are of one world. -/
def portCarries (s : State) (l : LinkId) (p : PartId) : Bool := decide ((s.links.ports[l]).secure = (s.host.parts[p]).secure)

/-- Whether a port takes a flit: the flits of runs name their partition, those of messages do not (log 101). -/
def portTakes (s : State) (l : LinkId) (f : Flit) : Bool := decide (2 ≤ f.cls.val) || portCarries s l (flitPart f)

/-- Give flits to a port; those of the other world do not leave. -/
def sendOver (l : LinkId) (fs : List Flit) (s : State) : State := sendOn l (fs.filter (portTakes s l)) s

/-- Give flits to the port of their destination's route; without a route they are lost with the path. -/
def sendTo (dst : Nat) (fs : List Flit) (s : State) : State :=
  match (s.links.routes[dst]?).join with
  | some l => sendOver l fs s
  | none => s

/-! ### Messages and runs -/

/-- The payload of a flit, filled to a whole number of 16-byte units. -/
def pad16 (bs : List Byte) : List Byte := bs ++ List.replicate (ceilDiv bs.length 16 * 16 - bs.length) 0#8

/-- A message of class 2 or 3 (Table 15.3). Its pseq is 0: pair sequences number runs (log 22). -/
def message (s : State) (cls : Fin 4) (type dst addr : Nat) (body : List Byte) : Flit :=
  { cls := cls, last := true, lseq := 0, dst := BitVec.ofNat 5 dst, src := s.links.addr, pseq := 0,
    addr := BitVec.ofNat 24 addr, info := BitVec.ofNat 22 type, payload := pad16 (if body = [] then [0#8] else body) }

/-- Send a message to an engine by its route. -/
def sendMsg (cls : Fin 4) (type dst addr : Nat) (body : List Byte) (s : State) : State :=
  sendTo dst [message s cls type dst addr body] s

/-- Whether the route to an engine leaves by a port that carries a partition's traffic. -/
def routeCarries (s : State) (dst : Nat) (p : PartId) : Bool := ((s.links.routes[dst]?).join).all (fun l => portCarries s l p)

/-- Send a fence message of a partition; one whose route needs a port of the other world does not leave (R345, log 101). -/
def sendFence (p : PartId) (type dst fid : Nat) (body : List Byte) (s : State) : State :=
  if routeCarries s dst p then sendMsg 2 type dst fid body s else s

/-- The offset of a halo run in a flit: one at or past 8 MiB, or below 0, lies outside every window, and so does the last byte of the
field's 8 MiB that it then names (log 22). -/
def haloAddr (a : Int) : Nat := if a < 0 ∨ 0x7FFFFF ≤ a then 0x7FFFFF else a.toNat

/-- The bytes that a run or a piece of one carries over links: its class, where it goes, its info field, its data; for a piece of a halo run also
the run's start and length and the piece's place in it (R172, R202). mark: bit 23 of the address, a halo run that ends its unit (log 22). -/
structure RunOut where
  cls   : Fin 4
  addr  : Nat
  info  : Nat
  mark  : Bool
  data  : List Byte
  start : Int := 0
  len   : Nat := 0
  off   : Nat := 0
  ends  : Bool := true
  deriving DecidableEq, Repr

/-- A halo run of which a byte lies outside every window. -/
def RunOut.outside (x : RunOut) : Bool := decide (x.cls = 0) && (decide (x.start < 0) || decide ((0x7FFFFF : Int) < x.start + x.len))

/-- Whether a run needs a flit that says its length and place: one that is not whole 16-byte units, and a halo run that is cut or lies outside
(log 101). -/
def RunOut.hasTail (x : RunOut) : Bool :=
  decide (x.data.length % 16 ≠ 0) || (decide (x.cls = 0) && (x.outside || decide (x.off ≠ 0) || !x.ends))

/-- The number of its flits. -/
def RunOut.count (x : RunOut) : Nat := ceilDiv x.data.length 240 + b2n x.hasTail

/-- Its address field. -/
def RunOut.addrAt (x : RunOut) (addr : Nat) : BitVec 24 := BitVec.ofNat 24 ((if x.cls = 0 then haloAddr addr else addr) + b2n x.mark * 2 ^ 23)

/-- The flits of a run's data: 240 bytes each, the address rising with them, numbered from pseq on. -/
def runFlits (s : State) (dst : Nat) (x : RunOut) : Nat → Nat → Nat → List Byte → List Flit
  | 0, _, _, _ => []
  | n + 1, pseq, addr, bs =>
    let rest := bs.drop 240
    let f : Flit := {
        cls := x.cls, last := rest.isEmpty && !x.hasTail, lseq := 0, dst := BitVec.ofNat 5 dst, src := s.links.addr, pseq := BitVec.ofNat 12 pseq,
        addr := x.addrAt addr, info := BitVec.ofNat 22 x.info, payload := pad16 (bs.take 240) }
    f :: (if rest.isEmpty then [] else runFlits s dst x n (pseq + 1) (addr + 240) rest)

/-- The flit that ends a run with its length and place: byte 0 the bytes by which the data was filled up, byte 1 whether the piece ends its run
and whether the run lies outside, bytes 4 to 7 the bytes of the run before the piece, 8 to 11 the run's length. Its address is that of the
run's first flit, which no other later flit has (log 101). -/
def tailFlit (s : State) (dst pseq : Nat) (x : RunOut) : Flit :=
  { cls := x.cls, last := true, lseq := 0, dst := BitVec.ofNat 5 dst, src := s.links.addr, pseq := BitVec.ofNat 12 pseq,
    addr := x.addrAt x.addr, info := BitVec.ofNat 22 x.info
    payload := leBytes 1 (ceilDiv x.data.length 16 * 16 - x.data.length) ++ leBytes 1 (b2n x.ends + 2 * b2n x.outside) ++ leBytes 2 0
      ++ leBytes 4 x.off ++ leBytes 4 x.len ++ leBytes 4 0 }

/-- All flits of a run, numbered from pseq on. -/
def allFlits (s : State) (dst pseq : Nat) (x : RunOut) : List Flit :=
  let fs := runFlits s dst x (ceilDiv x.data.length 240) pseq x.addr x.data
  if x.hasTail then fs ++ [tailFlit s dst (pseq + fs.length) x] else fs

/-- The engine at the far end of a port by the cabling. -/
def farEnd (s : State) (l : LinkId) : Nat :=
  (((cabling s.links.topo.toNat (linkX s.links) (linkY s.links) s.links.addr.toNat).find?
    (fun w : LinkId × Nat => decide (w.1 = l))).map (fun w => w.2)).getD 0

/-- The up ports of the engine. -/
def upPorts (s : State) : List LinkId := (List.finRange 4).filter (fun l => linkUp s l)

/-- A system message to the neighbour at a port (log 22). -/
def sendNext (l : LinkId) (type : Nat) (body : List Byte) (s : State) : State :=
  sendOn l [message s 3 type (farEnd s l) 0 body] s

/-- JOIN on every up port, and the wait for admission begins (R352). -/
def sendJoin (s : State) : State :=
  let body := leBytes 4 s.links.addr.toNat ++ leBytes 4 s.links.config.toNat
  let s := forAll (upPorts s) (fun l => sendNext l 3 body) s
  { s with links := { s.links with joinAt := some s.time } }

/-- Flits sent to an engine and not acknowledged end to end (R341). -/
def unacked (s : State) (dst : Nat) : Nat :=
  ((s.links.sent.filter (fun r => decide (r.dst.toNat = dst))).map (fun r => r.flits.length)).foldl (· + ·) 0

/-- Whether a run of n flits to an engine fits the 1,024 flits of R341. -/
def runFits (s : State) (dst n : Nat) : Bool := decide (unacked s dst + n ≤ 1024)

/-- The port by which a run leaves: the one that a halo command names (R205), while it is up; else that of the route to its engine (R357). -/
def runPort (s : State) (port : Option LinkId) (dst : Nat) : Option LinkId :=
  (port.filter (fun l => linkUp s l)).or (s.links.routes[dst]?).join

/-- Flits leave by their port. -/
def sendVia (port : Option LinkId) (dst : Nat) (fs : List Flit) (s : State) : State :=
  match runPort s port dst with | some l => sendOver l fs s | none => s

/-- Flits wait at their port until it next sends. -/
def queueVia (port : Option LinkId) (dst : Nat) (fs : List Flit) (s : State) : State :=
  match runPort s port dst with | some l => queueOn l fs s | none => s

/-- Send a run to an engine (R341): it is kept until its RUN_ACK. reads: its data is still being read, so it does not leave with the send. -/
def sendRun (port : Option LinkId) (dst : Nat) (x : RunOut) (reads : Bool) (owner : Option (CoreId × ChanId × Nat)) (s : State) : State :=
  let d : Fin 32 := fin 32 dst
  let fs := allFlits s dst (s.links.pseqTo[d]).toNat x
  let s := { s with links := { s.links with
    pseqTo := updAt s.links.pseqTo d (fun p => p + BitVec.ofNat 12 fs.length)
    sent := s.links.sent ++ [{ dst := BitVec.ofNat 5 dst, port := port, flits := fs, owner := owner }] } }
  if reads then queueVia port dst fs s else sendVia port dst fs s

/-! ### Runs whose read fails (R22) -/

/-- Whether a flit still waits at a port. -/
def flitWaits (s : State) (f : Flit) : Bool := s.links.ports.toList.any (fun p => decide (f ∈ p.sendq))

/-- The pair sequence of a run's first flit. -/
def SentRun.first (r : SentRun) : BitVec 12 := ((r.flits.head?).map (fun f => f.pseq)).getD 0

/-- Whether none of a run's flits has left, nor one of a later run to the same engine. -/
def runWaits (s : State) (r : SentRun) : Bool :=
  s.links.sent.all (fun q => decide (q.dst ≠ r.dst) || decide (2048 ≤ (q.first - r.first).toNat) || q.flits.all (flitWaits s))

/-- A run is taken back: later runs to its engine close up. -/
def takeBack (r : SentRun) (s : State) : State :=
  let n := BitVec.ofNat 12 r.flits.length
  let down (f : Flit) : Flit :=
    if f.dst = r.dst ∧ f.src = s.links.addr ∧ f.cls.val ≤ 1 ∧ (f.pseq - r.first).toNat < 2048 then { f with pseq := f.pseq - n } else f
  { s with links := { s.links with
    pseqTo := updAt s.links.pseqTo (fin 32 r.dst.toNat) (fun p => p - n)
    sent := (s.links.sent.erase r).map (fun q => { q with flits := q.flits.map down })
    ports := s.links.ports.map (fun p => { p with sendq := (p.sendq.filter (fun f => !(decide (f ∈ r.flits)))).map down }) } }

/-! ### Runs that may not go on (R345) -/

/-- A DX halt with the standard detail. -/
def dxHalt (code : Byte) (set : SetId) (ch : ChanId) (table order extra : Nat) : HaltCond :=
  haltCond code 3 set.val (stdDetail 3 set.val ch.val table order extra)

/-- Change the running command of a channel. -/
def modDxRun (c : CoreId) (ch : ChanId) (f : DxRun → DxRun) (s : State) : State :=
  modChan c ch (fun x => { x with run := x.run.map f }) s

/-- A channel of a core. -/
def dxChan (s : State) (c : CoreId) (ch : ChanId) : DxChan := ((s.cores[c]).dx.chans)[ch]

/-- A channel stops on a halt of its own: the transfer is not issued, earlier ones complete, no record is written (R192). -/
def dxOwnHalt (c : CoreId) (ch : ChanId) (h : HaltCond) (s : State) : State :=
  raiseLogged c h (modDxRun c ch (fun r => { r with fault := if r.fault = 0 then 6 else r.fault }) s)

/-- An engine has acknowledged a transfer's run, or never will. -/
def memberAck (e : Nat) (r : SentRun) (s : State) : State :=
  match r.owner with
  | some (c, ch, ord) => modDxRun c ch (fun x => { x with out := x.out.map (fun t =>
      if t.ord = ord then { t with members := t.members &&& ~~~ BitVec.ofNat 32 (2 ^ e) } else t) }) s
  | none => s

/-- A sent run is over, its transfer waits for it no longer, and the core that sent it halts with HALT_PERMISSION of a kind. -/
def denyRun (kind : Nat) (r : SentRun) (s : State) : State :=
  let s := memberAck r.dst.toNat r { s with links := { s.links with sent := s.links.sent.erase r } }
  match r.owner with
  | some (c, ch, _) =>
    match (dxChan s c ch).run with
    | some x => dxOwnHalt c ch (dxHalt 0x0E x.cmd.set ch 0 0 kind) s
    | none => s
  | none => s

/-- Whether a sent run's port is of the other world. -/
def runBarred (s : State) (r : SentRun) : Bool :=
  (runPort s r.port r.dst.toNat).any (fun l => !(r.flits.all (portTakes s l)))

/-! ### Changes of routes and ports -/

/-- A message that goes from neighbour to neighbour: TOKEN, MEMBERSHIP, JOIN (log 22). -/
def hopwise (f : Flit) : Bool := decide (f.cls = 3) && decide (fld f.info 0 8 = 1 ∨ fld f.info 0 8 = 2 ∨ fld f.info 0 8 = 3)

/-- The time in ns, as PROBE carries it. -/
def nowNs (s : State) : Nat := s.time / 232560

/-- A route to an engine has changed (R341, R344): its runs without RUN_ACK are sent again in run order, flits that wait for it go by the new route,
and its latency is measured again. A run that now needs a port of the other world halts its core (R345, log 101). -/
def moveDest (d : Nat) (s : State) : State :=
  let s := forAll (s.links.sent.filter (fun r => decide (r.dst.toNat = d) && runBarred s r)) (denyRun 3) s
  let runs := s.links.sent.filter (fun r => decide (r.dst.toNat = d))
  let own := runs.flatMap (fun r => r.flits)
  let goes (f : Flit) : Bool := decide (f.dst.toNat = d) && !(hopwise f)
  let others := s.links.ports.toList.flatMap (fun p => p.sendq.filter (fun f => goes f && !(decide (f ∈ own))))
  let s := { s with links := { s.links with ports := s.links.ports.map (fun p => { p with sendq := p.sendq.filter (fun f => !(goes f)) }) } }
  let s := sendTo d others (forAll runs (fun r => sendVia r.port d r.flits) s)
  if s.links.sys = 2 then sendMsg 3 4 d 0 (leBytes 8 (nowNs s)) s else s

/-- Routes are recomputed; the engines for which also is true, and those whose route has changed on any of its hops, are sent to anew. -/
def rerouteFor (also : Nat → Bool) (s : State) : State :=
  let paths : Vector (List (Nat × Nat)) 32 := Vector.ofFn (fun e : Fin 32 => pathTo s e.val)
  let ports : Vector (Option LinkId) 32 := Vector.ofFn (fun e : Fin 32 => routeTo s e.val)
  let changed := (List.range 32).filter (fun d => also d || decide (s.links.routes[d]? ≠ ports[d]? ∨ s.links.paths[d]? ≠ paths[d]?))
  forAll changed moveDest { s with links := { s.links with routes := ports, paths := paths } }

/-- Routes are recomputed at every port state change and every membership change (R340). -/
def reroute (s : State) : State := rerouteFor (fun _ => false) s

/-- A member learns which ports of other engines are up (log 22); routes follow. -/
def learnPorts (s : State) : State :=
  if s.links.sys ≠ 2 ∨ s.links.farDown = Config.farDown s.time then s
  else reroute { s with links := { s.links with farDown := Config.farDown s.time } }

/-- LINK_PORT (R356). -/
def portRecord (l : LinkId) (s : State) : State :=
  let p := s.links.ports[l]
  postRecord { code := 0x20, unit := 5, index := l.val, detail := p.state.toNat + p.lanes.toNat * 2 ^ 2 } s

/-- Whether halo runs to an engine that name a port wait for their RUN_ACK. -/
def runsBy (s : State) (l : LinkId) (d : Nat) : Bool := s.links.sent.any (fun r => decide (r.dst.toNat = d) && decide (r.port = some l))

/-- A port changes its state or width: the record is posted and routes are recomputed; where it goes up or down, the route of the halo runs that name
it changes too (R357). -/
def portChange (l : LinkId) (f : LinkPort → LinkPort) (s : State) : State :=
  let t := portRecord l (modLink l f s)
  rerouteFor (fun d => decide (linkUp s l ≠ linkUp t l) && runsBy s l d) t

/-- A retrain begins (R338); fails counts the failed ones before it. -/
def retrainStart (l : LinkId) (fails : Nat) (s : State) : State :=
  portChange l (fun p => { p with
    state := 2, lanes := 0, laneMask := 0, trainedLanes := 0, heard := false, hears := false, nakCount := 0, retrain := satAdd p.retrain 1,
        retrainAt := s.time,
        fails := fails }) s

end Sys2Proof.Machine
end

