-- ==== Sys2Proof/Machine/Fence.lean ====
section
/-! DEFINITION. Machine/Fence.lean: the fence unit (R282 to R287, R413, R346), context tags (R281), completion entries (R280), and how
a job that does not start completes (R279, R287). -/
namespace Sys2Proof.Machine
open Sys2Proof

/-! ### Host accesses -/

/-- Translate a host access of a partition; a failing world check logs a security fault (R408). -/
def hostTranslate (p : PartId) (secure : Bool) (asid va : Nat) (write : Bool) (s : State) : Option Nat × State :=
  match translate s secure asid va write with
  | (.ok spa _, s) => (some spa, s)
  | (.err e, s) => (none, if e.security then securityFault 9 p.val va s else s)

/-! ### Fences -/

/-- Whether a value advances a fence (R286). -/
def advances (old new : BitVec 64) : Bool := decide ((new - old).toNat ≠ 0) && decide ((new - old).toNat < 2 ^ 63)

/-- The registration of a partition's fid. -/
def findReg (s : State) (p : PartId) (fid : Nat) : Option FenceReg :=
  s.host.regs.find? (fun r => decide (r.part = p ∧ r.fid = fid))

/-- What a partition's fid names; none: it is not registered. -/
def fenceKey (s : State) (p : PartId) (fid : Nat) : Option FenceKey :=
  (findReg s p fid).map (fun r => if r.home.isSome then .proxy p fid else .record r.addr)

/-- The fence of a record. -/
def findFence (s : State) (addr : Nat) : Option Fence := s.host.fences.find? (fun f => decide (f.addr = addr))
/-- A partition's proxy. -/
def findProxy (s : State) (p : PartId) (fid : Nat) : Option Proxy :=
  s.host.proxies.find? (fun x => decide (x.part = p ∧ x.fid = fid))

/-- Change the cached fence of a record. -/
def modFence (addr : Nat) (f : Fence → Fence) (s : State) : State :=
  { s with host := { s.host with fences := s.host.fences.map (fun x => if x.addr = addr then f x else x) } }

/-- The value and err that the engine holds of a fence. -/
def fenceNow (s : State) (k : FenceKey) : Option (BitVec 64 × Bool) :=
  match k with
  | .record a => (findFence s a).map (fun f => (f.value, f.err))
  | .proxy p fid => (findProxy s p fid).map (fun x => (x.value, x.err))

/-- The 16 bytes of a record (Table 12.9). -/
def fenceBytes (f : Fence) : List Byte :=
  leBytes 8 f.value.toNat ++ leBytes 8 (b2n f.err + b2n f.ext * 2 + f.ownAsid * 2 ^ 16 + f.ownPart.val * 2 ^ 22
    + b2n f.ownSecure * 2 ^ 25 + f.ownEngine * 2 ^ 26)

/-- The engines that hold a proxy of a fence hear its value and err (R346). -/
def sendUpdates (addr : Nat) (s : State) : State :=
  match findFence s addr with
  | none => s
  | some f =>
    forAll f.subs (fun u => sendFence (fin 8 u.part) 2 u.engine u.fid (leBytes 8 f.value.toNat ++ [BitVec.ofNat 8 (b2n f.err)])) s

/-- A failed access to a fence record: err is set, a change from outside the engine's jobs (R282, log 74), subscribers hear of it, and a
FENCE_IO record goes to the owner's ring (R413). -/
def fenceFail (f : Fence) (s : State) : State :=
  postRecord { code := 0x0D, fc := 1, toPart := some f.ownPart, unit := 9, index := f.ownPart.val, addr := f.addr }
    (sendUpdates f.addr (modFence f.addr (fun x => { x with err := true, ext := true }) s))

/-- The latest of the targets that waits hold on a fence. -/
def latestTarget (s : State) (k : FenceKey) : Option (BitVec 64) :=
  let l := s.host.queues.flatMap (fun q => match q.head with
    | some h => (h.waits.filter (fun w => decide (w.key = k))).map (fun w => w.target) | none => [])
  match l with
  | [] => none
  | t :: ts => some (ts.foldl (fun best x => if advances best x then x else best) t)

/-- A failed read of a fence's record: value takes the latest target of the waits that the engine holds, or 0 (R413). -/
def fenceUnread (f : Fence) (s : State) : State :=
  fenceFail f (modFence f.addr (fun x => { x with value := (latestTarget s (.record f.addr)).getD 0, cached := true }) s)

/-- Whether the world check fails an access to a fence's record (R408). -/
def fenceRefused (s : State) (f : Fence) : Bool := mrdRefuses s f.ownSecure f.addr

/-- A fence is used: an entry that the cache does not hold is read from its record (R404, R413), and subscribers hear where its value or err
changes with that (R346). -/
def useFence (addr : Nat) (s : State) : State :=
  match findFence s addr with
  | none => s
  | some f =>
    if f.cached then s
    else if fenceRefused s f then fenceUnread f (securityFault 9 f.ownPart.val addr s)
    else
      let raw := memNat s.dram addr 16
      let v := BitVec.ofNat 64 raw
      let t := modFence addr (fun x => { x with value := v, err := raw.testBit 64, ext := raw.testBit 65, cached := true }) s
      if f.value = v ∧ f.err = raw.testBit 64 then t else sendUpdates addr t

/-- Records leave the fence cache. -/
def discardFences (gone : Fence → Bool) (s : State) : State :=
  { s with host := { s.host with fences := s.host.fences.map (fun f => if gone f then { f with cached := false } else f) } }

/-- Write a fence's cached contents through to its record. -/
def writeThrough (addr : Nat) (s : State) : State :=
  match findFence s addr with
  | none => s
  | some f =>
    if fenceRefused s f then fenceFail f (securityFault 9 f.ownPart.val f.addr s) else storeAfter addr (fenceBytes f) s

/-- A changed fence is written through, and its subscribers hear of it. -/
def fenceChanged (addr : Nat) (s : State) : State := writeThrough addr (sendUpdates addr s)

/-- The 64-bit extension of a ref value against a fence's value (R284): the 32-bit difference, read as signed. -/
def extendRef (cur : BitVec 64) (val : Word) : BitVec 64 := cur + (val - cur.setWidth 32).signExtend 64

/-- Whether a target is reached (R285). -/
def reached (value target : BitVec 64) : Bool := decide ((value - target).toNat < 2 ^ 63)

/-- A signal is applied to a record's fence (R286): part counts a stale one, ext marks a source outside the engine's jobs. The record is
not written through yet. -/
def applySignal (addr : Nat) (v : BitVec 64) (err ext : Bool) (part : PartId) (s : State) : State :=
  let s := useFence addr s
  match findFence s addr with
  | none => s
  | some f =>
    let moves := advances f.value v
    let s := if moves ∨ v = f.value then s else modPart part (fun x => { x with fenceStale := satAdd x.fenceStale 1 }) s
    if moves ∨ (err ∧ ¬ f.err) then
      sendUpdates addr (modFence addr (fun x => { x with
        value := if moves then v else x.value
        err := x.err || err
        ext := ext }) s)
    else s

/-- The records of the fences that the changes since a state have reached are written through, each once, with the result (R289); to be read
into the cache is no change. -/
def writeBack (before : State) (addrs : List Nat) (s : State) : State :=
  forAll addrs.eraseDups (fun a s =>
    if findFence before a = findFence s a ∨ findFence (useFence a before) a = findFence s a then s else writeThrough a s) s

/-- A signal reaches a record's fence, by itself. -/
def signalRecord (addr : Nat) (v : BitVec 64) (err ext : Bool) (part : PartId) (s : State) : State :=
  writeBack s [addr] (applySignal addr v err ext part s)

/-- A signal of a partition to what a fid names: at the home at once, not yet written through; through a proxy as a SIGNAL message
(R346); with its home outside the membership it is discarded (R347). -/
def applyKey (k : FenceKey) (v : BitVec 64) (err ext : Bool) (part : PartId) (s : State) : State :=
  match k with
  | .record a => applySignal a v err ext part s
  | .proxy p fid =>
    match findProxy s p fid with
    | some x => if bitAt s.links.members x.engine then
        sendFence part 1 x.engine x.homeFid (leBytes 8 v.toNat ++ [BitVec.ofNat 8 (b2n err)]) s else s
    | none => s

/-- The record that a key names. -/
def keyRecord (k : FenceKey) : Option Nat :=
  match k with
  | .record a => some a
  | .proxy _ _ => none

/-- What a key names is used. -/
def useKey (k : FenceKey) (s : State) : State :=
  match k with
  | .record a => useFence a s
  | .proxy _ _ => s

/-- A signal of a partition to what a fid names, by itself. -/
def signalKey (k : FenceKey) (v : BitVec 64) (err ext : Bool) (part : PartId) (s : State) : State :=
  writeBack s (keyRecord k).toList (applyKey k v err ext part s)

/-! ### Packets (Table 12.6) -/

/-- A field of a 64-byte packet. -/
def pkt (packet : List Byte) (lo len : Nat) : Nat := leNat packet / 2 ^ lo % 2 ^ len

/-- Ref i of a packet: fid and value; none where it is unused. -/
def pktRef (packet : List Byte) (i : Nat) : Option (Nat × Word) :=
  if pkt packet (160 + 44 * i) 12 = 0xFFF then none
  else some (pkt packet (160 + 44 * i) 12, BitVec.ofNat 32 (pkt packet (172 + 44 * i) 32))

/-- What the signal refs 4 to 7 of a packet name, in order: key and 32-bit value; a ref that names nothing registered has no effect. -/
def signalKeys (s : State) (part : PartId) (packet : List Byte) : List (FenceKey × Word) :=
  [4, 5, 6, 7].filterMap (fun i => (pktRef packet i).bind (fun r => (fenceKey s part r.1).map (fun k => (k, r.2))))

/-- The signals of a packet, all in one cycle, refs 4 to 7 in order (R289). The records are not written through yet. -/
def signalRefs (part : PartId) (packet : List Byte) (err : Bool) (s : State) : State :=
  forAll (signalKeys s part packet) (fun x s =>
    let s := useKey x.1 s
    match fenceNow s x.1 with
    | none => s
    | some cur => applyKey x.1 (extendRef cur.1 x.2) err false part s) s

/-- Every record that the changes since a state have reached is written through once (R289). -/
def writeBackAll (before s : State) : State := writeBack before (s.host.fences.map (fun f => f.addr)) s

/-! ### Tags and completion entries -/

/-- Whether a tag lies in a partition's range. -/
def tagHeld (x : Partition) (tag : Nat) : Bool := decide (x.tagBase ≤ tag) && decide (tag < x.tagBase + x.tagCount)

/-- The engine's state of a tag; none: no job of it has ended and its flag is clear. -/
def tagOf (s : State) (tag : Nat) : Option TagState := s.host.tags.find? (fun t => decide (t.tag = tag))

/-- A job of a tag has ended (R281): its queue and number are recorded, and a started job that failed sets the fault flag. -/
def tagEnd (part : PartId) (tag qid seq : Nat) (fault : Bool) (s : State) : State :=
  if ¬ tagHeld s.host.parts[part] tag then s
  else
    let old := match tagOf s tag with | some t => t.fault | none => false
    { s with host := { s.host with
      tags := { tag := tag, qid := qid, seq := seq % 2 ^ 32, fault := old || fault, valid := true } ::
        s.host.tags.filter (fun t => decide (t.tag ≠ tag)) } }

/-- What a completion entry says (Table 12.8), besides its number. -/
structure Completion where
  st : Nat := 0
  failed : Bool := false
  fenceErr : Bool := false
  halt : Nat := 0
  fc : Nat := 0
  variant : Nat := 0
  detail : Nat := 0
  elapsed : Nat := 0
  deriving DecidableEq, Repr

/-- The 16 bytes of completion entry k of a ring of 2^n. -/
def entryBytes (k n : Nat) (c : Completion) : List Byte :=
  leBytes 16 (k % 2 ^ 32 + c.st * 2 ^ 32 + b2n c.failed * 2 ^ 40 + (k / 2 ^ n + 1) % 2 * 2 ^ 41 + b2n c.fenceErr * 2 ^ 42
    + c.halt * 2 ^ 48 + c.fc * 2 ^ 56 + c.variant * 2 ^ 59 + c.detail % 2 ^ 32 * 2 ^ 64
    + min c.elapsed (2 ^ 32 - 1) * 2 ^ 96)

/-- A queue enters the error state: no packet of it is left, and the record names the entry that failed (R279). -/
def queueError (q : HostQueue) (tag va : Nat) (s : State) : State :=
  postRecord { code := 0x09, fc := 1, toPart := some q.part, part := q.part.val, job := some (tag, q.qid), unit := 4, index := q.qid, addr := va }
    (modQueue q.qid (fun q => { q with state := .error, pulled := q.submitted, head := none }) s)

/-- Write a job's completion entry; a queue in the error state writes none. One that cannot be translated or written leaves the queue in
the error state (R279). -/
def writeEntry (qid seq tag : Nat) (c : Completion) (s : State) : State :=
  match findQueue s qid with
  | none => s
  | some q =>
    if q.state = .error then s
    else
      let va := q.cq + 16 * (seq % 2 ^ q.log2n)
      match hostTranslate q.part q.secure q.asid va true s with
      | (none, s) => queueError q tag va s
      | (some spa, s) =>
        match writeFor .entry spa (entryBytes seq q.log2n c) s with
        | (true, s) => s
        | (false, s) => queueError q tag va s

/-- A job's end from step 2 of R279 on: tag, entry, signals, interrupt. The signalled records are not written through yet. -/
def jobFinish (part : PartId) (qid seq : Nat) (packet : List Byte) (started : Bool) (c : Completion) (s : State) : State :=
  let tag := pkt packet 0 14
  let s := tagEnd part tag qid seq (started && c.failed) s
  let s := writeEntry qid seq tag c s
  let s := signalRefs part packet c.failed s
  if pkt packet 21 1 = 1 then setPtInt part 0b00010 s else s

/-- The head of a queue completes without starting, and the next packet becomes the oldest. The signalled records are not written
through yet. -/
def headFinish (q : HostQueue) (packet : List Byte) (c : Completion) (s : State) : State :=
  jobFinish q.part q.qid q.pulled packet false { c with failed := true }
    (modQueue q.qid (fun q => { q with head := none, pulled := q.pulled + 1 }) s)

/-- A head completes without starting, by itself. -/
def headEnd (q : HostQueue) (packet : List Byte) (c : Completion) (s : State) : State := writeBackAll s (headFinish q packet c s)

/-! ### Waits -/

/-- Whether a fence is a proxy whose home is outside the membership: every wait on it ends (R347). -/
def homeLost (s : State) (k : FenceKey) : Bool :=
  match k with
  | .record _ => false
  | .proxy p fid => match findProxy s p fid with | some x => !(bitAt s.links.members x.engine) | none => false

/-- Whether a wait is satisfied now, and whether its fence has err set. -/
def waitNow (s : State) (w : FenceWait) : Bool × Bool :=
  match fenceNow s w.key with
  | some (v, e) => (reached v w.target || homeLost s w.key, e)
  | none => (true, true)

/-- A head with a wait that is satisfied by a fence with err set (R287). -/
def headErr (s : State) (h : Head) : Bool := h.waits.any (fun w => (waitNow s w).1 && (waitNow s w).2)
/-- A head whose waits are all satisfied (R285). -/
def headReady (s : State) (h : Head) : Bool := h.waits.all (fun w => (waitNow s w).1)

/-- The heads that R287 completes, lower qid first (R289): only an enabled queue has one (R277). -/
def errHeads (s : State) : List (HostQueue × Head) :=
  sortBy (fun x => x.1.qid) (((s.host.queues.filter (fun q => decide (q.state = .enabled))).filterMap (fun q =>
    q.head.map (fun h => (q, h)))).filter (fun x => headErr s x.2))

/-- Complete such heads, those of one cycle together, at most fuel cycles: each completion may carry its error to further fences. -/
def settleLoop : Nat → State → State
  | 0, s => s
  | n + 1, s =>
    match errHeads s with
    | [] => s
    | l => settleLoop n (writeBackAll s (forAll l (fun x => headFinish x.1 x.2.packet { fenceErr := true }) s))

end Sys2Proof.Machine
end

