-- ==== Sys2Proof/Machine/Candle.lean ====
section
/-! DEFINITION. Machine/Candle.lean: candle-table entries (R298, R300, Table 13.3), their elapsed time (R304), and when a running
entry ends or may pull a job (R278, R302). -/
namespace Sys2Proof.Machine
open Sys2Proof

/-- The implicit entry's number. -/
def implicitEntry : EntryId := ⟨64, by decide⟩

/-- The active table holds no valid entry: the implicit entry runs (R300). -/
def implicitRuns (s : State) : Bool := s.tick.active.toList.all (fun x => !(bitAt x 0))

/-- The implicit entry of R300 as Table 13.3 would hold it. -/
def implicitBits (s : State) : BitVec 128 :=
  BitVec.ofNat 128 (1 + ((coresInService s).map (fun c => 2 ^ (4 + c.val))).sum + 0xF * 2 ^ 10 + 2 ^ 21 + 2 ^ 23 + 2 ^ 32
    + (s.tick.period.toNat - 1) * 2 ^ 64)

/-- An entry's word. -/
def entryBits (s : State) (e : EntryId) : BitVec 128 := if e.val < 64 then (s.tick.active[e.val]?).getD 0 else implicitBits s

/-- Whether an entry takes part. -/
def entryValid (s : State) (e : EntryId) : Bool := if e.val < 64 then bitAt (entryBits s e) 0 else implicitRuns s

/-- part. -/
def enPart (w : BitVec 128) : PartId := fin 8 (fld w 1 3)
/-- prio. -/
def enPrio (w : BitVec 128) : Nat := fld w 18 2
/-- freeze. -/
def enFreeze (w : BitVec 128) : Bool := bitAt w 20
/-- policy: continue-at-lowest. -/
def enContinue (w : BitVec 128) : Bool := bitAt w 21
/-- safety. -/
def enSafety (w : BitVec 128) : Bool := bitAt w 22
/-- hold. -/
def enHold (w : BitVec 128) : Bool := bitAt w 23
/-- start_us. -/
def enStart (w : BitVec 128) : Nat := fld w 32 20
/-- budget_us. -/
def enBudget (w : BitVec 128) : Nat := fld w 64 20
/-- need_kc. -/
def enNeed (w : BitVec 128) : Nat := fld w 96 24
/-- Whether the core mask names a core. -/
def enCore (w : BitVec 128) (c : CoreId) : Bool := bitAt w (4 + c.val)
/-- Whether the array mask names an array. -/
def enArray (w : BitVec 128) (a : ArrId) : Bool := bitAt w (10 + a.val)

/-- Whether an entry serves jobs of a partition and class; the implicit entry serves every class of P0. -/
def enServes (e : EntryId) (w : BitVec 128) (p : PartId) (cls : Nat) : Bool :=
  decide (enPart w = p) && (decide (64 ≤ e.val) || decide (fld w 14 4 = cls))

/-- The in-service cores of an entry. -/
def enCores (s : State) (e : EntryId) : List CoreId := (coresInService s).filter (enCore (entryBits s e))

/-- The entries that take part. -/
def validEntries (s : State) : List EntryId := (List.finRange 65).filter (entryValid s)

/-- An entry's run in this tick. -/
def runOf (s : State) (e : EntryId) : EntryRun := if e.val < 64 then (s.tick.runs[e.val]?).getD EntryRun.reset else s.tick.implicit

/-- Change an entry's run. -/
def modRun (e : EntryId) (f : EntryRun → EntryRun) (s : State) : State :=
  if h : e.val < 64 then { s with tick := { s.tick with runs := updAt s.tick.runs ⟨e.val, h⟩ f } }
  else { s with tick := { s.tick with implicit := f s.tick.implicit } }

/-- The entry that a job names. -/
def entryOf (j : Job) : EntryId := match j.entry with | some n => fin 65 n | none => implicitEntry
/-- How a job names an entry. -/
def entryName (e : EntryId) : Option Nat := if e.val < 64 then some e.val else none

/-- An entry's elapsed time in this tick (R304). -/
def elapsedOf (s : State) (e : EntryId) : Nat :=
  let r := runOf s e
  r.elapsed + (if r.state = .running then s.time - r.since else 0)

/-- An entry stops running: its time is counted up to now. -/
def leaveRun (e : EntryId) (next : EntryState) (s : State) : State :=
  let n := elapsedOf s e
  modRun e (fun r => { r with state := next, elapsed := n }) s

/-- The job that an entry holds as its running job, or as its paused one. -/
def entryJob (s : State) (e : EntryId) : Option Job :=
  s.host.jobs.find? (fun j => decide (entryOf j = e) && decide (j.phase = .running ∨ j.phase = .paused))

/-- A queue whose head waits for nothing more and which an entry serves. -/
def pullable (s : State) (e : EntryId) (q : HostQueue) : Bool :=
  decide (q.state = .enabled) && (match q.head with
    | some h => headReady s h && enServes e (entryBits s e) q.part (pkt h.packet 16 4)
    | none => false)

/-- The head that an entry's pulling core takes: the highest prio, then round robin by qid from the last pulled (R278). -/
def choosePull (s : State) (e : EntryId) : Option HostQueue :=
  let l := s.host.queues.filter (pullable s e)
  let prio (q : HostQueue) : Nat := match q.head with | some h => pkt h.packet 14 2 | none => 0
  let top := (l.map prio).foldl max 0
  let last := (s.host.rrLast[enPart (entryBits s e)])
  let turn (q : HostQueue) : Nat := (q.qid + 255 - last) % 256
  let l := l.filter (fun q => decide (prio q = top))
  let best := (l.map turn).foldl min 256
  l.find? (fun q => decide (turn q = best))

/-- A running entry with hold = 0 that holds no job and has no head it can pull has ended (R302). -/
def endIdle (e : EntryId) (s : State) : State :=
  if (runOf s e).state = .running ∧ ¬ enHold (entryBits s e) ∧ (entryJob s e).isNone ∧ (choosePull s e).isNone then
    leaveRun e .ended s
  else s

/-- Every running entry is asked (R302). -/
def endIdles (s : State) : State := forAll (validEntries s) endIdle s

/-- After changes of fences, heads or jobs: every waiting head is evaluated (R285, R287), and entries with nothing left to pull end. -/
def settle (s : State) : State := endIdles (settleLoop s.host.queues.length s)

/-- The core that pulls for an entry: the lowest-numbered in service of its mask. -/
def pullingCore (s : State) (e : EntryId) : Option CoreId := (enCores s e).head?

/-- An entry may pull: it runs, its budget is not spent, and no job of it holds its cores. -/
def mayPull (s : State) (e : EntryId) : Bool :=
  entryValid s e && decide ((runOf s e).state = .running) && !(runOf s e).full
    && decide (elapsedOf s e < us (enBudget (entryBits s e))) && (entryJob s e).isNone

end Sys2Proof.Machine
end

