-- ==== Sys2Proof/Machine/Access.lean ====
section
/-! DEFINITION. Machine/Access.lean: the world of every register of the window (R10, R13, R25, R190, R359, R387, R411), the
access check of R11 to R13, and reads that clear (RC, Table 00.2). -/
namespace Sys2Proof.Machine
open Sys2Proof

/-- Whether a stream port is enabled towards a secure core (R25). -/
def portSecure (s : State) (n : StreamId) : Bool :=
  let w := (s.bnd.strm[n]).ctrl
  bitAt w 0 && (match s.cores[fld w 1 3]? with | some k => k.secure | none => false)

/-- Whether the grade has what lies at a fabric-window offset: S92 has no fabric and no KIO bank, but the lamp sub-timer (log 91). -/
def fabricThere (g : Grade) (o : Nat) : Bool := decide (g ≠ .s92) || (decide (0x3000 ≤ o) && decide (o < 0x3010))

/-- Whether a fabric-window offset needs a secure access (R387). -/
def fabricSecure (f : Fabric) (o : Nat) : Bool :=
  if o < 0x1000 then true
  else if o < 0x1800 then (f.regions[fin 8 ((o - 0x1000) / 0x100)]).secure
  else if 0x2000 ≤ o ∧ o < 0x2100 then
    let p := f.pins[fin 64 ((o - 0x2000) / 4)]
    p.secure || decide (p.use = 0)
  else if 0x3000 ≤ o ∧ o < 0x3040 ∧ o % 16 < 8 then
    let t := f.timers[fin 4 ((o - 0x3000) / 16)]
    t.secure || decide (t.use = 0)
  else false

/-- Whether the register or region at a window offset needs a secure access, now (R10, R13): not the windows of fused-off units, nor the
boot aperture outside boot-wait, of which no access logs a fault (R12). -/
def secureAt (s : State) (off : Nat) (write : Bool) : Bool :=
  if off < 0x8000 then
    if 0x200 ≤ off ∧ off < 0x300 then portSecure s (fin 4 ((off - 0x200) / 0x40)) && decide (off % 0x40 < 0x10)
    else write && s.sg.lock && decide (0x400 ≤ off) && decide (off < 0x434)
  else if off < 0x10000 then true
  else if off < 0x90000 then (s.host.parts[fin 8 ((off - 0x10000) / 0x10000)]).secure
  else if off < 0xB0000 then true
  else if off < 0xC0000 then
    if off < 0xB0100 then true
    else if off < 0xB0200 then (s.links.ports[fin 4 ((off - 0xB0100) / 0x40)]).secure else false
  else if off < 0x100000 then fabricThere s.grade (off - 0xC0000) && fabricSecure s.fabric (off - 0xC0000)
  else if off < 0x700000 then
    (s.cores[fin 6 ((off - 0x100000) / 0x100000)]).secure
      || (write && corePresent s.grade (fin 6 ((off - 0x100000) / 0x100000)) && decide ((off - 0x100000) % 0x100000 / 4 = 0x4520 / 4))
  else decide (0x1000000 ≤ off) && decide (s.boot.state = 1)

/-- Whether the unit behind an offset answers: its block is not being scrubbed (R407) and the grade has it (R1). -/
def answers (s : State) (off : Nat) : Bool :=
  if 0x200 ≤ off ∧ off < 0x300 then streamPresent s.grade (fin 4 ((off - 0x200) / 0x40))
  else if 0xB0100 ≤ off ∧ off < 0xB0200 then
    let l : LinkId := fin 4 ((off - 0xB0100) / 0x40)
    linkPresent s.grade l && !(scrubbing s 2 l.val)
  else if 0xC1000 ≤ off ∧ off < 0xC1800 then
    let z : RegionId := fin 8 ((off - 0xC1000) / 0x100)
    regionPresent s.grade z && !(scrubbing s 1 z.val)
  else if 0xC0000 ≤ off ∧ off < 0x100000 then fabricThere s.grade (off - 0xC0000)
  else if 0x100000 ≤ off ∧ off < 0x700000 then
    let c : CoreId := fin 6 ((off - 0x100000) / 0x100000)
    corePresent s.grade c && !(scrubbing s 0 c.val)
  else true

/-- An access of the window: the world check first (R13), then the unit's effect; a unit that does not answer reads zero
and ignores writes (R12). -/
def access (acc : Access) (off : Nat) (write : Bool) (f : State → State) (s : State) : State :=
  if ¬ acc.secure ∧ secureAt s off write then refuseAccess acc off s
  else if answers s off then f s
  else if write then s else { s with busData := 0 }

/-- A read that clears (RC): the value is returned, then the register is zero. -/
def rcRead (acc : Access) (off : Nat) (get : State → Word) (clear : State → State) (s : State) : State :=
  access acc off false (fun s => clear { s with busData := (get s).zeroExtend 64 }) s

/-- The window offset of a core register. -/
def coreOff (c : CoreId) (o : Nat) : Nat := 0x100000 + 0x100000 * c.val + o
/-- The window offset of a partition-page register. -/
def pageOff (p : PartId) (o : Nat) : Nat := 0x10000 + 0x10000 * p.val + o
/-- The window offset of a link-port register. -/
def linkOff (l : LinkId) (o : Nat) : Nat := 0xB0100 + 0x40 * l.val + o
/-- The window offset of a region-page register. -/
def regionOff (z : RegionId) (o : Nat) : Nat := 0xC1000 + 0x100 * z.val + o

/-- A read that clears a register of a core. -/
def coreRc (acc : Access) (c : CoreId) (o : Nat) (get : Core → Word) (clear : Core → Core) (s : State) : State :=
  rcRead acc (coreOff c o) (fun s => get s.cores[c]) (modCore c clear) s
/-- A read that clears a register of a partition page. -/
def pageRc (acc : Access) (p : PartId) (o : Nat) (get : Partition → Word) (clear : Partition → Partition) (s : State) :
    State :=
  rcRead acc (pageOff p o) (fun s => get s.host.parts[p]) (modPart p clear) s
/-- A read that clears a register of a link port. -/
def linkRc (acc : Access) (l : LinkId) (o : Nat) (get : LinkPort → Word) (clear : LinkPort → LinkPort) (s : State) :
    State :=
  rcRead acc (linkOff l o) (fun s => get s.links.ports[l]) (modLink l clear) s
/-- A read that clears a register of a region page. -/
def regionRc (acc : Access) (z : RegionId) (o : Nat) (get : Region → Word) (clear : Region → Region) (s : State) : State :=
  rcRead acc (regionOff z o) (fun s => get s.fabric.regions[z]) (modRegion z clear) s

end Sys2Proof.Machine
end

