-- ==== Sys2Proof/Machine/Operands.lean ====
section
/-! DEFINITION. Machine/Operands.lean: the operand forms of the vector and window engines (R148, R149): tensor descriptors,
where their elements lie, operands and zero codes; and which commands and transfers hold a curve table (R54). -/
namespace Sys2Proof.Machine
open Sys2Proof

/-- A tensor descriptor (Table 07.1). -/
structure Td where
  base : Nat
  zp   : Int
  zpRaw : Nat
  h    : Nat
  w    : Nat
  c    : Nat
  pitch : Nat
  cb   : Nat
  ty   : IType
  src  : Bool
  slot : Nat
  arr  : ArrId
  raw  : List Word
  deriving DecidableEq, Repr

/-- The descriptor whose first register lies at a byte offset of a set. -/
def tdOf (cfg : Vector Word 64) (off : Nat) : Td :=
  let r0 := reg cfg off
  let r1 := reg cfg (off + 4)
  let r2 := reg cfg (off + 8)
  let r3 := reg cfg (off + 12)
  { base := fld r0 0 16 * 128, zp := sfld r0 16 16, zpRaw := fld r0 16 16, h := fld r1 0 16, w := fld r1 16 16,
    c := fld r2 0 16, pitch := if fld r2 16 16 = 0 then fld r1 16 16 else fld r2 16 16, cb := fld r3 0 16 * 128,
    ty := typeOf (fld r3 16 2), src := bitAt r3 18, slot := fld r0 0 3, arr := fin 4 (fld r0 3 2), raw := [r0, r1, r2, r3] }

/-- Channel blocks of a tensor. -/
def tdBlocks (d : Td) : Nat := ceilDiv d.c 32

/-- The byte address of element (ch, y, x) in core memory (R148). -/
def tdAddr (d : Td) (ch y x : Nat) : Nat :=
  d.base + ch / 32 * d.cb + ((y * d.pitch + x) * 32 + ch % 32) * typeBytes d.ty

/-- The end of a tensor's extent in core memory (R170): past the last byte of its highest channel block. -/
def tdEnd (d : Td) : Nat :=
  d.base + (tdBlocks d - 1) * d.cb + ((d.h - 1) * d.pitch + d.w) * 32 * typeBytes d.ty

/-- The physical accumulator row of channel ch of an accumulator source (R129, R148). -/
def tdAccRow (k : Core) (part : PartId) (d : Td) (ch : Nat) : Nat :=
  ((k.allocs[part]).accBase.toNat + d.slot) * 128 + ch

/-- The stored value of element (ch, y, x), as a number. -/
def tdRaw (k : Core) (part : PartId) (d : Td) (ch y x : Nat) : Nat :=
  if d.src then memNat k.mem.acc (d.arr.val * 0x80000 + tdAccRow k part d ch * 512 + 4 * x) 4
  else memNat k.mem.core (tdAddr d ch y x) (typeBytes d.ty)

/-- The operand of a stored value (R149): the zero point is subtracted for u8 and s16. -/
def tdOperand (d : Td) (v : Nat) : Int :=
  match d.ty with
  | .u8 => typeValue .u8 v - d.zp
  | .s16 => typeValue .s16 v - d.zp
  | .s8 => typeValue .s8 v
  | .s32 => typeValue .s32 v

/-- The operand of element (ch, y, x). -/
def tdRead (k : Core) (part : PartId) (d : Td) (ch y x : Nat) : Int := tdOperand d (tdRaw k part d ch y x)

/-- The zero point of an output as the pipeline adds it: none for s8 and s32 (Table 07.1). -/
def tdZpOut (d : Td) : Int :=
  match d.ty with
  | .u8 => d.zp
  | .s16 => d.zp
  | .s8 => 0
  | .s32 => 0

/-- Whether two byte ranges meet. -/
def overlaps (a0 a1 b0 b1 : Nat) : Bool := decide (a0 < b1) && decide (b0 < a1)

/-- Whether one of the accumulator rows that block cb of a source reads is invalid (R106). -/
def tdInvalid (k : Core) (part : PartId) (d : Td) (cb : Nat) : Bool :=
  d.src && (List.range 32).any (fun i =>
    decide (32 * cb + i < d.c) && bitAt (k.arrays[d.arr]).invalid (tdAccRow k part d (32 * cb + i)))

/-! ### Curve tables in use (R54) -/

/-- The curve table that a VX command selects: operations 0 to 6 with curve_en. -/
def vxCurve (cfg : Vector Word 64) : Option Nat :=
  let q := requantOf (reg cfg 0x08) (reg cfg 0x0C)
  if fld (reg cfg 0x00) 0 4 ≤ 6 ∧ q.curveEn then some q.curveSel else none

/-- The curve table that an MX command selects. -/
def mxCurve (cfg : Vector Word 64) : Option Nat :=
  let q := requantOf (reg cfg 0x20) (reg cfg 0x24)
  if bitAt (reg cfg 0x04) 13 ∧ q.curveEn then some q.curveSel else none

/-- Whether a running command of the core selects one of the tables that bytes from a on touch. -/
def curveSelected (k : Core) (a n : Nat) : Bool :=
  let hit (t : Option Nat) : Bool := match t with | some i => overlaps (256 * i) (256 * i + 256) a (a + n) | none => false
  (!k.mx.stopped && k.mx.started.any (fun m => hit (mxCurve m.cfg))) || (match k.vx.run with | some r => hit (vxCurve r.cfg) | none => false)

/-- Whether a transfer writes a curve table and a running command selects it. -/
def curveClash (k : Core) (x : DxXfer) : Bool :=
  decide (x.target = .curve) && x.writes.any (fun w => curveSelected k w.1 w.2.length)

/-- Whether a write to a table is in progress (R54): a command that selects it waits. -/
def curveBusy (k : Core) (t : Option Nat) : Bool :=
  match t with
  | none => false
  | some i => k.dx.chans.toList.any (fun ch => (match ch.run with
      | some r => r.out.any (fun x => decide (x.target = .curve) && !x.held && !x.acked &&
          x.writes.any (fun w => overlaps (256 * i) (256 * i + 256) w.1 (w.1 + w.2.length)))
      | none => false))

end Sys2Proof.Machine
end

