-- ==== Sys2Proof/Machine/Dx.lean ====
section
/-! DEFINITION. Machine/Dx.lean: what a data-mover command moves: the fields of its set (Table 08.5), its runs (R175, R176), transposition (R181),
ZC64 pages (R182 to R185), its start checks (R196, R205), the bytes that a transfer reads, and the credits that channels wait for (R177, R178, R187,
R205, R236). -/
namespace Sys2Proof.Machine
open Sys2Proof

/-! ### Fields (Table 08.5) -/

/-- op: 0 COPY, 1 GATHER, 2 TRANSPOSE, 3 FILL, 4 ZC_PACK, 5 ZC_UNPACK, 6 HALO. -/
def dxOp (cfg : Vector Word 64) : Nat := fld (reg cfg 0x00) 0 3
/-- chan. -/
def dxChanOf (cfg : Vector Word 64) : ChanId := fin 4 (fld (reg cfg 0x00) 4 2)
/-- src_space. -/
def dxSs (cfg : Vector Word 64) : Nat := fld (reg cfg 0x00) 6 3
/-- dst_space. -/
def dxDs (cfg : Vector Word 64) : Nat := fld (reg cfg 0x00) 9 3
/-- max_out. -/
def dxMaxOut (cfg : Vector Word 64) : Nat := fld (reg cfg 0x00) 12 3
/-- The element size of TRANSPOSE. -/
def dxEsz (cfg : Vector Word 64) : Nat := 2 ^ fld (reg cfg 0x00) 15 2
/-- qos, the memory-port class (R190). -/
def dxQos (cfg : Vector Word 64) : Fin 4 := fin 4 (fld (reg cfg 0x00) 17 2)
/-- Whether the destination is external; HALO ignores dst_space. -/
def dxDstExt (cfg : Vector Word 64) : Bool := decide (dxOp cfg ≠ 6 ∧ dxDs cfg = 0)
/-- dst_seq. -/
def dxSeq (cfg : Vector Word 64) : Bool := bitAt (reg cfg 0x00) 19
/-- src_addr. -/
def dxSrc (cfg : Vector Word 64) : Nat := (reg cfg 0x04).toNat + fld (reg cfg 0x08) 0 16 * 2 ^ 32
/-- dst_addr. -/
def dxDst (cfg : Vector Word 64) : Nat := (reg cfg 0x0C).toNat + fld (reg cfg 0x10) 0 16 * 2 ^ 32
/-- The run length. -/
def dxLen (cfg : Vector Word 64) : Nat := fld (reg cfg 0x14) 0 16 + 1
/-- run_act. -/
def dxAct (cfg : Vector Word 64) : Nat := fld (reg cfg 0x18) 0 17
/-- The dimension walked at a loop level. -/
def dxOrd (cfg : Vector Word 64) (l : Nat) : Nat := fld (reg cfg 0x1C) (3 * l) 3
/-- cnt of dimension d, 1 to 5. -/
def dxCnt (cfg : Vector Word 64) (d : Nat) : Nat := fld (reg cfg (0x1C + 4 * d)) 0 16
/-- act of dimension d. -/
def dxActD (cfg : Vector Word 64) (d : Nat) : Nat := fld (reg cfg (0x1C + 4 * d)) 16 16
/-- sstr of dimension d. -/
def dxSstr (cfg : Vector Word 64) (d : Nat) : Int := sfld (reg cfg (0x30 + 4 * d)) 0 32
/-- dstr of dimension d. -/
def dxDstr (cfg : Vector Word 64) (d : Nat) : Int := sfld (reg cfg (0x44 + 4 * d)) 0 32
/-- cr_tok, logical. -/
def dxCrTok (cfg : Vector Word 64) : Nat := fld (reg cfg 0x60) 0 6
/-- cr_en. -/
def dxCrEn (cfg : Vector Word 64) : Bool := bitAt (reg cfg 0x60) 6
/-- av_tok, logical. -/
def dxAvTok (cfg : Vector Word 64) : Nat := fld (reg cfg 0x60) 8 6
/-- av_en. -/
def dxAvEn (cfg : Vector Word 64) : Bool := bitAt (reg cfg 0x60) 14
/-- cr_level. -/
def dxLevel (cfg : Vector Word 64) : Nat := fld (reg cfg 0x60) 16 3
/-- The byte offset of the index tensor. -/
def dxIdx (cfg : Vector Word 64) : Nat := fld (reg cfg 0x64) 0 16 * 128
/-- zcode. -/
def dxZcode (cfg : Vector Word 64) : Byte := BitVec.ofNat 8 (fld (reg cfg 0x68) 0 8)
/-- page0. -/
def dxPage0 (cfg : Vector Word 64) : Nat := fld (reg cfg 0x68) 8 24
/-- zch_addr. -/
def dxZch (cfg : Vector Word 64) : Nat := (reg cfg 0x6C).toNat + fld (reg cfg 0x70) 0 16 * 2 ^ 32
/-- core_mask of a multicast, as cores. -/
def dxCores (cfg : Vector Word 64) : List CoreId := (List.finRange 6).filter (fun c => bitAt (reg cfg 0x74) c.val)
/-- group. -/
def dxGroup (cfg : Vector Word 64) : BitVec 4 := BitVec.ofNat 4 (fld (reg cfg 0x74) 8 4)
/-- The halo target. -/
def dxTarget (cfg : Vector Word 64) : Nat := fld (reg cfg 0x78) 0 3
/-- The remote engine of a halo. -/
def dxEngine (cfg : Vector Word 64) : BitVec 5 := BitVec.ofNat 5 (fld (reg cfg 0x78) 3 5)
/-- seq0. -/
def dxSeq0 (cfg : Vector Word 64) : Nat := fld (reg cfg 0x78) 16 16

/-! ### Runs (R175, R176) -/

/-- The runs of one complete execution of loop levels 0 to l - 1. -/
def dxLevelRuns (cfg : Vector Word 64) : Nat → Nat
  | 0 => 1
  | l + 1 => dxLevelRuns cfg l * dxCnt cfg (dxOrd cfg l)
/-- All runs. -/
def dxTotal (cfg : Vector Word 64) : Nat := dxLevelRuns cfg 5
/-- The runs of a credit unit (R177). -/
def dxUnit (cfg : Vector Word 64) : Nat := dxLevelRuns cfg (dxLevel cfg)

/-- i[d] of run n. -/
def dxI (cfg : Vector Word 64) (n d : Nat) : Nat :=
  match (List.range 5).find? (fun l => decide (dxOrd cfg l = d)) with
  | some l => n / dxLevelRuns cfg l % dxCnt cfg d
  | none => 0

/-- A sum of strides over dimensions. -/
def strideSum (cfg : Vector Word 64) (n : Nat) (str : Nat → Int) (ds : List Nat) : Int :=
  ds.foldl (fun a d => a + (dxI cfg n d : Int) * str d) 0

/-- The source of run n; entry is its index entry under GATHER. -/
def dxRunSrc (cfg : Vector Word 64) (entry : Word) (n : Nat) : Int :=
  if dxOp cfg = 1 then (dxSrc cfg : Int) + (entry.toNat : Int) * dxSstr cfg 1 + strideSum cfg n (dxSstr cfg) [2, 3, 4, 5]
  else (dxSrc cfg : Int) + strideSum cfg n (dxSstr cfg) [1, 2, 3, 4, 5]

/-- The destination of run n. -/
def dxRunDst (cfg : Vector Word 64) (n : Nat) : Int :=
  if dxSeq cfg then (dxDst cfg : Int) + (n * dxLen cfg : Nat)
  else (dxDst cfg : Int) + strideSum cfg n (dxDstr cfg) [1, 2, 3, 4, 5]

/-- Whether run n is filled whole (R175, R176). -/
def dxFilled (cfg : Vector Word 64) (entry : Word) (n : Nat) : Bool :=
  decide (dxOp cfg = 3) || [1, 2, 3, 4, 5].any (fun d => decide (dxActD cfg d ≤ dxI cfg n d))
    || (decide (dxOp cfg = 1) && decide (entry = BitVec.allOnes 32))

/-- The bytes of run n that are read. -/
def dxReadLen (cfg : Vector Word 64) (entry : Word) (n : Nat) : Nat := if dxFilled cfg entry n then 0 else dxAct cfg

/-- Fill bytes from offset j of a run on (R176). -/
def fillBytes (cfg : Vector Word 64) (j n : Nat) : List Byte :=
  (List.range n).map (fun i => BitVec.ofNat 8 (fld (reg cfg 0x5C) (8 * ((j + i) % 4)) 8))

/-- The index entry of run n, read from core memory when the run is formed (R180). -/
def dxEntry (k : Core) (cfg : Vector Word 64) (n : Nat) : Word :=
  if dxOp cfg = 1 then BitVec.ofNat 32 (memNat k.mem.core (dxIdx cfg + 4 * dxI cfg n 1) 4) else 0

/-! ### On-chip spaces (Table 08.1) -/

/-- The size of an on-chip space. Weight buffers wrap and have none (R83). -/
def dxSpaceSize (sp : Nat) : Option Nat :=
  match sp with
  | 1 => some 0x800000
  | 2 => some 0x200000
  | 4 => some 0x1000000
  | 5 => some 0x1000
  | 7 => some 0x1000000
  | _ => none

/-- The physical byte of an accumulator offset: rows are translated under R129. -/
def dxAccPhys (k : Core) (part : PartId) (off : Nat) : Nat := off + (k.allocs[part]).accBase.toNat * 0x10000

/-- A byte offset in an on-chip space: weight buffers wrap (R83, R175). -/
def dxOff (sp : Nat) (a : Int) : Nat := if sp = 3 ∨ sp = 6 then (a % (0x80000 : Int)).toNat else a.toNat

/-- The n bytes of an on-chip space from an offset on. -/
def dxRead (s : State) (c : CoreId) (part : PartId) (sp off n : Nat) : List Byte :=
  let k := s.cores[c]
  match sp with
  | 1 => memBytes k.mem.core off n
  | 2 => memBytes k.mem.acc (dxAccPhys k part off) n
  | 3 =>
    let a := off % 0x80000
    let m := min n (0x80000 - a)
    memBytes k.mem.wbuf a m ++ memBytes k.mem.wbuf 0 (n - m)
  | 4 => memBytes s.staging off n
  | _ => []

/-- Where bytes for an on-chip space go: physical offsets. A weight-buffer write wraps (R83). -/
def dxPlace (k : Core) (part : PartId) (sp off : Nat) (bs : List Byte) : List (Nat × List Byte) :=
  match sp with
  | 2 => [(dxAccPhys k part off, bs)]
  | 3 => dxWrap (off % 0x80000) bs
  | 6 => dxWrap (off % 0x80000) bs
  | _ => [(off, bs)]
where
  /-- A write that may pass the end of the weight buffer. -/
  dxWrap (a : Nat) (bs : List Byte) : List (Nat × List Byte) :=
    if a + bs.length ≤ 0x80000 then [(a, bs)] else [(a, bs.take (0x80000 - a)), (0, bs.drop (0x80000 - a))]

/-- Whether a read of an accumulator range meets an invalid row (R106). -/
def dxInvalid (k : Core) (part : PartId) (off n : Nat) : Bool :=
  let a0 := dxAccPhys k part off
  (List.range ((n + a0 % 512 + 511) / 512)).any (fun i =>
    let r := a0 / 512 + i
    match k.arrays[r / 1024]? with | some u => bitAt u.invalid (r % 1024) | none => false)

/-- Whether a partition owns the staging regions of a byte range (R174); no byte, no access. -/
def dxOwned (s : State) (part : PartId) (lo n : Nat) : Bool :=
  (pieces 0x100000 lo n).all (fun i =>
    match s.sg.regions[i]? with
    | some r => decide (r.owner.toNat = part.val)
    | none => true)

/-! ### External memory -/

/-- The job that a command serves: its ASID and world. -/
def dxSpace (s : State) (cmd : EngCmd) : Nat × Bool :=
  match findJob s cmd.job with | some j => (j.asid, j.secure) | none => (0, (s.host.parts[cmd.part]).secure)

/-- The system-physical pieces of a virtual range, page by page, or the failure and its address. -/
def xsegs (s : State) (secure : Bool) (asid : Nat) (write : Bool) :
    Nat → Nat → Nat → Except (TransErr × Nat) (List (Nat × Nat)) × State
  | _, _, 0 => (.ok [], s)
  | 0, _, _ => (.ok [], s)
  | fuel + 1, va, n =>
    let m := min n (4096 - va % 4096)
    match translate s secure asid va write with
    | (.err e, s') => (.error (e, va), s')
    | (.ok spa _, s') =>
      match xsegs s' secure asid write fuel (va + m) (n - m) with
      | (.ok l, s'') => (.ok ((spa, m) :: l), s'')
      | (.error e, s'') => (.error e, s'')

/-- n bytes at a virtual address with the physical addresses of their pieces, or the failure. -/
def xread (s : State) (secure : Bool) (asid va n : Nat) : Except (TransErr × Nat) (List Byte × List Nat) × State :=
  match xsegs s secure asid false (n / 4096 + 2) va n with
  | (.ok l, s') => (.ok (l.flatMap (fun x => memBytes s'.dram x.1 x.2), l.map (fun x => x.1)), s')
  | (.error e, s') => (.error e, s')

/-- Cut bytes into the pieces of a range. -/
def cutAt : List (Nat × Nat) → List Byte → List (Nat × List Byte)
  | [], _ => []
  | (a, n) :: l, bs => (a, bs.take n) :: cutAt l (bs.drop n)

/-- The writes of bytes at a virtual address with the virtual address of each, or the failure. -/
def xwrite (s : State) (secure : Bool) (asid va : Nat) (bs : List Byte) :
    Except (TransErr × Nat) (List (Nat × List Byte) × List Nat) × State :=
  match xsegs s secure asid true (bs.length / 4096 + 2) va bs.length with
  | (.ok l, s') => (.ok (cutAt l bs, (l.foldl (fun (a : List Nat × Nat) x => (a.1 ++ [a.2], a.2 + x.2)) ([], va)).1), s')
  | (.error e, s') => (.error e, s')

/-! ### ZC64 (R182 to R185) -/

/-- The record of a block: its mask and the bytes that differ from the zero code. -/
def zcBlock (z : Byte) (bs : List Byte) : List Byte :=
  let mask := ((List.range 64).map (fun i => if bs[i]?.getD z = z then 0 else 2 ^ i)).foldl (· + ·) 0
  leBytes 8 mask ++ bs.filter (fun b => decide (b ≠ z))

/-- Cut a list into pieces of n. -/
def chunks {α : Type} (n : Nat) : Nat → List α → List (List α)
  | 0, _ => []
  | k + 1, l => l.take n :: chunks n k (l.drop n)

/-- A page of 4,096 bytes packed: the header and the bytes of the slot that are written. -/
def zcPack (z : Byte) (page : Nat) (bs : List Byte) : List Byte × List Byte :=
  let recs := (chunks 64 64 bs).flatMap (zcBlock z)
  let raw := decide (4096 < recs.length)
  let len16 := if bs.all (fun b => decide (b = z)) then 0 else if raw then 256 else ceilDiv recs.length 16
  let body := if raw then bs else recs
  let slot := (body ++ List.replicate (len16 * 16 - body.length) 0#8).take (len16 * 16)
  (leBytes 8 (len16 + b2n raw * 2 ^ 9 + (crc8 slot).toNat * 2 ^ 16 + z.toNat * 2 ^ 24 + page % 65536 * 2 ^ 32), slot)

/-- Whether a header is one that R185 accepts. -/
def zcHeaderOk (z : Byte) (page h : Nat) : Bool :=
  let len16 := h % 512
  decide (h / 2 ^ 10 % 64 = 0) && decide (h / 2 ^ 48 = 0) && decide (len16 ≤ 256)
    && (!(h.testBit 9) || decide (len16 = 256)) && decide (h / 2 ^ 24 % 256 = z.toNat)
    && decide (h / 2 ^ 32 % 65536 = page % 65536)

/-- A block restored from its mask: the bytes of the packed part go to the set bits. -/
def zcRestore (z : Byte) (mask : Nat) : Nat → List Byte → List Byte
  | 0, _ => []
  | n + 1, bs =>
    if mask.testBit (63 - n) then bs.headD z :: zcRestore z mask n (bs.drop 1) else z :: zcRestore z mask n bs

/-- The blocks of a page restored from its records; the records end where their masks say. -/
def zcBlocks (z : Byte) : Nat → List Byte → List Byte
  | 0, _ => []
  | n + 1, bs =>
    let mask := leNat (bs.take 8)
    zcRestore z mask 64 (bs.drop 8) ++ zcBlocks z n (bs.drop (8 + popcount 64 mask))

/-- The bytes that the records of a page take, read from data that may be too short. -/
def zcNeeds : Nat → List Byte → Nat
  | 0, _ => 0
  | n + 1, bs =>
    let r := 8 + popcount 64 (leNat (bs.take 8))
    r + zcNeeds n (bs.drop r)

/-! ### Start checks -/

/-- The lowest byte and the end of the bytes that one side of a command reaches (R196). len is the bytes of a run. -/
def dxExtent (cfg : Vector Word 64) (src : Bool) (len : Nat) : Int × Int :=
  let base : Int := if src then dxSrc cfg else dxDst cfg
  if ¬ src ∧ dxSeq cfg then (base, base + (dxTotal cfg * len : Nat))
  else
    let str := if src then dxSstr cfg else dxDstr cfg
    let ds := if src ∧ dxOp cfg = 1 then [2, 3, 4, 5] else [1, 2, 3, 4, 5]
    let reach (d : Nat) : Int := ((dxCnt cfg d - 1 : Nat) : Int) * str d
    (ds.foldl (fun a d => a + min (reach d) 0) base, ds.foldl (fun a d => a + max (reach d) 0) base + (len : Int))

/-- A side of a command: its space, extent, base address and strides of dimensions with a count above 1. -/
structure DxSide where
  src : Bool
  sp  : Nat
  lo  : Int
  hi  : Int
  base : Nat
  strides : List Int
  deriving DecidableEq, Repr

/-- The sides of a command that lie in the engine. -/
def dxSides (cfg : Vector Word 64) : List DxSide :=
  let ds := [1, 2, 3, 4, 5].filter (fun d => decide (1 < dxCnt cfg d))
  let se := dxExtent cfg true (dxAct cfg)
  let de := dxExtent cfg false (dxLen cfg)
  (if dxOp cfg ≠ 3 ∧ dxSs cfg ≠ 0 then
    [{ src := true, sp := dxSs cfg, lo := se.1, hi := se.2, base := dxSrc cfg, strides := ds.map (dxSstr cfg) }] else []) ++
  (if dxOp cfg ≠ 6 ∧ dxDs cfg ≠ 0 then
    [{ src := false, sp := dxDs cfg, lo := de.1, hi := de.2, base := dxDst cfg, strides := if dxSeq cfg then [] else ds.map (dxDstr cfg) }]
    else [])

/-- The sides whose extents the start checks test against their spaces: not the source of GATHER, which is checked run by run
(R180), nor a source of which no byte is read. -/
def dxReached (cfg : Vector Word 64) : List DxSide :=
  (dxSides cfg).filter (fun x => !(x.src && decide (dxOp cfg = 1 ∨ dxAct cfg = 0)))

/-- The bytes that run n of a side reads or writes: first and number. -/
def dxSideRun (cfg : Vector Word 64) (x : DxSide) (n : Nat) : Int × Nat :=
  if x.src then (dxRunSrc cfg 0 n, dxReadLen cfg 0 n) else (dxRunDst cfg n, dxLen cfg)

/-- Whether a partition owns the staging regions that a range of bytes, of which some may lie below 0, reaches. -/
def dxOwnedAt (s : State) (part : PartId) (lo : Int) (n : Nat) : Bool := dxOwned s part lo.toNat ((lo + n).toNat - lo.toNat)

/-- Whether some run of a staging side reaches a region that the partition does not own (R174). -/
def dxForeign (s : State) (part : PartId) (cfg : Vector Word 64) (x : DxSide) : Bool :=
  decide (x.sp = 4) && !(dxOwnedAt s part x.lo (x.hi - x.lo).toNat) &&
    (List.range (dxTotal cfg)).any (fun n => !(dxOwnedAt s part (dxSideRun cfg x n).1 (dxSideRun cfg x n).2))

/-- The mask of the multicast group that a command names (LK_MGROUPg). -/
def dxGroupMask (s : State) (cfg : Vector Word 64) : Word := (s.links.groups[(dxGroup cfg).toNat]?).getD 0

/-- The members that a multicast across engines reaches (R188, R345): none while the engine is no member. -/
def dxMembers (s : State) (cfg : Vector Word 64) : BitVec 32 :=
  if s.links.sys = 2 then
    dxGroupMask s cfg &&& s.links.members &&& ~~~ (BitVec.ofNat 32 (2 ^ s.links.addr.toNat))
  else 0

/-- The detail of HALT_LINK_LOST (Table 10.8). -/
def linkLost (source engine port eng set : Nat) : HaltCond :=
  haltCond 0x15 eng set (put 0 source ||| put 3 engine ||| put 8 port)

/-- The tokens of a set, checked before the engine's own checks (R187, R233); the halt names the set. -/
def dxTokenCheck (s : State) (c : CoreId) (cmd : EngCmd) (cfg : Vector Word 64) : Option HaltCond :=
  let cs := if dxDs cfg = 6 ∧ dxOp cfg = 0 then dxCores cfg else [c]
  let bad (t : Nat) : Option HaltCond :=
    (cs.find? (fun d : CoreId => decide (((s.cores[d]).allocs[cmd.part]).tokCount.toNat ≤ t))).map
      (fun d : CoreId => { tokenHalt 3 0 t ((s.cores[d]).allocs[cmd.part]).tokCount.toNat with set := BitVec.ofNat 2 cmd.set.val })
  ((if dxCrEn cfg then bad (dxCrTok cfg) else none)).or (if dxAvEn cfg then bad (dxAvTok cfg) else none)

/-- The first misaligned value of check 6. -/
def dxMisaligned (cfg : Vector Word 64) : Option Int :=
  let side (x : DxSide) : List Int :=
    if x.sp = 2 then (([(x.base : Int), (dxLen cfg : Int)] ++ x.strides).filter (fun v => decide (v % 4 ≠ 0)))
    else if x.sp = 5 then (([(x.base : Int)] ++ x.strides).filter (fun v => decide (v % 256 ≠ 0)))
      ++ (if dxLen cfg ≠ 256 then [(dxLen cfg : Int)] else [])
    else []
  let zc : List Int := if dxOp cfg = 4 ∨ dxOp cfg = 5 then
      (([((if dxOp cfg = 4 then dxDst cfg else dxSrc cfg : Nat) : Int)].filter (fun v => decide (v % 4096 ≠ 0)))
        ++ ([(dxZch cfg : Int)].filter (fun v => decide (v % 8 ≠ 0)))) else []
  ((dxSides cfg).flatMap side ++ zc).head?

/-- The highest logical accumulator row of an extent, 1,023 where it spans arrays. -/
def dxTopRow (x : DxSide) : Nat :=
  let lo := x.lo.toNat
  let hi := (x.hi - 1).toNat
  if lo / 0x80000 = hi / 0x80000 then hi / 512 % 1024 else 1023

/-- The arrays that a range of accumulator bytes touches. -/
def dxArrays (lo hi : Int) : List Nat :=
  (List.range 4).filter (fun a => decide (lo.toNat / 0x80000 ≤ a) && decide (a ≤ (hi - 1).toNat / 0x80000))

/-- Whether a range of accumulator bytes touches an array that is absent or retired. -/
def dxNoArray (s : State) (c : CoreId) (lo hi : Int) : Bool :=
  (dxArrays lo hi).any (fun a => !(arrayPresent s.grade (fin 4 a)) || ((s.cores[c]).arrays[fin 4 a]).retired)

/-- Whether some run of an accumulator side stands in an absent or retired array; a run of which no byte is read stands where it
begins. The runs of GATHER are checked as they are formed (R180). -/
def dxAbsent (s : State) (c : CoreId) (cfg : Vector Word 64) (x : DxSide) : Bool :=
  decide (x.sp = 2) && !(x.src && decide (dxOp cfg = 1)) && dxNoArray s c x.lo (max x.hi (x.lo + 1)) &&
    (List.range (dxTotal cfg)).any (fun n => let r := dxSideRun cfg x n; dxNoArray s c r.1 (r.1 + (max r.2 1 : Nat)))

/-- The checks of Table 08.8, in order; a range halt names the highest row or byte of the extents that fail it (R249). -/
def dxChecks (s : State) (c : CoreId) (cmd : EngCmd) (cfg : Vector Word 64) : Option HaltCond :=
  let k := s.cores[c]
  let ch := dxChanOf cfg
  let h (code : Byte) (n extra : Nat) : Option HaltCond := some (dxHalt code cmd.set ch 6 n extra)
  let op := dxOp cfg
  let ss := dxSs cfg
  let ds := dxDs cfg
  let sides := dxSides cfg
  let reached := dxReached cfg
  let dims := [1, 2, 3, 4, 5]
  let n := 128 / dxEsz cfg
  let cs := dxCores cfg
  let mask := entryCores s ((findJob s cmd.job).bind (fun j => j.entry))
  let count := (k.allocs[cmd.part]).accCount.toNat
  let rows := (reached.filter (fun x => decide (x.sp = 2) && decide (128 * count ≤ dxTopRow x))).map dxTopRow
  let outs := (reached.filter (fun x : DxSide => match dxSpaceSize x.sp with
    | some z => decide (x.lo < 0) || decide ((z : Int) < x.hi) | none => false)).map (fun x => (x.hi - 1).toNat)
    ++ (if op = 1 ∧ coreBytes < dxIdx cfg + 4 * dxCnt cfg 1 then [dxIdx cfg + 4 * dxCnt cfg 1 - 1] else [])
  if op = 7 ∨ dxMaxOut cfg = 0 ∨ dxMaxOut cfg = 7 ∨ 6 ≤ dxLevel cfg ∨
      ¬ dims.all (fun d => (List.range 5).any (fun l => decide (dxOrd cfg l = d))) ∨
      (op = 2 ∧ dxEsz cfg = 8) ∨ (op = 6 ∧ 6 ≤ dxTarget cfg) then h 0x11 1 0
  else if 5 ≤ ss ∨ (op ≠ 6 ∧ 5 ≤ ds ∧ op ≠ 0) ∨ (op ≠ 6 ∧ 6 ≤ ds ∧ ss ≠ 4) ∨ (op = 4 ∧ (ss = 0 ∨ ds ≠ 0)) ∨
      (op = 5 ∧ (ss ≠ 0 ∨ ds = 0)) ∨ (op = 2 ∧ (dxLen cfg ≠ 128 ∨ dxCnt cfg 1 ≠ n ∨ dxOrd cfg 0 ≠ 1)) then h 0x11 2 0
  else if dims.any (fun d => decide (dxCnt cfg d = 0) || decide (dxCnt cfg d < dxActD cfg d)) ∨ dxLen cfg < dxAct cfg ∨
      2 ^ 32 < dxTotal cfg ∨
      ((op = 4 ∨ op = 5 ∨ op = 6) ∧ (dims.any (fun d => decide (dxActD cfg d ≠ dxCnt cfg d)) ∨ dxAct cfg ≠ dxLen cfg)) ∨
      ((op = 4 ∨ op = 5) ∧ dxTotal cfg * dxLen cfg % 64 ≠ 0) then h 0x11 3 0
  else if sides.any (dxAbsent s c cfg) ∨
      (op ≠ 6 ∧ ds = 6 ∧ (cs = [] ∨ cs.any (fun d : CoreId => !(corePresent s.grade d) || (s.cores[d]).retired))) ∨
      (op ≠ 6 ∧ ds = 7 ∧ (s.grade = .s92 ∨ dxGroupMask s cfg = 0)) ∨
      (op = 6 ∧ 2 ≤ dxTarget cfg ∧ (s.grade = .s92 ∨ ¬ linkPresent s.grade (fin 4 (dxTarget cfg - 2)))) then h 0x11 4 0
  else if op ≠ 6 ∧ ds = 6 ∧ ¬ cs.all (fun d => decide (d ∈ mask)) then h 0x0E 5 2
  else if op ≠ 6 ∧ ds = 6 ∧ cs.any (fun d : CoreId => decide ((s.cores[d]).secure ≠ k.secure)) then h 0x0E 5 3
  else if reached.any (dxForeign s cmd.part cfg) then h 0x0E 5 1
  else match dxMisaligned cfg with
    | some v => h 0x07 6 (v % 65536).toNat
    | none =>
      if rows ≠ [] then h 0x05 7 (accExtra (rows.foldl max 0) count)
      else if outs ≠ [] then h 0x06 8 (memExtra (outs.foldl max 0))
      else none

/-- Whether runs to an engine, over the port that a command names or by their route, leave by a port of the core's world (R345). -/
def dxRouteWorld (s : State) (c : CoreId) (port : Option LinkId) (e : Nat) : Bool :=
  (runPort s port e).all (fun l => decide ((s.links.ports[l]).secure = (s.cores[c]).secure))

/-- The checks of R205 and R345, after those of Table 08.8. -/
def dxLinkChecks (s : State) (c : CoreId) (cmd : EngCmd) (cfg : Vector Word 64) : Option HaltCond :=
  let ch := dxChanOf cfg
  let e := (dxEngine cfg).toNat
  let members := (List.range 32).filter (fun m => bitAt (dxMembers s cfg) m)
  let mask := entryCores s ((findJob s cmd.job).bind (fun j => j.entry))
  if dxOp cfg = 6 ∧ dxTarget cfg ≤ 1 then
    let d := if dxTarget cfg = 0 then ringNext s c else ringPrev s c
    if d = c then some (dxHalt 0x11 cmd.set ch 7 1 0)
    else if d ∉ mask ∨ (s.cores[d]).secure ≠ (s.cores[c]).secure then some (dxHalt 0x0E cmd.set ch 7 2 4)
    else none
  else if dxOp cfg = 6 then
    if s.links.sys ≠ 2 ∨ ¬ bitAt s.links.members e then some (linkLost 4 e (dxTarget cfg - 2) 3 cmd.set.val)
    else if (s.links.ports[fin 4 (dxTarget cfg - 2)]).secure ≠ (s.cores[c]).secure ∨
        ¬ dxRouteWorld s c (some (fin 4 (dxTarget cfg - 2))) e then some (dxHalt 0x0E cmd.set ch 0 0 3)
    else none
  else if dxOp cfg = 0 ∧ dxDs cfg = 7 then
    if members = [] then some (linkLost 3 0 0 3 cmd.set.val)
    else if ¬ members.all (fun m => dxRouteWorld s c none m) then some (dxHalt 0x0E cmd.set ch 0 0 3)
    else none
  else none

/-! ### Credits (R177, R187, R205) -/

/-- The counters from which a unit takes its credit: its own core's, or those of every masked core not in reset. -/
def dxCounters (s : State) (c : CoreId) (cmd : EngCmd) (cfg : Vector Word 64) (t : Nat) : List (CoreId × TokId) :=
  let cs := if dxOp cfg = 0 ∧ dxDs cfg = 6 then (dxCores cfg).filter (fun d : CoreId => !(inReset s.cores[d])) else [c]
  cs.filterMap (fun d : CoreId => (physTok ((s.cores[d]).allocs[cmd.part]) t).map (fun p => (d, p)))

/-- The halo credit counter of a HALO command's target (R205). -/
def haloCredit (k : Core) (cfg : Vector Word 64) : Byte :=
  if dxTarget cfg = 0 then k.halo.credNext else if dxTarget cfg = 1 then k.halo.credPrev
  else (k.halo.credEng[(dxEngine cfg).toNat]?).getD 0

/-- The counters from which a waiting channel would take its credit now (R178, R236): none unless every credit it needs is there. -/
def dxClaims (s : State) (c : CoreId) (ch : ChanId) : List (CoreId × TokId) :=
  let x := dxChan s c ch
  match x.run with
  | none => []
  | some r =>
    let l := dxCounters s c r.cmd r.cfg (dxCrTok r.cfg)
    if (r.waiting ∨ r.haloWait.isSome) ∧ dxCrEn r.cfg ∧ coreLive s c ∧ ¬ x.snuff ∧ r.fault = 0 ∧ l.all (fun q => decide (tok s q.1 q.2 ≠ 0)) ∧
        ¬ (dxOp r.cfg = 6 ∧ haloCredit (s.cores[c]) r.cfg = 0) then l
    else []

/-- The place of a channel among the takes from a counter of core d in one cycle (R236): DX0 to DX3 of the core, then multicasts of the
other cores in ascending order, then halo releases (100 on). -/
def takeTurn (d c : CoreId) (ch : ChanId) : Nat := if c = d then ch.val else 4 + 4 * c.val + ch.val

/-- The waiting channels that take from a counter before a turn. -/
def claimsBefore (s : State) (d : CoreId) (t : TokId) (turn : Nat) : Nat :=
  (((List.finRange 6).flatMap (fun c => (List.finRange 4).map (fun ch => (c, ch)))).filter (fun x : CoreId × ChanId =>
    decide (takeTurn d x.1 x.2 < turn) && decide ((d, t) ∈ dxClaims s x.1 x.2))).length

/-- Whether a unit's token credit and its halo credit are there, beyond those that earlier channels take (R178, R187, R236). -/
def dxCredits (s : State) (c : CoreId) (ch : ChanId) (cmd : EngCmd) (cfg : Vector Word 64) : Bool × Bool :=
  (!(dxCrEn cfg) || (dxCounters s c cmd cfg (dxCrTok cfg)).all (fun x =>
      decide (claimsBefore s x.1 x.2 (takeTurn x.1 c ch) < (tok s x.1 x.2).toNat)),
    !(decide (dxOp cfg = 6)) || decide (haloCredit (s.cores[c]) cfg ≠ 0))

/-- A channel waits for a credit under R177 or R187 that has not come. -/
def creditWait (s : State) (c : CoreId) (of : Nat → Bool) (ch : ChanId) : Bool :=
  match (dxChan s c ch).run with
  | some r => of r.cmd.job && r.waiting && !(dxCredits s c ch r.cmd r.cfg).1
  | none => false

/-- Channels that wait for a credit. -/
def creditWaits (s : State) (c : CoreId) (of : Nat → Bool) : List ChanId := (List.finRange 4).filter (creditWait s c of)

/-- Channels that wait for a credit count n cycles that pass (DX_CREDIT_WAIT). -/
def countCredit (c : CoreId) (n : Nat) (s : State) : State :=
  modCore c (fun k => { k with dx := { k.dx with credWait := satAdd k.dx.credWait (n * (creditWaits s c (fun _ => true)).length) } }) s

end Sys2Proof.Machine
end

