-- ==== Sys2Proof/Machine/Stream.lean ====
section
/-! DEFINITION. Machine/Stream.lean: the boundary commands: the interrupt registers (R16 to R18), the stream ports and the
stem feeder's ring (R23 to R25, R121 to R124), the thermal inputs (R27) and KTICK (R30). -/
namespace Sys2Proof.Machine
open Sys2Proof

/-! ### Interrupt causes, cleared by writing 1 (R7, R18, R294, R414, R415) -/

/-- A write of LL_GINT_STATUS. -/
def writeGintStatus (val : Word) (s : State) : State :=
  { s with bnd := { s.bnd with gintStatus := w1c s.bnd.gintStatus (val.setWidth 12) } }
/-- A write of PT_INT_STATUS. -/
def writePtIntStatus (p : PartId) (val : Word) (s : State) : State :=
  modPart p (fun x => { x with intStatus := w1c x.intStatus (val.setWidth 5) }) s
/-- A write of SM_INT_STATUS. -/
def writeSmIntStatus (val : Word) (s : State) : State :=
  { s with host := { s.host with smIntStatus := w1c s.host.smIntStatus (val.setWidth 2) } }
/-- A write of SF_INT_STATUS. -/
def writeSfIntStatus (val : Word) (s : State) : State :=
  { s with safety := { s.safety with intStatus := w1c s.safety.intStatus (val.setWidth 5) } }

/-- GINT_STATUS_CLEAR. -/
def execGintStatusClear (acc : Access) (val : Word) (s : State) : Host.Outcome State Fault Refusal :=
  .next (access acc 0x104 true (writeGintStatus val) s)
/-- PT_INT_STATUS_CLEAR. -/
def execPtIntStatusClear (acc : Access) (p : PartId) (val : Word) (s : State) : Host.Outcome State Fault Refusal :=
  .next (access acc (pageOff p 0x100) true (writePtIntStatus p val) s)
/-- SM_INT_STATUS_CLEAR: SM_INT_STATUS lies at 0xE100 of the global window (R414). -/
def execSmIntStatusClear (acc : Access) (val : Word) (s : State) : Host.Outcome State Fault Refusal :=
  .next (access acc 0xE100 true (writeSmIntStatus val) s)
/-- SF_INT_STATUS_CLEAR. -/
def execSfIntStatusClear (acc : Access) (val : Word) (s : State) : Host.Outcome State Fault Refusal :=
  .next (access acc 0xA0050 true (writeSfIntStatus val) s)

/-! ### The ring of a stream port -/

/-- The first byte of slot i of a ring (Table 01.7). -/
def slotBase (ring : Word) (i : Nat) : Nat := fld ring 0 16 * 128 + i * (fld ring 24 8 * 128)

/-- The header of the line in a slot: frame, line, bytes, sof (Table 01.6). -/
def slotHeader (mem : Memory) (ring : Word) (i : Nat) : Nat × Nat × Nat × Bool :=
  let b := slotBase ring i
  (memNat mem b 2, memNat mem (b + 2) 2, memNat mem (b + 4) 2, (memLoad mem (b + 6)).toNat.testBit 0)

/-- The core that a port is bound to. -/
def portCore (x : StrmPort) : CoreId := fin 6 (fld x.ctrl 1 3)

/-- The feeder releases the first k slots that it holds: their credits return (R24). -/
def releaseSlots (n : StreamId) (k : Nat) (s : State) : State :=
  modPort n (fun x => { x with
    held := x.held.drop k
    credits := x.credits + BitVec.ofNat 8 (min k x.held.length) }) s

/-- Change the frame cursor of a core's stem feeder. -/
def modCursor (c : CoreId) (f : StemCursor → StemCursor) (s : State) : State :=
  modMx c (fun m => { m with cursor := f m.cursor }) s

/-- How many held lines stand before the first line with sof. -/
def linesBeforeSof (mem : Memory) (ring : Word) : List HeldLine → Nat
  | [] => 0
  | h :: hs => if (slotHeader mem ring h.slot).2.2.2 then 0 else linesBeforeSof mem ring hs + 1

/-- Whether a held line behind line 0 is of a frame: its number and no sof (R123). -/
def ofFrame (mem : Memory) (ring : Word) (frame : Nat) (h : HeldLine) : Bool :=
  let hd := slotHeader mem ring h.slot
  decide (hd.1 = frame) && !hd.2.2.2

/-- A started stem command with p0 = 0 looks for line 0 (R123): held lines without sof are released and counted; the first
with sof becomes line 0, its slot s0, and the cursor is in frame. -/
def stemHunt (c : CoreId) (n : StreamId) (s : State) : State :=
  let x := s.bnd.strm[n]
  let mem := (s.cores[c]).mem.core
  let k := linesBeforeSof mem x.ring x.held
  let s := modMx c (fun m => { m with stemSkip := satAdd m.stemSkip k }) (releaseSlots n k s)
  match x.held.drop k with
  | [] => s
  | h :: hs =>
    modCursor c (fun u => { u with
      seeking := false, hunt := false, drain := false, s0 := h.slot
      frame := BitVec.ofNat 16 (slotHeader mem x.ring h.slot).1, released := 0
      received := 1 + (hs.filter (fun y => ofFrame mem x.ring (slotHeader mem x.ring h.slot).1 y)).length }) s

/-- The feeder's part when a line has arrived (R123, R124): a hunting cursor looks for line 0, a cursor in frame counts the
lines of its frame, and a late line of a released frame is released. -/
def stemArrive (c : CoreId) (n : StreamId) (s : State) : State :=
  let u := (s.cores[c]).mx.cursor
  if u.port ≠ n then s
  else if ¬ u.seeking then
    let x := s.bnd.strm[n]
    if x.held.getLast?.any (ofFrame (s.cores[c]).mem.core x.ring u.frame.toNat) then
      modCursor c (fun u => { u with received := u.received + 1 }) s
    else s
  else if u.hunt then stemHunt c n s
  else if u.drain then
    let x := s.bnd.strm[n]
    match x.held with
    | [h] =>
      let hd := slotHeader (s.cores[c]).mem.core x.ring h.slot
      if ¬ hd.2.2.2 ∧ hd.1 = u.frame.toNat then
        modMx c (fun m => { m with stemSkip := satAdd m.stemSkip 1 }) (releaseSlots n 1 s)
      else modCursor c (fun u => { u with drain := false }) s
    | _ => s
  else s

/-- The effect on the ring of a write of the ring register or a change of target (R24): the write position is slot 0, the
credits are the slots, the feeder of core c releases every slot and its cursor for the port seeks. -/
def ringRestart (c : CoreId) (n : StreamId) (s : State) : State :=
  let s := modPort n (fun x => { x with wpos := 0, credits := BitVec.ofNat 8 (fld x.ring 16 8), held := [] }) s
  modCursor c (fun u => if u.port = n then { u with seeking := true, drain := false, received := 0, released := 0 } else u) s

/-- A refused stream configuration (R25). -/
def streamRefuse (n : StreamId) (s : State) : State :=
  setGint 0x800 (modPort n (fun x => { x with cfgErr := true }) s)

/-- Whether R25 refuses this control word: target_core 6 and 7 always (Table 01.7), the rest where it would enable the port. -/
def streamRefused (secure : Bool) (n : StreamId) (val : Word) (s : State) : Bool :=
  let ring := (s.bnd.strm[n]).ring
  decide (6 ≤ fld val 1 3) || bitAt val 0 &&
    (match s.cores[fld val 1 3]? with
     | none => true
     | some k => !(decide (fld val 1 3 < coreCount s.grade)) || (!secure && k.secure)
        || decide (fld ring 16 8 = 0) || decide (fld ring 24 8 = 0)
        || decide (coreBytes < slotBase ring (fld ring 16 8)))

/-- A write of LL_STRMn_CTRL (R24, R25); commands stand at line boundaries, so a change takes effect at once (log 21). -/
def writeStreamCtrl (secure : Bool) (n : StreamId) (val : Word) (s : State) : State :=
  if streamRefused secure n val s then streamRefuse n s
  else
    let old := s.bnd.strm[n]
    let s := modPort n (fun x => { x with ctrl := val &&& 0xF, cfgErr := x.cfgErr && bitAt val 0 }) s
    if fld old.ctrl 1 3 = fld val 1 3 then s else ringRestart (portCore old) n s

/-- A write of LL_STRMn_RING (R24, R25): refused while the port is enabled, and where the ring's end would pass 8 MiB. -/
def writeStreamRing (n : StreamId) (val : Word) (s : State) : State :=
  let x := s.bnd.strm[n]
  if bitAt x.ctrl 0 ∨ coreBytes < slotBase val (fld val 16 8) then streamRefuse n s
  else ringRestart (portCore x) n (modPort n (fun x => { x with ring := val }) s)

/-- STREAM_CTRL_WRITE. -/
def execStreamCtrlWrite (acc : Access) (n : StreamId) (val : Word) (s : State) : Host.Outcome State Fault Refusal :=
  .next (access acc (0x200 + 0x40 * n.val) true (writeStreamCtrl acc.secure n val) s)

/-- STREAM_RING_WRITE. -/
def execStreamRingWrite (acc : Access) (n : StreamId) (val : Word) (s : State) : Host.Outcome State Fault Refusal :=
  .next (access acc (0x204 + 0x40 * n.val) true (writeStreamRing n val) s)

/-- A source event for the tick logic (R295), raised where the source is selected and the tick runs: 0 KTICK, 1 the
engine's timer, 2 a frame start on the selected port, 3 the link tick. -/
def raiseTick (src : Nat) (port : Nat) (s : State) : State :=
  let w := s.tick.ctrl
  if s.tick.state ≠ .stopped ∧ fld w 1 2 = src ∧ (src ≠ 2 ∨ fld w 3 2 = port) then
    { s with tick := { s.tick with raised := s.tick.raised ++ [s.time] } }
  else s

/-- A dropped line (R25). -/
def dropLine (n : StreamId) (s : State) : State :=
  setGint 0x400 (modPort n (fun x => { x with drop := satAdd x.drop 1 }) s)

/-- The bytes of a line as the port writes them into a slot (Table 01.6). -/
def lineBytes (n : StreamId) (l : CameraLine) : List Byte :=
  leBytes 2 l.frame.toNat ++ leBytes 2 l.line.toNat ++ leBytes 2 l.payload.length
    ++ [BitVec.ofNat 8 (b2n l.sof + 2 * b2n l.eof), BitVec.ofNat 8 n.val] ++ leBytes 8 0 ++ l.payload

/-- A line that the port accepts: header and payload go into the next slot, a credit is consumed, the line is held for the
feeder, and sof raises the frame-start event (R23, R24). -/
def acceptLine (n : StreamId) (l : CameraLine) (s : State) : State :=
  let x := s.bnd.strm[n]
  let c := portCore x
  let s := freshWords (.core c) [(slotBase x.ring x.wpos, 16 + l.payload.length)] <|
    modCore c (fun k => useLines (slotBase x.ring x.wpos) l.payload.length { k with mem := { k.mem with
    core := memStore k.mem.core (slotBase x.ring x.wpos) (lineBytes n l) } }) s
  let s := modPort n (fun x => { x with
    credits := x.credits - 1
    wpos := (x.wpos + 1) % fld x.ring 16 8
    lastFrame := l.frame
    inFrame := (l.sof || x.inFrame) && !l.eof
    held := x.held ++ [{ slot := x.wpos, avail := false }] }) s
  let s := stemArrive c n s
  if l.sof then raiseTick 2 n.val s else s

/-- STREAM_LINE_ARRIVAL: a line of 1 to 16,368 bytes. A disabled port drops it; an enabled one with a credit accepts it, or
drops it where it does not fit its slot (R24, R25). -/
def execStreamLineArrival (n : StreamId) (at_ : Nat) (line : CameraLine) (s : State) :
    Host.Outcome State Fault Refusal :=
  let s := atTime at_ s
  let x := s.bnd.strm[n]
  .next (
    if ¬ streamPresent s.grade n ∨ line.payload.length = 0 ∨ 16368 < line.payload.length then s
    else if ¬ bitAt x.ctrl 0 then dropLine n s
    else if x.credits = 0 then s
    else if fld x.ring 24 8 * 128 < 16 + line.payload.length then dropLine n s
    else acceptLine n line s)

/-- STEM_LINE_AVAILABLE: the oldest line not yet available becomes so (R121). -/
def execStemLineAvailable (n : StreamId) (s : State) : Host.Outcome State Fault Refusal :=
  .next (modPort n (fun x => { x with
    held := modNth (fun h => { h with avail := true }) (x.held.findIdx (fun h => !h.avail)) x.held }) s)

/-! ### Thermal manager, KTICK -/

/-- A new throttle level is applied: throttle_change is set where the level changes (R18, R27). -/
def applyThrottle (level : BitVec 3) (s : State) : State :=
  let s' := { s with bnd := { s.bnd with throttle := level, thrNext := none } }
  if s.bnd.throttle = level then s' else setGint 0x80 s'

/-- An 8-cycle pattern begins in some core (R95). Each core keeps the level of its own pattern under way, Core.level, so that none is
torn. -/
def patternStarts (s : State) : Bool := s.cores.toList.any (fun k => decide (k.cyc % 8 = 0))

/-- A level that waits is sampled at the start of a pattern. -/
def throttleDue (s : State) : State :=
  match s.bnd.thrNext with
  | some level => if patternStarts s then applyThrottle level s else s
  | none => s

/-- THROTTLE_LEVEL_CHANGE: THR_LEVEL is sampled at the start of an 8-cycle pattern (R27, R95). -/
def execThrottleLevelChange (level : BitVec 3) (s : State) : Host.Outcome State Fault Refusal :=
  .next (throttleDue { s with bnd := { s.bnd with thrNext := some level } })

/-- Whether a temperature reaches the threshold, both signed (Table 01.9). -/
def warmEnough (temp warn : Byte) : Bool := decide (warn.toInt ≤ temp.toInt)

/-- TEMP is refreshed: warn follows, and its rising edge sets thermal_warn (R27, Table 01.9). -/
def refreshWarn (s : State) : State :=
  let w := warmEnough s.bnd.tempC s.bnd.warnC
  let s' := { s with bnd := { s.bnd with warn := w } }
  if w ∧ ¬ s.bnd.warn then setGint 0x100 s' else s'

/-- TEMP_UPDATE. -/
def execTempUpdate (temp : Byte) (s : State) : Host.Outcome State Fault Refusal :=
  .next (refreshWarn { s with bnd := { s.bnd with tempC := temp } })

/-- KTICK_EDGE: a filtered rising edge. It is taken while KIO0 is claimed as the tick input and at least 1 µs after the
last one (R30). -/
def execKtickEdge (at_ : Nat) (s : State) : Host.Outcome State Fault Refusal :=
  let s := atTime at_ s
  .next (
    if (s.fabric.pins[0]).use ≠ 2 then s
    else if s.bnd.ktickLast.any (fun t => decide (s.time < t + us 1)) then s
    else raiseTick 0 0 { s with bnd := { s.bnd with ktickLast := some s.time } })

end Sys2Proof.Machine
end

