-- ==== Sys2Proof/Machine/Mx.lean ====
section
/-! DEFINITION. Machine/Mx.lean: the arithmetic of the matrix engine: effective fields of a pass (R136), its start checks
(Tables 03.8, 05.6, 06.7), the stationary operand of every cell (R114), the rows of a pass, its merges and its output
codes (R61 to R74, R126). The commands stand in MxCmds.lean. -/
namespace Sys2Proof.Machine
open Sys2Proof

/-! ### Fields of a configuration set (Tables 03.10 to 03.12, 05.1, 05.5, 06.4) -/

/-- M, the weight rows of a pass. -/
def mxM (cfg : Vector Word 64) : Nat := fld (reg cfg 0x00) 16 10 + 1
/-- p_t. -/
def mxPt (cfg : Vector Word 64) : Nat := fld (reg cfg 0x00) 8 8
/-- arr_mask. -/
def mxMask (cfg : Vector Word 64) : BitVec 4 := cfgMask cfg
/-- bcast: split mode. -/
def mxSplit (cfg : Vector Word 64) : Bool := bitAt (reg cfg 0x04) 4
/-- w_fmt: BG4 rows. -/
def mxBg4 (cfg : Vector Word 64) : Bool := bitAt (reg cfg 0x04) 11
/-- final. -/
def mxFinal (cfg : Vector Word 64) : Bool := bitAt (reg cfg 0x04) 13
/-- The requantisation control word. -/
def mxRq (cfg : Vector Word 64) : Requant := requantOf (reg cfg 0x20) (reg cfg 0x24)
/-- ag_mode: 0 window, 1 matrix, 2 indirect, 3 stem. -/
def mxAgMode (cfg : Vector Word 64) : Nat := fld (reg cfg 0x40) 16 2
/-- pad_mode. -/
def mxPadMode (cfg : Vector Word 64) : Nat := fld (reg cfg 0x40) 18 3
/-- rg_w. -/
def mxRgW (cfg : Vector Word 64) : Nat := fld (reg cfg 0x40) 21 3
/-- The row-group width gw. -/
def mxGw (cfg : Vector Word 64) : Nat := 32 >>> mxRgW cfg
/-- h_in. -/
def mxHin (cfg : Vector Word 64) : Nat := fld (reg cfg 0x44) 0 16
/-- w_in. -/
def mxWin (cfg : Vector Word 64) : Nat := fld (reg cfg 0x44) 16 16
/-- h_out. -/
def mxHout (cfg : Vector Word 64) : Nat := fld (reg cfg 0x48) 0 16
/-- w_out. -/
def mxWout (cfg : Vector Word 64) : Nat := fld (reg cfg 0x48) 16 16
/-- N, the positions of the output map. -/
def mxN (cfg : Vector Word 64) : Nat := mxHout cfg * mxWout cfg
/-- The vertical and horizontal strides. -/
def mxSy (cfg : Vector Word 64) : Nat := fld (reg cfg 0x4C) 0 6 + 1
/-- Horizontal stride. -/
def mxSx (cfg : Vector Word 64) : Nat := fld (reg cfg 0x4C) 6 6 + 1
/-- Vertical dilation. -/
def mxDy (cfg : Vector Word 64) : Nat := fld (reg cfg 0x4C) 12 6 + 1
/-- Horizontal dilation. -/
def mxDx (cfg : Vector Word 64) : Nat := fld (reg cfg 0x4C) 18 6 + 1
/-- pad_top. -/
def mxPadTop (cfg : Vector Word 64) : Nat := fld (reg cfg 0x50) 0 7
/-- pad_left. -/
def mxPadLeft (cfg : Vector Word 64) : Nat := fld (reg cfg 0x50) 8 7
/-- cb_stride in bytes (modes 0 to 2). -/
def mxCbStride (cfg : Vector Word 64) : Nat := fld (reg cfg 0x54) 0 16 * 128
/-- idx_base in bytes (indirect mode). -/
def mxIdxBase (cfg : Vector Word 64) : Nat := fld (reg cfg 0x54) 16 16 * 128
/-- The stem port (mode 3). -/
def mxPort (cfg : Vector Word 64) : StreamId := fin 4 (fld (reg cfg 0x54) 0 2)
/-- The space-to-channel factor f: 1 outside stem mode. -/
def mxF (cfg : Vector Word 64) : Nat := if mxAgMode cfg = 3 then 2 ^ fld (reg cfg 0x54) 2 2 else 1
/-- Bytes per pixel. -/
def mxCpix (cfg : Vector Word 64) : Nat := fld (reg cfg 0x54) 4 2 + 1
/-- ring_rel. -/
def mxRingRel (cfg : Vector Word 64) : Bool := bitAt (reg cfg 0x54) 6
/-- line_gate. -/
def mxLineGate (cfg : Vector Word 64) : Bool := bitAt (reg cfg 0x54) 7
/-- The input row pitch in positions. -/
def mxPitch (cfg : Vector Word 64) : Nat :=
  if fld (reg cfg 0x58) 0 16 = 0 then mxWin cfg else fld (reg cfg 0x58) 0 16
/-- The output row pitch in positions. -/
def mxPitchOut (cfg : Vector Word 64) : Nat :=
  if fld (reg cfg 0x64) 16 16 = 0 then mxWout cfg else fld (reg cfg 0x64) 16 16
/-- Rows of the map read under R114. -/
def mxH (cfg : Vector Word 64) : Nat := mxHin cfg / mxF cfg
/-- Columns of the map read under R114. -/
def mxW (cfg : Vector Word 64) : Nat := mxWin cfg / mxF cfg
/-- k_count. -/
def mxKCount (cfg : Vector Word 64) : Nat := fld (reg cfg 0x70) 4 12 + 1
/-- p_count. -/
def mxPCount (cfg : Vector Word 64) : Nat := fld (reg cfg 0x70) 16 16 + 1
/-- m_count. -/
def mxMCount (cfg : Vector Word 64) : Nat := fld (reg cfg 0x74) 0 12 + 1
/-- order. -/
def mxOrder (cfg : Vector Word 64) : Nat := fld (reg cfg 0x70) 0 3
/-- ktab_en. -/
def mxKtab (cfg : Vector Word 64) : Bool := bitAt (reg cfg 0x70) 3
/-- The ring depth of the slot ring. -/
def mxRing (cfg : Vector Word 64) : Nat := fld (reg cfg 0x74) 12 3 + 1
/-- Slots per channel block. -/
def mxSpb (cfg : Vector Word 64) : Nat := (mxM cfg + 127) / 128
/-- All passes of the command. -/
def mxPasses (cfg : Vector Word 64) : Nat := mxKCount cfg * mxPCount cfg * mxMCount cfg

/-! ### The nest (R134 to R136) -/

/-- The loops under an order, outermost first: 0 is k, 1 is p, 2 is m (Table 06.5). -/
def mxLoops (order : Nat) : Nat × Nat × Nat :=
  match order with
  | 0 => (2, 1, 0)
  | 1 => (1, 2, 0)
  | 2 => (2, 0, 1)
  | 3 => (1, 0, 2)
  | 4 => (0, 2, 1)
  | _ => (0, 1, 2)

/-- The count of a loop. -/
def mxCount (cfg : Vector Word 64) (loop : Nat) : Nat :=
  if loop = 0 then mxKCount cfg else if loop = 1 then mxPCount cfg else mxMCount cfg

/-- Where a pass stands in the nest: ki, pi, mi, n_in, i_in, g_out (R136). -/
structure MxPos where
  ki : Nat
  pi : Nat
  mi : Nat
  nIn : Nat
  iIn : Nat
  gOut : Nat
  deriving DecidableEq, Repr

/-- The nest position of pass idx (R136). -/
def mxPos (cfg : Vector Word 64) (idx : Nat) : MxPos :=
  let l := mxLoops (mxOrder cfg)
  let cIn := mxCount cfg l.2.2
  let cMid := mxCount cfg l.2.1
  let i3 := idx % cIn
  let i2 := (idx / cIn) % cMid
  let i1 := idx / (cIn * cMid)
  let at_ (x : Nat) : Nat := if l.2.2 = x then i3 else if l.2.1 = x then i2 else i1
  let inside : Nat × Nat × Nat :=
    if l.2.2 = 0 then (1, 0, i1 * cMid + i2)
    else if l.2.1 = 0 then (cIn, i3, i1)
    else (cMid * cIn, i2 * cIn + i3, 0)
  { ki := at_ 0, pi := at_ 1, mi := at_ 2, nIn := inside.1, iIn := inside.2.1, gOut := inside.2.2 }

/-- The K-step table entry ki as a 128-bit number (R135). -/
def mxEntry (mem : Memory) (cfg : Vector Word 64) (ki : Nat) : BitVec 128 :=
  BitVec.ofNat 128 (memNat mem (fld (reg cfg 0x78) 16 16 * 128 + 16 * ki) 16)

/-- Whether an entry holds a non-zero reserved field (Table 06.6). -/
def mxEntryReserved (e : BitVec 128) : Bool :=
  decide (fld e 38 2 ≠ 0) || decide (fld e 46 2 ≠ 0) || decide (fld e 87 41 ≠ 0)

/-- The effective fields of pass idx, which stands at q in the nest (R136). -/
def mxEffAt (mem : Memory) (cfg : Vector Word 64) (idx : Nat) (q : MxPos) : MxEff :=
  let m := mxM cfg
  let rowUnits := if mxBg4 cfg then 1 else 2
  let kT := fld (reg cfg 0x00) 0 8
  let merge := fld (reg cfg 0x04) 7 2
  let shift := fld (reg cfg 0x04) 9 2
  let wBase := fld (reg cfg 0x08) 0 13
  let wM := wBase + q.mi * fld (reg cfg 0x7C) 0 13
  let kRg0 := fld (reg cfg 0x58) 16 16
  let kLast := fld (reg cfg 0x74) 16 8
  let innerM := decide ((mxLoops (mxOrder cfg)).2.2 = 2) && decide (0 < q.mi)
  let slotOf (s : Nat) : Nat :=
    fld (reg cfg 0x04) 14 3 + mxSpb cfg * (q.iIn + q.nIn * (q.gOut % mxRing cfg)) + s
  let chOf (s : Nat) : Nat := fld (reg cfg 0x30) 0 16 + q.mi * fld (reg cfg 0x7C) 16 16 + s * m
  let p0 := fld (reg cfg 0x5C) 0 24 + q.pi * fld (reg cfg 0x78) 0 16
  if mxKtab cfg then
    let e := mxEntry mem cfg q.ki
    let s := fld e 77 3
    { idx := idx, kRg0 := fld e 0 16, kT := fld e 16 8, kh := fld e 24 4 + 1, kw := fld e 28 4 + 1,
      koffY := fld e 32 6, koffX := fld e 40 6,
      xBase := if bitAt e 85 then fld e 48 16 else fld (reg cfg 0x40) 0 16,
      w := wM + fld e 64 13, p0 := p0, merge := fld e 80 2, shift := fld e 82 2,
      reuse := bitAt e 84 || innerM, fin := mxFinal cfg && bitAt e 86,
      slot := slotOf s, ch := chOf s, entryReserved := mxEntryReserved e }
  else
    { idx := idx, kRg0 := kRg0 + q.ki * (kT / mxGw cfg),
      kT := if q.ki + 1 = mxKCount cfg ∧ kLast ≠ 0 then kLast else kT,
      kh := fld (reg cfg 0x4C) 24 4 + 1, kw := fld (reg cfg 0x4C) 28 4 + 1,
      koffY := fld (reg cfg 0x50) 16 6, koffX := fld (reg cfg 0x50) 24 6,
      xBase := fld (reg cfg 0x40) 0 16,
      w := wM + q.ki * m * rowUnits, p0 := p0,
      merge := if q.ki = 0 ∨ merge = 2 then merge else 1, shift := shift,
      reuse := (decide (idx = 0) && bitAt (reg cfg 0x04) 5) || innerM,
      fin := mxFinal cfg && decide (q.ki + 1 = mxKCount cfg),
      slot := slotOf 0, ch := chOf 0, entryReserved := false }

/-- The effective fields of pass idx (R136). -/
def mxEff (mem : Memory) (cfg : Vector Word 64) (idx : Nat) : MxEff := mxEffAt mem cfg idx (mxPos cfg idx)

/-- Whether pass e of a command swaps in a plane (R64, R66, R80): it is no reuse pass, or it must reload (R100, R104). -/
def mxSwaps (cmd : MxCmd) (e : MxEff) : Bool :=
  decide (e.kT ≠ 0) && (!e.reuse || (cmd.reload && decide (e.idx = cmd.next)))

/-! ### Accumulation groups (R103, R138) -/

/-- The nearest pass, among the n passes from low on, that with its followers overwrites every slot they touch before it is added to;
open lists the slots touched later that still lack their overwrite. -/
def groupStart (eff : Nat → MxEff) (low : Nat) : Nat → List Nat → Option Nat
  | 0, _ => none
  | n + 1, open_ =>
    let e := eff (low + n)
    let left := open_.filter (fun x => decide (x ≠ e.slot)) ++ (if e.merge = 0 then [] else [e.slot])
    if left = [] then some (low + n) else groupStart eff low n left

/-- The slots of n passes from first on. -/
def passSlots (eff : Nat → MxEff) (first n : Nat) : List Nat :=
  (List.range n).foldl (fun l i => let x := (eff (first + i)).slot; if x ∈ l then l else x :: l) []

/-- The accumulation group of a pass: its first pass, none where no overwrite pass of the command leads it, and its last. With no loop
inside k it lies in a run of passes over k, unless an earlier run's pass leads it, and ends before a slot of it is overwritten again;
otherwise it is the command (R138). -/
def mxGroup (mem : Memory) (cfg : Vector Word 64) (idx : Nat) : Option Nat × Nat :=
  let eff := mxEff mem cfg
  if mxOrder cfg ≤ 1 then
    let low := idx / mxKCount cfg * mxKCount cfg
    let hi := low + mxKCount cfg - 1
    let first := (groupStart eff low (idx - low + 1) []).orElse (fun _ => groupStart eff 0 (idx + 1) [])
    let slots := passSlots eff (first.getD low) (idx + 1 - first.getD low)
    (first, match (List.range (hi - idx)).find? (fun i => let e := eff (idx + 1 + i); decide (e.merge = 0 ∧ e.slot ∈ slots)) with
      | some i => idx + i
      | none => hi)
  else
    let q := mxPos cfg idx
    let led := (List.range (q.ki + 1)).any (fun ki =>
      let e := mxEffAt mem cfg idx { q with ki := ki }
      decide (e.merge = 0 ∧ e.slot = (eff idx).slot))
    (if led then some 0 else none, mxPasses cfg - 1)

/-- The logical slot rows that n passes from first on write, as ranges (R72, R103, R138). -/
def groupRows (mem : Memory) (cfg : Vector Word 64) (first n : Nat) : List (Nat × Nat) :=
  (passSlots (mxEff mem cfg) first n).map (fun x => (x * 128, mxM cfg))

/-! ### Checks (Tables 03.8, 05.6, 06.7) -/

/-- A halt of MX from a check. -/
def mxHalt (code : Byte) (set : SetId) (table order extra : Nat) : HaltCond :=
  { code := code, detail := stdDetail 0 set.val 0 table order extra, eng := 0#3, set := BitVec.ofNat 2 set.val }

/-- The nest checks 1 to 5 (Table 06.7). -/
def mxNestChecks (k : Core) (cmd : EngCmd) (cfg : Vector Word 64) : Option HaltCond :=
  let count := (k.allocs[cmd.part]).accCount.toNat
  let nIn := (mxPos cfg 0).nIn
  let acc := fld (reg cfg 0x04) 14 3 + mxSpb cfg * nIn * mxRing cfg
  let tabEnd := fld (reg cfg 0x78) 16 16 * 128 + 16 * mxKCount cfg
  if 6 ≤ mxOrder cfg then some (mxHalt 0x11#8 cmd.set 3 1 0)
  else if 2 ^ 24 < mxPasses cfg then some (mxHalt 0x11#8 cmd.set 3 2 0)
  else if ¬ mxKtab cfg ∧ 128 < fld (reg cfg 0x74) 16 8 then some (mxHalt 0x11#8 cmd.set 3 3 0)
  else if mxKtab cfg ∧ coreBytes < tabEnd then some (mxHalt 0x06#8 cmd.set 3 4 (memExtra (tabEnd - 1)))
  else if count < acc then some (mxHalt 0x05#8 cmd.set 3 5 (accExtra (acc * 128 - 1) count))
  else none

/-- The masked arrays. -/
def mxArrays (cfg : Vector Word 64) : List ArrId := (List.finRange 4).filter (fun a => bitAt (mxMask cfg) a.val)

/-- The effective width of a bypass map (R75). -/
def cEff (map : BitVec 128) : Nat := 128 - popcount 128 map.toNat

/-- The highest output channel that a pass produces (R67). -/
def mxTopChannel (cfg : Vector Word 64) (e : MxEff) : Nat :=
  (mxArrays cfg).foldl (fun t a =>
    max t (e.ch + (if mxSplit cfg then 0 else a.val * fld (reg cfg 0x30) 16 16) + (mxM cfg - 1))) 0

/-- Checks 1 to 8 of Table 03.8 on a pass's effective fields. -/
def mxStartChecks (g : Grade) (k : Core) (cmd : EngCmd) (cfg : Vector Word 64) (e : MxEff) : Option HaltCond :=
  let inc (n : Nat) : Option HaltCond := some (mxHalt 0x11#8 cmd.set 1 n e.idx)
  let arrs := mxArrays cfg
  let count := (k.allocs[cmd.part]).accCount.toNat
  let p := mxPt cfg
  let cMax := mxTopChannel cfg e
  let biasEnd := fld (reg cfg 0x28) 0 16 * 128 + 4 * cMax + 4
  let mantEnd := fld (reg cfg 0x2C) 0 16 * 128 + cMax + 1
  let memHi := max (if (mxRq cfg).biasEn then biasEnd else 0) mantEnd
  if mxMask cfg = 0#4 ∨ arrs.any (fun a => !(arrayPresent g a) || (k.arrays[a]).retired) then inc 1
  else if e.kT ≠ 0 ∧ 128 < e.kT then inc 2
  else if e.kT ≠ 0 ∧ (p = 0 ∨ 128 < p ∨ arrs.any (fun a =>
      decide (cEff (if e.reuse then (k.arrays[a]).mapNow else (k.arrays[a]).staged) < p))) then inc 3
  else if e.merge = 3 ∨ e.shift = 3 then inc 4
  else if e.reuse ∧ e.kT ≠ 0 ∧ arrs.any (fun a => (k.arrays[a]).plane.isNone) then inc 5
  else if e.fin ∧ ¬ requantLegal (mxRq cfg) then inc 6
  else if count * 128 < e.slot * 128 + mxM cfg then
    some (mxHalt 0x05#8 cmd.set 1 7 (accExtra (e.slot * 128 + mxM cfg - 1) count))
  else if e.fin ∧ coreBytes < memHi then some (mxHalt 0x06#8 cmd.set 1 8 (memExtra (memHi - 1)))
  else none

/-- The end of an output tensor's extent, 0 where the pass writes no channel of it (R127): tensor t of R126. -/
def mxOutEnd (cfg : Vector Word 64) (e : MxEff) (t : Nat) : Nat :=
  let s1 := fld (reg cfg 0x68) 0 16
  let s2 := fld (reg cfg 0x68) 16 16
  let base := (if t = 0 then fld (reg cfg 0x60) 0 16 else if t = 1 then fld (reg cfg 0x60) 16 16
    else fld (reg cfg 0x64) 0 16) * 128
  let lo := if t = 0 then 0 else if t = 1 then s1 else s2
  let hiX := if t = 0 then (if s1 = 0 then 2 ^ 40 else s1) else if t = 1 then (if s2 = 0 then 2 ^ 40 else s2) else 2 ^ 40
  let used := if t = 0 then true else if t = 1 then decide (s1 ≠ 0) else decide (s1 ≠ 0 ∧ s2 ≠ 0)
  let top := (mxArrays cfg).foldl (fun acc a =>
    let c0 := e.ch + (if mxSplit cfg then 0 else a.val * fld (reg cfg 0x30) 16 16)
    let c1 := c0 + (mxM cfg - 1)
    if lo ≤ c1 ∧ c0 < hiX then max acc (min c1 (hiX - 1) - lo + 1) else acc) 0
  let pos := if mxAgMode cfg = 1 then mxN cfg else (mxHout cfg - 1) * mxPitchOut cfg + mxWout cfg
  let es := typeBytes (typeOf (mxRq cfg).outType)
  if used ∧ 0 < top then base + ((top - 1) / 32) * (fld (reg cfg 0x6C) 0 16 * 128) + pos * 32 * es else 0

/-- The end of the input extent of a pass outside stem mode (R127). -/
def mxInEnd (cfg : Vector Word 64) (e : MxEff) : Nat :=
  let gw := mxGw cfg
  let jTop := e.kRg0 + (e.kT / gw - 1)
  let run := if mxAgMode cfg = 1 then jTop else jTop / (e.kh * e.kw)
  let blk := (run * gw + gw - 1) / 32
  let pos := if mxAgMode cfg = 1 then mxN cfg else (mxHin cfg - 1) * mxPitch cfg + mxWin cfg
  e.xBase * 128 + blk * mxCbStride cfg + pos * 32

/-- Ceiling of a division of integers by a positive one, as rows spanned (R127). -/
def mxSpan (cfg : Vector Word 64) : Nat :=
  let arrs := (mxArrays cfg).map (fun a => a.val)
  if mxSplit cfg then (arrs.foldl max 0 - arrs.foldl min 3) * fld (reg cfg 0x0C) 0 16 + mxPt cfg else mxPt cfg

/-- The checks of Table 05.6 on a pass's effective fields. Check 7 counts a reach below the map from coordinate H on (DEDUCED, log 85). port is the
stem port's registers, inRing whether the port is present, enabled and bound to the core. -/
def mxAgChecks (port : StrmPort) (bound : Bool) (k : Core) (cmd : EngCmd) (cfg : Vector Word 64) (e : MxEff) :
    Option HaltCond :=
  let inc (n : Nat) : Option HaltCond := some (mxHalt 0x11#8 cmd.set 2 n e.idx)
  let full := decide (e.kT ≠ 0)
  let mode := mxAgMode cfg
  let s1 := fld (reg cfg 0x68) 0 16
  let s2 := fld (reg cfg 0x68) 16 16
  let h : Int := mxH cfg
  let w : Int := mxW cfg
  let topY : Int := (mxPadTop cfg : Int) - (e.koffY * mxDy cfg : Nat)
  let leftX : Int := (mxPadLeft cfg : Int) - (e.koffX * mxDx cfg : Nat)
  let botY : Int := (((mxHout cfg - 1) * mxSy cfg + (e.koffY + e.kh - 1) * mxDy cfg : Nat) : Int) - mxPadTop cfg
  let rightX : Int := (((mxWout cfg - 1) * mxSx cfg + (e.koffX + e.kw - 1) * mxDx cfg : Nat) : Int) - mxPadLeft cfg
  let f := mxF cfg
  let rho := ceilDiv (mxSpan cfg - 1) (mxWout cfg) + 1
  let lines := f * ((rho - 1) * mxSy cfg + (e.kh - 1) * mxDy cfg + 1)
  let outHi := max (mxOutEnd cfg e 0) (max (mxOutEnd cfg e 1) (mxOutEnd cfg e 2))
  let inHi := if mode = 3 ∨ ¬ full then 0
    else max (mxInEnd cfg e) (if mode = 2 then mxIdxBase cfg + 4 * mxN cfg else 0)
  let memHi := max inHi (if e.fin then outHi else 0)
  if full ∧ (4 ≤ mxPadMode cfg ∨ 6 ≤ mxRgW cfg ∨ (mode ≠ 3 ∧ (mxPadMode cfg = 2 ∨ mxPadMode cfg = 3))) then inc 1
  else if full ∧ (mxHout cfg = 0 ∨ mxWout cfg = 0 ∨ (mode ≠ 1 ∧ (mxHin cfg = 0 ∨ mxWin cfg = 0))) then inc 2
  else if full ∧ e.kT % mxGw cfg ≠ 0 then inc 3
  else if full ∧ (mode = 0 ∨ mode = 3) ∧ (64 < mxPadTop cfg ∨ 64 < mxPadLeft cfg ∨ h - 1 + 64 < botY ∨ w - 1 + 64 < rightX)
    then inc 4
  else if mxN cfg ≤ e.p0 then inc 5
  else if e.fin ∧ s2 ≠ 0 ∧ (s1 = 0 ∨ s2 ≤ s1) then inc 6
  else if full ∧ mode = 3 ∧
      (¬ bound ∨ mxHin cfg % f ≠ 0 ∨ mxWin cfg % f ≠ 0 ∨
        fld port.ring 24 8 * 128 < 16 + mxWin cfg * mxCpix cfg ∨ fld port.ring 16 8 < lines ∨
        (mxPadMode cfg = 2 ∧ (h - 1 < topY ∨ h - 2 < botY - h ∨ w - 1 < leftX ∨ w - 2 < rightX - w)) ∨
        (e.p0 ≠ 0 ∧ k.mx.cursor.seeking)) then inc 7
  else if coreBytes < memHi then some (mxHalt 0x06#8 cmd.set 2 8 (memExtra (memHi - 1)))
  else none

/-- All checks of a pass at its formation, in order (R137). -/
def mxPassChecks (g : Grade) (port : StrmPort) (bound : Bool) (k : Core) (cmd : EngCmd) (cfg : Vector Word 64)
    (e : MxEff) : Option HaltCond :=
  if e.entryReserved then some (mxHalt 0x11#8 cmd.set 3 6 e.idx)
  else (mxStartChecks g k cmd cfg e).or (mxAgChecks port bound k cmd cfg e)

/-! ### Operands (R111, R114, R116 to R120) -/

/-- A coordinate after padding: the coordinate read, or none where the padding code is read (R114). -/
def mxPadCoord (mode : Nat) (v n : Int) : Option Int :=
  if 0 ≤ v ∧ v < n then some v
  else if mode = 2 then some (if v < 0 then -v else 2 * n - 2 - v)
  else if mode = 3 then some (if v < 0 then 0 else n - 1)
  else none

/-- The regrouped coordinates that row r of the chunk reads at position q, before padding (R114). -/
def mxCoord (mem : Memory) (cfg : Vector Word 64) (e : MxEff) (q r : Nat) : Int × Int :=
  let j := e.kRg0 + r / mxGw cfg
  let t := j % (e.kh * e.kw)
  let ky := t / e.kw
  let kx := t % e.kw
  let idx : Word := BitVec.ofNat 32 (memNat mem (mxIdxBase cfg + 4 * q) 4)
  let y0 : Int := if mxAgMode cfg = 2 then sfld idx 16 16 - mxPadTop cfg
    else ((q / mxWout cfg * mxSy cfg : Nat) : Int) - mxPadTop cfg
  let x0 : Int := if mxAgMode cfg = 2 then sfld idx 0 16 - mxPadLeft cfg
    else ((q % mxWout cfg * mxSx cfg : Nat) : Int) - mxPadLeft cfg
  (y0 + ((e.koffY + ky) * mxDy cfg : Nat), x0 + ((e.koffX + kx) * mxDx cfg : Nat))

/-- The channel that row r of the chunk holds (R111, R114). -/
def mxChannel (cfg : Vector Word 64) (e : MxEff) (r : Nat) : Nat :=
  let gw := mxGw cfg
  let j := e.kRg0 + r / gw
  if mxAgMode cfg = 1 then j * gw + r % gw else j / (e.kh * e.kw) * gw + r % gw

/-- The camera line that row r at position q reads, none for padding or an empty stem channel (R120). -/
def mxLine (mem : Memory) (cfg : Vector Word 64) (e : MxEff) (q r : Nat) : Option Nat :=
  let yx := mxCoord mem cfg e q r
  let ch := mxChannel cfg e r
  let f := mxF cfg
  if f * f * mxCpix cfg ≤ ch then none
  else match mxPadCoord (mxPadMode cfg) yx.1 (mxH cfg), mxPadCoord (mxPadMode cfg) yx.2 (mxW cfg) with
    | some iy, some _ => some (iy.toNat * f + ch / mxCpix cfg / f)
    | _, _ => none

/-- Where a stationary operand comes from: the byte of core memory that is read, a code that is not read, or no operand at all. -/
inductive CellSource where
  | byte (a : Nat)
  | code (b : Byte)
  | zero
  deriving DecidableEq, Repr

/-- The source of logical column p, row r of array a's plane (R114). ring is the stem port's ring register. -/
def mxCell (mem : Memory) (ring : Word) (s0 : Nat) (cfg : Vector Word 64) (e : MxEff) (a p r : Nat) : CellSource :=
  let q := e.p0 + p + (if mxSplit cfg then a * fld (reg cfg 0x0C) 0 16 else 0)
  let ch := mxChannel cfg e r
  if e.kT ≤ r ∨ mxPt cfg ≤ p ∨ mxN cfg ≤ q then .zero
  else if mxAgMode cfg = 1 then .byte (e.xBase * 128 + ch / 32 * mxCbStride cfg + q * 32 + ch % 32)
  else
    let yx := mxCoord mem cfg e q r
    let inside := decide (0 ≤ yx.1 ∧ yx.1 < mxH cfg ∧ 0 ≤ yx.2 ∧ yx.2 < mxW cfg)
    if ¬ inside ∧ mxPadMode cfg = 0 then .code 0x00#8
    else if ¬ inside ∧ mxPadMode cfg = 1 then .code (BitVec.ofNat 8 (fld (reg cfg 0x40) 24 8))
    else
      let iy := ((mxPadCoord (mxPadMode cfg) yx.1 (mxH cfg)).getD 0).toNat
      let ix := ((mxPadCoord (mxPadMode cfg) yx.2 (mxW cfg)).getD 0).toNat
      if mxAgMode cfg = 3 then
        let f := mxF cfg
        let cp := mxCpix cfg
        if f * f * cp ≤ ch then .zero
        else
          let line := iy * f + ch / cp / f
          let pixel := ix * f + ch / cp % f
          let slot := (s0 + line) % fld ring 16 8
          .byte (fld ring 0 16 * 128 + slot * (fld ring 24 8 * 128) + 16 + pixel * cp + ch % cp)
      else .byte (e.xBase * 128 + ch / 32 * mxCbStride cfg + (iy * mxPitch cfg + ix) * 32 + ch % 32)

/-- The operand of a source: the code less the zero point (R38). -/
def mxOperand (mem : Memory) (cfg : Vector Word 64) (x : CellSource) : Int :=
  let op (b : Byte) : Int := operand9 (bitAt (reg cfg 0x34) 0) (fld (reg cfg 0x34) 8 8) b
  match x with
  | .byte a => op (memLoad mem a)
  | .code b => op b
  | .zero => 0

/-- The plane that array a loads for a pass (R62, R67, R114). -/
def mxPlane (mem : Memory) (ring : Word) (s0 : Nat) (map : BitVec 128) (cfg : Vector Word 64) (e : MxEff)
    (a : ArrId) : Plane :=
  { map := map,
    cols := (List.range (mxPt cfg)).map (fun p =>
      (List.range e.kT).map (fun r => mxOperand mem cfg (mxCell mem ring s0 cfg e (if mxSplit cfg then a.val else 0) p r))) }

/-- The positions of the planes of a load, over the masked arrays (R67). -/
def mxPositions (cfg : Vector Word 64) (e : MxEff) : List Nat :=
  let bases := if mxSplit cfg then (mxArrays cfg).map (fun a => a.val * fld (reg cfg 0x0C) 0 16) else [0]
  (bases.flatMap (fun b => (List.range (mxPt cfg)).map (fun p => e.p0 + b + p))).filter (fun q => decide (q < mxN cfg))

/-- The camera lines that the planes of a load need (R121). -/
def mxLines (mem : Memory) (cfg : Vector Word 64) (e : MxEff) : List Nat :=
  ((mxPositions cfg e).flatMap (fun q => (List.range e.kT).filterMap (fun r => mxLine mem cfg e q r))).eraseDups

/-- The physical column of logical position p under a bypass map (R76). -/
def physCol (map : BitVec 128) (p : Nat) : Nat :=
  (((List.range 128).filter (fun j => !(bitAt map j))).drop p).headD 128

/-- The operand that cell (r, c) of a plane holds (R60, R62, R76). -/
def cellOperand (pl : Plane) (r c : Nat) : Int :=
  if bitAt pl.map c then 0
  else
    let p := ((List.range c).filter (fun j => !(bitAt pl.map j))).length
    ((pl.cols.drop p).headD []).drop r |>.headD 0

/-- The cells of a plane whose gate flag is set (R40, R63, Table 03.13): all but those with a non-zero operand. -/
def gatedCells (pl : Plane) : Nat :=
  16384 - (pl.cols.map (fun col => (col.filter (fun x => decide (x ≠ 0))).length)).foldl (· + ·) 0

/-! ### The fetch of a load (R116) -/

/-- The steps that a load has made in column 0. -/
def MxLoad.done (l : MxLoad) : Nat := l.cols[0]

/-- The pieces of 32 bytes that a load reads first in step t of its columns, with the pieces that it has read by then, as a bit set. -/
def newPieces (src : Nat → Nat → Nat → CellSource) (planes : List Nat) (cols : List Nat) (kT t seen : Nat) : Nat × Nat :=
  let cells := planes.flatMap (fun a => cols.zipIdx.filterMap (fun x =>
    let i := t - x.1
    if t < x.1 ∨ 127 < i ∨ kT ≤ 127 - i then none
    else match src a x.2 (127 - i) with | .byte b => some (b / 32) | _ => none))
  cells.foldl (fun (acc : Nat × Nat) q => if acc.2.testBit q then acc else (acc.1 + 1, acc.2 ||| 2 ^ q)) (0, seen)

/-- The pieces that steps 0 to t of a load need, t from the list's first on. -/
def needsFrom (src : Nat → Nat → Nat → CellSource) (planes : List Nat) (cols : List Nat) (kT : Nat) : List Nat → Nat → Nat → List Nat
  | [], _, _ => []
  | t :: ts, n, seen =>
    let x := newPieces src planes cols kT t seen
    (n + x.1) :: needsFrom src planes cols kT ts (n + x.1) x.2

/-- How many distinct pieces of core memory steps 0 to t of a load need (R62, R116): one plane in shared mode, in the columns of the first
masked array. -/
def mxNeeds (mem : Memory) (ring : Word) (s0 : Nat) (map : BitVec 128) (cfg : Vector Word 64) (e : MxEff) : List Nat :=
  let cols := (List.range 128).filter (fun j => !(bitAt map j))
  needsFrom (mxCell mem ring s0 cfg e) (if mxSplit cfg then (mxArrays cfg).map (fun a => a.val) else [0])
    (cols.take (mxPt cfg)) e.kT (List.range 255) 0 0

/-! ### Rows, merges and codes (R61, R67, R71 to R74, R126) -/

/-- n bytes of the weight buffer, addresses modulo 512 KiB (R83). -/
def wbufBytes (m : Memory) (a n : Nat) : List Byte :=
  let a := a % 0x80000
  if a + n ≤ 0x80000 then memBytes m a n
  else memBytes m a (0x80000 - a) ++ memBytes m 0 (n - (0x80000 - a))

/-- The first 64-byte unit of the weight stream of array a (R67). -/
def mxUnits (cfg : Vector Word 64) (e : MxEff) (a : Nat) : Nat :=
  e.w + (if mxSplit cfg then 0 else a * fld (reg cfg 0x08) 13 13)

/-- Where weight row m of array a lies in the weight buffer (R83), and its length. -/
def mxRowPlace (cfg : Vector Word 64) (e : MxEff) (a m : Nat) : Nat × Nat :=
  if mxBg4 cfg then ((mxUnits cfg e a + m) * 64 % 0x80000, 64) else ((mxUnits cfg e a + 2 * m) * 64 % 0x80000, 128)

/-- The weight elements of row m for array a (R41 to R45, R67). -/
def mxWeights (wbuf : Memory) (cfg : Vector Word 64) (e : MxEff) (a m : Nat) : List Int :=
  let units := mxUnits cfg e a
  if mxBg4 cfg then
    let tab : BitVec 128 := if bitAt (reg cfg 0x04) 12 then bg4Default
      else (reg cfg 0x1C) ++ (reg cfg 0x18) ++ (reg cfg 0x14) ++ (reg cfg 0x10)
    bg4Row tab (wbufBytes wbuf ((units + m) * 64) 64)
  else s8Row (wbufBytes wbuf ((units + 2 * m) * 64) 128)

/-- The column sums of a weight row against a plane, for n logical positions (R46, R47, R60, R72); a position that the plane does not
hold has zero operands (R62). -/
def columnSums (pl : Plane) (w : List Int) (n : Nat) : List Int :=
  ((pl.cols.take n).map (fun col => (List.zipWith (· * ·) w col).foldl (· + ·) 0))
    ++ List.replicate (n - pl.cols.length) 0

/-- The column sums of row m on array a against its active plane, for this command's P_t positions (R67, R72); zero for K_t = 0 (R80),
where at most the row's 128 positions are merged (log 79). -/
def partSums (k : Core) (cfg : Vector Word 64) (e : MxEff) (a : ArrId) (m : Nat) : List Int :=
  let n := min 128 (mxPt cfg)
  if e.kT = 0 then List.replicate n 0
  else match (k.arrays[a]).plane with
    | some pl => columnSums pl (mxWeights k.mem.wbuf cfg e a.val m) n
    | none => List.replicate n 0

/-- The byte of the accumulator that holds column p of physical row r of array a. -/
def accAddr (a r p : Nat) : Nat := a * 0x80000 + r * 512 + 4 * p

/-- The physical accumulator row of row m of a pass (R72, R129). -/
def mxAccRow (k : Core) (part : PartId) (e : MxEff) (m : Nat) : Nat :=
  ((k.allocs[part]).accBase.toNat + e.slot) * 128 + m

/-- The first n s32 values of an accumulator row. -/
def accRow (acc : Memory) (a r n : Nat) : List Int :=
  let b := memBytes acc (accAddr a r 0) (4 * n)
  (List.range n).map (fun p => signed 32 (leNat ((b.drop (4 * p)).take 4)))

/-- Merge the positions of a row for which sel holds into one array's accumulator (R48, R72). -/
def mergeRow (acc : Memory) (merge shift a r : Nat) (sel : Nat → Bool) (sums : List Int) : Memory :=
  memStore acc (accAddr a r 0) ((List.zipWith (fun old sum => (old, sum)) (accRow acc a r sums.length) sums).zipIdx.map
    (fun x => leBytes 4 (unsigned 32 (if sel x.2 then mergeValue merge shift x.1.1 x.1.2 else x.1.1)))).flatten

/-- The positions for which sel holds whose merge saturates (R49). -/
def mergeHits (acc : Memory) (merge shift a r : Nat) (sel : Nat → Bool) (sums : List Int) : List Nat :=
  ((List.zipWith (fun old sum => mergeSaturates merge shift old sum) (accRow acc a r sums.length) sums).zipIdx.filter
    (fun x => x.1 && sel x.2)).map (fun x => x.2)

/-- The first logical position that a column group of a map can hold: the working columns below 16 g (R76, R85). -/
def groupFirst (map : BitVec 128) (g : Nat) : Nat := 16 * g - popcount (16 * g) map.toNat

/-- Whether a logical position lies in one of the column groups of a set (R76, R85). -/
def inGroups (map : BitVec 128) (groups : Byte) (p : Nat) : Bool :=
  (List.range 8).any (fun g => bitAt groups g && decide (groupFirst map g ≤ p) && decide (p < groupFirst map (g + 1)))

/-- The tensor, local channel and position offset of a code (R126), and its byte address. -/
def mxCodeAddr (cfg : Vector Word 64) (c q : Nat) : Nat :=
  let s1 := fld (reg cfg 0x68) 0 16
  let s2 := fld (reg cfg 0x68) 16 16
  let tc : Nat × Nat :=
    if s1 = 0 ∨ c < s1 then (fld (reg cfg 0x60) 0 16, c)
    else if s2 = 0 ∨ c < s2 then (fld (reg cfg 0x60) 16 16, c - s1)
    else (fld (reg cfg 0x64) 0 16, c - s2)
  let o := if mxAgMode cfg = 1 ∨ mxAgMode cfg = 2 then q else q / mxWout cfg * mxPitchOut cfg + q % mxWout cfg
  let es := typeBytes (typeOf (mxRq cfg).outType)
  tc.1 * 128 + tc.2 / 32 * (fld (reg cfg 0x6C) 0 16 * 128) + (o * 32 + tc.2 % 32) * es

/-- The image of a curve table (R53). -/
def curveImage (k : Core) (t : Nat) : List Byte := memBytes k.mem.curve (256 * t) 256

/-- What the output stage requantises for row m of a pass: each code's address, sum and multiplier (R73, R74, R126). -/
def mxSums (k : Core) (part : PartId) (cfg : Vector Word 64) (e : MxEff) (m : Nat) : List (Nat × Int × Nat) :=
  let rq := mxRq cfg
  (mxArrays cfg).flatMap (fun a =>
    let c := e.ch + (if mxSplit cfg then 0 else a.val * fld (reg cfg 0x30) 16 16) + m
    let bias := signed 32 (memNat k.mem.core (fld (reg cfg 0x28) 0 16 * 128 + 4 * c) 4)
    let mant := (memLoad k.mem.core (fld (reg cfg 0x2C) 0 16 * 128 + c)).toNat
    let row := accRow k.mem.acc a.val (mxAccRow k part e m) (min 128 (mxPt cfg))
    let qs := row.zipIdx.map (fun x => (x.1, e.p0 + x.2 + (if mxSplit cfg then a.val * fld (reg cfg 0x0C) 0 16 else 0)))
    (qs.filter (fun x => decide (x.2 < mxN cfg))).map (fun x =>
      (mxCodeAddr cfg c x.2, x.1 + (if rq.biasEn then bias else 0), rq.tMult * mant)))

/-- The codes that the output stage writes for row m of a pass (R52, R73). -/
def mxCodes (k : Core) (part : PartId) (cfg : Vector Word 64) (e : MxEff) (m : Nat) : List (Nat × List Byte) :=
  let rq := mxRq cfg
  let img := curveImage k rq.curveSel
  (mxSums k part cfg e m).map (fun x => (x.1, typeStore (typeOf rq.outType) (requantTail rq img x.2.1 x.2.2)))

/-- Where the output stage reads curve-table memory for row m of a pass. -/
def mxCurveReads (k : Core) (part : PartId) (cfg : Vector Word 64) (e : MxEff) (m : Nat) : List Nat :=
  (mxSums k part cfg e m).filterMap (fun x => curveAt (mxRq cfg) x.2.1 x.2.2)

end Sys2Proof.Machine
end

