-- ==== Sys2Proof/Machine/MxStep.lean ====
section
/-! DEFINITION. Machine/MxStep.lean: one array-clock cycle of the matrix engine: the plane load (R62, R87, R121), the bands, groups
and blocks of the arrays (R85 to R92), rows that enter, flow and merge (R61, R71, R72, R80), the output stage (R73, R86, R189), throttle
(R27, R95, R96), and the flush that starts the lamp test of a fault (R103, R104). -/
namespace Sys2Proof.Machine
open Sys2Proof

/-- Whether a throttle level enables position i of the pattern (Table 04.3). -/
def patternEnables (level : BitVec 3) (i : Nat) : Bool :=
  match level.toNat with
  | 0 => true
  | 1 => decide (i < 7)
  | 2 => decide (i ≠ 3 ∧ i ≠ 7)
  | 3 => decide (i ∈ [0, 1, 2, 4, 6])
  | 4 => decide (i % 2 = 0)
  | 5 => decide (i ∈ [0, 2, 4])
  | 6 => decide (i = 0 ∨ i = 4)
  | _ => decide (i = 0)

/-- Whether a test that began after since enabled cycles of its core has run n more (R321: throttle applies under R95). -/
def lampCycles (k : Core) (since n : Nat) : Bool := decide (n ≤ k.enabled - since)

/-- The started command of an ordinal. -/
def mxCmd (m : Mx) (ord : Nat) : Option MxCmd := m.started.find? (fun k => decide (k.ord = ord))

/-- How many arrays a configuration masks. -/
def maskCount (cfg : Vector Word 64) : Nat := popcount 4 (mxMask cfg).toNat

/-! ### Stem lines (R121, R123) -/

/-- Whether camera line l has been received and is available; a released line counts so (its header is checked). -/
def lineReady (u : StemCursor) (x : StrmPort) (l : Nat) : Bool :=
  !u.seeking && (decide (l < u.released) ||
    (match x.held[l - u.released]? with | some h => h.avail | none => false))

/-- The header check of a line (R123): 0, or the sub-cause of Table 10.7. -/
def lineHeaderBad (mem : Memory) (ring : Word) (u : StemCursor) (cfg : Vector Word 64) (l : Nat) : Nat :=
  let h := slotHeader mem ring ((u.s0 + l) % fld ring 16 8)
  if h.1 ≠ u.frame.toNat then 1 else if h.2.1 ≠ l then 2 else if h.2.2.1 ≠ mxWin cfg * mxCpix cfg then 3
  else if h.2.2.2 ∧ l ≠ 0 then 4 else 0

/-- The halt of a bad stem line (Table 10.7), raised by the receive side. -/
def stemHalt (port : StreamId) (sub l : Nat) : HaltCond :=
  haltCond 0x02 7 0 (put 0 2 ||| put 4 sub ||| put 8 port.val ||| put 16 (l % 65536))

/-- Whether every line that a load needs is available. -/
def linesReady (k : Core) (x : StrmPort) (cfg : Vector Word 64) (e : MxEff) : Bool :=
  (mxLines k.mem.core cfg e).all (fun l => lineReady k.mx.cursor x l)

/-- The first line of a load whose header is wrong, with its sub-cause: first in the order in which the cells of its planes read them
(log 95). -/
def badLine (k : Core) (x : StrmPort) (cfg : Vector Word 64) (e : MxEff) : Option (Nat × Nat) :=
  ((mxLines k.mem.core cfg e).map (fun l => (l, lineHeaderBad k.mem.core x.ring k.mx.cursor cfg l))).find?
    (fun y => decide (y.2 ≠ 0))

/-- The planes of a load (R62, R67, R77): each array's under its staged map. -/
def loadPlanes (k : Core) (x : StrmPort) (cfg : Vector Word 64) (e : MxEff) : List (ArrId × Plane) :=
  (mxArrays cfg).map (fun a => (a, mxPlane k.mem.core x.ring k.mx.cursor.s0 (k.arrays[a]).staged cfg e a))

/-- The pieces that the steps of a load need (R116), in the columns of the first masked array's staged map. -/
def loadNeeds (k : Core) (x : StrmPort) (cfg : Vector Word 64) (e : MxEff) : List Nat :=
  mxNeeds k.mem.core x.ring k.mx.cursor.s0 ((mxArrays cfg).head?.elim 0 (fun a => (k.arrays[a]).staged)) cfg e

/-! ### What the engine holds -/

/-- Whether a run still has rows to enter on array a. -/
def runOn (m : Mx) (a : ArrId) : Bool :=
  match m.run with
  | none => false
  | some r => decide (r.next[a] < r.stop) && (match mxCmd m r.ord with | some k => bitAt (mxMask k.cfg) a.val | none => false)

/-- The running pass has entered its rows on every masked array. -/
def runDone (m : Mx) : Bool := (List.finRange 4).all (fun a => !(runOn m a))

/-- Whether a run has rows to enter through the left edge of array a: a pass with K_t = 0 does not use the array (R80). -/
def streamsOn (m : Mx) (a : ArrId) : Bool := runOn m a && (match m.run with | some r => decide (r.eff.kT ≠ 0) | none => false)

/-- The parts of the rows in flight that array a holds. -/
def partsOn (m : Mx) (a : ArrId) : List MxPart := m.flight.flatMap (fun r => r.parts.filter (fun p => decide (p.arr = a)))

/-- An array that is not empty (R90): rows to enter, or rows in flight that it has not wholly merged. -/
def gridBusy (m : Mx) (a : ArrId) : Bool := streamsOn m a || (partsOn m a).any (fun p => decide (p.merged ≠ 0xFF#8))

/-- The arrays of the passes that run, load or are in flight. -/
def activeMask (m : Mx) : BitVec 4 :=
  let of_ (ord : Nat) : BitVec 4 := match mxCmd m ord with | some k => mxMask k.cfg | none => 0
  (m.run.toList.filter (fun _ => !(runDone m))).foldl (fun b r => b ||| of_ r.ord)
    (m.load.toList.foldl (fun b l => b ||| of_ l.ord) (m.flight.foldl (fun b r => b ||| of_ r.ord) 0))

/-- Whether the command whose passes load, enter rows or are in flight runs in freeze mode (R88; R89 lets no two modes run together). -/
def freezeMode (m : Mx) : Bool := m.started.any (fun k => k.freeze && (m.load.any (fun l => decide (l.ord = k.ord)) ||
  (m.run.any (fun r => decide (r.ord = k.ord)) && !(runDone m)) || m.flight.any (fun r => decide (r.ord = k.ord))))

/-- Every pass of the started commands has started, and the last has entered its rows. -/
def mxFormedAll (m : Mx) : Bool := m.load.isNone && runDone m && m.started.all (fun k => decide (k.limit ≤ k.next))

/-- Every row that has entered has merged and no pass is entering rows (R80, R89). -/
def mxDrained (m : Mx) : Bool := m.flight.isEmpty && runDone m

/-- The pass that is loaded next, searched among n passes of a command from idx on: the first that swaps (R64, R66, R80). -/
def swapFrom (mem : Memory) (cmd : MxCmd) : Nat → Nat → Option MxEff
  | 0, _ => none
  | n + 1, idx => let e := mxEff mem cmd.cfg idx; if mxSwaps cmd e then some e else swapFrom mem cmd n (idx + 1)

/-- The next pass of the started commands that swaps, with its command. -/
def nextSwap (mem : Memory) : List MxCmd → Option (MxCmd × MxEff)
  | [] => none
  | k :: l => match swapFrom mem k (k.limit - k.next) k.next with
    | some e => some (k, e)
    | none => nextSwap mem l

/-- The next pass to start: of the first command with passes left. -/
def nextToForm (m : Mx) : Option MxCmd := m.started.find? (fun k => decide (k.next < k.limit))

/-- The first pass of a command that loads a plane. -/
def firstLoad (mem : Memory) (cfg : Vector Word 64) : Option MxEff :=
  ((List.range (mxPasses cfg)).find? (fun i => let e := mxEff mem cfg i; decide (e.kT ≠ 0) && !e.reuse)).map (mxEff mem cfg)

/-- The shadow is free for a new command's first plane: no load is under way and no earlier pass has still to load (R64). -/
def mxLoadFree (k : Core) : Bool := k.mx.load.isNone && (nextSwap k.mem.core k.mx.started).isNone

/-! ### Stem loads -/

/-- A waiting stem load finds its lines (R121): a bad header halts the core, else the planes are read. -/
def fillLoad (c : CoreId) (s : State) : State :=
  let k := s.cores[c]
  match k.mx.load with
  | none => s
  | some l =>
    match mxCmd k.mx l.ord with
    | none => s
    | some cmd =>
      let x := s.bnd.strm[mxPort cmd.cfg]
      if ¬ l.waiting ∨ ¬ linesReady k x cmd.cfg l.eff then s
      else
        match badLine k x cmd.cfg l.eff with
        | some (n, sub) => raiseHalt c (stemHalt (mxPort cmd.cfg) sub n) (modMx c (mxDrain (some l.ord) l.eff.idx) s)
        | none => modMx c (fun m => { m with load := some { l with
            waiting := false, planes := loadPlanes k x cmd.cfg l.eff, need := loadNeeds k x cmd.cfg l.eff } }) s

/-- Whether a load waits for camera lines. -/
def loadWaits (m : Mx) : Bool := match m.load with | some l => l.waiting | none => false

/-! ### Feeders, drains and blocks (R86, R90) -/

/-- The runs of a command that it may write without a further credit: those of the units whose credit it has, all without credits (R177). -/
def creditRuns (r : DxRun) : Nat := if dxCrEn r.cfg then min (dxTotal r.cfg) (r.unitsTaken * dxUnit r.cfg) else dxTotal r.cfg

/-- The ranges that a command has yet to issue writes for, of the runs that it may write: one range where its destination goes on from run to
run. -/
def fillsAhead (r : DxRun) : List (Nat × Nat) :=
  let cfg := r.cfg
  let at_ (n : Nat) : Nat := dxOff 3 (dxRunDst cfg n)
  let n := creditRuns r
  if r.fault ≠ 0 ∨ n ≤ r.run then []
  else if dxOp cfg = 4 ∨ dxOp cfg = 5 then
    [(dxOff 3 (dxRunDst cfg 0 + (4096 * r.off : Nat)), n * dxLen cfg - 4096 * r.off)]
  else if dxSeq cfg then [((at_ r.run + r.off) % 0x80000, (n - r.run) * dxLen cfg - r.off)]
  else ((at_ r.run + r.off) % 0x80000, dxLen cfg - r.off) ::
    (List.range (n - r.run - 1)).map (fun i => (at_ (r.run + 1 + i), dxLen cfg))

/-- Whether a command of a data mover writes core c's weight buffer: its own core's, or a multicast to it (R187). -/
def fillsCore (own : Bool) (c : CoreId) (cfg : Vector Word 64) : Bool :=
  decide (dxOp cfg ≠ 6) && ((own && decide (dxDs cfg = 3)) || (decide (dxDs cfg = 6) && decide (c ∈ dxCores cfg)))

/-- The ranges of core c's weight buffer that commands of a data mover are filling: issued and not yet acknowledged, or yet to be issued
(R86, log 78). -/
def fillsOf (own : Bool) (c : CoreId) (d : Dx) : List (Nat × Nat) :=
  d.chans.toList.flatMap (fun x => match x.run.filter (fun r => fillsCore own c r.cfg) with
    | none => []
    | some r => (r.out.filter (fun t => !t.acked)).flatMap (fun t => t.writes.map (fun w => (w.1 % 0x80000, w.2.length))) ++ fillsAhead r)

/-- The ranges of core c's weight buffer that are being written, by any core (R187). -/
def weightFills (s : State) (c : CoreId) : List (Nat × Nat) :=
  (List.finRange 6).flatMap (fun d => fillsOf (decide (d = c)) c (s.cores[d]).dx)

/-- Whether weight row m of a pass is still being written for array a (R86). -/
def rowFilling (fills : List (Nat × Nat)) (cfg : Vector Word 64) (e : MxEff) (a m : Nat) : Bool :=
  let r := mxRowPlace cfg e a m
  fills.any (fun f => overlaps f.1 (f.1 + f.2) r.1 (r.1 + r.2) || overlaps f.1 (f.1 + f.2) (r.1 + 0x80000) (r.1 + r.2 + 0x80000)
    || overlaps (f.1 + 0x80000) (f.1 + f.2 + 0x80000) r.1 (r.1 + r.2))

/-- Steps completed by block (b, g) of a grid. -/
def gridN (x : Grid) (b g : Nat) : Nat := (x.steps[8 * b + g]?).getD 0

/-- Whether block (b, 0) needs a beat for its next step: a row that enters, for band 0, or one that reached row 16 b (R61, R86). -/
def beatDue (m : Mx) (x : Grid) (a : ArrId) (b : Nat) : Bool :=
  if b = 0 then streamsOn m a else (partsOn m a).any (fun p => decide (p.entry + 16 * b = gridN x b 0))

/-- Whether the feeder of band b is dry (R86): a beat is due and the FIFO holds none, or the row that would enter is still being
written. -/
def feederDry (fills : List (Nat × Nat)) (m : Mx) (x : Grid) (a : ArrId) (b : Nat) : Bool :=
  beatDue m x a b && (decide (8 ≤ (x.owed[b]?).getD 0) ||
    (decide (b = 0) && (match m.run with
      | some r => (match mxCmd m r.ord with
        | some k => rowFilling fills k.cfg r.eff a.val r.next[a]
        | none => false)
      | none => false)))

/-- Whether a part has left its chain for the drain FIFOs: block (7, 7) has made its step s + m + 255 (R92). -/
def partDrained (x : Grid) (p : MxPart) : Bool := decide (p.entry + 255 < gridN x 7 7)

/-- Whether the drain FIFO of group g holds 8 beats (R86). -/
def drainFull (m : Mx) (x : Grid) (a : ArrId) (g : Nat) : Bool :=
  decide (8 ≤ ((partsOn m a).filter (fun p => partDrained x p && !(bitAt p.merged g))).length)

/-- The dry bands and the full groups of an array, as masks. -/
def heldBands (fills : List (Nat × Nat)) (m : Mx) (x : Grid) (a : ArrId) : Byte :=
  BitVec.ofNat 8 (((List.range 8).map (fun b => b2n (feederDry fills m x a b) * 2 ^ b)).foldl (· + ·) 0)
/-- The groups whose drain FIFO is full. -/
def heldGroups (m : Mx) (x : Grid) (a : ArrId) : Byte :=
  BitVec.ofNat 8 (((List.range 8).map (fun g => b2n (drainFull m x a g) * 2 ^ g)).foldl (· + ·) 0)

/-- Whether block (b, g) may step (R90): weight in, partial sum in, weight room, sum room. -/
def blockSteps (x : Grid) (dry full : Byte) (b g : Nat) : Bool :=
  let n := gridN x b g
  (if g = 0 then !(bitAt dry b) else decide (n ≤ gridN x b (g - 1)))
    && (if b = 0 then true else decide (n ≤ gridN x (b - 1) g))
    && (if g = 7 then true else decide (n < gridN x b (g + 1) + 4))
    && (if b = 7 then !(bitAt full g) else decide (n < gridN x (b + 1) g + 4))

/-- Whether every block of an array may step (R91). -/
def allStep (x : Grid) (dry full : Byte) : Bool :=
  (List.range 64).all (fun i => blockSteps x dry full (i / 8) (i % 8))

/-- The command by whose rows the weight buffer is read: the one that enters rows, that loads, or that was started first, with its pass. -/
def weightReader (k : Core) : Option (Vector Word 64 × MxEff) :=
  match (k.mx.run.filter (fun _ => !(runDone k.mx))), k.mx.load, k.mx.started with
  | some r, _, _ => (mxCmd k.mx r.ord).map (fun q => (q.cfg, r.eff))
  | none, some l, _ => (mxCmd k.mx l.ord).map (fun q => (q.cfg, l.eff))
  | none, none, q :: _ => some (q.cfg, mxEff k.mem.core q.cfg q.next)
  | none, none, [] => none

/-- The byte of the weight buffer at which the rows of a stream begin that hold byte a: of the first masked array whose rows hold it. -/
def streamBase (cfg : Vector Word 64) (e : MxEff) (a : Nat) : Nat :=
  let base (x : ArrId) : Nat := mxUnits cfg e x.val * 64 % 0x80000
  let holds (x : ArrId) : Bool := decide ((a + 0x80000 - base x) % 0x80000 < 128 * mxM cfg)
  (((mxArrays cfg).find? holds).or (mxArrays cfg).head?).elim 0 base

/-- The banks of n bytes of the weight buffer from a on, one a piece (R85): bank b holds bytes 16 b to 16 b + 15 of an s8 row, 8 b to 8 b + 7 of a
BG4 row, by the rows of the command that reads the buffer (log 78). -/
def weightBanks (k : Core) (a n : Nat) : List Nat :=
  match weightReader k with
  | some (cfg, e) =>
    if mxBg4 cfg then (pieces 8 a n).map (fun q => q % 8)
    else
      let off := (a + 0x80000 - streamBase cfg e a % 128) % 128
      (pieces 16 off n).map (fun q => q % 8)
  | none => (pieces 16 a n).map (fun q => q % 8)

/-- A fill write takes the read port of each weight-buffer bank it writes, a piece a cycle (R86, log 78). -/
def useWeights (a n : Nat) (k : Core) : Core :=
  { k with bankUse := { k.bankUse with weights := addUse k.bankUse.weights (weightBanks k a n) } }

/-- The feeder FIFOs after a cycle: a beat that a block took is owed, and each bank whose port is free reads one back (R86). -/
def feedStep (took : Nat → Bool) (u : BankUse) (owed : Vector Nat 8) : Vector Nat 8 :=
  Vector.ofFn (fun b => (owed[b] + b2n (took b.val)) - b2n (decide (u.weights[b] = 0)))

/-- An array's hold points after an elastic cycle, or a freeze cycle that is not frozen (R90, R91). -/
def gridStep (u : BankUse) (m : Mx) (a : ArrId) (dry full : Byte) (x : Grid) : Grid :=
  { x with
    steps := Vector.ofFn (fun i => x.steps[i] + b2n (blockSteps x dry full (i.val / 8) (i.val % 8)))
    owed := feedStep (fun b => beatDue m x a b && blockSteps x dry full b 0) u x.owed }

/-! ### Rows -/

/-- A row merges on the groups that sel gives for each of its parts (R48, R71, R72): accumulators, the saturation count (once a
position, log 16), and the validity of a row that an overwrite has wholly merged (R103, log 77). -/
def mergeParts (part : PartId) (r : MxRow) (sel : MxPart → Byte) (k : Core) : MxRow × Core :=
  let row := mxAccRow k part r.eff r.row
  r.parts.foldl (fun (acc : MxRow × Core) p =>
    let now := sel p &&& ~~~ p.merged
    if now = 0 then acc
    else
      let pick := inGroups p.map now
      let hits := (mergeHits acc.2.mem.acc r.eff.merge r.eff.shift p.arr.val row pick p.sums).filter
        (fun q => decide (q ∉ acc.1.hits))
      let p' := { p with merged := p.merged ||| now }
      ({ acc.1 with
          parts := acc.1.parts.map (fun q => if q.arr = p.arr then p' else q)
          hits := acc.1.hits ++ hits },
       { acc.2 with
          mem := { acc.2.mem with acc := mergeRow acc.2.mem.acc r.eff.merge r.eff.shift p.arr.val row pick p.sums }
          arrays := if r.eff.merge = 0 ∧ p'.merged = 0xFF#8 then updAt acc.2.arrays p.arr (fun v => { v with
              invalid := v.invalid &&& ~~~ (BitVec.ofNat 1024 (2 ^ row)) }) else acc.2.arrays
          mx := { acc.2.mx with sat := satAdd acc.2.mx.sat hits.length } })) (r, k)

/-- Whether every array that a row enters has merged every group of it. -/
def rowMerged (r : MxRow) : Bool := decide (r.parts.length = r.arrs) && r.parts.all (fun p => decide (p.merged = 0xFF#8))

/-- A row that every masked array has merged leaves for the output stage, when its pass is final, or is done (R73). -/
def leaveRow (r : MxRow) (k : Core) : Core :=
  if r.eff.fin then
    { k with mx := { k.mx with outq := k.mx.outq ++ [{ ord := r.ord, eff := r.eff, row := r.row, age := 0, codes := [] }] } }
  else k

/-- Rows that hold a place in the output stage's row buffer: those waiting there and final rows merged in part (R86). -/
def rowsHeld (m : Mx) : Nat :=
  m.outq.length + (m.flight.filter (fun r => r.eff.fin && r.parts.any (fun p => decide (p.merged ≠ 0)))).length

/-- The accumulator banks of array a that no data-mover access holds (R86). -/
def freeBanks (u : BankUse) (a : ArrId) : Byte :=
  BitVec.ofNat 8 (((List.range 8).map (fun g => b2n (decide ((u.acc[8 * a.val + g]?).getD 0 = 0)) * 2 ^ g)).foldl (· + ·) 0)

/-- Merges of one cycle, row by row from the oldest (R86, R92): a group merges its oldest drained part if its bank is free and the row
buffer has room. only limits the groups of an array; grids gives the step counts at the start of the cycle; ahead holds the groups whose
older rows wait. -/
def mergeRows (grids : Vector Grid 4) (only : ArrId → Byte) : List MxRow → Vector Byte 4 → List MxRow → Core → Core
  | [], _, kept, k => { k with mx := { k.mx with flight := kept } }
  | r :: rest, ahead, kept, k =>
    match mxCmd k.mx r.ord with
    | none => mergeRows grids only rest ahead kept k
    | some cmd =>
      let room := !r.eff.fin || r.parts.any (fun p => decide (p.merged ≠ 0)) ||
        decide (rowsHeld { k.mx with flight := kept ++ rest } < 16)
      let sel (p : MxPart) : Byte :=
        if partDrained grids[p.arr] p ∧ room then freeBanks k.bankUse p.arr &&& only p.arr &&& ~~~ ahead[p.arr] else 0
      let x := mergeParts cmd.cmd.part r sel k
      let ahead := r.parts.foldl (fun v p => updAt v p.arr (fun b => b ||| ~~~ p.merged)) ahead
      if rowMerged x.1 then mergeRows grids only rest ahead kept (leaveRow x.1 x.2)
      else mergeRows grids only rest ahead (kept ++ [x.1]) x.2

/-- A row enters array a in the step of block (0, 0) that this cycle makes (R61): the row's bytes are read (log 80). -/
def enterOn (a : ArrId) (step : Nat) (k : Core) : Core :=
  match k.mx.run with
  | none => k
  | some r =>
    match mxCmd k.mx r.ord with
    | none => k
    | some cmd =>
      let m := r.next[a]
      let part : MxPart := { arr := a, entry := step, map := (k.arrays[a]).mapNow, sums := partSums k cmd.cfg r.eff a m, merged := 0 }
      let here (x : MxRow) : Bool := decide (x.ord = r.ord ∧ x.eff.idx = r.eff.idx ∧ x.row = m)
      { k with mx := { k.mx with
          run := some { r with next := r.next.set a (m + 1) }
          rows := satAdd k.mx.rows 1
          flight := if k.mx.flight.any here then
              k.mx.flight.map (fun x => if here x then { x with parts := x.parts ++ [part] } else x)
            else k.mx.flight ++ [{ ord := r.ord, eff := r.eff, row := m, arrs := maskCount cmd.cfg, parts := [part], hits := [] }] } }

/-- A row of a K_t = 0 pass merges on every masked array, one each enabled cycle, as the banks and the row buffer allow (R80, R86). -/
def zeroRow (k : Core) : Core :=
  match k.mx.run with
  | none => k
  | some r =>
    match mxCmd k.mx r.ord with
    | none => k
    | some cmd =>
      let arrs := mxArrays cmd.cfg
      let m := mxFront k.mx r
      if r.stop ≤ m ∨ arrs.any (fun a => decide (freeBanks k.bankUse a ≠ 0xFF#8)) ∨ (r.eff.fin ∧ 16 ≤ rowsHeld k.mx) then k
      else
        let row : MxRow := { ord := r.ord, eff := r.eff, row := m, arrs := arrs.length, hits := [],
                             parts := arrs.map (fun a => ⟨a, 0, 0, partSums k cmd.cfg r.eff a m, 0⟩) }
        let x := mergeParts cmd.cmd.part row (fun _ => 0xFF#8) { k with mx := { k.mx with
          run := some { r with next := Vector.replicate 4 (m + 1) } } }
        leaveRow x.1 x.2

/-- The columns of group g may make step t of a load on an array (R92): every cell that their shifts would write has taken the plane now in
its shadow. Column c, which takes entry t - c, is written down to row t - c; of a group's columns the last waits longest. -/
def shiftFree (g t : Nat) (x : Grid) : Bool :=
  match x.swap with
  | none => true
  | some s => (List.range 8).all (fun b =>
      let c := min (16 * g + 15) (t - 16 * b)
      decide (t < 16 * b + 16 * g) || decide (c + 127 < t) || decide (s + min t (16 * b + 15 + c) < gridN x b g))

/-- The pieces that steps 0 to t of a load need; its last step is 254. -/
def MxLoad.needAt (l : MxLoad) (t : Nat) : Nat := ((l.need[t]?).or l.need.getLast?).getD 0

/-- Whether another unit of a core may request reads of core memory. -/
def readersActive (k : Core) : Bool :=
  k.vx.run.isSome || k.wx.run.isSome || k.fx.run.isSome || k.dx.chans.toList.any (fun x => x.run.any (fun r => decide (dxSs r.cfg = 1)))

/-- Whether another unit of a core may request writes of core memory behind the output stage. -/
def writersActive (k : Core) : Bool :=
  k.vx.run.isSome || k.wx.run.isSome || k.fx.run.isSome ||
    k.dx.chans.toList.any (fun x => x.run.any (fun r => decide (dxOp r.cfg ≠ 6) && decide (dxDs r.cfg = 1)))

/-- The pieces that the stationary feeder may fetch in a cycle (R116, R189): 2,048 bytes, less what a requester refused for 16 cycles takes
before it. -/
def fetchRoom (k : Core) : Nat :=
  if 16 ≤ k.bankUse.fed ∧ readersActive k then match Config.readTurn k.cyc with | some n => min n 64 | none => 64 else 64

/-- The pieces that a load has after the fetch of a cycle. -/
def fetched (k : Core) (l : MxLoad) : Nat := if l.waiting then l.got else min (l.needAt 254) (l.got + fetchRoom k)

/-- Whether the stationary feeder of a load is dry in a cycle (R87, R116): its lines have not arrived, or a column lacks a piece of its next
entry. -/
def loadDry (k : Core) : Bool :=
  match k.mx.load with
  | some l => l.waiting || l.cols.toList.any (fun t => decide (t < 255) && decide (fetched k l < l.needAt t))
  | none => false

/-- The fetch of a cycle (R116). -/
def fetchStep (k : Core) : Core :=
  match k.mx.load with
  | some l => { k with
      mx := { k.mx with load := some { l with got := fetched k l } }
      bankUse := { k.bankUse with fed := if l.got < fetched k l then k.bankUse.fed + 1 else 0 } }
  | none => k

/-- The plane load advances by one enabled cycle (R62, R87, R92): the columns of each group whose entry is there and whose cells are free. -/
def loadStep (k : Core) : Core :=
  { k with mx := { k.mx with load := k.mx.load.map (fun l => if l.waiting then l else { l with cols := Vector.ofFn (fun g =>
      let t := l.cols[g]
      if 255 ≤ t ∨ l.got < l.needAt t ∨ ¬ l.planes.all (fun p => shiftFree g.val t (k.arrays[p.1]).grid) then t else t + 1) }) } }

/-- Whether a load is complete (R64): column 0 is full, no column is behind its cells, and the pieces of the steps that are left come in time. -/
def loadComplete (l : MxLoad) : Bool :=
  decide (128 ≤ l.done) && !l.waiting && l.cols.toList.all (fun t => decide (l.done ≤ t)) &&
    (List.range (255 - l.done)).all (fun j => decide (l.needAt (l.done + j) ≤ l.got + 64 * (j + 1)))

/-! ### The output stage (R73, R86, R189) -/

/-- The core-memory banks that a row's codes are written to. -/
def codeBanks (codes : List (Nat × List Byte)) : List Nat :=
  (codes.flatMap (fun x => (pieces 128 x.1 x.2.length).map (fun q => q % 16))).eraseDups

/-- Whether the write of a row's codes is granted: camera lines go first, halo rows and a requester that has been refused for 16 cycles
unless it has been refused as long itself (R189). -/
def codesGranted (k : Core) (codes : List (Nat × List Byte)) : Bool :=
  let u := k.bankUse
  (codeBanks codes).all (fun j => decide ((u.lines[j]?).getD 0 = 0) && (decide ((u.halos[j]?).getD 0 = 0) || decide (16 ≤ u.refused)))
    && !(decide (16 ≤ u.wrote) && decide (u.refused < 16) && writersActive k && Config.writeTurn k.cyc)

/-- Read one row: its codes are computed (R73). -/
def readOut (k : Core) (o : MxOut) : MxOut :=
  { o with age := 1, codes := match mxCmd k.mx o.ord with
    | some cmd => mxCodes k cmd.cmd.part cmd.cfg o.eff o.row
    | none => [] }

/-- The rows of the output stage a cycle later: the oldest row not yet read is read, the others age. -/
def ageOut (k : Core) : Bool → List MxOut → List MxOut
  | _, [] => []
  | free, o :: l =>
    if o.age ≠ 0 then { o with age := o.age + 1 } :: ageOut k free l
    else if free then readOut k o :: ageOut k false l
    else o :: ageOut k false l

/-- The output stage for one cycle (R73): it reads one row in the cycle after its merge or later, and writes a row's codes eleven cycles
after reading it, in order, when the write is granted. -/
def outStep (k : Core) : Core :=
  match ageOut k true k.mx.outq with
  | [] => k
  | o :: rest =>
    if o.age < 12 then
      { k with mx := { k.mx with outq := o :: rest }, bankUse := { k.bankUse with refused := 0, wrote := 0 } }
    else if codesGranted k o.codes then
      { k with
        mem := { k.mem with core := o.codes.foldl (fun m x => memStore m x.1 x.2) k.mem.core }
        mx := { k.mx with outq := rest }
        bankUse := { k.bankUse with refused := 0, wrote := k.bankUse.wrote + 1 } }
    else
      { k with mx := { k.mx with outq := o :: rest }, bankUse := { k.bankUse with refused := k.bankUse.refused + 1, wrote := 0 } }

/-! ### One cycle -/

/-- What stalls the arrays in a cycle: for each array that is not empty its dry bands and full groups, whether the stationary feeder is dry,
and whether the cycle is frozen (R87, R90, R91). -/
structure Stalls where
  held   : List (ArrId × Byte × Byte)
  dry    : Bool
  frozen : Bool
  deriving DecidableEq, Repr

/-- The stalls of a cycle from the state at its start. -/
def stallsOf (fills : List (Nat × Nat)) (k : Core) : Stalls :=
  let held := ((List.finRange 4).filter (gridBusy k.mx)).map (fun a : ArrId =>
    (a, heldBands fills k.mx (k.arrays[a]).grid a, heldGroups k.mx (k.arrays[a]).grid a))
  { held := held
    dry := loadDry k
    frozen := freezeMode k.mx && (loadDry k || held.any (fun x => !(allStep (k.arrays[x.1]).grid x.2.1 x.2.2))) }

/-- The stall counters of one cycle (R84, R96, R109): n arrays are in service; in a disabled cycle nothing else counts. -/
def mxCount1 (enabled : Bool) (n : Nat) (st : Stalls) (m : Mx) : Mx :=
  if ¬ enabled then { m with throttled := satAdd m.throttled n }
  else
    let bands := st.held.foldl (fun b x => b ||| x.2.1) 0
    let groups := st.held.foldl (fun b x => b ||| x.2.2) 0
    let loads := match m.load with
      | some l => (match mxCmd m l.ord with | some k => maskCount k.cfg | none => 0)
      | none => 0
    let swapWaits : Bool := match m.load with
      | some l => l.follows && runDone m && decide (l.done < 128) && !l.waiting
      | none => false
    { m with
      stallFeed := satAdd m.stallFeed (st.held.filter (fun x => decide (x.2.1 ≠ 0))).length
      stallDrain := satAdd m.stallDrain (st.held.filter (fun x => decide (x.2.2 ≠ 0))).length
      stallMap := m.stallMap ||| put 0 bands.toNat ||| put 8 groups.toNat
      frozen := if st.frozen then satAdd m.frozen (popcount 4 (activeMask m).toNat) else m.frozen
      stallLoad := if st.dry then satAdd m.stallLoad loads else m.stallLoad
      swapWait := if swapWaits then satAdd m.swapWait loads else m.swapWait }

/-- The feeder FIFOs after a frozen cycle: only those of the dry bands read. -/
def refillDry (dry : Byte) (u : BankUse) (owed : Vector Nat 8) : Vector Nat 8 :=
  Vector.ofFn (fun b => owed[b] - b2n (bitAt dry b.val && decide (u.weights[b] = 0)))

/-- A frozen cycle (R91): no block, feeder, slice, drain or shadow register changes state, but what is awaited comes: the beats of the dry
bands, the pieces of a dry load, and the merges of the full drain FIFOs (log 78). -/
def frozenStep (st : Stalls) (k : Core) : Core :=
  let k' := { k with arrays := k.arrays.mapFinIdx (fun i u _ => match st.held.find? (fun x => decide (x.1.val = i)) with
    | some x => { u with grid := { u.grid with owed := refillDry x.2.1 k.bankUse u.grid.owed } }
    | none => if bitAt (activeMask k.mx) i then u
      else { u with grid := { u.grid with owed := feedStep (fun _ => false) k.bankUse u.grid.owed } }) }
  let k' := if st.dry then fetchStep k' else k'
  mergeRows (k.arrays.map (fun u => u.grid))
    (fun a => match st.held.find? (fun x => decide (x.1 = a)) with | some x => x.2.2 | none => 0)
    k.mx.flight (Vector.replicate 4 0) [] k'

/-- An enabled cycle that is not frozen (R61, R80, R90, R92): drained parts merge, every array that is not empty makes its blocks' steps,
a row enters each array whose block (0, 0) steps with rows left, and the load advances. -/
def flowStep (st : Stalls) (k : Core) : Core :=
  let grids := k.arrays.map (fun u => u.grid)
  let zero := match k.mx.run with | some r => decide (r.eff.kT = 0) | none => false
  let moved := st.held.foldl (fun (j : Core) x =>
    let g := grids[x.1]
    let enters := streamsOn k.mx x.1 && blockSteps g x.2.1 x.2.2 0 0
    let j := if enters then enterOn x.1 (gridN g 0 0) j else j
    { j with arrays := updAt j.arrays x.1 (fun u => { u with grid := gridStep k.bankUse k.mx x.1 x.2.1 x.2.2 g }) }) k
  let idle := { moved with arrays := moved.arrays.mapFinIdx (fun i u h =>
    if st.held.any (fun x => decide (x.1.val = i)) then u
    else { u with grid := { u.grid with owed := feedStep (fun _ => false) k.bankUse u.grid.owed } }) }
  let merged := mergeRows grids (fun _ => 0xFF#8) idle.mx.flight (Vector.replicate 4 0) [] idle
  loadStep (fetchStep (if zero then zeroRow merged else merged))

/-- An array that has become empty counts its steps anew (R90). -/
def emptyGrids (k : Core) : Core :=
  { k with arrays := k.arrays.mapFinIdx (fun i u h =>
      if gridBusy k.mx ⟨i, h⟩ ∨ (u.grid.swap = none ∧ gridN u.grid 0 0 = 0 ∧ gridN u.grid 7 7 = 0) then u
      else { u with grid := { u.grid with steps := Vector.replicate 64 0, swap := none } }) }

/-- Once the rows of other groups have drained after a fault, the masked arrays are flushed and the lamp test starts on
them (R103, R104, R107). -/
def flushStep (k : Core) : Core :=
  match k.mx.replay with
  | some r =>
    if r.phase = 0 ∧ k.mx.flight = [] ∧ k.mx.stop = .none then
      let mask := match mxCmd k.mx r.ord with | some cmd => mxMask cmd.cfg | none => 0
      { k with
        arrays := k.arrays.mapFinIdx (fun i u _ => if bitAt mask i then { u with plane := none, grid := Grid.reset } else u)
        lamp := .running k.enabled mask false
        mx := { k.mx with replay := some { r with phase := 1 }, run := none } }
    else k
  | none => k

/-- Whether nothing stands in a core's arrays, load and output stage, so that a cycle moves only its counters. -/
def mxIdle (m : Mx) : Bool := m.run.isNone && m.load.isNone && m.flight.isEmpty && m.outq.isEmpty

/-- One array-clock cycle of MX: the output stage always; in an enabled cycle the rows flow, or the cycle is frozen (R91, R95, R96). n
arrays of the core are in service, fills are the writes under way into its weight buffer. -/
def mxCycleCore (n : Nat) (fills : List (Nat × Nat)) (k : Core) : Core :=
  let en := patternEnables k.level (k.cyc % 8)
  let st := if mxIdle k.mx then { held := [], dry := false, frozen := false } else stallsOf fills k
  let k := outStep { k with mx := mxCount1 en n st k.mx }
  let k := if ¬ en then k else if st.frozen then frozenStep st k else flowStep st k
  let k := emptyGrids { k with bankUse := passBanks k.bankUse }
  flushStep { k with cyc := k.cyc + 1, enabled := k.enabled + b2n en }

/-- At the start of its pattern a core takes the level that has been sampled (R27, R95). -/
def latchLevel (c : CoreId) (s : State) : State :=
  if (s.cores[c]).cyc % 8 = 0 then
    let s := throttleDue s
    modCore c (fun k => { k with level := s.bnd.throttle }) s
  else s

/-! ### When a command may start (R64, R66, R80, R89, R122) -/

/-- The masked arrays can take work: powered, not in the first 384 cycles of a lamp test, and no due test goes first
(R307, R308, R321). -/
def arraysReady (s : State) (c : CoreId) (cfg : Vector Word 64) : Bool :=
  let k := s.cores[c]
  (mxArrays cfg).all (fun a => (k.arrays[a]).powered || !(arrayInService s c a)) &&
    (match k.lamp with
     | .running since mask _ => decide (mask &&& mxMask cfg = 0) || lampCycles k since 384
     | .due _ _ => !k.mx.started.isEmpty
     | .idle => true)

/-- Whether a stem port is present, enabled and bound to a core (Table 05.6). -/
def stemBound (s : State) (c : CoreId) (cfg : Vector Word 64) : Bool :=
  let n := mxPort cfg
  let w := (s.bnd.strm[n]).ctrl
  streamPresent s.grade n && bitAt w 0 && decide (fld w 1 3 = c.val)

/-- The start rules of a command beside its wait and its line gate (R64, R66, R80, R89): its first pass may be formed, and a change of
mode waits for the drain. A command named to resume starts by its record (R100). -/
def mxFreeToStart (s : State) (c : CoreId) (cfg : Vector Word 64) (freeze : Bool) : Bool :=
  let k := s.cores[c]
  let e := mxEff k.mem.core cfg 0
  !(curveBusy k (mxCurve cfg)) && (decide (e.kT = 0) || arraysReady s c cfg)
    && (if e.kT = 0 then mxFormedAll k.mx && mxDrained k.mx else if e.reuse then mxFormedAll k.mx else mxLoadFree k)
    && ((match k.mx.started.getLast? with | some p => decide (p.freeze = freeze) | none => true) ||
        (mxFormedAll k.mx && mxDrained k.mx))

/-- Whether a command's start waits for the lines of its first load (R122). -/
def mxGated (s : State) (c : CoreId) (cfg : Vector Word 64) : Bool :=
  let k := s.cores[c]
  decide (mxAgMode cfg = 3) && mxLineGate cfg && (match firstLoad k.mem.core cfg with
    | some e => k.mx.cursor.seeking || !(linesReady k s.bnd.strm[mxPort cfg] cfg e)
    | none => false)

/-- The start rules of a command beside its wait (R64, R66, R80, R89, R122). -/
def mxMayStart (s : State) (c : CoreId) (cfg : Vector Word 64) (freeze : Bool) : Bool :=
  mxFreeToStart s c cfg freeze && !(mxGated s c cfg)

/-- Whether the job on a core runs in freeze mode by its candle entry, or as a twin run (R88, R322). -/
def candleFreeze (s : State) (job : Nat) (c : CoreId) : Bool :=
  match findJob s job with
  | none => false
  | some j => (match j.entry with | some n => bitAt ((s.tick.active[n]?).getD 0) 20 | none => false)
      || j.twins.any (fun t => decide (t.2 = c))

/-- The taken command's start waits for camera lines and for nothing else (R122, R125). -/
def gateWaits (s : State) (c : CoreId) : Bool :=
  let k := s.cores[c]
  match k.mx.taken with
  | none => false
  | some cmd =>
    let cfg := k.mx.sets[cmd.set]
    decide (mxAgMode cfg = 3) && cmd.start && coreLive s c && waitDone k cmd && decide (k.mx.stop = .none) && !k.mx.stopped
      && mxGated s c cfg && mxFreeToStart s c cfg (bitAt (reg cfg 0x04) 6 || candleFreeze s cmd.job c)

/-- The cycle in the engine's state: a waiting load first looks for its lines; a cycle in which a stem load or a gated start waits for
lines is counted (R125), whether or not the throttle enables it (log 95); a row that enters is progress (R238). -/
def mxCycle (c : CoreId) (s : State) : State :=
  let s := latchLevel c (fillLoad c s)
  let k := s.cores[c]
  let waits := loadWaits k.mx || gateWaits s c
  let n := if k.powered then ((List.finRange 4).filter (fun a => arrayInService s c a && (k.arrays[a]).powered)).length else 0
  let s := modCore c (fun k => mxCycleCore n (if mxIdle k.mx then [] else weightFills s c)
    { k with mx := { k.mx with stemWait := if waits then satAdd k.mx.stemWait 1 else k.mx.stemWait } }) s
  if (s.cores[c]).mx.run.map (fun r => r.next) = k.mx.run.map (fun r => r.next) then s else progress c s

end Sys2Proof.Machine
end

