-- ==== Sys2Proof/Machine/Vec.lean ====
section
/-! DEFINITION. Machine/Vec.lean: the arithmetic of the vector and window engines (R149 to R163): one output row of a channel
block at a time, the start checks of R170, and the cycles that a row takes (R152, R159, R160, R163). -/
namespace Sys2Proof.Machine
open Sys2Proof

/-! ### VX: fields of a set (Tables 07.5, 07.6) -/

/-- op. -/
def vxOp (cfg : Vector Word 64) : Nat := fld (reg cfg 0x00) 0 4
/-- b_bcast. -/
def vxBcast (cfg : Vector Word 64) : Nat := fld (reg cfg 0x00) 4 2
/-- rm_base. -/
def vxRmBase (cfg : Vector Word 64) : Nat := fld (reg cfg 0x00) 17 9
/-- mant_en. -/
def vxMantEn (cfg : Vector Word 64) : Bool := bitAt (reg cfg 0x00) 14
/-- Whether the command observes (R155): OBSERVE, or rm_obs on any operation but ENCODE. -/
def vxObserves (cfg : Vector Word 64) : Bool :=
  decide (vxOp cfg = 12) || (bitAt (reg cfg 0x00) 15 && decide (vxOp cfg ≠ 13))
/-- The requantisation control word. -/
def vxRq (cfg : Vector Word 64) : Requant := requantOf (reg cfg 0x08) (reg cfg 0x0C)
/-- Descriptor of a. -/
def vxA (cfg : Vector Word 64) : Td := tdOf cfg 0x20
/-- Descriptor of b. -/
def vxB (cfg : Vector Word 64) : Td := tdOf cfg 0x30
/-- Descriptor of the output. -/
def vxO (cfg : Vector Word 64) : Td := tdOf cfg 0x40
/-- Whether the operation reads the b descriptor: operations 1 to 6 with b_bcast 0 or 1 (R150). -/
def vxUsesB (cfg : Vector Word 64) : Bool :=
  decide (1 ≤ vxOp cfg) && decide (vxOp cfg ≤ 6) && decide (vxBcast cfg < 2)
/-- Whether the operation writes an output tensor: 0 to 6 and 13. -/
def vxWrites (cfg : Vector Word 64) : Bool := decide (vxOp cfg ≤ 6) || decide (vxOp cfg = 13)

/-! ### VX: arithmetic -/

/-- w of R151. -/
def vxW (op : Nat) (oa ob ma mb : Int) : Int :=
  let ta := oa * ma
  let tb := ob * mb
  match op with
  | 0 => ta
  | 1 => ta + tb
  | 2 => ta - tb
  | 3 => saturate (oa * ob) .s32 * ma
  | 4 => if tb ≤ ta then ta else tb
  | 5 => if ta ≤ tb then ta else tb
  | 6 => if tb ≤ ta then ta - tb else tb - ta
  | _ => 0

/-- The operand b of element (ch, y, x) (R150). -/
def vxOb (k : Core) (part : PartId) (cfg : Vector Word 64) (ch y x : Nat) : Int :=
  if vxBcast cfg = 2 then sfld ((k.sc[fld (reg cfg 0x00) 6 4]?).getD 0) 0 32
  else if vxBcast cfg = 1 then tdRead k part (vxB cfg) ch 0 0
  else tdRead k part (vxB cfg) ch y x

/-- The code of element (ch, y, x) for operations 0 to 6 (R151). -/
def vxSum (k : Core) (part : PartId) (cfg : Vector Word 64) (ch y x : Nat) : Int × Nat :=
  let q := vxRq cfg
  let oa := tdRead k part (vxA cfg) ch y x
  let ob := if vxOp cfg = 0 then 0 else vxOb k part cfg ch y x
  let cc := fld (reg cfg 0x18) 0 16 + ch
  let bias := if q.biasEn then signed 32 (memNat k.mem.core (fld (reg cfg 0x10) 0 16 * 128 + 4 * cc) 4) else 0
  let mant := if vxMantEn cfg then (memLoad k.mem.core (fld (reg cfg 0x14) 0 16 * 128 + cc)).toNat else 1
  (vxW (vxOp cfg) oa ob (sfld (reg cfg 0x04) 0 16) (sfld (reg cfg 0x04) 16 16) + bias, q.tMult * mant)

/-- The code of an element (R148, R52). -/
def vxCode (k : Core) (part : PartId) (cfg : Vector Word 64) (image : List Byte) (ch y x : Nat) : Int :=
  let v := vxSum k part cfg ch y x
  requantTail (vxRq cfg) image v.1 v.2

/-- The encoding that ENCODE derives for local channel ch (R59, R156): an empty entry counts as lo = hi = 0. -/
def vxEncoding (k : Core) (cfg : Vector Word 64) (ch : Nat) : Encoding :=
  let e := (k.rm[vxRmBase cfg + ch]?).getD emptyRange
  let lh : Int × Int := if e = emptyRange then (0, 0) else (sfld e.1 0 32, sfld e.2 0 32)
  encodeRange lh.1 lh.2 (vxRq cfg).tMult (vxRq cfg).sh

/-- The code that ENCODE writes (R156). -/
def vxEncode (k : Core) (part : PartId) (cfg : Vector Word 64) (enc : List Encoding) (ch y x : Nat) : Int :=
  let q := vxRq cfg
  let e := (enc[ch]?).getD { base := 0, mant := 1, zp := 0 }
  saturate (roundHalfEven ((tdRead k part (vxA cfg) ch y x - e.base) * ((q.tMult * e.mant : Nat) : Int)) q.sh + e.zp) .u8

/-- The zero code that VX writes in padding channels (R149). ENCODE, which ignores zp_out, writes 0, the zero point of
every encoding (DEDUCED, log 17). -/
def vxZero (cfg : Vector Word 64) : Int :=
  if vxOp cfg = 13 then 0
  else match (vxO cfg).ty with
    | .u8 => saturate (vxRq cfg).zpOut .u8
    | .s16 => saturate (vxRq cfg).zpOut .s16
    | .s8 => 0
    | .s32 => 0

/-- The bytes of one output row: w positions of 32 channels of block cb, the channels from c on holding the zero code. -/
def rowBytes (o : Td) (cb : Nat) (zero : Int) (code : Nat → Nat → Int) : List Byte :=
  (List.range o.w).flatMap (fun x => (List.range 32).flatMap (fun i =>
    typeStore o.ty (if 32 * cb + i < o.c then code (32 * cb + i) x else zero)))

/-- The elements of row y of block cb of a tensor below its channel count, as (channel, column). -/
def rowElems (d : Td) (cb : Nat) : List (Nat × Nat) :=
  (List.range 32).flatMap (fun i =>
    if 32 * cb + i < d.c then (List.range d.w).map (fun x => (32 * cb + i, x)) else [])

/-- A row observed by the range monitor (R155). -/
def vxObserve (k : Core) (part : PartId) (cfg : Vector Word 64) (cb y : Nat) : Core :=
  let a := vxA cfg
  { k with rm := (rowElems a cb).foldl (fun rm e =>
      let v := tdRead k part a e.1 y e.2
      let i := vxRmBase cfg + e.1
      match rm[i]? with
      | some r => rm.setIfInBounds i (BitVec.ofInt 32 (min (sfld r.1 0 32) v), BitVec.ofInt 32 (max (sfld r.2 0 32) v))
      | none => rm) k.rm }

/-- A row taken into a reduction's progress (R153). -/
def vxReduce (k : Core) (cfg : Vector Word 64) (cb y : Nat) (r : VecRun) : VecRun :=
  let a := vxA cfg
  (rowElems a cb).foldl (fun r e =>
    let v := tdRead k r.cmd.part a e.1 y e.2
    let i := (e.1 * a.h + y) * a.w + e.2
    let better := !r.seen || (if vxOp cfg = 9 then decide (v < r.best) else decide (r.best < v))
      || (decide (v = r.best) && decide (i < r.bestI))
    { r with
      sum := r.sum + v
      cnt := if v ≠ 0 then r.cnt + 1 else r.cnt
      best := if better then v else r.best
      bestI := if better then i else r.bestI
      seen := true }) r

/-- The elements of a that a row reads, as VX_ELEMS counts them (R169). -/
def vxRowElems (cfg : Vector Word 64) (cb : Nat) : Nat :=
  let a := vxA cfg
  if a.src then min 32 (a.c - 32 * cb) * a.w else 32 * a.w

/-- The write of an output row of a VX command: row r.row, counted as cb * h + y; its address and bytes, none for a reduction. -/
def vxStore (k : Core) (r : VecRun) : List (Nat × List Byte) :=
  let cfg := r.cfg
  let o := vxO cfg
  let cb := r.row / (vxA cfg).h
  let y := r.row % (vxA cfg).h
  let img := memBytes k.mem.curve (256 * (vxRq cfg).curveSel) 256
  if vxOp cfg ≤ 6 then
    [(tdAddr o (32 * cb) y 0, rowBytes o cb (vxZero cfg) (fun ch x => vxCode k r.cmd.part cfg img ch y x))]
  else if vxOp cfg = 13 then
    [(tdAddr o (32 * cb) y 0, rowBytes o cb (vxZero cfg) (fun ch x => vxEncode k r.cmd.part cfg r.enc ch y x))]
  else []

/-- One output row of a VX command. It reads the memories as they stand in old (R189). -/
def vxRow (old k : Core) (r : VecRun) : Core × VecRun :=
  let cfg := r.cfg
  let v := { k with mem := old.mem }
  let cb := r.row / (vxA cfg).h
  let y := r.row % (vxA cfg).h
  let r' := if 7 ≤ vxOp cfg ∧ vxOp cfg ≤ 11 then vxReduce v cfg cb y r else r
  ({ k with
      rm := if vxObserves cfg then (vxObserve v r.cmd.part cfg cb y).rm else k.rm
      mem := { k.mem with core := (vxStore v r).foldl (fun m w => memStore m w.1 w.2) k.mem.core }
      vx := { k.vx with elems := satAdd k.vx.elems (vxRowElems cfg cb) } },
    { r' with row := r.row + 1, cyc := 0 })

/-- Rows of a VX command. -/
def vxRows (cfg : Vector Word 64) : Nat := tdBlocks (vxA cfg) * (vxA cfg).h

/-- Cycles of a row of a VX command: 512 / e_max elements a cycle (R152). -/
def vxRowCycles (cfg : Vector Word 64) : Nat :=
  let es := typeBytes (vxA cfg).ty
  let es := if vxUsesB cfg ∧ vxBcast cfg = 0 then max es (typeBytes (vxB cfg).ty) else es
  let es := if vxWrites cfg then max es (typeBytes (vxO cfg).ty) else es
  ceilDiv (32 * (vxA cfg).w) (512 / es)

/-- Whether the next row of a VX command reads an invalid accumulator row (R106). -/
def vxInvalid (k : Core) (r : VecRun) : Bool :=
  let cb := r.row / (vxA r.cfg).h
  decide (r.row < vxRows r.cfg) && (tdInvalid k r.cmd.part (vxA r.cfg) cb ||
    (vxUsesB r.cfg && tdInvalid k r.cmd.part (vxB r.cfg) cb))

/-- The scalar registers that a completing reduction writes (R153, R154). -/
def vxScalars (r : VecRun) (sc : Vector Word 16) : Vector Word 16 :=
  let d := fld (reg r.cfg 0x00) 10 4
  match vxOp r.cfg with
  | 7 => sc.setIfInBounds d (BitVec.ofInt 32 (saturate r.sum .s32))
  | 8 => sc.setIfInBounds d (BitVec.ofInt 32 r.best)
  | 9 => sc.setIfInBounds d (BitVec.ofInt 32 r.best)
  | 10 => (sc.setIfInBounds d (BitVec.ofNat 32 r.bestI)).setIfInBounds ((d + 1) % 16) (BitVec.ofInt 32 r.best)
  | 11 => sc.setIfInBounds d (BitVec.ofNat 32 r.cnt)
  | _ => sc

/-! ### VX start checks (Table 07.10) -/

/-- A halt from a start check of VX or WX. -/
def vecHalt (code : Byte) (eng set table order extra : Nat) : HaltCond :=
  haltCond code eng set (stdDetail eng set 0 table order extra)

/-- The shape h, w, c of a descriptor. -/
def tdShape (d : Td) : Nat × Nat × Nat := (d.h, d.w, d.c)

/-- The highest byte that a VX command reaches in core memory, plus one. The bias and mantissa arrays count for operations 0 to 6, which read them
(log 98). -/
def vxMemEnd (cfg : Vector Word 64) : Nat :=
  let ends := [vxA cfg] ++ (if vxUsesB cfg then [vxB cfg] else []) ++ (if vxWrites cfg then [vxO cfg] else [])
  let top := (ends.filter (fun d => !d.src)).foldl (fun m d => max m (tdEnd d)) 0
  let cc := fld (reg cfg 0x18) 0 16 + (vxA cfg).c
  let top := if vxOp cfg ≤ 6 ∧ (vxRq cfg).biasEn then max top (fld (reg cfg 0x10) 0 16 * 128 + 4 * cc) else top
  let top := if vxOp cfg ≤ 6 ∧ vxMantEn cfg then max top (fld (reg cfg 0x14) 0 16 * 128 + cc) else top
  if vxOp cfg = 13 then max top (fld (reg cfg 0x1C) 0 16 * 128 + 8 * (vxA cfg).c) else top

/-- The checks of a VX start, in order (Table 07.10). The overlap test is that of the output tensor with tensors a and b: not with the bias and
mantissa arrays, nor of ENCODE's records (log 98). -/
def vxChecks (g : Grade) (k : Core) (cmd : EngCmd) (cfg : Vector Word 64) : Option HaltCond :=
  let inc (n : Nat) : Option HaltCond := some (vecHalt 0x11 1 cmd.set.val 4 n 0)
  let op := vxOp cfg
  let a := vxA cfg
  let b := vxB cfg
  let o := vxO cfg
  let q := vxRq cfg
  let ins := [a] ++ (if vxUsesB cfg then [b] else [])
  let used := ins ++ (if vxWrites cfg then [o] else [])
  let count := (k.allocs[cmd.part]).accCount.toNat
  let badAcc (d : Td) : Bool := d.src && (decide (d.h ≠ 1) || decide (128 < d.w) || decide (d.ty ≠ .s32)
    || !(arrayPresent g d.arr) || (k.arrays[d.arr]).retired)
  let clash (d : Td) : Bool := !d.src && overlaps o.base (tdEnd o) d.base (tdEnd d)
  let rows := (ins.filter (fun d => d.src && decide (128 * count ≤ d.slot * 128 + d.c - 1))).map
    (fun d => d.slot * 128 + d.c - 1)
  if 14 ≤ op ∨ (1 ≤ op ∧ op ≤ 6 ∧ vxBcast cfg = 3) then inc 1
  else if used.any (fun d => decide (d.h = 0 ∨ d.w = 0 ∨ d.c = 0)) ∨ (vxWrites cfg ∧ o.src) ∨ ins.any badAcc then inc 2
  else if (op ≤ 6 ∧ (¬ requantLegal q ∨ o.ty ≠ typeOf q.outType)) ∨
      (op = 13 ∧ (q.sh < 16 ∨ 55 < q.sh ∨ o.ty ≠ .u8)) then inc 3
  else if (vxWrites cfg ∧ tdShape o ≠ tdShape a) ∨ (vxUsesB cfg ∧ vxBcast cfg = 0 ∧ tdShape b ≠ tdShape a) ∨
      (vxUsesB cfg ∧ vxBcast cfg = 1 ∧ tdShape b ≠ (1, 1, a.c)) then inc 4
  else if (bitAt (reg cfg 0x00) 15 ∨ op = 12 ∨ op = 13) ∧ 512 < vxRmBase cfg + a.c then inc 5
  else if vxWrites cfg ∧ ((clash a ∧ ¬ (op ≤ 6 ∧ o.raw = a.raw)) ∨ (vxUsesB cfg ∧ clash b)) then inc 6
  else match rows with
    | r :: l => some (vecHalt 0x05 1 cmd.set.val 4 7 (accExtra (l.foldl max r) count))
    | [] => if coreBytes < vxMemEnd cfg then some (vecHalt 0x06 1 cmd.set.val 4 8 (memExtra (vxMemEnd cfg - 1))) else none

/-- What a VX start does once its checks pass: monitor entries cleared (R155), encodings derived and their records
written (R156). Of entries past 511, which a command without the monitor may name, none is cleared (log 98). -/
def vxBegin (k : Core) (cfg : Vector Word 64) : Core × List Encoding :=
  let a := vxA cfg
  let rm := if bitAt (reg cfg 0x00) 16 then
      (List.range a.c).foldl (fun rm i => rm.setIfInBounds (vxRmBase cfg + i) emptyRange) k.rm else k.rm
  let k := { k with rm := rm }
  if vxOp cfg = 13 then
    let enc := (List.range a.c).map (vxEncoding k cfg)
    let bytes := enc.flatMap (fun e => leBytes 4 (unsigned 32 e.base) ++
      [BitVec.ofNat 8 e.mant, BitVec.ofNat 8 e.zp, 0#8, 0#8])
    ({ k with mem := { k.mem with core := memStore k.mem.core (fld (reg cfg 0x1C) 0 16 * 128) bytes } }, enc)
  else (k, [])

/-! ### WX (Tables 07.4, 07.7, 07.8) -/

/-- op. -/
def wxOp (cfg : Vector Word 64) : Nat := fld (reg cfg 0x00) 0 4
/-- pad_mode. -/
def wxPadMode (cfg : Vector Word 64) : Nat := fld (reg cfg 0x00) 4 3
/-- excl_pad. -/
def wxExcl (cfg : Vector Word 64) : Bool := bitAt (reg cfg 0x00) 7
/-- The regroup factor f. -/
def wxF (cfg : Vector Word 64) : Nat := 2 ^ (fld (reg cfg 0x00) 8 2 + 1)
/-- sub_major. -/
def wxSubMajor (cfg : Vector Word 64) : Bool := bitAt (reg cfg 0x00) 10
/-- Window rows. -/
def wxKh (cfg : Vector Word 64) : Nat := fld (reg cfg 0x04) 0 4 + 1
/-- Window columns. -/
def wxKw (cfg : Vector Word 64) : Nat := fld (reg cfg 0x04) 4 4 + 1
/-- Vertical stride. -/
def wxSy (cfg : Vector Word 64) : Nat := fld (reg cfg 0x04) 8 6 + 1
/-- Horizontal stride. -/
def wxSx (cfg : Vector Word 64) : Nat := fld (reg cfg 0x04) 14 6 + 1
/-- pad_top. -/
def wxPadTop (cfg : Vector Word 64) : Nat := fld (reg cfg 0x08) 0 7
/-- pad_left. -/
def wxPadLeft (cfg : Vector Word 64) : Nat := fld (reg cfg 0x08) 8 7
/-- Input descriptor. -/
def wxI (cfg : Vector Word 64) : Td := tdOf cfg 0x20
/-- Output descriptor. -/
def wxO (cfg : Vector Word 64) : Td := tdOf cfg 0x30

/-- A coordinate after padding modes 2 and 3 (R158): mirrored, once, or clamped. -/
def wxFold (mode : Nat) (v n : Int) : Int :=
  if 0 ≤ v ∧ v < n then v
  else if mode = 2 then (if v < 0 then -v else 2 * n - 2 - v)
  else if v < 0 then 0 else n - 1

/-- The element of the input that a coordinate reads (R158), none where the padding code stands, or where a reflection does not reach the map. -/
def wxTapAt (cfg : Vector Word 64) (iy ix : Int) : Option (Nat × Nat) :=
  let d := wxI cfg
  let inside (y x : Int) : Bool := decide (0 ≤ y ∧ y < d.h ∧ 0 ≤ x ∧ x < d.w)
  let y := wxFold (wxPadMode cfg) iy d.h
  let x := wxFold (wxPadMode cfg) ix d.w
  if (wxPadMode cfg ≤ 1 ∧ ¬ inside iy ix) ∨ ¬ inside y x then none else some (y.toNat, x.toNat)

/-- The stored code that a coordinate reads (R158), as a number of the input's type. -/
def wxTap (k : Core) (cfg : Vector Word 64) (ch : Nat) (iy ix : Int) : Nat :=
  match wxTapAt cfg iy ix with
  | some q => tdRaw k 0 (wxI cfg) ch q.1 q.2
  | none =>
    if wxPadMode cfg = 0 then 0
    else (if wxPadMode cfg = 1 then fld (reg cfg 0x08) 16 16 else Config.reflectCode cfg ch iy ix) % 2 ^ (8 * typeBytes (wxI cfg).ty)

/-- The coordinates of a pooling window, in order (R159): with excl_pad those inside the map. -/
def wxTaps (cfg : Vector Word 64) (oy ox : Nat) : List (Int × Int) :=
  let d := wxI cfg
  (List.range (wxKh cfg)).flatMap (fun ky => (List.range (wxKw cfg)).filterMap (fun kx =>
    let iy : Int := ((oy * wxSy cfg + ky : Nat) : Int) - wxPadTop cfg
    let ix : Int := ((ox * wxSx cfg + kx : Nat) : Int) - wxPadLeft cfg
    let inside := decide (0 ≤ iy ∧ iy < d.h ∧ 0 ≤ ix ∧ ix < d.w)
    if ¬ inside ∧ wxExcl cfg then none else some (iy, ix)))

/-- The operands of a pooling window, in order (R159). -/
def wxWindow (k : Core) (cfg : Vector Word 64) (ch oy ox : Nat) : List Int :=
  (wxTaps cfg oy ox).map (fun q => tdOperand (wxI cfg) (wxTap k cfg ch q.1 q.2))

/-- The largest of a non-empty list, and 0 of the empty one (R159). -/
def listMax : List Int → Int
  | [] => 0
  | x :: xs => xs.foldl max x

/-- r of a pooling window (R159). -/
def wxPool (op : Nat) (os : List Int) : Int :=
  let n := os.length
  if n = 0 then 0
  else if op = 0 then listMax os
  else roundHalfEven (os.foldl (· + ·) 0 * (((2 ^ 25 + n) / (2 * n) : Nat) : Int)) 24

/-- A coordinate clamped to 0 … n - 1. -/
def clampTo (v : Int) (n : Nat) : Nat := if v < 0 then 0 else if (n : Int) ≤ v then n - 1 else v.toNat

/-- The source coordinates of a resized output in 1/65,536 of an element (R160). -/
def wxScaled (cfg : Vector Word 64) (oy ox : Nat) : Int × Int :=
  ((oy * (reg cfg 0x10).toNat : Nat) + sfld (reg cfg 0x18) 0 32, (ox * (reg cfg 0x14).toNat : Nat) + sfld (reg cfg 0x1C) 0 32)

/-- r of a resized output (R160). The positions are unbounded before the clamp, where the pseudocode's s32 cannot hold those of steps near 2^32
(log 98). -/
def wxResize (k : Core) (cfg : Vector Word 64) (ch oy ox : Nat) : Int :=
  let d := wxI cfg
  let q := wxScaled cfg oy ox
  let at_ (y x : Int) : Int := tdRead k 0 d ch (clampTo y d.h) (clampTo x d.w)
  if wxOp cfg = 2 then at_ (Int.fdiv (q.1 + 32768) 65536) (Int.fdiv (q.2 + 32768) 65536)
  else
    let y0 := Int.fdiv q.1 65536
    let x0 := Int.fdiv q.2 65536
    let fy := Int.fdiv (q.1 - y0 * 65536) 256
    let fx := Int.fdiv (q.2 - x0 * 65536) 256
    roundHalfEven ((at_ y0 x0 * (256 - fx) + at_ y0 (x0 + 1) * fx) * (256 - fy)
      + (at_ (y0 + 1) x0 * (256 - fx) + at_ (y0 + 1) (x0 + 1) * fx) * fy) 16

/-- The stored code of output element (ch, y, x), as a value of the output's type. -/
def wxCode (k : Core) (cfg : Vector Word 64) (ch y x : Nat) : Int :=
  let i := wxI cfg
  let o := wxO cfg
  let f := wxF cfg
  match wxOp cfg with
  | 0 => saturate (wxPool 0 (wxWindow k cfg ch y x) + tdZpOut o) o.ty
  | 1 => saturate (wxPool 1 (wxWindow k cfg ch y x) + tdZpOut o) o.ty
  | 2 => saturate (wxResize k cfg ch y x + tdZpOut o) o.ty
  | 3 => saturate (wxResize k cfg ch y x + tdZpOut o) o.ty
  | 4 => typeValue o.ty (wxTap k cfg ch (y + sfld (reg cfg 0x0C) 0 16) (x + sfld (reg cfg 0x0C) 16 16))
  | 5 =>
    let sub := if wxSubMajor cfg then ch / i.c else ch % (f * f)
    let c := if wxSubMajor cfg then ch % i.c else ch / (f * f)
    typeValue o.ty (tdRaw k 0 i c (y * f + sub / f) (x * f + sub % f))
  | _ =>
    let sub := y % f * f + x % f
    let c := if wxSubMajor cfg then sub * o.c + ch else ch * (f * f) + sub
    typeValue o.ty (tdRaw k 0 i c (y / f) (x / f))

/-- The input elements (channel, row, column) that output element (ch, y, x) reads. -/
def wxElems (cfg : Vector Word 64) (ch y x : Nat) : List (Nat × Nat × Nat) :=
  let i := wxI cfg
  let f := wxF cfg
  let at_ (q : Int × Int) : Option (Nat × Nat × Nat) := (wxTapAt cfg q.1 q.2).map (fun p => (ch, p.1, p.2))
  let near (q : Int × Int) : Nat × Nat × Nat := (ch, clampTo q.1 i.h, clampTo q.2 i.w)
  let q := wxScaled cfg y x
  let q0 : Int × Int := (Int.fdiv q.1 65536, Int.fdiv q.2 65536)
  match wxOp cfg with
  | 0 => (wxTaps cfg y x).filterMap at_
  | 1 => (wxTaps cfg y x).filterMap at_
  | 2 => [near (Int.fdiv (q.1 + 32768) 65536, Int.fdiv (q.2 + 32768) 65536)]
  | 3 => [near q0, near (q0.1, q0.2 + 1), near (q0.1 + 1, q0.2), near (q0.1 + 1, q0.2 + 1)]
  | 4 => (at_ (y + sfld (reg cfg 0x0C) 0 16, x + sfld (reg cfg 0x0C) 16 16)).toList
  | 5 =>
    let sub := if wxSubMajor cfg then ch / i.c else ch % (f * f)
    [(if wxSubMajor cfg then ch % i.c else ch / (f * f), y * f + sub / f, x * f + sub % f)]
  | _ =>
    let sub := y % f * f + x % f
    [(if wxSubMajor cfg then sub * (wxO cfg).c + ch else ch * (f * f) + sub, y / f, x / f)]

/-- The zero code that WX writes in padding channels (R149). -/
def wxZero (cfg : Vector Word 64) : Int :=
  match (wxO cfg).ty with
  | .u8 => typeValue .u8 (wxO cfg).zpRaw
  | .s16 => typeValue .s16 (wxO cfg).zpRaw
  | .s8 => 0
  | .s32 => 0

/-- The write of an output row of a WX command: row r.row, counted as cb * h + y; its address and bytes. -/
def wxStore (k : Core) (r : VecRun) : Nat × List Byte :=
  let o := wxO r.cfg
  let cb := r.row / o.h
  let y := r.row % o.h
  (tdAddr o (32 * cb) y 0, rowBytes o cb (wxZero r.cfg) (fun ch x => wxCode k r.cfg ch y x))

/-- One output row of a WX command. It reads the memories as they stand in old (R189). -/
def wxRow (old k : Core) (r : VecRun) : Core × VecRun :=
  let w := wxStore { k with mem := old.mem } r
  ({ k with
      mem := { k.mem with core := memStore k.mem.core w.1 w.2 }
      wx := { k.wx with elems := satAdd k.wx.elems (32 * (wxO r.cfg).w) } },
    { r with row := r.row + 1, cyc := 0 })

/-- Rows of a WX command. -/
def wxRows (cfg : Vector Word 64) : Nat := tdBlocks (wxO cfg) * (wxO cfg).h

/-- Cycles of an output row of a WX command (R159, R160, R163). -/
def wxRowCycles (cfg : Vector Word 64) : Nat :=
  let o := wxO cfg
  let per := if o.ty = .s16 then 256 else 512
  match wxOp cfg with
  | 0 => ceilDiv (32 * o.w * (wxKh cfg + wxKw cfg)) per
  | 1 => ceilDiv (32 * o.w * (wxKh cfg + wxKw cfg)) per
  | 2 => ceilDiv (32 * o.w) per
  | 3 => ceilDiv (32 * o.w) 128
  | _ => ceilDiv (32 * o.w * typeBytes o.ty) 512

/-- The reach of a window or a crop below or right of its map: past the last coordinate, and before coordinate 0 (check 4
of Table 07.11), for rows or for columns. -/
def wxReach (op nOut stride size pad : Nat) (off : Int) : Int × Int :=
  if op = 4 then (-off, ((nOut : Int) - 1) + off)
  else ((pad : Int), (((nOut - 1) * stride + size : Nat) : Int) - 1 - pad)

/-- The checks of a WX start, in order (Table 07.11). Check 4 counts the reach below a map from coordinate H on, so that it halts just where
the reflection of R158 leaves the map (DEDUCED, log 85). -/
def wxChecks (cmd : EngCmd) (cfg : Vector Word 64) : Option HaltCond :=
  let inc (n : Nat) : Option HaltCond := some (vecHalt 0x11 2 cmd.set.val 5 n 0)
  let op := wxOp cfg
  let i := wxI cfg
  let o := wxO cfg
  let f := wxF cfg
  let ry := wxReach op o.h (wxSy cfg) (wxKh cfg) (wxPadTop cfg) (sfld (reg cfg 0x0C) 0 16)
  let rx := wxReach op o.w (wxSx cfg) (wxKw cfg) (wxPadLeft cfg) (sfld (reg cfg 0x0C) 16 16)
  let top := max (tdEnd i) (tdEnd o)
  if 7 ≤ op ∨ 4 ≤ wxPadMode cfg ∨ ((op = 5 ∨ op = 6) ∧ fld (reg cfg 0x00) 8 2 = 3) then inc 1
  else if [i, o].any (fun d => decide (d.h = 0 ∨ d.w = 0 ∨ d.c = 0 ∨ d.src ∨ d.ty = .s32)) then inc 2
  else if (op ≤ 4 ∧ o.c ≠ i.c) ∨ (4 ≤ op ∧ o.ty ≠ i.ty) ∨
      (op = 5 ∧ (i.h % f ≠ 0 ∨ i.w % f ≠ 0 ∨ tdShape o ≠ (i.h / f, i.w / f, f * f * i.c))) ∨
      (op = 6 ∧ (i.c % (f * f) ≠ 0 ∨ tdShape o ≠ (i.h * f, i.w * f, i.c / (f * f)))) then inc 3
  else if (op ≤ 1 ∧ (64 < wxPadTop cfg ∨ 64 < wxPadLeft cfg ∨ (i.h : Int) - 1 + 64 < ry.2 ∨ (i.w : Int) - 1 + 64 < rx.2)) ∨
      ((op ≤ 1 ∨ op = 4) ∧ wxPadMode cfg = 2 ∧ ¬ wxExcl cfg ∧
        ((i.h : Int) - 1 < ry.1 ∨ (i.w : Int) - 1 < rx.1 ∨ (i.h : Int) - 2 < ry.2 - i.h ∨
          (i.w : Int) - 2 < rx.2 - i.w)) then inc 4
  else if overlaps o.base (tdEnd o) i.base (tdEnd i) then inc 5
  else if coreBytes < top then some (vecHalt 0x06 2 cmd.set.val 5 6 (memExtra (top - 1)))
  else none

/-! ### What a row reads and where it writes (R320) -/

/-- The bytes of core memory, or of the accumulator (true), that n elements from (ch, y, x) on along a row occupy. -/
def tdBytes (k : Core) (part : PartId) (d : Td) (ch y x n : Nat) : Bool × Nat × Nat :=
  if d.src then (true, d.arr.val * 0x80000 + tdAccRow k part d ch * 512 + 4 * x, 4 * n)
  else (false, tdAddr d ch y x, n * 32 * typeBytes d.ty)

/-- What a row of a VX command reads: true names the accumulator. -/
def vxReads (k : Core) (r : VecRun) : List (Bool × Nat × Nat) :=
  let cfg := r.cfg
  let a := vxA cfg
  let b := vxB cfg
  let q := vxRq cfg
  let cb := r.row / a.h
  let y := r.row % a.h
  let n := min 32 (a.c - 32 * cb)
  let blk (d : Td) (y w : Nat) : List (Bool × Nat × Nat) :=
    if d.src then (List.range n).map (fun i => tdBytes k r.cmd.part d (32 * cb + i) y 0 w) else [tdBytes k r.cmd.part d (32 * cb) y 0 w]
  let cc := fld (reg cfg 0x18) 0 16 + 32 * cb
  blk a y a.w
    ++ (if vxUsesB cfg then (if vxBcast cfg = 1 then blk b 0 1 else blk b y b.w) else [])
    ++ (if vxOp cfg ≤ 6 ∧ q.biasEn then [(false, fld (reg cfg 0x10) 0 16 * 128 + 4 * cc, 4 * n)] else [])
    ++ (if vxOp cfg ≤ 6 ∧ vxMantEn cfg then [(false, fld (reg cfg 0x14) 0 16 * 128 + cc, n)] else [])

/-- Where a row of a VX command reads curve-table memory. -/
def vxCurveReads (k : Core) (r : VecRun) : List Nat :=
  let cfg := r.cfg
  let a := vxA cfg
  let cb := r.row / a.h
  if (vxCurve cfg).isNone then []
  else (List.range (min 32 (a.c - 32 * cb))).flatMap (fun i => (List.range a.w).filterMap (fun x =>
    let v := vxSum k r.cmd.part cfg (32 * cb + i) (r.row % a.h) x
    curveAt (vxRq cfg) v.1 v.2))

/-- What a row of a WX command reads. -/
def wxReads (r : VecRun) : List (Bool × Nat × Nat) :=
  let o := wxO r.cfg
  let i := wxI r.cfg
  ((rowElems o (r.row / o.h)).flatMap (fun e => wxElems r.cfg e.1 (r.row % o.h) e.2)).map (fun e =>
    (false, tdAddr i e.1 e.2.1 e.2.2, typeBytes i.ty))

/-- What the next row of VX or WX reads. -/
def vecReads (k : Core) (e : VecEng) (r : VecRun) : List (Bool × Nat × Nat) :=
  match e with | .vx => vxReads k r | .wx => wxReads r

/-- Where the next row of VX or WX writes. -/
def vecWrites (k : Core) (e : VecEng) (r : VecRun) : List (Nat × Nat) :=
  match e with
  | .vx => (vxStore k r).map (fun w => (w.1, w.2.length))
  | .wx => let w := wxStore k r; [(w.1, w.2.length)]

/-! ### One cycle -/

/-- A started command of VX or WX. -/
def vecRun0 (cmd : EngCmd) (cfg : Vector Word 64) (row : Nat) (enc : List Encoding) : VecRun :=
  { cmd := cmd, cfg := cfg, row := row, cyc := 0, tail := 0, sum := 0, best := 0, bestI := 0, cnt := 0, seen := false,
    enc := enc, held := false }

/-- One array-clock cycle of VX: a row is processed when its cycles have passed, unless it reads an invalid accumulator
row (R106); after the last row the 16 cycles of R147 run. A snuffed command only finishes its row. old is the core at the start of the
cycle: a read returns the value from before the cycle's writes (R189). -/
def vxCycle (old k : Core) : Core :=
  match k.vx.run with
  | none => k
  | some r =>
    if r.held ∨ k.vx.snuff then k
    else if vxRows r.cfg ≤ r.row then { k with vx := { k.vx with run := some { r with tail := r.tail + 1 } } }
    else if r.cyc + 1 < vxRowCycles r.cfg then { k with vx := { k.vx with run := some { r with cyc := r.cyc + 1 } } }
    else if vxInvalid k r then { k with vx := { k.vx with run := some { r with held := true } } }
    else
      let x := vxRow old k r
      { x.1 with vx := { x.1.vx with run := some x.2 } }

/-- One array-clock cycle of WX. -/
def wxCycle (old k : Core) : Core :=
  match k.wx.run with
  | none => k
  | some r =>
    if k.wx.snuff then k
    else if wxRows r.cfg ≤ r.row then { k with wx := { k.wx with run := some { r with tail := r.tail + 1 } } }
    else if r.cyc + 1 < wxRowCycles r.cfg then { k with wx := { k.wx with run := some { r with cyc := r.cyc + 1 } } }
    else
      let x := wxRow old k r
      { x.1 with wx := { x.1.wx with run := some x.2 } }

/-- Run VX through at most n rows more, to the end of its rows or to a row that is held (log 13). -/
def vxFinish : Nat → Core → Core
  | 0, k => k
  | n + 1, k =>
    match k.vx.run with
    | none => k
    | some r =>
      if vxRows r.cfg ≤ r.row ∨ r.held then k
      else if vxInvalid k r then { k with vx := { k.vx with run := some { r with held := true } } }
      else
        let x := vxRow k k r
        vxFinish n { x.1 with vx := { x.1.vx with run := some x.2 } }

/-- Run WX through at most n rows more. -/
def wxFinish : Nat → Core → Core
  | 0, k => k
  | n + 1, k =>
    match k.wx.run with
    | none => k
    | some r =>
      if wxRows r.cfg ≤ r.row then k
      else
        let x := wxRow k k r
        wxFinish n { x.1 with wx := { x.1.wx with run := some x.2 } }

end Sys2Proof.Machine
end

