-- ==== Sys2Proof/Machine/Faults.lean ====
section
/-! DEFINITION. Machine/Faults.lean: core faults (R166), array faults and output-stage faults of the matrix engine (R102 to R105, R108,
R138), and the uncorrectable words that the engines of a core meet in a cycle, with those that their writes make whole (R320). -/
namespace Sys2Proof.Machine
open Sys2Proof

/-! ### Core faults -/

/-- A core fault (R102, R166, R192, R216, R384): the ENGINE_FAULT or FX_FAULT record and a stop without a halt code; detail
is the engine's fault register, which the job's completion entry will carry. -/
def coreFault (c : CoreId) (code sub eng set detail : Nat) (s : State) : State :=
  let k := s.cores[c]
  let r : RecIn := match findJob s k.ctl.job with
    | some j => {
        code := code, fc := 1, toPart := some j.part, part := j.part.val, job := jobRec j, unit := 1, index := c.val, sub := sub, detail := detail }
    | none => { code := code, fc := 1, unit := 1, index := c.val, sub := sub, detail := detail }
  raiseHalt c (haltCond 0 eng set (BitVec.ofNat 32 detail)) (postFor k.ctl.job r s)

/-- Change the vector engine of a core. -/
def modVx (c : CoreId) (f : Vec → Vec) (s : State) : State := modCore c (fun k => { k with vx := f k.vx }) s
/-- Change the window engine of a core. -/
def modWx (c : CoreId) (f : Vec → Vec) (s : State) : State := modCore c (fun k => { k with wx := f k.wx }) s
/-- Change VX or WX. -/
def modVec (c : CoreId) (e : VecEng) (f : Vec → Vec) (s : State) : State :=
  match e with | .vx => modVx c f s | .wx => modWx c f s
/-- VX or WX of a core. -/
def vecOf (k : Core) (e : VecEng) : Vec := match e with | .vx => k.vx | .wx => k.wx
/-- The engine number of VX or WX. -/
def vecNum (e : VecEng) : Nat := match e with | .vx => 1 | .wx => 2
/-- The rows of a command. -/
def vecRows (e : VecEng) (cfg : Vector Word 64) : Nat := match e with | .vx => vxRows cfg | .wx => wxRows cfg

/-- A fault of VX or WX (R166): the command stops, the fault register takes its cause and row, and the core stops. -/
def vecFault (c : CoreId) (e : VecEng) (cause : BitVec 2) (s : State) : State :=
  match (vecOf (s.cores[c]) e).run with
  | none => s
  | some r =>
    let s := modVec c e (fun v => { v with
      run := none
      snuff := false
      faultCause := cause
      faultRow := BitVec.ofNat 28 r.row }) s
    coreFault c 0x05 0 (vecNum e) r.cmd.set.val (cause.toNat + 4 * (r.row % 2 ^ 28)) s

/-! ### Array faults (R102 to R105, R108) -/

/-- MX halts on a check of its own at pass idx of a command: earlier passes complete, that pass and what follows do nothing (R81,
R137). -/
def mxOwnHalt (c : CoreId) (ord : Option Nat) (idx : Nat) (h : HaltCond) (s : State) : State :=
  raiseHalt c h (modMx c (mxDrain ord idx) s)

/-- The planes of masked arrays are discarded (R107). -/
def dropPlanes (mask : BitVec 4) (k : Core) : Core :=
  { k with arrays := k.arrays.mapFinIdx (fun i u _ => if bitAt mask i then { u with plane := none } else u) }

/-- Mark rows of the masked arrays invalid (R103, Table 04.8). -/
def markInvalid (mask : BitVec 4) (base : Nat) (rows : List (Nat × Nat)) (k : Core) : Core :=
  let bits : BitVec 1024 := rows.foldl (fun b r =>
    b ||| BitVec.ofNat 1024 ((2 ^ r.2 - 1) <<< (base * 128 + r.1))) 0
  { k with arrays := k.arrays.mapFinIdx (fun i u _ => if bitAt mask i then { u with invalid := u.invalid ||| bits } else u) }

/-- The rows of its slot that a started pass of a command has written (R138): those that have entered and merged on some array. -/
def passWritten (k : Core) (cmd : MxCmd) (idx : Nat) : List (Nat × Nat) :=
  let base := (mxEff k.mem.core cmd.cfg idx).slot * 128
  let mine (r : MxRow) : Bool := decide (r.ord = cmd.ord ∧ r.eff.idx = idx)
  let front := match k.mx.run.filter (fun r => decide (r.ord = cmd.ord ∧ r.eff.idx = idx)) with
    | some r => mxFront k.mx r
    | none => mxM cmd.cfg
  if front = mxM cmd.cfg ∧ ¬ k.mx.flight.any mine then [(base, front)]
  else ((List.range front).filter (fun j =>
    !(k.mx.flight.any (fun r => mine r && decide (r.row = j) && r.parts.all (fun p => decide (p.merged = 0)))))).map (fun j => (base + j, 1))

/-- The slot rows that a fault of pass idx makes invalid (R103, R138): those of the group's passes from its first on; with a loop inside k every
row that the command has written; of a group that no overwrite of the command leads, those of the pass's slot. -/
def groupLost (k : Core) (cmd : MxCmd) (first idx : Nat) (led : Bool) : List (Nat × Nat) :=
  if ¬ led then groupRows k.mem.core cmd.cfg idx 1
  else if mxOrder cmd.cfg ≤ 1 then groupRows k.mem.core cmd.cfg first (idx + 1 - first)
  else (List.range (cmd.next - first)).flatMap (fun i => passWritten k cmd (first + i))

/-- A row that no run goes on to enter is whole on the arrays that it has entered; its pass runs again, so it has no codes (R103). -/
def cutRow (run : Option MxRun) (r : MxRow) : MxRow :=
  if r.parts.length = r.arrs ∨ run.any (fun q => decide (q.ord = r.ord ∧ q.eff.idx = r.eff.idx)) then r
  else { r with arrs := r.parts.length, eff := { r.eff with fin := false } }

/-- A later command that is entering rows when the group of another is discarded (R103, R138): its group runs again from its first pass,
or where none of its passes overwrites, it goes on behind the rows that have entered (log 83). -/
def rewindOther (k : Core) (m : Mx) : Mx :=
  match m.run with
  | none => m
  | some r =>
    match mxCmd m r.ord with
    | none => m
    | some cmd =>
      let j := mxFront m r
      let back : Nat × Nat := match (mxGroup k.mem.core cmd.cfg r.eff.idx).1 with
        | some first => (first, 0)
        | none => if j < r.stop then (r.eff.idx, j) else (r.eff.idx + 1, 0)
      { m with
        run := if back.1 = r.eff.idx ∧ 0 < back.2 then some { r with stop := min r.stop j } else none
        started := rewindTo (some (r.ord, back.1, back.2)) m.started }

/-- The group discard of R103 for a fault of a started command at pass idx: entry stops, the group's rows and the load are
discarded, its slot rows become invalid, the fault is recorded; rows of other groups drain. The group runs from pass first to pass last; where
an earlier command leads it (R105), it is the passes of the faulted one's slot, and that command's rows for the same accumulator rows are
discarded too. -/
def discardGroup (c : CoreId) (cmd : MxCmd) (first last idx : Nat) (led : Bool) (info : Word) (s : State) : State :=
  modCore c (fun k =>
    let slot := (mxEff k.mem.core cmd.cfg idx).slot
    let ours (r : MxRow) : Bool := decide (r.ord = cmd.ord) && decide (first ≤ r.eff.idx) && decide (r.eff.idx ≤ last) &&
      (led || decide (r.eff.slot = slot))
    let theirs (r : MxRow) : Bool := !led && decide (r.ord < cmd.ord) && decide (r.eff.slot = slot) &&
      r.parts.any (fun p => bitAt (mxMask cmd.cfg) p.arr.val)
    let k := markInvalid (mxMask cmd.cfg) ((k.allocs[cmd.cmd.part]).accBase.toNat) (groupLost k cmd first idx led) k
    let m := if k.mx.run.any (fun r => decide (r.ord ≠ cmd.ord)) then rewindOther k k.mx else { k.mx with run := none }
    { k with mx := { m with
        load := none
        flight := (k.mx.flight.filter (fun r => !(ours r) && !(theirs r))).map (cutRow m.run)
        started := rewindTo (some (cmd.ord, first, 0)) m.started
        faultInfo := info } }) s

/-- The fields of MX_FAULT_INFO (Table 04.10). -/
def faultInfoWord (arrays cause band group row replays : Nat) : Word :=
  put 0 arrays ||| put 4 cause ||| put 7 band ||| put 10 group ||| put 13 row ||| put 23 replays

/-- The command, pass and row that a fault site names (R102). -/
def faultSite (m : Mx) (site : FaultSite) : Option (Nat × Nat × Nat) :=
  match site with
  | .row k => m.flight[k]?.map (fun r => (r.ord, r.eff.idx, r.row))
  | .load => m.load.map (fun l => (l.ord, l.eff.idx, 0))
  | .merge => (m.run.filter (fun r => decide (r.eff.kT = 0) && !(runDone m))).map (fun r => (r.ord, r.eff.idx, mxFront m r))

/-- Every column group of some arrays, as lampBad names them. -/
def arrayGroups (arrays : BitVec 4) : BitVec 32 :=
  BitVec.ofNat 32 (((bitsOf 4 arrays.toNat).map (fun a => 255 * 2 ^ (8 * a))).foldl (· + ·) 0)

/-- The HALT_LAMP_FAIL of an array's third fault in one group (R104, Table 10.8). -/
def replayLimitHalt (s : State) (c : CoreId) (arrays : BitVec 4) : HaltCond :=
  let a := (bitsOf 4 arrays.toNat).headD 0
  haltCond 0x14 0 0 (put 0 arrays.toNat ||| put 5 1 |||
    put 16 (fld ((s.safety.lampSig[4 * c.val + a]?).getD 0) 0 16))

/-- The replay of a group beside one under way (R104, R138): of one command both groups run again from the earlier first pass; of two
commands the earlier one's stands, and the other runs again behind it (log 83). -/
def joinReplay (old : Option MxReplay) (new : MxReplay) : MxReplay :=
  match old with
  | some r =>
    if r.ord = new.ord then { new with first := min r.first new.first, last := max r.last new.last }
    else if r.ord < new.ord then { r with phase := 0 } else new
  | none => new

/-- An array fault of a started command's row: command, pass and row (R103 to R105, R108). A group without an overwrite pass in the command halts; a
third fault of a group ends in HALT_LAMP_FAIL, its faulting arrays for the retirement of COLUMN_DIAGNOSIS; a snuff under way becomes a record with
replay = 1; otherwise the replay is set up. -/
def arrayFaultAt (c : CoreId) (arrays : BitVec 4) (cause band group : Nat) (site : Nat × Nat × Nat) (s : State) : State :=
  let k := s.cores[c]
  match site with
  | (ord, idx, row) =>
    match mxCmd k.mx ord with
    | none => s
    | some cmd =>
      if ¬ inService s c ∨ cause = 0 ∨ 4 < cause ∨ arrays &&& mxMask cmd.cfg = 0 then s
      else
        let g := mxGroup k.mem.core cmd.cfg idx
        let first := g.1.getD (if mxOrder cmd.cfg ≤ 1 then idx / mxKCount cmd.cfg * mxKCount cmd.cfg else 0)
        let again := k.mx.replay.any (fun r => decide (r.ord = ord) && decide (r.first ≤ idx) && decide (idx ≤ r.last))
        let count := if again then k.mx.replays else 0
        let info := faultInfoWord arrays.toNat cause band group row count
        let s := discardGroup c cmd first g.2 idx g.1.isSome info s
        if g.1.isNone then
          mxOwnHalt c (some ord) first (mxHalt 0x11#8 cmd.cmd.set 10 1 idx) (modCore c (dropPlanes (mxMask cmd.cfg)) s)
        else if 2 ≤ count then
          mxOwnHalt c (some ord) first (replayLimitHalt s c arrays)
            (modMx c (fun m => { m with replay := none, replays := 0 })
              (modCore c (fun k => { dropPlanes (mxMask cmd.cfg) k with lampBad := k.lampBad ||| arrayGroups arrays }) s))
        else
          match k.mx.stop with
          | .snuff _ => modMx c (fun m => { m with stop := .snuff (some (ord, first, 0)), stopReplay := true, replays := count + 1 }) s
          | _ =>
            let s := modMx c (fun m => { m with
              replay := some (joinReplay m.replay { ord := ord, first := first, last := g.2, count := count + 1, phase := 0 })
              replays := count + 1 }) s
            modCore c flushStep s

/-- An array fault where a finding names it. -/
def arrayFault (c : CoreId) (f : ArrayFinding) (s : State) : State :=
  match faultSite (s.cores[c]).mx f.site with
  | some site => arrayFaultAt c f.arrays f.cause.toNat f.band.toNat f.group.toNat site s
  | none => s

/-- MX_OUTPUT_READ_FAULT (R102, cause 6): the output stage's read for the n-th of its rows met the error. No code of that row nor of a
later row is written, the codes of older rows are, and the core has a core fault. MX_FAULT_INFO names the row; its arrays, band and group
read 0 (log 84). -/
def mxOutputReadFault (c : CoreId) (n : Nat) (s : State) : State :=
  match (s.cores[c]).mx.outq[n]? with
  | none => s
  | some o =>
    let info := faultInfoWord 0 6 0 0 o.row 0
    let set := match mxCmd (s.cores[c]).mx o.ord with | some q => q.cmd.set.val | none => 0
    let s := modCore c (fun k => { k with mx := { k.mx with
      outq := (k.mx.outq.take n).map (fun x => if x.age = 0 then readOut k x else x)
      faultInfo := info
      flight := []
      run := none
      load := none
      started := k.mx.started.filter (fun q => decide (q.ord < o.ord))
      stop := .drain } }) s
    coreFault c 0x05 0 0 set info.toNat s

/-! ### Uncorrectable words that a cycle meets (R320) -/

/-- An uncorrectable word that MX has met: its row, the array, and the fields of MX_FAULT_INFO. -/
structure MxMet where
  site  : Nat × Nat × Nat
  arr   : ArrId
  cause : Nat
  band  : Nat
  group : Nat
  deriving DecidableEq, Repr

/-- The weight rows that have entered since old: cause 1, with the band of the first bad word. -/
def weightsMet (bad : Nat → Nat → Bool) (old k : Core) : List MxMet :=
  match old.mx.run with
  | none => []
  | some r =>
    match mxCmd old.mx r.ord with
    | none => []
    | some cmd =>
      (List.finRange 4).filterMap (fun a : ArrId =>
        let m := r.next[a]
        let p := mxRowPlace cmd.cfg r.eff a.val m
        if r.eff.kT = 0 ∨ k.mx.run.all (fun x => decide (x.next[a] = m)) then none
        else ((List.range 8).find? (fun b => bad ((p.1 + p.2 / 8 * b) % 0x80000) (p.2 / 8))).map (fun b =>
          { site := (r.ord, r.eff.idx, m), arr := a, cause := 1, band := b, group := 0 }))

/-- The groups that a part has merged since: all of them where its row has left. -/
def mergedSince (k : Core) (r : MxRow) (p : MxPart) : Byte :=
  match k.mx.flight.find? (fun x => decide (x.ord = r.ord ∧ x.eff.idx = r.eff.idx ∧ x.row = r.row)) with
  | some x => (match x.parts.find? (fun q => decide (q.arr = p.arr)) with | some q => q.merged &&& ~~~ p.merged | none => 0)
  | none => ~~~ p.merged

/-- The rows that a cycle may merge: those in flight, and one of a pass with K_t = 0 (R80). -/
def mergeRowsOf (old k : Core) : List MxRow :=
  old.mx.flight ++ (match old.mx.run with
    | none => []
    | some r =>
      match mxCmd old.mx r.ord with
      | none => []
      | some cmd =>
        let m := mxFront old.mx r
        if r.eff.kT ≠ 0 ∨ k.mx.run.all (fun x => decide (mxFront k.mx x = m)) then []
        else [{ ord := r.ord, eff := r.eff, row := m, arrs := (mxArrays cmd.cfg).length, hits := [],
                parts := (mxArrays cmd.cfg).map (fun a => ⟨a, 0, 0, partSums old cmd.cfg r.eff a m, 0⟩) }])

/-- What a cycle has merged: each row, array and group with the accumulator bytes of its positions (R72, R85). -/
def mergedIn (old k : Core) : List (MxRow × ArrId × Nat × Nat × Nat) :=
  (mergeRowsOf old k).flatMap (fun r =>
    match mxCmd old.mx r.ord with
    | none => []
    | some cmd => r.parts.flatMap (fun p => ((List.range 8).filter (fun g => bitAt (mergedSince k r p) g)).map (fun g =>
        let lo := min p.sums.length (groupFirst p.map g)
        let hi := min p.sums.length (groupFirst p.map (g + 1))
        (r, p.arr, g, accAddr p.arr.val (mxAccRow old cmd.cmd.part r.eff r.row) lo, 4 * (hi - lo)))))

/-- Merges that have read an uncorrectable word: cause 3; an overwrite reads none. -/
def mergesMet (bad : Nat → Nat → Bool) (old k : Core) : List MxMet :=
  ((mergedIn old k).filter (fun x => decide (x.1.eff.merge ≠ 0) && decide (x.2.2.2.2 ≠ 0) && bad x.2.2.2.1 x.2.2.2.2)).map (fun x =>
    { site := (x.1.ord, x.1.eff.idx, x.1.row), arr := x.2.1, cause := 3, band := 0, group := x.2.2.1 })

/-- The stationary bytes of a load that meet an uncorrectable word: cause 2. ring is the stem port's ring register. -/
def planeMet (bad : Nat → Nat → Bool) (ring : Word) (k : Core) (l : MxLoad) : List MxMet :=
  match mxCmd k.mx l.ord with
  | none => []
  | some cmd => (mxArrays cmd.cfg).flatMap (fun a => (List.range (mxPt cmd.cfg)).flatMap (fun p => (List.range l.eff.kT).filterMap (fun r =>
      match mxCell k.mem.core ring k.mx.cursor.s0 cmd.cfg l.eff (if mxSplit cmd.cfg then a.val else 0) p r with
      | .byte x => if bad x 1 then
          some { site := (l.ord, l.eff.idx, 0), arr := a, cause := 2, band := r / 16, group := physCol (k.arrays[a]).staged p / 16 } else none
      | _ => none)))

/-- Whether a read of a curve-table entry meets an uncorrectable word in one of the 16 replicas (R53; log 100). -/
def curveMeets (s : State) (c : CoreId) (at_ : Nat) : Bool := (List.range 16).any (fun i => meetsPoison s (.curve c) (at_ + 4096 * i) 4)

/-- The row that the output stage reads in a cycle, and whether its biases, mantissas and curve entries meet an uncorrectable word (R102;
log 100). -/
def outputMet (bad : Nat → Nat → Bool) (badCurve : Nat → Bool) (old : Core) : Option MxOut :=
  match old.mx.outq.find? (fun o => decide (o.age = 0)) with
  | none => none
  | some o =>
    match mxCmd old.mx o.ord with
    | none => none
    | some cmd =>
      let cfg := cmd.cfg
      let meets (a : ArrId) : Bool :=
        let ch := o.eff.ch + (if mxSplit cfg then 0 else a.val * fld (reg cfg 0x30) 16 16) + o.row
        ((mxRq cfg).biasEn && bad (fld (reg cfg 0x28) 0 16 * 128 + 4 * ch) 4) || bad (fld (reg cfg 0x2C) 0 16 * 128 + ch) 1
      if (mxArrays cfg).any meets || (mxCurveReads old cmd.cmd.part cfg o.eff o.row).any badCurve then some o else none

/-- The codes that the output stage writes in a cycle. -/
def codesOut (old : Core) : List (Nat × List Byte) :=
  match ageOut old true old.mx.outq with
  | [] => []
  | o :: _ => if 12 ≤ o.age ∧ codesGranted old o.codes then o.codes else []

/-- The first of the words met becomes an array fault (R102, R104): one fault of every array that has met it or another in the same data. -/
def metFault (c : CoreId) (l : List MxMet) (s : State) : State :=
  match l with
  | [] => s
  | x :: _ =>
    let arrs := (List.finRange 4).filter (fun a : ArrId => l.any (fun y => decide (y.site = x.site ∧ y.cause = x.cause ∧ y.arr = a)))
    arrayFaultAt c (BitVec.ofNat 4 ((arrs.map (fun a => 2 ^ a.val)).foldl (· + ·) 0)) x.cause x.band x.group x.site s

/-- The planes of a load that has just been read are checked (R102, R320). before: the load as it stood. -/
def loadCheck (c : CoreId) (before : Option MxLoad) (s : State) : State :=
  match (s.cores[c]).mx.load with
  | none => s
  | some l =>
    let same := before.any (fun b => decide (b.ord = l.ord ∧ b.eff.idx = l.eff.idx) && !b.waiting)
    let cmd := mxCmd (s.cores[c]).mx l.ord
    if l.waiting ∨ same ∨ ¬ s.safety.poison.any (fun x => decide (x.1 = .core c)) then s
    else
      let ring := match cmd with | some q => (s.bnd.strm[mxPort q.cfg]).ring | none => 0
      metFault c (planeMet (meetsPoison s (.core c)) ring (s.cores[c]) l) s

/-- A cycle of MX with the state at its start (R102, R103): a fault that its weight reads or its merges would meet is made first, so that no row of
the group enters and no flagged data is merged. -/
def mxSettle (c : CoreId) : Nat → State → State × State
  | 0, s => (s, mxCycle c s)
  | n + 1, s =>
    let t := mxCycle c s
    match weightsMet (meetsPoison s (.wbuf c)) s.cores[c] t.cores[c] ++ mergesMet (meetsPoison s (.acc c)) s.cores[c] t.cores[c] with
    | [] => (s, t)
    | l => mxSettle c n (metFault c l s)

/-- A cycle of MX with uncorrectable words: those that it meets are faults, and words that it has written whole are good again (R102, R320). -/
def mxEcc (c : CoreId) (s : State) : State :=
  let x := mxSettle c 32 s
  let s := x.1
  let t := x.2
  let old := s.cores[c]
  let k := t.cores[c]
  let wholeRows := ((mergedIn old k).filter (fun x => decide (x.1.eff.merge = 0))).map (fun x => x.2.2.2)
  let t := freshWords (.acc c) wholeRows (freshWords (.core c) ((codesOut old).map (fun x => (x.1, x.2.length))) t)
  let t := loadCheck c old.mx.load t
  match outputMet (meetsPoison s (.core c)) (curveMeets s c) old with
  | none => t
  | some o =>
    match (t.cores[c]).mx.outq.findIdx? (fun x => decide (x.ord = o.ord ∧ x.eff.idx = o.eff.idx ∧ x.row = o.row)) with
    | some n => mxOutputReadFault c n t
    | none => t

/-- The cause with which the next row of a VX or WX command meets an uncorrectable word: 2 in the accumulator, 1 in core memory or in a
curve table (log 100). -/
def vecMeets (s : State) (c : CoreId) (e : VecEng) (r : VecRun) : Option (BitVec 2) :=
  match (vecReads (s.cores[c]) e r).find? (fun x => decide (x.2.2 ≠ 0) && meetsPoison s (if x.1 then .acc c else .core c) x.2.1 x.2.2) with
  | some x => some (if x.1 then 2 else 1)
  | none => if e = .vx ∧ (vxCurveReads (s.cores[c]) r).any (curveMeets s c) then some 1 else none

/-- The VX or WX command that processes a row in the coming cycle. -/
def vecDue (e : VecEng) (k : Core) : Option VecRun :=
  (vecOf k e).run.filter (fun r => !(vecOf k e).snuff && !r.held && (match e with
    | .vx => decide (r.row < vxRows r.cfg) && decide (vxRowCycles r.cfg ≤ r.cyc + 1) && !(vxInvalid k r)
    | .wx => decide (r.row < wxRows r.cfg) && decide (wxRowCycles r.cfg ≤ r.cyc + 1)))

/-- The uncorrectable word that VX or WX meets in the coming cycle. -/
def vecMet (s : State) (c : CoreId) (e : VecEng) : Option (BitVec 2) := (vecDue e s.cores[c]).bind (vecMeets s c e)

/-- The writes of the rows that VX or WX process in the coming cycle make words good. -/
def vecFresh (c : CoreId) (e : VecEng) (old : Core) (s : State) : State :=
  match vecDue e old with
  | some r => freshWords (.core c) (vecWrites old e r) s
  | none => s

end Sys2Proof.Machine
end

