-- ==== Sys2Proof/Machine/Cycle.lean ====
section
/-! DEFINITION. Machine/Cycle.lean: one array-clock cycle of a core. -/
namespace Sys2Proof.Machine
open Sys2Proof

/-- One array-clock cycle of core c with no uncorrectable word in memory: its matrix, vector and window engines. VX and WX read what stood
in memory at its start; the writes of MX, VX and WX go in this order (R189). -/
def plainCycle (c : CoreId) (s : State) : State :=
  modCore c (fun k => wxCycle s.cores[c] (vxCycle s.cores[c] k)) (mxCycle c s)

/-- A cycle with uncorrectable words (R320): a row of VX or WX that reads one is a fault, those of MX are found with its cycle. -/
def eccCycle (c : CoreId) (s : State) : State :=
  let old := s.cores[c]
  let vx := vecMet s c .vx
  let wx := vecMet s c .wx
  let t := mxEcc c s
  let t := match vx with
    | some cause => vecFault c .vx cause t
    | none => vecFresh c .vx old (modCore c (vxCycle old) t)
  match wx with
  | some cause => vecFault c .wx cause t
  | none => vecFresh c .wx old (modCore c (wxCycle old) t)

/-- One array-clock cycle of core c. -/
def coreCycle (c : CoreId) (s : State) : State := if s.safety.poison = [] then plainCycle c s else eccCycle c s

/-- n array-clock cycles of core c pass: its waits for credits count them, and their time passes. -/
def passCycles (c : CoreId) (n : Nat) (s : State) : State := spend c (n * binPeriod s.safety.bin) (countCredit c n s)

/-- A cycle of core c by itself; its time passes. -/
def runCycle (c : CoreId) (s : State) : State := passCycles c 1 (coreCycle c s)

/-- Run core c for at most fuel cycles, until a condition holds (log 13): an event of an engine happens at the cycle its
chapter gives, however many cycles away. -/
def advance (c : CoreId) (done : State → Bool) : Nat → State → State
  | 0, s => s
  | n + 1, s => if done s then s else advance c done n (runCycle c s)

/-- The cycles an event command waits for at most: rows, latency and floor at the slowest throttle. -/
def eventFuel : Nat := 20000

/-! ### Rows of VX and WX at once (log 13) -/

/-- The cycles that a row of a command takes. -/
def vecRowCycles (e : VecEng) (cfg : Vector Word 64) : Nat := match e with | .vx => vxRowCycles cfg | .wx => wxRowCycles cfg

/-- Rows of VX or WX, at most n, to the end of its rows or to a row that is held; their cycles pass (R304). -/
def vecRunPlain (c : CoreId) (e : VecEng) (n : Nat) (s : State) : State :=
  let t := modCore c (match e with | .vx => vxFinish n | .wx => wxFinish n) s
  match (vecOf (s.cores[c]) e).run, (vecOf (t.cores[c]) e).run with
  | some r, some q => passCycles c ((q.row - r.row) * vecRowCycles e r.cfg - r.cyc) t
  | _, _ => t

/-- The first of the next n rows that meets an uncorrectable word, counted from the next one, with its cause. -/
def vecFirstBad (s : State) (c : CoreId) (e : VecEng) (r : VecRun) (n : Nat) : Option (Nat × BitVec 2) :=
  (List.range n).findSome? (fun i => (vecMeets s c e { r with row := r.row + i }).map (fun cause => (i, cause)))

/-- Rows of VX or WX, at most n, to the end of its rows, to a row that is held, or to one that meets an uncorrectable word, which is a
fault (R166, R320). -/
def vecRunRows (c : CoreId) (e : VecEng) (n : Nat) (s : State) : State :=
  match s.safety.poison, (vecOf (s.cores[c]) e).run with
  | _ :: _, some r =>
    let bad := vecFirstBad s c e r n
    let m := match bad with | some x => x.1 | none => n
    let t := vecRunPlain c e m s
    let t := freshWords (.core c) ((List.range m).flatMap (fun i => vecWrites (s.cores[c]) e { r with row := r.row + i })) t
    (match bad, (vecOf (t.cores[c]) e).run with
    | some x, some q => if q.row = r.row + x.1 ∧ ¬ q.held then vecFault c e x.2 t else t
    | _, _ => t)
  | _, _ => vecRunPlain c e n s

end Sys2Proof.Machine
end

