-- ==== Sys2Proof/Machine/DxCmds.lean ====
section
/-! DEFINITION. Machine/DxCmds.lean: the data mover's commands: start (R171, R191, R196), transfer issue with its credits (R172,
R177, R187, R205), acknowledgement and arrivals (R172, R177), completion, snuff (R191), faults (R192), the memory-port caps
and their lock (R190), and the release of held table writes (R54). -/
namespace Sys2Proof.Machine
open Sys2Proof

/-! ### Start -/

/-- The running command that a start makes, from a resume record where one is valid (R191). -/
def dxRun0 (cmd : EngCmd) (cfg : Vector Word 64) (r : DxResume) : DxRun :=
  let n := if r.valid then r.run else 0
  let u := n / dxUnit cfg
  { cmd := cmd, cfg := cfg, run := n, off := if dxOp cfg = 4 ∨ dxOp cfg = 5 then n * dxLen cfg / 4096 else 0, buf := [], entry := 0,
    unitsTaken := u + b2n (r.valid && r.credHeld), unitsPosted := u, runsAcked := n, out := [], waiting := false,
    haloWait := none, held := false, fault := 0 }

/-- A start of another set than a valid resume record's (R191). -/
def dxConflict (x : DxChan) (cmd : EngCmd) (ch : ChanId) : Option HaltCond :=
  if x.resume.valid ∧ x.resume.set ≠ cmd.set then some (dxHalt 0x11 cmd.set ch 9 3 0) else none

/-- What halts a start: first the tokens (R233), then the resume record, Table 08.8 and R205. -/
def dxStartHalt (s : State) (c : CoreId) (ch : ChanId) (cmd : EngCmd) (cfg : Vector Word 64) : Option HaltCond :=
  (dxTokenCheck s c cmd cfg).or ((dxConflict (dxChan s c ch) cmd ch).or ((dxChecks s c cmd cfg).or (dxLinkChecks s c cmd cfg)))

/-- DX_COMMAND_START: the channel's snuffed command resumes, or its waiting one starts once its wait is satisfied. A valid resume record clears at
the resumed start (log 81). -/
def dxCommandStart (c : CoreId) (ch : ChanId) (s : State) : State :=
  let k := s.cores[c]
  let x := dxChan s c ch
  match x.parked.orElse (fun _ => x.waiting.filter (fun q => q.start && waitDone k q)) with
  | none => s
  | some cmd =>
    if ¬ coreLive s c ∨ x.run.isSome ∨ x.snuff then s
    else
      let cfg := k.dx.sets[cmd.set]
      let s := progress c (modChan c ch (fun x => match x.parked with
        | some _ => { x with parked := none } | none => { x with waiting := none }) s)
      match dxStartHalt s c ch cmd cfg with
      | some h => raiseLogged c h s
      | none => modChan c ch (fun y => { y with
          run := some (dxRun0 cmd cfg y.resume)
          pos := BitVec.ofNat 32 (dxRun0 cmd cfg y.resume).runsAcked
          resume := { valid := false, set := 0, credHeld := false, run := 0 } }) s

/-! ### Taking credits (R177, R187, R205) -/

/-- Take one halo credit. -/
def takeHaloCredit (cfg : Vector Word 64) (k : Core) : Core :=
  { k with halo :=
      if dxTarget cfg = 0 then { k.halo with credNext := k.halo.credNext - 1 }
      else if dxTarget cfg = 1 then { k.halo with credPrev := k.halo.credPrev - 1 }
      else { k.halo with credEng := updAt k.halo.credEng (fin 32 (dxEngine cfg).toNat) (fun v => v - 1) } }

/-- Take the credits of one unit, both kinds in one cycle. -/
def dxTakeUnit (c : CoreId) (ch : ChanId) (cmd : EngCmd) (cfg : Vector Word 64) (s : State) : State :=
  let s := if dxCrEn cfg then forAll (dxCounters s c cmd cfg (dxCrTok cfg)) (fun x => decTok x.1 x.2) s else s
  let s := if dxOp cfg = 6 then modCore c (takeHaloCredit cfg) s else s
  modDxRun c ch (fun r => { r with unitsTaken := r.unitsTaken + 1, waiting := false, haloWait := none }) s

/-- Take the credits of units until those below need are taken; where one is missing the channel waits (R177, R206). The
answer says whether all are taken. -/
def dxTakeUnits (c : CoreId) (ch : ChanId) (cmd : EngCmd) (cfg : Vector Word 64) : Nat → State → Bool × State
  | 0, s => (true, s)
  | n + 1, s =>
    match dxCredits s c ch cmd cfg with
    | (true, true) => dxTakeUnits c ch cmd cfg n (dxTakeUnit c ch cmd cfg s)
    | (t, h) => (false, modDxRun c ch (fun r => { r with
        waiting := !t
        haloWait := if h then none else some (r.haloWait.getD s.time) }) s)

/-! ### Transfers -/

/-- What forming a transfer answers: the transfer with the command as it stands after it, a halt, a read held on an invalid accumulator
row, or nothing yet (a cap of R190, the flits of R341). -/
inductive DxForm where
  | ok (x : DxXfer) (r : DxRun) (s : State)
  | halt (h : HaltCond) (s : State)
  | hold
  | later

/-- A translation or permission halt of a transfer (R192, Table 10.8). -/
def dxTransHalt (cmd : EngCmd) (ch : ChanId) (e : TransErr) (va : Nat) : HaltCond :=
  if e.code = 0x0D then
    { haltCond 0x0D 3 cmd.set.val (put 0 3 ||| put 5 ch.val ||| put 8 e.kind ||| put 12 (va / 4096 % 2 ^ 20)) with addr := va }
  else { dxHalt 0x0E cmd.set ch 0 0 e.kind with addr := va }

/-- The halt of a failed translation; a walk that the descriptors refuse logs its security fault (R408). -/
def dxTransFail (c : CoreId) (cmd : EngCmd) (ch : ChanId) (e : TransErr) (va : Nat) (s : State) : DxForm :=
  .halt (dxTransHalt cmd ch e va) (if e.code = 0x0D ∧ e.security then haltSecurity c va s else s)

/-- The bytes that a partition may still request in this cap window; none: it has no cap (R190). -/
def capLeft (s : State) (p : PartId) : Option Nat :=
  if s.sg.cap[p] = 0 then none else some ((s.sg.cap[p]).toNat * 256 - s.sg.window[p])

/-- Of n bytes, those whose requests go in this window. -/
def capGrant (s : State) (p : PartId) (n : Nat) : Nat := match capLeft s p with | none => n | some m => min n m

/-- Add bytes to a counter of 64-byte units and its remainder. -/
def addUnits (w : Word) (rem n : Nat) : Word × Nat := (satAdd w ((rem + n) / 64), (rem + n) % 64)

/-- External bytes are requested: the cap window and SG_MP_BYTES_Pp take them. -/
def countIssued (p : PartId) (n : Nat) (s : State) : State :=
  let x := addUnits (s.sg.bytes[p]) (s.sg.bytesRem[p]) n
  { s with sg := { s.sg with
      window := updAt s.sg.window p (fun w => w + n)
      bytes := updAt s.sg.bytes p (fun _ => x.1)
      bytesRem := updAt s.sg.bytesRem p (fun _ => x.2) } }

/-- An on-chip read of the accumulator holds its banks (R86). -/
def dxUseSource (c : CoreId) (cmd : EngCmd) (cfg : Vector Word 64) (src : Int) (n : Nat) (s : State) : State :=
  if dxSs cfg = 2 then modCore c (useAcc (dxAccPhys (s.cores[c]) cmd.part src.toNat) n) s else s

/-- n bytes of a command's source, with the physical addresses of external pieces and the state after a translation. -/
def dxSource (s : State) (c : CoreId) (cmd : EngCmd) (cfg : Vector Word 64) (src : Int) (n : Nat) :
    Except (TransErr × Nat) (List Byte × List Nat) × State :=
  if n = 0 then (.ok ([], []), s)
  else if dxSs cfg = 0 then
    let a := dxSpace s cmd
    xread s a.2 a.1 (src % (2 ^ 48 : Int)).toNat n
  else (.ok (dxRead s c cmd.part (dxSs cfg) (dxOff (dxSs cfg) src) n, []), dxUseSource c cmd cfg src n s)

/-- The target of an on-chip space. -/
def dxOnChip (cfg : Vector Word 64) : DxTarget :=
  match dxDs cfg with
  | 1 => .core
  | 2 => .acc
  | 3 => .wbuf
  | 4 => .staging
  | 5 => .curve
  | _ => .cast (BitVec.ofNat 6 (fld (reg cfg 0x74) 0 6))

/-- The target of a command's transfers (Table 08.1, R187, R188, R205). -/
def dxTargetOf (cfg : Vector Word 64) : DxTarget :=
  if dxOp cfg = 6 then
    if dxTarget cfg = 0 then .haloNext else if dxTarget cfg = 1 then .haloPrev
    else .haloLink (fin 4 (dxTarget cfg - 2)) (dxEngine cfg)
  else if dxDs cfg = 0 then .ext
  else if dxDs cfg = 7 then .group (dxGroup cfg)
  else dxOnChip cfg

/-- A transfer of a command with no byte moved: where it stands among the runs and in the issue order, and its priority (R190). -/
def dxXfer0 (s : State) (cfg : Vector Word 64) (run done : Nat) : DxXfer :=
  { ord := s.sg.issued, run := run, done := done, ext := 0, owed := 0, prio := BitVec.ofNat 4 (fld (s.sg.cls[dxQos cfg]) 0 4), ports := [],
    extRead := false, target := dxTargetOf cfg, writes := [], dvas := [], err := 0, landed := false, acked := false, held := false,
    members := 0 }

/-- The writes of bytes at a destination address: external ones translated, on-chip ones placed. -/
def dxDest (s : State) (c : CoreId) (cmd : EngCmd) (cfg : Vector Word 64) (dst : Int) (bs : List Byte) :
    Except (TransErr × Nat) (List (Nat × List Byte) × List Nat) × State :=
  if dxDs cfg = 0 then
    let a := dxSpace s cmd
    xwrite s a.2 a.1 (dst % (2 ^ 48 : Int)).toNat bs
  else (.ok (dxPlace (s.cores[c]) cmd.part (dxDs cfg) (dxOff (dxDs cfg) dst) bs, []), s)

/-- How long the piece of a run from off on is (R172). -/
def dxPieceLen (cfg : Vector Word 64) (src dst : Int) (off : Nat) : Nat :=
  let left := dxLen cfg - off
  let room (a : Int) : Nat := 4096 - ((a + off) % 4096).toNat
  let srcExt := decide (dxSs cfg = 0 ∧ dxOp cfg ≠ 3)
  let m := min left 4096
  let m := if srcExt then min m (room src) else m
  if dxDstExt cfg ∨ ¬ srcExt then min m (room dst) else m

/-- The halt of a GATHER run whose on-chip source lies beyond its space, its partition's rows or its arrays (R129, R180, log 86). -/
def dxGatherHalt (s : State) (c : CoreId) (cmd : EngCmd) (ch : ChanId) (cfg : Vector Word 64) (src : Int) (n : Nat) : Option HaltCond :=
  let count := (((s.cores[c]).allocs[cmd.part]).accCount).toNat
  let x : DxSide := { src := true, sp := dxSs cfg, lo := src, hi := src + n, base := dxSrc cfg, strides := [] }
  match dxSpaceSize (dxSs cfg) with
  | none => none
  | some z =>
    if dxOp cfg ≠ 1 ∨ n = 0 then none
    else if src < 0 ∨ (z : Int) < src + n then some (dxHalt 0x06 cmd.set ch 8 1 (memExtra (src + n - 1).toNat))
    else if dxSs cfg = 2 ∧ dxNoArray s c x.lo x.hi then some (dxHalt 0x11 cmd.set ch 6 4 0)
    else if dxSs cfg = 2 ∧ 128 * count ≤ dxTopRow x then some (dxHalt 0x05 cmd.set ch 0 0 (accExtra (dxTopRow x) count))
    else none

/-- The halo run, or the piece of one, that a transfer sends over links (R205). -/
def dxHaloOut (c : CoreId) (r : DxRun) (off n : Nat) (dst : Int) (bs : List Byte) : RunOut :=
  let cfg := r.cfg
  let ends := decide (off + n = dxLen cfg)
  { cls := 0, addr := haloAddr (dst + off), info := (dxSeq0 cfg + r.run / dxUnit cfg) % 65536 + c.val * 2 ^ 16 + r.cmd.part.val * 2 ^ 19
    mark := ends && decide ((r.run + 1) % dxUnit cfg = 0), data := bs, start := dst, len := dxLen cfg, off := off, ends := ends }

/-- The piece of a multicast run that a transfer sends (R188). -/
def dxGroupOut (g : BitVec 4) (p : PartId) (at_ : Int) (bs : List Byte) : RunOut :=
  { cls := 1, addr := at_.toNat, info := g.toNat + p.val * 2 ^ 4, mark := false, data := bs }

/-- Where the bytes of a formed transfer go: their writes, or the run that carries them to another core or engine. reads: external bytes are
among them. -/
def dxSend (s : State) (c : CoreId) (ch : ChanId) (r : DxRun) (off n : Nat) (dst : Int) (bs : List Byte) (reads : Bool) :
    Except (TransErr × Nat) ((List (Nat × List Byte) × List Nat) × BitVec 32) × State :=
  let cfg := r.cfg
  let runLast := decide (off + n = dxLen cfg)
  let unitLast := decide ((r.run + 1) % dxUnit cfg = 0)
  let seq := (dxSeq0 cfg + r.run / dxUnit cfg) % 65536
  let who := some (c, ch, s.sg.issued)
  match dxTargetOf cfg with
  | .haloNext | .haloPrev =>
    let next := decide (dxTarget cfg = 0)
    (.ok (([], []), 1), { s with haloRuns := s.haloRuns ++ [{
        core := if next then ringNext s c else ringPrev s c, path := if next then .prev else .next, part := r.cmd.part, seq := BitVec.ofNat 16 seq,
        start := dst, len := dxLen cfg, off := off, data := bs, runLast := runLast, unitLast := unitLast, sender := who, link := none }] })
  | .haloLink l e =>
    (.ok (([], []), BitVec.ofNat 32 (2 ^ e.toNat)), sendRun (some l) e.toNat (dxHaloOut c r off n dst bs) reads who s)
  | .group g =>
    let members := dxMembers s cfg
    (.ok (([], []), members), forAll ((List.range 32).filter (fun m => bitAt members m))
      (fun m => sendRun none m (dxGroupOut g r.cmd.part (dst + off) bs) reads who) s)
  | _ =>
    match dxDest s c r.cmd cfg (dst + off) bs with
    | (.error x, s') => (.error x, s')
    | (.ok w, s') => (.ok (w, 0), s')

/-- The engines to which a command's runs travel by links. -/
def dxLinkEnds (s : State) (cfg : Vector Word 64) : List Nat :=
  match dxTargetOf cfg with
  | .haloLink _ e => [e.toNat]
  | .group _ => (List.range 32).filter (fun m => bitAt (dxMembers s cfg) m)
  | _ => []

/-- Whether the ports by which a command's runs leave now carry its partition's traffic (R345). -/
def dxLinksCarry (s : State) (p : PartId) (cfg : Vector Word 64) : Bool :=
  let named : Option LinkId := match dxTargetOf cfg with | .haloLink l _ => some l | _ => none
  (dxLinkEnds s cfg).all (fun e => (runPort s named e).all (fun l => portCarries s l p))

/-- The flits that a piece of n bytes takes to each of them. -/
def dxFlits (c : CoreId) (r : DxRun) (n : Nat) (dst : Int) : Nat :=
  let bs := List.replicate n 0#8
  match dxTargetOf r.cfg with
  | .haloLink _ _ => (dxHaloOut c r r.off n dst bs).count
  | .group g => (dxGroupOut g r.cmd.part (dst + r.off) bs).count
  | _ => 0

/-- A formed transfer takes its external bytes, its channels and what its sending said. -/
def dxMade (x : DxXfer) (ext : Nat) (extRead : Bool) (spas : List Nat) (w : (List (Nat × List Byte) × List Nat) × BitVec 32) : DxXfer :=
  { x with
    ext := ext, extRead := extRead, writes := w.1.1, dvas := w.1.2, members := w.2
    ports := (spas ++ (if x.target = .ext then w.1.1.map (fun y => y.1) else [])).map mportChannel }

/-- A piece of a run for COPY, GATHER, FILL and HALO (R172, R175, R176, R187, R188, R205). -/
def dxFormPiece (s : State) (c : CoreId) (ch : ChanId) (r : DxRun) : DxForm :=
  let k := s.cores[c]
  let cfg := r.cfg
  let cmd := r.cmd
  let entry := if r.off = 0 then dxEntry k cfg r.run else r.entry
  let src := dxRunSrc cfg entry r.run
  let dst := dxRunDst cfg r.run
  let act := dxReadLen cfg entry r.run
  let b := dxPieceLen cfg src dst r.off
  let n := min (act - r.off) b
  let at_ : Int := src + r.off
  let dstAt : Int := dst + r.off
  let ext := (if dxSs cfg = 0 then n else 0) + (if dxDstExt cfg then b else 0)
  let last := decide (r.off + b = dxLen cfg)
  let next := if last then r.run + 1 else r.run
  match if r.off = 0 then dxGatherHalt s c cmd ch cfg src act else none with
  | some h => .halt h s
  | none =>
    if (dxSs cfg = 4 ∧ ¬ dxOwnedAt s cmd.part at_ n) ∨ (dxOp cfg ≠ 6 ∧ dxDs cfg = 4 ∧ ¬ dxOwnedAt s cmd.part dstAt b) then
      .halt (dxHalt 0x0E cmd.set ch 0 0 1) s
    else if ¬ dxLinksCarry s cmd.part cfg then .halt (dxHalt 0x0E cmd.set ch 0 0 3) s
    else if dxSs cfg = 2 ∧ n ≠ 0 ∧ dxInvalid k cmd.part at_.toNat n then .hold
    else if (ext ≠ 0 ∧ capLeft s cmd.part = some 0) ∨ ¬ (dxLinkEnds s cfg).all (fun e => runFits s e (dxFlits c r b dst)) then .later
    else
      match dxSource s c cmd cfg at_ n with
      | (.error e, s') => dxTransFail c cmd ch e.1 e.2 s'
      | (.ok bs, s') =>
        match dxSend s' c ch r r.off b dst (bs.1 ++ fillBytes cfg (r.off + n) (b - n)) (decide (dxSs cfg = 0 ∧ n ≠ 0)) with
        | (.error e, s'') => dxTransFail c cmd ch e.1 e.2 s''
        | (.ok w, s'') =>
          .ok (dxMade (dxXfer0 s cfg r.run next) ext (decide (dxSs cfg = 0 ∧ n ≠ 0)) bs.2 w)
            { r with run := next, off := if last then 0 else r.off + b, entry := entry } s''

/-- The rows of a transposition block from a run on, each with its fill, read in order. -/
def dxRows (c : CoreId) (cmd : EngCmd) (cfg : Vector Word 64) (first : Nat) :
    Nat → State → Except (TransErr × Nat) (List (List Byte) × List Nat) × State
  | 0, s => (.ok ([], []), s)
  | n + 1, s =>
    let act := dxReadLen cfg 0 first
    match dxSource s c cmd cfg (dxRunSrc cfg 0 first) act with
    | (.error e, s') => (.error e, s')
    | (.ok bs, s') =>
      match dxRows c cmd cfg (first + 1) n s' with
      | (.error e, s'') => (.error e, s'')
      | (.ok l, s'') => (.ok ((bs.1 ++ fillBytes cfg act (dxLen cfg - act)) :: l.1, bs.2 ++ l.2), s'')

/-- Element (r, c) of a block becomes element (c, r), elements of e bytes (R181). -/
def dxTransposed (e : Nat) (rows : List (List Byte)) : List (List Byte) :=
  (List.range (128 / e)).map (fun c => rows.flatMap (fun row => (row.drop (e * c)).take e))

/-- What stops the read of a block: a staging region that the partition does not own, or an invalid row (R106, R174). -/
def dxBlockStop (s : State) (c : CoreId) (ch : ChanId) (cmd : EngCmd) (cfg : Vector Word 64) (first n : Nat) : Option DxForm :=
  let runs := (List.range n).map (fun i => (dxRunSrc cfg 0 (first + i), dxReadLen cfg 0 (first + i)))
  if dxSs cfg = 4 ∧ ¬ runs.all (fun x => dxOwnedAt s cmd.part x.1 x.2) then some (.halt (dxHalt 0x0E cmd.set ch 0 0 1) s)
  else if dxSs cfg = 2 ∧ runs.any (fun x => decide (x.2 ≠ 0) && dxInvalid (s.cores[c]) cmd.part x.1.toNat x.2) then some .hold
  else none

/-- A piece of a row of a transposed block (R172, R181): with the first piece of a block its source rows come into the channel's buffer;
then each destination row leaves as a run does, and its transfers count the external reads of the source row of its number (log 58). -/
def dxFormBlock (s : State) (c : CoreId) (ch : ChanId) (r : DxRun) : DxForm :=
  let cfg := r.cfg
  let cmd := r.cmd
  let n := 128 / dxEsz cfg
  let first := r.run / n * n
  let dst := dxRunDst cfg r.run
  let b := dxPieceLen cfg (dxRunSrc cfg 0 r.run) dst r.off
  let got := min (dxReadLen cfg 0 r.run - r.off) b
  let ext := (if dxSs cfg = 0 then got else 0) + (if dxDstExt cfg then b else 0)
  let last := decide (r.off + b = dxLen cfg)
  let next := if last then r.run + 1 else r.run
  match if r.buf = [] then dxBlockStop s c ch cmd cfg first n else none with
  | some f => f
  | none =>
    if dxDs cfg = 4 ∧ ¬ dxOwnedAt s cmd.part (dst + r.off) b then .halt (dxHalt 0x0E cmd.set ch 0 0 1) s
    else if ext ≠ 0 ∧ capLeft s cmd.part = some 0 then .later
    else
      match if r.buf = [] then dxRows c cmd cfg first n s else (.ok (r.buf, []), s) with
      | (.error e, s') => dxTransFail c cmd ch e.1 e.2 s'
      | (.ok rows, s') =>
        let buf := if r.buf = [] then dxTransposed (dxEsz cfg) rows.1 else rows.1
        match dxSend s' c ch r r.off b dst (((buf[r.run - first]?.getD []).drop r.off).take b) (decide (dxSs cfg = 0)) with
        | (.error e, s'') => dxTransFail c cmd ch e.1 e.2 s''
        | (.ok w, s'') =>
          .ok (dxMade (dxXfer0 s cfg r.run next) ext (decide (dxSs cfg = 0 ∧ got ≠ 0)) rows.2 w)
            { r with run := next, off := if last then 0 else r.off + b, buf := if next = first + n then [] else buf } s''

/-- The pieces of runs that bytes a … a + n - 1 of the stream cover: run, offset, length (R184). -/
def dxPieces (cfg : Vector Word 64) : Nat → Nat → Nat → List (Nat × Nat × Nat)
  | 0, _, _ => []
  | fuel + 1, a, n =>
    if n = 0 then []
    else
      let m := min n (dxLen cfg - a % dxLen cfg)
      (a / dxLen cfg, a % dxLen cfg, m) :: dxPieces cfg fuel (a + m) (n - m)

/-- The bytes of the whole stream of a command. -/
def dxStreamLen (cfg : Vector Word 64) : Nat := dxTotal cfg * dxLen cfg

/-- The runs below which everything is covered once page p is done. -/
def dxPageDone (cfg : Vector Word 64) (p : Nat) : Nat :=
  if dxStreamLen cfg ≤ 4096 * (p + 1) then dxTotal cfg else 4096 * (p + 1) / dxLen cfg

/-- The pieces of runs that page p covers (R184). -/
def dxPagePieces (cfg : Vector Word 64) (p : Nat) : List (Nat × Nat × Nat) :=
  dxPieces cfg 4097 (4096 * p) (min 4096 (dxStreamLen cfg - 4096 * p))

/-- A command that has moved a page whole. -/
def dxNextPage (r : DxRun) : DxRun := { r with run := dxPageDone r.cfg r.off, off := r.off + 1, buf := [] }

/-- The header of a page leaves (R183): the last transfer of a packed page. -/
def dxFormHeader (s : State) (c : CoreId) (ch : ChanId) (r : DxRun) (hd : List Byte) : DxForm :=
  let w := dxSpace s r.cmd
  if capLeft s r.cmd.part = some 0 then .later
  else
    match xwrite s w.2 w.1 ((dxZch r.cfg + 8 * r.off) % 2 ^ 48) hd with
    | (.error e, s') => dxTransFail c r.cmd ch e.1 e.2 s'
    | (.ok u, s') => .ok (dxMade (dxXfer0 s r.cfg (4096 * r.off / dxLen r.cfg) (dxPageDone r.cfg r.off)) 8 false [] (u, 0)) (dxNextPage r) s'

/-- A transfer of a page of ZC_PACK (R182 to R184): its data, then its header. -/
def dxFormPack (s : State) (c : CoreId) (ch : ChanId) (r : DxRun) : DxForm :=
  let cfg := r.cfg
  let cmd := r.cmd
  let k := s.cores[c]
  let a := 4096 * r.off
  let pieces := dxPagePieces cfg r.off
  let at_ (x : Nat × Nat × Nat) : Int := dxRunSrc cfg 0 x.1 + (x.2.1 : Int)
  match r.buf with
  | hd :: _ => dxFormHeader s c ch r hd
  | [] =>
    if dxSs cfg = 4 ∧ ¬ pieces.all (fun x => dxOwnedAt s cmd.part (at_ x) x.2.2) then .halt (dxHalt 0x0E cmd.set ch 0 0 1) s
    else if dxSs cfg = 2 ∧ pieces.any (fun x => dxInvalid k cmd.part (at_ x).toNat x.2.2) then .hold
    else if capLeft s cmd.part = some 0 then .later
    else
      let z := dxZcode cfg
      let bs := pieces.flatMap (fun x => dxRead s c cmd.part (dxSs cfg) (dxOff (dxSs cfg) (at_ x)) x.2.2)
      let hd := zcPack z (dxPage0 cfg + r.off) (bs ++ List.replicate (4096 - bs.length) z)
      let w := dxSpace s cmd
      let s := forAll pieces (fun x => dxUseSource c cmd cfg (at_ x) x.2.2) s
      if hd.2 = [] then dxFormHeader s c ch r hd.1
      else
        match xwrite s w.2 w.1 ((dxDst cfg + a) % 2 ^ 48) hd.2 with
        | (.error e, s') => dxTransFail c cmd ch e.1 e.2 s'
        | (.ok v, s') =>
          .ok (dxMade (dxXfer0 s cfg (a / dxLen cfg) (a / dxLen cfg)) hd.2.length false [] (v, 0)) { r with buf := [hd.1] } s'

/-- The restored bytes of a page and the state after them; none: a page error (R185). Data too short for its masks reads free bytes (log 7). -/
def zcUnpack (z : Byte) (page h : Nat) (data : List Byte) (s : State) : Option (List Byte) × State :=
  if ¬ (zcHeaderOk z page h && decide ((crc8 data).toNat = h / 2 ^ 16 % 256)) then (none, s)
  else
    let f := takeFree (if ¬ h.testBit 9 ∧ h % 512 ≠ 0 then zcNeeds 64 data - data.length else 0) s
    (some (if h % 512 = 0 then List.replicate 4096 z else if h.testBit 9 then data else zcBlocks z 64 (data ++ f.1)), f.2)

/-- The transfer that restores a page: its writes, or the page error that stops the channel. -/
def dxFormRestored (s : State) (c : CoreId) (r : DxRun) (h : Nat) (data : List Byte) (ext : Nat) (spas : List Nat) : DxForm :=
  let cfg := r.cfg
  let place (q : Nat × Nat × Nat) (bs : List Byte) : List (Nat × List Byte) :=
    dxPlace (s.cores[c]) r.cmd.part (dxDs cfg) (dxOff (dxDs cfg) (dxRunDst cfg q.1 + (q.2.1 : Int))) bs
  let u := zcUnpack (dxZcode cfg) (dxPage0 cfg + r.off) h data s
  let x := dxXfer0 s cfg (4096 * r.off / dxLen cfg) (dxPageDone cfg r.off)
  match u.1 with
  | none => .ok { dxMade x ext true spas (([], []), 0) with err := 4 } (dxNextPage r) u.2
  | some bytes =>
    let writes := ((dxPagePieces cfg r.off).foldl (fun (y : List (Nat × List Byte) × List Byte) q =>
      (y.1 ++ place q (y.2.take q.2.2), y.2.drop q.2.2)) ([], bytes)).1
    .ok (dxMade x ext true spas ((writes, []), 0)) (dxNextPage r) u.2

/-- A transfer of a page of ZC_UNPACK (R184, R185): its header, then the data that the header announces. A header without data, or one
that is a page error, ends the page with its own transfer. -/
def dxFormUnpack (s : State) (c : CoreId) (ch : ChanId) (r : DxRun) : DxForm :=
  let cfg := r.cfg
  let cmd := r.cmd
  let z := dxZcode cfg
  let page := dxPage0 cfg + r.off
  let w := dxSpace s cmd
  let dstAt (x : Nat × Nat × Nat) : Int := dxRunDst cfg x.1 + (x.2.1 : Int)
  if dxDs cfg = 4 ∧ ¬ (dxPagePieces cfg r.off).all (fun x => dxOwnedAt s cmd.part (dstAt x) x.2.2) then .halt (dxHalt 0x0E cmd.set ch 0 0 1) s
  else if capLeft s cmd.part = some 0 then .later
  else
    match r.buf with
    | hb :: _ =>
      let len := leNat hb % 512 * 16
      match xread s w.2 w.1 ((dxSrc cfg + 4096 * r.off) % 2 ^ 48) len with
      | (.error e, s') => dxTransFail c cmd ch e.1 e.2 s'
      | (.ok data, s') => dxFormRestored s' c r (leNat hb) data.1 len data.2
    | [] =>
      match xread s w.2 w.1 ((dxZch cfg + 8 * r.off) % 2 ^ 48) 8 with
      | (.error e, s') => dxTransFail c cmd ch e.1 e.2 s'
      | (.ok hb, s') =>
        let h := leNat hb.1
        if zcHeaderOk z page h ∧ h % 512 ≠ 0 then
          let first := 4096 * r.off / dxLen cfg
          .ok (dxMade (dxXfer0 s cfg first first) 8 true hb.2 (([], []), 0)) { r with buf := [hb.1] } s'
        else dxFormRestored s' c r h [] 8 hb.2

/-- Form the next transfer of a channel. -/
def dxForm (s : State) (c : CoreId) (ch : ChanId) (r : DxRun) : DxForm :=
  match dxOp r.cfg with
  | 2 => dxFormBlock s c ch r
  | 4 => dxFormPack s c ch r
  | 5 => dxFormUnpack s c ch r
  | _ => dxFormPiece s c ch r

/-- Whether a channel has issued everything. -/
def dxAllIssued (r : DxRun) : Bool :=
  if dxOp r.cfg = 4 ∨ dxOp r.cfg = 5 then decide (dxStreamLen r.cfg ≤ 4096 * r.off) else decide (dxTotal r.cfg ≤ r.run)

/-- The last run that the next transfer touches: its unit's credit must be taken first. -/
def dxLastRun (r : DxRun) : Nat :=
  match dxOp r.cfg with
  | 2 => r.run / (128 / dxEsz r.cfg) * (128 / dxEsz r.cfg) + (128 / dxEsz r.cfg - 1)
  | 4 => (min (dxStreamLen r.cfg) (4096 * (r.off + 1)) - 1) / dxLen r.cfg
  | 5 => (min (dxStreamLen r.cfg) (4096 * (r.off + 1)) - 1) / dxLen r.cfg
  | _ => r.run

/-- Transfers between issue and acknowledgement. -/
def dxOutstanding (r : DxRun) : Nat := (r.out.filter (fun x => !x.acked)).length

/-- The word of DX_FAULT_INFO (Table 08.6). -/
def dxFaultWord (ch : ChanId) (cause run : Nat) : Word := put 0 ch.val ||| put 2 cause ||| put 6 (run % 2 ^ 26)

/-- A DX fault (R192): recorded, reported, and the core stops; the channel's outstanding transfers still complete. A channel that has
already met one keeps it; one that only its own halt has stopped does not. -/
def dxFault (c : CoreId) (ch : ChanId) (cause run : Nat) (s : State) : State :=
  match (dxChan s c ch).run with
  | none => s
  | some r =>
    if r.fault ≠ 0 ∧ r.fault ≠ 6 then s
    else
      let w := dxFaultWord ch cause run
      let s := modDxRun c ch (fun r => { r with fault := cause })
        (modCore c (fun k => { k with dx := { k.dx with fault := w } }) s)
      coreFault c 0x05 ch.val 3 r.cmd.set.val w.toNat s

/-- Whether an on-chip read of n bytes from an offset of space sp meets an uncorrectable word (R192, R320). -/
def dxMeetsPoison (s : State) (c : CoreId) (part : PartId) (sp off n : Nat) : Bool :=
  match sp with
  | 1 => meetsPoison s (.core c) off n
  | 2 => meetsPoison s (.acc c) (dxAccPhys (s.cores[c]) part off) n
  | 3 => meetsPoison s (.wbuf c) (off % 0x80000) n || decide (0x80000 < off % 0x80000 + n) && meetsPoison s (.wbuf c) 0 (off % 0x80000 + n - 0x80000)
  | 4 => meetsPoison s .staging off n
  | _ => false

/-- The on-chip source bytes that the next transfer of a channel reads: address and length, with the entry of a GATHER run. -/
def dxNextReads (k : Core) (r : DxRun) : List (Int × Nat) :=
  let cfg := r.cfg
  match dxOp cfg with
  | 2 => if r.buf = [] then
      (List.range (128 / dxEsz cfg)).map (fun i => let n := r.run / (128 / dxEsz cfg) * (128 / dxEsz cfg) + i
        (dxRunSrc cfg 0 n, dxReadLen cfg 0 n)) else []
  | 4 => if r.buf = [] then (dxPagePieces cfg r.off).map (fun x => (dxRunSrc cfg 0 x.1 + (x.2.1 : Int), x.2.2)) else []
  | 5 => []
  | _ =>
    let entry := if r.off = 0 then dxEntry k cfg r.run else r.entry
    let src := dxRunSrc cfg entry r.run
    [(src + r.off, min (dxReadLen cfg entry r.run - r.off) (dxPieceLen cfg src (dxRunDst cfg r.run) r.off))]

/-- Whether the reads of a channel's next transfer meet an uncorrectable word. -/
def dxReadBad (s : State) (c : CoreId) (r : DxRun) : Bool :=
  (dxNextReads (s.cores[c]) r).any (fun x => decide (x.2 ≠ 0) && dxMeetsPoison s c r.cmd.part (dxSs r.cfg) (dxOff (dxSs r.cfg) x.1) x.2)

/-- Whether the index entry of a GATHER run, read before its source, meets one (R180, R192). -/
def dxEntryBad (s : State) (c : CoreId) (r : DxRun) : Bool :=
  decide (dxOp r.cfg = 1 ∧ r.off = 0) && meetsPoison s (.core c) (dxIdx r.cfg + 4 * dxI r.cfg r.run 1) 4

/-- The next transfer is issued: its source is read, its write is under way, and what its cap leaves of its requests goes (R190). A read that
meets an uncorrectable word is a DX fault instead (R192, R320). -/
def dxIssueNow (c : CoreId) (ch : ChanId) (r : DxRun) (s : State) : State :=
  if dxEntryBad s c r then dxFault c ch 3 r.run s
  else match dxForm s c ch r with
  | .later => s
  | .hold => modDxRun c ch (fun r => { r with held := true }) s
  | .halt h s' => dxOwnHalt c ch h s'
  | .ok x r' s' =>
    if dxReadBad s c r then dxFault c ch 3 r.run s
    else
    let now := capGrant s' r.cmd.part x.ext
    let x := { x with held := curveClash (s'.cores[c]) x, owed := x.ext - now }
    let s' := { s' with sg := { s'.sg with issued := s'.sg.issued + 1 } }
    progress c (modDxRun c ch (fun q => { r' with held := false, out := q.out ++ [x] }) (countIssued r.cmd.part now s'))

/-- DX_TRANSFER_ISSUE: with room under max_out, the unit's credits are taken, then the transfer is issued (R172, R177). -/
def dxTransferIssue (c : CoreId) (ch : ChanId) (s : State) : State :=
  let x := dxChan s c ch
  match x.run with
  | none => s
  | some r =>
    if x.snuff ∨ r.fault ≠ 0 ∨ r.held ∨ dxAllIssued r ∨ dxMaxOut r.cfg ≤ dxOutstanding r ∨ ¬ coreLive s c then s
    else
      let need := dxLastRun r / dxUnit r.cfg + 1 - r.unitsTaken
      match dxTakeUnits c ch r.cmd r.cfg need s with
      | (false, t) => t
      | (true, t) =>
        match (dxChan t c ch).run with
        | some r => dxIssueNow c ch r t
        | none => t

/-! ### Acknowledgement -/

/-- The memories that a transfer of core c writes. -/
def dxMems (c : CoreId) (x : DxXfer) (s : State) : List MemName :=
  match x.target with
  | .staging => [.staging]
  | .core => [.core c]
  | .acc => [.acc c]
  | .wbuf => [.wbuf c]
  | .curve => [.curve c]
  | .cast mask => ((List.finRange 6).filter (fun d : CoreId => bitAt mask d.val && !(inReset s.cores[d]))).map (fun d => .wbuf d)
  | .ext => []
  | .group _ => []
  | .haloNext => []
  | .haloPrev => []
  | .haloLink _ _ => []

/-- The bytes that a transfer's writes make good: a curve table is written in its 16 replicas (R53). -/
def dxFresh (x : DxXfer) : List (Nat × Nat) :=
  let l := x.writes.map (fun w => (w.1, w.2.length))
  if x.target = .curve then (List.range 16).flatMap (fun i => l.map (fun w => (w.1 + 4096 * i, w.2))) else l

/-- A transfer's writes land (R172, R173, R187); a write that takes a bank port holds it (R86), and words written whole lose their
poison (R320). -/
def dxLand (c : CoreId) (x : DxXfer) (s : State) : State :=
  let s := forAll (dxMems c x s) (fun m => freshWords m (dxFresh x)) s
  let into (m : Memory) : Memory := x.writes.foldl (fun m w => memStore m w.1 w.2) m
  let fills (k : Core) : Core := x.writes.foldl (fun k w => useWeights w.1 w.2.length k) { k with mem := { k.mem with wbuf := into k.mem.wbuf } }
  match x.target with
  | .ext => { s with dram := into s.dram }
  | .staging => { s with staging := into s.staging }
  | .core => modCore c (fun k => { k with mem := { k.mem with core := into k.mem.core } }) s
  | .acc => modCore c (fun k => x.writes.foldl (fun k w => useAcc w.1 w.2.length k) { k with mem := { k.mem with acc := into k.mem.acc } }) s
  | .wbuf => modCore c fills s
  | .curve => modCore c (fun k => { k with mem := { k.mem with curve := into k.mem.curve } }) s
  | .cast mask => forAll ((List.finRange 6).filter (fun d : CoreId => bitAt mask d.val && !(inReset s.cores[d]))) (fun d => modCore d fills) s
  | .group _ => s
  | .haloNext => s
  | .haloPrev => s
  | .haloLink _ _ => s

/-- The writes that are performed when a transfer's are (R20): those issued before it that meet it, or meet one of these, in the engine's
issue order, and itself last. -/
def dxDue (s : State) (x : DxXfer) : List DxXfer :=
  writesBefore s x.ord x.writes ++ [x]

/-- These transfers have been performed. -/
def markLanded (l : List DxXfer) (s : State) : State :=
  forAll (List.finRange 6) (fun c s => forAll (List.finRange 4) (fun ch s => modDxRun c ch (fun r => { r with
    out := r.out.map (fun y => if l.any (fun z => decide (z.ord = y.ord)) then { y with landed := true } else y) }) s) s) s

/-- A transfer is performed, once: external writes of one granule in the order of their issue (R20). -/
def dxPerform (c : CoreId) (x : DxXfer) (s : State) : State :=
  if x.landed ∨ x.ord ∈ s.host.performed then s
  else if x.target = .ext then forAll (dxDue s x) (dxLand c) (markLanded (dxDue s x) s)
  else dxLand c x s

/-- The written buffer of a dual-run job that holds a virtual address (R322, R323): its index in the primary's table. -/
def dualBuffer (j : Job) (c : CoreId) (va : Nat) : Option Nat :=
  let twin := j.twins.any (fun t => decide (t.2 = c))
  (List.range 32).find? (fun i =>
    decide (bufWritten j i) && (match j.buffers[if twin then i + 32 else i]? with
      | some b => decide (b.1 ≤ va) && decide (va < b.1 + b.2)
      | none => false))
where
  /-- Whether the package's buffer table marks buffer i as written (Table 11.3). -/
  bufWritten (j : Job) (i : Nat) : Bool := decide (i ∈ j.written)

/-- External bytes enter the signature of their buffer and channel (R323): the running CRC-32C is kept. -/
def dualSign (c : CoreId) (ch : ChanId) (job : Nat) (va : Nat) (bs : List Byte) (s : State) : State :=
  match findJob s job with
  | none => s
  | some j =>
    if j.twins = [] then s
    else match dualBuffer j c va with
      | none => s
      | some b =>
        let same (d : Nat × CoreId × Nat × Nat × Word) : Bool := decide (d.1 = job ∧ d.2.1 = c ∧ d.2.2.1 = b ∧ d.2.2.2.1 = ch.val)
        let old := ((s.safety.duals.find? same).map (fun d => d.2.2.2.2)).getD (BitVec.allOnes 32)
        { s with safety := { s.safety with
            duals := (job, c, b, ch.val, crc32Run old bs) :: s.safety.duals.filter (fun d => !(same d)) } }

/-- The bytes of retired external writes enter the dual-run signatures. -/
def dualSignAll (c : CoreId) (ch : ChanId) (job : Nat) (xs : List DxXfer) (s : State) : State :=
  forAll (xs.flatMap (fun x => List.zip x.dvas (x.writes.map (fun w => w.2)))) (fun w => dualSign c ch job w.1 w.2) s

/-- The shortest prefix of a channel's transfers that completes a run, where all of it is acknowledged. -/
def dxPrefix (acked : Nat) : List DxXfer → Option (List DxXfer)
  | [] => none
  | x :: xs =>
    if ¬ x.acked then none
    else if acked < x.done then some [x]
    else (dxPrefix acked xs).map (fun l => x :: l)

/-- Post the arrivals of units from a on, n of them (R177, R187). -/
def dxPostUnits (c : CoreId) (r : DxRun) (n : Nat) (s : State) : State :=
  if ¬ dxAvEn r.cfg then s
  else forAll (List.range n) (fun _ s =>
    forAll (dxCounters s c r.cmd r.cfg (dxAvTok r.cfg)) (fun x => incTok x.1 x.2 1 3 r.cmd.part) s) s

/-- Retire runs that are fully acknowledged, in run order, and post the units they complete, at most n times (R177); after a DX fault no
further unit is posted (R192). -/
def dxRetire (c : CoreId) (ch : ChanId) : Nat → State → State
  | 0, s => s
  | n + 1, s =>
    match (dxChan s c ch).run with
    | none => s
    | some r =>
      match dxPrefix r.runsAcked r.out with
      | none => s
      | some xs =>
        let done := (xs.map (fun x => x.done)).foldl max r.runsAcked
        let posted := if r.fault ≠ 0 ∧ r.fault ≠ 6 then r.unitsPosted else max r.unitsPosted (done / dxUnit r.cfg)
        let s := modChan c ch (fun x => { x with pos := BitVec.ofNat 32 done }) (modDxRun c ch (fun r => { r with
          out := r.out.drop xs.length
          runsAcked := done
          unitsPosted := posted }) s)
        let s := dualSignAll c ch r.cmd.job xs s
        dxRetire c ch n (dxPostUnits c r (posted - r.unitsPosted) s)

/-- The position in a channel's list of its k-th transfer that is not acknowledged. -/
def dxNth (xs : List DxXfer) (k : Nat) : Option Nat :=
  (((List.range xs.length).filter (fun i => match xs[i]? with | some x => !x.acked | none => false)).drop k).head?

/-- DX_TRANSFER_ACK: the k-th outstanding transfer's writes land and are acknowledged; one on which a page error was met is
a DX fault instead. A transfer with requests that wait for a cap window, held behind a running command or awaited by receivers is not
acknowledged yet. -/
def dxTransferAck (c : CoreId) (ch : ChanId) (k : Nat) (s : State) : State :=
  match (dxChan s c ch).run with
  | none => s
  | some r =>
    match (dxNth r.out k).bind (fun i => r.out[i]?.map (fun x => (i, x))) with
    | none => s
    | some (i, x) =>
      if x.held ∨ x.members ≠ 0 ∨ x.owed ≠ 0 then s
      else if x.err ≠ 0 then
        dxFault c ch x.err x.run (modDxRun c ch (fun r => { r with out := dropNth i r.out }) s)
      else
        let s := dxPerform c x s
        let s := modCore c (fun k =>
          let u := addUnits k.dx.bytesExt k.dx.extRem x.ext
          { k with dx := { k.dx with bytesExt := u.1, extRem := u.2, xfers := satAdd k.dx.xfers 1 } }) s
        let s := progress c (modDxRun c ch (fun r => { r with out := modNth (fun x => { x with acked := true }) i r.out }) s)
        dxRetire c ch r.out.length s

/-! ### Completion and stops -/

/-- The command of a channel completes: its record is gone, its tokens are posted. -/
def dxFinish (c : CoreId) (ch : ChanId) (r : DxRun) (s : State) : State :=
  postTokens c 3 r.cmd (progress c (modChan c ch (fun x => { x with run := none, snuff := false }) s))

/-- Everything issued and acknowledged. -/
def dxAllDone (r : DxRun) : Bool := dxAllIssued r && r.out.isEmpty && decide (r.fault = 0)

/-- DX_COMMAND_COMPLETE: every write of every transfer is acknowledged (R172). A waiting packet with start = 0 completes as
soon as its wait is satisfied (R226). -/
def dxCommandComplete (c : CoreId) (ch : ChanId) (s : State) : State :=
  let x := dxChan s c ch
  let idle : State := match x.waiting with
    | some q =>
      if ¬ q.start ∧ waitDone (s.cores[c]) q ∧ coreLive s c then
        postTokens c 3 q (progress c (modChan c ch (fun x => { x with waiting := none }) s))
      else s
    | none => s
  match x.run with
  | some r => if dxAllDone r ∧ ¬ x.snuff then dxFinish c ch r s else idle
  | none => idle

/-- Whether the unit of the first run not acknowledged has taken a credit (R191, R211). -/
def dxCredHeld (r : DxRun) : Bool :=
  (dxCrEn r.cfg || decide (dxOp r.cfg = 6)) && decide (r.runsAcked / dxUnit r.cfg < r.unitsTaken)

/-- DX_SNUFF_COMPLETE (R191): with nothing outstanding, a channel that a fault or its own halt stopped reports without a
record, a finished command completes, and any other is recorded to resume. -/
def dxSnuffComplete (c : CoreId) (ch : ChanId) (s : State) : State :=
  let x := dxChan s c ch
  match x.run with
  | none => modChan c ch (fun x => { x with snuff := false }) s
  | some r =>
    if ¬ x.snuff ∨ 0 < dxOutstanding r then s
    else if r.fault ≠ 0 then modChan c ch (fun x => { x with run := none, snuff := false }) s
    else if dxAllDone r then dxFinish c ch r s
    else
      modChan c ch (fun x => { x with
        run := none
        snuff := false
        parked := some { r.cmd with wait := none }
        resume := { valid := true, set := r.cmd.set, credHeld := dxCredHeld r, run := r.runsAcked } }) s

/-- DX_FAULT: a physical finding on the running command of a channel. -/
def dxFaultFound (c : CoreId) (ch : ChanId) (cause : Nat) (s : State) : State :=
  match (dxChan s c ch).run with
  | some r => if cause = 0 ∨ 5 < cause ∨ ¬ inService s c then s else dxFault c ch cause r.run s
  | none => s

/-- The granule of a transfer's external writes, counted from 0 over them, by its first byte. -/
def dxGranule (x : DxXfer) (g : Nat) : Option Nat :=
  (x.writes.flatMap (fun w => (List.range (ceilDiv (w.1 + w.2.length) 64 - w.1 / 64)).map (fun i => (w.1 / 64 + i) * 64)))[g]?

/-- A failed read delivers nothing (R22): the runs that would have carried its data are taken back. none: they have gone, so the data had come
before. -/
def dxRecall (c : CoreId) (ch : ChanId) (x : DxXfer) (s : State) : Option State :=
  let mine (r : HaloRun) : Bool := decide (r.sender = some (c, ch, x.ord))
  let runs := s.links.sent.filter (fun r => decide (r.owner = some (c, ch, x.ord)))
  match x.target with
  | .haloNext | .haloPrev => if s.haloRuns.any mine then some { s with haloRuns := s.haloRuns.filter (fun r => !(mine r)) } else none
  | .haloLink _ _ | .group _ =>
    if decide (x.members ≠ 0) && decide (runs.length = popcount 32 x.members.toNat) && runs.all (runWaits s) then some (forAll runs takeBack s)
    else none
  | _ => some s

/-- The system chip answers a read, or the write of granule g, of a transfer with an error (R22): the transfer fails. Of a failed
read nothing is written or sent; of a failed write the granule holds free bytes (log 58). -/
def dxPortError (c : CoreId) (ch : ChanId) (k : Nat) (write : Bool) (g : Nat) (s : State) : State :=
  match (dxChan s c ch).run with
  | none => s
  | some r =>
    match (dxNth r.out k).bind (fun i => r.out[i]?.map (fun x => (i, x))) with
    | none => s
    | some (i, x) =>
      let out (s : State) : State := modDxRun c ch (fun r => { r with out := dropNth i r.out }) s
      if write then
        match if x.target = .ext then dxGranule x g else none with
        | none => s
        | some lo =>
          let t := dxPerform c x s
          let f := takeFree 64 t
          dxFault c ch 2 x.run (out (storeSpa lo f.1 f.2))
      else if x.extRead then
        match dxRecall c ch x s with
        | some t => dxFault c ch 1 x.run (out t)
        | none => s
      else s

/-- A held table write starts once no running command selects its table (R54). -/
def curveWriteRelease (c : CoreId) (s : State) : State :=
  let k := s.cores[c]
  forAll (List.finRange 4) (fun ch => modDxRun c ch (fun r => { r with
    out := r.out.map (fun x => if x.held then { x with held := curveClash k x } else x) })) s

/-- A channel's held accumulator read is issued once its rows are valid (R106). -/
def dxReadRelease (c : CoreId) (ch : ChanId) (s : State) : State :=
  match (dxChan s c ch).run with
  | some r => if r.held ∧ coreLive s c ∧ ¬ (dxChan s c ch).snuff then dxIssueNow c ch r s else s
  | none => s

/-! ### The memory port (R190) -/

/-- The order in which the requests that wait for a window are served, by class: class 3, then the classes with a weight, then those of
weight 0, which are served only where no other class asks (R190; the shares of a weight are timing, log 23). -/
def classRank (s : State) (q : Fin 4) : Nat :=
  if q = 3 then 0 else if fld (s.sg.cls[q]) 8 8 ≠ 0 then 1 else 2

/-- Of one channel's transfers, the requests that wait go as far as the cap allows. -/
def dxServe (c : CoreId) (ch : ChanId) (s : State) : State :=
  match (dxChan s c ch).run with
  | none => s
  | some r =>
    (List.range r.out.length).foldl (fun s i =>
      match r.out[i]? with
      | some x =>
        let now := capGrant s r.cmd.part x.owed
        countIssued r.cmd.part now (modDxRun c ch (fun r => { r with out := modNth (fun x => { x with owed := x.owed - now }) i r.out }) s)
      | none => s) s

/-- The class of a channel's running command. -/
def dxClassOf (s : State) (c : CoreId) (ch : ChanId) : Option (Fin 4) := ((dxChan s c ch).run).map (fun r => dxQos r.cfg)

/-- A new 1 µs window (R190): every partition may request up to its cap again, first what waits, by class. -/
def mportCapWindow (s : State) : State :=
  let s := atTime ((s.time / us 1 + 1) * us 1) s
  let s := { s with sg := { s.sg with window := Vector.replicate 8 0 } }
  let all := (List.finRange 6).flatMap (fun c => (List.finRange 4).map (fun ch => (c, ch)))
  forAll [0, 1, 2] (fun rank s => forAll (all.filter (fun x : CoreId × ChanId =>
    match dxClassOf s x.1 x.2 with | some q => decide (classRank s q = rank) | none => false)) (fun x => dxServe x.1 x.2) s) s

/-- A write of SG_MPQ_LOCK: only a secure access sets the lock. -/
def writeMpqLock (secure : Bool) (val : Word) (s : State) : State :=
  if secure ∧ bitAt val 0 then { s with sg := { s.sg with lock := true } } else s

/-! ### The meanings -/

/-- DX_COMMAND_START. -/
def execDxCommandStart (c : CoreId) (ch : ChanId) (s : State) : Host.Outcome State Fault Refusal :=
  .next (dxCommandStart c ch s)
/-- DX_TRANSFER_ISSUE. -/
def execDxTransferIssue (c : CoreId) (ch : ChanId) (s : State) : Host.Outcome State Fault Refusal :=
  .next (dxTransferIssue c ch s)
/-- DX_TRANSFER_ACK. -/
def execDxTransferAck (c : CoreId) (ch : ChanId) (k : Nat) (s : State) : Host.Outcome State Fault Refusal :=
  .next (flushOwed (dxTransferAck c ch k s))
/-- DX_COMMAND_COMPLETE. -/
def execDxCommandComplete (c : CoreId) (ch : ChanId) (s : State) : Host.Outcome State Fault Refusal :=
  .next (dxCommandComplete c ch s)
/-- DX_SNUFF_COMPLETE. -/
def execDxSnuffComplete (c : CoreId) (ch : ChanId) (s : State) : Host.Outcome State Fault Refusal :=
  .next (dxSnuffComplete c ch s)
/-- MPORT_CAP_WINDOW. -/
def execMportCapWindow (s : State) : Host.Outcome State Fault Refusal := .next (mportCapWindow s)
/-- MPQ_LOCK_SET. -/
def execMpqLockSet (acc : Access) (val : Word) (s : State) : Host.Outcome State Fault Refusal :=
  .next (access acc 0x430 true (writeMpqLock acc.secure val) s)
/-- CURVE_WRITE_RELEASE. -/
def execCurveWriteRelease (c : CoreId) (s : State) : Host.Outcome State Fault Refusal := .next (curveWriteRelease c s)

end Sys2Proof.Machine
end

