-- ==== Sys2Proof/Machine/Halo.lean ====
section
/-! DEFINITION. Machine/Halo.lean: halo buffers (R199 to R203, R213), their credits on the ring (R201, R203), arriving runs
(R202), halo waits and their timeout (R206, R207), and what a core reset does to them (R212). -/
namespace Sys2Proof.Machine
open Sys2Proof

/-! ### Fields (Table 09.4) -/

/-- enable. -/
def hbEnabled (b : HaloBuf) : Bool := bitAt b.ctrl 0
/-- The source: kind, and the engine of a remote one. -/
def hbSource (b : HaloBuf) : Nat × Nat := (fld b.ctrl 1 2, if fld b.ctrl 1 2 = 2 then fld b.ctrl 3 5 else 0)
/-- slots. -/
def hbSlots (b : HaloBuf) : Nat := fld b.ctrl 8 8
/-- owner. -/
def hbOwner (b : HaloBuf) : PartId := fin 8 (fld b.ctrl 28 3)
/-- The physical counter of arr_tok. -/
def hbArr (k : Core) (b : HaloBuf) : Option TokId := physTok (k.allocs[hbOwner b]) (fld b.ctrl 16 6)
/-- The physical counter of rel_tok. -/
def hbRel (k : Core) (b : HaloBuf) : Option TokId := physTok (k.allocs[hbOwner b]) (fld b.ctrl 22 6)
/-- The window: first byte and size. -/
def hbWindow (b : HaloBuf) : Nat × Nat := (fld b.win 0 16 * 128, fld b.win 16 16 * 128)

/-- Change a halo buffer. -/
def modHb (c : CoreId) (k : HaloId) (f : HaloBuf → HaloBuf) (s : State) : State :=
  modCore c (fun q => { q with halo := { q.halo with bufs := updAt q.halo.bufs k f } }) s

/-- A halo buffer of a core. -/
def hbOf (s : State) (c : CoreId) (k : HaloId) : HaloBuf := ((s.cores[c]).halo.bufs)[k]

/-! ### Credits towards the source (R201, R203) -/

/-- A message to the counter that the source of a buffer keeps: on the ring it travels to the neighbour; towards a remote
source it leaves the engine with the next control flit of the port on the route (log 22). -/
def hbTell (c : CoreId) (b : HaloBuf) (grant : Option Byte) (s : State) : State :=
  let go (d : CoreId) (p : HaloPath) : State :=
    if d = c then s else { s with haloMsgs := s.haloMsgs ++ [{ core := d, path := p, grant := grant }] }
  match fld b.ctrl 1 2 with
  | 0 => go (ringPrev s c) .next
  | 1 => go (ringNext s c) .prev
  | 2 =>
    match (s.links.routes[(hbSource b).2]?).join with
    | some l => modLink l (fun p => { p with haloOut := p.haloOut ++
        [(BitVec.ofNat 5 (hbSource b).2, { core := c, path := .remote s.links.addr, grant := grant })] }) s
    | none => s
  | _ => s

/-- A buffer is enabled (R201). -/
def hbEnable (c : CoreId) (k : HaloId) (s : State) : State :=
  let b := hbOf s c k
  hbTell c b (some (BitVec.ofNat 8 (hbSlots b))) (modHb c k (fun b => { b with
    ctrl := b.ctrl ||| 1#32, nextSeq := b.seqStart, held := 0, part := false, dead := false, lost := false }) s)

/-- A buffer is disabled (R201). -/
def hbDisable (c : CoreId) (k : HaloId) (s : State) : State :=
  hbTell c (hbOf s c k) (some 0#8) (modHb c k (fun b => { b with
    ctrl := b.ctrl &&& ~~~ 1#32, held := 0, part := false }) s)

/-- err is set. -/
def hbErr (c : CoreId) (k : HaloId) (s : State) : State := modHb c k (fun b => { b with err := true }) s

/-- Why an enable is refused (R199, Table 09.4): its source, its slots, another enabled buffer with that source, a window
past 8 MiB. -/
def hbRefused (s : State) (c : CoreId) (k : HaloId) (val : Word) : Bool :=
  let b : HaloBuf := { hbOf s c k with ctrl := val }
  let w := hbWindow b
  decide (fld val 1 2 = 3) || decide (hbSlots b = 0) || decide (coreBytes < w.1 + w.2)
    || (List.finRange 4).any (fun j => decide (j ≠ k) && hbEnabled (hbOf s c j) && decide (hbSource (hbOf s c j) = hbSource b))

/-- The token of an enable that lies beyond its owner's count (R233): arr_tok, then rel_tok. -/
def hbTokBad (s : State) (c : CoreId) (val : Word) : Option Nat :=
  let n := ((s.cores[c]).allocs[fin 8 (fld val 28 3)]).tokCount.toNat
  [fld val 16 6, fld val 22 6].find? (fun t => decide (n ≤ t))

/-- A write of DX_HB_CTRL_k (R199, R201, R213, R233). While the buffer is enabled only enable changes, and another field
written with a new value sets err (log 25). -/
def writeHbCtrl (c : CoreId) (k : HaloId) (val : Word) (s : State) : State :=
  let old := hbOf s c k
  let val := val &&& 0x7FFFFFFF
  let on := bitAt val 0
  if hbEnabled old then
    let s := if val ||| 1#32 = old.ctrl then s else hbErr c k s
    if on then s else hbDisable c k s
  else if ¬ on then modHb c k (fun b => { b with ctrl := val }) s
  else
    match hbTokBad s c val with
    | some t => raiseHalt c (tokenHalt 7 0 t ((s.cores[c]).allocs[fin 8 (fld val 28 3)]).tokCount.toNat) s
    | none =>
      if hbRefused s c k val then hbErr c k (modHb c k (fun b => { b with ctrl := val &&& ~~~ 1#32 }) s)
      else hbEnable c k (modHb c k (fun b => { b with ctrl := val &&& ~~~ 1#32 }) s)

/-- A write of DX_HB_WIN_k. -/
def writeHbWin (c : CoreId) (k : HaloId) (val : Word) (s : State) : State :=
  if hbEnabled (hbOf s c k) then hbErr c k s else modHb c k (fun b => { b with win := val }) s

/-- A write of DX_HB_SEQ_k: seq_start. -/
def writeHbSeq (c : CoreId) (k : HaloId) (val : Word) (s : State) : State :=
  if hbEnabled (hbOf s c k) then hbErr c k s else modHb c k (fun b => { b with seqStart := val.setWidth 16 }) s

/-- A register-window write of a halo-buffer register: only while the core is halted (R213). -/
def writeHbWindow (c : CoreId) (k : HaloId) (r : HaloReg) (val : Word) (s : State) : State :=
  if ¬ coreHalted s.cores[c] then s
  else match r with
    | .ctrl => writeHbCtrl c k val s
    | .win => writeHbWin c k val s
    | .seq => writeHbSeq c k val s

/-- HB_CTRL_WRITE. -/
def execHbCtrlWrite (acc : Access) (c : CoreId) (k : HaloId) (val : Word) (s : State) : Host.Outcome State Fault Refusal :=
  .next (access acc (coreOff c (0x4800 + 0x10 * k.val)) true (writeHbWindow c k .ctrl val) s)

/-- CTL_HALO_REG_WRITE: the running control program writes a halo-buffer register; owner becomes its partition (R213). -/
def execCtlHaloRegWrite (c : CoreId) (k : HaloId) (r : HaloReg) (val : Word) (s : State) :
    Host.Outcome State Fault Refusal :=
  let ctl := (s.cores[c]).ctl
  .next (
    if ¬ coreLive s c ∨ ¬ ctl.running ∨ ctl.wait ≠ .none then s
    else match r with
      | .ctrl => writeHbCtrl c k ((val &&& 0x8FFFFFFF) ||| put 28 ctl.part.val) s
      | .win => writeHbWin c k val s
      | .seq => writeHbSeq c k val s)

/-! ### Credits as they land -/

/-- Change the halo credit counter of a path. -/
def modCredit (c : CoreId) (path : HaloPath) (f : Byte → Byte) (s : State) : State :=
  modCore c (fun k => { k with halo :=
    match path with
    | .next => { k.halo with credNext := f k.halo.credNext }
    | .prev => { k.halo with credPrev := f k.halo.credPrev }
    | .remote e => { k.halo with credEng := updAt k.halo.credEng (fin 32 e.toNat) f } }) s

/-- Whether the grant of a path's receiver stands. -/
def creditOpen (h : Halo) (path : HaloPath) : Bool :=
  match path with | .next => h.openNext | .prev => h.openPrev | .remote e => bitAt h.openEng e.toNat

/-- A grant reaches the counter of a path (R201): it takes the value; a grant of none closes the path. -/
def takeGrant (c : CoreId) (path : HaloPath) (v : Byte) (s : State) : State :=
  let on := decide (v ≠ 0)
  modCredit c path (fun _ => v) (modCore c (fun k => { k with halo :=
    match path with
    | .next => { k.halo with openNext := on }
    | .prev => { k.halo with openPrev := on }
    | .remote e => { k.halo with openEng := if on then k.halo.openEng ||| BitVec.ofNat 32 (2 ^ e.toNat)
        else k.halo.openEng &&& ~~~ BitVec.ofNat 32 (2 ^ e.toNat) } }) s)

/-- A released credit reaches the counter of a path (R203). After a reset of the sending core it changes nothing until the receiver has
enabled its buffer anew (R212). -/
def takeReturn (c : CoreId) (path : HaloPath) (s : State) : State :=
  if creditOpen (s.cores[c]).halo path then modCredit c path (fun w => w + 1) s else s

/-- The oldest ring message under way to a counter. -/
def haloMsgAt (s : State) (c : CoreId) (path : HaloPath) : Option HaloMsg :=
  s.haloMsgs.find? (fun m => decide (m.core = c) && decide (m.path = path))

/-- It has landed. -/
def haloMsgDone (c : CoreId) (path : HaloPath) (s : State) : State :=
  { s with haloMsgs := s.haloMsgs.eraseP (fun m => decide (m.core = c) && decide (m.path = path)) }

/-- HALO_CREDIT_GRANT: a source's counter takes the value that a buffer gave: on the ring the oldest message's, from a
remote engine the operand's (R201). -/
def execHaloCreditGrant (c : CoreId) (path : HaloPath) (v : Byte) (s : State) : Host.Outcome State Fault Refusal :=
  .next (
    match path with
    | .remote _ => if inService s c then takeGrant c path v s else s
    | _ =>
      match haloMsgAt s c path with
      | some { grant := some w, .. } => haloMsgDone c path (takeGrant c path w s)
      | _ => s)

/-- HALO_CREDIT_RETURN: a released unit's credit reaches the source's counter (R203). -/
def execHaloCreditReturn (c : CoreId) (path : HaloPath) (s : State) : Host.Outcome State Fault Refusal :=
  .next (
    match path with
    | .remote _ => if inService s c then takeReturn c path s else s
    | _ =>
      match haloMsgAt s c path with
      | some { grant := none, .. } => haloMsgDone c path (takeReturn c path s)
      | _ => s)

/-- Whether a buffer has a unit to release against a counter. -/
def hbReleases (s : State) (c : CoreId) (t : TokId) (k : HaloId) : Bool :=
  let b := hbOf s c k
  hbEnabled b && decide (b.held ≠ 0) && decide (hbRel (s.cores[c]) b = some t)

/-- The takes from a counter that go before a buffer's in one cycle (R236): waiting channels, then lower buffers. -/
def releasesBefore (s : State) (c : CoreId) (t : TokId) (k : HaloId) : Nat :=
  claimsBefore s c t 100 + ((List.finRange 4).filter (fun j => decide (j < k) && hbReleases s c t j)).length

/-- HALO_RELEASE: an enabled buffer with a held unit and rel_tok at least 1 beyond the takes that go before releases its oldest unit
(R203, R236). -/
def execHaloRelease (c : CoreId) (k : HaloId) (s : State) : Host.Outcome State Fault Refusal :=
  let b := hbOf s c k
  .next (
    match hbRel (s.cores[c]) b with
    | some t =>
      if hbReleases s c t k ∧ releasesBefore s c t k < (tok s c t).toNat then
        hbTell c b none (modHb c k (fun b => { b with held := b.held - 1 }) (decTok c t s))
      else s
    | none => s)

/-! ### Arriving runs (R202) -/

/-- The source that a path is to a receiver. -/
def pathSource : HaloPath → Nat × Nat
  | .prev => (0, 0)
  | .next => (1, 0)
  | .remote e => (2, e.toNat)

/-- The enabled, bound and owned buffer for a run. -/
def hbFor (s : State) (r : HaloRun) : Option HaloId :=
  (List.finRange 4).find? (fun k =>
    let b := hbOf s r.core k
    hbEnabled b && decide (hbSource b = pathSource r.path) && decide (hbOwner b = r.part))

/-- Every run is acknowledged to its sender: a ring sender's transfer, or a RUN_ACK to the remote engine (R202, R341). -/
def haloAck (r : HaloRun) (s : State) : State :=
  let s := match r.sender with
    | some (c, ch, ord) => modDxRun c ch (fun x => { x with out := x.out.map (fun t => if t.ord = ord then { t with members := 0 } else t) }) s
    | none => s
  match r.link, r.path with
  | some (_, pseq), .remote e => sendMsg 3 6 e.toNat 0 (leBytes 2 pseq.toNat) s
  | _, _ => s

/-- The halt of a bad halo run (Table 10.7): sub-cause 1 sequence, 2 outside the window. -/
def hbHalt (k : HaloId) (sub next : Nat) : HaltCond :=
  haltCond 0x02 7 0 (put 0 3 ||| put 4 sub ||| put 8 k.val ||| put 16 next)

/-- A piece of a run that its buffer accepts: written at the window, and with the last piece of the unit's last run the unit completes. -/
def hbAccept (r : HaloRun) (k : HaloId) (s : State) : State :=
  let b := hbOf s r.core k
  let at_ := (hbWindow b).1 + (r.start + r.off).toNat
  let s := freshWords (.core r.core) [(at_, r.data.length)] <| modCore r.core (fun q => useHalos at_ r.data.length { q with mem := { q.mem with
    core := memStore q.mem.core at_ r.data } }) s
  if ¬ (r.runLast ∧ r.unitLast) then modHb r.core k (fun b => { b with part := true }) s
  else
    let s := modHb r.core k (fun b => { b with part := false, held := b.held + 1, nextSeq := b.nextSeq + 1 }) s
    match hbArr (s.cores[r.core]) b with
    | some t => incTok r.core t 1 7 (hbOwner b) s
    | none => s

/-- Whether a byte of a run lies outside a window. -/
def hbOutside (b : HaloBuf) (r : HaloRun) : Bool := decide (r.start < 0) || decide (((hbWindow b).2 : Int) < r.start + r.len)

/-- A piece of a run that arrives: written, discarded as unbound, or discarded with err and a halt. An unbound run is counted with its last
piece (log 58). -/
def haloArrive (r : HaloRun) (s : State) : State :=
  match hbFor s r with
  | none => modCore r.core (fun q => { q with halo := { q.halo with drop := satAdd q.halo.drop (b2n r.runLast) } }) s
  | some k =>
    let b := hbOf s r.core k
    if b.dead then s
    else if r.seq ≠ b.nextSeq ∨ hbOutside b r then
      raiseHalt r.core (hbHalt k (if r.seq ≠ b.nextSeq then 1 else 2) b.nextSeq.toNat)
        (modHb r.core k (fun b => { b with err := true, dead := true }) s)
    else hbAccept r k s

/-- HALO_RUN_ARRIVAL: the oldest run under way to a core on a path arrives; a path is in order (R198). -/
def execHaloRunArrival (c : CoreId) (path : HaloPath) (s : State) : Host.Outcome State Fault Refusal :=
  let mine (r : HaloRun) : Bool := decide (r.core = c) && decide (r.path = path)
  .next (
    match s.haloRuns.find? mine with
    | none => s
    | some r => haloAck r (haloArrive r { s with haloRuns := s.haloRuns.eraseP mine }))

/-! ### Halo waits (R206, R207) -/

/-- The enabled halo buffers of which a counter is the arr_tok. -/
def hbsOfTok (k : Core) (t : TokId) : List HaloId :=
  (List.finRange 4).filter (fun j => let b := k.halo.bufs[j]; hbEnabled b && decide (hbArr k b = some t))

/-- The lowest of them. -/
def hbOfTok (k : Core) (t : TokId) : Option HaloId := (hbsOfTok k t).head?

/-- The taken command of an engine; for DX, of a channel. -/
def takenOf (k : Core) (e : EngId) (ch : ChanId) : Option EngCmd :=
  match e.val with
  | 0 => k.mx.taken
  | 1 => k.vx.taken
  | 2 => k.wx.taken
  | 3 => (k.dx.chans[ch]).waiting
  | _ => k.fx.taken

/-- The token wait of a waiter, not satisfied: its counter and when it began. -/
def tokenWait (k : Core) (w : HaloWaiter) : Option (TokId × Nat) :=
  match w with
  | .control =>
    match k.ctl.wait with
    | .tok t v => if (k.toks[t]).toNat < v.toNat then some (t, k.ctl.waitFrom) else none
    | _ => none
  | .taken e ch =>
    match takenOf k e ch with
    | some cmd =>
      match cmd.wait with
      | some (t, _) => if waitDone k cmd then none else some (t, cmd.since)
      | none => none
    | none => none
  | .chan _ => none

/-- The arrival wait of a waiter (R206): its lowest buffer and when it began. -/
def arrivalWait (k : Core) (w : HaloWaiter) : Option (HaloId × Nat) :=
  (tokenWait k w).bind (fun x => (hbOfTok k x.1).map (fun j => (j, x.2)))

/-- The waiters of a core for an arrival. -/
def haloWaiters : List HaloWaiter :=
  [.control, .taken 0 0, .taken 1 0, .taken 2 0, .taken 3 0, .taken 3 1, .taken 3 2, .taken 3 3, .taken 4 0]

/-- The engine and set that a waiter's halt names. -/
def waiterUnit (k : Core) (w : HaloWaiter) : Nat × Nat :=
  match w with
  | .control => (5, 0)
  | .taken e ch => (e.val, match takenOf k e ch with | some cmd => cmd.set.val | none => 0)
  | .chan ch => (3, match (k.dx.chans[ch]).run with | some r => r.cmd.set.val | none => 0)

/-- The limit of a halo wait: DX_HALO_TMO, or a quarter of the tick period in whole µs. -/
def haloLimit (s : State) (k : Core) : Nat :=
  us (if k.halo.tmo = 0 then s.tick.period.toNat / 4 else k.halo.tmo.toNat)

/-- The word of DX_HALO_LAST. -/
def haloLastWord (credit : Bool) (i e : Nat) : Nat := b2n credit + 2 * i + 16 * e

/-- A halo wait of a core is the last that halted it (Table 09.3). -/
def haloNote (c : CoreId) (last : Nat) (s : State) : State :=
  modCore c (fun k => { k with halo := { k.halo with last := BitVec.ofNat 9 last } }) s

/-- A halo wait ends in HALT_HALO_TIMEOUT. -/
def haloExpire (c : CoreId) (w : HaloWaiter) (last : Nat) (seq : Nat) (s : State) : State :=
  let u := waiterUnit (s.cores[c]) w
  let h := haltCond 0x0A u.1 u.2 (put 0 last ||| put 16 seq)
  let s := haloNote c last s
  match w with
  | .chan ch => dxOwnHalt c ch h s
  | _ => raiseHalt c h s

/-- HALO_TIMEOUT: a halo wait that is still not satisfied when its limit ends halts its core (R206, R207). -/
def execHaloTimeout (c : CoreId) (unit : HaloWaiter) (s : State) : Host.Outcome State Fault Refusal :=
  let k := s.cores[c]
  .next (
    if ¬ coreLive s c then s
    else match unit with
      | .chan ch =>
        match (k.dx.chans[ch]).run with
        | some r =>
          match r.haloWait with
          | some t =>
            if haloCredit k r.cfg ≠ 0 then s
            else haloExpire c unit (haloLastWord true (dxTarget r.cfg)
              (if dxTarget r.cfg ≤ 1 then 0 else (dxEngine r.cfg).toNat)) 0 (atTime (t + haloLimit s k) s)
          | none => s
        | none => s
      | _ =>
        match arrivalWait k unit with
        | some (j, t) =>
          let b := k.halo.bufs[j]
          haloExpire c unit (haloLastWord false j.val (hbSource b).2) b.nextSeq.toNat (atTime (t + haloLimit s k) s)
        | none => s)

/-! ### A core reset (R212) -/

/-- A core reset disables the halo buffers, zeroes the halo credits, and leaves nothing under way to or from the core. -/
def haloReset (c : CoreId) (s : State) : State :=
  let s := forAll ((List.finRange 4).filter (fun k => hbEnabled (hbOf s c k))) (hbDisable c) s
  let s := { s with
    haloMsgs := s.haloMsgs.filter (fun m => decide (m.core ≠ c))
    haloRuns := s.haloRuns.map (fun r => match r.sender with
      | some (d, _, _) => if d = c then { r with sender := none } else r
      | none => r) }
  modCore c (fun k => { k with halo := { k.halo with
    bufs := k.halo.bufs.map (fun b => { b with err := false, dead := false, lost := false })
    credNext := 0, credPrev := 0, credEng := Vector.replicate 32 0, openNext := false, openPrev := false, openEng := 0 } }) s

/-! ### Lost sources (R209) -/

/-- A halo wait ends because the source of its buffer has left the membership. -/
def haloLost (c : CoreId) (w : HaloWaiter) (k : HaloId) (e : Nat) (s : State) : State :=
  let u := waiterUnit (s.cores[c]) w
  raiseHalt c (linkLost 1 e 0 u.1 u.2) (if coreLive s c then haloNote c (haloLastWord false k.val e) s else s)

/-- The halo waits of a core on buffers whose source is lost end with HALT_LINK_LOST (R209, Table 09.2). -/
def haloLostWaits (c : CoreId) (s : State) : State :=
  forAll haloWaiters (fun w s =>
    let k := s.cores[c]
    match (tokenWait k w).bind (fun x => (hbsOfTok k x.1).find? (fun j => (k.halo.bufs[j]).lost)) with
    | some j => haloLost c w j (hbSource k.halo.bufs[j]).2 s
    | none => s) s

/-! ### Reads held on an invalid row (R106) -/

/-- ACC_READ_RELEASE: a held read is issued once its rows are valid. WX reads no accumulator, so holds no read. -/
def execAccReadRelease (c : CoreId) (unit : ReadUnit) (s : State) : Host.Outcome State Fault Refusal :=
  .next (
    match unit with
    | .vx => modCore c (fun k => { k with vx := { k.vx with run := k.vx.run.map (fun r => { r with held := r.held && vxInvalid k r }) } }) s
    | .wx => s
    | .dx ch => dxReadRelease c ch s)

end Sys2Proof.Machine
end

