-- ==== Sys2Proof/Machine/Sets.lean ====
section
/-! DEFINITION. Machine/Sets.lean: the bits that the configuration sets of each engine hold (Tables 03.9 to 03.12, 05.1, 05.5, 06.4,
07.1, 07.5 to 07.8, 08.5, 16.13); a reserved bit reads zero and ignores writes (R6). -/
namespace Sys2Proof.Machine
open Sys2Proof

/-- The mask of register i of a list, 0 past its end: an RSV offset. -/
def maskOf (l : List Word) (i : Nat) : Word := l[i]?.getD 0

/-- A tensor descriptor (Table 07.1). -/
def tdMask : List Word := [0xFFFFFFFF, 0xFFFFFFFF, 0xFFFFFFFF, 0x0007FFFF]

/-- A requantisation control word (Table 02.4). -/
def rqMask : List Word := [0x3FFFFFFF, 0x0000FFFF]

/-- The MX set. -/
def mxMasks : List Word :=
  [0x03FFFFFF, 0x0001FFFF, 0x03FFFFFF, 0x0000FFFF] ++ List.replicate 4 0xFFFFFFFF ++ rqMask
    ++ [0x0000FFFF, 0x0000FFFF, 0xFFFFFFFF, 0x0000FF01, 0, 0]
    ++ [0xFFFFFFFF, 0xFFFFFFFF, 0xFFFFFFFF, 0xFFFFFFFF, 0x3F3F7F7F, 0xFFFFFFFF, 0xFFFFFFFF, 0x00FFFFFF]
    ++ [0xFFFFFFFF, 0xFFFFFFFF, 0xFFFFFFFF, 0x0000FFFF]
    ++ [0xFFFFFFFF, 0x00FF7FFF, 0xFFFFFFFF, 0xFFFF1FFF]

/-- The VX set. -/
def vxMasks : List Word :=
  [0x03FFFFFF, 0xFFFFFFFF] ++ rqMask ++ List.replicate 4 0x0000FFFF ++ tdMask ++ tdMask ++ tdMask

/-- The WX set. -/
def wxMasks : List Word :=
  [0x000007FF, 0x000FFFFF, 0xFFFF7F7F, 0xFFFFFFFF] ++ List.replicate 4 0xFFFFFFFF ++ tdMask ++ tdMask

/-- The DX set. -/
def dxMasks : List Word :=
  [0x000FFFF7, 0xFFFFFFFF, 0x0000FFFF, 0xFFFFFFFF, 0x0000FFFF, 0x0000FFFF, 0x0001FFFF, 0x00007FFF]
    ++ List.replicate 16 0xFFFFFFFF ++ [0x00077F7F, 0x0000FFFF, 0xFFFFFFFF, 0xFFFFFFFF, 0x0000FFFF, 0x00000F3F, 0xFFFF00FF]

/-- The FX set. -/
def fxMasks : List Word :=
  [0x0000001F, 0x0000FFFF, 0x0003FFFF, 0x0007FFFF, 0x0003FFFF, 0x0007FFFF, 0, 0] ++ List.replicate 8 0xFFFFFFFF

/-- The bits of register i of a set of engine e. -/
def setMask (e : EngId) (i : Nat) : Word :=
  match e.val with
  | 0 => maskOf mxMasks i
  | 1 => maskOf vxMasks i
  | 2 => maskOf wxMasks i
  | 3 => maskOf dxMasks i
  | _ => maskOf fxMasks i

/-- The four sets of an engine of a core. -/
def setsOf (k : Core) (e : EngId) : Vector (Vector Word 64) 4 :=
  match e.val with
  | 0 => k.mx.sets
  | 1 => k.vx.sets
  | 2 => k.wx.sets
  | 3 => k.dx.sets
  | _ => k.fx.sets

/-- Change one set of an engine of a core. -/
def modSet (e : EngId) (n : SetId) (f : Vector Word 64 → Vector Word 64) (k : Core) : Core :=
  match e.val with
  | 0 => { k with mx := { k.mx with sets := updAt k.mx.sets n f } }
  | 1 => { k with vx := { k.vx with sets := updAt k.vx.sets n f } }
  | 2 => { k with wx := { k.wx with sets := updAt k.wx.sets n f } }
  | 3 => { k with dx := { k.dx with sets := updAt k.dx.sets n f } }
  | _ => { k with fx := { k.fx with sets := updAt k.fx.sets n f } }

/-- The bits that register i of a set holds as the set stands: MX_AG5[31:8] is reserved while ag_mode is 3 (Table 05.1). -/
def heldBits (e : EngId) (i : Nat) (v : Vector Word 64) : Word :=
  if e.val = 0 ∧ i = 0x15 ∧ fld (reg v 0x40) 16 2 = 3 then 0xFF else setMask e i

/-- Write register i of a set: reserved bits ignore the write (R6). -/
def writeSetReg (e : EngId) (i : Nat) (w : Word) (v : Vector Word 64) : Vector Word 64 :=
  setReg v i ((reg v (4 * i) &&& ~~~ heldBits e i v) ||| (w &&& heldBits e i v))

/-- Read register i of a set: reserved bits read zero (R6). -/
def readSetReg (e : EngId) (i : Nat) (v : Vector Word 64) : Word := reg v (4 * i) &&& heldBits e i v

end Sys2Proof.Machine
end

