-- ==== Sys2Proof/Machine/Queue.lean ====
section
/-! DEFINITION. Machine/Queue.lean: the engine queues: pushing and committing a packet (R222, R223), its words (Tables 10.2 and
10.3), the take with its checks (R224, R225, R231), and the reset on a pointer mismatch (R228). -/
namespace Sys2Proof.Machine
open Sys2Proof

/-- Change a queue of a core. -/
def modQ (c : CoreId) (e : EngId) (f : EngQueue → EngQueue) (s : State) : State :=
  modCore c (fun k => { k with queues := updAt k.queues e f }) s

/-! ### The write side (R223) -/

/-- A queue with an open packet. -/
def queueOpen (q : EngQueue) : Bool := q.slots.any (fun x => x.order.isNone)

/-- A packet's word 0 with the running job's partition and tag. -/
def insertFields (part : PartId) (tag : BitVec 14) (w : Word) : Word :=
  (w &&& 0xC0001FFF) ||| put 13 part.val ||| put 16 tag.toNat

/-- A packet that has all its words is committed. -/
def commitOpen (part : PartId) (tag : BitVec 14) (q : EngQueue) : EngQueue :=
  let whole (x : QSlot) : Bool := x.order.isNone && decide (x.words.length = x.len)
  if q.slots.any whole then
    { q with
      commits := q.commits + 1
      slots := q.slots.map (fun x => if whole x then
        { x with order := some q.commits, words := match x.words with | w :: ws => insertFields part tag w :: ws | [] => [] }
        else x) }
  else q

/-- A word joins the open packet. -/
def appendOpen (w : Word) (q : EngQueue) : EngQueue :=
  { q with slots := q.slots.map (fun x => if x.order.isNone then { x with words := x.words ++ [w] } else x) }

/-- A first word opens a packet where a slot is free; otherwise the packet is ignored to its end. -/
def openPacket (part : PartId) (job : Nat) (w : Word) (q : EngQueue) : EngQueue :=
  if 64 ≤ q.slots.length then
    { q with
      ignoring := true
      overrun := q.overrun ||| BitVec.ofNat 8 (2 ^ part.val)
      ignored := satAdd16 q.ignored 1 }
  else
    { q with
      ignoring := false
      slots := q.slots ++ [{ words := [w], len := fld w 8 5 + 1, order := none, taken := false, job := job }]
      wptrA := q.wptrA + 1
      wptrB := q.wptrB + 1 }

/-- What a pushed word does to a queue. corrupt: it shows an uncorrectable error as it is written. -/
def pushWord (part : PartId) (tag : BitVec 14) (job : Nat) (first : Bool) (w : Word) (corrupt : Bool) (q : EngQueue) :
    EngQueue :=
  let q := if first then openPacket part job w (rewindOpen q)
    else if queueOpen q then appendOpen w q else q
  if corrupt then rewindOpen q else commitOpen part tag q

/-- The control program of a core runs and does not wait. -/
def ctlRuns (s : State) (c : CoreId) : Bool :=
  coreLive s c && (s.cores[c]).ctl.running && decide ((s.cores[c]).ctl.wait = .none)

/-- QUEUE_WORD_PUSH. -/
def execQueueWordPush (c : CoreId) (e : EngId) (first : Bool) (w : Word) (corrupt : Bool) (s : State) :
    Host.Outcome State Fault Refusal :=
  let ctl := (s.cores[c]).ctl
  let old := ((s.cores[c]).queues)[e]
  let new := pushWord ctl.part ctl.tag ctl.job first w corrupt old
  .next (
    if ¬ ctlRuns s c then s
    else
      let s := modQ c e (fun _ => new) s
      let s := if new.overrun = old.overrun ∧ new.ignored = old.ignored then s
        else modCore c (fun k => { k with ctl := { k.ctl with overran := true } }) s
      if new.commits = old.commits then s else progress c s)

/-- PACKET_ABORT: the control program aborts its open packet. -/
def execPacketAbort (c : CoreId) (e : EngId) (s : State) : Host.Outcome State Fault Refusal :=
  .next (if ctlRuns s c then modQ c e rewindOpen s else s)

/-! ### The read side (R224, R225) -/

/-- Committed packets that no engine has taken. -/
def readySlots (q : EngQueue) : List QSlot := q.slots.filter (fun x => x.order.isSome && !x.taken)

/-- A packet's priority. -/
def slotPrio (x : QSlot) : Nat := fld (x.words.headD 0) 5 2

/-- The packet next in read order: the highest level, and within it the oldest commit. -/
def nextPacket (q : EngQueue) : Option QSlot :=
  let l := readySlots q
  let top := (l.map slotPrio).foldl max 0
  let at_ := l.filter (fun x => decide (slotPrio x = top))
  let first := (at_.map (fun x => x.order.getD 0)).foldl min (at_.headD {
      words := [], len := 0, order := some 0, taken := false, job := 0 } |>.order.getD 0)
  at_.find? (fun x => decide (x.order = some first))

/-- The physical number of a packet's slot. -/
def slotNumber (q : EngQueue) (x : QSlot) : Nat := (q.fptrA.toNat + q.slots.findIdx (fun y => decide (y = x))) % 64

/-- Slots are freed in ring order once taken (R222). -/
def freeTaken (q : EngQueue) : EngQueue :=
  let n := (q.slots.takeWhile (fun x => x.taken)).length
  { q with slots := q.slots.drop n, fptrA := q.fptrA + BitVec.ofNat 6 n, fptrB := q.fptrB + BitVec.ofNat 6 n }

/-! ### The packet's words -/

/-- The runs of a packet from word 3 on: header and values; the last may be cut short. -/
def packetRuns : Nat → List Word → List (Word × List Word)
  | 0, _ => []
  | _, [] => []
  | n + 1, h :: ws => (h, ws.take (fld h 6 7)) :: packetRuns n (ws.drop (fld h 6 7))

/-- The runs end exactly at the last word. -/
def runsExact (runs : List (Word × List Word)) : Bool := runs.all (fun r => decide (r.2.length = fld r.1 6 7))

/-- The set after a packet's writes, in word order. -/
def applyRuns (e : EngId) (runs : List (Word × List Word)) (v : Vector Word 64) : Vector Word 64 :=
  runs.foldl (fun v r => (r.2.zipIdx.foldl (fun v x => writeSetReg e (fld r.1 0 6 + x.2) x.1 v) v)) v

/-- Whether an engine is absent: FX where its region does not exist in the grade (Table 10.4 check 7, R360). -/
def engineAbsent (s : State) (c : CoreId) (e : EngId) : Bool :=
  decide (e.val = 4) && !(regionPresent s.grade (fin 8 c.val))

/-- A halt of HALT_BAD_PACKET for a queue packet (Table 10.7). -/
def badPacket (e : EngId) (sub slot : Nat) : HaltCond :=
  haltCond 0x02 e.val 0 (put 0 1 ||| put 4 sub ||| put 8 e.val ||| put 16 slot)

/-- The checks of Table 10.4, in order. -/
def packetChecks (s : State) (c : CoreId) (e : EngId) (q : EngQueue) (x : QSlot) (ecc : Bool) : Option HaltCond :=
  let w0 := x.words.headD 0
  let w1 := x.words[1]?.getD 0
  let w2 := x.words[2]?.getD 0
  let runs := packetRuns 32 (x.words.drop 3)
  let slot := slotNumber q x
  let a := (s.cores[c]).allocs[fin 8 (fld w0 13 3)]
  let bad (sub : Nat) : Option HaltCond := some (badPacket e sub slot)
  let toks := (if bitAt w1 6 then [fld w1 0 6] else []) ++ (if bitAt w2 6 then [fld w2 0 6] else [])
    ++ (if bitAt w2 22 then [fld w2 16 6] else [])
  if ecc then bad 6
  else if fld w0 0 3 ≠ e.val then bad 1
  else if x.len < 3 then bad 2
  else if runs.any (fun r => decide (fld r.1 6 7 = 0) || decide (64 < fld r.1 0 6 + fld r.1 6 7)) then bad 3
  else if fld w0 30 2 ≠ 0 ∨ fld w1 7 9 ≠ 0 ∨ bitAt w2 7 ∨ bitAt w2 23 ∨ runs.any (fun r => decide (fld r.1 13 19 ≠ 0)) then bad 4
  else if ¬ runsExact runs then bad 5
  else if engineAbsent s c e then some (haltCond 0x03 e.val 0 (put 0 e.val ||| put 8 slot))
  else if (physSet a (fld w0 3 2)).isNone then
    some (haltCond 0x04 e.val 0 (put 0 e.val ||| put 3 (fld w0 3 2) ||| put 5 a.setCount.toNat ||| put 8 slot))
  else match toks.find? (fun t => decide (a.tokCount.toNat ≤ t)) with
    | some t => some (tokenHalt e.val 0 t a.tokCount.toNat)
    | none => none

/-- The command of a packet that passes its checks. -/
def packetCmd (s : State) (c : CoreId) (e : EngId) (x : QSlot) (set : SetId) : EngCmd :=
  let w0 := x.words.headD 0
  let w1 := x.words[1]?.getD 0
  let w2 := x.words[2]?.getD 0
  let part : PartId := fin 8 (fld w0 13 3)
  let a := (s.cores[c]).allocs[part]
  let post (en : Nat) (lo inc : Nat) : Option (TokId × Nat) :=
    if bitAt w2 en then (physTok a (fld w2 lo 6)).map (fun t => (t, fld w2 inc 8)) else none
  { set := set, part := part, tag := BitVec.ofNat 14 (fld w0 16 14), job := x.job, start := bitAt w0 7,
    wait := if bitAt w1 6 then (physTok a (fld w1 0 6)).map (fun t => (t, BitVec.ofNat 16 (fld w1 16 16))) else none,
    waitLog := BitVec.ofNat 6 (fld w1 0 6), post0 := post 6 0 8, post1 := post 22 16 24,
    chan := if e.val = 3 then dxChanOf (applyRuns e (packetRuns 32 (x.words.drop 3)) ((setsOf (s.cores[c]) e)[set])) else 0,
    since := s.time }

/-- Whether a started command of the engine uses a set, or a resume record names it. -/
def setInUse (k : Core) (e : EngId) (n : SetId) : Bool :=
  match e.val with
  | 0 => k.mx.started.any (fun m => decide (m.cmd.set = n)) || (k.mx.resume.valid && decide (k.mx.resume.set = n))
  | 1 => k.vx.run.any (fun r => decide (r.cmd.set = n)) || (k.vx.resume.valid && decide (k.vx.resume.set = n))
  | 2 => k.wx.run.any (fun r => decide (r.cmd.set = n)) || (k.wx.resume.valid && decide (k.wx.resume.set = n))
  | 3 => k.dx.chans.toList.any (fun x =>
      x.run.any (fun r => decide (r.cmd.set = n)) || (x.resume.valid && decide (x.resume.set = n)))
  | _ => k.fx.run.any (fun r => decide (r.cmd.set = n)) || (k.fx.resumeValid && decide (k.fx.resumeSet = n))

/-- Whether a snuffed command waits to be resumed first (R246). -/
def engineParked (k : Core) (e : EngId) : Bool :=
  match e.val with
  | 0 => false
  | 1 => k.vx.parked.isSome
  | 2 => k.wx.parked.isSome
  | 3 => k.dx.chans.toList.any (fun x => x.parked.isSome)
  | _ => k.fx.parked.isSome

/-- Whether the engine, or the DX channel, holds a taken command. -/
def holdsTaken (k : Core) (e : EngId) (ch : ChanId) : Bool := (takenOf k e ch).isSome

/-- The engine holds a packet as its taken command. -/
def setTaken (e : EngId) (cmd : EngCmd) (k : Core) : Core :=
  match e.val with
  | 0 => { k with mx := { k.mx with taken := some cmd } }
  | 1 => { k with vx := { k.vx with taken := some cmd } }
  | 2 => { k with wx := { k.wx with taken := some cmd } }
  | 3 => { k with dx := { k.dx with chans := updAt k.dx.chans cmd.chan (fun x => { x with waiting := some cmd }) } }
  | _ => { k with fx := { k.fx with taken := some cmd } }

/-- PACKET_TAKE: the next packet in read order is checked and taken; one that fails a check stays and halts the core. -/
def packetTake (c : CoreId) (e : EngId) (ecc : Bool) (s : State) : State :=
  let k := s.cores[c]
  let q := k.queues[e]
  match nextPacket q with
  | none => s
  | some x =>
    let a := k.allocs[fin 8 (fld (x.words.headD 0) 13 3)]
    let set := physSet a (fld (x.words.headD 0) 3 2)
    let cmd := packetCmd s c e x (set.getD 0)
    if ¬ coreLive s c ∨ engineParked k e ∨ holdsTaken k e cmd.chan ∨ set.any (setInUse k e) then s
    else
      match packetChecks s c e q x ecc with
      | some h => raiseHalt c h s
      | none =>
        let take (y : QSlot) : QSlot := if y = x then { y with taken := true } else y
        let s := modQ c e (fun q => freeTaken { q with slots := q.slots.map take }) s
        haloLostWaits c (progress c (modCore c (fun k => setTaken e cmd
          (modSet e cmd.set (applyRuns e (packetRuns 32 (x.words.drop 3))) k)) s))

/-- PACKET_TAKE. -/
def execPacketTake (c : CoreId) (e : EngId) (ecc : Bool) (s : State) : Host.Outcome State Fault Refusal :=
  .next (packetTake c e ecc s)

/-! ### The pointer mismatch (R228) -/

/-- The engine's taken commands are discarded. -/
def dropTaken (e : EngId) (k : Core) : Core :=
  match e.val with
  | 0 => { k with mx := { k.mx with taken := none } }
  | 1 => { k with vx := { k.vx with taken := none } }
  | 2 => { k with wx := { k.wx with taken := none } }
  | 3 => { k with dx := { k.dx with chans := k.dx.chans.map (fun x => { x with waiting := none }) } }
  | _ => { k with fx := { k.fx with taken := none } }

/-- A queue emptied, its pointers zero. -/
def emptyQueue (q : EngQueue) : EngQueue :=
  { q with slots := [], wptrA := 0, wptrB := 0, fptrA := 0, fptrB := 0, ignoring := false }

/-- QUEUE_POINTER_MISMATCH: the copies of a pointer of queue e stand at a and b. -/
def execQueuePointerMismatch (c : CoreId) (e : EngId) (freePtr : Bool) (a b : BitVec 6) (s : State) :
    Host.Outcome State Fault Refusal :=
  let n := (((s.cores[c]).queues)[e]).slots.countP (fun x => !x.taken)
  .next (
    if ¬ inService s c ∨ a = b ∨ inReset s.cores[c] then s
    else
      raiseHalt c (haltCond 0x13 6 0 (put 0 e.val ||| put 3 (b2n freePtr) ||| put 4 a.toNat ||| put 10 b.toNat ||| put 16 n))
        (modCore c (dropTaken e) (modQ c e emptyQueue s)))

end Sys2Proof.Machine
end

