-- ==== Sys2Proof/Machine/Control.lean ====
section
/-! DEFINITION. Machine/Control.lean: the control core from outside: its direct writes, reads, branches and waits (R216, R217, R220,
R221, R233), the end of its program (R219, R249), lockstep (R215) and the instruction banks (R242, R243, R258). -/
namespace Sys2Proof.Machine
open Sys2Proof

/-- Change the control core of a core. -/
def modCtl (c : CoreId) (f : Ctl → Ctl) (s : State) : State := modCore c (fun k => { k with ctl := f k.ctl }) s

/-- The physical counter of a control program's access, or the halt of R233. -/
def ctlTok (s : State) (c : CoreId) (t : BitVec 6) : Except HaltCond TokId :=
  let a := (s.cores[c]).allocs[(s.cores[c]).ctl.part]
  match physTok a t.toNat with
  | some p => .ok p
  | none => .error (tokenHalt 5 0 t.toNat a.tokCount.toNat)

/-- CTL_TOKEN_WRITE (R217, R235). -/
def execCtlTokenWrite (c : CoreId) (t : BitVec 6) (v : Half) (s : State) : Host.Outcome State Fault Refusal :=
  .next (
    if ¬ ctlRuns s c then s
    else match ctlTok s c t with
      | .error h => raiseHalt c h s
      | .ok p => if tok s c p = v then s else setTok c p v s)

/-- What a control program sees of a source: its value, or the halt of an access out of range. -/
def ctlValue (s : State) (c : CoreId) (src : CtlSrc) : Except HaltCond Word :=
  match src with
  | .tok t => match ctlTok s c t with | .ok p => .ok ((tok s c p).setWidth 32) | .error h => .error h
  | .sc r => .ok (((s.cores[c]).sc)[r.toNat]?.getD 0)

/-- CTL_READ: the value read appears as the data of the last read (R221, log 8). -/
def execCtlRead (c : CoreId) (src : CtlSrc) (s : State) : Host.Outcome State Fault Refusal :=
  .next (
    if ¬ ctlRuns s c then s
    else match ctlValue s c src with
      | .error h => raiseHalt c h s
      | .ok v => { s with busData := v.setWidth 64 })

/-- CTL_BRANCH: a branch reads its source; which way it goes lies in the private program (R221, log 9). -/
def execCtlBranch (c : CoreId) (src : CtlSrc) (s : State) : Host.Outcome State Fault Refusal :=
  .next (
    if ¬ ctlRuns s c then s
    else match ctlValue s c src with
      | .error h => raiseHalt c h s
      | .ok v => { s with busData := v.setWidth 64 })

/-- CTL_WAIT (R220). -/
def execCtlWait (c : CoreId) (req : WaitReq) (s : State) : Host.Outcome State Fault Refusal :=
  .next (
    if ¬ ctlRuns s c then s
    else match req with
      | .tok t v =>
        match ctlTok s c t with
        | .error h => raiseHalt c h s
        | .ok p => haloLostWaits c (modCtl c (fun x => { x with wait := .tok p v, waitFrom := s.time }) s)
      | .space e k => modCtl c (fun x => { x with wait := .space e k, waitFrom := s.time }) s)

/-- Whether what the control core waits for holds. -/
def ctlWaitHolds (k : Core) : Bool :=
  match k.ctl.wait with
  | .tok t v => decide (v.toNat ≤ (k.toks[t]).toNat)
  | .space e n => decide (n ≤ 64 - (k.queues[e]).slots.length)
  | _ => false

/-- CTL_WAIT_SATISFIED. -/
def execCtlWaitSatisfied (c : CoreId) (s : State) : Host.Outcome State Fault Refusal :=
  .next (
    if coreLive s c ∧ (s.cores[c]).ctl.running ∧ ctlWaitHolds s.cores[c] then modCtl c (fun x => { x with wait := .none }) s
    else s)

/-- CTL_PROGRAM_END: the program reaches its end, or a fetch finds an encoding that is not defined. -/
def execCtlProgramEnd (c : CoreId) (how : ProgramEnd) (s : State) : Host.Outcome State Fault Refusal :=
  .next (
    if ¬ ctlRuns s c then s
    else match how with
      | .ended => modCtl c (fun x => { x with running := false, ended := true }) s
      | .illegal addr w => raiseHalt c (haltCond 0x01 5 0 w) (modCtl c (fun x => { x with addr := addr }) s))

/-- CTL_LOCKSTEP_MISMATCH. -/
def execCtlLockstepMismatch (c : CoreId) (comparator : BitVec 16) (s : State) : Host.Outcome State Fault Refusal :=
  .next (
    if inService s c ∧ (s.cores[c]).powered ∧ ¬ (s.cores[c]).retained then
      raiseHalt c (haltCond 0x0C 5 0 (put 0 (comparator.toNat % 16))) s
    else s)

/-! ### Instruction banks -/

/-- The instruction memory of a bank. -/
def bankMem (k : Core) (bank : Bool) : Memory := if bank then k.mem.bank1 else k.mem.bank0

/-- Change the instruction memory of a bank. -/
def modBank (c : CoreId) (bank : Bool) (f : Memory → Memory) (s : State) : State :=
  modCore c (fun k => { k with mem :=
    if bank then { k.mem with bank1 := f k.mem.bank1 } else { k.mem with bank0 := f k.mem.bank0 } }) s

/-- Tag a bank with the segment it holds, or with none (R258). -/
def tagBank (c : CoreId) (bank : Bool) (seg : Option (Nat × Nat)) (s : State) : State :=
  modCore c (fun k => { k with bankSeg := updAt k.bankSeg (fin 2 (b2n bank)) (fun _ => seg) }) s

/-- The segment that a bank holds. -/
def bankTag (k : Core) (bank : Bool) : Option (Nat × Nat) := k.bankSeg[(fin 2 (b2n bank) : Fin 2)]

/-- A control core reaches a switch point: open packets are rewound and it waits for ready (R243). An inactive bank that holds another
segment than the next one is not ready for it: the Lamplighter writes that one (R258). -/
def switchPoint (c : CoreId) (next : Nat × Nat) (target : BitVec 17) (s : State) : State :=
  modCore c (fun k => { k with
    queues := k.queues.map rewindOpen
    ctl := { k.ctl with
      wait := .bank, waitFrom := s.time, target := target, seen := false
      ready := k.ctl.ready && decide (bankTag k (!k.ctl.active) = some next) } }) s

/-- BANK_SWITCH: ready seen as 1 changes the active bank, and fetch goes on at the target (R243). -/
def execBankSwitch (c : CoreId) (s : State) : Host.Outcome State Fault Refusal :=
  let k := s.cores[c]
  .next (
    if coreLive s c ∧ k.ctl.wait = .bank ∧ k.ctl.ready then
      modCtl c (fun x => { x with
        active := !x.active
        seg := bankTag k (!x.active)
        ready := false
        seen := true
        wait := .none
        running := true
        addr := BitVec.ofNat 18 (x.target.toNat + b2n (!x.active) * 2 ^ 17) }) s
    else s)

/-- IMEM_WRITE: the loader's write; one aimed at the active bank is ignored and counted (R242). -/
def execImemWrite (c : CoreId) (bank : Bool) (off : Nat) (data : List Byte) (s : State) : Host.Outcome State Fault Refusal :=
  .next (
    if ¬ inService s c ∨ 0x20000 < off + data.length then s
    else if (s.cores[c]).ctl.active = bank then modCtl c (fun x => { x with actWr := satAdd16 x.actWr 1 }) s
    else tagBank c bank none <| freshWords (.bank c bank) [(off, data.length)]
      (modCtl c (fun x => { x with ready := false, seen := false }) (modBank c bank (fun m => memStore m off data) s)))

end Sys2Proof.Machine
end

