-- ==== Sys2Proof/Machine/Logic.lean ====
section
/-! DEFINITION. Machine/Logic.lean: the user logic of the fabric: cells and pipeline registers (R361, R362), the boundaries between regions (R363),
block RAM (R364), the extension port's signals (R380), the condition of each KIO pin (R374), and the configuration scan (R373). The layout of
configuration memory is private (R4): Config gives what it spells (log 89). -/
namespace Sys2Proof.Machine
open Sys2Proof

/-! ### The extension port (R380) -/

/-- The signals that the extension port gives to its region (Table 16.10). -/
structure ExtensionPort where
  cmdValid : Bool
  cmdWord  : BitVec 256
  inValid  : Bool
  inData   : BitVec 256
  inLast   : Bool
  outReady : Bool
  abort    : Bool
  deriving DecidableEq, Repr

/-- The port while no command is in progress. -/
def idlePort (abort : Bool) : ExtensionPort :=
  { cmdValid := false, cmdWord := 0, inValid := false, inData := 0, inLast := false, outReady := false, abort := abort }

/-- The period of a region's clock line. -/
def linePeriod (f : Fabric) (z : RegionId) (line : Nat) : Nat :=
  nsec 1000 / max 1 (fld ((f.uclk[fld (f.regions[z]).clk (8 * line) 8]?).getD 0xC8) 0 10)

/-- A fabric cycle of a region's extension port: one of fx_line. -/
def fxPeriod (f : Fabric) (z : RegionId) : Nat := linePeriod f z (f.regions[z]).fxLine.toNat

/-- FX_CFG0 to FX_CFG7 as cmd_word, word 0 in the lowest bits. -/
def cmdWord (cfg : Vector Word 64) : BitVec 256 :=
  BitVec.ofNat 256 (leNat ((List.range 8).flatMap (fun i => leBytes 4 (reg cfg (0x20 + 4 * i)).toNat)))

/-- Whether a pulse of one cycle raised at a time is 1 at an edge. -/
def pulseAt (raised period t : Nat) : Bool := decide (raised < t) && decide (t ≤ raised + period)

/-- The signals of a core's port at a time. A snuff stops the input, and a core reset holds abort (R383). -/
def portSignals (s : State) (c : CoreId) (t : Nat) : ExtensionPort :=
  let x := (s.cores[c]).fx
  let abort := x.abort || decide (t ≤ x.abortTill)
  match x.run.filter (fun r => r.sent && !r.done) with
  | none => idlePort abort
  | some r => {
      cmdValid := pulseAt r.sentAt (fxPeriod s.fabric (fin 8 c.val)) t, cmdWord := cmdWord r.cfg
      inValid := !r.inq.isEmpty && !abort, inData := r.inq.headD 0
      inLast := !r.inq.isEmpty && decide (r.taken + 1 = fld (reg r.cfg 0x0C) 0 19)
      outReady := decide (r.outq.length < 64), abort := abort }

/-- The signals of a region's extension port; Z6 and Z7 have none (R360). -/
def extensionPort (s : State) (z : RegionId) (t : Nat) : ExtensionPort :=
  if h : z.val < 6 then portSignals s ⟨z.val, h⟩ t else idlePort false

/-- One of these signals. -/
def portIn (x : ExtensionPort) : PortIn → Bool
  | .cmdValid => x.cmdValid
  | .cmdWord i => x.cmdWord.getLsbD i.val
  | .inValid => x.inValid
  | .inData i => x.inData.getLsbD i.val
  | .inLast => x.inLast
  | .outReady => x.outReady
  | .abort => x.abort

/-! ### Wires -/

/-- What the wires of a region are read from: its index and configuration, its registers, its inputs, and the time, at which pins have a level. -/
structure FabricView where
  zone   : RegionId
  config : Memory
  logic  : Logic
  time   : Nat
  edges  : Vector (BitVec 64) 2  -- the boundary signals as they read (R363)
  pins   : BitVec 64             -- the pins whose input buffers are enabled for the region (R374)
  timers : Vector Bool 4         -- the pulses of periodic timers (R378)
  port   : ExtensionPort

/-- The output of a LUT: the bit of its truth table that its inputs number, a the lowest (R361). -/
def lutOut (truth : BitVec 16) (a b c d : Bool) : Bool := truth.getLsbD (b2n a + b2n b * 2 + b2n c * 4 + b2n d * 8)

/-- A wire that no LUT drives. -/
def heldNet (v : FabricView) : FabricNet → Bool
  | .low => false
  | .lut i => Config.fabricLoop v.config (.lut i)
  | .ff i => decide (i ∈ v.logic.ffs)
  | .pipe i => decide (i ∈ v.logic.pipes)
  | .edge side bit => (v.edges[side]).getLsbD bit.val
  | .ram port bit => (v.logic.rams[port]).2.data.getLsbD bit.val
  | .ramErr port => (v.logic.rams[port]).2.err
  | .pin n => if v.pins.getLsbD n.val then Config.pinLevel v.time n else Config.pinDisabled v.time n
  | .ext x => portIn v.port x
  | .timer k => v.timers[k]

/-- The level of a wire through at most n LUTs; a region has 65,536, so a longer way is a loop, whose level the spec does not give. -/
def netValue (v : FabricView) : Nat → FabricNet → Bool
  | n + 1, .lut i =>
    let x := Config.fabricCell v.config i
    lutOut x.truth (netValue v n x.a) (netValue v n x.b) (netValue v n x.c) (netValue v n x.d)
  | _, w => heldNet v w

/-- The level of a wire. -/
def netLevel (v : FabricView) (w : FabricNet) : Bool := netValue v 65536 w

/-- Wires as a number, the first its lowest bit. -/
def netNat (v : FabricView) : List FabricNet → Nat
  | [] => 0
  | w :: ws => b2n (netLevel v w) + 2 * netNat v ws

/-! ### Boundaries (R363) -/

/-- The next present region in ring order, and the previous one. -/
def ringRegion (g : Grade) (z : RegionId) (next : Bool) : RegionId :=
  ((List.range 8).map (fun i => (fin 8 (z.val + (if next then i + 1 else 7 - i)) : RegionId))).find? (fun y => regionPresent g y) |>.getD z

/-- A receiving register reads 0 where the sender is not configured or lies in another world. -/
def edgeReads (s : State) (z : RegionId) (side : Fin 2) : BitVec 64 :=
  let r := s.fabric.regions[z]
  let y := s.fabric.regions[ringRegion s.grade z (decide (side = 1))]
  if y.state ≠ 2 ∨ y.secure ≠ r.secure then 0 else (r.logic.edges[side]).reg

/-- Whether a pin is in the last but one condition of Table 16.8 for a region: claimed for it, configured, in its pin_mask. -/
def pinServes (s : State) (z : RegionId) (n : Fin 64) : Bool :=
  let p := s.fabric.pins[n]
  decide (p.use = 1) && decide (p.region = z) && decide ((s.fabric.regions[z]).state = 2) && (s.fabric.regions[z]).pinMask.getLsbD n.val

/-- The pulse of a timer as a region's line sees it: one cycle of the line after the expiry (R378, log 89). -/
def timerPulse (s : State) (z : RegionId) (line : Fin 4) (t : Nat) (k : Fin 4) : Bool :=
  let x := s.fabric.timers[k]
  decide (x.use = 2) && decide (x.region = z) && x.pulsed.any (fun p => pulseAt p (linePeriod s.fabric z line.val) t)

/-- What a region's wires are read from at a time, at an edge of a line. -/
def viewOf (s : State) (z : RegionId) (line : Fin 4) (t : Nat) : FabricView :=
  { zone := z, config := (s.fabric.regions[z]).config, logic := (s.fabric.regions[z]).logic, time := t
    edges := Vector.ofFn (fun i => edgeReads s z i)
    pins := BitVec.ofNat 64 (bitNum 64 (fun n => pinServes s z (fin 64 n))), timers := Vector.ofFn (timerPulse s z line t)
    port := extensionPort s z t }

/-- The clock line of a region's extension port. -/
def fxLineOf (s : State) (z : RegionId) : Fin 4 := (s.fabric.regions[z]).fxLine.toFin

/-- The signals that a region sends over a boundary: 0 unless it is configured (Table 16.4). -/
def edgeOut (s : State) (z : RegionId) (side : Fin 2) (t : Nat) : BitVec 64 :=
  if (s.fabric.regions[z]).state ≠ 2 then 0
  else BitVec.ofNat 64 (netNat (viewOf s z (fxLineOf s z) t)
    ((List.finRange 64).map (fun i => Config.fabricEdgeOut (s.fabric.regions[z]).config side i)))

/-- A receiving register takes the signals, an asynchronous boundary's after two more stages. -/
def captureEdge (async : Bool) (sent : BitVec 64) (e : EdgeIn) : EdgeIn :=
  if async then { first := sent, second := e.first, reg := e.second } else { e with reg := sent }

/-! ### Block RAM (R364) -/

/-- The place in the region's block RAM of the word that a port's address names, and its bytes. -/
def ramWord (v : FabricView) (port : Fin 96) : Nat × Nat :=
  let p := Config.fabricRam v.config port
  (port.val / 2 * 16384 + netNat v p.addr * 2 ^ p.wlog.val % 16384, 2 ^ p.wlog.val)

/-- A port works at an edge of its line while its enable is 1. -/
def ramWorks (v : FabricView) (line : Fin 4) (port : Fin 96) : Bool :=
  let p := Config.fabricRam v.config port
  decide (p.line = line) && netLevel v p.enable

/-- The read side of a port: data comes two cycles after its address, from before the cycle's writes; an uncorrectable word raises the error
output with it. bad: whether the word is one. -/
def ramRead (v : FabricView) (bram : Memory) (bad : Bool) (port : Fin 96) (x : RamRead × RamRead) : RamRead × RamRead :=
  let w := ramWord v port
  (if netLevel v (Config.fabricRam v.config port).enable then { data := BitVec.ofNat 128 (memNat bram w.1 w.2), err := bad } else x.1, x.1)

/-- The write of a port at an edge of its line. -/
def ramWrite (v : FabricView) (port : Fin 96) (s : State) : State :=
  let w := ramWord v port
  let p := Config.fabricRam v.config port
  if netLevel v p.enable ∧ netLevel v p.write then
    freshWords (.bram v.zone) [w] (modRegion v.zone (fun r => { r with bram := memStore r.bram w.1 (leBytes w.2 (netNat v p.data)) }) s)
  else s

/-- Whether a port works at an edge of its line and its word is uncorrectable (R320). -/
def ramMeets (s : State) (v : FabricView) (port : Fin 96) : Bool :=
  netLevel v (Config.fabricRam v.config port).enable && meetsPoison s (.bram v.zone) (ramWord v port).1 (ramWord v port).2

/-- The number of the word in its block RAM, by the port's width. -/
def ramOffset (v : FabricView) (port : Fin 96) : Nat := (ramWord v port).1 % 16384 / (ramWord v port).2

/-- An uncorrectable read of a port is counted and recorded (R364, R388). -/
def ramUncorr (z : RegionId) (port : Fin 96) (off : Nat) (s : State) : State :=
  postRecord { code := 0x33, unit := 6, index := z.val, detail := port.val / 2, addr := off }
    (modRegion z (fun r => { r with bramErr := satAdd r.bramErr 1 }) s)

/-! ### Clock edges -/

/-- Edges of a line in the times after lo and up to hi. -/
def edgesIn (period lo hi : Nat) : List Nat := (List.range (hi / period - lo / period)).map (fun i => (lo / period + 1 + i) * period)

/-- Whether a region's line has a clock: it names a user clock that is enabled. -/
def lineRuns (s : State) (z : RegionId) (line : Fin 4) : Bool :=
  match s.fabric.uclk[fld (s.fabric.regions[z]).clk (8 * line.val) 8]? with | some w => bitAt w 10 | none => false

/-- The lines of a region that have an edge at a time. -/
def linesAt (s : State) (z : RegionId) (t : Nat) : List (Fin 4) :=
  (List.finRange 4).filter (fun i => lineRuns s z i && decide ((s.fabric.regions[z]).logic.ranTo < t) && decide (t % linePeriod s.fabric z i.val = 0))

/-- The registers of a region after the edges of some of its lines: each register of those lines takes its source, a flip-flop where its clock
enable is 1. -/
def logicEdge (s : State) (z : RegionId) (lines : List (Fin 4)) (t : Nat) (sent : Vector (BitVec 64) 2) : Logic :=
  let r := s.fabric.regions[z]
  let v (line : Fin 4) : FabricView := viewOf s z line t
  { r.logic with
    ffs := (List.finRange 65536).filter (fun i =>
      let x := Config.fabricCell r.config i
      if x.line ∈ lines ∧ netLevel (v x.line) x.enable then netLevel (v x.line) (.lut i) else decide (i ∈ r.logic.ffs))
    pipes := (List.range (Config.fabricPipes r.config).length).filter (fun i =>
      match (Config.fabricPipes r.config)[i]? with
      | some p => if p.line ∈ lines then netLevel (v p.line) p.src else decide (i ∈ r.logic.pipes)
      | none => false)
    edges := r.logic.edges.mapFinIdx (fun i e hi =>
      if Config.fabricEdgeLine r.config ⟨i, hi⟩ ∈ lines then captureEdge (r.async[i]) (sent[i]) e else e)
    rams := r.logic.rams.mapFinIdx (fun i x hi =>
      let line := (Config.fabricRam r.config ⟨i, hi⟩).line
      if line ∈ lines then ramRead (v line) r.bram (ramMeets s (v line) ⟨i, hi⟩) ⟨i, hi⟩ x else x) }

/-- The block-RAM ports whose lines have an edge, those of port B first: of two writes of one word port A's stands (R364). -/
def ramPorts (config : Memory) (lines : List (Fin 4)) : List (Fin 96) :=
  let at_ (side : Nat) : List (Fin 96) :=
    (List.finRange 96).filter (fun p => decide (p.val % 2 = side) && decide ((Config.fabricRam config p).line ∈ lines))
  at_ 1 ++ at_ 0

/-- The edges at a time of some lines of a region: everything is read in the state before them, s0. -/
def regionEdge (s0 : State) (t : Nat) (z : RegionId) (s : State) : State :=
  let lines := linesAt s0 z t
  let config := (s0.fabric.regions[z]).config
  let sent : Vector (BitVec 64) 2 := #v[edgeOut s0 (ringRegion s0.grade z false) 1 t, edgeOut s0 (ringRegion s0.grade z true) 0 t]
  let after := logicEdge s0 z lines t sent
  let ports := ramPorts config lines
  let v (p : Fin 96) : FabricView := viewOf s0 z (Config.fabricRam config p).line t
  let s := forAll (ports.filter (fun p => ramMeets s0 (v p) p)) (fun p => ramUncorr z p (ramOffset (v p) p)) s
  modRegion z (fun r => { r with logic := after }) (forAll ports (fun p => ramWrite (v p) p) s)

/-- The configured regions. -/
def liveRegions (s : State) : List RegionId := (List.finRange 8).filter (fun z : RegionId => decide ((s.fabric.regions[z]).state = 2))

/-- The times up to t at which configured regions have edges, in order. -/
def edgeTimes (s : State) (t : Nat) : List Nat :=
  sortBy id ((liveRegions s).flatMap (fun z => ((List.finRange 4).filter (lineRuns s z)).flatMap (fun i =>
    edgesIn (linePeriod s.fabric z i.val) (s.fabric.regions[z]).logic.ranTo t))).eraseDups

/-- The registers that a configuration's global load leaves (R370): every flip-flop and pipeline register at its initial value. -/
def initialLogic (t : Nat) (config : Memory) : Logic :=
  { Logic.cold with
    ffs := (List.finRange 65536).filter (fun i => (Config.fabricCell config i).init)
    pipes := (List.range (Config.fabricPipes config).length).filter (fun i => ((Config.fabricPipes config)[i]?).any (fun p => p.init))
    ranTo := t }

/-- A region takes its initial values (R370, R378): no command is ready at its port until cmd_ready rises. -/
def regionInitial (t : Nat) (r : Region) : Region := { r with cmdReady := false, logic := initialLogic t r.config }

/-- The user logic of a region takes its initial values (R378). -/
def initialValues (z : RegionId) (s : State) : State := modRegion z (regionInitial s.time) s

/-! ### Pins (R374) -/

/-- The driver of a pin: off, or at a level. -/
inductive PinDriver where
  | off
  | level (high : Bool)
  deriving DecidableEq, Repr

/-- The electrical options of a pin (R375), as FB_KIOn codes them: drive 0 to 3 for 4, 8, 12 and 16 mA, pull 0 none, 1 up, 2 down. -/
structure PinOptions where
  drive   : BitVec 2
  pull    : BitVec 2
  slow    : Bool
  schmitt : Bool
  deriving DecidableEq, Repr

/-- The options that FB_KIOn sets. -/
def kioOptions (w : BitVec 6) : PinOptions :=
  { drive := w.extractLsb' 0 2, pull := w.extractLsb' 2 2, slow := bitAt w 4, schmitt := bitAt w 5 }

/-- The condition of a pin (Table 16.8): its driver, whether its input buffer is enabled and has the filter of R30, and the options in effect. -/
structure PinCondition where
  driver  : PinDriver
  input   : Bool
  filter  : Bool
  options : PinOptions
  deriving DecidableEq, Repr

/-- High impedance: driver off, input buffer disabled, no pull; no option has an effect. -/
def highZ : PinCondition := { driver := .off, input := false, filter := false, options := kioOptions 0 }

/-- The driver that an image gives a pin. -/
def imageDrives (s : State) (z : RegionId) (n : Fin 64) : PinDriver :=
  let v := viewOf s z (fxLineOf s z) s.time
  if netLevel v (Config.fabricPinDrive v.config n) then .level (netLevel v (Config.fabricPinValue v.config n)) else .off

/-- The condition of each KIO pin (Table 16.8). -/
def pinCondition (s : State) (n : Fin 64) : PinCondition :=
  let p := s.fabric.pins[n]
  let options := kioOptions s.fabric.kio[n]
  if s.boot.state = 0 ∨ s.grade = .s92 then highZ
  else if p.use = 2 ∧ n = 0 then { driver := .off, input := true, filter := true, options := options }
  else if pinServes s p.region n then { driver := imageDrives s p.region n, input := true, filter := false, options := options }
  else highZ

/-! ### The configuration scan (R373) -/

/-- The time in which the scan reads one frame: 34 cycles at 400 MHz (R367). -/
def scanFrameTime : Nat := nsec 85
/-- The time in which it reads one region. -/
def scanRegionTime : Nat := 2560 * scanFrameTime

/-- Whether a frame reads with the CRC stored at its load, which is over its record's first word and its payload. -/
def frameHolds (config : Memory) (x : Nat × Word × Word) : Bool :=
  decide (crc32c (leBytes 4 x.2.1.toNat ++ memBytes config (256 * x.1) 256) = x.2.2)

/-- Whether the scan, gone on from one time of its course to another, has read frame i of the region that it takes as number n of so many. -/
def scanned (regions old now n i : Nat) : Bool :=
  let pass := regions * scanRegionTime
  let at_ := n * scanRegionTime + (i + 1) * scanFrameTime
  decide ((old + pass - at_) / pass < (now + pass - at_) / pass)

/-- The frames that the scan reads in a time and that do not hold, each with its region. -/
def scanMisses (dt : Nat) (s : State) : List (RegionId × Nat) :=
  let live := liveRegions s
  if s.fabric.load.isSome then []
  else live.zipIdx.flatMap (fun z => (((s.fabric.regions[z.1]).crcs.filter (fun x =>
    scanned live.length s.fabric.scanFor (s.fabric.scanFor + dt) z.2 x.1 && !(frameHolds (s.fabric.regions[z.1]).config x))).map
      (fun x => (z.1, x.1))))

/-- The scan goes on for a time: one configured region after another, a pass at the end of the last; a running load pauses it. -/
def scanOn (dt : Nat) (s : State) : State :=
  let live := liveRegions s
  if live = [] ∨ s.fabric.load.isSome then s
  else
    let at_ := s.fabric.scanFor + dt
    let pass := live.length * scanRegionTime
    { s with fabric := { s.fabric with
      scanFor := at_ % pass
      scanPasses := s.fabric.scanPasses + BitVec.ofNat 16 (at_ / pass)
      scanRegion := BitVec.ofNat 3 (((live[at_ % pass / scanRegionTime]?).map (fun z => z.val)).getD 0) } }

end Sys2Proof.Machine
end

