-- ==== Sys2Proof/Machine/FxOps.lean ====
section
/-! DEFINITION. Machine/FxOps.lean: the running FX command: its beats (R380, R381), its fault (R384), its completion and its snuff (R381,
R383, R385). -/
namespace Sys2Proof.Machine
open Sys2Proof

/-- Change the FX engine of a core. -/
def modFx (c : CoreId) (f : Fx → Fx) (s : State) : State := modCore c (fun k => { k with fx := f k.fx }) s

/-- The region that carries a core's extension port (R360). -/
def fxRegion (c : CoreId) : RegionId := fin 8 c.val

/-- in_beats. -/
def fxIn (cfg : Vector Word 64) : Nat := fld (reg cfg 0x0C) 0 19
/-- out_beats. -/
def fxOut (cfg : Vector Word 64) : Nat := fld (reg cfg 0x14) 0 19
/-- The first byte of the input. -/
def fxInBase (cfg : Vector Word 64) : Nat := fld (reg cfg 0x08) 0 18 * 32
/-- The first byte of the output. -/
def fxOutBase (cfg : Vector Word 64) : Nat := fld (reg cfg 0x10) 0 18 * 32

/-- A command that starts. -/
def newFxRun (cmd : EngCmd) (cfg : Vector Word 64) (wait : Bool) : FxRun :=
  { cmd := cmd, cfg := cfg, waitLoad := wait, sent := false, sentAt := 0, fetched := 0, inq := [], taken := 0, written := 0, outq := [], done := false
    doneAt := 0 }

/-- Change the running command of a core. -/
def modFxRun (c : CoreId) (f : FxRun → FxRun) (s : State) : State := modFx c (fun x => { x with run := x.run.map f }) s

/-- Core memory accepts the first n beats of the FIFO from the extension, at ascending addresses (R381). -/
def fxWrite (c : CoreId) (n : Nat) (s : State) : State :=
  match (s.cores[c]).fx.run with
  | none => s
  | some r =>
    let beats := r.outq.take n
    let at_ := fxOutBase r.cfg + 32 * r.written
    if beats = [] then s
    else modFxRun c (fun r => { r with written := r.written + beats.length, outq := r.outq.drop n })
      (freshWords (.core c) [(at_, 32 * beats.length)] (modCore c (fun k => { k with mem := { k.mem with
        core := memStore k.mem.core at_ (beats.flatMap (fun b => leBytes 32 b.toNat)) } }) s))

/-- Core memory accepts all of them; a fabric cycle for each passes. -/
def fxFlush (c : CoreId) (s : State) : State :=
  match (s.cores[c]).fx.run with
  | none => s
  | some r => fxWrite c r.outq.length (atTime (s.time + r.outq.length * fxPeriod s.fabric (fxRegion c)) s)

/-- The running command ends with its counts in FX_IN_COUNT and FX_OUT_COUNT. -/
def fxEnd (c : CoreId) (s : State) : State :=
  modFx c (fun f =>
    match f.run with
    | none => f
    | some r => { f with run := none, abort := false, inCount := BitVec.ofNat 32 r.taken, outCount := BitVec.ofNat 32 r.written }) s

/-- An FX fault (R384): the command stops and writes nothing further, without completion; FX_FAULT_INFO takes the cause, and the core stops. -/
def fxFault (c : CoreId) (cause err : Nat) (s : State) : State :=
  match (s.cores[c]).fx.run with
  | none => s
  | some r =>
    let info := cause + err * 8
    coreFault c 0x35 0 4 r.cmd.set.val info (modFx c (fun f => { f with faultInfo := BitVec.ofNat 11 info }) (fxEnd c s))

/-- A command completes (R381): its last beats are written, then the scalar register with their number and its posts. -/
def fxFinish (c : CoreId) (r : FxRun) (s : State) : State :=
  let s := fxEnd c (fxFlush c s)
  let n := BitVec.ofNat 32 (r.written + r.outq.length)
  let s := if bitAt (reg r.cfg 0x00) 0 then modCore c (fun k => { k with sc := updAt k.sc (fin 16 (fld (reg r.cfg 0x00) 1 4)) (fun _ => n) }) s else s
  postTokens c 4 r.cmd (progress c s)

/-- The snuff of FX is complete (R383): its beats are written, the resume record names the set, abort is lowered. -/
def fxSnuffed (c : CoreId) (r : FxRun) (s : State) : State :=
  modFx c (fun f => { f with resumeValid := true, resumeSet := r.cmd.set, parked := some { r.cmd with wait := none } }) (fxEnd c (fxFlush c s))

/-- FX stops at a snuff: a command whose done had come completes (R385), another waits to be resumed. -/
def fxStop (c : CoreId) (s : State) : State :=
  match (s.cores[c]).fx.run with
  | none => s
  | some r => if r.done ∧ ¬ (s.cores[c]).fx.abort then fxFinish c r s else fxSnuffed c r s

/-! ### The beat handshake (R380, R381) -/

/-- The engine's side in a fabric cycle: one beat is read from core memory into the FIFO towards the extension, and one of the other FIFO is
written. A snuff stops the input (R383); an uncorrectable word is a fault (R384). -/
def fxFeed (c : CoreId) (s : State) : State :=
  match (s.cores[c]).fx.run with
  | none => s
  | some r =>
    let at_ := fxInBase r.cfg + 32 * r.fetched
    let s := fxWrite c 1 s
    if ¬ r.sent ∨ r.done ∨ (s.cores[c]).fx.abort ∨ fxIn r.cfg ≤ r.fetched ∨ 64 ≤ r.inq.length then s
    else if meetsPoison s (.core c) at_ 32 then fxFault c 2 0 s
    else modFxRun c (fun r => { r with fetched := r.fetched + 1, inq := r.inq ++ [BitVec.ofNat 256 (memNat (s.cores[c]).mem.core at_ 32)] }) s

/-- The beats that move at an edge of fx_line, by the signals before it: an input beat leaves its FIFO, an output beat enters the other; one
beyond out_beats is a fault (R384). -/
def fxBeats (v : FabricView) (c : CoreId) (s : State) : State :=
  let out (x : PortOut) : Bool := netLevel v (Config.fabricPortOut v.config x)
  match (s.cores[c]).fx.run with
  | none => s
  | some r =>
    if ¬ r.sent ∨ r.done then s
    else
      let s := if v.port.inValid ∧ out .inReady then modFxRun c (fun r => { r with taken := r.taken + 1, inq := r.inq.drop 1 }) s else s
      if ¬ (v.port.outReady ∧ out .outValid) then s
      else if fxOut r.cfg ≤ r.written + r.outq.length then fxFault c 3 0 (fxWrite c r.outq.length s)
      else modFxRun c (fun r => { r with outq := r.outq ++ [BitVec.ofNat 256 (bitNum 256 (fun i => out (.outData (fin 256 i))))] }) s

/-- An edge of fx_line at a core's extension port; s0 is the state before it. -/
def fxEdge (s0 : State) (t : Nat) (c : CoreId) (s : State) : State :=
  fxFeed c (fxBeats (viewOf s0 (fxRegion c) (fxLineOf s0 (fxRegion c)) t) c s)

end Sys2Proof.Machine
end

