-- ==== Sys2Proof/Machine/MxCmds.lean ====
section
/-! DEFINITION. Machine/MxCmds.lean: the matrix engine's commands: command start (R81, R89, R100, R101, R122, R123, R137),
pass formation and start (R64, R66, R80, R124, R136), completion (R73, R124, R227), the snuff (R97 to R99), array faults and
their replay (R102 to R105, R108, R138). -/
namespace Sys2Proof.Machine
open Sys2Proof

/-! ### Command start -/

/-- A stem command with p0 = 0 that meets a seeking cursor begins to look for line 0; a command on another port takes the cursor to
that port (R123, log 82). -/
def stemStart (c : CoreId) (cfg : Vector Word 64) (s : State) : State :=
  if mxAgMode cfg ≠ 3 ∨ (firstLoad (s.cores[c]).mem.core cfg).isNone then s
  else
    let n := mxPort cfg
    let s := modCursor c (fun u => if u.port = n then u else
      { u with port := n, seeking := true, hunt := false, drain := false, received := 0, released := 0 }) s
    if (s.cores[c]).mx.cursor.seeking ∧ fld (reg cfg 0x5C) 0 24 = 0 then
      stemHunt c n (modCursor c (fun u => { u with hunt := true }) s)
    else s

/-- The configuration in which a K-step's channel counts: the set as it stands. -/
def mxSet (k : Core) (n : SetId) : Vector Word 64 := k.mx.sets[n]

/-! ### Passes -/

/-- Change the started command of an ordinal. -/
def modStarted (c : CoreId) (ord : Nat) (f : MxCmd → MxCmd) (s : State) : State :=
  modMx c (fun m => { m with started := m.started.map (fun k => if k.ord = ord then f k else k) }) s

/-- Whether a replay allows a pass to be formed (R104): none under way, or its lamp test has passed cycle 384. -/
def replayAllows (s : State) (c : CoreId) : Bool :=
  let k := s.cores[c]
  match k.mx.replay with
  | none => true
  | some r => decide (r.phase = 2) || (decide (r.phase = 1) &&
      (match k.lamp with | .running since _ _ => lampCycles k since 384 | _ => false))

/-- Whether the engine forms and starts passes: it runs, or drains before a halt of its own (R81, R97). -/
def mxForms (s : State) (c : CoreId) : Bool :=
  let m := (s.cores[c]).mx
  !m.stopped && (match m.stop with
    | .none => coreLive s c
    | .drain => inService s c
    | .snuff _ => false)

/-- Whether pass e of a command may be formed now: a load takes the free load slot from the start of the pass that last swapped, a reuse
pass follows the last row of the pass before it, and a K_t = 0 pass follows the last merge (R64, R66, R80). A command that reloads waits
for a write of its curve table, as a start does (R54). -/
def mayForm (s : State) (c : CoreId) (cmd : MxCmd) (e : MxEff) : Bool :=
  let k := s.cores[c]
  replayAllows s c && (decide (e.kT = 0) || arraysReady s c cmd.cfg) && !(cmd.reload && curveBusy k (mxCurve cmd.cfg))
    && (if mxSwaps cmd e then k.mx.load.isNone
        else (match nextToForm k.mx with | some q => decide (q.ord = cmd.ord ∧ e.idx = q.next) | none => false)
          && (if e.kT = 0 then mxDrained k.mx else runDone k.mx))

/-- A pass starts to enter its rows: its command's next pass is the one after it, and the engine issues its set. -/
def startRun (c : CoreId) (cmd : MxCmd) (e : MxEff) (m0 : Nat) (s : State) : State :=
  modMx c (fun m => { m with
    run := some { ord := cmd.ord, eff := e, next := Vector.replicate 4 m0, stop := mxM cmd.cfg }
    passIdx := BitVec.ofNat 24 e.idx
    curSet := cmd.cmd.set })
    (modStarted c cmd.ord (fun q => { q with next := e.idx + 1, mStart := 0, reload := false }) s)

/-- Form pass e of a started command, its checks made (R81, R127, R137); those of the nest, which the start has passed, are for a
command that starts anew (R101). A failing check halts; a pass that swaps begins its
load with the staged maps (R62, R77; its bytes are read now, log 80), the others begin to enter rows. -/
def formPass (c : CoreId) (cmd : MxCmd) (e : MxEff) (s : State) : State :=
  let k := s.cores[c]
  let x := s.bnd.strm[mxPort cmd.cfg]
  let e' := if mxSwaps cmd e then { e with reuse := false } else e
  match (if e.idx = 0 then mxNestChecks k cmd.cmd cmd.cfg else none).orElse (fun _ => mxPassChecks s.grade x (stemBound s c cmd.cfg) k cmd.cmd cmd.cfg e') with
  | some h => mxOwnHalt c (some cmd.ord) e.idx h s
  | none =>
    if mxSwaps cmd e then
      let stem := decide (mxAgMode cmd.cfg = 3)
      let load : MxLoad := { ord := cmd.ord, eff := e', mStart := if e.idx = cmd.next then cmd.mStart else 0,
                             cols := Vector.replicate 8 0, got := 0, waiting := stem, follows := !(runDone k.mx),
                             need := if stem then [] else loadNeeds k x cmd.cfg e'
                             planes := if stem then [] else loadPlanes k x cmd.cfg e' }
      loadCheck c none (fillLoad c (modMx c (fun m => { m with load := some load }) s))
    else startRun c cmd e' cmd.mStart s

/-- The pass that is formed next: a load where the slot is free, else the next pass where it needs none. -/
def passDue (s : State) (c : CoreId) : Option (MxCmd × MxEff) :=
  let k := s.cores[c]
  ((nextSwap k.mem.core k.mx.started).filter (fun x => mayForm s c x.1 x.2)).orElse (fun _ =>
    ((nextToForm k.mx).map (fun q => (q, mxEff k.mem.core q.cfg q.next))).filter (fun x =>
      !(mxSwaps x.1 x.2) && mayForm s c x.1 x.2))

/-- MX_PASS_FORMATION. -/
def mxPassFormation (c : CoreId) (s : State) : State :=
  if mxForms s c then
    match passDue s c with
    | some x => formPass c x.1 x.2 s
    | none => s
  else s

/-- MX_COMMAND_START (R81, R101, R137): the taken command whose wait is satisfied starts when its start rules allow. A start
on another set than a valid resume record's halts, then the nest checks are made and the first pass is formed. -/
def mxCommandStart (c : CoreId) (s : State) : State :=
  let k := s.cores[c]
  match k.mx.taken with
  | none => s
  | some cmd =>
    let cfg := mxSet k cmd.set
    let freeze := bitAt (reg cfg 0x04) 6 || candleFreeze s cmd.job c
    if ¬ coreLive s c ∨ ¬ cmd.start ∨ ¬ waitDone k cmd ∨ k.mx.stop ≠ .none ∨ k.mx.stopped ∨ ¬ mxFreeToStart s c cfg freeze then s
    else
      let s := stemStart c cfg s
      if mxGated s c cfg then s
      else
        let s := progress c (modMx c (fun m => { m with taken := none }) s)
        if k.mx.resume.valid ∧ k.mx.resume.set ≠ cmd.set then
          mxOwnHalt c none 0 (mxHalt 0x11#8 cmd.set 9 1 0) s
        else
          match mxNestChecks k cmd cfg with
          | some h => mxOwnHalt c none 0 h s
          | none =>
            let q : MxCmd := { ord := k.mx.nextOrd, cmd := cmd, cfg := cfg, next := 0, limit := mxPasses cfg, mStart := 0,
                               reload := false, freeze := freeze }
            formPass c q (mxEff k.mem.core cfg 0)
              (modMx c (fun m => { m with started := m.started ++ [q], nextOrd := m.nextOrd + 1 }) s)

/-- The regrouped rows that a position's window needs, after padding (R124). -/
def rowsNeeded (cfg : Vector Word 64) (e : MxEff) (q : Nat) : List Nat :=
  (List.range e.kh).filterMap (fun ky =>
    (mxPadCoord (mxPadMode cfg) (((q / mxWout cfg * mxSy cfg : Nat) : Int) - mxPadTop cfg
      + ((e.koffY + ky) * mxDy cfg : Nat)) (mxH cfg)).map Int.toNat)

/-- The smallest of a list, 0 for none. -/
def least (l : List Nat) : Nat := match l with | [] => 0 | x :: xs => xs.foldl min x

/-- Release every line of the frame below a line number (R124). -/
def releaseBelow (c : CoreId) (n : StreamId) (line : Nat) (s : State) : State :=
  let u := (s.cores[c]).mx.cursor
  if u.seeking ∨ line ≤ u.released then s
  else
    let k := min (line - u.released) (s.bnd.strm[n]).held.length
    modCursor c (fun u => { u with released := u.released + k }) (releaseSlots n k s)

/-- Release the frame: every held line, the cursor seeks, later lines of the frame are released as they arrive (R124). -/
def releaseFrame (c : CoreId) (n : StreamId) (s : State) : State :=
  modCursor c (fun u => { u with seeking := true, drain := true, received := 0, released := 0 })
    (releaseSlots n (s.bnd.strm[n]).held.length s)

/-- The release at the start of a pass that swaps (R124). -/
def swapRelease (c : CoreId) (cmd : MxCmd) (e : MxEff) (s : State) : State :=
  if mxAgMode cmd.cfg = 3 ∧ mxRingRel cmd.cfg then
    releaseBelow c (mxPort cmd.cfg) (mxF cmd.cfg *
      (least (mxLines (s.cores[c]).mem.core cmd.cfg e) / mxF cmd.cfg)) s
  else s

/-- Passes that differ in the rows a position needs: one for each chunk (R124, R135). -/
def kernelPasses (mem : Memory) (cfg : Vector Word 64) : List MxEff :=
  (List.range (if mxKtab cfg then mxKCount cfg else 1)).map (fun ki => mxEffAt mem cfg (mxPasses cfg - 1)
    { mxPos cfg (mxPasses cfg - 1) with ki := ki })

/-- The release when a command completes (R124): below the rows that the next position needs, or the whole frame; a command none of whose
passes loads a plane releases as if its positions had been loaded (log 95). -/
def endRelease (c : CoreId) (cmd : MxCmd) (s : State) : State :=
  if mxAgMode cmd.cfg = 3 ∧ mxRingRel cmd.cfg then
    let mem := (s.cores[c]).mem.core
    let e := mxEff mem cmd.cfg (mxPasses cmd.cfg - 1)
    let q := e.p0 + mxPt cmd.cfg + (if mxSplit cmd.cfg then
      ((mxArrays cmd.cfg).map (fun a => a.val)).foldl max 0 * fld (reg cmd.cfg 0x0C) 0 16 else 0)
    if mxN cmd.cfg ≤ q then releaseFrame c (mxPort cmd.cfg) s
    else releaseBelow c (mxPort cmd.cfg)
      (mxF cmd.cfg * least ((kernelPasses mem cmd.cfg).flatMap (fun e => rowsNeeded cmd.cfg e q))) s
  else s

/-- Whether the feeders of an array hold the weights of a pass's first row: a beat in every band's FIFO, and the row wholly written
(R64, R86). -/
def weightsAt (fills : List (Nat × Nat)) (k : Core) (cfg : Vector Word 64) (e : MxEff) (m0 : Nat) (a : ArrId) : Bool :=
  (k.arrays[a]).grid.owed.toList.all (fun n => decide (n < 8)) && !(rowFilling fills cfg e a.val m0)

/-- Whether the pass whose plane is loaded may start (R64): it is the next pass, its load is complete, the pass before has entered its last
row on every array, and its weights are at the feeders. -/
def passReady (fills : List (Nat × Nat)) (k : Core) : Bool :=
  match k.mx.load, nextToForm k.mx with
  | some l, some cmd => loadComplete l && decide (cmd.ord = l.ord ∧ cmd.next = l.eff.idx) && runDone k.mx
      && (mxArrays cmd.cfg).all (weightsAt fills k cmd.cfg l.eff l.mStart)
  | _, _ => false

/-- The swap (R63): the loaded planes become active with their maps, gated cells are counted, rows begin to enter. -/
def swapIn (c : CoreId) (s : State) : State :=
  let k := s.cores[c]
  match k.mx.load with
  | none => s
  | some l =>
    match mxCmd k.mx l.ord with
    | none => s
    | some cmd =>
      let zeros := (l.planes.map (fun p => gatedCells p.2)).foldl (· + ·) 0
      let s := modCore c (fun k => { k with
        arrays := l.planes.foldl (fun v p => updAt v p.1 (fun u => { u with
          plane := some p.2, mapNow := p.2.map, grid := { u.grid with swap := some (gridN u.grid 0 0) } })) k.arrays
        mx := { k.mx with zeros := satAdd k.mx.zeros zeros, load := none } }) s
      swapRelease c cmd l.eff (startRun c cmd l.eff l.mStart s)

/-- MX_PASS_START: at the first cycle that R64 allows. -/
def mxPassStart (c : CoreId) (s : State) : State :=
  if mxForms s c = false ∨ (s.cores[c]).mx.load.isNone then s
  else
    let fills := weightFills s c
    let t := advance c (fun s => passReady fills s.cores[c] || !(mxForms s c)) eventFuel s
    if passReady fills t.cores[c] ∧ mxForms t c then swapIn c t else s

/-! ### Completion -/

/-- Whether nothing of a command is loading, entering, in flight or in the output stage. -/
def cmdQuiet (m : Mx) (ord : Nat) : Bool :=
  !(m.load.any (fun l => decide (l.ord = ord))) && !(m.run.any (fun r => decide (r.ord = ord)) && !(runDone m))
    && !(m.flight.any (fun r => decide (r.ord = ord))) && !(m.outq.any (fun o => decide (o.ord = ord)))

/-- Whether the oldest started command has merged its last row and written its last codes (R73). -/
def mxFinished (m : Mx) : Option MxCmd :=
  match m.started with
  | [] => none
  | cmd :: _ => if mxPasses cmd.cfg ≤ cmd.next ∧ cmdQuiet m cmd.ord then some cmd else none

/-- A command completes: it leaves the engine, its resume record clears, its lines are released, its tokens are posted. -/
def finishMx (c : CoreId) (cmd : MxCmd) (s : State) : State :=
  let s := endRelease c cmd (progress c (modMx c (fun m => { m with
    started := m.started.filter (fun k => decide (k.ord ≠ cmd.ord))
    run := m.run.filter (fun r => decide (r.ord ≠ cmd.ord))
    resume := if m.resumed = some cmd.ord then Resume.reset else m.resume
    resumed := if m.resumed = some cmd.ord then none else m.resumed }) s))
  postTokens c 0 cmd.cmd s

/-- MX_COMMAND_COMPLETE: the cycle after the last merge or the last code write. A taken packet with start = 0 completes as
soon as its wait is satisfied, whatever runs (R226). -/
def mxCommandComplete (c : CoreId) (s : State) : State :=
  let k := s.cores[c]
  match k.mx.taken.filter (fun cmd => !cmd.start && waitDone k cmd && coreLive s c) with
  | some cmd => postTokens c 0 cmd (progress c (modMx c (fun m => { m with taken := none }) s))
  | none =>
    if k.mx.started = [] ∨ (k.mx.started.head?.any (fun q => decide (q.next < mxPasses q.cfg))) then s
    else
      let t := advance c (fun s => (mxFinished (s.cores[c]).mx).isSome) eventFuel s
      match mxFinished (t.cores[c]).mx with
      | some cmd => if (t.cores[c]).mx.stopped then s else finishMx c cmd t
      | none => s

/-! ### The snuff -/

/-- Complete every oldest command that has finished (R98), at most n of them. -/
def finishAll (c : CoreId) : Nat → State → State
  | 0, s => s
  | n + 1, s =>
    match mxFinished (s.cores[c]).mx with
    | some cmd => finishAll c n (finishMx c cmd s)
    | none => s

/-- The arrays of a mask stand empty (R90). -/
def clearGrids (mask : BitVec 4) (k : Core) : Core :=
  { k with arrays := k.arrays.mapFinIdx (fun i u _ => if bitAt mask i then { u with grid := Grid.reset } else u) }

/-- The record of an unfinished command (R98, R108), and the commands that stay: after a drain before MX's own halt none does (R81). -/
def mxRecord (m : Mx) : Mx :=
  match m.stop with
  | .snuff (some (ord, pass, row)) =>
    match mxCmd m ord with
    | some cmd => { m with
        resume := {
            valid := true, replay := m.stopReplay, set := cmd.cmd.set, mask := mxMask cmd.cfg, mRes := if m.stopReplay then 0 else row, pos := pass }
        resumed := some ord }
    | none => m
  | .drain => { m with started := [] }
  | _ => m

/-- The end of a snuff or of a drain: at every snuff the planes of the masked arrays are discarded (R98, R107), the record is written
where a command is left unfinished (R98, R108), and the engine has stopped. -/
def mxStopped (c : CoreId) (s : State) : State :=
  let s := modCore c (fun k => clearGrids 0xF (dropPlanes (match k.mx.stop with | .snuff _ => k.mx.stopMask | _ => 0)
    { k with mx := mxRecord k.mx })) s
  let s := modCore c (fun k => match k.lamp with
    | .running _ _ false => if k.mx.stopReplay then lampOver k else k
    | _ => k) s
  modMx c (fun m => { m with
    stop := .none, stopMask := 0, stopReplay := false, stopped := true, run := none, load := none
    replay := if m.stopReplay then none else m.replay }) s

/-- Whether the rows that entered before the stop have drained, and before MX's own halt every pass before the failing one. -/
def stopDrained (m : Mx) : Bool :=
  m.flight.isEmpty && m.outq.isEmpty && runDone m &&
    (match m.stop with | .drain => m.started.all (fun k => decide (k.limit ≤ k.next)) | _ => true)

/-- Whether 4,096 cycles have passed since a snuff request whose drain is under way (R99). -/
def snuffLate (k : Core) : Bool :=
  match k.mx.stop with
  | .snuff _ => decide (k.mx.stopAt + 4096 ≤ k.cyc)
  | _ => false

/-- MX_SNUFF_COMPLETE: after the last entered row has merged and had its codes written, within the time of R99. -/
def mxSnuffComplete (c : CoreId) (s : State) : State :=
  if (s.cores[c]).mx.stop = .none then s
  else
    let t := advance c (fun s => stopDrained (s.cores[c]).mx || snuffLate s.cores[c]) eventFuel s
    if stopDrained (t.cores[c]).mx then
      mxStopped c (finishAll c (t.cores[c]).mx.started.length t)
    else s

/-! ### Replays and the drain timeout -/

/-- Whether a replayed group's last row has merged (R104). -/
def replayMerged (m : Mx) (r : MxReplay) : Bool :=
  decide (r.phase = 2) &&
    (match mxCmd m r.ord with | some cmd => decide (r.last < cmd.next) | none => true) &&
    !(m.load.any (fun l => decide (l.ord = r.ord) && decide (l.eff.idx ≤ r.last))) &&
    !(m.run.any (fun x => decide (x.ord = r.ord) && decide (x.eff.idx ≤ r.last)) && !(runDone m)) &&
    !(m.flight.any (fun x => decide (x.ord = r.ord) && decide (x.eff.idx ≤ r.last)))

/-- The record of a replay that succeeded (Table 14.3): it concerns the command's job. -/
def replayedRecord (s : State) (c : CoreId) (m : Mx) (r : MxReplay) : RecIn :=
  let sub := (bitsOf 4 (fld m.faultInfo 0 4)).headD 0
  let base : RecIn := { code := 0x03, unit := 2, index := c.val, sub := sub, detail := m.faultInfo.toNat }
  match (mxCmd m r.ord).bind (fun q => findJob s q.cmd.job) with
  | some j => { base with toPart := some j.part, part := j.part.val, job := jobRec j }
  | none => base

/-- The record is written in that cycle (R104), or once the job's outstanding writes are acknowledged (R20, log 95). -/
def postReplayed (s : State) (c : CoreId) (m : Mx) (r : MxReplay) (t : State) : State :=
  postFor (((mxCmd m r.ord).map (fun q => q.cmd.job)).getD 0) (replayedRecord s c m r) t

/-- ARRAY_REPLAY_DONE: in the cycle in which the replayed group's last row merges. -/
def arrayReplayDone (c : CoreId) (s : State) : State :=
  match (s.cores[c]).mx.replay with
  | none => s
  | some r =>
    if r.phase ≠ 2 then s
    else
      let t := advance c (fun s => replayMerged (s.cores[c]).mx r) eventFuel s
      let m := (t.cores[c]).mx
      if replayMerged m r ∧ m.replay = some r then
        modMx c (fun m => { m with replay := none, replays := 0 }) (postReplayed t c m r t)
      else s

/-- The commands that a snuff drain has not ended, with the earliest pass of each that is still in flight, in the output stage or
entering rows, oldest command first. -/
def unfinished (m : Mx) : List (Nat × Nat) :=
  let all := m.flight.map (fun r => (r.ord, r.eff.idx)) ++ m.outq.map (fun o => (o.ord, o.eff.idx))
    ++ (m.run.toList.filter (fun _ => !(runDone m))).map (fun r => (r.ord, r.eff.idx))
  m.started.filterMap (fun k => match (all.filter (fun x => decide (x.1 = k.ord))).map (fun x => x.2) with
    | [] => none
    | i :: l => some (k.ord, l.foldl min i))

/-- The arrays that still hold rows, for the fault record of a drain timeout (Table 04.10; log 84). -/
def rowArrays (m : Mx) : Nat :=
  ((List.finRange 4).map (fun a : ArrId => b2n (gridBusy m a) * 2 ^ a.val)).foldl (· + ·) 0

/-- One command's rows are abandoned under the fault rules with cause 5 (R99, R103); the row is the first the drain left. -/
def abandon (c : CoreId) (x : Nat × Nat) (s : State) : State :=
  let m := (s.cores[c]).mx
  match mxCmd m x.1 with
  | none => s
  | some cmd =>
    let g := mxGroup (s.cores[c]).mem.core cmd.cfg x.2
    let row := ((m.flight.map (fun r => r.row)) ++ (m.outq.map (fun o => o.row))).headD 0
    discardGroup c cmd (g.1.getD 0) g.2 x.2 g.1.isSome (faultInfoWord (rowArrays m) 5 0 0 row m.replays) s

/-- MX_SNUFF_TIMEOUT: the drain has not ended 4,096 cycles after the request (R99): the rows in flight are abandoned under
the fault rules with cause 5 and the record asks for a replay. -/
def mxSnuffTimeout (c : CoreId) (s : State) : State :=
  match (s.cores[c]).mx.stop with
  | .snuff _ =>
    let t := advance c (fun s => stopDrained (s.cores[c]).mx || snuffLate s.cores[c]) eventFuel s
    if stopDrained (t.cores[c]).mx ∨ ¬ snuffLate t.cores[c] then s
    else
      match unfinished (t.cores[c]).mx with
      | [] => s
      | x :: rest =>
        let first := match mxCmd (t.cores[c]).mx x.1 with
          | some cmd => (mxGroup (t.cores[c]).mem.core cmd.cfg x.2).1.getD 0
          | none => 0
        let u := abandon c x (forAll rest (abandon c) t)
        mxStopped c (modMx c (fun m => { m with
          flight := []
          outq := []
          run := none
          replays := m.replays + 1
          stop := .snuff (some (x.1, first, 0))
          stopReplay := true }) u)
  | _ => s

/-! ### The meanings -/

/-- MX_COMMAND_START. -/
def execMxCommandStart (c : CoreId) (s : State) : Host.Outcome State Fault Refusal := .next (mxCommandStart c s)
/-- MX_PASS_FORMATION. -/
def execMxPassFormation (c : CoreId) (s : State) : Host.Outcome State Fault Refusal := .next (mxPassFormation c s)
/-- MX_PASS_START. -/
def execMxPassStart (c : CoreId) (s : State) : Host.Outcome State Fault Refusal := .next (mxPassStart c s)
/-- MX_COMMAND_COMPLETE. -/
def execMxCommandComplete (c : CoreId) (s : State) : Host.Outcome State Fault Refusal := .next (mxCommandComplete c s)
/-- MX_SNUFF_COMPLETE. -/
def execMxSnuffComplete (c : CoreId) (s : State) : Host.Outcome State Fault Refusal := .next (mxSnuffComplete c s)
/-- MX_SNUFF_TIMEOUT. -/
def execMxSnuffTimeout (c : CoreId) (s : State) : Host.Outcome State Fault Refusal := .next (mxSnuffTimeout c s)
/-- ARRAY_REPLAY_DONE. -/
def execArrayReplayDone (c : CoreId) (s : State) : Host.Outcome State Fault Refusal := .next (arrayReplayDone c s)

end Sys2Proof.Machine
end

