-- ==== Sys2Proof/Machine/VecCmds.lean ====
section
/-! DEFINITION. Machine/VecCmds.lean: the commands of the vector and window engines: start (R147, R165, R170), completion
(R147, R154), the snuff (R165), core faults (R166, R216) and the release of a held accumulator read (R106). -/
namespace Sys2Proof.Machine
open Sys2Proof

/-- The command that starts next: a snuffed one resumes before the taken one (R246), whose wait must be satisfied. -/
def vecNext (k : Core) (v : Vec) : Option EngCmd :=
  match v.parked with
  | some cmd => some cmd
  | none => v.taken.filter (fun cmd => cmd.start && waitDone k cmd)

/-- The command leaves the taken place or the parked one. -/
def vecDequeue (v : Vec) : Vec :=
  match v.parked with | some _ => { v with parked := none } | none => { v with taken := none }

/-- Whether a command of VX or WX may start: the core runs, the engine is free, and no write to its curve table is in
progress (R54, R147). -/
def vecFree (s : State) (c : CoreId) (e : VecEng) (cfg : Vector Word 64) : Bool :=
  let k := s.cores[c]
  coreLive s c && (vecOf k e).run.isNone && !((vecOf k e).snuff)
    && (match e with | .vx => !(curveBusy k (vxCurve cfg)) | .wx => true)

/-- The row at which a start begins: row_resume of the record, but 0 for reductions, OBSERVE and ENCODE (R165). -/
def vecFirstRow (e : VecEng) (v : Vec) (cfg : Vector Word 64) : Nat :=
  if ¬ v.resume.valid then 0
  else match e with
    | .vx => if vxOp cfg ≤ 6 then v.resume.pos else 0
    | .wx => v.resume.pos

/-- The start checks of VX or WX. -/
def vecChecks (s : State) (c : CoreId) (e : VecEng) (cmd : EngCmd) (cfg : Vector Word 64) : Option HaltCond :=
  match e with
  | .vx => vxChecks s.grade (s.cores[c]) cmd cfg
  | .wx => wxChecks cmd cfg

/-- What a start does in core memory and the monitor; a resumed command clears no entry again (DEDUCED, log 18). -/
def vecBegin (resumed : Bool) (e : VecEng) (k : Core) (cfg : Vector Word 64) : Core × List Encoding :=
  match e with
  | .wx => (k, [])
  | .vx => if resumed ∧ vxOp cfg ≠ 13 then (k, []) else vxBegin k cfg

/-- The encoding records that an ENCODE start writes make words good (R156, R320). -/
def vecBeginFresh (c : CoreId) (e : VecEng) (cfg : Vector Word 64) (s : State) : State :=
  match e with
  | .wx => s
  | .vx => if vxOp cfg = 13 then freshWords (.core c) [(fld (reg cfg 0x1C) 0 16 * 128, 8 * (vxA cfg).c)] s else s

/-- A start of VX or WX: the resume-record conflict of R165, the checks of R170, then the command runs. A valid record clears here, at
the resumed start (DESIGN CHOICE, log 81). -/
def vecStart (c : CoreId) (e : VecEng) (s : State) : State :=
  let k := s.cores[c]
  let v := vecOf k e
  match vecNext k v with
  | none => s
  | some cmd =>
    let cfg := v.sets[cmd.set]
    if ¬ vecFree s c e cfg then s
    else
      let s := progress c (modVec c e vecDequeue s)
      if v.resume.valid ∧ v.resume.set ≠ cmd.set then
        raiseHalt c (vecHalt 0x11 (vecNum e) cmd.set.val 9 2 0) s
      else
        match vecChecks s c e cmd cfg with
        | some h => raiseHalt c h s
        | none =>
          let x := vecBegin v.resume.valid e (s.cores[c]) cfg
          modVec c e (fun w => { w with
            run := some (vecRun0 cmd cfg (vecFirstRow e v cfg) x.2)
            curSet := cmd.set
            resume := Resume.reset }) (vecBeginFresh c e cfg (modCore c (fun _ => x.1) s))

/-- A command of VX or WX completes: scalar registers, then the posts, in one cycle (R154, R227). -/
def vecDone (c : CoreId) (e : VecEng) (r : VecRun) (s : State) : State :=
  let s := modVec c e (fun v => { v with run := none, snuff := false }) s
  let s := match e with
    | .vx => modCore c (fun k => { k with sc := vxScalars r k.sc }) s
    | .wx => s
  postTokens c (vecNum e) r.cmd (progress c s)

/-- Completion of VX or WX: the remaining rows are processed first (log 13); a held row keeps the command (R106). A taken
packet with start = 0 completes as soon as its wait is satisfied, whatever runs (R226). -/
def vecComplete (c : CoreId) (e : VecEng) (s : State) : State :=
  let k := s.cores[c]
  let v := vecOf k e
  match v.taken.filter (fun cmd => !cmd.start && waitDone k cmd && coreLive s c) with
  | some cmd => postTokens c (vecNum e) cmd (progress c (modVec c e (fun v => { v with taken := none }) s))
  | none =>
    match v.run with
    | some r =>
      if v.snuff ∨ ¬ inService s c then s
      else
        let t := vecRunRows c e (vecRows e r.cfg - r.row) s
        match (vecOf (t.cores[c]) e).run with
        | some r' => if vecRows e r'.cfg ≤ r'.row then vecDone c e r' t else t
        | none => t
    | none => s

/-- Whether a command of VX or WX resumes at its row (R165): reductions, OBSERVE and ENCODE resume from row 0. -/
def vecResumesAt (e : VecEng) (cfg : Vector Word 64) (row : Nat) : Nat :=
  match e with | .vx => if vxOp cfg ≤ 6 ∨ vxOp cfg = 13 then row else 0 | .wx => row

/-- The snuff of VX or WX (R165, R227): the row in progress is finished, the record takes the rows completed, also where all are, and the
command waits for the restart; it posts nothing. A row that is held on an invalid accumulator row is not finished: the record names it (log 98). -/
def vecSnuffComplete (c : CoreId) (e : VecEng) (s : State) : State :=
  let v := vecOf (s.cores[c]) e
  match v.run with
  | none => modVec c e (fun v => { v with snuff := false }) s
  | some r =>
    if ¬ v.snuff then s
    else
      let t := if r.cyc = 0 ∨ r.held then s else vecRunRows c e 1 s
      match (vecOf (t.cores[c]) e).run with
      | none => t
      | some r =>
        modVec c e (fun v => { v with
          run := none
          snuff := false
          parked := some { r.cmd with wait := none }
          resume := { valid := true, replay := false, set := r.cmd.set, mask := 0, mRes := 0, pos := vecResumesAt e r.cfg r.row } }) t

/-- An engine fault (R166) of VX or WX. An uncorrectable data-memory read of the control core is handled likewise (R216); it has no fault register. -/
def engineFault (c : CoreId) (f : EngineFinding) (s : State) : State :=
  if ¬ inService s c then s
  else match f with
    | .vec e cause _ => if cause = 0 ∨ (e = .wx ∧ cause = 2) then s else vecFault c e cause s
    | .control _ => if (s.cores[c]).ctl.running then coreFault c 0x05 0 5 0 0 s else s
    | .fetch off =>
      let k := s.cores[c]
      if ¬ k.ctl.running then s
      else
        let at_ := off.toNat + b2n k.ctl.active * 2 ^ 17
        raiseHalt c (haltCond 0x0B 5 0 (BitVec.ofNat 32 at_)) (modCore c (fun k => { k with ctl := { k.ctl with addr := BitVec.ofNat 18 at_ } }) s)

/-! ### The meanings -/

/-- VX_COMMAND_START. -/
def execVxCommandStart (c : CoreId) (s : State) : Host.Outcome State Fault Refusal := .next (vecStart c .vx s)
/-- VX_COMMAND_COMPLETE. -/
def execVxCommandComplete (c : CoreId) (s : State) : Host.Outcome State Fault Refusal := .next (vecComplete c .vx s)
/-- WX_COMMAND_START. -/
def execWxCommandStart (c : CoreId) (s : State) : Host.Outcome State Fault Refusal := .next (vecStart c .wx s)
/-- WX_COMMAND_COMPLETE. -/
def execWxCommandComplete (c : CoreId) (s : State) : Host.Outcome State Fault Refusal := .next (vecComplete c .wx s)
/-- VXWX_SNUFF_COMPLETE. -/
def execVxwxSnuffComplete (c : CoreId) (eng : VecEng) (s : State) : Host.Outcome State Fault Refusal :=
  .next (vecSnuffComplete c eng s)

end Sys2Proof.Machine
end

