-- ==== Sys2Proof/Machine/CoreHalt.lean ====
section
/-! DEFINITION. Machine/CoreHalt.lean: the end of a halt and its record (R244, R245, R249, Table 10.10), the restart and the reset
of a core (R246, Table 17.5), the stall monitor (R237 to R239), and what a core's failure does to its jobs (R279). -/
namespace Sys2Proof.Machine
open Sys2Proof

/-! ### Jobs on a core -/

/-- A job's core whose context is on the core: its part has not ended and the Lamplighter has not put it aside. -/
def partActive (j : Job) (c : CoreId) : Bool :=
  j.cores.any (fun x => decide (x.core = c) && !x.ended) && !(j.saved.any (fun x => decide (x.core = c)))

/-- The jobs whose context is on a core; two during a handover (R306). -/
def activeOn (s : State) (c : CoreId) : List Job := s.host.jobs.filter (fun j => partActive j c)

/-- A job fails; the first failing core's halt stands in its completion entry. -/
def failJob (id : Nat) (f : JobFail) (s : State) : State := modJob id (fun j => { j with fail := j.fail.orElse (fun _ => some f) }) s

/-- The part of a job on a core ends. -/
def endPart (id : Nat) (c : CoreId) (s : State) : State :=
  modJob id (fun j => { j with cores := j.cores.map (fun x => if x.core = c then { x with ended := true } else x) }) s

/-! ### The halt record (R244, R245) -/

/-- Which engines, and which channels, hold a resume record (Table 10.8, HALT_SNUFFED). -/
def resumeBits (k : Core) : Word :=
  put 4 (b2n k.mx.resume.valid) ||| put 5 (b2n k.vx.resume.valid) ||| put 6 (b2n k.wx.resume.valid)
    ||| put 7 (b2n (k.dx.chans.toList.any (fun x => x.resume.valid))) ||| put 8 (b2n k.fx.resumeValid)
    ||| put 9 (((k.dx.chans.toList.zipIdx).map (fun x => b2n x.1.resume.valid * 2 ^ x.2)).foldl (· + ·) 0)

/-- The detail word as recorded: a snuff's carries the resume bits. -/
def recordDetail (k : Core) (h : HaltCond) : Word := if isSnuff h then h.detail ||| resumeBits k else h.detail

/-- DX_HALT_INFO (Table 10.10): job is the partition and tag of the running job. -/
def haltInfo (h : HaltCond) (job : Option (PartId × BitVec 14)) (second : Bool) : Word :=
  put 0 h.code.toNat ||| put 8 h.eng.toNat ||| put 11 h.set.toNat
    ||| (match job with | some (p, t) => put 13 p.val ||| put 16 t.toNat | none => 0)
    ||| put 30 (b2n second) ||| put 31 1

/-- The halt record registers as a halt writes them. -/
def haltRecord (s : State) (k : Core) (h : HaltCond) (second : Option HaltCond) (addr : BitVec 18) : HaltRec :=
  { addr := addr
    info := haltInfo h ((findJob s k.ctl.job).map (fun j => (j.part, j.tag))) second.isSome
    detail := recordDetail k h
    second := match second with | some x => put 0 x.code.toNat ||| put 8 x.eng.toNat | none => 0
    time := BitVec.ofNat 32 (nowUs s) }

/-- DX_HALT_ADDR (R246, R250): the next instruction. A program that a fetch, an undefined encoding or a switch point has stopped, and one
that does not run, stand at a known address; elsewhere its place in the active bank is free, since programs are private (log 9). -/
def haltAddr (h : HaltCond) (c : CoreId) (s : State) : BitVec 18 × State :=
  let ctl := (s.cores[c]).ctl
  if h.code = 0 ∨ ¬ ctl.running ∨ (h.eng = 5 ∧ (h.code = 0x01#8 ∨ h.code = 0x0B#8)) then (ctl.addr, s)
  else
    let f := takeFree 3 s
    (BitVec.ofNat 18 (leNat f.1 % 2 ^ 17 + b2n ctl.active * 2 ^ 17), f.2)

/-- Whether a halt fails the job of the core: any but a snuff of cause 1 or 5 (R279). -/
def haltFails (h : HaltCond) : Bool := !(isSnuff h && decide (fld h.detail 0 4 = 1 ∨ fld h.detail 0 4 = 5))

/-- The class of a halt (Table 10.8): FC_DEGRADED for a failed lamp test; a lockstep halt's is known after its self-test. -/
def haltClass (h : HaltCond) : Nat := if h.code = 0x14#8 then 2 else if isSnuff h then 0 else 1

/-- The CORE_HALT record of a halt (Table 14.3). -/
def coreHaltRec (s : State) (c : CoreId) (h : HaltCond) (fc : Nat) : RecIn :=
  let r : RecIn := { code := 0x04, fc := fc, unit := 1, index := c.val, halt := h.code.toNat, detail := h.detail.toNat, addr := h.addr }
  match findJob s (s.cores[c]).ctl.job with
  | some j => { r with toPart := some j.part, part := j.part.val, job := jobRec j }
  | none => r

/-- Whether a halt writes CORE_HALT with its record: not a core fault, a snuff, a lamp failure, nor yet a lockstep halt. -/
def haltRecorded (h : HaltCond) : Bool :=
  !(decide (h.code = 0) || isSnuff h || decide (h.code = 0x14#8) || decide (h.code = 0x0C#8))

/-- The LAMP_FAIL record of an array (Table 14.3). -/
def lampFailRec (s : State) (c : CoreId) (a : Nat) (detail : Nat) : RecIn :=
  let r : RecIn := { code := 0x07, fc := 2, unit := 2, index := c.val, sub := a, halt := 0x14, detail := detail }
  match findJob s (s.cores[c]).ctl.job with
  | some j => { r with toPart := some j.part, part := j.part.val, job := jobRec j }
  | none => r

/-- HALT_COMPLETE: every engine has stopped; the record is written, and the halt is reported. A core fault writes none. A
failed lamp test has its LAMP_FAIL record from its verdict; the replay limit of R104 has it here. -/
def haltComplete (c : CoreId) (s : State) : State :=
  let k := s.cores[c]
  match k.phase with
  | .halting h second _ =>
    if ¬ enginesStopped k then s
    else
      let h := { h with detail := recordDetail k h }
      let a := haltAddr h c s
      let s := modCore c (fun k => { k with
        phase := .halted h
        ctl := { k.ctl with addr := a.1 }
        halt := if h.code = 0 then k.halt else haltRecord s k h second a.1 }) a.2
      let s := if haltFails h ∧ h.code ≠ 0x0C#8 then
        forAll (activeOn s c) (fun j => failJob j.id {
            halt := h.code.toNat, fc := if h.code = 0 then 1 else haltClass h, detail := h.detail.toNat }) s
        else s
      if haltRecorded h then postFor k.ctl.job (coreHaltRec s c h (haltClass h)) s
      else if h.code = 0x14#8 ∧ bitAt h.detail 5 then
        postFor k.ctl.job (lampFailRec s c ((bitsOf 4 (fld h.detail 0 4)).headD 0) h.detail.toNat) s
      else s
  | _ => s

/-- HALT_COMPLETE. -/
def execHaltComplete (c : CoreId) (s : State) : Host.Outcome State Fault Refusal := .next (haltComplete c s)

/-! ### Restart (R246) -/

/-- MX runs again; a record that asks for a replay sets up its group's lamp test (R100, R108). -/
def mxRestart (k : Core) : Core :=
  let m := k.mx
  let k := { k with mx := { m with stopped := false } }
  match m.resumed with
  | some ord =>
    if m.resume.valid ∧ m.resume.replay then
      let last := match mxCmd m ord with | some cmd => (mxGroup k.mem.core cmd.cfg m.resume.pos).2 | none => m.resume.pos
      flushStep { k with mx := { k.mx with replay := some { ord := ord, first := m.resume.pos, last := last, count := m.replays, phase := 0 } } }
    else k
  | none => k

/-- A command whose resume record a set write has cleared starts anew, with the set as it stands (R101). -/
def mxRedo (c : CoreId) (s : State) : State :=
  let m := (s.cores[c]).mx
  match m.redo.bind (mxCmd m) with
  | none => s
  | some cmd =>
    let cfg := mxSet s.cores[c] cmd.cmd.set
    let freeze := bitAt (reg cfg 0x04) 6 || candleFreeze s cmd.cmd.job c
    let s := modMx c (fun m => { m with redo := none, curSet := cmd.cmd.set }) s
    stemStart c cfg (modStarted c cmd.ord (fun q => { q with
        cfg := cfg, next := 0, limit := mxPasses cfg, mStart := 0, reload := false, freeze := freeze }) s)

/-- A core halted by a snuff of cause 1 or 5 runs on: its record is no longer valid, its engines resume, and the control
core goes on at the halt address (ctl.addr, R246). -/
def restartCore (c : CoreId) (s : State) : State :=
  match (s.cores[c]).phase with
  | .halted h =>
    if h.code = 0x0F#8 ∧ ¬ haltFails h then
      mxRedo c <| modCore c (fun k => mxRestart { k with phase := .live, lampOwn := false, halt := { k.halt with
          info := k.halt.info &&& 0x7FFFFFFF } }) s
    else s
  | _ => s

/-! ### Reset (R246, Table 17.5) -/

/-- The matrix engine after a core reset: no command, record or cursor; its counters and sets stand. -/
def mxResetCore (m : Mx) : Mx :=
  { Mx.reset with
    sets := m.sets, nextOrd := m.nextOrd, passIdx := m.passIdx, curSet := m.curSet, sat := m.sat, rows := m.rows
    zeros := m.zeros, stallFeed := m.stallFeed, stallDrain := m.stallDrain, stallLoad := m.stallLoad, frozen := m.frozen
    throttled := m.throttled, swapWait := m.swapWait, stallMap := m.stallMap, replayCnt := m.replayCnt
    faultInfo := m.faultInfo, stemSkip := m.stemSkip, stemWait := m.stemWait
    cursor := { StemCursor.reset with port := m.cursor.port } }

/-- VX or WX after a core reset. -/
def vecResetCore (v : Vec) : Vec :=
  { Vec.reset with sets := v.sets, curSet := v.curSet, elems := v.elems, faultCause := v.faultCause, faultRow := v.faultRow }

/-- The data mover after a core reset. -/
def dxResetCore (d : Dx) : Dx := { d with chans := d.chans.map (fun x => { DxChan.reset with pos := x.pos }) }

/-- FX after a core reset: both FIFOs are empty (R383). -/
def fxResetCore (f : Fx) : Fx :=
  { Fx.reset with
      abortTill := f.abortTill, sets := f.sets, curSet := f.curSet, faultInfo := f.faultInfo, inCount := f.inCount, outCount := f.outCount,
      spurious := f.spurious }

/-- The core's own part of a reset. -/
def resetUnits (now : Nat) (k : Core) : Core :=
  { clearGrids 0xF (dropPlanes 0xF k) with
    phase := .reset now
    lampOwn := false
    halt := { k.halt with info := k.halt.info &&& 0x7FFFFFFF }
    mx := mxResetCore k.mx
    vx := vecResetCore k.vx
    wx := vecResetCore k.wx
    rm := Vector.replicate 512 emptyRange
    sc := Vector.replicate 16 0
    dx := dxResetCore k.dx
    queues := k.queues.map emptyQueue
    toks := Vector.replicate 64 0
    ctl := { k.ctl with running := false, wait := .none, ended := false, overran := false, job := 0, seen := false, seg := none }
    fx := fxResetCore k.fx
    stall := [] }

/-- The external writes that a core's channels have issued land (R246). -/
def landExternal (c : CoreId) (s : State) : State :=
  forAll ((s.cores[c]).dx.chans.toList.flatMap (fun x => match x.run with
    | some r => r.out.filter (fun t => decide (t.target = .ext) && !t.acked && decide (t.err = 0)) | none => []))
    (fun t => dxPerform c t) s

/-- The feeder releases every slot it holds (R124). -/
def stemReset (c : CoreId) (s : State) : State :=
  forAll ((List.finRange 4).filter (fun n : StreamId => decide (portCore s.bnd.strm[n] = c)))
    (fun n s => releaseSlots n (s.bnd.strm[n]).held.length s) s

/-- A core reset holds abort at the extension port for 64 fabric cycles (R383). -/
def holdAbort (c : CoreId) (s : State) : State := modFx c (fun f => { f with abortTill := s.time + 64 * fxPeriod s.fabric (fxRegion c) }) s

/-- The units of a core reset, without its effect on jobs. -/
def resetBody (c : CoreId) (s : State) : State :=
  flushOwed (progress c (haloReset c (holdAbort c (modCore c (resetUnits s.time) (stemReset c (landExternal c s))))))

/-- A core reset: the jobs whose context is on the core fail with halt 0 and FC_CONTAINED unless they have failed already. -/
def coreReset (c : CoreId) (s : State) : State :=
  let js := activeOn s c
  let s := forAll js (fun j s => endPart j.id c (failJob j.id { halt := 0, fc := 1, detail := 0 } s)) s
  resetBody c s

/-- Reset where the core is not in reset already. -/
def ensureReset (c : CoreId) (s : State) : State := if inReset s.cores[c] then s else coreReset c s

/-- CORE_RESET_DONE: 2 µs after the reset began the core is free again (R403). -/
def coreResetDone (c : CoreId) (s : State) : State :=
  match (s.cores[c]).phase with
  | .reset since =>
    if s.safety.fatal then s else modCore c (fun k => { k with phase := .live }) (atTime (since + us 2) s)
  | _ => s

/-- CORE_RESET_DONE. -/
def execCoreResetDone (c : CoreId) (s : State) : Host.Outcome State Fault Refusal := .next (coreResetDone c s)

/-- DX_CORE_CTRL reads a bit that was written 1 (Table 00.2, log 90). -/
def coreRequested (c : CoreId) (bits : BitVec 3) (s : State) : State := modCore c (fun k => { k with ctrlReq := k.ctrlReq ||| bits }) s

/-- A write of DX_CORE_CTRL acts on reset, else halt_req, else restart; the other bits of the write have no effect (R246). -/
def writeCoreCtrl (c : CoreId) (val : Word) (s : State) : State :=
  if ¬ inService s c then s
  else if bitAt val 1 then ensureReset c (coreRequested c 2 s)
  else if bitAt val 2 then snuffCore c 5 (coreRequested c 4 s)
  else if bitAt val 0 then restartCore c (coreRequested c 1 s)
  else s

/-- CORE_RESTART: a write of DX_CORE_CTRL with restart alone. -/
def execCoreRestart (acc : Access) (c : CoreId) (s : State) : Host.Outcome State Fault Refusal :=
  .next (access acc (coreOff c 0x4520) true (writeCoreCtrl c 1#32) s)
/-- CORE_RESET: a write of DX_CORE_CTRL with reset. -/
def execCoreReset (acc : Access) (c : CoreId) (s : State) : Host.Outcome State Fault Refusal :=
  .next (access acc (coreOff c 0x4520) true (writeCoreCtrl c 2#32) s)
/-- HALT_REQ: a write of DX_CORE_CTRL with halt_req. -/
def execHaltReq (acc : Access) (c : CoreId) (s : State) : Host.Outcome State Fault Refusal :=
  .next (access acc (coreOff c 0x4520) true (writeCoreCtrl c 4#32) s)

/-! ### A snuff run to its end

Firmware actions that stop cores are one step each (log 11): the drains that the commands of chapters 04, 07, 08 and 16
show one by one happen inside it. -/

/-- The transfers of a channel are acknowledged, one after another. -/
def ackAll (c : CoreId) (ch : ChanId) : Nat → State → State
  | 0, s => s
  | n + 1, s => ackAll c ch n (dxTransferAck c ch 0 s)

/-- The time that a transfer takes from its issue where nothing loads its path (R179, Table 08.2). -/
def dxTakes (s : State) (x : DxXfer) : Nat :=
  let n := (x.writes.map (fun w => w.2.length)).sum
  if x.ext ≠ 0 then nsec (160 + max 32 (ceilDiv n 128)) else (16 + max 2 (ceilDiv n 256)) * binPeriod s.safety.bin

/-- A channel's outstanding transfers complete, also those that wait for receivers or for a running command; the longest of them, as from its
issue, is what they take (R304, log 13). -/
def landChannel (c : CoreId) (ch : ChanId) (s : State) : State :=
  match (dxChan s c ch).run with
  | none => s
  | some r =>
    let s := spend c (((r.out.filter (fun x => !x.acked)).map (dxTakes s)).foldl max 0) s
    flushOwed (dxSnuffComplete c ch (ackAll c ch r.out.length (modDxRun c ch (fun r => { r with
      out := r.out.map (fun x => { x with members := 0, held := false, owed := 0 }) }) s)))

/-- Before a halt of MX's own, the passes before the failing one are formed, start and enter their rows (R81, R137). -/
def runOut (c : CoreId) : Nat → State → State
  | 0, s => s
  | n + 1, s =>
    if (s.cores[c]).mx.stop ≠ .drain ∨ stopDrained (s.cores[c]).mx then s
    else
      let s := mxPassFormation c s
      runOut c n (if passReady (weightFills s c) s.cores[c] then swapIn c s else runCycle c s)

/-- The engines of a core drain and the halt record is written. -/
def drainHalt (c : CoreId) (s : State) : State :=
  let rows (s : State) : State := together c [vecSnuffComplete c .vx, vecSnuffComplete c .wx] (mxSnuffComplete c (runOut c eventFuel s))
  let s := together c (rows :: (List.finRange 4).map (landChannel c)) s
  haltComplete c (fxStop c s)

/-- Snuff a core with a cause and let it drain. -/
def snuffNow (c : CoreId) (cause : Nat) (s : State) : State := drainHalt c (snuffCore c cause s)

/-! ### The stall monitor -/

/-- Whether a wait of a counter is a halo wait (R206). -/
def isHaloTok (k : Core) (t : TokId) : Bool := (hbOfTok k t).isSome

/-- A taken command in a countable wait (R237), of a job that `of` accepts. -/
def takenCountable (k : Core) (of : Nat → Bool) (cmd : Option EngCmd) : Bool :=
  match cmd with
  | some x => of x.job && (match x.wait with | some (t, _) => !(waitDone k x) && !(isHaloTok k t) | none => false)
  | none => false

/-- The control core waits on a token, not as a halo wait. -/
def ctlTokWait (k : Core) (of : Nat → Bool) : Bool :=
  k.ctl.running && of k.ctl.job && (match k.ctl.wait with | .tok t v => decide ((k.toks[t]).toNat < v.toNat) && !(isHaloTok k t) | _ => false)

/-- The control core waits on queue space. -/
def ctlSpaceWait (k : Core) (of : Nat → Bool) : Bool :=
  k.ctl.running && of k.ctl.job && (match k.ctl.wait with | .space e n => decide (64 - (k.queues[e]).slots.length < n) | _ => false)

/-- Engines with a countable taken command. -/
def takenWaits (k : Core) (of : Nat → Bool) : List Nat :=
  (if takenCountable k of k.mx.taken then [0] else []) ++ (if takenCountable k of k.vx.taken then [1] else [])
    ++ (if takenCountable k of k.wx.taken then [2] else [])
    ++ (if k.dx.chans.toList.any (fun x => takenCountable k of x.waiting) then [3] else [])
    ++ (if takenCountable k of k.fx.taken then [4] else [])

/-- A core has a party in a countable wait. -/
def countable (s : State) (c : CoreId) (of : Nat → Bool) : Bool :=
  let k := s.cores[c]
  !(takenWaits k of).isEmpty || !(creditWaits s c of).isEmpty || ctlTokWait k of || ctlSpaceWait k of

/-- A taken command that is neither absent nor in a countable wait: it may start, or waits otherwise. -/
def takenOther (k : Core) (of : Nat → Bool) (cmd : Option EngCmd) : Bool :=
  cmd.any (fun x => of x.job) && !(takenCountable k of cmd)

/-- A core's engines have a started command, or a channel that moves: while the core halts, one that drains. -/
def moving (s : State) (c : CoreId) (of : Nat → Bool) : Bool :=
  let k := s.cores[c]
  (!k.mx.stopped && k.mx.started.any (fun m => of m.cmd.job))
    || k.vx.run.any (fun r => of r.cmd.job) || k.wx.run.any (fun r => of r.cmd.job) || k.fx.run.any (fun r => of r.cmd.job)
    || (List.finRange 4).any (fun ch => ((dxChan s c ch).run).any (fun r => of r.cmd.job) && !(creditWait s c of ch))

/-- A core has a party that is active or in an other wait: a started command, a moving channel, a halo or bank wait, a
control program that runs, a packet ready to be taken. -/
def stirring (s : State) (c : CoreId) (of : Nat → Bool) : Bool :=
  let k := s.cores[c]
  (k.ctl.running && of k.ctl.job && !(ctlTokWait k of) && !(ctlSpaceWait k of)) || moving s c of
    || takenOther k of k.mx.taken || takenOther k of k.vx.taken || takenOther k of k.wx.taken
    || k.dx.chans.toList.any (fun x => takenOther k of x.waiting) || takenOther k of k.fx.taken

/-- The number of the group of a job (R237). -/
def groupNo (j : Job) : Nat := j.entry.getD 64

/-- Whether a job belongs to a group: the jobs that an entry has pulled. -/
def inGroup (s : State) (g id : Nat) : Bool := (findJob s id).any (fun j => decide (groupNo j = g))

/-- The groups of the started jobs. -/
def stallGroups (s : State) : List Nat := (s.host.jobs.map groupNo).eraseDups

/-- A core halts, and its engines drain (R244). -/
def coreHalting (k : Core) : Bool := match k.phase with | .halting _ _ _ => true | _ => false

/-- A group stands still: some party in a countable wait, every other one in a countable wait or idle (R239). A core that halts has its
draining engines for parties. -/
def standsStill (s : State) (g : Nat) : Bool :=
  let cores := (groupCores s g).filter (coreLive s)
  cores.any (fun d => countable s d (inGroup s g)) && cores.all (fun d => !(stirring s d (inGroup s g)))
    && (groupCores s g).all (fun d => !(coreHalting s.cores[d] && moving s d (inGroup s g)))

/-- The lowest logical token waited on in a core. -/
def lowestToken (s : State) (c : CoreId) (of : Nat → Bool) : Nat :=
  let k := s.cores[c]
  let ctl : List Nat := match k.ctl.wait with
    | .tok t _ => if ctlTokWait k of then [logTok (k.allocs[k.ctl.part]) t] else [] | _ => []
  let taken (cmd : Option EngCmd) : List Nat := match cmd with
    | some x => if takenCountable k of cmd then [x.waitLog.toNat] else [] | none => []
  let credits : List Nat := (creditWaits s c of).flatMap (fun ch => match (dxChan s c ch).run with
    | some r => [dxCrTok r.cfg] | none => [])
  let l := ctl ++ taken k.mx.taken ++ taken k.vx.taken ++ taken k.wx.taken ++ k.dx.chans.toList.flatMap (fun x => taken x.waiting)
    ++ taken k.fx.taken ++ credits
  l.foldl min (l.headD 0)

/-- HALT_DEADLOCK of a core (Table 10.8). -/
def deadlockHalt (s : State) (c : CoreId) (of : Nat → Bool) : HaltCond :=
  let k := s.cores[c]
  haltCond 0x09 6 0 (put 0 ((takenWaits k of).map (fun e => 2 ^ e)).sum ||| put 5 ((creditWaits s c of).map (fun ch => 2 ^ ch.val)).sum
    ||| put 9 (b2n (ctlTokWait k of)) ||| put 10 (b2n (ctlSpaceWait k of)) ||| put 16 (lowestToken s c of))

/-- The count of a group, as a core holds it. -/
def stallOf (k : Core) (g : Nat) : Nat := ((k.stall.find? (fun x => decide (x.1 = g))).map (fun x => x.2)).getD 0

/-- The count of a group takes a value in every one of its cores. -/
def setStall (g n : Nat) (s : State) : State :=
  forAll (groupCores s g) (fun d => modCore d (fun k =>
    let others := k.stall.filter (fun x => decide (x.1 ≠ g))
    { k with stall := if n = 0 then others else (g, n) :: others })) s

/-- The count of a group. -/
def groupStall (s : State) (g : Nat) : Nat := ((groupCores s g).map (fun d => stallOf s.cores[d] g)).foldl max 0

/-- One counting cycle of the stall monitor for every group (R239): 65,536 is reported by STALL_MONITOR_EXPIRY. -/
def stallCycle (s : State) : State :=
  forAll (stallGroups s) (fun g s => setStall g (if standsStill s g then min (groupStall s g + 1) 65536 else 0) s) s

/-- A group that stands still until its count reaches 65,536 halts every core with a party in a countable wait; the remaining cycles
pass (log 13). -/
def stallHalt (g : Nat) (s : State) : State :=
  let left := 65536 - groupStall s g
  let waits := (groupCores s g).filter (fun d => coreLive s d && countable s d (inGroup s g))
  let t := setStall g 65536 (forAll (List.finRange 6) (fun d => countCredit d left) { s with time := s.time + left * binPeriod s.safety.bin })
  forAll waits (fun d => raiseHalt d (deadlockHalt s d (inGroup s g))) t

/-- STALL_MONITOR_EXPIRY: of the groups of a core that stand still, the one with the highest count reaches 65,536. -/
def stallExpiry (c : CoreId) (s : State) : State :=
  let gs := (stallGroups s).filter (fun g => decide (c ∈ groupCores s g) && coreLive s c && standsStill s g)
  match gs.find? (fun g => gs.all (fun h => decide (groupStall s h ≤ groupStall s g))) with
  | some g => stallHalt g s
  | none => s

/-- STALL_MONITOR_EXPIRY. -/
def execStallMonitorExpiry (c : CoreId) (s : State) : Host.Outcome State Fault Refusal := .next (stallExpiry c s)

end Sys2Proof.Machine
end

