-- ==== Sys2Proof/Machine/Fx.lean ====
section
/-! DEFINITION. Machine/Fx.lean: the FX engine and the extension port (R380 to R386): start and its checks, the extension's done
and err, completion, the snuff, and FX faults. -/
namespace Sys2Proof.Machine
open Sys2Proof

/-- A halt of the FX engine with the standard detail. -/
def fxHalt (code : Byte) (set table order extra : Nat) : HaltCond :=
  haltCond code 4 set (stdDetail 4 set 0 table order extra)

/-- Checks 1 to 3 of Table 16.11. -/
def fxChecks (set : SetId) (cfg : Vector Word 64) : Option HaltCond :=
  let inEnd := fxInBase cfg + 32 * fxIn cfg
  let outEnd := fxOutBase cfg + 32 * fxOut cfg
  let hi := max (if fxIn cfg = 0 then 0 else inEnd) (if fxOut cfg = 0 then 0 else outEnd)
  if 262144 < fxIn cfg ∨ 262144 < fxOut cfg then some (fxHalt 0x11 set.val 11 1 0)
  else if coreBytes < hi then some (fxHalt 0x06 set.val 11 2 (memExtra (hi - 1)))
  else if fxIn cfg ≠ 0 ∧ fxOut cfg ≠ 0 ∧ overlaps (fxInBase cfg) inEnd (fxOutBase cfg) outEnd then some (fxHalt 0x11 set.val 11 3 0)
  else none

/-- HALT_FX_NOT_READY (Table 10.8). -/
def notReady (c : CoreId) (set : SetId) (cfg : Vector Word 64) (reason : Nat) : HaltCond :=
  haltCond 0x12 4 set.val (put 0 reason ||| put 8 c.val ||| put 16 (fld (reg cfg 0x04) 0 16))

/-- Checks 4 to 6; a loading region is waited out; one that is being scrubbed is on its way to state 1 (R407, log 36). -/
def fxRegionChecks (s : State) (c : CoreId) (set : SetId) (cfg : Vector Word 64) : Option HaltCond :=
  let z := s.fabric.regions[fxRegion c]
  if z.state = 1 ∨ scrubbing s 1 (fxRegion c).val then some (notReady c set cfg 1)
  else if z.state = 4 then some (notReady c set cfg 2)
  else if z.state = 3 then none
  else if fld (reg cfg 0x04) 0 16 ≠ z.extId.toNat then some (notReady c set cfg 3)
  else if z.secure ≠ (s.cores[c]).secure then some (notReady c set cfg 4)
  else none

/-- Whether abort is raised, by a snuff or by a core reset that holds it (R383). -/
def abortHeld (s : State) (c : CoreId) : Bool := (s.cores[c]).fx.abort || decide (s.time < (s.cores[c]).fx.abortTill)

/-- cmd_word is sent once the extension's cmd_ready is 1 and abort is low; the extension then lowers cmd_ready (log 34). -/
def fxSend (c : CoreId) (s : State) : State :=
  match (s.cores[c]).fx.run with
  | none => s
  | some r =>
    let z := s.fabric.regions[fxRegion c]
    if r.waitLoad ∨ r.sent ∨ abortHeld s c ∨ z.state ≠ 2 ∨ ¬ z.cmdReady then s
    else modRegion (fxRegion c) (fun z => { z with cmdReady := false }) (modFxRun c (fun r => { r with sent := true, sentAt := s.time }) s)

/-- The command that starts next. -/
def fxNext (k : Core) : Option EngCmd :=
  match k.fx.parked with
  | some cmd => some cmd
  | none => k.fx.taken.filter (fun cmd => cmd.start && waitDone k cmd)

/-- FX_COMMAND_START: the resume-record conflict, the checks of Table 16.11, then the command runs. -/
def fxStart (c : CoreId) (s : State) : State :=
  let k := s.cores[c]
  match fxNext k with
  | none => s
  | some cmd =>
    let cfg := k.fx.sets[cmd.set]
    if ¬ coreLive s c ∨ k.fx.run.isSome then s
    else
      let s := progress c (modFx c (fun f => if f.parked.isSome then { f with parked := none } else { f with taken := none }) s)
      if k.fx.resumeValid ∧ k.fx.resumeSet ≠ cmd.set then raiseHalt c (fxHalt 0x11 cmd.set.val 9 2 0) s
      else
        match (fxChecks cmd.set cfg).orElse (fun _ => fxRegionChecks s c cmd.set cfg) with
        | some h => raiseHalt c h s
        | none =>
          let wait := decide ((s.fabric.regions[fxRegion c]).state = 3)
          fxSend c (modFx c (fun f => { f with
            run := some (newFxRun cmd cfg wait), curSet := cmd.set, resumeValid := false, abort := false }) s)

/-- FX_COMMAND_START. -/
def execFxCommandStart (c : CoreId) (s : State) : Host.Outcome State Fault Refusal := .next (fxStart c s)

/-- A pulse of done or err that meets no command in progress is counted (R381). -/
def fxSpurious (c : CoreId) (s : State) : State := modFx c (fun f => { f with spurious := satAdd f.spurious 1 }) s

/-- The command in progress at the extension. -/
def fxInProgress (s : State) (c : CoreId) : Option FxRun := (s.cores[c]).fx.run.filter (fun r => r.sent && !r.done)

/-- What the extension has done with a command when its pulse comes: the input beats that it has taken in all, and the output beats that it has given
beside those that came before; of these the 64 last may still be in the FIFO. -/
def fxAnswer (c : CoreId) (r : FxRun) (taken : Nat) (beats : List (BitVec 256)) (s : State) : State :=
  let n := max r.taken (min taken (fxIn r.cfg))
  let q := r.outq ++ beats.take (fxOut r.cfg - (r.written + r.outq.length))
  fxWrite c (q.length - 64) (modFxRun c (fun r => { r with taken := n, fetched := max r.fetched n, inq := [], outq := q }) s)

/-- Whether an input beat among those that it has taken is an uncorrectable word; the FIFO holds none (R320, R384). -/
def fxBadInput (s : State) (c : CoreId) (r : FxRun) (taken : Nat) : Bool :=
  meetsPoison s (.core c) (fxInBase r.cfg + 32 * r.fetched) (32 * (min taken (fxIn r.cfg) - r.fetched))

/-- Whether it has given a beat beyond out_beats (R384). -/
def fxBeyond (r : FxRun) (beats : List (BitVec 256)) : Bool := decide (fxOut r.cfg < r.written + r.outq.length + beats.length)

/-- FX_DONE: the extension took so many input beats, gave these output beats, and is done; beats that it did not take are dropped. An uncorrectable
word among the input beats is a fault, and so is a beat beyond out_beats; the beats before that one are written. In the cycle of an err it is
nothing of its own (R385). -/
def fxDone (c : CoreId) (taken : Nat) (beats : List (BitVec 256)) (s : State) : State :=
  match fxInProgress s c with
  | none => if (s.cores[c]).fx.errAt = some s.time then s else fxSpurious c s
  | some r =>
    if fxBadInput s c r taken then fxFault c 2 0 s
    else
      let s := modFxRun c (fun r => { r with done := true, doneAt := s.time }) (fxAnswer c r taken beats s)
      if fxBeyond r beats then fxFault c 3 0 (fxFlush c s) else s

/-- FX_DONE. -/
def execFxDone (c : CoreId) (taken : Nat) (beats : List (BitVec 256)) (s : State) : Host.Outcome State Fault Refusal :=
  .next (fxDone c taken beats s)

/-- The command that an err meets: one in progress, or one whose done has come in the same cycle, over which err prevails (R385). -/
def fxErrMeets (s : State) (c : CoreId) : Option FxRun :=
  (s.cores[c]).fx.run.filter (fun r => r.sent && (!r.done || decide (r.doneAt = s.time)))

/-- FX_ERR: the command has failed with the extension's code; the beats are those given before. An uncorrectable
word among the input beats goes before it, as in FX_DONE. -/
def fxErr (c : CoreId) (code : Byte) (taken : Nat) (beats : List (BitVec 256)) (s : State) : State :=
  match fxErrMeets s c with
  | none => fxSpurious c s
  | some r =>
    if fxBadInput s c r taken then fxFault c 2 0 s
    else
      let t := modFx c (fun f => { f with errAt := some s.time }) (fxFlush c (fxAnswer c r taken beats s))
      if fxBeyond r beats then fxFault c 3 0 t else fxFault c 1 code.toNat t

/-- FX_ERR. -/
def execFxErr (c : CoreId) (code : Byte) (taken : Nat) (beats : List (BitVec 256)) (s : State) : Host.Outcome State Fault Refusal :=
  .next (fxErr c code taken beats s)

/-- FX_COMMAND_COMPLETE: core memory has accepted the last output beat; a taken packet with start = 0 completes as soon as its wait is
satisfied, whatever runs (R226). -/
def fxComplete (c : CoreId) (s : State) : State :=
  let k := s.cores[c]
  match k.fx.taken.filter (fun cmd => !cmd.start && waitDone k cmd && coreLive s c) with
  | some cmd => postTokens c 4 cmd (progress c (modFx c (fun f => { f with taken := none }) s))
  | none =>
    match k.fx.run with
    | some r => if ¬ r.done ∨ k.fx.abort ∨ ¬ inService s c then s else fxFinish c r s
    | none => s

/-- FX_COMMAND_COMPLETE. -/
def execFxCommandComplete (c : CoreId) (s : State) : Host.Outcome State Fault Refusal := .next (fxComplete c s)

/-- A physical fault of the running FX command (R384): an uncorrectable core-memory read or a FIFO parity error. -/
def fxFaultFound (c : CoreId) (fault : FxFinding) (s : State) : State :=
  match (s.cores[c]).fx.run with
  | none => s
  | some r => if ¬ r.sent then s else fxFault c (match fault with | .coreRead _ => 2 | .parity => 4) 0 s

/-- FX_SNUFF_COMPLETE: done has arrived with abort raised; a command whose cmd_word has not been sent has nothing to stop
(log 34). -/
def fxSnuffComplete (c : CoreId) (s : State) : State :=
  match (s.cores[c]).fx.run with
  | none => modFx c (fun f => { f with abort := false }) s
  | some r => if (s.cores[c]).fx.abort ∧ (r.done ∨ ¬ r.sent) then fxSnuffed c r s else s

/-- FX_SNUFF_COMPLETE. -/
def execFxSnuffComplete (c : CoreId) (s : State) : Host.Outcome State Fault Refusal := .next (fxSnuffComplete c s)

/-- FX_SNUFF_TIMEOUT: 4,096 fabric cycles after abort was raised done has not arrived. -/
def fxSnuffTimeout (c : CoreId) (s : State) : State :=
  let k := s.cores[c]
  match k.fx.run with
  | none => s
  | some r =>
    if ¬ k.fx.abort ∨ r.done ∨ ¬ r.sent then s
    else
      let z := fxRegion c
      let s := atTime (k.fx.abortAt + 4096 * fxPeriod s.fabric z) s
      fxSnuffed c r (postRecord { code := 0x34, unit := 6, index := z.val } (initialValues z s))

/-- FX_SNUFF_TIMEOUT. -/
def execFxSnuffTimeout (c : CoreId) (s : State) : Host.Outcome State Fault Refusal := .next (fxSnuffTimeout c s)

/-- The region of a core has left state 3: a waiting command tests checks 4 to 6 again (R382, R385). -/
def fxRecheck (c : CoreId) (s : State) : State :=
  match (s.cores[c]).fx.run with
  | none => s
  | some r =>
    if ¬ r.waitLoad ∨ (s.fabric.regions[fxRegion c]).state = 3 then s
    else
      match fxRegionChecks s c r.cmd.set r.cfg with
      | some h => raiseHalt c h (modFx c (fun f => { f with run := none }) s)
      | none => fxSend c (modFx c (fun f => { f with run := some { r with waitLoad := false } }) s)

/-- A region has an extension port: its core is present and not retired (R360). -/
def hasPort (s : State) (z : RegionId) : Bool :=
  if h : z.val < 6 then corePresent s.grade ⟨z.val, h⟩ && !(s.cores[(⟨z.val, h⟩ : CoreId)]).retired else false

/-- CMD_READY: the extension of a configured region, one whose image drives a port, raises cmd_ready; a waiting command is sent. -/
def execCmdReady (z : RegionId) (s : State) : Host.Outcome State Fault Refusal :=
  .next (
    if (s.fabric.regions[z]).state ≠ 2 ∨ ¬ hasPort s z ∨ (s.fabric.regions[z]).extId = 0 then s
    else
      let s := modRegion z (fun r => { r with cmdReady := true }) s
      if h : z.val < 6 then fxSend ⟨z.val, h⟩ s else s)

end Sys2Proof.Machine
end

