-- ==== Sys2Proof/Machine/Mailbox.lean ====
section
/-! DEFINITION. Machine/Mailbox.lean: mailboxes (R265, R414), their frames (Table 12.2), the order of checks of R267, replies, and the
Lamplighter's service (R269). A request that fails the checks of the frame is answered at its turn (log 10). -/
namespace Sys2Proof.Machine
open Sys2Proof

/-! ### Mailboxes -/

/-- The secure mailbox. -/
def secureMb : MboxId := ⟨8, by decide⟩
/-- A partition's mailbox. -/
def partMb (p : PartId) : MboxId := fin 9 p.val

/-- A mailbox. -/
def mbOf (s : State) (m : MboxId) : Mailbox := if m.val < 8 then (s.host.parts[fin 8 m.val]).mbox else s.host.smBox

/-- Change a mailbox. -/
def modMb (m : MboxId) (f : Mailbox → Mailbox) (s : State) : State :=
  if m.val < 8 then modPart (fin 8 m.val) (fun p => { p with mbox := f p.mbox }) s
  else { s with host := { s.host with smBox := f s.host.smBox } }

/-- The window offset of a mailbox register. -/
def mbOff (m : MboxId) (o : Nat) : Nat := if m.val < 8 then pageOff (fin 8 m.val) o else 0xE000 + o

/-- The bytes of a request. -/
def reqBytes (r : Vector Word 16) : List Byte := r.toList.flatMap (fun w => leBytes 4 w.toNat)

/-- The number in n bytes of a frame. -/
def frameNum (b : List Byte) (off n : Nat) : Nat := leNat ((b.drop off).take n)

/-- The words of 64 bytes. -/
def frameWords (b : List Byte) : Vector Word 16 := Vector.ofFn (fun i : Fin 16 => BitVec.ofNat 32 (frameNum b (4 * i.val) 4))

/-- The 64 bytes of a reply (Table 12.2). -/
def replyBytes (req : List Byte) (status detail : Nat) (results : List Byte) : List Byte :=
  let b := req.take 4 ++ leBytes 4 status ++ leBytes 4 detail ++ results
  (b ++ List.replicate (64 - b.length) 0#8).take 64

/-- Post a reply (R265 step 3): reply_valid is set, busy cleared, and mb_reply becomes pending. -/
def reply (m : MboxId) (status : Nat) (detail : Nat) (results : List Byte) (s : State) : State :=
  let s := modMb m (fun x => { x with
    rep := frameWords (replyBytes (reqBytes x.req) status detail results)
    busy := false
    replyValid := true }) s
  if m.val < 8 then setPtInt (fin 8 m.val) 0b00001 s else setSmInt 0b01 s

/-- Status codes (Table 12.4). -/
def stOk : Nat := 0
/-- ST_BUSY. -/
def stBusy : Nat := 1
/-- ST_DENIED. -/
def stDenied : Nat := 2
/-- ST_BAD_ARG. -/
def stBadArg : Nat := 3
/-- ST_NO_RESOURCE. -/
def stNoResource : Nat := 4
/-- ST_RESOURCE_BUSY. -/
def stResourceBusy : Nat := 5
/-- ST_PARTITIONED. -/
def stPartitioned : Nat := 6
/-- ST_NO_BUCKET. -/
def stNoBucket : Nat := 7
/-- ST_VERIFY_FAIL. -/
def stVerifyFail : Nat := 8

/-! ### The checks of a frame (R267) -/

/-- The opcodes of Table 12.3. -/
def opcodes : List Nat :=
  [0x01, 0x10, 0x20, 0x21, 0x30, 0x31, 0x40, 0x41, 0x50, 0x60, 0x61, 0x70, 0x80, 0x90, 0xA0, 0xF0]

/-- The opcodes of the secure mailbox alone. -/
def secureOps : List Nat := [0x10, 0x60, 0x61, 0x70, 0x80, 0xF0]

/-- The opcodes with memory arguments, and MB_ASID_REVOKE, whose ASID must be attached to the partition. -/
def asidOps : List Nat := [0x01, 0x20, 0x31, 0x40, 0x50, 0x70]

/-- The partition a request acts for. -/
def reqPart (m : MboxId) (b : List Byte) : PartId := if m.val < 8 then fin 8 m.val else fin 8 (frameNum b 5 1)

/-- Whether an ASID is attached to a partition. -/
def asidOf (s : State) (p : PartId) (asid : Nat) : Bool := s.host.asids.any (fun a => decide (a.asid = asid ∧ a.part = p))

/-- An aligned 48-bit address argument. -/
def dvaOk (a align : Nat) : Bool := decide (a < 2 ^ 48) && decide (a % align = 0)

/-- The bytes of a frame from an offset on are zero. -/
def zeroFrom (b : List Byte) (off : Nat) : Bool := decide (frameNum b off (64 - off) = 0)

/-- The core word of MB_PARTITION_CONFIG is in range (Table 12.1). -/
def coreWordOk (s : State) (b : List Byte) (c : CoreId) : Bool :=
  let w := frameNum b (20 + 4 * c.val) 4
  let f (lo len : Nat) : Nat := w / 2 ^ lo % 2 ^ len
  decide (f 26 6 = 0) && decide (f 4 4 ≤ 8) && decide (f 0 4 + f 4 4 ≤ 8) && decide (f 14 7 ≤ 64) && decide (f 8 6 + f 14 7 ≤ 64)
    && decide (f 23 3 ≤ 4) && decide (f 21 2 + f 23 3 ≤ 4) && (corePresent s.grade c || decide (w = 0))

/-- The arguments of an opcode are in range and its reserved bytes zero. -/
def argsOk (s : State) (op : Nat) (b : List Byte) : Bool :=
  let n (o k : Nat) : Nat := frameNum b o k
  match op with
  | 0x01 => dvaOk (n 8 8) 4096 && zeroFrom b 16
  | 0x10 => decide (n 8 1 < 4) && decide (n 9 1 = 0) && decide (n 10 2 ≤ 4095) && decide (n 12 2 % 64 = 0)
      && decide (n 14 2 % 64 = 0) && decide (n 12 2 + n 14 2 ≤ 16384) && decide (n 18 2 ≤ 256) && zeroFrom b 44
      && (List.finRange 16).all (fun r : Fin 16 => !((n 16 2).testBit r.val && decide ((s.sg.regions[r]).owner = 8)))
      && (List.finRange 6).all (coreWordOk s b)
  | 0x20 => dvaOk (n 8 8) 4096 && dvaOk (n 16 8) 4096 && decide (4 ≤ n 24 1) && decide (n 24 1 ≤ 12) && zeroFrom b 25
  | 0x21 => zeroFrom b 9
  | 0x30 => decide (n 4 1 < 64) && decide (n 8 8 < 2 ^ 44) && decide (n 8 8 % 4096 = 0) && zeroFrom b 16
  | 0x31 => zeroFrom b 8
  | 0x40 => dvaOk (n 8 8) 4096 && zeroFrom b 20
  | 0x41 => zeroFrom b 12
  | 0x50 => decide (n 8 1 < 4) && decide (n 14 2 = 0) && zeroFrom b 24
      && (match n 8 1 with
        | 0 => dvaOk (n 16 8) 16
        | 3 => decide (n 9 1 < 32) && decide (n 12 2 < 0xFFF)
        | _ => decide (n 10 2 < 0xFFF))
  | 0x60 => decide (n 8 1 < 4) && (if n 8 1 = 2 then decide (n 9 1 < 4) else decide (n 9 1 = 0)) && decide (n 10 1 < 2)
      && decide (1 ≤ n 11 1) && decide (n 11 1 ≤ 10) && decide (1000 ≤ n 12 4) && decide (n 12 4 ≤ 1000000) && zeroFrom b 16
  | 0x61 => decide (n 8 1 < 64) && decide (n 9 1 ≤ 3) && decide (n 8 1 + n 9 1 ≤ 64) && decide (n 10 1 < 2)
      && decide (n 11 5 = 0)
  | 0x70 => fabricArgs b
  | 0x80 => decide (n 8 1 < 2) && decide (n 13 3 = 0) && zeroFrom b 20
  | 0x90 => zeroFrom b 8
  | 0xA0 => decide (n 8 1 < 3) && decide (1 ≤ n 9 1) && decide (n 9 1 ≤ 3) && zeroFrom b 13
      && (match n 9 1 with
        | 1 => decide (n 10 1 < 64) && decide (n 11 1 < 2)
        | 2 => decide (n 10 1 < 4) && decide (n 11 1 < 2)
        | _ => decide (n 10 1 < 16) && decide (n 11 1 = 0)) && decide (n 12 1 < 8)
  | _ => zeroFrom b 8
where
  /-- MB_FABRIC_LOAD (Table 16.7). -/
  fabricArgs (b : List Byte) : Bool :=
    let n (o k : Nat) : Nat := frameNum b o k
    decide (n 8 1 < 3) && decide (n 9 1 < 8) && decide (n 10 6 = 0) && zeroFrom b 28
      && (decide (n 8 1 ≠ 0) || (dvaOk (n 16 8) 4096 && decide (64 ≤ n 24 4) && decide (n 24 4 ≤ 2 ^ 24)))

/-- What a request is answered for its frame; none: its opcode decides. -/
def frameStatus (s : State) (m : MboxId) (b : List Byte) : Option Nat :=
  let op := frameNum b 0 2
  let p := reqPart m b
  if op ∉ opcodes then some stBadArg
  else if op ∈ secureOps ∧ m.val < 8 then some stDenied
  else if m.val < 8 ∧ ¬ (s.host.parts[p]).enabled ∧ op ≠ 0x01 then some stDenied
  else if frameNum b 6 2 ≠ 0 ∨ (8 ≤ m.val ∧ 8 ≤ frameNum b 5 1) ∨ ¬ argsOk s op b
      ∨ (op ∈ asidOps ∧ ¬ asidOf s p (frameNum b 4 1)) then some stBadArg
  else none

/-! ### Service (R269) -/

/-- The Lamplighter serves mailboxes: it runs, also in the fatal hold, which stops the cores (Table 14.1; log 37). -/
def llServes (s : State) : Bool := decide (s.boot.state = 3 ∨ s.boot.state = 5)

/-- The oldest request sent and not taken. -/
def oldest (s : State) : Option (MboxId × List Byte) := s.host.sent.head?.map (fun m => (m, reqBytes (mbOf s m).req))

/-- The oldest request is taken. -/
def takeRequest (s : State) : State := { s with host := { s.host with sent := s.host.sent.tail } }

/-- Answer requests whose frames fail, as they come to the front, at most fuel of them. -/
def drainLoop : Nat → State → State
  | 0, s => s
  | n + 1, s =>
    match oldest s with
    | none => s
    | some (m, b) =>
      match frameStatus s m b with
      | none => s
      | some st => drainLoop n (reply m st 0 [] (takeRequest s))

/-- The Lamplighter takes requests up to the first whose opcode decides. -/
def drain (s : State) : State := if llServes s then drainLoop 9 s else s

/-- Take the oldest request where it has an opcode and, for an opcode with operations, an op in byte 8; act on it. -/
def serve (op : Nat) (sub : Option Nat) (act : MboxId → PartId → List Byte → State → State) (s : State) : State :=
  let s := drain s
  match oldest s with
  | none => s
  | some (m, b) =>
    if llServes s ∧ frameNum b 0 2 = op ∧ (sub = none ∨ sub = some (frameNum b 8 1)) ∧ frameStatus s m b = none then
      drain (act m (reqPart m b) b (takeRequest s))
    else s

/-! ### Commands -/

/-- A write of a mailbox's SEND (R265): the request is handed over, or ignored with overrun while one is busy or its reply
stands. -/
def mbSendWrite (m : MboxId) (val : Word) (s : State) : State :=
  if ¬ bitAt val 0 then s
  else
    let x := mbOf s m
    if x.busy ∨ x.replyValid then modMb m (fun x => { x with overrun := true }) s
    else
      let s := modMb m (fun x => { x with busy := true }) s
      drain { s with host := { s.host with sent := s.host.sent ++ [m] } }

/-- MB_SEND. -/
def execMbSend (acc : Access) (m : MboxId) (val : Word) (s : State) : Host.Outcome State Fault Refusal :=
  .next (access acc (mbOff m 0x40) true (mbSendWrite m val) s)

/-- A write of a mailbox's ACK with ack = 1. -/
def mbAckWrite (m : MboxId) (s : State) : State := modMb m (fun x => { x with replyValid := false, overrun := false }) s

/-- MB_ACK. -/
def execMbAck (acc : Access) (m : MboxId) (s : State) : Host.Outcome State Fault Refusal :=
  .next (access acc (mbOff m 0x48) true (mbAckWrite m) s)

end Sys2Proof.Machine
end

