-- ==== Sys2Proof/Machine/Caps.lean ====
section
/-! DEFINITION. Machine/Caps.lean: the fused and present units (R15, Table 01.3) and the capability table (R293, Table 12.11). -/
namespace Sys2Proof.Machine
open Sys2Proof

/-- LL_GRADE. -/
def gradeCode : Grade → Nat
  | .s96 => 0 | .s94 => 1 | .s92 => 2

/-- LL_FUSE_MASK (Table 01.3). -/
def fuseMask : Grade → Word
  | .s96 => 0x03FFFFFF | .s94 => 0x03CC3FCF | .s92 => 0x00C000C3

/-- A core that is retired, or an array that is retired itself or lies on a retired core. -/
def arrayRetired (s : State) (c : CoreId) (a : ArrId) : Bool := (s.cores[c]).retired || ((s.cores[c]).arrays[a]).retired

/-- C_eff of an array as the capability table has it: 0 where it is absent or retired (R84, log 42). -/
def arrayWidth (s : State) (c : CoreId) (a : ArrId) : Nat :=
  if corePresent s.grade c ∧ arrayPresent s.grade a ∧ ¬ arrayRetired s c a then cEff ((s.cores[c]).arrays[a]).staged else 0

/-- The retired units in the layout of Table 01.3: an array's bit is set when it is retired in any core. -/
def retiredMask (s : State) : Word :=
  BitVec.ofNat 32 (
    ((List.finRange 6).map (fun c : CoreId => b2n (corePresent s.grade c && (s.cores[c]).retired) * 2 ^ c.val)).foldl (· + ·) 0
    + ((List.finRange 4).map (fun a : ArrId => b2n (arrayPresent s.grade a && (List.finRange 6).any (fun c : CoreId =>
        corePresent s.grade c && ((s.cores[c]).arrays[a]).retired)) * 2 ^ (6 + a.val))).foldl (· + ·) 0)

/-- The units fused and in service. -/
def presentMask (s : State) : Word := fuseMask s.grade &&& ~~~ retiredMask s

/-- A 32-bit little-endian field. -/
def u32 (v : Nat) : List Byte := leBytes 4 v

/-- n zero bytes. -/
def zeros (n : Nat) : List Byte := List.replicate n 0#8

/-- The state byte of a unit: 0 absent, 1 in service, 2 retired. -/
def unitState (present retired : Bool) : Nat := if ¬ present then 0 else if retired then 2 else 1

/-- The 32 bytes of an array; a retired array has C_eff 0, as MX_CEFF reads (log 42). -/
def capsArray (s : State) (c : CoreId) (a : ArrId) : List Byte :=
  let x := (s.cores[c]).arrays[a]
  let here := corePresent s.grade c && arrayPresent s.grade a
  if ¬ here then zeros 32
  else leBytes 1 (unitState true (arrayRetired s c a)) ++ leBytes 1 (arrayWidth s c a) ++ zeros 14 ++ leBytes 16 x.staged.toNat

/-- The 16 bytes of a region. -/
def capsRegion (s : State) (z : RegionId) : List Byte :=
  let x := s.fabric.regions[z]
  if ¬ regionPresent s.grade z then zeros 16
  else leBytes 1 x.state.toNat ++ leBytes 1 (b2n x.secure) ++ zeros 2 ++ leBytes 2 x.extId.toNat ++ zeros 10

/-- The 16 bytes of a link port: while it is not up it has no neighbour. -/
def capsPort (s : State) (l : LinkId) : List Byte :=
  let x := s.links.ports[l]
  let here := linkPresent s.grade l
  let up := here && decide (x.state = 3)
  leBytes 1 (if ¬ here then 0 else if up then 2 else 1) ++ leBytes 1 (if up then x.lanes.toNat else 0)
    ++ (match up, x.neighbour with
      | true, some (e, p) => leBytes 1 e.toNat ++ leBytes 1 p.toNat
      | _, _ => leBytes 2 0xFFFF) ++ zeros 12

/-- The engine on a port, 0xFF for none. -/
def capsNeighbour (s : State) (l : LinkId) : List Byte :=
  let x := s.links.ports[l]
  match decide (x.state = 3), x.neighbour with
  | true, some (e, _) => leBytes 1 e.toNat
  | _, _ => [0xFF#8]

/-- The capability table before its CRC: bytes 0x000 to 0xFFB. -/
def capsBody (s : State) : List Byte :=
  let l := s.links
  let head := u32 0x5041434B ++ leBytes 2 0x0100 ++ leBytes 1 (gradeCode s.grade) ++ leBytes 1 2 ++ u32 s.host.genCount.toNat
    ++ u32 0x0C4D0096 ++ u32 0x100 ++ u32 (fuseMask s.grade).toNat ++ u32 (presentMask s).toNat ++ u32 (retiredMask s).toNat
  let now := leBytes 1 s.safety.bin.toNat ++ leBytes 1 s.bnd.vofsCode.toNat ++ leBytes 1 (b2n s.safety.exhausted) ++ zeros 1
    ++ u32 s.tick.period.toNat
    ++ leBytes 1 (if l.sys.toNat ≤ 1 ∧ l.count = 0 then 0xFF else l.addr.toNat)
    ++ leBytes 1 (max 1 (popcount 32 l.members.toNat)) ++ leBytes 1 l.topo.toNat
    ++ leBytes 1 (b2n (decide (l.sys = 3)) + b2n l.primary * 2)
    ++ (List.finRange 4).flatMap (capsNeighbour s) ++ u32 l.members.toNat ++ zeros 12
  let sizes := [8192, 512, 512, 128, 256, 64, 16384, 768, 512, 512, 128].flatMap u32 ++ zeros 20
  let limits := [8, 256, 64, 16384, 4096, 8192, 64, 64, 1000, 1000000, 32, 65536, 16].flatMap u32 ++ zeros 76
  let arrays := (List.finRange 6).flatMap (fun c : CoreId => (List.finRange 4).flatMap (fun a : ArrId => capsArray s c a))
  let cores := (List.finRange 6).flatMap (fun c : CoreId =>
    leBytes 1 (unitState (corePresent s.grade c) (s.cores[c]).retired) ++ zeros 15)
  let body := head ++ now ++ sizes ++ limits ++ arrays ++ cores ++ (List.finRange 8).flatMap (capsRegion s)
    ++ (List.finRange 4).flatMap (capsPort s)
  body ++ zeros (0xFFC - body.length)

/-- The 4,096 bytes of the capability table. -/
def capsTable (s : State) : List Byte := capsBody s ++ u32 (crc32c (capsBody s)).toNat

end Sys2Proof.Machine
end

