-- ==== Sys2Proof/Machine/Package.lean ====
section
/-! DEFINITION. Machine/Package.lean: the program package (R252 to R254, Tables 11.1 to 11.3), the loader's checks (Table 11.4, R255)
and the choice of a variant (R141). A package is the list of its bytes. -/
namespace Sys2Proof.Machine
open Sys2Proof

/-- The little-endian number in n bytes at an offset of a package. -/
def num (b : List Byte) (off n : Nat) : Nat := leNat ((b.drop off).take n)

/-- A bit field of the little-endian number in n bytes at an offset. -/
def bits (b : List Byte) (off n lo len : Nat) : Nat := num b off n / 2 ^ lo % 2 ^ len

/-! ### The manifest header (Table 11.1) -/

/-- len_4k in bytes. -/
def pkLen (b : List Byte) : Nat := num b 8 4 * 4096
/-- local_capable. -/
def pkLocal (b : List Byte) : Bool := decide (bits b 12 4 0 1 = 1)
/-- safety. -/
def pkSafety (b : List Byte) : Bool := decide (bits b 12 4 1 1 = 1)
/-- req_units. -/
def pkUnits (b : List Byte) : Nat := num b 16 4
/-- col_width. -/
def pkWidth (b : List Byte) : Nat := num b 20 1
/-- n_variants. -/
def pkVariants (b : List Byte) : Nat := num b 21 1
/-- n_ext. -/
def pkExts (b : List Byte) : Nat := num b 22 1
/-- n_sections. -/
def pkSections (b : List Byte) : Nat := num b 23 1
/-- shape_off. -/
def pkShapeOff (b : List Byte) : Nat := num b 24 4
/-- base_off. -/
def pkBaseOff (b : List Byte) : Nat := num b 28 4
/-- n_edges. -/
def pkEdges (b : List Byte) : Nat := num b 48 4
/-- n_regions. -/
def pkRegions (b : List Byte) : Nat := num b 60 2
/-- n_buffers. -/
def pkBuffers (b : List Byte) : Nat := num b 62 2
/-- tables_len. -/
def pkTables (b : List Byte) : Nat := num b 64 4
/-- The requirement word of a core (Table 11.2). -/
def pkReq (b : List Byte) (c : Nat) : Nat := num b (72 + 4 * c) 4
/-- used. -/
def reqUsed (w : Nat) : Bool := w.testBit 17

/-! ### The manifest tables (Table 11.3) -/

/-- The offset of entry i of a table of entries of a size, whose offset the header holds at a place. -/
def entryAt (b : List Byte) (place size i : Nat) : Nat := num b place 4 + size * i
/-- Variant entry i. -/
def varAt (b : List Byte) (i : Nat) : Nat := entryAt b 32 32 i
/-- Buffer entry j. -/
def bufAt (b : List Byte) (j : Nat) : Nat := entryAt b 36 8 j
/-- Extension entry j. -/
def extAt (b : List Byte) (j : Nat) : Nat := entryAt b 40 4 j
/-- Credit-graph edge j. -/
def edgeAt (b : List Byte) (j : Nat) : Nat := entryAt b 44 4 j
/-- Section entry j. -/
def secAt (b : List Byte) (j : Nat) : Nat := entryAt b 52 16 j
/-- Region entry j. -/
def regAt (b : List Byte) (j : Nat) : Nat := entryAt b 56 16 j

/-- Bucket dimensions of variant i. -/
def varDims (b : List Byte) (i : Nat) : List Nat := (List.range 4).map (fun d => num b (varAt b i + 2 * d) 2)
/-- The section of core c's segment 0 in variant i; none where the variant does not use the core. -/
def varProg (b : List Byte) (i c : Nat) : Option Nat :=
  if num b (varAt b i + 8 + c) 1 = 0xFF then none else some (num b (varAt b i + 8 + c) 1)
/-- The buffer entries of variant i. -/
def varBufs (b : List Byte) (i : Nat) : List Nat :=
  (List.range (num b (varAt b i + 14) 1)).map (fun j => num b (varAt b i + 16) 2 + j)

/-- A section entry's fields. -/
structure Sect where
  kind : Nat
  core : Nat
  seg  : Nat
  off  : Nat
  len  : Nat
  crc  : Nat
  deriving DecidableEq, Repr

/-- Section entry j. -/
def sect (b : List Byte) (j : Nat) : Sect :=
  let o := secAt b j
  { kind := num b o 1, core := bits b o 4 8 3, seg := bits b o 4 11 5, off := num b (o + 4) 4 * 4096, len := num b (o + 8) 4,
    crc := num b (o + 12) 4 }

/-- The bytes of a section. -/
def sectBytes (b : List Byte) (j : Nat) : List Byte := (b.drop (sect b j).off).take (sect b j).len

/-- The control segments of a core, in table order. -/
def segsOf (b : List Byte) (c : Nat) : List Nat :=
  (List.range (pkSections b)).filter (fun j => decide ((sect b j).kind = 1 ∧ (sect b j).core = c))

/-- The segment that follows segment j of its core's program across a switch point; none: it is the last (R254). -/
def nextSeg (b : List Byte) (j : Nat) : Option Nat :=
  match (segsOf b (sect b j).core).find? (fun i => decide (j < i)) with
  | some i => if (sect b i).seg = (sect b j).seg + 1 then some i else none
  | none => none

/-! ### The loader's checks (Table 11.4) -/

/-- What a failing check names: core (0xFF: none) and index. -/
abbrev Finding := Nat × Nat

/-- The first of a list of findings. -/
def firstOf (l : List (Option Finding)) : Option Finding := (l.filterMap id).head?
/-- A finding where a condition fails. -/
def need (ok : Bool) (core index : Nat) : Option Finding := if ok then none else some (core, index)
/-- The first finding over the entries below n. -/
def forEntries (n : Nat) (f : Nat → Option Finding) : Option Finding := firstOf ((List.range n).map f)

/-- Check 4, the header: length, reserved fields, counts, and the alignment of shape_off and base_off. -/
def layoutHead (b : List Byte) (limit : Nat) : Option Finding :=
  firstOf [
    need (decide (4096 ≤ pkLen b) && decide (pkLen b ≤ limit)) 0xFF 0,
    need (decide (bits b 12 4 3 29 = 0) && decide (pkUnits b / 2 ^ 26 = 0) && decide (num b 96 28 = 0)) 0xFF 0,
    need (decide (1 ≤ pkWidth b) && decide (pkWidth b ≤ 128) && decide (pkExts b ≤ 6) && decide (1 ≤ pkSections b)
      && decide (pkEdges b ≤ 65535) && decide (pkRegions b ≤ 4096) && decide (pkBuffers b ≤ 1024)) 0xFF 0,
    need (decide (pkShapeOff b % 16 = 0) && decide (pkBaseOff b % 8 = 0)) 0xFF 0]

/-- Check 4, a table's place: its offset a multiple of 16 (R252); a table with entries after the header, ending before tables_len. -/
def tablePlace (b : List Byte) (place size n : Nat) : Option Finding :=
  need (decide (num b place 4 % 16 = 0) && (decide (n = 0) || (decide (128 ≤ num b place 4)
    && decide (num b place 4 + size * n ≤ pkTables b)))) 0xFF 0

/-- Check 4, the requirement words. -/
def layoutReq (b : List Byte) : Option Finding :=
  forEntries 6 (fun c =>
    let w := pkReq b c
    need (if reqUsed w then decide (w % 16 ≤ 8) && decide (w / 16 % 128 ≤ 64) && decide (w / 2 ^ 11 % 8 ≤ 4)
        && decide (w / 2 ^ 18 = 0) else decide (w = 0)) c 0)

/-- Check 4, a section entry: kind, core, segment, place and length. prev: the segment before it of its core. -/
def layoutSect (b : List Byte) (j : Nat) : Option Finding :=
  let x := sect b j
  let prev := ((segsOf b x.core).filter (fun i => decide (i < j))).getLast?
  let place := decide (bits b (secAt b j) 4 16 16 = 0) && decide (pkTables b ≤ x.off) && decide (x.off + x.len ≤ pkLen b)
    && (List.range (pkSections b)).all (fun i => decide (j ≤ i) || decide ((sect b i).off + (sect b i).len ≤ x.off)
      || decide (x.off + x.len ≤ (sect b i).off))
  if x.kind = 1 then
    need (place && decide (x.core ≤ 5) && decide (4 ≤ x.len) && decide (x.len ≤ 131072) && decide (x.len % 4 = 0)
      && (decide (x.seg = 0) || (match prev with | some i => decide (x.seg = (sect b i).seg + 1) | none => false))) x.core j
  else need (place && decide (x.kind = 2) && decide (x.core = 0) && decide (x.seg = 0)) 0xFF j

/-- Check 4, a region entry. -/
def layoutRegion (b : List Byte) (j : Nat) : Option Finding :=
  let o := regAt b j
  let space := bits b o 4 0 3
  let core := bits b o 4 3 3
  need (decide (bits b o 4 6 2 = 0) && decide (bits b o 4 13 19 = 0) && decide (num b (o + 12) 4 = 0)
    && decide (space = 0 ∨ space = 1 ∨ space = 3 ∨ space = 4) && decide (bits b o 4 8 5 ≤ 12)
    && (if space = 1 ∨ space = 3 then decide (core ≤ 5) else decide (core = 0)) && decide (1 ≤ num b (o + 8) 4)) 0xFF j

/-- Check 4, a variant entry: reserved fields, and each program a segment 0 of its core. -/
def layoutVariant (b : List Byte) (i : Nat) : Option Finding :=
  let o := varAt b i
  firstOf (need (decide (num b (o + 15) 1 = 0) && decide (num b (o + 18) 14 = 0)) 0xFF i ::
    (List.range 6).map (fun c =>
      match varProg b i c with
      | none => none
      | some j => need (decide (j < pkSections b) && decide ((sect b j).kind = 1) && decide ((sect b j).core = c)
          && decide ((sect b j).seg = 0)) c i))

/-- Check 4, LAYOUT. -/
def layout (b : List Byte) (limit : Nat) : Option Finding :=
  firstOf [
    layoutHead b limit,
    tablePlace b 32 32 (pkVariants b), tablePlace b 36 8 (pkBuffers b), tablePlace b 40 4 (pkExts b),
    tablePlace b 44 4 (pkEdges b), tablePlace b 52 16 (pkSections b), tablePlace b 56 16 (pkRegions b),
    layoutReq b,
    forEntries (pkBuffers b) (fun j => need (decide (1 ≤ num b (bufAt b j) 4) && decide (bits b (bufAt b j) 8 40 24 = 0)) 0xFF j),
    forEntries (pkExts b) (fun j => need (decide (bits b (extAt b j) 4 19 13 = 0) && decide (bits b (extAt b j) 4 16 3 ≤ 5)) 0xFF j),
    forEntries (pkEdges b) (fun j => need (decide (num b (edgeAt b j) 2 ≤ 4095) && decide (num b (edgeAt b j + 2) 2 ≤ 4095)) 0xFF j),
    forEntries (pkSections b) (layoutSect b),
    forEntries (pkRegions b) (layoutRegion b),
    forEntries (pkVariants b) (layoutVariant b)]

/-- Check 3, HDR_CRC: the length of the tables, and the CRC with its own field taken as zero. -/
def headerCrc (b : List Byte) (limit : Nat) : Bool :=
  let n := pkTables b
  decide (128 ≤ n) && decide (n % 16 = 0) && decide (n ≤ limit)
    && decide ((crc32c (b.take 124 ++ [0#8, 0#8, 0#8, 0#8] ++ (b.drop 128).take (n - 128))).toNat = num b 124 4)

/-- Check 5, SECT_CRC. -/
def sectCrc (b : List Byte) : Option Finding :=
  forEntries (pkSections b) (fun j =>
    need (decide ((crc32c (sectBytes b j)).toNat = (sect b j).crc)) (if (sect b j).kind = 1 then (sect b j).core else 0xFF) j)

/-- Check 6, VARIANTS. -/
def variants (b : List Byte) : Option Finding :=
  let n := pkVariants b
  let zeroDims (i : Nat) : List Bool := (varDims b i).map (fun d => decide (d = 0))
  let bufIndex (j : Nat) : Nat := bits b (bufAt b j) 8 32 6
  firstOf [
    need (decide (1 ≤ n) && decide (n ≤ 16)) 0xFF 0,
    forEntries n (fun i => firstOf (
      need (decide (zeroDims i = zeroDims 0)) 0xFF i ::
      (List.range 6).map (fun c => need ((varProg b i c).isNone || reqUsed (pkReq b c)) c i) ++
      [need (decide (num b (varAt b i + 16) 2 + num b (varAt b i + 14) 1 ≤ pkBuffers b)) 0xFF i,
       need (decide ((varBufs b i).map bufIndex).Nodup) 0xFF i])),
    forEntries 6 (fun c => need (!(reqUsed (pkReq b c)) || (List.range n).any (fun i => (varProg b i c).isSome)) c 0)]

/-- The cores that a package uses. -/
def usedCores (b : List Byte) : List CoreId := (List.finRange 6).filter (fun c => reqUsed (pkReq b c.val))

/-- Check 7, UNITS: the lowest missing unit. -/
def units (s : State) (b : List Byte) : Option Finding :=
  ((bitsOf 32 (pkUnits b)).find? (fun i => !(bitAt (presentMask s) i))).map (fun i => (if i < 6 then i else 0xFF, i))

/-- Check 8, COL_WIDTH: every required array of every used core. -/
def colWidth (s : State) (b : List Byte) : Option Finding :=
  firstOf ((usedCores b).flatMap (fun c : CoreId => ((List.finRange 4).filter (fun a : ArrId => (pkUnits b).testBit (6 + a.val))).map
    (fun a : ArrId => need (decide (pkWidth b ≤ arrayWidth s c a)) c.val a.val)))

/-- Checks 10 to 13 of a core: what its requirement word asks against a bound. -/
def coreNeed (b : List Byte) (ok : CoreId → Nat → Bool) : Option Finding :=
  firstOf ((usedCores b).map (fun c : CoreId => need (ok c (pkReq b c.val)) c.val 0))

/-- The core that a region entry names, 0xFF for none. -/
def regionCore (b : List Byte) (j : Nat) : Nat :=
  let o := regAt b j
  if bits b o 4 0 3 = 1 ∨ bits b o 4 0 3 = 3 then bits b o 4 3 3 else 0xFF

/-- Check 14, REGION_RANGE. -/
def regionRange (b : List Byte) : Option Finding :=
  forEntries (pkRegions b) (fun j =>
    let o := regAt b j
    let lo := num b (o + 4) 4
    let hi := lo + num b (o + 8) 4
    need (match bits b o 4 0 3 with
      | 0 => (List.range (pkSections b)).any (fun i => decide ((sect b i).kind = 2) && decide ((sect b i).off ≤ lo)
          && decide (hi ≤ (sect b i).off + (sect b i).len))
      | 1 => decide (hi ≤ 0x800000)
      | 3 => decide (hi ≤ 0x80000)
      | _ => decide (hi ≤ 0x1000000)) (regionCore b j) j)

/-- Check 15, ALIGN. Which space-0 regions hold ZC64 data is Deldex's own knowledge (Config.zcRegion, log 28). -/
def regionAlign (b : List Byte) : Option Finding :=
  forEntries (pkRegions b) (fun j =>
    let o := regAt b j
    let align := bits b o 4 8 5
    need (decide (num b (o + 4) 4 % 2 ^ align = 0) && (decide (bits b o 4 0 3 ≠ 1) || decide (7 ≤ align))
      && (decide (bits b o 4 0 3 ≠ 0) || !(Config.zcRegion b j) || decide (12 ≤ align))) (regionCore b j) j)

/-- Check 16, STAGING_OWNER. -/
def stagingOwner (s : State) (p : PartId) (b : List Byte) : Option Finding :=
  forEntries (pkRegions b) (fun j =>
    let o := regAt b j
    let lo := num b (o + 4) 4
    let hi := lo + num b (o + 8) 4
    need (decide (bits b o 4 0 3 ≠ 4) || (List.finRange 16).all (fun r : Fin 16 =>
      decide (hi ≤ r.val * 0x100000) || decide ((r.val + 1) * 0x100000 ≤ lo)
        || decide ((s.sg.regions[r]).owner.toNat = p.val))) 0xFF j)

/-- Check 17, EXT_MISSING: region Zc serves core Cc. -/
def extMissing (s : State) (b : List Byte) : Option Finding :=
  forEntries (pkExts b) (fun j =>
    let z : RegionId := fin 8 (bits b (extAt b j) 4 16 3)
    let r := s.fabric.regions[z]
    need (regionPresent s.grade z && decide (r.state = 2) && decide (r.extId.toNat = num b (extAt b j) 2)) z.val j)

/-- The edges of the credit graph: waiter and poster. -/
def edges (b : List Byte) : List (Nat × Nat) :=
  (List.range (pkEdges b)).map (fun j => (num b (edgeAt b j) 2, num b (edgeAt b j + 2) 2))

/-- Remove the edges into nodes that wait on nothing, at most fuel times: what is left lies on or leads to a cycle. -/
def prune : Nat → List (Nat × Nat) → List (Nat × Nat)
  | 0, l => l
  | n + 1, l =>
    let l' := l.filter (fun e => l.any (fun f => decide (f.1 = e.2)))
    if l'.length = l.length then l else prune n l'

/-- Remove the edges out of nodes that no edge enters: what is left of both lies on cycles or between them. -/
def pruneBack : Nat → List (Nat × Nat) → List (Nat × Nat)
  | 0, l => l
  | n + 1, l =>
    let l' := l.filter (fun e => l.any (fun f => decide (f.2 = e.1)))
    if l'.length = l.length then l else pruneBack n l'

/-- Nodes that an edge walk reaches from a list of nodes, at most n steps. -/
def reach (l : List (Nat × Nat)) : Nat → List Nat → List Nat
  | 0, x => x
  | n + 1, x =>
    let y := (l.filter (fun e => decide (e.1 ∈ x) && decide (e.2 ∉ x))).map (fun e => e.2)
    if y = [] then x else reach l n (x ++ y.eraseDups)

/-- Check 18, CREDIT_CYCLE: the first edge that lies on a cycle. -/
def creditCycle (b : List Byte) : Option Finding :=
  let l := edges b
  let rest := pruneBack l.length (prune l.length l)
  if rest = [] then none
  else forEntries l.length (fun j =>
    let e := l[j]?.getD (0, 0)
    need (!(decide (e ∈ rest) && decide (e.1 ∈ reach rest rest.length [e.2]))) 0xFF j)

/-- The detail word of a failing check. -/
def verifyDetail (code : Nat) (f : Finding) : Nat := code + f.1 * 2 ^ 8 + f.2 % 65536 * 2 ^ 16

/-- The checks of Table 11.4 in order, for a partition; none: the package is admitted. limit: pkg_bytes. -/
def verifyPackage (s : State) (p : PartId) (limit : Nat) (b : List Byte) : Option Nat :=
  let code (n : Nat) (f : Option Finding) : Option Nat := f.map (verifyDetail n)
  let alloc (c : CoreId) : Alloc := (s.cores[c]).allocs[p]
  let checks : List (Unit → Option Nat) := [
    fun _ => code 0x01 (need (decide (128 ≤ limit) && decide (num b 0 4 = 0x4B4D5047)) 0xFF 0),
    fun _ => code 0x02 (need (decide (num b 5 1 = 1) && decide (num b 6 2 = 2)) 0xFF 0),
    fun _ => code 0x03 (need (headerCrc b limit) 0xFF 0),
    fun _ => code 0x04 (layout b limit),
    fun _ => code 0x05 (sectCrc b),
    fun _ => code 0x06 (variants b),
    fun _ => code 0x07 (units s b),
    fun _ => code 0x08 (colWidth s b),
    fun _ => code 0x09 (need (decide (pkShapeOff b + 16 ≤ 0x40000) && decide (pkBaseOff b + 8 ≤ 0x40000)) 0xFF 0),
    fun _ => code 0x0A (coreNeed b (fun c w => decide (w % 16 ≤ (alloc c).accCount.toNat))),
    fun _ => code 0x0B (coreNeed b (fun c w => decide (w / 16 % 128 ≤ (alloc c).tokCount.toNat))),
    fun _ => code 0x0C (coreNeed b (fun c w => decide (w / 2 ^ 11 % 8 ≤ (alloc c).setCount.toNat))),
    fun _ => code 0x0D (coreNeed b (fun _ w => decide (w / 2 ^ 14 % 8 ≠ 0 ∧ w / 2 ^ 14 % 8 ≠ 7))),
    fun _ => code 0x0E (regionRange b),
    fun _ => code 0x0F (regionAlign b),
    fun _ => code 0x10 (stagingOwner s p b),
    fun _ => code 0x11 (extMissing s b),
    fun _ => code 0x12 (creditCycle b)]
  checks.foldl (fun r f => match r with | some d => some d | none => f ()) none

/-! ### Variants at run time (R141) -/

/-- Whether a variant covers a shape. -/
def covers (b : List Byte) (shape : List Nat) (i : Nat) : Bool := (List.zip (varDims b i) shape).all (fun x => decide (x.2 ≤ x.1))

/-- The product of a variant's dimensions, a 0 counted as 1. -/
def bucketSize (b : List Byte) (i : Nat) : Nat := (varDims b i).foldl (fun n d => n * max d 1) 1

/-- The variant for a shape: the smallest eligible product, a tie to the lowest index. -/
def selectVariant (b : List Byte) (shape : List Nat) : Option Nat :=
  let l := (List.range (pkVariants b)).filter (covers b shape)
  let best := (l.map (bucketSize b)).foldl min (bucketSize b (l.headD 0))
  l.find? (fun i => decide (bucketSize b i = best))

end Sys2Proof.Machine
end

