-- ==== Sys2Proof/Machine/Jobs.lean ====
section
/-! DEFINITION. Machine/Jobs.lean: jobs from admission to end (R219, R258, R259, R277 to R279, R322, R323): admission, the pull, the
start on each core, the end, and the end of jobs that are stopped from outside (R290, Table 17.5). -/
namespace Sys2Proof.Machine
open Sys2Proof

/-! ### Admission (R277) -/

/-- The engine is islanded. -/
def islanded (s : State) : Bool := decide (s.links.sys = 3)

/-- The program slot of a handle, where the handle is not stale (R256, R261). -/
def progOf (s : State) (handle : Nat) : Option ProgSlot :=
  let x := s.host.slots[(fin 64 handle : Fin 64)]
  if x.part.isSome ∧ x.count = handle / 64 then some x else none

/-- A packet's program handle. -/
def pktHandle (b : List Byte) : Nat := pkt b 64 32
/-- A packet's actual shape. -/
def pktShape (b : List Byte) : List Nat := (List.range 4).map (fun d => pkt b (96 + 16 * d) 16)
/-- The fids that a packet uses. -/
def pktFids (b : List Byte) : List Nat := (List.range 8).filterMap (fun i => (pktRef b i).map (fun r => r.1))

/-- A tag's fault flag. -/
def tagFault (s : State) (tag : Nat) : Bool := match tagOf s tag with | some t => t.fault | none => false

/-- Clear a tag's fault flag. -/
def clearTagFault (tag : Nat) (s : State) : State :=
  { s with host := { s.host with tags := s.host.tags.map (fun t => if t.tag = tag then { t with fault := false } else t) } }

/-- The first check of Table 12.7 that a packet fails, with its status. -/
def admissionCheck (s : State) (p : PartId) (b : List Byte) : Option (Nat × Nat) :=
  let tag := pkt b 0 14
  if pkt b 22 2 ≠ 0 ∨ pkt b 62 2 ≠ 0 then some (1, stBadArg)
  else if ¬ tagHeld s.host.parts[p] tag then some (2, stDenied)
  else if tagFault s tag ∧ pkt b 20 1 = 0 then some (3, stDenied)
  else if (progOf s (pktHandle b)).isNone then some (4, stBadArg)
  else if (pktFids b).any (fun fid => (findReg s p fid).isNone) then some (5, stBadArg)
  else if ¬ (validEntries s).any (fun e => enServes e (entryBits s e) p (pkt b 16 4)) then some (6, stDenied)
  else if islanded s ∧ ((progOf s (pktHandle b)).any (fun x => !(pkLocal x.package)) ∨
      (pktFids b).any (fun fid => (findProxy s p fid).isSome)) then some (7, stPartitioned)
  else none

/-- The waits of a packet, extended now (R284). -/
def pktWaits (s : State) (p : PartId) (b : List Byte) : List FenceWait :=
  (List.range 4).filterMap (fun i => (pktRef b i).bind (fun r => (fenceKey s p r.1).bind (fun k =>
    (fenceNow s k).map (fun cur => { key := k, target := extendRef cur.1 r.2 }))))

/-- The fences of a packet's waits are used, refs 0 to 3 in order. -/
def useWaits (p : PartId) (b : List Byte) (s : State) : State :=
  forAll ((List.range 4).filterMap (fun i => (pktRef b i).bind (fun r => fenceKey s p r.1))) useKey s

/-- Read packet k of a queue. -/
def readPacket (q : HostQueue) (k : Nat) (s : State) : Option (List Byte) × State :=
  match hostTranslate q.part q.secure q.asid (q.sq + 64 * (k % 2 ^ q.log2n)) false s with
  | (none, s) => (none, s)
  | (some spa, s) =>
    match meetsErr .packet s with
    | (true, s) => (none, s)
    | (false, s) => (some (memBytes s.dram spa 64), s)

/-- JOB_ADMISSION: the oldest unpulled packet of an enabled queue is read and checked. A packet that cannot be read leaves its
queue in the error state (log 29). -/
def jobAdmission (qid : Nat) (s : State) : State :=
  match findQueue s qid with
  | none => s
  | some q =>
    if q.state ≠ .enabled ∨ q.head.isSome ∨ q.submitted ≤ q.pulled then s
    else
      match readPacket q q.pulled s with
      | (none, s) => settle (queueError q 0 (q.sq + 64 * (q.pulled % 2 ^ q.log2n)) s)
      | (some b, s) =>
        match admissionCheck s q.part b with
        | some (n, st) => settle (headEnd q b { st := st, detail := n } s)
        | none =>
          let s := useWaits q.part b (if pkt b 20 1 = 1 then clearTagFault (pkt b 0 14) s else s)
          settle (modQueue qid (fun q => { q with head := some { packet := b, waits := pktWaits s q.part b } }) s)

/-- JOB_ADMISSION. -/
def execJobAdmission (qid : Byte) (s : State) : Host.Outcome State Fault Refusal := .next (jobAdmission qid.toNat s)

/-! ### The pull (R278, R322) -/

/-- What a pulled job will run: its program, variant, cores and twins. -/
structure StartPlan where
  prog : ProgSlot
  variant : Nat
  cores : List CoreId
  twins : List (CoreId × CoreId)
  deriving DecidableEq, Repr

/-- The twin of a core (Table 14.8). -/
def twinOf (s : State) (c : CoreId) : Option CoreId :=
  let v := fld s.safety.dualMap (3 * c.val) 3
  if h : v < 6 then some ⟨v, h⟩ else none

/-- The buffer-table indices that a variant marks written. -/
def writtenOf (b : List Byte) (i : Nat) : List Nat :=
  ((varBufs b i).filter (fun j => decide (bits b (bufAt b j) 8 39 1 = 1))).map (fun j => bits b (bufAt b j) 8 32 6)

/-- Whether primaries and twins satisfy R322. -/
def twinsOk (s : State) (w : BitVec 128) (cores : List CoreId) (twins : List CoreId) : Bool :=
  decide (twins.length = cores.length) && twins.all (fun t => inService s t && enCore w t && decide (t ∉ cores))
    && decide twins.Nodup
    && (List.zip cores twins).all (fun x => (List.zip cores twins).all (fun y : CoreId × CoreId =>
      decide (x.1 = y.1) || decide (ringNext s x.1 ≠ y.1) || decide (ringNext s x.2 = y.2)))

/-- What a pull finds: a status with the variant it selected (plus one), or a plan. -/
def pullPlan (s : State) (e : EntryId) (b : List Byte) : Except (Nat × Nat) StartPlan :=
  let w := entryBits s e
  match progOf s (pktHandle b) with
  | none => .error (stBadArg, 0)
  | some prog =>
    let pk := prog.package
    match selectVariant pk (pktShape b) with
    | none => .error (stNoBucket, 0)
    | some i =>
      let cores := (List.finRange 6).filter (fun c : CoreId => (varProg pk i c.val).isSome)
      let dual := pkSafety pk && enSafety w
      let twins := cores.filterMap (twinOf s)
      if cores.any (fun c => !(enCore w c) || !(inService s c)) then .error (stDenied, i + 1)
      else if enSafety w ∧ ¬ pkSafety pk then .error (stDenied, i + 1)
      else if dual ∧ (writtenOf pk i).any (fun j => decide (32 ≤ j)) then .error (stBadArg, i + 1)
      else if dual ∧ ¬ twinsOk s w cores twins then .error (stDenied, i + 1)
      else .ok { prog := prog, variant := i, cores := cores, twins := if dual then List.zip cores twins else [] }

/-- A core that can take a job of a partition: it runs and holds at most a job of another partition that has been handed over,
or it is halted by a snuff of cause 1 or 5 under jobs that wait (R221, R303, R306). -/
def coreTakes (s : State) (p : PartId) (c : CoreId) : Bool :=
  let js := activeOn s c
  (coreLive s c && js.all (fun j => decide (j.part ≠ p) && j.cores.any (fun x => decide (x.core = c) && x.handed)))
    || (match (s.cores[c]).phase with
        | .halted h => isSnuff h && decide (fld h.detail 0 4 = 1 ∨ fld h.detail 0 4 = 5) && !js.isEmpty
            && js.all (fun j => decide (j.phase = .paused ∨ j.phase = .demotedPaused))
        | _ => false)

/-- The Lamplighter puts a pre-empted job's context on a core aside (R221; log 27). -/
def saveCore (c : CoreId) (s : State) : State :=
  let k := s.cores[c]
  if ¬ coreHalted k then s
  else
    let x : SavedCore := {
        core := c, ctl := k.ctl, sc := k.sc, toks := k.toks, queues := k.queues, mx := k.mx, vx := k.vx, wx := k.wx, dx := k.dx, fx := k.fx,
        halt := k.halt, phase := k.phase }
    modCore c (fun k => { k with
      phase := .live
      halt := { k.halt with info := k.halt.info &&& 0x7FFFFFFF }
      mx := { mxResetCore k.mx with cursor := k.mx.cursor }
      vx := vecResetCore k.vx
      wx := vecResetCore k.wx
      dx := dxResetCore k.dx
      fx := fxResetCore k.fx
      queues := k.queues.map (fun q => { q with slots := [], fptrA := q.wptrA, fptrB := q.wptrB, ignoring := false }) })
      (modJob k.ctl.job (fun j => { j with saved := x :: j.saved }) s)

/-! ### Program segments and banks (R256, R258) -/

/-- The offset of a section's copy in its package's program-store copy: control segments follow each other. -/
def storeOff (b : List Byte) (j : Nat) : Nat :=
  (((List.range j).filter (fun i => decide ((sect b i).kind = 1))).map (fun i => (sect b i).len)).foldl (· + ·) 0

/-- The time that a bank write and its check take: free within the bound of R412 (R258, log 7). -/
def bankTime (n : Nat) : Nat := min (nsec (Config.bankWrite n)) (nsec 500 + nsec 5500 * n / 131072)

/-- The Lamplighter copies a segment from the program store into a bank and checks it; the time passes on the core (R258, R304). A copy that
meets an uncorrectable word cannot pass its check (R320, log 38). -/
def fillBank (c : CoreId) (bank : Bool) (handle : Nat) (prog : ProgSlot) (j : Nat) (s : State) : Bool × State :=
  let bs := memBytes s.staging (prog.store + storeOff prog.package j) (sect prog.package j).len
  let bad := meetsPoison s .staging (prog.store + storeOff prog.package j) bs.length
  let s := spend c (bankTime bs.length) (freshWords (.bank c bank) [(0, bs.length)] (modBank c bank (fun m => memStore m 0 bs) s))
  if ¬ bad ∧ (crc32c bs).toNat = (sect prog.package j).crc then (true, tagBank c bank (some (handle, j)) s)
  else (false, tagBank c bank none s)

/-- The active bank changes (R243). -/
def flipBank (c : CoreId) (s : State) : State :=
  modCtl c (fun x => { x with active := !x.active, ready := false, seen := true }) s

/-- The active bank comes to hold a segment, or its copy fails its check (R258). -/
def placeSegment (c : CoreId) (handle : Nat) (prog : ProgSlot) (j : Nat) (s : State) : Bool × State :=
  let k := s.cores[c]
  let a := k.ctl.active
  if bankTag k a = some (handle, j) then (true, s)
  else if bankTag k (!a) = some (handle, j) ∧ k.ctl.ready then (true, flipBank c s)
  else
    match fillBank c (!a) handle prog j (modCtl c (fun x => { x with ready := false }) s) with
    | (true, s) => (true, flipBank c s)
    | (false, s) => (false, s)

/-! ### The start on a core (R219) -/

/-- The first declared buffer of a variant that its binding does not fill (R142, R261): its index and declared size. -/
def bucketBad (b : List Byte) (i : Nat) (buffers : List (Nat × Nat)) (twin : Bool) : Option (Nat × Nat) :=
  ((varBufs b i).map (fun j =>
    let n := bits b (bufAt b j) 8 32 6
    let n := if twin ∧ bits b (bufAt b j) 8 39 1 = 1 then n + 32 else n
    let bound := (buffers[n]?).getD (0, 0)
    let size := num b (bufAt b j) 4
    if bound.2 < 4096 * size ∨ (bits b (bufAt b j) 8 38 1 = 1 ∧ bound.1 % 4096 ≠ 0) then some (n, size) else none)).findSome? id

/-- The shape record of R143 and R259. -/
def shapeRecord (shape : List Nat) (variant : Nat) : List Byte :=
  shape.flatMap (leBytes 2) ++ leBytes 1 variant ++ List.replicate 7 0#8

/-- The counters of a partition's range are zero. -/
def clearRange (a : Alloc) (v : Vector Half 64) : Vector Half 64 :=
  v.mapFinIdx (fun i x _ => if a.tokBase.toNat ≤ i ∧ i < a.tokBase.toNat + a.tokCount.toNat then 0 else x)

/-- Steps 2 to 6 of R219 on one core; src is the core whose program it runs: itself, or its primary. -/
def startOn (j : Job) (prog : ProgSlot) (c src : CoreId) (s : State) : State :=
  let s := saveCore c s
  let s := modCtl c (fun x => { x with
      running := false, job := j.id, part := j.part, tag := j.tag, wait := .none, ended := false, overran := false, seen := false, seg := none }) s
  match bucketBad prog.package j.variant j.buffers (decide (c ≠ src)) with
  | some (n, size) =>
    raiseHalt c (haltCond 0x16 6 0 (put 0 j.variant ||| put 4 n ||| put 12 (min size 0xFFFFF))) s
  | none =>
    let handle := pktHandle j.packet
    let clearBit (q : EngQueue) : EngQueue := { q with overrun := q.overrun &&& ~~~ (BitVec.ofNat 8 (2 ^ j.part.val)) }
    let s := freshWords (.dmem c) [(pkShapeOff prog.package, 16)] <| freshWords (.dmem c) [(pkBaseOff prog.package, 8)] <|
      progress c <| modCore c (fun k => { k with
      toks := clearRange k.allocs[j.part] k.toks
      sc := Vector.replicate 16 0
      queues := k.queues.map clearBit
      mem := { k.mem with dmem := memStore (memStore k.mem.dmem (pkShapeOff prog.package)
        (shapeRecord (pktShape j.packet) j.variant)) (pkBaseOff prog.package) (leBytes 8 prog.va) } }) s
    match varProg prog.package j.variant src.val with
    | none => s
    | some seg =>
      match placeSegment c handle prog seg s with
      | (true, s) => modCtl c (fun x => { x with
          running := true, seg := some (handle, seg), addr := BitVec.ofNat 18 (b2n x.active * 2 ^ 17) }) s
      | (false, s) => failJob j.id { halt := 0, fc := 1, detail := 0 } s

/-- The buffer table of a job: address and bytes of each entry; a table that cannot be read binds no buffer (log 29). The fields that
Table 12.6's text calls zero, [63:48] and [127:96] of an entry, are ignored (DESIGN CHOICE, log 87). -/
def bufferTable (q : HostQueue) (b : List Byte) (s : State) : List (Nat × Nat) × State :=
  match hostReadFor .table s q.secure q.asid (pkt b 24 38 * 1024) 1024 with
  | (none, s) => (List.replicate 64 (0, 0), s)
  | (some t, s) => ((List.range 64).map (fun i =>
      (leNat ((t.drop (16 * i)).take 6), leNat ((t.drop (16 * i + 8)).take 4) * 4096)), s)

/-- A planned job starts on its cores and on their twins (R278, R322). -/
def startJob (e : EntryId) (q : HostQueue) (b : List Byte) (plan : StartPlan) (s : State) : State :=
  let bt := bufferTable q b s
  let s := bt.2
  let runs : List (CoreId × CoreId) := plan.cores.map (fun c => (c, c)) ++ plan.twins.map (fun t => (t.2, t.1))
  let j : Job := {
      id := s.host.nextJob, qid := q.qid, seq := q.pulled, part := q.part, asid := q.asid, secure := q.secure, tag := BitVec.ofNat 14 (pkt b 0 14),
      irq := decide (pkt b 21 1 = 1), packet := b, slot := pktHandle b % 64, variant := plan.variant, entry := entryName e,
      cores := runs.map (fun r => { core := r.1, ended := false, handed := false }), twins := plan.twins, fail := none, phase := .running,
      start := s.time, buffers := bt.1, written := writtenOf plan.prog.package plan.variant, saved := [] }
  let s := { s with
    host := { s.host with
      jobs := s.host.jobs ++ [j]
      nextJob := s.host.nextJob + 1
      rrLast := updAt s.host.rrLast q.part (fun _ => q.qid) } }
  let s := modQueue q.qid (fun q => { q with head := none, pulled := q.pulled + 1 }) s
  forAll runs (fun r => startOn j plan.prog r.1 r.2) s

/-- JOB_PULL: core c, the pulling core of a running entry, takes the head of queue qid. -/
def jobPull (c : CoreId) (qid : Nat) (s : State) : State :=
  match (List.finRange 65).find? (fun e : EntryId => mayPull s e && decide (pullingCore s e = some c)) with
  | none => s
  | some e =>
    match (choosePull s e).bind (fun q => q.head.map (fun h => (q, h))) with
    | none => s
    | some (q, h) =>
      if q.qid ≠ qid ∨ ¬ coreTakes s q.part c then s
      else
        match pullPlan s e h.packet with
        | .error (st, variant) =>
          let s := { s with host := { s.host with rrLast := updAt s.host.rrLast q.part (fun _ => q.qid) } }
          settle (headEnd q h.packet { st := st, variant := variant } s)
        | .ok plan =>
          if (plan.cores ++ plan.twins.map (fun t => t.2)).all (coreTakes s q.part) then endIdles (startJob e q h.packet plan s) else s

/-- JOB_PULL. -/
def execJobPull (c : CoreId) (qid : Byte) (s : State) : Host.Outcome State Fault Refusal := .next (jobPull c qid.toNat s)

/-! ### Switch points of a long program (R243, R258) -/

/-- The section that follows the program's segment. -/
def nextSection (s : State) (c : CoreId) : Option (Nat × Nat) :=
  ((s.cores[c]).ctl.seg).bind (fun t => (progOf s t.1).bind (fun x => (nextSeg x.package t.2).map (fun j => (t.1, j))))

/-- BANK_SWITCH_POINT: at an address, the program waits for its next segment; without one the core halts there (R243). -/
def execBankSwitchPoint (c : CoreId) (point : SwitchPoint) (target : BitVec 17) (s : State) : Host.Outcome State Fault Refusal :=
  .next (
    if ¬ ctlRuns s c then s
    else match nextSection s c with
      | some t => switchPoint c t target s
      | none => raiseHalt c (haltCond 0x01 5 0 (BitVec.ofNat 32 point.word)) (modCtl c (fun x => { x with addr := point.addr }) s))

/-- The Lamplighter's bank write for core c ends (R258): the next segment stands in the inactive bank, where the loader's writes or a copy
from the program store have put it, and ready is set; a copy that fails its check leaves ready 0 and fails the job, and the bank is
empty, so that the next job's start copies the segment again. Without a next segment the bank's own check has passed (R242). -/
def bankReady (c : CoreId) (s : State) : State :=
  let k := s.cores[c]
  let bank := !k.ctl.active
  match (nextSection s c).bind (fun t => (progOf s t.1).map (fun x => (t, x))) with
  | none => modCtl c (fun x => { x with ready := true }) s
  | some (t, x) =>
    if memBytes (bankMem k bank) 0 (sect x.package t.2).len = sectBytes x.package t.2 then
      modCtl c (fun x => { x with ready := true }) (tagBank c bank (some t) s)
    else
      match fillBank c bank t.1 x t.2 (modCtl c (fun x => { x with ready := false }) s) with
      | (true, s) => modCtl c (fun x => { x with ready := true }) s
      | (false, s) => failJob k.ctl.job { halt := 0, fc := 1, detail := 0 } s

/-- BANK_READY: the Lamplighter's bank write passes its CRC check. -/
def execBankReady (c : CoreId) (s : State) : Host.Outcome State Fault Refusal :=
  .next (if ¬ inService s c then s else bankReady c s)

/-! ### The end of a job (R279) -/

/-- A command of a job. -/
def ofJob (id : Nat) (x : Option EngCmd) : Bool := x.any (fun m => decide (m.job = id))

/-- Whether nothing of a job is left in the queues and engines of a core. -/
def noWork (k : Core) (id : Nat) : Bool :=
  k.queues.toList.all (fun q => q.slots.all (fun x => x.taken || decide (x.job ≠ id)))
    && !(ofJob id k.mx.taken) && k.mx.started.all (fun m => decide (m.cmd.job ≠ id))
    && !(ofJob id k.vx.taken) && !(ofJob id k.vx.parked) && !(ofJob id (k.vx.run.map (fun r => r.cmd)))
    && !(ofJob id k.wx.taken) && !(ofJob id k.wx.parked) && !(ofJob id (k.wx.run.map (fun r => r.cmd)))
    && k.dx.chans.toList.all (fun x => !(ofJob id x.waiting) && !(ofJob id x.parked) && !(ofJob id (x.run.map (fun r => r.cmd))))
    && !(ofJob id k.fx.taken) && !(ofJob id k.fx.parked) && !(ofJob id (k.fx.run.map (fun r => r.cmd)))

/-- Whether a job's part on a core is over. -/
def partOver (s : State) (j : Job) (x : JobCore) : Bool :=
  let k := s.cores[x.core]
  x.ended || (decide (j.saved.all (fun y => y.core ≠ x.core)) && noWork k j.id
    && (x.handed || (decide (k.ctl.job = j.id) && k.ctl.ended)))

/-- Whether a job's failure stops it: any but an overrun of queue words seen at the hand-over of a core (R219). -/
def failStops (j : Job) : Bool := j.fail.any (fun f => decide (f.halt ≠ 0 ∨ f.fc ≠ 0))

/-- Whether a job can end: every part is over; a failed job's cores have been reset. -/
def jobOver (s : State) (j : Job) : Bool :=
  if failStops j then j.cores.all (fun x => x.ended) else j.cores.all (partOver s j)

/-- The first pair of signatures of a dual run that differ (R323): primary core, buffer, channel. -/
def dualDiffers (s : State) (j : Job) : Option (CoreId × Nat × Nat) :=
  let sig (c : CoreId) (b ch : Nat) : Option Word :=
    (s.safety.duals.find? (fun d => decide (d.1 = j.id ∧ d.2.1 = c ∧ d.2.2.1 = b ∧ d.2.2.2.1 = ch))).map (fun d => d.2.2.2.2)
  (j.twins.flatMap (fun t => (List.range 32).flatMap (fun b => (List.range 4).map (fun ch =>
    if sig t.1 b ch = sig t.2 b ch then none else some (t.1, b, ch))))).findSome? id

/-- The control cores of a job forget it. -/
def releaseCores (j : Job) (s : State) : State :=
  forAll j.cores (fun x => modCore x.core (fun k => if k.ctl.job = j.id then
    { k with ctl := { k.ctl with job := 0, ended := false, overran := false, running := false, wait := .none, seg := none } } else k)) s

/-- Free a program slot and its store; every bank with one of its segments is empty (R262). -/
def unloadSlot (i : Fin 64) (s : State) : State :=
  let h := (s.host.slots[i]).count * 64 + i.val
  let gone (t : Option (Nat × Nat)) : Bool := t.any (fun x => decide (x.1 = h))
  let s := forAll (List.finRange 6) (fun c => modCore c (fun k => { k with
    ctl := { k.ctl with ready := k.ctl.ready && !(gone (bankTag k (!k.ctl.active))) }
    bankSeg := k.bankSeg.map (fun t => if gone t then none else t) })) s
  { s with host := { s.host with slots := updAt s.host.slots i (fun x => { ProgSlot.reset with count := x.count }) } }

/-- Whether a started job is of a program slot. -/
def slotInUse (s : State) (i : Nat) : Bool := s.host.jobs.any (fun j => decide (j.slot = i))

/-- A queue whose destruction waits goes once its last pulled job has ended (R291). -/
def finishDestroy (qid : Nat) (s : State) : State :=
  match findQueue s qid with
  | none => s
  | some q =>
    match q.destroy with
    | none => s
    | some m =>
      if s.host.jobs.any (fun j => decide (j.qid = qid)) then s
      else reply m stOk 0 [] { s with host := { s.host with queues := s.host.queues.filter (fun x => decide (x.qid ≠ qid)) } }

/-- A demoted job that has ended runs no more: its entry shows guttered (Table 13.6). -/
def leaveDemoted (j : Job) (s : State) : State :=
  if j.phase = .demoted then modRun (entryOf j) (fun r => { r with state := if r.state = .demoted then .guttered else r.state }) s else s

/-- A job is over: its entry, signals and interrupt (R279), its cores free. The signalled records are not written through yet. -/
def jobOut (j : Job) (c : Completion) (s : State) : State :=
  let illegal := decide (c.halt = 1)
  let c := { c with variant := j.variant + 1, elapsed := (s.time - j.start) / us 1 }
  let s := jobFinish j.part j.qid j.seq j.packet true c (leaveDemoted j (releaseCores j s))
  let s := { s with
    host := { s.host with jobs := s.host.jobs.filter (fun x => decide (x.id ≠ j.id)) }
    safety := { s.safety with duals := s.safety.duals.filter (fun d => decide (d.1 ≠ j.id)) } }
  if illegal ∧ (progOf s (pktHandle j.packet)).isSome ∧ ¬ slotInUse s j.slot then unloadSlot (fin 64 j.slot) s else s

/-- A job is over, and what waited for it goes on. -/
def jobComplete (j : Job) (c : Completion) (s : State) : State := finishDestroy j.qid (settle (writeBackAll s (jobOut j c s)))

/-- The completion of a job whose cores gave it a failure, or none. -/
def failCompletion (f : Option JobFail) : Completion :=
  match f with
  | none => {}
  | some f => { failed := true, halt := f.halt, fc := f.fc, detail := f.detail }

/-- A dual run's failure (R323): the record, the count, and a lamp test of the cores' arrays before their next command. -/
def dualFailed (j : Job) (detail : Nat) (s : State) : State :=
  let c : CoreId := ((j.twins.map (fun t => t.1)).head?).getD 0
  let s := postFor j.id {
      code := 0x06, fc := 1, toPart := some j.part, part := j.part.val, job := jobRec j, unit := 1, index := c.val, detail := detail } s
  let s := { s with safety := { s.safety with dualFail := satAdd s.safety.dualFail 1 } }
  forAll j.cores (fun x => modCore x.core (lampDue s.time 0)) s

/-- JOB_END: a job's program has ended and its commands have completed on every core, or its failed cores are reset. -/
def jobEnd (id : Nat) (s : State) : State :=
  match findJob s id with
  | none => s
  | some j =>
    if ¬ jobOver s j then s
    else
      let overrunSeen := j.cores.any (fun x => decide ((s.cores[x.core]).ctl.job = id) && (s.cores[x.core]).ctl.overran)
      let fail := j.fail.orElse (fun _ => if overrunSeen then some { halt := 0, fc := 0, detail := 0 } else none)
      if j.twins = [] ∨ fail.any (fun f => decide (f.halt = 0x14)) then jobComplete j (failCompletion fail) s
      else
        match fail, dualDiffers s j with
        | some _, _ => jobComplete j { failed := true, fc := 1 } (dualFailed j 0 s)
        | none, some (c, b, ch) =>
          let d := b + ch * 2 ^ 8 + c.val * 2 ^ 10
          jobComplete j { failed := true, fc := 1, detail := d } (dualFailed j d s)
        | none, none => jobComplete j {} s

/-- JOB_END. -/
def execJobEnd (job : Nat) (s : State) : Host.Outcome State Fault Refusal := .next (jobEnd job s)

/-! ### Jobs stopped from outside -/

/-- The detail of the first of a job's cores that a snuff has halted, with the cause of the stop: a job that was paused had
been snuffed with another. -/
def snuffDetail (s : State) (cores : List CoreId) (cause : Nat) : Nat :=
  (cores.findSome? (fun c => match (s.cores[c]).phase with
    | .halted h => if isSnuff h then some (h.detail.toNat / 16 * 16) else none
    | _ => none)).getD 0 + cause

/-- Stop a started job: its cores are snuffed with a cause and reset, and it fails with halt HALT_SNUFFED and a class (R290 step 2,
R399, R404). -/
def stopJob (cause fc : Nat) (j : Job) (s : State) : State :=
  let on := (j.cores.map (fun x => x.core)).filter (partActive j)
  let s := forAll on (fun c => snuffNow c cause) s
  let f := j.fail.getD { halt := 0x0F, fc := fc, detail := snuffDetail s on cause }
  forAll on ensureReset (modJob j.id (fun j => { j with fail := some f, saved := [] }) s)

/-- Jobs that have been stopped end, those of a lower qid first, all in one cycle (R289). -/
def endJobs (js : List Job) (s : State) : State :=
  let js := sortBy (fun j => j.qid) js
  let t := forAll js (fun j s => match findJob s j.id with | some x => jobOut x (failCompletion x.fail) s | none => s) s
  forAll js (fun j => finishDestroy j.qid) (settle (writeBackAll s t))

/-- Stop jobs and end them. -/
def killJobs (js : List Job) (cause fc : Nat) (s : State) : State := endJobs js (forAll js (stopJob cause fc) s)

/-- Packet k of a queue is discarded: its used signal refs carry the error (R290 step 3). -/
def discardPacket (q : HostQueue) (k : Nat) (s : State) : State :=
  match (if k = q.pulled then q.head.map (fun h => h.packet) else none), readPacket q k s with
  | some b, _ => signalRefs q.part b true s
  | none, (some b, s) => signalRefs q.part b true s
  | none, (none, s) => s

/-- Every unpulled packet of some queues is discarded, those of a lower qid first (R289). -/
def discardQueues (qs : List HostQueue) (s : State) : State :=
  writeBackAll s (forAll (sortBy (fun q => q.qid) qs) (fun q s =>
    let s := forAll ((List.range (q.submitted - q.pulled)).map (fun i => q.pulled + i)) (discardPacket q) s
    modQueue q.qid (fun q => { q with pulled := q.submitted, head := none }) s) s)

/-- Every unpulled packet of a queue is discarded. -/
def discardQueue (q : HostQueue) (s : State) : State := discardQueues [q] s

/-- A queue is disabled: doorbells to it are ignored. -/
def disableQueue (qid : Nat) (s : State) : State :=
  modQueue qid (fun q => { q with state := if q.state = .enabled then .disabled else q.state }) s

end Sys2Proof.Machine
end

