-- ==== Sys2Proof/Machine/Host.lean ====
section
/-! DEFINITION. Machine/Host.lean: what a partition asks for through its mailbox and page: the capability table (R293), queues (R274,
R275, R291), address spaces (R270, R273, R290), packages (R255, R256, R262), fence registrations (R283, R346), doorbells, the
fence port, translation invalidations and the fault ring (R288, R292, R294). -/
namespace Sys2Proof.Machine
open Sys2Proof

/-- An argument of a request. -/
def arg (b : List Byte) (off n : Nat) : Nat := frameNum b off n
/-- byte 4: asid. -/
def argAsid (b : List Byte) : Nat := arg b 4 1

/-! ### The capability table -/

/-- MB_CAPS_READ: a snapshot of the table goes to the requested buffer. -/
def mbCapsRead (m : MboxId) (p : PartId) (b : List Byte) (s : State) : State :=
  let x := s.host.parts[p]
  let t := hostTranslate p x.secure (argAsid b) (arg b 8 8) true s
  match t.1 with
  | none => reply m stBadArg 0 [] t.2
  | some spa => reply m stOk 0 (leBytes 4 s.host.genCount.toNat) (storeAfter spa (capsTable s) t.2)

/-- MB_CAPS_READ. -/
def execMbCapsRead (s : State) : Host.Outcome State Fault Refusal := .next (serve 0x01 none mbCapsRead s)

/-! ### Queues -/

/-- The lowest number below n that is not in a list. -/
def lowestFree (used : List Nat) (n : Nat) : Option Nat := (List.range n).find? (fun i => decide (i ∉ used))

/-- MB_QUEUE_CREATE. -/
def mbQueueCreate (m : MboxId) (p : PartId) (b : List Byte) (s : State) : State :=
  let x := s.host.parts[p]
  let mine := s.host.queues.countP (fun q => decide (q.part = p))
  match lowestFree (s.host.queues.map (fun q => q.qid)) 256 with
  | none => reply m stNoResource 0 [] s
  | some qid =>
    if x.queueQuota ≤ mine then reply m stNoResource 0 [] s
    else
      let q : HostQueue := {
          qid := qid, part := p, asid := argAsid b, secure := x.secure, sq := arg b 8 8, cq := arg b 16 8, log2n := arg b 24 1, state := .enabled,
          submitted := 0, pulled := 0, head := none, destroy := none }
      reply m stOk 0 (leBytes 1 qid) { s with host := { s.host with queues := s.host.queues ++ [q] } }

/-- MB_QUEUE_CREATE. -/
def execMbQueueCreate (s : State) : Host.Outcome State Fault Refusal := .next (serve 0x20 none mbQueueCreate s)

/-- MB_QUEUE_DESTROY: an unknown queue is a bad argument; one whose destruction already waits is in use (log 31). The reply
waits for the queue's pulled jobs. -/
def mbQueueDestroy (m : MboxId) (p : PartId) (b : List Byte) (s : State) : State :=
  match findQueue s (arg b 8 1) with
  | none => reply m stBadArg 0 [] s
  | some q =>
    if q.part ≠ p then reply m stDenied 0 [] s
    else if q.destroy.isSome then reply m stResourceBusy 0 [] s
    else
      let s := settle (discardQueue q (disableQueue q.qid s))
      finishDestroy q.qid (modQueue q.qid (fun q => { q with destroy := some m }) s)

/-- MB_QUEUE_DESTROY. -/
def execMbQueueDestroy (s : State) : Host.Outcome State Fault Refusal := .next (serve 0x21 none mbQueueDestroy s)

/-- A write of PT_DOORBELL (R275). -/
def doorbellWrite (p : PartId) (val : Word) (s : State) : State :=
  let reject (s : State) : State := setPtInt p 0b10000 (modPart p (fun x => { x with dbReject := satAdd x.dbReject 1 }) s)
  match findQueue s (fld val 0 8) with
  | none => reject s
  | some q =>
    let d := (fld val 16 16 + 65536 - q.submitted % 65536) % 65536
    if d = 0 then s
    else if q.state ≠ .enabled ∨ q.part ≠ p ∨ 2 ^ q.log2n < q.submitted + d - q.pulled then reject s
    else modQueue q.qid (fun q => { q with submitted := q.submitted + d }) s

/-- DOORBELL. -/
def execDoorbell (acc : Access) (p : PartId) (val : Word) (s : State) : Host.Outcome State Fault Refusal :=
  .next (access acc (pageOff p 0x200) true (doorbellWrite p val) s)

/-! ### Address spaces -/

/-- MB_ASID_ATTACH: the ASID takes the partition's world. -/
def mbAsidAttach (m : MboxId) (p : PartId) (b : List Byte) (s : State) : State :=
  if s.host.asids.any (fun a => decide (a.asid = argAsid b)) then reply m stResourceBusy 0 [] s
  else
    let a : Attach := { asid := argAsid b, part := p, secure := (s.host.parts[p]).secure, root := arg b 8 8 }
    reply m stOk 0 [] { s with host := { s.host with asids := s.host.asids ++ [a] } }

/-- MB_ASID_ATTACH. -/
def execMbAsidAttach (s : State) : Host.Outcome State Fault Refusal := .next (serve 0x30 none mbAsidAttach s)

/-- A fence whose owner is revoked (R290 step 4): err where others use it, and the value at the latest target. -/
def orphanFence (asid : Nat) (p : PartId) (addr : Nat) (s : State) : State :=
  let s := useFence addr s
  match findFence s addr with
  | none => s
  | some f =>
    let others := s.host.regs.any (fun r => decide (r.addr = addr) && r.home.isNone && !(decide (r.part = p ∧ r.asid = asid)))
      || !f.subs.isEmpty
    let target := latestTarget s (.record addr)
    if others ∨ target.isSome then
      let v := match target with | some t => if advances f.value t then t else f.value | none => f.value
      if f.err ∧ v = f.value then s
      else fenceChanged addr (modFence addr (fun x => { x with err := true, value := v, ext := true }) s)
    else s

/-- The oldest registration left of a record takes it over; a record that nobody registers leaves the cache (R283). -/
def passFence (addr : Nat) (s : State) : State :=
  match findFence s addr with
  | none => s
  | some f =>
    let left := s.host.regs.filter (fun r => decide (r.addr = addr) && r.home.isNone)
    if left.any (fun r => decide (r.part = f.ownPart ∧ r.asid = f.ownAsid)) then s
    else
      match left with
      | [] => { s with host := { s.host with fences := s.host.fences.filter (fun x => decide (x.addr ≠ addr) || !x.subs.isEmpty) } }
      | r :: _ =>
        let s := useFence addr s
        writeThrough addr (modFence addr (fun x => { x with ownAsid := r.asid, ownPart := r.part, ownSecure := (s.host.parts[r.part]).secure }) s)

/-- A proxy ends: its home hears UNSUBSCRIBE (R346). -/
def dropProxy (p : PartId) (fid : Nat) (s : State) : State :=
  match findProxy s p fid with
  | none => s
  | some x =>
    let s := if bitAt s.links.members x.engine then sendFence x.part 5 x.engine x.homeFid [] s else s
    { s with host := { s.host with proxies := s.host.proxies.filter (fun y => !(decide (y.part = p ∧ y.fid = fid))) } }

/-- Remove registrations, pass their fences on, end their proxies. -/
def dropRegs (gone : FenceReg → Bool) (s : State) : State :=
  let l := s.host.regs.filter gone
  let s := { s with host := { s.host with regs := s.host.regs.filter (fun r => !(gone r)) } }
  forAll l (fun r s => if r.home.isSome then dropProxy r.part r.fid s else passFence r.addr s) s

/-- Registrations of proxies still under way end with a status. -/
def cancelProxies (gone : Proxy → Bool) (status : Nat) (s : State) : State :=
  let l := s.host.proxies.filter (fun x => x.pending.isSome && gone x)
  let s := { s with host := { s.host with proxies := s.host.proxies.filter (fun x => !(x.pending.isSome && gone x)) } }
  forAll l (fun x s => match x.pending with | some (m, _) => reply m status 0 [] s | none => s) s

/-- The whole ASID leaves the translation caches. -/
def flushAsid (asid : Nat) (s : State) : State :=
  { s with host := { s.host with tlb := s.host.tlb.filter (fun t => decide (t.asid ≠ asid)) } }

/-- Steps 1 to 6 of R290 for an ASID of a partition. -/
def revokeAsid (p : PartId) (asid : Nat) (s : State) : State :=
  let mine (q : HostQueue) : Bool := decide (q.part = p ∧ q.asid = asid)
  let s := match s.host.verify with
    | some v => if v.asid = asid ∧ v.part = p then reply v.mbox stDenied 0 [] { s with host := { s.host with verify := none } } else s
    | none => s
  let s := forAll (s.host.queues.filter mine) (fun q => disableQueue q.qid) s
  let s := killJobs (s.host.jobs.filter (fun j => decide (j.part = p ∧ j.asid = asid))) 2 0 s
  let s := settle (discardQueues (s.host.queues.filter mine) s)
  let s := settle (forAll ((s.host.fences.filter (fun f => decide (f.ownPart = p ∧ f.ownAsid = asid))).map (fun f => f.addr))
    (orphanFence asid p) s)
  let s := dropRegs (fun r => decide (r.part = p ∧ r.asid = asid)) (cancelProxies (fun x => decide (x.part = p ∧ x.asid = asid)) stDenied s)
  let s := forAll ((List.finRange 64).filter (fun i : Fin 64 => decide ((s.host.slots[i]).part = some p ∧ (s.host.slots[i]).asid = asid)))
    unloadSlot s
  let s := modPart p (fun x => if fld x.frCtrl 1 6 = asid then { x with frCtrl := x.frCtrl &&& ~~~ 1#12 } else x) s
  flushAsid asid { s with host := { s.host with asids := s.host.asids.filter (fun a => decide (a.asid ≠ asid)) } }

/-- MB_ASID_REVOKE. -/
def mbAsidRevoke (m : MboxId) (p : PartId) (b : List Byte) (s : State) : State := reply m stOk 0 [] (revokeAsid p (argAsid b) s)

/-- MB_ASID_REVOKE. -/
def execMbAsidRevoke (s : State) : Host.Outcome State Fault Refusal := .next (serve 0x31 none mbAsidRevoke s)

/-- A write of PT_TLB_INV (R273): held behind a running invalidation; an ASID of another partition is ignored. -/
def tlbInvWrite (p : PartId) (val : Word) (s : State) : State :=
  let asid := fld val 0 6
  if ¬ asidOf s p asid then s
  else
    let t : TlbInv := { part := p, asid := asid, all := bitAt val 6, page := (s.host.parts[p]).tlbVa.toNat / 4096 }
    { s with host := { s.host with tlbInv := s.host.tlbInv ++ [t] } }

/-- TLB_INVALIDATE. -/
def execTlbInvalidate (acc : Access) (p : PartId) (val : Word) (s : State) : Host.Outcome State Fault Refusal :=
  .next (access acc (pageOff p 0x600) true (tlbInvWrite p val) s)

/-- Whether an invalidation takes a cached entry: one of its ASID, of any level, that maps its page, or any. -/
def invalidated (t : TlbInv) (e : TlbEntry) : Bool :=
  decide (e.asid = t.asid) && (t.all || decide (e.index = t.page / 512 ^ e.below))

/-- TLB_INVALIDATE_DONE: the oldest invalidation of a partition's page ends: no cached entry of it is used any more. -/
def execTlbInvalidateDone (p : PartId) (s : State) : Host.Outcome State Fault Refusal :=
  .next (
    match s.host.tlbInv.find? (fun t => decide (t.part = p)) with
    | none => s
    | some t => { s with host := { s.host with
        tlbInv := s.host.tlbInv.erase t
        tlb := s.host.tlb.filter (fun e => !(invalidated t e)) } })

/-! ### Packages -/

/-- What the loader reads of a package, each read bounded by the checks before it (R255); none: a page fails. -/
def loadBytes (p : PartId) (asid va limit : Nat) (s : State) : Option (List Byte) × State :=
  let secure := (s.host.parts[p]).secure
  if limit < 128 then (some [], s)
  else
    match hostReadFor .package s secure asid va 128 with
    | (none, s) => (none, s)
    | (some h, s) =>
      if num h 0 4 ≠ 0x4B4D5047 ∨ num h 5 1 ≠ 1 ∨ num h 6 2 ≠ 2 ∨ pkTables h < 128 ∨ pkTables h % 16 ≠ 0 ∨ limit < pkTables h then
        (some h, s)
      else
        match hostRead s secure asid va (pkTables h) with
        | (none, s) => (none, s)
        | (some t, s) => if headerCrc t limit ∧ (layout t limit).isNone then hostRead s secure asid va (pkLen t) else (some t, s)

/-- MB_PROGRAM_LOAD: the package is read and its verification begins; the reply comes with PACKAGE_VERIFY_END. -/
def mbProgramLoad (m : MboxId) (p : PartId) (b : List Byte) (s : State) : State :=
  if s.host.verify.isSome then reply m stBusy 0 [] s
  else
    match loadBytes p (argAsid b) (arg b 8 8) (arg b 16 4) s with
    | (none, s) => reply m stBadArg 0 [] s
    | (some bs, s) =>
      { s with host := { s.host with
        verify := some { mbox := m, req := (mbOf s m).req, part := p, asid := argAsid b, bytes := bs } } }

/-- MB_PROGRAM_LOAD. -/
def execMbProgramLoad (s : State) : Host.Outcome State Fault Refusal := .next (serve 0x40 none mbProgramLoad s)

/-- The bytes of a package's control segments, as the program store holds them. -/
def storeBytes (b : List Byte) : List Byte :=
  ((List.range (pkSections b)).filter (fun j => decide ((sect b j).kind = 1))).flatMap (sectBytes b)

/-- Whether n bytes of staging from a on are the Lamplighter's and free. -/
def storeFree (s : State) (a n : Nat) : Bool :=
  decide (a + n ≤ 0x1000000) && (List.finRange 16).all (fun r : Fin 16 =>
    !(overlaps (r.val * 0x100000) ((r.val + 1) * 0x100000) a (a + n)) || decide ((s.sg.regions[r]).owner = 8))
    && s.host.slots.toList.all (fun x => x.part.isNone || !(overlaps x.store (x.store + (storeBytes x.package).length) a (a + n)))

/-- The lowest place in the program store for n bytes: the start of a region, or after a stored program (log 32). -/
def storePlace (s : State) (n : Nat) : Option Nat :=
  let starts := (List.range 16).map (fun r => r * 0x100000) ++
    (s.host.slots.toList.filter (fun x => x.part.isSome)).map (fun x => x.store + (storeBytes x.package).length)
  let ok := starts.filter (fun a => storeFree s a n)
  match ok with
  | [] => none
  | a :: l => some (l.foldl min a)

/-- A verified package enters a slot (R256). -/
def admitPackage (v : Verify) (s : State) : State :=
  match (List.finRange 64).find? (fun i : Fin 64 => (s.host.slots[i]).part.isNone), storePlace s (storeBytes v.bytes).length with
  | some i, some a =>
    let count := ((s.host.slots[i]).count + 1) % 2 ^ 26
    let x : ProgSlot := { count := count, asid := v.asid, part := some v.part, package := v.bytes, va := arg (reqBytes v.req) 8 8, store := a }
    reply v.mbox stOk 0 (leBytes 4 (count * 64 + i.val)) <| freshWords .staging [(a, (storeBytes v.bytes).length)] { s with
      staging := memStore s.staging a (storeBytes v.bytes)
      host := { s.host with slots := updAt s.host.slots i (fun _ => x) } }
  | _, _ => reply v.mbox stNoResource 0 [] s

/-- PACKAGE_VERIFY_END. -/
def execPackageVerifyEnd (s : State) : Host.Outcome State Fault Refusal :=
  .next (
    match s.host.verify with
    | none => s
    | some v =>
      let s := { s with host := { s.host with verify := none } }
      match verifyPackage s v.part (arg (reqBytes v.req) 16 4) v.bytes with
      | some d => reply v.mbox stVerifyFail d [] s
      | none => admitPackage v s)

/-- MB_PROGRAM_UNLOAD: a handle that is stale, or of another partition, is a bad argument. -/
def mbProgramUnload (m : MboxId) (p : PartId) (b : List Byte) (s : State) : State :=
  let h := arg b 8 4
  match progOf s h with
  | none => reply m stBadArg 0 [] s
  | some x =>
    if x.part ≠ some p then reply m stBadArg 0 [] s
    else if slotInUse s (h % 64) then reply m stResourceBusy 0 [] s
    else reply m stOk 0 [] (unloadSlot (fin 64 h) s)

/-- MB_PROGRAM_UNLOAD. -/
def execMbProgramUnload (s : State) : Host.Outcome State Fault Refusal := .next (serve 0x41 none mbProgramUnload s)

/-! ### Fence registrations -/

/-- The fids that a partition uses, those of proxies under way among them. -/
def usedFids (s : State) (p : PartId) : List Nat :=
  (s.host.regs.filter (fun r => decide (r.part = p))).map (fun r => r.fid)
    ++ (s.host.proxies.filter (fun x => decide (x.part = p) && x.pending.isSome)).map (fun x => x.fid)

/-- A free fid of a partition, within its quota and the engine's 8,192 registrations. -/
def freeFid (s : State) (p : PartId) : Option Nat :=
  let under := s.host.proxies.countP (fun x => x.pending.isSome)
  if (s.host.parts[p]).fenceQuota ≤ (usedFids s p).length ∨ 8192 ≤ s.host.regs.length + under then none
  else lowestFree (usedFids s p) 4095

/-- The results of ops 0 and 3. -/
def fenceResult (fid : Nat) (shared : Bool) : List Byte := leBytes 2 fid ++ leBytes 1 (b2n shared)

/-- A new registration of a record, in order of age. -/
def addReg (p : PartId) (fid asid addr : Nat) (s : State) : State :=
  { s with host := { s.host with regs := s.host.regs ++ [{ part := p, fid := fid, asid := asid, addr := addr, home := none }] } }

/-- Op 0: register a record. -/
def fenceRegister (m : MboxId) (p : PartId) (b : List Byte) (s : State) : State :=
  let asid := argAsid b
  match hostTranslate p (s.host.parts[p]).secure asid (arg b 16 8) true s with
  | (none, s) => reply m stBadArg 0 [] s
  | (some addr, s) =>
    let same := s.host.regs.filter (fun r => decide (r.addr = addr) && r.home.isNone)
    let subs := match findFence s addr with | some f => !f.subs.isEmpty | none => false
    match same.find? (fun r => decide (r.part = p ∧ r.asid = asid)) with
    | some r => reply m stOk 0 (fenceResult r.fid (decide (1 < same.length) || subs)) s
    | none =>
      let raw := memNat s.dram addr 16
      if findFence s addr = none ∧ (raw / 2 ^ 66 % 2 ^ 14 ≠ 0 ∨ raw / 2 ^ 95 ≠ 0) then reply m stBadArg 0 [] s
      else
        match freeFid s p with
        | none => reply m stNoResource 0 [] s
        | some fid =>
          match findFence s addr with
          | some _ => reply m stOk 0 (fenceResult fid true) (addReg p fid asid addr s)
          | none =>
            let f : Fence := {
                addr := addr, value := BitVec.ofNat 64 raw, err := raw.testBit 64, ext := raw.testBit 65, ownAsid := asid, ownPart := p,
                ownSecure := (s.host.parts[p]).secure, ownEngine := s.links.addr.toNat, subs := [], cached := true }
            let s := writeThrough addr { s with host := { s.host with fences := s.host.fences ++ [f] } }
            reply m stOk 0 (fenceResult fid false) (addReg p fid asid addr s)

/-- FENCE_REGISTER. -/
def execFenceRegister (s : State) : Host.Outcome State Fault Refusal := .next (serve 0x50 (some 0) fenceRegister s)

/-- Whether a job of the partition, started or in a queue, names a fid. -/
def fidNamed (s : State) (p : PartId) (fid : Nat) : Bool :=
  s.host.jobs.any (fun j => decide (j.part = p) && decide (fid ∈ pktFids j.packet))
    || s.host.queues.any (fun q => decide (q.part = p) && (
      (match q.head with | some h => decide (fid ∈ pktFids h.packet) | none => false)
      || (List.range (q.submitted - q.pulled)).any (fun i => match (readPacket q (q.pulled + i) s).1 with
          | some b => decide (fid ∈ pktFids b) | none => false)))

/-- Op 1: release a registration. -/
def fenceRelease (m : MboxId) (p : PartId) (b : List Byte) (s : State) : State :=
  let fid := arg b 10 2
  if (findReg s p fid).isNone then reply m stBadArg 0 [] s
  else if fidNamed s p fid then reply m stResourceBusy 0 [] s
  else reply m stOk 0 [] (dropRegs (fun r => decide (r.part = p ∧ r.fid = fid)) s)

/-- FENCE_RELEASE. -/
def execFenceRelease (s : State) : Host.Outcome State Fault Refusal := .next (serve 0x50 (some 1) fenceRelease s)

/-- Op 2: clear err; it takes effect only where its write-through is accepted (R413). A proxy has its owner elsewhere. -/
def fenceClearError (m : MboxId) (p : PartId) (b : List Byte) (s : State) : State :=
  match findReg s p (arg b 10 2) with
  | none => reply m stBadArg 0 [] s
  | some r =>
    let s := useFence r.addr s
    match (if r.home.isSome then none else findFence s r.addr) with
    | none => reply m stDenied 0 [] s
    | some f =>
      if f.ownAsid ≠ argAsid b ∨ f.ownPart ≠ p then reply m stDenied 0 [] s
      else if ¬ f.err then reply m stOk 0 [] s
      else reply m stOk 0 [] (settle (fenceChanged r.addr (modFence r.addr (fun x => { x with err := false, ext := true }) s)))

/-- FENCE_CLEAR_ERROR. -/
def execFenceClearError (s : State) : Host.Outcome State Fault Refusal := .next (serve 0x50 (some 2) fenceClearError s)

/-- Op 3: register a proxy of a fence of another engine; the reply waits for SUB_REPLY (R346). Where the route's port is of the other world, it is
denied (R345, log 101). -/
def fenceRegisterProxy (m : MboxId) (p : PartId) (b : List Byte) (s : State) : State :=
  let home := arg b 9 1
  if home = s.links.addr.toNat then reply m stBadArg 0 [] s
  else if ¬ bitAt s.links.members home ∨ islanded s then reply m stPartitioned 0 [] s
  else if ¬ routeCarries s home p then reply m stDenied 0 [] s
  else
    match freeFid s p with
    | none => reply m stNoResource 0 [] s
    | some fid =>
      let x : Proxy := {
          part := p, fid := fid, asid := argAsid b, engine := home, homeFid := arg b 12 2, value := 0, err := false, pending := some (m, 0) }
      sendFence p 3 home x.homeFid [BitVec.ofNat 8 p.val, BitVec.ofNat 8 (b2n (s.host.parts[p]).secure)]
        { s with host := { s.host with proxies := s.host.proxies ++ [x] } }

/-- FENCE_REGISTER_PROXY. -/
def execFenceRegisterProxy (s : State) : Host.Outcome State Fault Refusal := .next (serve 0x50 (some 3) fenceRegisterProxy s)

/-! ### The fence port, and errors of fence records -/

/-- FENCE_PORT_SIGNAL: a write of PT_FSIG_HI applies the signal that the page's registers hold (R288). -/
def fencePortSignal (p : PartId) (hi : Word) (s : State) : State :=
  let x := s.host.parts[p]
  match fenceKey s p x.fsigId.toNat with
  | none => modPart p (fun x => { x with fsigReject := satAdd x.fsigReject 1 }) s
  | some k => settle (signalKey k (hi ++ x.fsigLo) x.fsigErr true p s)

/-- FENCE_IO_ERROR: the write-through, or the read, of a registered record meets an error response (R413). -/
def execFenceIoError (site : FenceAccess) (s : State) : Host.Outcome State Fault Refusal :=
  .next (
    match findFence s site.addr.toNat with
    | none => s
    | some f => settle (if site.read then fenceUnread f s else fenceFail f s))

/-- FENCE_PORT_SIGNAL. -/
def execFencePortSignal (acc : Access) (p : PartId) (val : Word) (s : State) : Host.Outcome State Fault Refusal :=
  .next (access acc (pageOff p 0x40C) true (fencePortSignal p val) s)

/-! ### The fault ring (R292) -/

/-- A write of PT_FR_CTRL: while the ring is enabled log2n stands; an enable with an ASID that is not attached, or a size out of
range, is ignored with its whole write (log 30); an enable empties the ring. -/
def frCtrlWrite (p : PartId) (val : Word) (s : State) : State :=
  let old := (s.host.parts[p]).frCtrl
  let v : BitVec 12 := val.setWidth 12 &&& 0xF7F
  let v := if bitAt old 0 then (v &&& 0x0FF) ||| (old &&& 0xF00) else v
  if ¬ bitAt v 0 then modPart p (fun x => { x with frCtrl := v }) s
  else if ¬ asidOf s p (fld v 1 6) ∨ fld v 8 4 < 7 ∨ 12 < fld v 8 4 then s
  else modPart p (fun x => { x with frCtrl := v, frHead := 0, frTail := 0 }) s

/-- FAULT_RING_ENABLE. -/
def execFaultRingEnable (acc : Access) (p : PartId) (val : Word) (s : State) : Host.Outcome State Fault Refusal :=
  .next (access acc (pageOff p 0x308) true (frCtrlWrite p val) s)

/-- A write of PT_FR_TAIL: one past PT_FR_HEAD is ignored. -/
def frTailWrite (p : PartId) (val : Word) (s : State) : State :=
  let x := s.host.parts[p]
  if (x.frHead - x.frTail).toNat < (val - x.frTail).toNat then s else modPart p (fun x => { x with frTail := val }) s

/-- FAULT_RING_TAIL_WRITE. -/
def execFaultRingTailWrite (acc : Access) (p : PartId) (val : Word) (s : State) : Host.Outcome State Fault Refusal :=
  .next (access acc (pageOff p 0x310) true (frTailWrite p val) s)

end Sys2Proof.Machine
end

