-- ==== Sys2Proof/Machine/Fabric.lean ====
section
/-! DEFINITION. Machine/Fabric.lean: loading a fabric region (R366 to R372), the configuration scan (R373), user clocks (R365), pins
(R374, R375), timers (R378), block RAM (R364) and claims on shared resources (R376 to R379). -/
namespace Sys2Proof.Machine
open Sys2Proof

/-- Change the fabric. -/
def modFabric (f : Fabric → Fabric) (s : State) : State := { s with fabric := f s.fabric }

/-! ### The container header (Table 16.2) -/

/-- A field of the header. -/
def hd (h : List Byte) (lo len : Nat) : Nat := leNat h / 2 ^ lo % 2 ^ len
/-- reloc. -/
def hdReloc (h : List Byte) : Bool := decide (hd h 96 1 = 1)
/-- uses_fx. -/
def hdFx (h : List Byte) : Bool := decide (hd h 97 1 = 1)
/-- The user clock on line i, 0xFF unused. -/
def hdClk (h : List Byte) (i : Nat) : Nat := hd h (192 + 8 * i) 8

/-- Check 1 and check 3, HDR. -/
def hdrWrong (h : List Byte) : Bool := decide (hd h 0 32 ≠ 0x4241464B ∨ hd h 40 8 ≠ 1 ∨ hd h 48 16 ≠ 2)
/-- Check 3, the rest of HDR. -/
def hdrBad (h : List Byte) (z : RegionId) : Bool :=
  decide (hd h 80 16 ≠ 2560 ∨ hd h 100 4 ≠ 0 ∨ hd h 112 16 ≠ 0 ∨ hd h 290 190 ≠ 0 ∨ 3 ≤ hd h 104 8)
    || (hdFx h == decide (hd h 64 16 = 0)) || (hdFx h && decide (6 ≤ z.val)) || (hdFx h && decide (hdClk h (hd h 288 2) = 0xFF))
/-- Check 4, PINS. -/
def pinsBad (f : Fabric) (h : List Byte) (z : RegionId) : Bool :=
  (List.finRange 64).any (fun n : Fin 64 => (hd h 128 64).testBit n.val && !(decide ((f.pins[n]).use = 1) && decide ((f.pins[n]).region = z)))
    || (decide (hd h 104 8 ≠ 0) && decide (hd h 104 8 ≠ f.ioVolt.toNat))
/-- Check 5, CLOCK. -/
def clockBad (f : Fabric) (h : List Byte) : Bool :=
  (List.range 4).any (fun i => decide (hdClk h i ≠ 0xFF) && (match f.uclk[hdClk h i]? with
    | none => true
    | some w => !(bitAt f.lock (hdClk h i)) || decide (hd h (224 + 16 * i) 16 < fld w 0 10)))

/-- The first header or environment check that fails (Table 16.6). -/
def headerCheck (f : Fabric) (h : List Byte) (z : RegionId) : Option Nat :=
  if hdrWrong h then some 1
  else if leNat ((h.drop 60).take 4) ≠ (crc32c (h.take 60)).toNat then some 2
  else if hdrBad h z then some 1
  else if pinsBad f h z then some 8
  else if clockBad f h then some 9
  else none

/-! ### The end of a load -/

/-- A load fails (R369, R370): the region is in state 4, the code stands in both status registers, the record is written
and a mailbox load is answered. -/
def loadFail (code frame : Nat) (s : State) : State :=
  match s.fabric.load with
  | none => s
  | some l =>
    let frame := if 3 ≤ code ∧ code ≤ 10 then frame % 4096 else 0
    let detail := code + frame * 2 ^ 8
    let s := modFabric (fun f => { f with load := none, lastCode := BitVec.ofNat 4 code, fifo := [] }) s
    let s := modRegion l.region (fun r => { r with
        state := 4, cmdReady := false, lastCode := BitVec.ofNat 8 code, failFrame := BitVec.ofNat 12 frame, extId := 0 }) s
    let s := setGint 0x40 (bumpGen (postRecord { code := 0x30, unit := 6, index := l.region.val, detail := detail } s))
    let s := if h : l.region.val < 6 then fxRecheck ⟨l.region.val, h⟩ s else s
    if l.path = 1 then reply l.mbox stBadArg detail [] s else s

/-- The header of the running load has arrived: its checks are made. -/
def takeHeader (h : List Byte) (s : State) : State :=
  match s.fabric.load with
  | none => s
  | some l =>
    let s := modFabric (fun f => { f with load := some { l with header := some h, got := 64 } }) s
    match headerCheck s.fabric h l.region with
    | some code => loadFail code 0 s
    | none => s

/-- A load starts on a region: state 3, its domain powered, its block RAMs cleared (Table 16.5, R370). -/
def enterLoad (l : FbLoad) (s : State) : State :=
  let wait := if (s.fabric.regions[l.region]).powered then 0 else us 10
  bumpGen <| modFabric (fun f => { f with load := some l, frames := 0, fifo := [] })
    (modRegion l.region (fun r => { r with
        state := 3, powered := true, cmdReady := false, bram := [], config := [], crcs := [] }) (atTime (s.time + wait) s))

/-- A started FX command holds a region. -/
def fxHolds (s : State) (z : RegionId) : Bool := if h : z.val < 6 then (s.cores[(⟨z.val, h⟩ : CoreId)]).fx.run.isSome else false

/-- The refusals of R371 that a load and an unload share; argument checks go first (R267). -/
def fabricRefusal (s : State) (p : PartId) (z : RegionId) : Option Nat :=
  if ¬ regionPresent s.grade z then some stBadArg
  else if s.fabric.load.isSome then some stBusy
  else if (s.host.parts[p]).secure ≠ (s.fabric.regions[z]).secure then some stDenied
  else if fxHolds s z ∨ scrubbing s 1 z.val then some stResourceBusy
  else none

/-- The region that a request names. -/
def argRegion (b : List Byte) : RegionId := fin 8 (arg b 9 1)

/-- FABRIC_LOAD: the header is read and checked; the reply comes at the release or at the failure. -/
def fabricLoad (m : MboxId) (p : PartId) (b : List Byte) (s : State) : State :=
  let z := argRegion b
  match fabricRefusal s p z with
  | some st => reply m st 0 [] s
  | none =>
    let va := arg b 16 8
    let s := enterLoad {
        path := 1, region := z, mbox := m, part := p, asid := argAsid b, va := va, len := arg b 24 4, header := none, got := 0, applied := [] } s
    match hostRead s (s.host.parts[p]).secure (argAsid b) va 64 with
    | (none, s) => loadFail 11 0 s
    | (some h, s) => takeHeader h s

/-- FABRIC_LOAD. -/
def execFabricLoad (s : State) : Host.Outcome State Fault Refusal := .next (serve 0x70 (some 0) fabricLoad s)

/-- FABRIC_UNLOAD: the region goes to state 1, its domain gated, with ext_id 0; its claims remain. -/
def fabricUnload (m : MboxId) (p : PartId) (b : List Byte) (s : State) : State :=
  let z := argRegion b
  match fabricRefusal s p z with
  | some st => reply m st 0 [] s
  | none => reply m stOk 0 [] (bumpGen (modRegion z (fun r => { r with
      state := 1, powered := false, cmdReady := false, extId := 0, bram := [], config := [], crcs := [], logic := Logic.cold }) s))

/-- FABRIC_UNLOAD. -/
def execFabricUnload (s : State) : Host.Outcome State Fault Refusal := .next (serve 0x70 (some 1) fabricUnload s)

/-- FABRIC_LOAD_ABORT. -/
def fabricAbort (m : MboxId) (_ : PartId) (b : List Byte) (s : State) : State :=
  match s.fabric.load with
  | some l => if l.region = argRegion b then reply m stOk 0 [] (loadFail 10 l.applied.length s) else reply m stBadArg 0 [] s
  | none => reply m stBadArg 0 [] s

/-- FABRIC_LOAD_ABORT. -/
def execFabricLoadAbort (s : State) : Host.Outcome State Fault Refusal := .next (serve 0x70 (some 2) fabricAbort s)

/-! ### The host path (R372) -/

/-- FB_CFG_STATUS.space. -/
def fifoSpace (f : Fabric) : Nat := 512 - f.fifo.length

/-- A write of FB_CFG_CMD: start while no load runs, abort of a host-path load. A start on a region that is absent or held by
an FX command is ignored (log 35). -/
def cfgCmdWrite (val : Word) (s : State) : State :=
  let s := modFabric (fun f => { f with cmd := f.cmd ||| val.setWidth 2 }) s
  match s.fabric.load with
  | none =>
    let z : RegionId := s.fabric.cfgRegion.toFin
    if ¬ bitAt val 0 ∨ ¬ regionPresent s.grade z ∨ fxHolds s z ∨ scrubbing s 1 z.val then s
    else enterLoad { path := 2, region := z, mbox := secureMb, part := 0, asid := 0, va := 0, len := 0, header := none, got := 0, applied := [] } s
  | some l => if bitAt val 1 ∧ l.path = 2 then loadFail 10 l.applied.length s else s

/-- CFG_START. -/
def execCfgStart (acc : Access) (val : Word) (s : State) : Host.Outcome State Fault Refusal :=
  .next (access acc 0xC0004 true (cfgCmdWrite val) s)
/-- CFG_ABORT. -/
def execCfgAbort (acc : Access) (val : Word) (s : State) : Host.Outcome State Fault Refusal :=
  .next (access acc 0xC0004 true (cfgCmdWrite val) s)

/-- The bytes of FIFO words. -/
def wordBytes (ws : List Dword) : List Byte := ws.flatMap (fun w => leBytes 8 w.toNat)

/-- A write of FB_CFG_DATA_HI pushes the pair; without space it ends a host-path load. Eight words make the header. -/
def cfgDataPush (hi : Word) (s : State) : State :=
  if fifoSpace s.fabric = 0 then
    match s.fabric.load with
    | some l => if l.path = 2 then loadFail 13 0 s else s
    | none => s
  else
    let s := modFabric (fun f => { f with fifo := f.fifo ++ [hi ++ f.dataLo] }) s
    match s.fabric.load with
    | some l =>
      if l.path = 2 ∧ l.header.isNone ∧ 8 ≤ s.fabric.fifo.length then
        takeHeader (wordBytes (s.fabric.fifo.take 8)) (modFabric (fun f => { f with fifo := f.fifo.drop 8 }) s)
      else s
    | none => s

/-- CFG_DATA_PUSH. -/
def execCfgDataPush (acc : Access) (val : Word) (s : State) : Host.Outcome State Fault Refusal :=
  .next (access acc 0xC0014 true (cfgDataPush val) s)

/-! ### Frames (R367, R369) -/

/-- The next frame record: its bytes, or the code with which the data fails; none while it has not come. -/
def nextFrame (l : FbLoad) (s : State) : Option (Except Nat (List Byte)) × State :=
  if l.path = 1 then
    if l.len < l.got + 272 then (some (.error 12), s)
    else
      match hostRead s (s.host.parts[l.part]).secure l.asid (l.va + l.got) 272 with
      | (none, s) => (some (.error 11), s)
      | (some b, s) => (some (.ok b), s)
  else if s.fabric.fifo.length < 34 then (none, s)
  else (some (.ok (wordBytes (s.fabric.fifo.take 34))), modFabric (fun f => { f with fifo := f.fifo.drop 34 }) s)

/-- The first frame check that fails. -/
def frameCheck (l : FbLoad) (reloc : Bool) (b : List Byte) (found : FrameFinding) : Option Nat :=
  let w := leNat (b.take 4)
  if leNat ((b.drop 4).take 4) ≠ (crc32c (b.take 4 ++ b.drop 16)).toNat then some 3
  else if w / 8 % 2 ≠ 0 ∨ w / 2 ^ 16 ≠ 0 ∨ leNat ((b.drop 8).take 8) ≠ 0 ∨ 2560 ≤ w / 16 % 4096
      ∨ w % 8 ≠ (if reloc then 0 else l.region.val) then some 4
  else if w / 16 % 4096 ∈ l.applied then some 5
  else match found with
    | .ok => none
    | .contention => some 6
    | .floating => some 7

/-- What the scan compares of a frame: its index, its record's first word and the crc of its load (R373). -/
def frameCrc (i : Nat) (b : List Byte) : Nat × Word × Word := (i, BitVec.ofNat 32 (leNat (b.take 4)), BitVec.ofNat 32 (leNat ((b.drop 4).take 4)))

/-- FABRIC_FRAME: the next frame record of the running load is checked and applied. -/
def fabricFrame (found : FrameFinding) (s : State) : State :=
  match s.fabric.load with
  | none => s
  | some l =>
    match l.header with
    | none => s
    | some h =>
      if 2560 ≤ l.applied.length then s
      else
        match nextFrame l s with
        | (none, s) => s
        | (some (.error code), s) => loadFail code 0 s
        | (some (.ok b), s) =>
          let i := leNat (b.take 4) / 16 % 4096
          match frameCheck l (hdReloc h) b found with
          | some code => loadFail code i s
          | none =>
            modRegion l.region (fun r => { r with config := memStore r.config (256 * i) (b.drop 16), crcs := frameCrc i b :: r.crcs })
              (modFabric (fun f => { f with load := some { l with got := l.got + 272, applied := i :: l.applied }, frames := f.frames + 1 }) s)

/-- FABRIC_FRAME. -/
def execFabricFrame (found : FrameFinding) (s : State) : Host.Outcome State Fault Refusal := .next (fabricFrame found s)

/-- FABRIC_RELEASE: all frames are applied (R370): the region is configured, and a waiting FX command tests it again. -/
def fabricRelease (s : State) : State :=
  match s.fabric.load with
  | none => s
  | some l =>
    match l.header with
    | none => s
    | some h =>
      if l.applied.length < 2560 then s
      else
        let s := modRegion l.region (fun r => { regionInitial s.time r with
          state := 2, async := #v[(hd h 99 1 == 1), (hd h 98 1 == 1)], bram := [], lastCode := 0, failFrame := 0,
              extId := BitVec.ofNat 16 (hd h 64 16), clk := BitVec.ofNat 32 (hd h 192 32)
          loads := satAdd r.loads 1, pinMask := BitVec.ofNat 64 (hd h 128 64), fxLine := BitVec.ofNat 2 (hd h 288 2) }) s
        let s := setGint 0x40 (bumpGen (modFabric (fun f => { f with load := none, lastCode := 0, fifo := [] }) (finishScrub (.bram l.region) s)))
        let s := if hc : l.region.val < 6 then fxRecheck ⟨l.region.val, hc⟩ s else s
        if l.path = 1 then reply l.mbox stOk 0 (leBytes 2 (hd h 64 16)) s else s

/-- FABRIC_RELEASE. -/
def execFabricRelease (s : State) : Host.Outcome State Fault Refusal := .next (fabricRelease s)

/-- A started FX command on a region ends in a fault; one whose done has come completes (R384, R385). -/
def fxLoses (z : RegionId) (cause : Nat) (s : State) : State :=
  if h : z.val < 6 then
    if (s.cores[(⟨z.val, h⟩ : CoreId)]).fx.run.any (fun r => r.done) then s else fxFault ⟨z.val, h⟩ cause 0 s
  else s

/-- A region loses its configuration: it fails, and a started FX command on it ends in a fault (R373, R384). -/
def failRegion (z : RegionId) (s : State) : State :=
  fxLoses z 5 (bumpGen (modRegion z (fun r => { r with state := 4, cmdReady := false, extId := 0 }) s))

/-- The scan has found a mismatch in a frame of a region (R373). -/
def scanFails (z : RegionId) (frame : Nat) (s : State) : State :=
  let s := modFabric (fun f => { f with scanRegion := BitVec.ofNat 3 z.val }) s
  failRegion z (postRecord { code := 0x31, fc := 1, unit := 6, index := z.val, detail := frame } s)

/-- CONFIG_SCAN_MISMATCH: the scan finds a mismatch in a configured region while no load runs. -/
def execConfigScanMismatch (z : RegionId) (frame : BitVec 12) (s : State) : Host.Outcome State Fault Refusal :=
  .next (
    if (s.fabric.regions[z]).state ≠ 2 ∨ s.fabric.load.isSome ∨ 2560 ≤ frame.toNat then s else scanFails z frame.toNat s)

/-! ### User clocks (R365) -/

/-- Whether a configured or loading region uses a user clock. -/
def clockUsed (f : Fabric) (n : Nat) : Bool :=
  (List.finRange 8).any (fun z : RegionId => let r := f.regions[z]
    (List.range 4).any (fun i => decide (r.state = 2) && decide (fld r.clk (8 * i) 8 = n)))
    || (match f.load with
      | some l => (match l.header with | some h => (List.range 4).any (fun i => decide (hdClk h i = n)) | none => false)
      | none => false)

/-- A write of FB_UCLKn: ignored and counted while the clock is used, ignored out of range; the clock locks anew. -/
def uclkWrite (n : Fin 16) (val : Word) (s : State) : State :=
  if clockUsed s.fabric n.val then modFabric (fun f => { f with uclkErr := satAdd f.uclkErr 1 }) s
  else if fld val 0 10 < 10 ∨ 600 < fld val 0 10 then s
  else modFabric (fun f => { f with
    uclk := updAt f.uclk n (fun _ => val.setWidth 11)
    lock := f.lock &&& ~~~ BitVec.ofNat 16 (2 ^ n.val) }) s

/-- UCLK_WRITE. -/
def execUclkWrite (acc : Access) (n : Fin 16) (val : Word) (s : State) : Host.Outcome State Fault Refusal :=
  .next (access acc (0xC0040 + 4 * n.val) true (uclkWrite n val) s)

/-- UCLK_LOCK: an enabled user clock has locked. -/
def execUclkLock (n : Fin 16) (s : State) : Host.Outcome State Fault Refusal :=
  .next (if bitAt (s.fabric.uclk[n]) 10 then modFabric (fun f => { f with lock := f.lock ||| BitVec.ofNat 16 (2 ^ n.val) }) s else s)

/-! ### Pins, timers, block RAM -/

/-- A write of FB_KIOn: only from the world of the owner, or the secure world for an unclaimed pin (R375). -/
def kioWrite (secure : Bool) (n : Fin 64) (val : Word) (s : State) : State :=
  let p := s.fabric.pins[n]
  if fld val 2 2 = 3 ∨ secure ≠ (p.secure || decide (p.use = 0)) then s
  else modFabric (fun f => { f with kio := updAt f.kio n (fun _ => val.setWidth 6) }) s

/-- KIO_WRITE. -/
def execKioWrite (acc : Access) (n : Fin 64) (val : Word) (s : State) : Host.Outcome State Fault Refusal :=
  .next (access acc (0xC2000 + 4 * n.val) true (kioWrite acc.secure n val) s)

/-- Change a timer. -/
def modTimer (k : Fin 4) (f : FbTimer → FbTimer) (s : State) : State := modFabric (fun b => { b with timers := updAt b.timers k f }) s

/-- A write of FB_TMRk_CTRL loads the timer; FB_TMR0_CTRL is read-only. -/
def timerWrite (k : Fin 4) (val : Word) (s : State) : State :=
  if k = 0 then s else modTimer k (fun t => { t with reload := val.setWidth 24, enable := bitAt val 24, since := s.time }) s

/-- TIMER_CTRL_WRITE. -/
def execTimerCtrlWrite (acc : Access) (k : Fin 4) (val : Word) (s : State) : Host.Outcome State Fault Refusal :=
  .next (access acc (0xC3000 + 16 * k.val) true (timerWrite k val) s)

/-- Whether a timer counts with a use: 1 watchdog, 2 periodic. -/
def timerRuns (s : State) (k : Fin 4) (use : BitVec 2) : Bool :=
  let t := s.fabric.timers[k]
  t.enable && decide (t.use = use) && decide (t.reload ≠ 0)

/-- A timer expires and reloads. -/
def expire (k : Fin 4) (s : State) : State :=
  let t := s.fabric.timers[k]
  let s := atTime (t.since + us t.reload.toNat) s
  modTimer k (fun t => { t with since := s.time }) s

/-- TIMER_PERIODIC_EXPIRY: the timer pulses an input of its region and reloads. -/
def execTimerPeriodicExpiry (k : Fin 4) (s : State) : Host.Outcome State Fault Refusal :=
  .next (if timerRuns s k 2 then modTimer k (fun t => { t with pulsed := some t.since }) (expire k s) else s)

/-- A region's user logic is reset to its initial values; a started FX command ends in a fault of cause 6 (R378, R405). -/
def resetUserLogic (z : RegionId) (s : State) : State :=
  let s := initialValues z s
  if h : z.val < 6 then fxFault ⟨z.val, h⟩ 6 0 s else s

/-- USER_WATCHDOG_EXPIRY. -/
def execUserWatchdogExpiry (k : Fin 4) (s : State) : Host.Outcome State Fault Refusal :=
  .next (
    if ¬ timerRuns s k 1 then s
    else
      let z := (s.fabric.timers[k]).region
      resetUserLogic z (postRecord { code := 0x32, fc := 1, unit := 6, index := z.val, detail := k.val } (expire k s)))

/-- WATCHDOG_SERVICE: the region's logic pulses the service output. -/
def execWatchdogService (k : Fin 4) (s : State) : Host.Outcome State Fault Refusal :=
  .next (
    if timerRuns s k 1 ∧ (s.fabric.regions[(s.fabric.timers[k]).region]).state = 2 then modTimer k (fun t => { t with since := s.time }) s
    else s)

/-- The error output of a block-RAM port is raised (R364). -/
def raiseRamErr (port : Fin 96) (l : Logic) : Logic := { l with rams := updAt l.rams port (fun x => (x.1, { x.2 with err := true })) }

/-- BRAM_UNCORR: an uncorrectable read by a block-RAM port of a configured region. -/
def execBramUncorr (z : RegionId) (port : Fin 96) (off : Nat) (s : State) : Host.Outcome State Fault Refusal :=
  .next (
    if (s.fabric.regions[z]).state ≠ 2 then s
    else ramUncorr z port off (modRegion z (fun r => { r with logic := raiseRamErr port r.logic }) s))

/-! ### Claims (R376 to R379) -/

/-- Who holds a resource: the use code of its ownership register, the partition, 8 for the Lamplighter, the region. -/
def holderOf (s : State) (kind i : Nat) : Option (Nat × Nat × Nat) :=
  match kind with
  | 1 =>
    let p := s.fabric.pins[fin 64 i]
    if p.use = 0 then none else some (p.use.toNat, p.part.val, p.region.val)
  | 2 =>
    let t := s.fabric.timers[fin 4 i]
    if t.use = 0 then none else some (t.use.toNat, if t.ll then 8 else t.part.val, t.region.val)
  | _ =>
    let r := s.sg.regions[fin 16 i]
    if r.owner = 15 then none else some (0, r.owner.toNat, 0)

/-- A staging region passes to a partition; it is zeroed where its world changes (R407, log 36). -/
def giveStaging (r : Fin 16) (p : PartId) (s : State) : State :=
  let secure := (s.host.parts[p]).secure
  let s := if (s.sg.regions[r]).secure = secure then s else
    freshWords .staging [(r.val * 0x100000, 0x100000)] { s with staging := memZero s.staging (r.val * 0x100000) 0x100000 }
  { s with sg := { s.sg with regions := updAt s.sg.regions r (fun x => { x with owner := BitVec.ofNat 4 p.val, secure := secure }) } }

/-- The ownership register takes the claimant. -/
def grant (p : PartId) (kind i use : Nat) (z : RegionId) (s : State) : State :=
  let secure := (s.host.parts[p]).secure
  match kind with
  | 1 => modFabric (fun f => { f with pins := updAt f.pins (fin 64 i) (fun _ =>
      { use := BitVec.ofNat 2 (use + 1), region := if use = 0 then z else 0, part := p, secure := secure }) }) s
  | 2 => modTimer (fin 4 i) (fun t => { t with
      use := BitVec.ofNat 2 (use + 1), region := z, part := p, ll := false, secure := secure, since := s.time }) s
  | _ => giveStaging (fin 16 i) p s

/-- The refusals of a claim: argument checks, then the mailbox and the worlds, then the holder. -/
def claimRefusal (s : State) (m : MboxId) (p : PartId) (kind i use : Nat) (z : RegionId) : Option Nat :=
  let tick := decide (kind = 1 ∧ use = 1)
  if tick ∧ (i ≠ 0 ∨ s.grade = .s92) then some stBadArg
  else if kind ≠ 3 ∧ ¬ tick ∧ ¬ (kind = 2 ∧ i = 0) ∧ ¬ regionPresent s.grade z then some stBadArg
  else if tick ∧ m.val < 8 then some stDenied
  else if kind = 1 ∧ use = 0 ∧ (s.fabric.regions[z]).secure ≠ (s.host.parts[p]).secure then some stDenied
  else if (holderOf s kind i).isSome then some stResourceBusy
  else none

/-- RESOURCE_CLAIM. -/
def resourceClaim (m : MboxId) (p : PartId) (b : List Byte) (s : State) : State :=
  let kind := arg b 9 1
  let i := arg b 10 1
  let use := arg b 11 1
  let z : RegionId := fin 8 (arg b 12 1)
  match claimRefusal s m p kind i use z with
  | some st => reply m st 0 [] s
  | none => reply m stOk 0 [] (grant p kind i use z s)

/-- RESOURCE_CLAIM. -/
def execResourceClaim (s : State) : Host.Outcome State Fault Refusal := .next (serve 0xA0 (some 0) resourceClaim s)

/-- A loaded package of a partition has a region-table entry in a staging region (R379). -/
def stagingUsed (s : State) (p : PartId) (r : Nat) : Bool :=
  s.host.slots.toList.any (fun x => decide (x.part = some p) && (List.range (pkRegions x.package)).any (fun j =>
    let o := regAt x.package j
    let lo := num x.package (o + 4) 4
    decide (bits x.package o 4 0 3 = 4) && overlaps (r * 0x100000) ((r + 1) * 0x100000) lo (lo + num x.package (o + 8) 4)))

/-- Whether a release must wait (R377, R379). -/
def releaseBusy (s : State) (p : PartId) (kind i : Nat) : Bool :=
  match kind with
  | 1 =>
    let x := s.fabric.pins[fin 64 i]
    let r := s.fabric.regions[x.region]
    if x.use = 2 then bitAt s.tick.ctrl 0 && decide (fld s.tick.ctrl 1 2 = 0)
    else decide (r.state = 2) && bitAt r.pinMask i
  | 2 => false
  | _ => stagingUsed s p i

/-- A resource is free; a released timer stops. -/
def freeResource (kind i : Nat) (s : State) : State :=
  match kind with
  | 1 => modFabric (fun f => { f with pins := updAt f.pins (fin 64 i) (fun _ => { use := 0, region := 0, part := 0, secure := false }) }) s
  | 2 => modTimer (fin 4 i) (fun t => { t with use := 0, region := 0, part := 0, ll := false, secure := false, enable := false }) s
  | _ => { s with sg := { s.sg with regions := updAt s.sg.regions (fin 16 i) (fun x => { x with owner := 15 }) } }

/-- RESOURCE_RELEASE. -/
def resourceRelease (m : MboxId) (p : PartId) (b : List Byte) (s : State) : State :=
  let kind := arg b 9 1
  let i := arg b 10 1
  match holderOf s kind i with
  | some (_, owner, _) =>
    if owner ≠ p.val then reply m stDenied 0 [] s
    else if releaseBusy s p kind i then reply m stResourceBusy 0 [] s
    else reply m stOk 0 [] (freeResource kind i s)
  | none => reply m stDenied 0 [] s

/-- RESOURCE_RELEASE. -/
def execResourceRelease (s : State) : Host.Outcome State Fault Refusal := .next (serve 0xA0 (some 1) resourceRelease s)

/-- RESOURCE_QUERY: use, partition and region of the holder; 0xFF names no partition. -/
def resourceQuery (m : MboxId) (_ : PartId) (b : List Byte) (s : State) : State :=
  let h := (holderOf s (arg b 9 1) (arg b 10 1)).getD (0, 0xFF, 0)
  reply m stOk 0 (leBytes 1 h.1 ++ leBytes 1 h.2.1 ++ leBytes 1 h.2.2) s

/-- RESOURCE_QUERY. -/
def execResourceQuery (s : State) : Host.Outcome State Fault Refusal := .next (serve 0xA0 (some 2) resourceQuery s)

/-- The claims of a partition are released (R376). -/
def dropClaims (p : PartId) (s : State) : State :=
  let s := forAll ((List.range 64).filter (fun i => (holderOf s 1 i).any (fun h => decide (h.2.1 = p.val)))) (freeResource 1) s
  forAll ((List.range 4).filter (fun i => (holderOf s 2 i).any (fun h => decide (h.2.1 = p.val)))) (freeResource 2) s

/-- The Lamplighter claims TMR0 as the lamp sub-timer, of 50 ms (R307, R378). -/
def claimSubTimer (s : State) : State := modTimer 0 (fun t => { t with use := 3, ll := true, secure := true, reload := 50000, enable := false }) s

end Sys2Proof.Machine
end

