-- ==== Sys2Proof/Machine/Tick.lean ====
section
/-! DEFINITION. Machine/Tick.lean: the frame tick (R295 to R297), the candle table and its check (R298 to R301, R319), running entries,
pre-emption, guttering and handover (R302 to R306), and power gating by schedule (R308). -/
namespace Sys2Proof.Machine
open Sys2Proof

/-! ### The candle check (R301) -/

/-- The clock bin's frequency in hundredths of a GHz. -/
def binFreq (b : BitVec 3) : Nat := match b.toNat with | 0 => 100 | 1 => 95 | 2 => 90 | 3 => 85 | _ => 80

/-- Check 1: reserved bits, a disabled partition, absent cores or arrays. In a repeat retired units count as absent. -/
def check1 (s : State) (again : Bool) (w : BitVec 128) : Bool :=
  let core (c : CoreId) : Bool := if again then corePresent s.grade c && !(s.cores[c]).retired else corePresent s.grade c
  let arr (a : ArrId) : Bool := arrayPresent s.grade a && (!again || (List.finRange 6).all (fun c : CoreId =>
    !(enCore w c) || !((s.cores[c]).arrays[a]).retired))
  decide (fld w 24 8 = 0 ∧ fld w 52 12 = 0 ∧ fld w 84 12 = 0 ∧ fld w 120 8 = 0) && (s.host.parts[enPart w]).enabled
    && decide (fld w 4 6 ≠ 0) && (List.finRange 6).all (fun c : CoreId => !(enCore w c) || core c)
    && decide (fld w 10 4 ≠ 0) && (List.finRange 4).all (fun a : ArrId => !(enArray w a) || arr a)

/-- Check 4: the declared need fits the budget at a clock bin. -/
def check4 (bin : BitVec 3) (w : BitVec 128) : Bool := decide (enNeed w * 100 ≤ enBudget w * binFreq bin)

/-- Whether two entries' windows overlap. -/
def windowsMeet (w x : BitVec 128) : Bool := overlaps (enStart w) (enStart w + enBudget w) (enStart x) (enStart x + enBudget x)

/-- The first check of Table 13.5 that entry i of a table fails. -/
def entryCheck (s : State) (table : Vector (BitVec 128) 64) (period i : Nat) (w : BitVec 128) : Option Nat :=
  if ¬ check1 s false w then some 1
  else if enSafety w ∧ (¬ enFreeze w ∨ enContinue w) then some 2
  else if enStart w = 0 ∨ enBudget w = 0 ∨ period < enStart w + enBudget w then some 3
  else if ¬ check4 s.safety.bin w then some 4
  else if enSafety w ∧ table.toList.zipIdx.any (fun x => decide (x.2 ≠ i) && bitAt x.1 0
      && decide (fld x.1 4 6 &&& fld w 4 6 ≠ 0) && decide (enPrio w ≤ enPrio x.1) && windowsMeet w x.1) then some 5
  else none

/-- The candle check of a table: the failing check, the entry's index and word. -/
def candleCheck (s : State) (table : Vector (BitVec 128) 64) (period : Nat) : Option (Nat × Nat × BitVec 128) :=
  table.toList.zipIdx.findSome? (fun x =>
    if bitAt x.1 0 then (entryCheck s table period x.2 x.1).map (fun n => (n, x.2, x.1)) else none)

/-- A safety-classed entry fails check 1 or 4: a dangerous fault (R319). -/
def safetyShort (w : BitVec 128) (n : Nat) (s : State) : State :=
  if enSafety w ∧ (n = 1 ∨ n = 4) then postRecord { code := 0x19, fc := 2, dangerous := true, part := (enPart w).val } s else s

/-- Checks 1 and 4 repeated on one entry of the active table. -/
def recheckEntry (i : Nat) (w : BitVec 128) (s : State) : State :=
  let mark (on : Bool) (s : State) : State :=
    let b : BitVec 64 := BitVec.ofNat 64 (2 ^ i)
    { s with tick := { s.tick with short := if on then s.tick.short ||| b else s.tick.short &&& ~~~ b } }
  if ¬ bitAt w 0 then s
  else
    match (if ¬ check1 s true w then some 1 else if ¬ check4 s.safety.bin w then some 4 else none) with
    | none => mark false s
    | some n =>
      safetyShort w n (postRecord { event := true, code := 0x05, toPart := some (enPart w), part := (enPart w).val, detail := i + n * 2 ^ 8 }
        (mark true s))

/-- After a bin change or a retirement the candle check is repeated on the active table (R301). -/
def recheck (s : State) : State := forAll s.tick.active.toList.zipIdx (fun x => recheckEntry x.2 x.1) s

/-! ### Pre-emption and resumption (R303) -/

/-- A core of an entry's job has been handed over (R306). -/
def handedOn (s : State) (e : EntryId) (c : CoreId) : Bool :=
  match entryJob s e with
  | some j => j.cores.any (fun x => decide (x.core = c) && x.handed)
  | none => false

/-- Whether running entry f holds one of entry e's cores; a core handed over is free for another partition. -/
def holdsCore (s : State) (f e : EntryId) : Bool :=
  decide (f ≠ e) && decide ((runOf s f).state = .running) && (enCores s e).any (fun c => enCore (entryBits s f) c
    && !(handedOn s f c && decide (enPart (entryBits s f) ≠ enPart (entryBits s e))))

/-- The running entries that hold cores of an entry. -/
def holders (s : State) (e : EntryId) : List EntryId := (validEntries s).filter (fun f => holdsCore s f e)

/-- The cores on which a job's context is, those handed over apart. -/
def jobHolds (j : Job) : List CoreId :=
  (j.cores.filter (fun x => partActive j x.core && !x.handed)).map (fun x => x.core)

/-- The running entry f is pre-empted: its job's cores are snuffed with cause 1, and it becomes paused. -/
def preempt (f : EntryId) (s : State) : State :=
  let s' := leaveRun f .paused s
  match entryJob s f with
  | none => s'
  | some j => modJob j.id (fun j => { j with phase := .paused }) (forAll (jobHolds j) (fun c => snuffNow c 1) s')

/-- A demoted job is pre-empted. -/
def pauseDemoted (j : Job) (s : State) : State :=
  let s := modRun (entryOf j) (fun r => { r with state := if r.state = .demoted then .guttered else r.state }) s
  modJob j.id (fun j => { j with phase := .demotedPaused }) (forAll (jobHolds j) (fun c => snuffNow c 1) s)

/-- The demoted jobs that run on some of a list of cores. -/
def demotedOn (s : State) (cores : List CoreId) : List Job :=
  s.host.jobs.filter (fun j => decide (j.phase = .demoted) && (jobHolds j).any (fun c => decide (c ∈ cores)))

/-- A number of a vector's range is taken from a saved copy. -/
def mergeRange {α : Type} {n : Nat} (base count : Nat) (old now : Vector α n) : Vector α n :=
  now.mapFinIdx (fun i x h => if base ≤ i ∧ i < base + count then old[i] else x)

/-- A queue's packets come back behind its free pointer. -/
def mergeQueue (old now : EngQueue) : EngQueue :=
  let n := BitVec.ofNat 6 old.slots.length
  { now with slots := old.slots, wptrA := now.fptrA + n, wptrB := now.fptrB + n }

/-- The matrix engine of a saved context beside the present counters. What an old job of a core that was handed over still drains
goes on before it (R306). -/
def mergeMx (old now : Mx) (sets : Vector (Vector Word 64) 4) : Mx :=
  { old with
    sets := sets, nextOrd := max old.nextOrd now.nextOrd, sat := now.sat, rows := now.rows, zeros := now.zeros
    stallFeed := now.stallFeed, stallDrain := now.stallDrain, stallLoad := now.stallLoad, frozen := now.frozen
    throttled := now.throttled, swapWait := now.swapWait, stallMap := now.stallMap, replayCnt := now.replayCnt
    cursor := now.cursor, stemSkip := now.stemSkip, stemWait := now.stemWait
    started := now.started ++ old.started, flight := now.flight ++ old.flight, outq := now.outq ++ old.outq
    replay := now.replay.orElse (fun _ => old.replay) }

/-- A saved context comes back to its core (R221; log 27). -/
def mergeCore (j : Job) (x : SavedCore) (k : Core) : Core :=
  let a := k.allocs[j.part]
  let sets (old now : Vector (Vector Word 64) 4) : Vector (Vector Word 64) 4 :=
    mergeRange a.setBase.toNat a.setCount.toNat old now
  { k with
    ctl := { x.ctl with ready := k.ctl.ready && decide (x.ctl.active = k.ctl.active), actWr := k.ctl.actWr }
    sc := x.sc
    toks := mergeRange a.tokBase.toNat a.tokCount.toNat x.toks k.toks
    queues := Vector.ofFn (fun i : Fin 5 => mergeQueue x.queues[i] k.queues[i])
    mx := mergeMx x.mx k.mx (sets x.mx.sets k.mx.sets)
    vx := { x.vx with sets := sets x.vx.sets k.vx.sets, elems := k.vx.elems }
    wx := { x.wx with sets := sets x.wx.sets k.wx.sets, elems := k.wx.elems }
    dx := { k.dx with sets := sets x.dx.sets k.dx.sets, chans := x.dx.chans }
    fx := { x.fx with
        sets := sets x.fx.sets k.fx.sets, abortTill := k.fx.abortTill, inCount := k.fx.inCount, outCount := k.fx.outCount, spurious := k.fx.spurious }
    halt := x.halt
    phase := x.phase }

/-- The segment that a saved program runs in is in its bank again; a copy that fails its check fails the job (R258). -/
def refillBank (j : Job) (x : SavedCore) (s : State) : State :=
  match x.ctl.seg, progOf s (pktHandle j.packet) with
  | some (h, n), some prog =>
    if bankTag s.cores[x.core] x.ctl.active = some (h, n) then s else
      match fillBank x.core x.ctl.active h prog n s with
      | (true, s) => s
      | (false, s) => failJob j.id { halt := 0, fc := 1, detail := 0 } s
  | _, _ => s

/-- A program that waits at a switch point finds its next segment in the inactive bank, or ready 0 (R258). -/
def recheckReady (c : CoreId) (s : State) : State :=
  let next := nextSection s c
  modCore c (fun k => { k with ctl := { k.ctl with
    ready := k.ctl.ready && (decide (k.ctl.wait ≠ .bank) || decide (bankTag k (!k.ctl.active) = next)) } }) s

/-- A core of a job runs on: a saved context is restored first, beside which another one is put aside. -/
def resumeOn (id : Nat) (c : CoreId) (s : State) : State :=
  match findJob s id with
  | none => s
  | some j =>
    match j.saved.find? (fun x => decide (x.core = c)) with
    | none => restartCore c s
    | some x =>
      let s := refillBank j x (saveCore c s)
      restartCore c (modJob id (fun j => { j with saved := j.saved.filter (fun y => decide (y.core ≠ c)) })
        (recheckReady c (progress c (modCore c (mergeCore j x) s))))

/-- The Lamplighter restarts the cores of a job that was pre-empted. -/
def resumeJob (j : Job) (s : State) : State :=
  forAll ((j.cores.filter (fun x => !x.ended)).map (fun x => x.core)) (resumeOn j.id) s

/-! ### Guttering (R305) -/

/-- Elapsed microseconds of an entry, as a gutter's detail holds them. -/
def gutterDetail (s : State) (e : EntryId) : Nat := e.val % 64 + min (elapsedOf s e / us 1) 0xFFFFFF * 2 ^ 8

/-- The cores that a job is still on: those that it holds, and those handed over whose last rows drain (R306). -/
def jobOnCores (s : State) (j : Job) : List CoreId :=
  (j.cores.filter (fun x => partActive j x.core && !(x.handed && partOver s j x))).map (fun x => x.core)

/-- The stop policy on a job that runs: every core halts with HALT_OVERRUN; a core that a snuff has halted keeps its record (R245), and the
job has failed. -/
def overrunHalt (j : Job) (detail : Nat) (s : State) : State :=
  forAll (jobOnCores s j) (fun c s =>
    let s := if coreHalted s.cores[c] then failJob j.id { halt := 0x10, fc := 1, detail := detail } s else s
    raiseHalt c (haltCond 0x10 6 0 (BitVec.ofNat 32 detail)) s) s

/-- The stop policy on a paused job: HALT_OVERRUN stands in its cores' halt records in place of HALT_SNUFFED, the cores are
reset, and the job ends. -/
def overrunPaused (j : Job) (detail : Nat) (s : State) : State :=
  let h : HaltCond := haltCond 0x10 6 0 (BitVec.ofNat 32 detail)
  let s := forAll (jobHolds j) (fun c s =>
    postFor j.id (coreHaltRec s c h 1) (modCore c (fun k => { k with
      phase := .halted h
      halt := { k.halt with info := (k.halt.info &&& 0xFFFFFF00) ||| 0x10, detail := h.detail } }) s)) s
  let f : JobFail := j.fail.getD { halt := 0x10, fc := 1, detail := detail }
  let s := modJob j.id (fun j => { j with fail := some f, saved := [] }) s
  jobComplete j (failCompletion (some f)) (forAll (jobHolds j) ensureReset s)

/-- An entry gutters: its job is stopped or demoted, it pulls no more, the gutter is counted and posted. -/
def gutter (e : EntryId) (s : State) : State :=
  let w := entryBits s e
  let d := gutterDetail s e
  let job := entryJob s e
  let s := modRun e (fun r => { r with full := true }) (leaveRun e .guttered s)
  let s := { s with tick := { s.tick with gutters := satAdd s.tick.gutters 1 } }
  let s := postRecord { event := true, code := 0x06, toPart := some (enPart w), part := (enPart w).val, detail := d } s
  match job with
  | none => s
  | some j =>
    if enContinue w then
      if j.phase = .paused then modJob j.id (fun j => { j with phase := .demotedPaused }) s
      else modRun e (fun r => { r with state := .demoted }) (modJob j.id (fun j => { j with phase := .demoted }) s)
    else if j.phase = .paused then overrunPaused j d s
    else overrunHalt j d s

/-- CANDLE_GUTTER: a running entry's budget is spent while it holds a job whose last command has not completed. -/
def candleGutter (e : EntryId) (s : State) : State :=
  if ¬ entryValid s e ∨ (runOf s e).state ≠ .running then s
  else
    match entryJob s e with
    | none => s
    | some j =>
      if jobOver s j then s
      else gutter e (atTime (s.time + (us (enBudget (entryBits s e)) - elapsedOf s e)) s)

/-- CANDLE_GUTTER. -/
def execCandleGutter (e : EntryId) (s : State) : Host.Outcome State Fault Refusal := .next (candleGutter e s)

/-- CANDLE_ENDED: a running entry's budget is spent while it holds no job. -/
def execCandleEnded (e : EntryId) (s : State) : Host.Outcome State Fault Refusal :=
  .next (
    if ¬ entryValid s e ∨ (runOf s e).state ≠ .running ∨ (entryJob s e).isSome then s
    else
      let s := atTime (s.time + (us (enBudget (entryBits s e)) - elapsedOf s e)) s
      modRun e (fun r => { r with full := true }) (leaveRun e .ended s))

/-! ### Entries that begin to run (R302) -/

/-- The time at which an entry may start in this tick. -/
def startTime (s : State) (e : EntryId) : Nat := s.tick.last + us (enStart (entryBits s e))

/-- Entry f goes before entry e: higher prio, then the lower start, then the lower index. -/
def goesBefore (s : State) (f e : EntryId) : Bool :=
  let w := entryBits s e
  let x := entryBits s f
  decide (enPrio w < enPrio x) || (decide (enPrio w = enPrio x) && (decide (enStart x < enStart w)
    || (decide (enStart x = enStart w) && decide (f < e))))

/-- A pending entry competes for a core of entry e and goes first. -/
def outranked (s : State) (e : EntryId) : Bool :=
  (validEntries s).any (fun f => decide (f ≠ e) && decide ((runOf s f).state = .pending) && decide (startTime s f ≤ s.time)
    && (enCores s e).any (fun c => enCore (entryBits s f) c) && goesBefore s f e)

/-- The demoted job that becomes its entry's running job again. -/
def demotedOf (s : State) (e : EntryId) : Option Job :=
  s.host.jobs.find? (fun j => decide (entryOf j = e) && decide (j.phase = .demoted ∨ j.phase = .demotedPaused)
    && decide (j.part = enPart (entryBits s e)))

/-- An entry becomes running. -/
def beginRun (e : EntryId) (s : State) : State := modRun e (fun r => { r with state := .running, since := s.time }) s

/-- The entry's demoted job is its running job again. -/
def adopt (e : EntryId) (s : State) : State :=
  match demotedOf s e with
  | none => s
  | some j =>
    let s := if j.phase = .demotedPaused then resumeJob j s else s
    modJob j.id (fun j => { j with phase := .running }) s

/-- CANDLE_START: the entry's start has passed. It waits for entries that go first and for holders of equal or higher prio,
pre-empts the others and demoted jobs, and runs. A paused entry without a job runs again in the same way. -/
def candleStart (e : EntryId) (s0 : State) : State :=
  let s := atTime (startTime s0 e) s0
  let r := (runOf s e).state
  let held := holders s e
  if ¬ entryValid s e ∨ s.tick.state = .stopped ∨ s.tick.relock.isSome ∨ s.tick.binDue
      ∨ ¬ (r = .pending ∨ (r = .paused ∧ entryJob s e = none)) ∨ outranked s e
      ∨ held.any (fun f => decide (enPrio (entryBits s e) ≤ enPrio (entryBits s f))) then s0
  else
    let s := forAll held preempt s
    let own (j : Job) : Bool := decide ((demotedOf s e).map (fun x => x.id) = some j.id)
    let s := forAll ((demotedOn s (enCores s e)).filter (fun j => !(own j))) pauseDemoted s
    endIdles (adopt e (beginRun e s))

/-- CANDLE_START. -/
def execCandleStart (e : EntryId) (s : State) : Host.Outcome State Fault Refusal := .next (candleStart e s)

/-- PREEMPT_RESTART: the cores of a paused or demoted job are free again. -/
def preemptRestart (id : Nat) (s : State) : State :=
  match findJob s id with
  | none => s
  | some j =>
    let e := entryOf j
    let cores := j.cores.map (fun x => x.core)
    if s.tick.relock.isSome ∨ s.tick.binDue then s
    else if j.phase = .paused ∧ (runOf s e).state = .paused ∧ holders s e = [] then
      let s := forAll (demotedOn s (enCores s e)) pauseDemoted s
      beginRun e (modJob id (fun j => { j with phase := .running }) (resumeJob j s))
    else if j.phase = .demotedPaused ∧ demotedOn s cores = [] ∧
        ¬ (validEntries s).any (fun f => decide ((runOf s f).state = .running) && cores.any (fun c => enCore (entryBits s f) c)) then
      let s := modJob id (fun j => { j with phase := .demoted }) (resumeJob j s)
      modRun e (fun r => { r with state := if r.state = .guttered then .demoted else r.state }) s
    else s

/-- PREEMPT_RESTART. -/
def execPreemptRestart (job : Nat) (s : State) : Host.Outcome State Fault Refusal := .next (preemptRestart job s)

/-- Whether only MX commands of a job are left on a core, all their rows entered. -/
def drainsOnly (k : Core) (id : Nat) : Bool :=
  k.ctl.ended && mxFormedAll k.mx && !k.mx.stopped && noWork { k with mx := { k.mx with started := [] } } id

/-- HANDOVER: a core passes from a job whose last rows drain to the next entry, of another partition. -/
def execHandover (c : CoreId) (s : State) : Host.Outcome State Fault Refusal :=
  let k := s.cores[c]
  .next (
    match findJob s k.ctl.job with
    | none => s
    | some j =>
      let next := (validEntries s).any (fun e => decide ((runOf s e).state = .pending ∨ (runOf s e).state = .running ∨ (runOf s e).state = .paused)
        && decide (e ≠ entryOf j) && enCore (entryBits s e) c && decide (enPart (entryBits s e) ≠ j.part))
      if ¬ coreLive s c ∨ ¬ partActive j c ∨ ¬ drainsOnly k j.id ∨ ¬ next then s
      else
        let s := if k.ctl.overran then failJob j.id { halt := 0, fc := 0, detail := 0 } s else s
        modJob j.id (fun j => { j with cores := j.cores.map (fun x => if x.core = c then { x with handed := true } else x) }) s)

/-! ### The tick -/

/-- Whether an array is needed by a table: in service and in the masks of a valid entry (R308). -/
def arrayNeeded (s : State) (table : Vector (BitVec 128) 64) (c : CoreId) (a : ArrId) : Bool :=
  arrayInService s c a && (table.toList.all (fun w => !(bitAt w 0))
    || table.toList.any (fun w => bitAt w 0 && enCore w c && enArray w a))

/-- Whether a committed table that is not yet active needs an array: it has been woken for it, and stays so. -/
def committedNeed (s : State) (c : CoreId) (a : ArrId) : Bool :=
  match s.tick.commit with | some (table, _) => arrayNeeded s table c a | none => false

/-- Whether no command of MX masks an array. -/
def arrayIdle (k : Core) (a : ArrId) : Bool := k.mx.started.all (fun m => !(bitAt (mxMask m.cfg) a.val))

/-- Arrays that are not needed and hold no command are gated at the tick. -/
def gateArrays (s : State) : State :=
  forAll (List.finRange 6) (fun c : CoreId => forAll (List.finRange 4) (fun a : ArrId => fun s : State =>
    let k := s.cores[c]
    if ¬ arrayInService s c a ∨ ¬ (k.arrays[a]).powered ∨ arrayNeeded s s.tick.active c a ∨ committedNeed s c a ∨ ¬ arrayIdle k a then s
    else
      { modCore c (fun k => { k with arrays := updAt k.arrays a (fun u => { u with powered := false, plane := none }) }) s with
        tick := { s.tick with gated := s.tick.gated ||| BitVec.ofNat 24 (2 ^ (4 * c.val + a.val)) } })) s

/-- Whether an entry of a table names a core. -/
def tableNames (table : Vector (BitVec 128) 64) (c : CoreId) : Bool := table.toList.any (fun w => bitAt w 0 && enCore w c)

/-- Whether a core is needed: an entry of the table in force or of the committed one names it, or a stream port is enabled
towards it (R410). -/
def coreWanted (s : State) (c : CoreId) : Bool :=
  tableNames s.tick.active c || (match s.tick.commit with | some (table, _) => tableNames table c | none => false)
    || (List.finRange 4).any (fun n : StreamId => bitAt (s.bnd.strm[n]).ctrl 0 && decide (portCore s.bnd.strm[n] = c))

/-- Whether an engine or channel of a core holds a resume record. -/
def holdsResume (k : Core) : Bool :=
  k.mx.resume.valid || k.vx.resume.valid || k.wx.resume.valid || k.fx.resumeValid || k.dx.chans.toList.any (fun x => x.resume.valid)

/-- At a tick a core that nothing needs enters retention: its control core and arrays lose power, its banks are empty; the
control core's data memory is zero (log 39). -/
def retainCores (s : State) : State :=
  forAll (List.finRange 6) (fun c : CoreId => fun s : State =>
    let k := s.cores[c]
    if ¬ inService s c ∨ ¬ k.powered ∨ k.retained ∨ ¬ (jobsOn s c).isEmpty ∨ holdsResume k ∨ implicitRuns s ∨ coreWanted s c then s
    else
      let bits := BitVec.ofNat 24 (((List.finRange 4).map (fun a : ArrId => b2n (arrayInService s c a) * 2 ^ (4 * c.val + a.val))).sum)
      let s := modCore c (fun k =>
        let k := dropPlanes 0xF k
        { k with
          retained := true, lamp := .idle, lampNext := none, arrays := k.arrays.map (fun u => { u with powered := false, plane := none })
          bankSeg := Vector.replicate 2 none, ctl := { k.ctl with ready := false }
          mem := { k.mem with dmem := [], bank0 := [], bank1 := [] } }) s
      { s with tick := { s.tick with gated := s.tick.gated ||| bits } }) s

/-- The arrays of a core that a lamp test covers: powered and in service. -/
def lampArrays (s : State) (c : CoreId) : BitVec 4 :=
  BitVec.ofNat 4 (((List.finRange 4).map (fun a : ArrId =>
    b2n (arrayInService s c a && ((s.cores[c]).arrays[a]).powered) * 2 ^ a.val)).foldl (· + ·) 0)

/-- A lamp test is due on every core with powered arrays (R307). -/
def lampsDue (s : State) : State :=
  let defer := fld s.tick.ctrl 8 4 * 1000
  forAll (List.finRange 6) (fun c : CoreId => fun s : State =>
    if lampArrays s c = 0 then s else modCore c (lampDue s.time defer) s) s

/-- The lamp-overdue monitor begins to count for arrays that it does not count for yet (Table 14.5). -/
def armLamps (t : Nat) (s : State) : State :=
  forAll (List.finRange 6) (fun c : CoreId => forAll (List.finRange 4) (fun a : ArrId => fun s : State =>
    let i := 4 * c.val + a.val
    if ¬ bitAt (lampArrays s c) a.val ∨ bitAt s.safety.lampArmed i then s
    else { s with safety := { s.safety with
      lampArmed := s.safety.lampArmed ||| BitVec.ofNat 24 (2 ^ i)
      lampOk := updAt s.safety.lampOk (fin 24 i) (fun _ => t) } })) s

/-- A powered array in service has had no passed lamp test for 90 ms. -/
def lampOverdue (s : State) (c : CoreId) (a : ArrId) : Bool :=
  let i := 4 * c.val + a.val
  bitAt (lampArrays s c) a.val && bitAt s.safety.lampArmed i && decide ((s.safety.lampOk[i]?).getD 0 + us 90000 < s.time)

/-- Whether the lamp sub-timer counts: while the tick runs and its period exceeds 50 ms (R307). -/
def subTimerRuns (s : State) : Bool := decide (s.tick.state ≠ .stopped) && decide (50000 < s.tick.period.toNat)

/-- Whether any array is overdue. -/
def anyOverdue (s : State) : Bool := (List.finRange 6).any (fun c => (List.finRange 4).any (fun a => lampOverdue s c a))

/-- A toggle point of KSAFE (R318): the first toggle drives KSAFE_A high, later ones invert both pins. -/
def togglePoint (s : State) : State :=
  let sf := s.safety
  let go := !sf.stopped && sf.lampPass && !(anyOverdue s)
  let a := if sf.toggling then !s.bnd.ksafeA else true
  { s with
    bnd := if go then { s.bnd with ksafeA := a, ksafeB := !a } else s.bnd
    safety := { sf with toggledAt := some s.time, toggling := sf.toggling || go } }

/-- A configuration of MB_TICK_CONFIG takes effect; the capability table follows a new period. -/
def applyTickCfg (ctrl : Word) (period : BitVec 20) (s : State) : State :=
  let s := if s.tick.period = period then s else bumpGen s
  { s with tick := { s.tick with
    ctrl := ctrl, period := period, pendCfg := none
    state := if bitAt ctrl 0 then s.tick.state else .stopped } }

/-- A committed table becomes active at the first tick at least 3 µs after its reply (R299). -/
def activate (t : Nat) (s : State) : State :=
  match s.tick.commit with
  | some (table, at_) =>
    if at_ + us 3 ≤ t then { s with tick := { s.tick with active := table, shadow := table, commit := none, short := 0 } } else s
  | none => s

/-- Every valid entry is pending. -/
def freshRuns (s : State) : State :=
  let run (on : Bool) : EntryRun := { EntryRun.reset with state := if on then .pending else .invalid }
  { s with tick := { s.tick with
    runs := s.tick.active.map (fun w => run (bitAt w 0))
    implicit := run (implicitRuns s) } }

/-- An entry that is pending or paused as the tick occurs gutters (R302); so does one that still runs with a job (log 33). -/
def gutterAtTick (e : EntryId) (s : State) : State :=
  match (runOf s e).state with
  | .pending => gutter e s
  | .paused => gutter e s
  | .running => if (entryJob s e).isSome then gutter e s else s
  | _ => s

/-- A tick that occurs at time t. -/
def takeTick (t : Nat) (s : State) : State :=
  let s := atTime t s
  let s := activate t (forAll (validEntries s) gutterAtTick s)
  let s := { s with tick := { s.tick with last := t, subAt := t, count := s.tick.count + 1, binDue := s.tick.binPend.isSome } }
  let s := match s.tick.pendCfg with | some (w, p) => applyTickCfg w p s | none => s
  togglePoint (lampsDue (armLamps t (retainCores (gateArrays (freshRuns s)))))

/-- The tick starts: the first one is taken at once (R296). -/
def startTick (s : State) : State :=
  takeTick s.time { s with tick := { s.tick with state := .locked, count := 0, raised := [] } }

/-! ### Tick sources (R295, R296) -/

/-- Engine 0 of a system of more than one member takes its ticks L_sys after their source event (R344). -/
def tickRoot (s : State) : Bool := decide (s.links.sys = 2) && decide (s.links.addr = 0) && decide (1 < popcount 32 s.links.members.toNat)

/-- The ports by which a marker leaves: the up ports of the engine's routes. -/
def markerPorts (s : State) : List LinkId :=
  (List.finRange 4).filter (fun l => linkUp s l && s.links.routes.toList.any (fun r => decide (r = some l)))

/-- A control flit with a tick marker goes out on each such port; ticks forwarded are counted. -/
def sendMarkers (s : State) : State :=
  let n := s.links.tickFwd + 1
  forAll (markerPorts s) (sendControl (some n)) { s with links := { s.links with tickFwd := n } }

/-- A source event is the tick: a holdover ends with TICK_LOCK. -/
def lockTick (t : Nat) (s : State) : State :=
  let s := if s.tick.state = .holdover then
    postRecord { event := true, code := 0x04, detail := fld s.tick.ctrl 1 2 } s else s
  takeTick t { s with tick := { s.tick with state := .locked } }

/-- Half a period has passed since the last tick. -/
def notEarly (s : State) (t : Nat) : Bool := decide (s.tick.last + us s.tick.period.toNat / 2 ≤ t)

/-- The lowest-addressed member, where it is not engine 0: its ticks come from holdover, and it sends the markers (R344). -/
def holdoverRoot (s : State) : Bool :=
  decide (s.links.sys = 2) && decide (s.links.addr ≠ 0)
    && decide ((List.range 32).find? (fun e => bitAt s.links.members e) = some s.links.addr.toNat)

/-- TICK_SOURCE_EVENT: the oldest source event is taken, or ignored and counted as early. Engine 0 of a system sends its markers and takes
the tick later; the root in its place takes none of its own source (R344, log 22). -/
def tickSourceEvent (s : State) : State :=
  match s.tick.raised with
  | [] => s
  | t :: rest =>
    let s := { s with tick := { s.tick with raised := rest } }
    if s.tick.state = .stopped ∨ holdoverRoot s then s
    else if ¬ notEarly s t then { s with tick := { s.tick with early := satAdd s.tick.early 1 } }
    else if tickRoot s ∧ fld s.tick.ctrl 1 2 ≠ 3 then
      sendMarkers { s with links := { s.links with markerDue := some (t + nsec s.links.tickSys.toNat), markerAt := t } }
    else lockTick t s

/-- TICK_SOURCE_EVENT. -/
def execTickSourceEvent (s : State) : Host.Outcome State Fault Refusal := .next (tickSourceEvent s)

/-- TICK_TIMER_EXPIRY: the engine's own timer expires a period after the previous tick. -/
def execTickTimerExpiry (s : State) : Host.Outcome State Fault Refusal :=
  .next (
    if s.tick.state = .stopped ∨ fld s.tick.ctrl 1 2 ≠ 1 ∨ s.tick.raised ≠ [] then s
    else raiseTick 1 0 (atTime (s.tick.last + us s.tick.period.toNat) s))

/-- A source event or a marker that counts as arrived by a deadline (R240, R357), one that would be taken. -/
def sourceArrived (s : State) (deadline : Nat) : Bool :=
  (!(holdoverRoot s) && s.tick.raised.any (fun t => notEarly s t && decide (t ≤ deadline)))
    || s.links.markerDue.any (fun t => notEarly s t && decide (s.links.markerAt ≤ deadline))

/-- A tick is synthesised. -/
def synthesise (t : Nat) (s : State) : State :=
  let s := takeTick t (setGint 0x10 { s with tick := { s.tick with synth := satAdd s.tick.synth 1 } })
  if holdoverRoot s then sendMarkers s else s

/-- TICK_WATCHDOG_EXPIRY: 1.5 periods without a tick. -/
def execTickWatchdogExpiry (s : State) : Host.Outcome State Fault Refusal :=
  let t := s.tick.last + us s.tick.period.toNat * 3 / 2
  .next (
    if s.tick.state ≠ .locked ∨ sourceArrived s t then s
    else
      let s := atTime t s
      let s := postRecord { event := true, code := 0x03, detail := fld s.tick.ctrl 1 2 } s
      synthesise t { s with tick := { s.tick with state := .holdover } })

/-- HOLDOVER_TICK: in holdover a period has passed since the last tick. -/
def execHoldoverTick (s : State) : Host.Outcome State Fault Refusal :=
  let t := s.tick.last + us s.tick.period.toNat
  .next (if s.tick.state ≠ .holdover ∨ sourceArrived s t then s else synthesise t s)

/-! ### MB_TICK_CONFIG and MB_CANDLE_TABLE -/

/-- TK_CTRL as the arguments of Table 13.2 give it. -/
def tickCtrl (b : List Byte) : Word :=
  put 0 (arg b 10 1) ||| put 1 (arg b 8 1) ||| put 3 (arg b 9 1) ||| put 8 (arg b 11 1)

/-- Whether the source of a request can be selected (R297). -/
def tickSourceOk (s : State) (b : List Byte) : Bool :=
  match arg b 8 1 with
  | 2 => let n : StreamId := fin 4 (arg b 9 1); streamPresent s.grade n && bitAt (s.bnd.strm[n]).ctrl 0
  | 3 => decide (s.grade ≠ .s92) && decide (s.links.sys = 2 ∨ s.links.sys = 3) && decide (s.links.addr ≠ 0)
  | _ => true

/-- MB_TICK_CONFIG. -/
def mbTickConfig (m : MboxId) (_ : PartId) (b : List Byte) (s : State) : State :=
  let period := BitVec.ofNat 20 (arg b 12 4)
  if ¬ tickSourceOk s b ∨ (candleCheck s s.tick.active period.toNat).isSome then reply m stBadArg 0 [] s
  else if arg b 8 1 = 0 ∧ (s.fabric.pins[0]).use ≠ 2 then reply m stResourceBusy 0 [] s
  else if s.tick.state = .stopped then
    let s := applyTickCfg (tickCtrl b) period s
    reply m stOk 0 [] (if bitAt (tickCtrl b) 0 then startTick s else s)
  else reply m stOk 0 [] { s with tick := { s.tick with pendCfg := some (tickCtrl b, period) } }

/-- MB_TICK_CONFIG. -/
def execMbTickConfig (s : State) : Host.Outcome State Fault Refusal := .next (serve 0x60 none mbTickConfig s)

/-- The shadow table with the entries of a request. -/
def shadowWith (s : State) (b : List Byte) : Vector (BitVec 128) 64 :=
  (List.range (arg b 9 1)).foldl (fun v i => v.setIfInBounds (arg b 8 1 + i) (BitVec.ofNat 128 (arg b (16 + 16 * i) 16))) s.tick.shadow

/-- MB_CANDLE_TABLE: entries of the shadow table are replaced; a commit is checked and waits for its tick. -/
def mbCandleTable (m : MboxId) (_ : PartId) (b : List Byte) (s : State) : State :=
  let table := shadowWith s b
  if arg b 10 1 = 0 then reply m stOk 0 [] { s with tick := { s.tick with shadow := table } }
  else
    match candleCheck s table s.tick.period.toNat with
    | some (n, i, w) => reply m stBadArg (n + i * 2 ^ 8) [] (safetyShort w n s)
    | none => reply m stOk 0 [] { s with tick := { s.tick with shadow := table, commit := some (table, s.time) } }

/-- MB_CANDLE_TABLE. -/
def execMbCandleTable (s : State) : Host.Outcome State Fault Refusal := .next (serve 0x61 none mbCandleTable s)

end Sys2Proof.Machine
end

