-- ==== Sys2Proof/Machine/Lamp.lean ====
section
/-! DEFINITION. Machine/Lamp.lean: the lamp test (R307, R321), the wake of a gated array (R308), the degradation of columns, arrays
and cores (R324, R325), and the recovery of a core after a halt (R249, R279, R412). -/
namespace Sys2Proof.Machine
open Sys2Proof

/-! ### Starting a lamp test -/

/-- LAMP_SUBTIMER_EXPIRY: where the period exceeds 50 ms, a lamp test and a toggle point every 50 ms after the tick. -/
def execLampSubtimerExpiry (s : State) : Host.Outcome State Fault Refusal :=
  .next (
    if ¬ subTimerRuns s then s
    else
      let s := atTime (s.tick.subAt + us 50000) s
      togglePoint (lampsDue { s with tick := { s.tick with subAt := s.time } }))

/-- MX holds no started command, or has stopped at a snuff. -/
def mxQuiet (k : Core) : Bool := k.mx.started.isEmpty || k.mx.stopped || coreHalted k

/-- The test begins on the powered arrays of a core: their planes are discarded (R107). -/
def beginLamp (c : CoreId) (tick : Bool) (s : State) : State :=
  let mask := lampArrays s c
  modCore c (fun k => if mask = 0 then { k with lamp := .idle } else
    { dropPlanes mask k with lamp := .running k.enabled mask tick }) s

/-- LAMP_TEST_START: a due test starts in the first cycle in which MX holds no started command. A bin change of the same
tick goes first (R330). -/
def lampTestStart (c : CoreId) (s : State) : State :=
  let k := s.cores[c]
  match k.lamp with
  | .due _ d => if s.tick.binDue ∨ inReset k ∨ ¬ mxQuiet k then s else beginLamp c (decide (d ≠ 0)) s
  | _ => s

/-- LAMP_TEST_START. -/
def execLampTestStart (c : CoreId) (s : State) : Host.Outcome State Fault Refusal := .next (lampTestStart c s)

/-- LAMP_DEFER_EXPIRY: lamp_defer has passed with a started command in MX: the core is snuffed with cause 1 and the test
runs; its verdict restarts the core. -/
def execLampDeferExpiry (c : CoreId) (s : State) : Host.Outcome State Fault Refusal :=
  let k := s.cores[c]
  .next (
    match k.lamp with
    | .due since d =>
      if d = 0 ∨ s.tick.binDue ∨ inReset k ∨ mxQuiet k then s
      else beginLamp c true (modCore c (fun x => { x with lampOwn := decide (k.phase = .live) }) (snuffNow c 1 (atTime (since + us d) s)))
    | _ => s)

/-! ### The verdict (R321) -/

/-- The failing arrays among those tested, by their failing groups. -/
def failedArrays (mask : BitVec 4) (failing : BitVec 32) : List ArrId :=
  (List.finRange 4).filter (fun a : ArrId => bitAt mask a.val && decide (fld failing (8 * a.val) 8 ≠ 0))

/-- The array signature of a test: the golden one where it passes; an array with a failing group has another (log 7). -/
def setSignature (c : CoreId) (a : ArrId) (bad : Bool) (s : State) : State :=
  let i : Fin 24 := fin 24 (4 * c.val + a.val)
  let r := if bad then takeFree 4 s
    else (leBytes 4 (Config.goldenSignature (cEff ((s.cores[c]).arrays[a]).staged)).toNat, s)
  { r.2 with safety := { r.2.safety with lampSig := updAt r.2.safety.lampSig i (fun _ => BitVec.ofNat 32 (leNat r.1)) } }

/-- An array has passed: the lamp-overdue monitor counts anew. -/
def lampPassed (c : CoreId) (a : ArrId) (s : State) : State :=
  let i : Fin 24 := fin 24 (4 * c.val + a.val)
  { s with safety := { s.safety with
    lampArmed := s.safety.lampArmed ||| BitVec.ofNat 24 (2 ^ i.val)
    lampOk := updAt s.safety.lampOk i (fun _ => s.time) } }

/-- HALT_LAMP_FAIL of a verdict (Table 10.8). -/
def lampHalt (s : State) (c : CoreId) (bad : List ArrId) (tick : Bool) : HaltCond :=
  let low : ArrId := bad.headD 0
  haltCond 0x14 0 0 (put 0 ((bad.map (fun a => 2 ^ a.val)).foldl (· + ·) 0) ||| put 4 (b2n tick)
    ||| put 16 (fld ((s.safety.lampSig[4 * c.val + low.val]?).getD 0) 0 16))

/-- The halt of a failed verdict. A core that the test's own snuff halted has HALT_LAMP_FAIL for its record, and HALT_SNUFFED for the second
condition (R307, R324; log 99); the record of a core that was halted otherwise stands (R245). The jobs fail either way (R324). -/
def haltLamp (c : CoreId) (h : HaltCond) (s : State) : State :=
  let k := s.cores[c]
  match k.phase with
  | .halted old =>
    let s := if k.lampOwn ∧ ¬ haltFails old then
      modCore c (fun k => { k with phase := .halted h, lampOwn := false, halt := haltRecord s k h (some old) k.halt.addr }) s else s
    if haltFails old then s
    else forAll (activeOn s c) (fun j => failJob j.id { halt := 0x14, fc := 2, detail := h.detail.toNat }) s
  | _ => raiseHalt c h s

/-- After a test that passes, a core that lamp_defer snuffed runs on, unless its job is paused or has failed, or clocks relock. -/
def lampRestart (c : CoreId) (s : State) : State :=
  let k := s.cores[c]
  let paused : Bool := match findJob s k.ctl.job with
    | some j => decide (j.phase = .paused ∨ j.phase = .demotedPaused) || failStops j
    | none => false
  match k.phase with
  | .halted h =>
    modCore c (fun k => { k with lampOwn := false })
      (if isSnuff h ∧ fld h.detail 0 4 = 1 ∧ ¬ paused ∧ s.tick.relock.isNone then restartCore c s else s)
  | _ => s

/-- A replay whose lamp test has passed goes on, and is counted (R104; log 43). -/
def replayGoes (m : Mx) : Mx :=
  match m.replay with
  | some r => if r.phase = 1 then { m with replay := some { r with phase := 2 }, replayCnt := satAdd m.replayCnt 1 } else m
  | none => m

/-- LAMP_VERDICT: in cycle 511 of the test each array passes, or fails in the groups that failing names (bit 8a + g). -/
def lampVerdict (c : CoreId) (failing : BitVec 32) (s0 : State) : State :=
  let s := advance c (fun s => match (s.cores[c]).lamp with
    | .running since _ _ => lampCycles s.cores[c] since 511
    | _ => true) eventFuel s0
  match (s.cores[c]).lamp with
  | .running _ mask tick =>
    let bad := failedArrays mask failing
    let tested := (List.finRange 4).filter (fun a : ArrId => bitAt mask a.val && arrayInService s c a)
    let s := forAll tested (fun a => setSignature c a (decide (a ∈ bad))) s
    let s := forAll (tested.filter (fun a => decide (a ∉ bad))) (lampPassed c) s
    let s := modCore c lampOver s
    if bad = [] then
      let s := { s with safety := { s.safety with lampPass := s.safety.lampPass || tick } }
      lampRestart c (modMx c replayGoes s)
    else
      let h := lampHalt s c bad tick
      let groups := failing &&& arrayGroups (BitVec.ofNat 4 ((bad.map (fun a => 2 ^ a.val)).foldl (· + ·) 0))
      let s := modCore c (fun k => { k with lampBad := k.lampBad ||| groups }) s
      let s := forAll bad (fun a s => postFor (s.cores[c]).ctl.job (lampFailRec s c a.val h.detail.toNat) s) s
      haltLamp c h s
  | _ => s0

/-- LAMP_VERDICT. -/
def execLampVerdict (c : CoreId) (failing : BitVec 32) (s : State) : Host.Outcome State Fault Refusal :=
  .next (lampVerdict c failing s)

/-! ### Waking an array (R308) -/

/-- Whether the table in force, or the one committed, needs an array. -/
def wakeNeeded (s : State) (c : CoreId) (a : ArrId) : Bool := arrayNeeded s s.tick.active c a || committedNeed s c a

/-- The first command of MX, started or taken, that names an array of its core, with its mask. -/
def wakingCmd (s : State) (c : CoreId) (a : ArrId) : Option (EngCmd × BitVec 4) :=
  let k := s.cores[c]
  let all := k.mx.started.map (fun q => (q.cmd, mxMask q.cfg)) ++ k.mx.taken.toList.map (fun x => (x, mxMask (mxSet k x.set)))
  all.find? (fun x => bitAt x.2 a.val)

/-- Power arrays up: 2 µs later they can be tested (R32), and the lamp-overdue monitor counts from their power-up. -/
def powerArrays (c : CoreId) (mask : BitVec 4) (s : State) : State :=
  let bits := BitVec.ofNat 24 (mask.toNat * 2 ^ (4 * c.val))
  let s := modCore c (fun k => { k with arrays := k.arrays.mapFinIdx (fun i u _ => if bitAt mask i then { u with powered := true } else u) }) s
  { s with
    tick := { s.tick with gated := s.tick.gated &&& ~~~ bits }
    safety := { s.safety with
      lampArmed := if s.safety.toggledAt.isSome then s.safety.lampArmed ||| bits else s.safety.lampArmed &&& ~~~ bits
      lampOk := s.safety.lampOk.mapFinIdx (fun i t _ => if bitAt bits i then s.time else t) } }

/-- The gated arrays among some of a core. -/
def gatedOf (s : State) (c : CoreId) (mask : BitVec 4) : BitVec 4 :=
  BitVec.ofNat 4 (((List.finRange 4).map (fun a : ArrId =>
    b2n (bitAt mask a.val && arrayInService s c a && bitAt s.tick.gated (4 * c.val + a.val)) * 2 ^ a.val)).foldl (· + ·) 0)

/-- ARRAY_WAKE: a gated array that a table or a command of MX needs. A command wakes every gated array it names, and
they take a lamp test before it starts, also before a test that is due; it waits while another test runs. -/
def arrayWake (c : CoreId) (a : ArrId) (s : State) : State :=
  let k := s.cores[c]
  if ¬ arrayInService s c a ∨ ¬ k.powered ∨ k.retained ∨ ¬ bitAt s.tick.gated (4 * c.val + a.val) then s
  else
    match wakingCmd s c a with
    | some (x, mask) =>
      let m := gatedOf s c mask
      let busy : Bool := match k.lamp with | .running _ _ _ => true | _ => false
      if busy then s
      else
        let s := powerArrays c m (atTime (s.time + us 2) s)
        let s := forAll ((List.finRange 4).filter (fun b : ArrId => bitAt m b.val)) (fun b => postRecord
          { event := true, code := 0x07, toPart := some x.part, part := x.part.val, unit := 2, index := c.val, sub := b.val }) s
        modCore c (fun k => match k.lamp with
          | .due t d => { k with lamp := .running k.enabled m false, lampNext := some (t, d) }
          | _ => { k with lamp := .running k.enabled m false }) s
    | none =>
      if wakeNeeded s c a then powerArrays c (BitVec.ofNat 4 (2 ^ a.val)) (atTime (s.time + us 2) s) else s

/-- ARRAY_WAKE. -/
def execArrayWake (c : CoreId) (a : ArrId) (s : State) : Host.Outcome State Fault Refusal := .next (arrayWake c a s)

/-! ### Retirement (R324, R325) -/

/-- A failed job's other cores are stopped with halt_req (R279). -/
def stopOthers (c : CoreId) (s : State) : State :=
  let others := (activeOn s c).flatMap (fun j => (j.cores.map (fun x => x.core)).filter (fun d => decide (d ≠ c) && partActive j d))
  forAll others (fun d => snuffCore d 5) s

/-- A stream port bound to a core is disabled (R25). DESIGN CHOICE (log 92): it is in no frame then. -/
def unbindPorts (c : CoreId) (s : State) : State :=
  forAll ((List.finRange 4).filter (fun n : StreamId => bitAt (s.bnd.strm[n]).ctrl 0 && decide (portCore s.bnd.strm[n] = c)))
    (fun n s => setGint 0x800 (modPort n (fun x => { x with ctrl := x.ctrl &&& ~~~ 1#32, cfgErr := true, inFrame := false }) s)) s

/-- The jobs on a unit that is given up fail with FC_DEGRADED, unless they have failed already (Table 14.1, R324). -/
def failDegraded (c : CoreId) (s : State) : State :=
  forAll (activeOn s c) (fun j => failJob j.id { halt := 0, fc := 2, detail := 0 }) s

/-- A core is retired: its jobs fail, its ports are disabled, its domains gated; cause is the code that led to it. -/
def retireCore (c : CoreId) (cause : Nat) (s : State) : State :=
  if (s.cores[c]).retired ∨ ¬ corePresent s.grade c then s
  else
    let s := ensureReset c (unbindPorts c (failDegraded c (stopOthers c s)))
    let s := bumpGen (modCore c (fun k => { k with
      retired := true, powered := false, lamp := .idle, lampNext := none, lampBad := 0
      arrays := k.arrays.map (fun u => { u with powered := false }) }) s)
    recheck (postRecord { event := true, code := 0x0A, unit := 1, index := c.val, detail := cause } s)

/-- The arrays of a core that are left in service. -/
def arraysLeft (s : State) (c : CoreId) : Nat := ((List.finRange 4).filter (fun a => arrayInService s c a)).length

/-- An array is retired; a core with fewer than two left is retired too. The event carries what is left of its 8 bypasses (Table 14.4,
log 88). -/
def retireArray (c : CoreId) (a : ArrId) (cause : Nat) (s : State) : State :=
  let u := (s.cores[c]).arrays[a]
  if u.retired then s
  else
    let s := bumpGen (modCore c (fun k => { k with
      arrays := updAt k.arrays a (fun u => { u with retired := true, powered := false, plane := none })
      lampBad := k.lampBad &&& ~~~ arrayGroups (BitVec.ofNat 4 (2 ^ a.val)) }) s)
    let s := { s with tick := { s.tick with gated := s.tick.gated &&& ~~~ BitVec.ofNat 24 (2 ^ (4 * c.val + a.val)) } }
    let s := recheck (postRecord {
        event := true, code := 0x09, unit := 2, index := c.val, sub := a.val, detail := 8 - popcount 128 u.staged.toNat } s)
    if arraysLeft s c < 2 then retireCore c cause s else s

/-! ### Column diagnosis (R324) -/

/-- A faulty column joins the staged map of an array (R75, R77). -/
def bypassColumn (c : CoreId) (a : ArrId) (j : Fin 128) (s : State) : State :=
  let map := ((s.cores[c]).arrays[a]).staged ||| BitVec.ofNat 128 (2 ^ j.val)
  let group : BitVec 32 := BitVec.ofNat 32 (2 ^ (8 * a.val + j.val / 16))
  let s := modCore c (fun k => { k with arrays := updAt k.arrays a (fun u => { u with staged := map }), lampBad := k.lampBad &&& ~~~ group }) s
  bumpGen (postRecord { event := true, code := 0x08, unit := 2, index := c.val, sub := j.val, detail := cEff map } s)

/-- The core halted at the replay limit of R104: its arrays are retired without a diagnosis. -/
def replayLimited (k : Core) : Bool :=
  match k.phase with | .halted h => decide (h.code = 0x14#8) && bitAt h.detail 5 | _ => false

/-- Once every failing group has its outcome, the core is reset and its job fails (R324). -/
def diagnosed (c : CoreId) (s : State) : State :=
  let k := s.cores[c]
  if k.lampBad ≠ 0 ∨ k.retired ∨ inReset k then s else coreReset c (stopOthers c s)

/-- COLUMN_DIAGNOSIS of one failing group: the column whose bypass restores it, or none. -/
def columnDiagnosis (c : CoreId) (a : ArrId) (column : Option (Fin 128)) (s : State) : State :=
  let k := s.cores[c]
  let u := k.arrays[a]
  let stands : Bool := match k.phase with | .halted _ => true | .reset _ => true | _ => false
  if ¬ arrayInService s c a ∨ ¬ stands ∨ fld k.lampBad (8 * a.val) 8 = 0 then s
  else
    match column with
    | none => diagnosed c (retireArray c a 0x07 s)
    | some j =>
      if replayLimited k then diagnosed c (retireArray c a 0x07 s)
      else if ¬ bitAt k.lampBad (8 * a.val + j.val / 16) ∨ bitAt u.staged j.val then s
      else if 8 ≤ popcount 128 u.staged.toNat then diagnosed c (retireArray c a 0x07 s)
      else diagnosed c (bypassColumn c a j s)

/-- COLUMN_DIAGNOSIS. -/
def execColumnDiagnosis (c : CoreId) (a : ArrId) (column : Option (Fin 128)) (s : State) : Host.Outcome State Fault Refusal :=
  .next (columnDiagnosis c a column s)

/-! ### Recovery after a halt (R249, R279, R412) -/

/-- An uncorrectable error at an offset: its repeat retires the core (R324); the first is kept. -/
def noteUncorr (c : CoreId) (m : MemName) (off cause : Nat) (s : State) : State :=
  if (m, off) ∈ s.safety.uncorrAt then retireCore c cause s
  else { s with safety := { s.safety with uncorrAt := (m, off) :: s.safety.uncorrAt } }

/-- An uncorrectable word counts against its unit: a repeat at its offset retires the core, or the array of an accumulator, whose core's
jobs then fail (R324). -/
def uncorrUnit (cause : Nat) (m : MemName) (off : Nat) (s : State) : State :=
  match m with
  | .core c => noteUncorr c m off cause s
  | .wbuf c => noteUncorr c m off cause s
  | .bank c _ => noteUncorr c m off cause s
  | .acc c =>
    if (m, off) ∈ s.safety.uncorrAt then
      let s := retireArray c (fin 4 (off / 0x80000)) cause s
      if (activeOn s c).isEmpty then s else ensureReset c (failDegraded c (stopOthers c s))
    else { s with safety := { s.safety with uncorrAt := (m, off) :: s.safety.uncorrAt } }
  | _ => s

/-- An uncorrectable read that a core's engine has reported counts against the word's unit, but for a poisoned word, which scrub has
counted (R320, R324, log 88). -/
def wordMet (c : CoreId) (cause : Nat) (w : WordAt) (s : State) : State :=
  match w with
  | none => s
  | some (m, off) => if ofCore c m ∧ (m, off / 8 * 8) ∉ s.safety.poison then uncorrUnit cause m (off / 8 * 8) s else s

/-- ARRAY_FAULT. -/
def execArrayFault (c : CoreId) (fault : ArrayFinding) (s : State) : Host.Outcome State Fault Refusal :=
  .next (wordMet c 0x03 fault.word (arrayFault c fault s))

/-- MX_OUTPUT_READ_FAULT. -/
def execMxOutputReadFault (at_ : OutputSite) (s : State) : Host.Outcome State Fault Refusal :=
  .next (wordMet at_.core 0x05 at_.word (mxOutputReadFault at_.core at_.row s))

/-- ENGINE_FAULT. -/
def execEngineFault (c : CoreId) (fault : EngineFinding) (s : State) : Host.Outcome State Fault Refusal :=
  .next (wordMet c 0x05 (match fault with | .vec _ _ w => w | .control w => w | .fetch _ => none) (engineFault c fault s))

/-- DX_FAULT. -/
def execDxFault (c : CoreId) (ch : ChanId) (finding : DxFinding) (s : State) : Host.Outcome State Fault Refusal :=
  .next (wordMet c 0x05 finding.word (dxFaultFound c ch finding.cause.toNat s))

/-- FX_FAULT. -/
def execFxFault (c : CoreId) (fault : FxFinding) (s : State) : Host.Outcome State Fault Refusal :=
  .next (wordMet c 0x35 (match fault with | .coreRead w => w | .parity => none) (fxFaultFound c fault s))

/-- What the Lamplighter does besides the reset, by halt code: after HALT_IMEM_ECC the bank is to be loaded anew, and a repeat
at its offset retires the core; after HALT_LOCKSTEP a failed self-test does. -/
def recoverMore (c : CoreId) (h : HaltCond) (ok : Bool) (s : State) : State :=
  if h.code = 0x0B#8 then
    let bank := bitAt h.detail 17
    noteUncorr c (.bank c bank) (fld h.detail 0 17) 0x04 (tagBank c bank none s)
  else if h.code = 0x0C#8 ∧ ¬ ok then retireCore c 0x04 s
  else s

/-- HALT_LOCKSTEP's record and the class of its job's failure, which the self-test gives (Table 10.8, Table 14.3). -/
def lockstepRecord (c : CoreId) (h : HaltCond) (ok : Bool) (s : State) : State :=
  if h.code ≠ 0x0C#8 then s
  else
    let fc := if ok then 1 else 2
    let s := postFor (s.cores[c]).ctl.job (coreHaltRec s c h fc) s
    forAll (activeOn s c) (fun j => failJob j.id { halt := 0x0C, fc := fc, detail := h.detail.toNat }) s

/-- CORE_RECOVERY_RESET: after a core fault, or a halt whose recovery is a reset, the Lamplighter resets the core and stops
the job's other cores; those follow in the same way. A failed lamp test is left to the diagnosis, which comes before the reset (R324). -/
def coreRecovery (c : CoreId) (ok : Bool) (s : State) : State :=
  let failed := (activeOn s c).any failStops
  match (s.cores[c]).phase with
  | .halted h =>
    if h.code = 0x14#8 ∨ (¬ haltFails h ∧ (s.cores[c]).lampBad ≠ 0) ∨ ¬ (failed ∨ haltFails h) then s
    else recoverMore c h ok (coreReset c (stopOthers c (lockstepRecord c h ok s)))
  | .live => if failed then coreReset c (snuffNow c 5 (stopOthers c s)) else s
  | _ => s

/-- CORE_RECOVERY_RESET. -/
def execCoreRecoveryReset (c : CoreId) (selfTestOk : Bool) (s : State) : Host.Outcome State Fault Refusal :=
  .next (coreRecovery c selfTestOk s)

end Sys2Proof.Machine
end

