-- ==== Sys2Proof/Machine/Boot.lean ====
section
/-! DEFINITION. Machine/Boot.lean: the cold start and the boot aperture (R390, R391), BIST and the repair record (R397), boot
images and their selection (R392 to R395). -/
namespace Sys2Proof.Machine
open Sys2Proof

/-- Change the boot sequencer. -/
def modBoot (f : Boot → Boot) (s : State) : State := { s with boot := f s.boot }

/-! ### The cold start (R390) -/

/-- A core as step 5 powers it. -/
def coldCore (g : Grade) (c : CoreId) : Core :=
  if corePresent g c then
    { Core.cold with powered := true, arrays := Vector.ofFn (fun a : Fin 4 => { ArrayUnit.reset with powered := arrayPresent g a }) }
  else Core.cold

/-- A link port as step 5 powers it: it trains. -/
def coldPort (g : Grade) (l : LinkId) : LinkPort :=
  if linkPresent g l then { LinkPort.cold with state := 2, retrainAt := us 50 } else LinkPort.cold

/-- A fabric region after a cold start: unconfigured and unpowered. -/
def coldRegion (g : Grade) (z : RegionId) : Region :=
  if regionPresent g z then { Region.cold with state := 1 } else Region.cold

/-- Steps 2 to 5 of R390: everything takes its reset value; what the system chip drives stays as it drives it, and external
memory as it is. kind is LL_START_CAUSE.kind; by LL_RESET.cold, kind 1, PD_AON keeps the image header and instruction memory (Table 17.5,
log 37). CK_TICK time starts anew. -/
def coldStart (kind : Nat) (s : State) : State :=
  let g := s.grade
  let r := State.reset
  let aon := decide (kind = 1)
  let imem (l : List (MemName × Nat)) : List (MemName × Nat) := if aon then l.filter (fun x => decide (x.1 = .llImem)) else []
  let s := { r with
    pending := s.pending, freeCtr := s.freeCtr, busData := s.busData, grade := g, dram := s.dram
    bnd := { Boundary.reset with
      throttle := s.bnd.thrNext.getD s.bnd.throttle, tempC := s.bnd.tempC, krootPin := s.bnd.krootPin
      kroot := s.bnd.krootPin && decide (g ≠ .s92) }
    cores := Vector.ofFn (coldCore g)
    safety := { Safety.cold g with poison := imem s.safety.poison, corrected := imem s.safety.corrected }
    links := { Links.cold with ports := Vector.ofFn (coldPort g) }
    fabric := { Fabric.cold with regions := Vector.ofFn (coldRegion g), ioVolt := s.fabric.ioVolt }
    boot := { Boot.cold with
      held := false, state := 1, cause := BitVec.ofNat 32 kind, pdAon := true, pdSg := true
      header := if aon then s.boot.header else [], llImem := if aon then s.boot.llImem else []
      pdLnk := BitVec.ofNat 4 (((List.finRange 4).map (fun l : LinkId => b2n (linkPresent g l) * 2 ^ l.val)).sum) } }
  refreshWarn s

/-- COLD_RESET_RELEASE: the system chip releases cold reset; KROOT is sampled with it (R29). -/
def execColdResetRelease (kroot : Bool) (s : State) : Host.Outcome State Fault Refusal :=
  .next (if ¬ s.boot.held then s else coldStart 0 { s with bnd := { s.bnd with krootPin := kroot } })

/-! ### The boot aperture (R391) -/

/-- A write of the aperture reaches slot A or B in boot-wait; elsewhere it is ignored. -/
def apertureWrite (off : Nat) (data : List Byte) (s : State) : State :=
  if s.boot.state ≠ 1 ∨ 0x200000 < off + data.length then s
  else freshWords .staging [(off, data.length)] { s with staging := memStore s.staging off data }

/-- BOOT_APERTURE_WRITE. -/
def execBootApertureWrite (acc : Access) (off : BitVec 24) (data : List Byte) (s : State) : Host.Outcome State Fault Refusal :=
  .next (access acc (0x1000000 + off.toNat) true (apertureWrite off.toNat data) s)

/-- A release with BIST finished begins the check; release_seen falls as it begins (log 38). -/
def beginCheck (s : State) : State := modBoot (fun b => { b with state := 2, releaseSeen := false, noValid := false }) s

/-- A write of LL_BOOT_RELEASE. -/
def bootReleaseWrite (val : Word) (s : State) : State :=
  if ¬ bitAt val 0 ∨ s.boot.state ≠ 1 then s
  else if s.boot.bistDone then beginCheck s
  else modBoot (fun b => { b with releaseSeen := true }) s

/-- BOOT_RELEASE. -/
def execBootRelease (acc : Access) (val : Word) (s : State) : Host.Outcome State Fault Refusal :=
  .next (access acc 0x8004 true (bootReleaseWrite val) s)

/-! ### BIST (R397) -/

/-- The faulty columns that BIST finds in an array. -/
def foundMap (found : BistFinding) (c : CoreId) (a : ArrId) : BitVec 128 :=
  BitVec.ofNat 128 (((List.finRange 128).map (fun j : Fin 128 => b2n (decide ((c, a, j) ∈ found.columns)) * 2 ^ j.val)).sum)

/-- An array after BIST: retired where it is beyond repair or more than 8 columns would be bypassed (R324). -/
def bistArray (found : BistFinding) (c : CoreId) (a : ArrId) (u : ArrayUnit) : ArrayUnit :=
  let map := foundMap found c a
  if decide ((c, a) ∈ found.arrays) || decide (8 < popcount 128 map.toNat) then { u with retired := true, powered := false }
  else { u with staged := map, mapNow := map }

/-- The repair record of one core: its arrays, then the core itself where fewer than two are left. -/
def bistCore (found : BistFinding) (c : CoreId) (s : State) : State :=
  if ¬ corePresent s.grade c then s
  else
    let s := modCore c (fun k => { k with arrays := k.arrays.mapFinIdx (fun i u h =>
      if arrayPresent s.grade ⟨i, h⟩ then bistArray found c ⟨i, h⟩ u else u) }) s
    if decide (c ∈ found.cores) || decide (arraysLeft s c < 2) then
      modCore c (fun k => { k with retired := true, powered := false, arrays := k.arrays.map (fun u => { u with powered := false }) }) s
    else s

/-- The events of one array's repair record: a retired array's carries what is left of its 8 bypasses (log 88). -/
def bistArrayEvents (found : BistFinding) (c : CoreId) (a : ArrId) (s : State) : State :=
  let u := (s.cores[c]).arrays[a]
  if u.retired then postRecord {
      event := true, code := 0x09, unit := 2, index := c.val, sub := a.val, detail := 8 - popcount 128 (foundMap found c a).toNat } s
  else forAll (bitsOf 128 u.staged.toNat) (fun j => postRecord
    { event := true, code := 0x08, unit := 2, index := c.val, sub := j, detail := cEff u.staged }) s

/-- The events of one core's repair record. -/
def bistEvents (found : BistFinding) (c : CoreId) (s : State) : State :=
  let s := forAll (List.finRange 4) (bistArrayEvents found c) s
  if (s.cores[c]).retired then postRecord { event := true, code := 0x0A, unit := 1, index := c.val } s else s

/-- LL_BIST. -/
def bistWord (s : State) : BitVec 19 :=
  let all := (List.finRange 6).flatMap (fun c : CoreId => (List.finRange 4).map (fun a : ArrId => (s.cores[c]).arrays[a]))
  let cols := (all.map (fun u => popcount 128 u.staged.toNat)).sum
  let gone := (all.filter (fun u => u.retired)).length
  BitVec.ofNat 19 (min cols 255 + gone * 2 ^ 8 + ((List.finRange 6).map (fun c : CoreId => b2n (s.cores[c]).retired * 2 ^ (13 + c.val))).sum)

/-- BIST_DONE: the repair record is built and reported; a release already seen is acted on. -/
def bistDone (found : BistFinding) (s : State) : State :=
  if s.boot.state ≠ 1 ∨ s.boot.bistDone then s
  else
    let s := forAll (List.finRange 6) (bistCore found) s
    let s := forAll (List.finRange 6) (bistEvents found) (modBoot (fun b => { b with bistDone := true, bist := bistWord s }) s)
    if s.boot.releaseSeen then beginCheck s else s

/-- BIST_DONE. -/
def execBistDone (found : BistFinding) (s : State) : Host.Outcome State Fault Refusal := .next (bistDone found s)

/-! ### Boot images (R392 to R395) -/

/-- A field of a boot image header (Table 17.1). -/
def bhd (h : List Byte) (lo len : Nat) : Nat := leNat h / 2 ^ lo % 2 ^ len
/-- length. -/
def bhLen (h : List Byte) : Nat := bhd h 96 32
/-- entry. -/
def bhEntry (h : List Byte) : Nat := bhd h 128 32
/-- seq. -/
def bhSeq (h : List Byte) : Nat := bhd h 64 32
/-- body_crc. -/
def bhBodyCrc (h : List Byte) : Nat := bhd h 448 32

/-- The header in a slot: 0 is A, 1 is B. -/
def bootHeader (s : State) (i : Nat) : List Byte := memBytes s.staging (i * 0x100000) 64

/-- The result code of a slot (Table 17.2): a read of an uncorrectable word cannot give what its CRC covers (log 38). -/
def slotCode (s : State) (i : Nat) : Nat :=
  let h := bootHeader s i
  let base := i * 0x100000
  if bhd h 0 32 ≠ 0x4C4C4B49 then 2
  else if meetsPoison s .staging base 64 ∨ bhd h 480 32 ≠ (crc32c (h.take 60)).toNat then 3
  else if bhd h 40 8 ≠ 1 ∨ bhd h 48 16 ≠ 2 then 4
  else if bhd h 160 288 ≠ 0 ∨ bhLen h < 4 ∨ 524288 < bhLen h ∨ bhLen h % 4 ≠ 0 ∨ bhEntry h % 4 ≠ 0 ∨ bhLen h ≤ bhEntry h then 5
  else if meetsPoison s .staging (base + 64) (bhLen h) ∨ (crc32c (memBytes s.staging (base + 64) (bhLen h))).toNat ≠ bhBodyCrc h then 6
  else 1

/-- The valid slots in the order in which the sequencer takes them (R394). -/
def slotOrder (s : State) (codeA codeB : Nat) : List Nat :=
  let d := (bhSeq (bootHeader s 1) + 2 ^ 32 - bhSeq (bootHeader s 0)) % 2 ^ 32
  if codeA = 1 ∧ codeB = 1 then (if 1 ≤ d ∧ d ≤ 2 ^ 31 - 1 then [1, 0] else [0, 1])
  else if codeA = 1 then [0] else if codeB = 1 then [1] else []

/-- No valid image: the state returns to boot-wait. -/
def noValidImage (s : State) : State := setGint 0x002 (modBoot (fun b => { b with state := 1, noValid := true }) s)

/-- What the Lamplighter does at its release after any start, before it serves mailboxes: it claims TMR0, asks for a planner run (R329, R397),
and enables the tick where TK_CTRL does (R296). -/
def llBegins (s : State) : State :=
  let s := claimSubTimer s
  let s := { s with safety := { s.safety with plannerDue := true } }
  if bitAt s.tick.ctrl 0 then startTick s else s

/-- The Lamplighter is released, and serves mailboxes. -/
def releaseLl (s : State) : State := drain (llBegins s)

/-- The chosen image runs (R395). -/
def takeImage (i : Nat) (s : State) : State :=
  let h := bootHeader s i
  let s := modBoot (fun b => { b with
    state := 3, slotB := decide (i = 1), header := h, seq := BitVec.ofNat 32 (bhSeq h), vector := BitVec.ofNat 32 (bhEntry h)
    llImem := memStore [] 0 (memBytes s.staging (i * 0x100000 + 64) (bhLen h)) }) s
  let own (r : Fin 16) (x : SgRegion) : SgRegion := if r.val < 2 then { x with owner := 8, boot := false } else x
  let s := { s with sg := { s.sg with regions := s.sg.regions.mapFinIdx (fun i x h => own ⟨i, h⟩ x) } }
  releaseLl (setGint 0x001 (freshWords .llImem [(0, bhLen h)] s))

/-- Copy the first slot of a list whose copy passes its re-check; a copy that fails it makes its slot's result 7. -/
def copyImage (copyBad : BitVec 2) : List Nat → State → State
  | [], s => noValidImage s
  | i :: l, s =>
    if bitAt copyBad i then copyImage copyBad l (modBoot (fun b => { b with slotCode := b.slotCode.setIfInBounds i 7 }) s)
    else takeImage i s

/-- BOOT_IMAGE_CHECK: both slots are checked, an image chosen, copied and released. copyBad: the copy of slot i fails its
re-check. -/
def bootImageCheck (copyBad : BitVec 2) (s : State) : State :=
  if s.boot.state ≠ 2 then s
  else
    let a := slotCode s 0
    let b := slotCode s 1
    copyImage copyBad (slotOrder s a b)
      (modBoot (fun x => { x with slotCode := #v[BitVec.ofNat 3 a, BitVec.ofNat 3 b] }) s)

/-- BOOT_IMAGE_CHECK. -/
def execBootImageCheck (copyBad : BitVec 2) (s : State) : Host.Outcome State Fault Refusal := .next (bootImageCheck copyBad s)

end Sys2Proof.Machine
end

