-- ==== Sys2Proof/Machine/Resets.lean ====
section
/-! DEFINITION. Machine/Resets.lean: warm restarts (R398 to R402), FC_ENGINE and FC_FATAL faults (R311, Table 14.1), partition and
region resets (R404, R405), worlds and their scrubs (R406, R407), and retention (R410). -/
namespace Sys2Proof.Machine
open Sys2Proof

/-! ### What a warm restart keeps (Table 17.4) -/

/-- A core after step 6: its repair record, world, memories, banks and allocations stand, and the abort that its reset holds (R383). A bank whose
check passes is ready (step 8). -/
def warmCore (k : Core) : Core :=
  { Core.cold with
    retired := k.retired, secure := k.secure, powered := k.powered, retained := k.retained
    fx := { Fx.reset with abortTill := k.fx.abortTill }
    arrays := k.arrays.map (fun u => { u with plane := none, grid := Grid.reset })
    allocs := k.allocs, owners := k.owners, bankSeg := k.bankSeg, mem := k.mem, cyc := k.cyc, enabled := k.enabled, level := k.level,
        lampBad := k.lampBad
    ctl := { Ctl.reset with active := k.ctl.active, ready := k.ctl.ready || (bankTag k (!k.ctl.active)).isSome } }

/-- A partition: its configuration, mailbox and fault ring stand. -/
def warmPart (p : PartId) (x : Partition) : Partition :=
  { Partition.cold p with
    enabled := x.enabled, secure := x.secure, fenceQuota := x.fenceQuota, tagBase := x.tagBase, tagCount := x.tagCount
    queueQuota := x.queueQuota, mbox := x.mbox, frBase := x.frBase, frCtrl := x.frCtrl, frHead := x.frHead
    frTail := x.frTail, frLost := x.frLost }

/-- The boundary: stream ports keep their configuration, the pins what drives them. -/
def warmBoundary (b : Boundary) : Boundary :=
  { b with
    gintStatus := 0, gintEnable := 0, strm := b.strm.map (fun x => { x with drop := 0, cfgErr := false })
    warnC := Boundary.reset.warnC, timedOut := false, ksafeA := false, ksafeB := false }

/-- The safety window: the secure log, the margin table and what counts since cold start stand. -/
def warmSafety (g : Grade) (x : Safety) : Safety :=
  { Safety.cold g with
    cwdg := x.cwdg, marginCode := x.marginCode, bin := x.bin, exhausted := x.exhausted, slack := x.slack
    log := x.log, logHead := x.logHead, seq := x.seq, engTimes := x.engTimes, fatal := x.fatal, aliveAt := x.aliveAt
    poison := x.poison, corrected := x.corrected, scrubAt := x.scrubAt, uncorrAt := x.uncorrAt }

/-- The tick: configuration, tables and the gating of arrays stand; every entry's run begins anew. -/
def warmTick (x : Tick) : Tick :=
  { Tick.cold with
    ctrl := x.ctrl, period := x.period, pendCfg := x.pendCfg, active := x.active, shadow := x.shadow, gated := x.gated }

/-- A link port: its link stands; its counters are cleared, and what has not been sent is lost. -/
def warmPort (x : LinkPort) : LinkPort := { x with crc := 0, replay := 0, retrain := 0, flits := 0, sendq := [], hbWait := [] }

/-- The receive buffers that a port's flits held are free: their credits return (R336). -/
def freeHeld (rx : List (LinkId × Flit)) (l : LinkId) (p : LinkPort) : LinkPort :=
  { p with freed := p.freed.mapFinIdx (fun k n _ => n + (rx.filter (fun x => decide (x.1 = l) && decide (x.2.cls.val = k))).length) }

/-- The links of an engine of an enumerated system, also of one that is being enumerated again: it comes up islanded (R351, R352); addresses,
configured mask, topology, groups and L_sys stand (R343). -/
def warmLinks (x : Links) : Links :=
  let member := decide (x.sys = 2 ∨ x.sys = 3) || (decide (x.sys = 1) && x.enum.any (fun e => decide (e.before = 3)))
  { Links.cold with
    ports := x.ports.mapFinIdx (fun i p hi => warmPort (freeHeld x.rx ⟨i, hi⟩ p))
    sys := if member then 3 else 0
    addr := if member then x.addr else 0
    members := if member then BitVec.ofNat 32 (2 ^ x.addr.toNat) else 0
    epoch := x.epoch, topo := x.topo, xm1 := x.xm1, ym1 := x.ym1, count := x.count, config := x.config
    tickSys := x.tickSys, groups := x.groups, hbSeq := x.hbSeq, hbSeen := x.hbSeen, heardAt := x.heardAt }

/-- The fabric: configured regions take their initial values (R405), user clocks, which they run on, and claims stand. -/
def warmFabric (t : Nat) (f : Fabric) : Fabric :=
  { f with
    regions := f.regions.map (fun z => { (if z.state = 2 then regionInitial t z else z) with
      cmdReady := false, lastCode := 0, failFrame := 0, loads := 0, bramErr := 0 })
    cfgRegion := 0, cmd := 0, dataLo := 0, fifo := [], lastCode := 0, frames := 0, uclkErr := 0, scanFor := 0, scanRegion := 0, scanPasses := 0
    kio := Fabric.cold.kio
    timers := f.timers.map (fun t => { t with reload := 0, enable := false, since := 0, pulsed := none }) }

/-- Host objects: attachments, queues, registrations, packages and tags stand; caches and heads do not. The jobs that ran end in step 8. -/
def warmHost (h : HostSide) : HostSide :=
  { h with
    parts := h.parts.mapFinIdx (fun i x hi => warmPart ⟨i, hi⟩ x), smIntStatus := 0, smIntEnable := HostSide.cold.smIntEnable
    sent := [], tlb := [], tlbInv := [], queues := h.queues.map (fun q => { q with head := none })
    fences := h.fences.map (fun f => { f with cached := false }), proxies := h.proxies.filter (fun x => x.pending.isNone), verify := none
    rrLast := Vector.replicate 8 0, performed := [] }

/-- Staging and the memory port: owners stand. -/
def warmSg (x : Sg) : Sg := { Sg.reset with regions := x.regions }

/-- Everything that the Lamplighter's release finds: state that Table 17.4 does not list takes its reset value (R400). An
engine that becomes islanded changes the capability table (R293, R351). A scrub for a new world ends with the old one in force (log 37). -/
def warmState (s : State) : State :=
  let s := { s with haloMsgs := [], haloRuns := [], bnd := warmBoundary s.bnd, sg := warmSg s.sg, cores := s.cores.map warmCore }
  let s := { s with host := warmHost s.host, tick := warmTick s.tick, safety := warmSafety s.grade s.safety }
  let island := decide (s.links.sys = 2)
  let s := { s with
    links := warmLinks s.links, fabric := warmFabric s.time s.fabric
    boot := { s.boot with worldErr := false, worldBusy := none, worldKind := 0, worldIndex := 0, partBusy := 0 } }
  if island then bumpGen s else s

/-! ### The steps of a warm restart (R399) -/

/-- Step 1: KSAFE is low, the tick stops, a running fabric load ends with ABORTED; its request is answered with the others. While it runs, the
state is 4: the Lamplighter serves nothing, and further triggers are ignored (R398). -/
def warmStop (s : State) : State :=
  let s := { s with
    boot := { s.boot with state := 4 }
    bnd := { s.bnd with ksafeA := false, ksafeB := false }
    tick := { s.tick with state := .stopped, raised := [] }
    fabric := { s.fabric with load := s.fabric.load.map (fun l : FbLoad => { l with path := 2 }) } }
  match s.fabric.load with | some l => loadFail 10 l.applied.length s | none => s

/-- The cores that a warm restart stops and resets. -/
def warmList (s : State) : List CoreId := (List.finRange 6).filter (fun c => inService s c && (s.cores[c]).powered && !(s.cores[c]).retained)

/-- Step 2: every core is snuffed with cause 4, and every started job fails (R401). -/
def warmSnuff (s : State) : State :=
  let s := { s with host := { s.host with queues := s.host.queues.map (fun q => { q with destroy := none }) } }
  let s := forAll ((warmList s).filter (fun c => !(inReset s.cores[c]))) (fun c => snuffNow c 4) s
  forAll s.host.jobs (stopJob 4 4) s

/-- Step 3: whether there is a kept header and instruction memory still has its body_crc (log 37). -/
def imageHolds (s : State) : Bool :=
  let n := bhLen s.boot.header
  decide (bhd s.boot.header 0 32 = 0x4C4C4B49) && !(meetsPoison s .llImem 0 n) &&
    decide ((crc32c (memBytes s.boot.llImem 0 n)).toNat = bhBodyCrc s.boot.header)

/-- Requests that were pending or sent during the restart are answered ST_BUSY, but for the one that began it, which is
answered ST_OK (R401, R402). -/
def warmReplies (by_ : Option (Fin 9)) (s : State) : State :=
  let s := forAll ((List.finRange 9).filter (fun m : Fin 9 => (mbOf s m).busy && decide (some m ≠ by_))) (fun m => reply m stBusy 0 []) s
  match by_ with | some m => reply m stOk 0 [] s | none => s

/-- LL_START_CAUSE of a warm restart: kind 2 by request, 3 by fault. -/
def warmCause (old : Word) (kind code : Nat) : Word :=
  put 0 kind ||| put 8 code ||| put 16 (min (fld old 16 16 + 1) 0xFFFF)

/-- Every proxy has err set (R351). -/
def errProxies (s : State) : State :=
  { s with host := { s.host with proxies := s.host.proxies.map (fun x => { x with err := true }) } }

/-- Step 7: one pass of the scan: a configured region with a frame that does not hold goes to state 4 (R373). -/
def warmScan (s : State) : State :=
  let live := liveRegions s
  let s := modFabric (fun f => { f with scanPasses := if live = [] then 0 else 1 }) (atTime (s.time + live.length * scanRegionTime) s)
  forAll live (fun z s =>
    match (s.fabric.regions[z]).crcs.find? (fun x => !(frameHolds (s.fabric.regions[z]).config x)) with
    | some x => scanFails z x.1 s
    | none => s) s

/-- Step 8: the Lamplighter is released. The jobs that ran complete, an engine of an enumerated system sends JOIN, and with that the requests are
answered and others served. -/
def warmRelease (by_ : Option (Fin 9)) (kind code : Nat) (s : State) : State :=
  let island := decide (s.links.sys = 3)
  let s := if island then errProxies s else s
  let s := llBegins (endJobs s.host.jobs (modBoot (fun b => { b with state := 3, cause := warmCause b.cause kind code }) s))
  drain (warmReplies by_ (if island then sendJoin s else s))

/-- A warm restart, as one step: its steps are those of R399 (log 37). kind 2: by request; 3: by a fault with this code. -/
def warmRestart (by_ : Option (Fin 9)) (kind code : Nat) (s : State) : State :=
  let s := warmSnuff (warmStop s)
  if ¬ imageHolds s then coldStart 0 s
  else
    let s := forAll (warmList s) resetBody { vofsStep s with time := s.time + us 20 }
    warmRelease by_ kind code (warmScan (reroute (refreshWarn (warmState s))))

/-- A warm restart can begin: the engine is powered, no other one runs, and it is not in the fatal hold (R398). -/
def canRestart (s : State) : Bool := !s.boot.held && decide (s.boot.state ≠ 4) && !s.safety.fatal

/-! ### Engine and fatal faults -/

/-- FC_FATAL: KSAFE stops and every core is held in reset until the next cold start. -/
def fatalHold (code : Nat) (s : State) : State :=
  let s := ksafeStop code (modBoot (fun b => { b with state := 5 }) s)
  forAll ((List.finRange 6).filter (fun c => inService s c && (s.cores[c]).powered)) ensureReset s

/-- A fault of class FC_ENGINE or FC_FATAL is recorded; a third FC_ENGINE fault within 10 s is FC_FATAL (R311). -/
def engineClass (r : RecIn) (s : State) : State :=
  if s.boot.held then s
  else
    let t := postRecord r s
    if s.safety.fatal then t
    else if t.safety.fatal then fatalHold r.code t
    else if canRestart t then warmRestart none 3 r.code t
    else t

/-! ### Reset registers -/

/-- A write of LL_RESET: a cold start takes precedence over a warm restart. -/
def resetWrite (val : Word) (s : State) : State :=
  if s.boot.held then s
  else if bitAt val 1 then coldStart 1 s
  else if bitAt val 0 ∧ canRestart s then warmRestart none 2 0 s
  else s

/-- LL_RESET_COLD. -/
def execLlResetCold (acc : Access) (val : Word) (s : State) : Host.Outcome State Fault Refusal :=
  .next (access acc 0x8020 true (resetWrite val) s)
/-- LL_RESET_WARM. -/
def execLlResetWarm (acc : Access) (val : Word) (s : State) : Host.Outcome State Fault Refusal :=
  .next (access acc 0x8020 true (resetWrite val) s)

/-- MB_WARM_RESTART: in the fatal hold it is answered ST_BUSY (log 37). -/
def mbWarmRestart (m : MboxId) (_ : PartId) (_ : List Byte) (s : State) : State :=
  if canRestart s then warmRestart (some m) 2 0 s else reply m stBusy 0 [] s

/-- MB_WARM_RESTART. -/
def execMbWarmRestart (s : State) : Host.Outcome State Fault Refusal := .next (serve 0xF0 none mbWarmRestart s)

/-! ### Partition reset (R404) -/

/-- The state of a partition's context tags is cleared. -/
def clearTags (x : Partition) (s : State) : State :=
  { s with host := { s.host with tags := s.host.tags.filter (fun t => !(tagHeld x t.tag)) } }

/-- The records that a partition has registered or owns. -/
def fencesOf (s : State) (p : PartId) : List Nat :=
  (s.host.fences.filter (fun f => decide (f.ownPart = p) ||
    s.host.regs.any (fun r => decide (r.part = p) && r.home.isNone && decide (r.addr = f.addr)))).map
    (fun f => f.addr)

/-- The five steps of a partition reset; LL_PART_RESET shows it while it runs. -/
def partReset (p : PartId) (s : State) : State :=
  let busy (on : Bool) : State → State := modBoot (fun b => { b with
    partBusy := if on then b.partBusy ||| BitVec.ofNat 8 (2 ^ p.val) else b.partBusy &&& ~~~ BitVec.ofNat 8 (2 ^ p.val) })
  let s := busy true s
  let mine (q : HostQueue) : Bool := decide (q.part = p)
  let s := forAll (s.host.queues.filter mine) (fun q => disableQueue q.qid) s
  let s := killJobs (s.host.jobs.filter (fun j => decide (j.part = p))) 3 3 s
  let s := settle (discardQueues (s.host.queues.filter mine) s)
  let own := fencesOf s p
  let s := clearTags s.host.parts[p] (discardFences (fun f => decide (f.addr ∈ own)) s)
  let asids := (s.host.asids.filter (fun a => decide (a.part = p))).map (fun a => a.asid)
  let bad (q : HostQueue) : HostQueue := { q with state := .error, pulled := q.submitted, head := none }
  busy false { s with host := { s.host with
    tlb := s.host.tlb.filter (fun t => decide (t.asid ∉ asids))
    queues := s.host.queues.map (fun q => if q.part = p then bad q else q) } }

/-- A write of LL_PART_RESET; a bit whose reset runs already has no further effect. -/
def partResetWrite (val : Word) (s : State) : State :=
  if ¬ llServes s then s
  else forAll ((List.finRange 8).filter (fun p : PartId => bitAt val p.val && !(bitAt s.boot.partBusy p.val))) partReset s

/-- LL_PART_RESET_WRITE. -/
def execLlPartResetWrite (acc : Access) (val : Word) (s : State) : Host.Outcome State Fault Refusal :=
  .next (access acc 0x8024 true (partResetWrite val) s)

/-! ### Region reset (R405) -/

/-- A reset of a region: a load ends with ABORTED, user logic takes its initial values; a region that a started FX command
holds is left alone. -/
def regionReset (z : RegionId) (s : State) : State :=
  if fxHolds s z then s
  else
    match (s.fabric.regions[z]).state.toNat with
    | 3 => (match s.fabric.load with | some l => if l.region = z then loadFail 10 l.applied.length s else s | none => s)
    | 2 => initialValues z s
    | _ => s

/-- A write of LL_REGION_RESET. -/
def regionResetWrite (val : Word) (s : State) : State :=
  forAll ((List.finRange 8).filter (fun z : RegionId => bitAt val z.val)) regionReset s

/-- LL_REGION_RESET_WRITE. -/
def execLlRegionResetWrite (acc : Access) (val : Word) (s : State) : Host.Outcome State Fault Refusal :=
  .next (access acc 0x8028 true (regionResetWrite val) s)

/-! ### Worlds (R406, R407) -/

/-- The world of a block; none: no such block. -/
def worldOf (s : State) (kind index : Nat) : Option Bool :=
  match kind with
  | 0 => if h : index < 6 then (if corePresent s.grade ⟨index, h⟩ then some (s.cores[(⟨index, h⟩ : CoreId)]).secure else none) else none
  | 1 => if h : index < 8 then (if regionPresent s.grade ⟨index, h⟩ then some (s.fabric.regions[(⟨index, h⟩ : RegionId)]).secure else none) else none
  | 2 => if h : index < 4 then (if linkPresent s.grade ⟨index, h⟩ then some (s.links.ports[(⟨index, h⟩ : LinkId)]).secure else none) else none
  | _ => none

/-- Whether a core holds a committed packet, or any other work of a job. -/
def coreHolds (s : State) (c : CoreId) : Bool :=
  let k := s.cores[c]
  !(jobsOn s c).isEmpty || k.queues.toList.any (fun q => q.slots.any (fun x => x.order.isSome)) || holdsResume k

/-- Whether a block is not idle. -/
def worldInUse (s : State) (kind index : Nat) : Bool :=
  match kind with
  | 0 => coreHolds s (fin 6 index)
  | 1 => fxHolds s (fin 8 index) || decide ((s.fabric.regions[(fin 8 index : RegionId)]).state = 3)
  | _ => decide (s.links.sys ≠ 0)

/-- A write of LL_WORLD_REQ: an accepted request begins the scrub; a core's planes are dropped with it (R107). -/
def worldReqWrite (val : Word) (s : State) : State :=
  let kind := fld val 0 2
  let index := fld val 2 3
  let world := bitAt val 5
  match worldOf s kind index with
  | none => s
  | some old =>
    if old = world then s
    else
      let s := modBoot (fun b => { b with worldKind := BitVec.ofNat 2 kind, worldIndex := BitVec.ofNat 3 index }) s
      if s.boot.worldBusy.isSome ∨ worldInUse s kind index then modBoot (fun b => { b with worldErr := true }) s
      else
        let s := modBoot (fun b => { b with worldErr := false, worldBusy := some (BitVec.ofNat 2 kind, BitVec.ofNat 3 index, world) }) s
        if kind = 0 then modCore (fin 6 index) (dropPlanes 0xF) s else s

/-- LL_WORLD_REQ. -/
def execLlWorldReq (acc : Access) (val : Word) (s : State) : Host.Outcome State Fault Refusal :=
  .next (access acc 0x8040 true (worldReqWrite val) s)

/-- The memories of a core are zero, its banks empty. -/
def zeroCore (c : CoreId) (s : State) : State :=
  let s := modCore c (fun k => { k with
    mem := Core.cold.mem, bankSeg := Vector.replicate 2 none, ctl := { k.ctl with ready := false }
    arrays := k.arrays.map (fun u => { u with invalid := 0 }) }) s
  { s with safety := { s.safety with
    poison := s.safety.poison.filter (fun x => !(ofCore c x.1)), corrected := s.safety.corrected.filter (fun x => !(ofCore c x.1)) } }

/-- The scrub of a core: memories zeroed, a core reset, the halt record cleared whole; ports bound to it are disabled (R25). In the fatal hold it
stays in reset (R398). -/
def scrubCore (c : CoreId) (world : Bool) (s : State) : State :=
  let s := resetBody c (zeroCore c s)
  unbindPorts c (modCore c (fun k => { k with
    secure := world, phase := if s.safety.fatal then k.phase else .live, halt := Core.cold.halt }) s)

/-- The scrub of a region: unloaded, its block RAMs zeroed. -/
def scrubRegion (z : RegionId) (world : Bool) (s : State) : State :=
  bumpGen (modRegion z (fun r => { r with
    secure := world, state := 1, powered := false, cmdReady := false, extId := 0, bram := [], config := [], crcs := [], logic := Logic.cold }) s)

/-- The scrub of a port: its replay buffer is zeroed and it retrains. -/
def scrubPort (l : LinkId) (world : Bool) (s : State) : State :=
  retrainStart l 0 (modLink l (fun p => { p with secure := world, buffer := [], sendq := [] }) s)

/-- WORLD_SCRUB_DONE: the new world takes effect and busy clears. -/
def worldScrubDone (s : State) : State :=
  match s.boot.worldBusy with
  | none => s
  | some (kind, index, world) =>
    let s := modBoot (fun b => { b with worldBusy := none }) s
    match kind.toNat with
    | 0 => scrubCore (fin 6 index.toNat) world s
    | 1 => scrubRegion (fin 8 index.toNat) world s
    | _ => scrubPort (fin 4 index.toNat) world s

/-- WORLD_SCRUB_DONE. -/
def execWorldScrubDone (s : State) : Host.Outcome State Fault Refusal := .next (worldScrubDone s)

/-! ### Retention (R410) -/

/-- CORE_RETENTION_EXIT: a core in retention that an entry of the table in force or of the committed one names, or to which a
stream port is enabled, wakes in 20 µs (Table 17.6) with a core reset; its arrays stay gated until they are woken. -/
def retentionExit (c : CoreId) (s : State) : State :=
  if ¬ inService s c ∨ ¬ (s.cores[c]).retained ∨ ¬ coreWanted s c then s
  else
    let s := modCore c (fun k => { k with retained := false }) { s with time := s.time + us 20 }
    resetBody c s

/-- CORE_RETENTION_EXIT. -/
def execCoreRetentionExit (c : CoreId) (s : State) : Host.Outcome State Fault Refusal := .next (retentionExit c s)

end Sys2Proof.Machine
end

