-- ==== Sys2Proof/Machine/Links.lean ====
section
/-! DEFINITION. Machine/Links.lean: what comes in by a link port: control flits and data flits (R335 to R338), training, runs and
their acknowledgements (R341, R345), and the fence messages of R346. -/
namespace Sys2Proof.Machine
open Sys2Proof

/-- Change the link unit. -/
def modLinks (f : Links → Links) (s : State) : State := { s with links := f s.links }

/-- A receive buffer of a class is free again: its credit returns with the next control flit (R336). -/
def freeBuffer (l : LinkId) (cls : Fin 4) (s : State) : State :=
  modLink l (fun p => { p with freed := updAt p.freed cls (fun n => n + 1) }) s

/-! ### Heartbeat records (R348) -/

/-- Record i of a control flit's payload (Table 15.2). -/
def hbRecOf (raw : List Byte) (i : Nat) : Option HbRec :=
  let b := (raw.drop (32 + 8 * i)).take 8
  if leNat (b.take 1) = 0xFF then none
  else some {
      origin := BitVec.ofNat 5 (leNat (b.take 1)), member := (leNat b).testBit 8, islanded := (leNat b).testBit 9,
      seq := BitVec.ofNat 16 (leNat b / 2 ^ 16), epoch := BitVec.ofNat 16 (leNat b / 2 ^ 32) }

/-- Whether a member's record restarts its loss timer: it still runs, and the record has the current epoch. -/
def restartsTimer (s : State) (r : HbRec) : Bool :=
  decide (s.links.sys = 2) && r.member && decide (r.epoch = s.links.epoch) && bitAt s.links.members r.origin.toNat
    && ((s.links.lossFrom[r.origin.toNat]?).join).isSome

/-- A record is seen: the last 64 of each origin are kept (log 102). -/
def seeRecord (r : HbRec) (seen : List (BitVec 5 × Half)) : List (BitVec 5 × Half) :=
  (r.origin, r.seq) :: (seen.filter (fun x => decide (x.1 = r.origin))).take 63 ++ seen.filter (fun x => decide (x.1 ≠ r.origin))

/-- A heartbeat record arrives: seen, forwarded on the other up ports the first time, and counted for its member. -/
def takeHeartbeat (l : LinkId) (r : HbRec) (s : State) : State :=
  if r.origin = s.links.addr then s
  else
    let e : Fin 32 := r.origin.toFin
    let first := decide ((r.origin, r.seq) ∉ s.links.hbSeen)
    let restart := restartsTimer s r
    let s := modLinks (fun k => { k with
      heardAt := updAt k.heardAt e (fun _ => some s.time)
      hbSeen := if first then seeRecord r k.hbSeen else k.hbSeen
      lossFrom := if restart then updAt k.lossFrom e (fun _ => some s.time) else k.lossFrom }) s
    if ¬ first then s
    else forAll ((upPorts s).filter (fun o => decide (o ≠ l))) (fun o => modLink o (fun p => { p with hbWait := p.hbWait ++ [r] })) s

/-! ### Control flits (R336, R337) -/

/-- ack_lseq frees the flits that it covers. -/
def ackFlits (ack : Half) (p : LinkPort) : LinkPort :=
  let base := p.txSeq - BitVec.ofNat 16 p.buffer.length
  let n := (ack - base).toNat
  if n ≤ p.buffer.length then { p with buffer := p.buffer.drop n } else p

/-- Credits return, up to the 64 buffers of a class. -/
def addCredits (raw : List Byte) (p : LinkPort) : LinkPort :=
  { p with credits := p.credits.mapFinIdx (fun i n _ => min 64 (n + leNat ((raw.drop (24 + 2 * i)).take 2))) }

/-- A nak: everything from ack_lseq + 1 on is sent again. -/
def takeNak (nak : Bool) (ack : Half) (p : LinkPort) : LinkPort :=
  if nak then { p with
    replay := satAdd p.replay p.buffer.length, nakSeq := ack
    nakCount := if p.nakSeq = ack ∧ 0 < p.nakCount then p.nakCount + 1 else 1 }
  else { p with nakCount := 0 }

/-- The neighbour that a control flit names; its port by the cabling of Table 15.4. -/
def neighbourOf (l : LinkId) (raw : List Byte) : Option (BitVec 5 × BitVec 2) :=
  some ((flitOf raw).src, BitVec.ofNat 2 (across l).val)

/-- Whether a port is up after a control flit: trained in both directions, and heard at both ends (R338). -/
def upAfter (p : LinkPort) : BitVec 2 := if trained p ∧ p.heard then 3 else 2

/-- A good control flit. -/
def takeControl (l : LinkId) (raw : List Byte) (s : State) : State :=
  let ack := BitVec.ofNat 16 (leNat ((raw.drop 16).take 2))
  let flags := leNat ((raw.drop 18).take 1)
  let s := modLink l (fun p => { addCredits raw (takeNak (flags.testBit 0) ack (ackFlits ack p)) with
    goodAt := s.time, hears := true, heard := flags.testBit 1, neighbour := neighbourOf l raw }) s
  let p := s.links.ports[l]
  let s := if upAfter p = p.state then s else portChange l (fun p => { p with state := upAfter p }) s
  pump l (forAll ((List.range 28).filterMap (hbRecOf raw)) (takeHeartbeat l) s)

/-- A flit arrives that is discarded: it is counted, and the first discard after an accepted flit asks for nak. -/
def discardFlit (l : LinkId) (s : State) : State :=
  modLink l (fun p => { p with crc := satAdd p.crc 1, nak := p.nak || !p.discarding, discarding := true }) s

/-- CONTROL_FLIT_RECEIVE; its tick marker is LINK_TICK_MARKER. -/
def execControlFlitReceive (l : LinkId) (raw : List Byte) (s : State) : Host.Outcome State Fault Refusal :=
  .next (
    if ¬ receives s l then s
    else if ¬ flitGood raw then discardFlit l s
    else if leNat (raw.take 1) % 16 ≠ 2 then s
    else takeControl l raw s)

/-! ### Data flits (R337, R341) -/

/-- The run whose last flit has arrived: the waiting flits of its source and class. -/
def runOfRx (s : State) (cls : Fin 4) (src : BitVec 5) : List (LinkId × Flit) :=
  let l := s.links.rx.filter (fun x => decide (x.2.cls = cls) && decide (x.2.src = src))
  match l.findIdx? (fun x => x.2.last) with
  | some i => l.take (i + 1)
  | none => []

/-- Flits leave the receive buffers. -/
def dropRx (l : List (LinkId × Flit)) (s : State) : State :=
  let s := modLinks (fun k => { k with rx := l.foldl (fun rx x => rx.erase x) k.rx }) s
  forAll l (fun x => freeBuffer x.1 x.2.cls) s

/-- The flit that ends a run with its length and place, where it has one (log 101). -/
def tailOf (fs : List Flit) : Option Flit :=
  match fs with
  | f :: g :: l => (some ((g :: l).getLastD g)).filter (fun t => decide (t.addr = f.addr))
  | _ => none

/-- The data of a run. -/
def runData (fs : List Flit) : List Byte :=
  match tailOf fs with
  | some t => let bs := fs.dropLast.flatMap (fun f => f.payload); bs.take (bs.length - leNat (t.payload.take 1))
  | none => fs.flatMap (fun f => f.payload)

/-- The halo run, or the piece of one, that flits carry (R202, R205, log 101). -/
def haloOfFlits (l : LinkId) (f : Flit) (fs : List Flit) : HaloRun :=
  let bs := runData fs
  let at_ := fld f.addr 0 23
  let num (t : Flit) (o n : Nat) : Nat := leNat ((t.payload.drop o).take n)
  let r : HaloRun := {
      core := fin 6 (fld f.info 16 3), path := .remote f.src, part := fin 8 (fld f.info 19 3), seq := BitVec.ofNat 16 (fld f.info 0 16),
      start := (at_ : Nat), len := bs.length, off := 0, data := bs, runLast := true, unitLast := bitAt f.addr 23, sender := none,
      link := some (l, (fs.getLastD f).pseq) }
  match tailOf fs with
  | some t => { r with
      start := if (num t 1 1).testBit 1 then (at_ : Nat) else (at_ : Int) - (num t 4 4 : Nat)
      len := num t 8 4, off := num t 4 4, runLast := (num t 1 1).testBit 0 }
  | none => r

/-- A halo run is on its way to its core (R205). -/
def haloFromLink (src : BitVec 5) (s : State) : State :=
  match runOfRx s 0 src with
  | [] => s
  | x :: xs =>
    dropRx (x :: xs) { s with haloRuns := s.haloRuns ++ [haloOfFlits x.1 x.2 ((x :: xs).map (fun y => y.2))] }

/-- A flit of a run for this engine: written in pair sequence; a duplicate is dropped and its run acknowledged again; one
ahead is discarded and counted (R341). -/
def takeRunFlit (l : LinkId) (f : Flit) (s : State) : State :=
  let e : Fin 32 := f.src.toFin
  let want := s.links.pseqFrom[e]
  if f.pseq = want then
    let s := modLinks (fun k => { k with pseqFrom := updAt k.pseqFrom e (fun p => p + 1), rx := k.rx ++ [(l, f)] }) s
    if f.cls = 0 ∧ f.last then haloFromLink f.src s else s
  else if (want - f.pseq).toNat < 2048 then
    let s := freeBuffer l f.cls s
    if f.last then sendMsg 3 6 f.src.toNat 0 (leBytes 2 f.pseq.toNat) s else s
  else freeBuffer l f.cls (modLink l (fun p => { p with crc := satAdd p.crc 1 }) s)

/-- Where an engine that the token has reached, and that does not know the topology yet, passes a flit for engine d: straight on; one that has
started a row of a torus, back by the port of the token, along its row, or to the rows behind (R343, log 22). -/
def tokenWay (e : EnumRun) (l : LinkId) (d : Nat) : LinkId :=
  if ¬ e.starter then across l else if d < e.addr then e.from_ else if d < e.rowEnd then 0 else 2

/-- Forward a flit for another engine. -/
def passOn (l : LinkId) (f : Flit) (s : State) : State :=
  match s.links.enum with
  | some e => sendOver (tokenWay e l f.dst.toNat) [f] s
  | none => sendTo f.dst.toNat [f] s

/-- An engine's own address, the one that the token gave it while it is enumerated. -/
def ownAddr (s : State) : Nat := match s.links.enum with | some e => e.addr | none => s.links.addr.toNat

/-- An accepted data flit: an islanded engine carries no traffic of classes 0 to 2 (R351). -/
def acceptFlit (l : LinkId) (f : Flit) (s : State) : State :=
  let s := modLink l (fun p => { p with rxSeq := f.lseq, discarding := false }) s
  if islanded s ∧ f.cls.val ≤ 2 then freeBuffer l f.cls s
  else if f.cls.val ≤ 1 ∧ f.dst.toNat = ownAddr s then takeRunFlit l f s
  else if hopwise f ∨ f.dst.toNat = ownAddr s then modLinks (fun k => { k with rx := k.rx ++ [(l, f)] }) s
  else passOn l f (freeBuffer l f.cls s)

/-- DATA_FLIT_RECEIVE. -/
def dataFlit (l : LinkId) (raw : List Byte) (s : State) : State :=
  if ¬ receives s l then s
  else if ¬ flitGood raw then discardFlit l s
  else if leNat (raw.take 1) % 16 ≠ 1 then s
  else
    let s := modLink l (fun p => { p with goodAt := s.time, hears := true }) s
    let f := flitOf raw
    if f.lseq = (s.links.ports[l]).rxSeq + 1 then acceptFlit l f s else discardFlit l s

/-- DATA_FLIT_RECEIVE. -/
def execDataFlitReceive (l : LinkId) (raw : List Byte) (s : State) : Host.Outcome State Fault Refusal := .next (dataFlit l raw s)

/-! ### Retraining (R338) -/

/-- LINK_RETRAIN: 16 control flits with nak and one ack_lseq, or 50 µs without a good flit. -/
def execLinkRetrain (l : LinkId) (s : State) : Host.Outcome State Fault Refusal :=
  let p := s.links.ports[l]
  .next (
    if ¬ receives s l then s
    else if 16 ≤ p.nakCount then retrainStart l 0 s
    else retrainStart l 0 (atTime (p.goodAt + us 50) s))

/-- The lanes on which a port runs: all 8, or those of one half (R334). -/
def usedLanes (m : Byte) : Byte :=
  if m = 0xFF then 0xFF else if m &&& 0x0F = 0x0F then 0x0F else if m &&& 0xF0 = 0xF0 then 0xF0 else 0

/-- LINK_RETRAIN_END: lanes that have trained; without a half the attempt has failed after 100 µs, and the third failed one
takes the port down. On success sending resumes at the first unacknowledged flit. -/
def retrainEnd (l : LinkId) (lanes : Byte) (s : State) : State :=
  let p := s.links.ports[l]
  let m := usedLanes lanes
  if p.state ≠ 2 ∨ trained p then s
  else if m ≠ 0 then
    portChange l (fun p => { p with
      laneMask := m, trainedLanes := lanes, lanes := if m = 0xFF then 8 else 4, fails := 0, goodAt := s.time
      replay := satAdd p.replay p.buffer.length }) s
  else
    let s := atTime (p.retrainAt + us 100) s
    if 2 ≤ p.fails then portChange l (fun p => { p with state := 1, fails := 3, retrainAt := s.time }) s
    else retrainStart l (p.fails + 1) s

/-- LINK_RETRAIN_END. -/
def execLinkRetrainEnd (l : LinkId) (lanes : Byte) (s : State) : Host.Outcome State Fault Refusal := .next (retrainEnd l lanes s)

/-- PORT_RETRY: a down port trains again after 10 ms; its next failure takes it down again. -/
def execPortRetry (l : LinkId) (s : State) : Host.Outcome State Fault Refusal :=
  let p := s.links.ports[l]
  .next (if p.state ≠ 1 then s else retrainStart l 2 (atTime (p.retrainAt + us 10000) s))

/-! ### Messages -/

/-- Take the first message of a class and type from a port. -/
def takeMsg (l : LinkId) (cls : Fin 4) (type : Nat) (act : Flit → State → State) (s : State) : State :=
  match s.links.rx.find? (fun x => decide (x.1 = l) && decide (x.2.cls = cls) && decide (fld x.2.info 0 8 = type)) with
  | none => s
  | some x => act x.2 (dropRx [x] s)

/-- A number in a message's payload. -/
def msgNum (f : Flit) (off n : Nat) : Nat := leNat ((f.payload.drop off).take n)

/-! ### Runs between engines (R341, R345) -/

/-- The sent run to an engine whose last flit has a pair sequence. -/
def sentRun (s : State) (e : BitVec 5) (pseq : Nat) : Option SentRun :=
  s.links.sent.find? (fun r => decide (r.dst = e) && decide ((r.flits.getLast?).any (fun f => decide (f.pseq.toNat = pseq))))

/-- A member has acknowledged an op 1 request of engine 0 (R342): the reply follows the last one. -/
def groupAck (waits : Word) (s : State) : State :=
  match s.links.groupSet with
  | none => s
  | some g =>
    let w := g.waits &&& ~~~ waits
    if w = 0 then reply g.mbox stOk 0 (leBytes 1 (popcount 32 s.links.members.toNat)) (modLinks (fun k => { k with
        groupSet := none, enumResult := 0 }) s)
    else modLinks (fun k => { k with groupSet := some { g with waits := w } }) s

/-- What a RUN_ACK of a MEMBERSHIP with new groups carries in place of a pair sequence, which has 12 bits (log 22). -/
def groupAckSeq : Nat := 0xFFFF

/-- RUN_ACK: of a run, or of a MEMBERSHIP with new groups. -/
def runAck (f : Flit) (s : State) : State :=
  match sentRun s f.src (msgNum f 0 2) with
  | some r => memberAck f.src.toNat r (modLinks (fun k => { k with sent := k.sent.erase r }) s)
  | none => if msgNum f 0 2 = groupAckSeq then groupAck (BitVec.ofNat 32 (2 ^ f.src.toNat)) s else s

/-- RUN_ACK. -/
def execRunAck (l : LinkId) (s : State) : Host.Outcome State Fault Refusal := .next (takeMsg l 3 6 runAck s)

/-- RUN_REFUSE: the sending core halts with HALT_PERMISSION kind 1; the transfer is over. -/
def runRefuse (f : Flit) (s : State) : State :=
  match sentRun s f.src (msgNum f 0 2) with
  | none => s
  | some r => denyRun 1 r s

/-- RUN_REFUSE. -/
def execRunRefuse (l : LinkId) (s : State) : Host.Outcome State Fault Refusal := .next (takeMsg l 3 7 runRefuse s)

/-- Whether a partition owns every staging region of a range. -/
def stagingOwned (s : State) (p : Nat) (lo n : Nat) : Bool :=
  decide (lo + n ≤ 0x1000000) && (List.finRange 16).all (fun r : Fin 16 =>
    !(overlaps (r.val * 0x100000) ((r.val + 1) * 0x100000) lo (lo + n)) || decide ((s.sg.regions[r]).owner.toNat = p))

/-- MULTICAST_RUN_RECEIVE: the oldest whole multicast run from a port is written into staging, or refused. -/
def multicastRun (l : LinkId) (s : State) : State :=
  match s.links.rx.find? (fun x => decide (x.1 = l) && decide (x.2.cls = 1)) with
  | none => s
  | some first =>
    match runOfRx s 1 first.2.src with
    | [] => s
    | x :: xs =>
      let f := x.2
      let data := runData ((x :: xs).map (fun y => y.2))
      let lastFlit := ((x :: xs).map (fun y => y.2)).getLastD f
      let lo := f.addr.toNat
      let s := dropRx (x :: xs) s
      if stagingOwned s (fld f.info 4 3) lo data.length then
        sendMsg 3 6 f.src.toNat 0 (leBytes 2 lastFlit.pseq.toNat)
          (freshWords .staging [(lo, data.length)] { s with staging := memStore s.staging lo data })
      else sendMsg 3 7 f.src.toNat 0 (leBytes 2 lastFlit.pseq.toNat ++ [1#8]) s

/-- MULTICAST_RUN_RECEIVE. -/
def execMulticastRunReceive (l : LinkId) (s : State) : Host.Outcome State Fault Refusal := .next (multicastRun l s)

/-! ### Fence messages (R346) -/

/-- The fid that a fence message names. -/
def msgFid (f : Flit) : Nat := fld f.addr 0 12

/-- SIGNAL at the home: applied to each fence that the engine subscribes to under that fid (log 22). -/
def msgSignal (f : Flit) (s : State) : State :=
  let v := BitVec.ofNat 64 (msgNum f 0 8)
  let err := (msgNum f 8 1).testBit 0
  let hits := s.host.fences.flatMap (fun x =>
    (x.subs.filter (fun u => decide (u.engine = f.src.toNat ∧ u.fid = msgFid f))).map (fun u => (x.addr, u.part)))
  settle (forAll hits (fun h => signalRecord h.1 v err true (fin 8 h.2)) s)

/-- SIGNAL. -/
def execSignal (l : LinkId) (s : State) : Host.Outcome State Fault Refusal := .next (takeMsg l 2 1 msgSignal s)

/-- Whether a proxy is of the fence that a message from its home names. -/
def proxyOf (f : Flit) (x : Proxy) : Bool := decide (x.engine = f.src.toNat) && decide (x.homeFid = msgFid f)

/-- UPDATE: every registered proxy of the fence takes the value and err. -/
def msgUpdate (f : Flit) (s : State) : State :=
  let v := BitVec.ofNat 64 (msgNum f 0 8)
  let err := (msgNum f 8 1).testBit 0
  settle { s with host := { s.host with proxies := s.host.proxies.map (fun x =>
    if proxyOf f x ∧ x.pending.isNone then { x with value := v, err := err } else x) } }

/-- UPDATE. -/
def execUpdate (l : LinkId) (s : State) : Host.Outcome State Fault Refusal := .next (takeMsg l 2 2 msgUpdate s)

/-- SUBSCRIBE at the home: the fid must be registered by the partition of the same number, in the same world. -/
def msgSubscribe (f : Flit) (s : State) : State :=
  let p : PartId := fin 8 (msgNum f 0 1)
  let answer (st : Nat) (s : State) : State := sendFence p 4 f.src.toNat (msgFid f) [BitVec.ofNat 8 st] s
  match (findReg s p (msgFid f)).filter (fun r => r.home.isNone) with
  | none => answer 1 s
  | some r =>
    if (s.host.parts[p]).secure ≠ (msgNum f 1 1).testBit 0 then answer 2 s
    else
      let u : Subscriber := { engine := f.src.toNat, part := p.val, fid := msgFid f }
      answer 0 (modFence r.addr (fun x => { x with subs := if u ∈ x.subs then x.subs else x.subs ++ [u] }) s)

/-- SUBSCRIBE. -/
def execSubscribe (l : LinkId) (s : State) : Host.Outcome State Fault Refusal := .next (takeMsg l 2 3 msgSubscribe s)

/-- SUB_REPLY: the oldest registration that waits for it is answered. The value of a new proxy is free until its home first
sends one (log 22). -/
def msgSubReply (f : Flit) (s : State) : State :=
  match s.host.proxies.find? (fun x => proxyOf f x && x.pending.isSome) with
  | none => s
  | some x =>
    match x.pending with
    | none => s
    | some (m, _) =>
      if msgNum f 0 1 = 0 then
        let r := takeFree 8 s
        let y := { x with pending := none, value := BitVec.ofNat 64 (leNat r.1) }
        let reg : FenceReg := { part := x.part, fid := x.fid, asid := x.asid, addr := 0, home := some (x.engine, x.homeFid) }
        let s := r.2
        reply m stOk 0 (fenceResult x.fid true) { s with host := { s.host with
          proxies := s.host.proxies.map (fun z => if z = x then y else z)
          regs := s.host.regs ++ [reg] } }
      else reply m stDenied 0 [] { s with host := { s.host with proxies := s.host.proxies.erase x } }

/-- SUB_REPLY. -/
def execSubReply (l : LinkId) (s : State) : Host.Outcome State Fault Refusal := .next (takeMsg l 2 4 msgSubReply s)

/-- Subscriptions end at the home; a record that nobody registers or subscribes to leaves the cache. -/
def dropSubs (gone : Subscriber → Bool) (s : State) : State :=
  let hit := (s.host.fences.filter (fun x => x.subs.any gone)).map (fun x => x.addr)
  forAll hit (fun a s => passFence a (modFence a (fun x => { x with subs := x.subs.filter (fun u => !(gone u)) }) s)) s

/-- UNSUBSCRIBE. -/
def execUnsubscribe (l : LinkId) (s : State) : Host.Outcome State Fault Refusal :=
  .next (takeMsg l 2 5 (fun f s => dropSubs (fun u => decide (u.engine = f.src.toNat ∧ u.fid = msgFid f)) s) s)

end Sys2Proof.Machine
end

