-- ==== Sys2Proof/Machine/Protect.lean ====
section
/-! DEFINITION. Machine/Protect.lean: scrub and write-back (R320), the watchdogs and monitors of Table 14.5, and the writes of
SF_KSAFE_STOP and SF_DUAL_MAP (R318, R333). -/
namespace Sys2Proof.Machine
open Sys2Proof

/-! ### Scrub (R320) -/

/-- The bytes of a memory (Table 01.15); a partition's state is one word (log 66). -/
def memSize (m : MemName) : Nat :=
  match m with
  | .core _ => 0x800000 | .acc _ => 0x200000 | .wbuf _ => 0x80000 | .curve _ => 0x10000 | .dmem _ => 0x40000 | .bank _ _ => 0x20000
  | .staging => 0x1000000 | .llImem => 0x80000 | .llDmem => 0x80000 | .bram _ => 0xC0000 | .replayBuf _ => 0x20000 | .part _ => 8

/-- Whether a core's memories are powered; its control core's too. -/
def coreOn (s : State) (c : CoreId) (ctl : Bool) : Bool := inService s c && (s.cores[c]).powered && !(ctl && (s.cores[c]).retained)

/-- Whether a memory is there: present, in service and powered. -/
def memThere (s : State) (m : MemName) : Bool :=
  match m with
  | .core c => coreOn s c false | .acc c => coreOn s c false | .wbuf c => coreOn s c false | .curve c => coreOn s c false
  | .dmem c => coreOn s c true | .bank c _ => coreOn s c true
  | .staging => s.boot.pdSg | .llImem => s.boot.pdAon | .llDmem => s.boot.pdAon
  | .bram z => decide ((s.fabric.regions[z]).state = 2)
  | .replayBuf l => bitAt s.boot.pdLnk l.val && !(scrubbing s 2 l.val)
  | .part p => (s.host.parts[p]).enabled

/-- The unit and index by which records name a memory (Table 14.2). -/
def memUnit (m : MemName) : Nat × Nat :=
  match m with
  | .core c => (1, c.val) | .acc c => (1, c.val) | .wbuf c => (1, c.val) | .curve c => (1, c.val) | .dmem c => (1, c.val) | .bank c _ => (1, c.val)
  | .staging => (0, 0) | .llImem => (8, 0) | .llDmem => (8, 0) | .bram z => (6, z.val) | .replayBuf l => (5, l.val)
  | .part p => (9, p.val)

/-- A record about a word of a memory. -/
def memRec (code : Nat) (m : MemName) (off : Nat) : RecIn :=
  { code := code, unit := (memUnit m).1, index := (memUnit m).2, addr := off }

/-- A word of a memory. -/
def wordThere (s : State) (m : MemName) (off : Nat) : Bool := memThere s m && decide (off % 8 = 0) && decide (off < memSize m)

/-- A word is written back with poison check bits. -/
def setPoison (m : MemName) (off : Nat) (s : State) : State :=
  { s with safety := { s.safety with poison := (m, off) :: s.safety.poison.filter (fun x => decide (x ≠ (m, off))) } }

/-- Change the list of words that have been corrected since their last scrub visit. -/
def setCorrected (m : MemName) (off : Nat) (on : Bool) (s : State) : State :=
  { s with safety := { s.safety with corrected := (if on then [(m, off)] else []) ++ s.safety.corrected.filter (fun x => decide (x ≠ (m, off))) } }

/-- An error is corrected and counted once. -/
def countCorr (s : State) : State := { s with safety := { s.safety with corr := satAdd s.safety.corr 1 } }

/-- What scrub does further: an instruction bank is to be loaded anew, and Lamplighter memory raises LL_MEM. -/
def uncorrFurther (m : MemName) (off : Nat) (s : State) : State :=
  match m with
  | .bank c b =>
    let s := tagBank c b none s
    if (s.cores[c]).ctl.active = b then s else modCtl c (fun x => { x with ready := false }) s
  | .llImem => engineClass { memRec 0x12 m off with fc := 4, dangerous := true } s
  | .llDmem => engineClass { memRec 0x12 m off with fc := 4, dangerous := true } s
  | _ => s

/-- An uncorrectable error in a partition's fence-cache, tag or queue state: PART_STATE, and the partition is reset (Tables 14.1, 14.3). -/
def partState (p : PartId) (s : State) : State := partReset p (postRecord { memRec 0x0B (.part p) 0 with fc := 3, part := p.val } s)

/-- An uncorrectable word that scrub finds is poisoned and recorded; the first time it counts against its unit. A partition's state is
reset instead. -/
def scrubUncorr (m : MemName) (off : Nat) (s : State) : State :=
  match m with
  | .part p => partState p s
  | _ =>
    let fresh := decide ((m, off) ∉ s.safety.poison)
    let s := postRecord (memRec 0x02 m off) (setPoison m off (setCorrected m off false s))
    uncorrFurther m off (if fresh then uncorrUnit 0x02 m off s else s)

/-- SCRUB_VISIT of a word, with what it finds: every read of a poisoned word is uncorrectable. A visit of the last word ends a pass of its
memory. -/
def scrubVisit (m : MemName) (off : Nat) (found : EccFinding) (s : State) : State :=
  if ¬ wordThere s m off then s
  else
    let s := if off + 8 = memSize m ∧ (memUnit m).1 ≠ 9 then finishScrub m s else s
    match (if (m, off) ∈ s.safety.poison then .uncorrectable else found) with
    | .clean => setCorrected m off false s
    | .corrected => countCorr (setCorrected m off true s)
    | .uncorrectable => scrubUncorr m off s

/-- SCRUB_VISIT. -/
def execScrubVisit (m : MemName) (off : Nat) (found : EccFinding) (s : State) : Host.Outcome State Fault Refusal :=
  .next (scrubVisit m off found s)

/-- SCRUB_WRITEBACK: a read has corrected a word, and its bank's next slot writes it back. A second correction before the next
visit is CORR_REPEAT. -/
def scrubWriteback (m : MemName) (off : Nat) (s : State) : State :=
  if ¬ wordThere s m off ∨ (m, off) ∈ s.safety.poison then s
  else
    let again := decide ((m, off) ∈ s.safety.corrected)
    let s := countCorr (setCorrected m off true s)
    if again then postRecord (memRec 0x01 m off) s else s

/-- SCRUB_WRITEBACK. -/
def execScrubWriteback (m : MemName) (off : Nat) (s : State) : Host.Outcome State Fault Refusal := .next (scrubWriteback m off s)

/-! ### Watchdogs and monitors (Table 14.5) -/

/-- The record of a fault on a core, with its running job. -/
def coreRec (s : State) (c : CoreId) (r : RecIn) : RecIn :=
  match findJob s (s.cores[c]).ctl.job with
  | some j => { r with toPart := some j.part, part := j.part.val, job := jobRec j }
  | none => r

/-- CORE_ALIVE_EXPIRY: 100 µs without a pulse: the core is reset; a second expiry within 3,600 s retires it (R324). -/
def coreAlive (c : CoreId) (s : State) : State :=
  if ¬ coreOn s c true then s
  else
    let s := { s with time := s.time + us 100 }
    let again := (s.safety.aliveAt[c]).any (fun t => decide (s.time ≤ t + us 3600000000))
    let s := { s with safety := { s.safety with
      aliveAt := s.safety.aliveAt.set c (some s.time), cwdg := s.safety.cwdg ||| BitVec.ofNat 6 (2 ^ c.val) } }
    let s := postFor (s.cores[c]).ctl.job (coreRec s c { code := 0x08, fc := if again then 2 else 1, unit := 1, index := c.val }) s
    if again then retireCore c 0x08 s else ensureReset c (stopOthers c s)

/-- CORE_ALIVE_EXPIRY. -/
def execCoreAliveExpiry (c : CoreId) (s : State) : Host.Outcome State Fault Refusal := .next (coreAlive c s)

/-- A dangerous FC_ENGINE fault. -/
def engineFaultOf (code unit index sub : Nat) (s : State) : State :=
  engineClass { code := code, fc := 4, dangerous := true, unit := unit, index := index, sub := sub } s

/-- LL_WATCHDOG_EXPIRY. -/
def execLlWatchdogExpiry (s : State) : Host.Outcome State Fault Refusal := .next (if s.boot.state = 3 then engineFaultOf 0x11 8 0 0 s else s)

/-- LL_LOCKSTEP_MISMATCH. -/
def execLlLockstepMismatch (s : State) : Host.Outcome State Fault Refusal := .next (if s.boot.state = 3 then engineFaultOf 0x10 8 0 0 s else s)

/-- CLOCK_MONITOR_FAULT: monitor n, in the order of Table 14.5. -/
def execClockMonitorFault (n : Fin 9) (s : State) : Host.Outcome State Fault Refusal :=
  .next (if s.boot.held then s else
    engineFaultOf 0x13 10 n.val 0 { s with safety := { s.safety with clkSup := s.safety.clkSup ||| 1#7 } })

/-- The supply monitors sample their pins: SUP_UV in bits 2 to 0 and SUP_OV in bits 5 to 3, in the order VDD_K, VDD_L, VDD_AON
(Table 14.8). -/
def sampleSupply (pins : BitVec 6) (s : State) : State :=
  { s with safety := { s.safety with clkSup := (s.safety.clkSup &&& 1#7) ||| (pins.setWidth 7 <<< 1) } }

/-- SUPPLY_FAULT: the monitors sample pins; the named pin, of rail 0 VDD_K, 1 VDD_L or 2 VDD_AON, over or under its range, is a fault
where the second sample finds it asserted. -/
def execSupplyFault (rail : Fin 3) (sample : SupplySample) (s : State) : Host.Outcome State Fault Refusal :=
  .next (if s.boot.held then s else
    let s := sampleSupply sample.pins s
    if ¬ bitAt sample.pins (rail.val + 3 * b2n sample.high) then s
    else if rail = 2 then engineClass { code := 0x15, fc := 5, dangerous := true, unit := 10, index := 2 } s
    else engineFaultOf 0x14 10 rail.val 0 s)

/-- PACING_EXPIRY: 80 ms without a toggle point, counted from the first one after the start. -/
def execPacingExpiry (s : State) : Host.Outcome State Fault Refusal :=
  .next (
    match s.safety.toggledAt with
    | none => s
    | some t => if s.boot.state ≠ 3 then s else engineFaultOf 0x16 0 0 0 (atTime (t + us 80000) s))

/-- LAMP_OVERDUE_EXPIRY: a powered array in service without a passed test for 90 ms. -/
def execLampOverdueExpiry (c : CoreId) (a : ArrId) (s : State) : Host.Outcome State Fault Refusal :=
  let i := 4 * c.val + a.val
  .next (
    if s.boot.state ≠ 3 ∨ ¬ bitAt (lampArrays s c) a.val ∨ ¬ bitAt s.safety.lampArmed i then s
    else engineFaultOf 0x17 2 c.val a.val (atTime ((s.safety.lampOk[i]?).getD 0 + us 90000) s))

/-! ### Writes of the safety window -/

/-- A write of SF_KSAFE_STOP. -/
def ksafeStopWrite (val : Word) (s : State) : State :=
  if bitAt val 0 then postRecord { code := 0x1A, dangerous := true } { s with safety := { s.safety with stopReq := true } } else s

/-- SF_KSAFE_STOP_WRITE. -/
def execSfKsafeStopWrite (acc : Access) (val : Word) (s : State) : Host.Outcome State Fault Refusal :=
  .next (access acc 0xA0004 true (ksafeStopWrite val) s)

/-- Whether a map pairs in-service cores symmetrically (R333). -/
def dualMapOk (s : State) (val : Word) : Bool :=
  (List.finRange 6).all (fun c : CoreId =>
    let v := fld val (3 * c.val) 3
    decide (v = 7) || (if h : v < 6 then inService s ⟨v, h⟩ && decide (v ≠ c.val) && decide (fld val (3 * v) 3 = c.val) else false))

/-- A safety-classed entry runs. -/
def safetyRuns (s : State) : Bool := (validEntries s).any (fun e => enSafety (entryBits s e) && decide ((runOf s e).state = .running))

/-- A write of SF_DUAL_MAP. -/
def dualMapWrite (val : Word) (s : State) : State :=
  if safetyRuns s ∨ ¬ dualMapOk s val then s
  else { s with safety := { s.safety with dualMap := val.setWidth 18 } }

/-- SF_DUAL_MAP_WRITE. -/
def execSfDualMapWrite (acc : Access) (val : Word) (s : State) : Host.Outcome State Fault Refusal :=
  .next (access acc 0xA0040 true (dualMapWrite val) s)

end Sys2Proof.Machine
end

