-- ==== Sys2Proof/Machine/Margin.lean ====
section
/-! DEFINITION. Machine/Margin.lean: slack monitors and their floor (R328, R331), the margin planner (R329), bin changes (R330) and
MB_MARGIN_REPORT (R332). -/
namespace Sys2Proof.Machine
open Sys2Proof

/-! ### Slack monitors (R328) -/

/-- Whether a monitor's domain is in service (R328, R329). -/
def monitorIn (s : State) (n : Nat) : Bool :=
  if n < 24 then arrayInService s (fin 6 (n / 4)) (fin 4 n)
  else if n < 30 then inService s (fin 6 (n - 24))
  else if n < 36 then inService s (fin 6 (n - 30))
  else regionPresent s.grade (fin 8 (n - 36))

/-- Whether a monitor's domain is in service and powered. -/
def monitorOn (s : State) (n : Nat) : Bool :=
  if n < 24 then
    let c : CoreId := fin 6 (n / 4)
    arrayInService s c (fin 4 n) && ((s.cores[c]).arrays[(fin 4 n : Fin 4)]).powered
  else if n < 30 then coreOn s (fin 6 (n - 24)) false
  else if n < 36 then coreOn s (fin 6 (n - 30)) true
  else (s.fabric.regions[(fin 8 (n - 36) : Fin 8)]).powered

/-- A monitor's reading of a window. -/
def takeReading (r : SlackReading) (s : State) : State :=
  if ¬ monitorOn s r.mon.val then s
  else
    let least (a b : Byte) : Byte := if a ≤ b then a else b
    { s with safety := { s.safety with slack := updAt s.safety.slack r.mon (fun x =>
      { now := r.slack, low := least x.low r.slack, ring := r.ring, sinceRun := least x.sinceRun r.slack }) } }

/-- guard. -/
def marginGuard (s : State) : Byte := s.safety.marginCfg.setWidth 8
/-- floor. -/
def marginFloor (s : State) : Nat := fld s.safety.marginCfg 8 8

/-- SLACK_WINDOW: a 1 ms window ends; every reading below the floor is SLACK_FLOOR, whether or not the margin is exhausted (R317, R331,
Tables 14.3 and 14.5). -/
def slackWindow (readings : List SlackReading) (s : State) : State :=
  if s.boot.held then s
  else
    let s := atTime ((s.time / us 1000 + 1) * us 1000) s
    let bad := readings.filter (fun r => monitorOn s r.mon.val && decide (r.slack.toNat < marginFloor s))
    let s := forAll readings takeReading { s with safety := { s.safety with fresh := s.safety.fresh - 1 } }
    forAll bad (fun r => engineClass { code := 0x18, fc := 5, dangerous := true, unit := 11, index := r.mon.val }) s

/-- SLACK_WINDOW. -/
def execSlackWindow (readings : List SlackReading) (s : State) : Host.Outcome State Fault Refusal := .next (slackWindow readings s)

/-! ### The margin planner (R329) -/

/-- The in-service monitor of a range with the least slack, the lowest-numbered of equals, with its slack; none: 0xFF. A
powered-down one counts with its last value. -/
def leastSlack (s : State) (lo hi : Nat) : Nat × Byte :=
  ((List.finRange 44).filter (fun n : Fin 44 => decide (lo ≤ n.val) && decide (n.val ≤ hi) && monitorIn s n.val)).foldl
    (fun best n => let v := (s.safety.slack[n]).now; if v < best.2 then (n.val, v) else best) (0xFF, 0xFF#8)

/-- An offset request is pending, or the code is on its way to that of the margin table (R26, R399). -/
def offsetPending (s : State) : Bool := decide (s.bnd.vofsCode ≠ s.bnd.vofsAck ∨ s.bnd.vofsCode ≠ s.safety.marginCode) && !s.bnd.timedOut

/-- A run of the planner ends. -/
def plannerEnd (s : State) : State :=
  { s with safety := { s.safety with
    plannerDue := false, lastRun := nowUs s, slack := s.safety.slack.map (fun x => { x with sinceRun := 0xFF }) } }

/-- MARGIN_STEP is posted; two fresh windows follow before the planner looks again. -/
def marginStep (code bin drop mon : Nat) (s : State) : State :=
  let s := { s with safety := { s.safety with forcing := BitVec.ofNat 8 mon, fresh := 2, plannerDue := true } }
  setGint 0x004 (bumpGen (postRecord
    { event := true, code := 0x01, unit := 11, index := mon, detail := code + bin * 2 ^ 4 + drop * 2 ^ 7 + mon * 2 ^ 8 } s))

/-- VOFS_ACK_ARRIVAL: the regulator drives VOFS_ACK equal to VOFS_CODE (R26). A step of the planner that has waited for it is posted
(R329); after a warm restart the next step towards the margin table's code follows (R399). -/
def execVofsAckArrival (s : State) : Host.Outcome State Fault Refusal :=
  let t := { s with bnd := { s.bnd with vofsAck := s.bnd.vofsCode }, safety := { s.safety with planStep := none } }
  .next (match s.safety.planStep with
    | some mon => marginStep s.bnd.vofsCode.toNat s.safety.bin.toNat 0 mon.toNat t
    | none => if s.bnd.timedOut then t else vofsStep t)

/-- REGULATOR_TIMEOUT: 1 ms after a change of VOFS_CODE that has not been acknowledged (R26). The planner goes on with the code frozen
(R331). -/
def execRegulatorTimeout (s : State) : Host.Outcome State Fault Refusal :=
  .next (
    if s.bnd.vofsCode = s.bnd.vofsAck ∨ s.bnd.timedOut then s
    else
      let s := atTime (s.bnd.vofsFrom + us 1000) s
      setGint 0x200 (postRecord { code := 0x0C, fc := 2, unit := 10 }
        { s with bnd := { s.bnd with timedOut := true }, safety := { s.safety with planStep := none } }))

/-- One round of the planner's loop: a step of the code is driven, and posted when the regulator has acknowledged it. A regulator fault freezes the
code: the planner goes on as though it were 12 (R331). -/
def plannerRound (s : State) : State :=
  let g := marginGuard s
  let sc := leastSlack s 0 29
  let sf := leastSlack s 30 43
  let code := s.bnd.vofsCode.toNat
  let bin := s.safety.bin.toNat
  let mon := if sf.2 < sc.2 then sf.1 else sc.1
  if g ≤ sc.2 ∧ g ≤ sf.2 then plannerEnd s
  else if code < 12 ∧ ¬ s.bnd.timedOut then
    { s with
      bnd := { s.bnd with vofsCode := s.bnd.vofsCode + 1, vofsFrom := s.time }
      safety := { s.safety with marginCode := s.bnd.vofsCode + 1, plannerDue := true, planStep := some (BitVec.ofNat 8 mon) } }
  else if sc.2 < g ∧ bin < 4 then
    marginStep code (bin + 1) 1 sc.1 { s with tick := { s.tick with binPend := some (s.safety.bin + 1) } }
  else
    let fixed := decide (g ≤ sc.2)
    let m := if fixed then sf.1 else sc.1
    let s := { s with safety := { s.safety with exhausted := true } }
    plannerEnd (setGint 0x008 (bumpGen (postRecord
      { event := true, code := 0x02, unit := 11, index := m, detail := m * 2 ^ 8 + b2n fixed * 2 ^ 16 } s)))

/-- MARGIN_PLANNER_RUN: one round of a run that is due or under way, or of the run that begins interval seconds after the last
one. It waits for an offset request, a bin change and fresh windows (log 40). -/
def plannerRun (s : State) : State :=
  if s.boot.state ≠ 3 ∨ offsetPending s ∨ s.tick.binPend.isSome ∨ s.tick.relock.isSome ∨ 0 < s.safety.fresh then s
  else if s.safety.plannerDue then plannerRound s
  else plannerRound (atTime (us (s.safety.lastRun + fld s.safety.marginCfg 16 16 * 1000000)) s)

/-- MARGIN_PLANNER_RUN. -/
def execMarginPlannerRun (s : State) : Host.Outcome State Fault Refusal := .next (plannerRun s)

/-! ### Bin changes (R330) -/

/-- Whether a core that is halted waits for its job's resumption, and not for a clock change. -/
def jobWaits (s : State) (c : CoreId) : Bool :=
  match findJob s (s.cores[c]).ctl.job with
  | some j => decide (j.phase = .paused ∨ j.phase = .demotedPaused)
  | none => false

/-- The cores that hold a started job and run, or have been snuffed for a lamp test. -/
def relockCores (s : State) : List CoreId :=
  (coresInService s).filter (fun c => !(activeOn s c).isEmpty && !(jobWaits s c) &&
    (match (s.cores[c]).phase with | .live => true | .halted h => isSnuff h && decide (fld h.detail 0 4 = 1) | _ => false))

/-- BIN_CHANGE: at a tick, before its lamp tests, the cores with started jobs are snuffed with cause 1 and the clocks begin to
relock; the candle check is repeated. -/
def binChange (s : State) : State :=
  match s.tick.binPend with
  | none => s
  | some b =>
    if ¬ s.tick.binDue ∨ offsetPending s then s
    else
      let cores := relockCores s
      let s := forAll cores (fun c s => if (s.cores[c]).phase = .live then snuffNow c 1 s else s) s
      let s := { s with
        tick := { s.tick with binPend := none, binDue := false, relock := some (s.time, cores) }
        safety := { s.safety with bin := b } }
      recheck (bumpGen s)

/-- BIN_CHANGE. -/
def execBinChange (s : State) : Host.Outcome State Fault Refusal := .next (binChange s)

/-- CLOCK_RELOCK_DONE: 20 µs later the snuffed cores restart. -/
def relockDone (s : State) : State :=
  match s.tick.relock with
  | none => s
  | some (t, cores) =>
    let s := atTime (t + us 20) { s with tick := { s.tick with relock := none } }
    forAll cores (fun c s => if jobWaits s c then s else restartCore c s) s

/-- CLOCK_RELOCK_DONE. -/
def execClockRelockDone (s : State) : Host.Outcome State Fault Refusal := .next (relockDone s)

/-! ### MB_MARGIN_REPORT (R332) -/

/-- MB_MARGIN_REPORT. -/
def mbMarginReport (m : MboxId) (_ : PartId) (_ : List Byte) (s : State) : State :=
  let head := [s.bnd.vofsCode.setWidth 8, s.safety.bin.setWidth 8, BitVec.ofNat 8 (b2n s.safety.exhausted + 2 * b2n s.tick.binPend.isSome),
      marginGuard s]
  reply m stOk 0 (head ++ s.safety.slack.toList.map (fun x => x.sinceRun) ++ leBytes 4 ((nowUs s - s.safety.lastRun) / 1000000)) s

/-- MB_MARGIN_REPORT. -/
def execMbMarginReport (s : State) : Host.Outcome State Fault Refusal := .next (serve 0x90 none mbMarginReport s)

end Sys2Proof.Machine
end

