-- ==== Sys2Proof/Machine/MemError.lean ====
section
/-! DEFINITION. Machine/MemError.lean: error responses of the system chip on the memory port (R22). -/
namespace Sys2Proof.Machine
open Sys2Proof

/-- MEMORY_ERROR_RESPONSE: the transfer that issued the request fails; a region load over the mailbox path whose container
cannot be read ends with code 11 (Table 16.6). An error met by a page walk fails the next walk (R271). -/
def execMemoryErrorResponse (src : MemSource) (s : State) : Host.Outcome State Fault Refusal :=
  .next (match src with
    | .dx c ch k write g => flushOwed (dxPortError c ch k write g s)
    | .access x => { s with host := { s.host with portErr := s.host.portErr ++ [x] } }
    | .walk => { s with walkErr := true }
    | .fabric => if s.fabric.load.any (fun l => decide (l.path = 1)) then loadFail 11 0 s else s)

end Sys2Proof.Machine
end

