-- ==== Sys2Proof/Machine/Members.lean ====
section
/-! DEFINITION. Machine/Members.lean: membership and its loss (R347, R350), enumeration (R342, R343, R358), groups, heartbeats and the
decision after a loss (R348, R349), joins (R352), and the link tick (R344). -/
namespace Sys2Proof.Machine
open Sys2Proof

/-- The lowest engine of a mask. -/
def lowest (m : Word) : Nat := ((List.range 32).find? (fun e => bitAt m e)).getD 32

/-- The tick root: engine 0, or the lowest member where it is outside (R344). -/
def tickRootOf (s : State) : Nat := lowest s.links.members

/-! ### What the loss of engines does -/

/-- The enabled buffers of a core whose source is a lost engine are marked: their halo waits, now and later, end (R209, Table 09.2). -/
def loseSources (lost : Word) (k : Core) : Core :=
  { k with halo := { k.halo with bufs := k.halo.bufs.map (fun b =>
      if hbEnabled b ∧ (hbSource b).1 = 2 ∧ bitAt lost (hbSource b).2 then { b with lost := true } else b) } }

/-- The engine on which a running command of a channel depends and which is lost: a remote halo target or a member of its
group. -/
def lostTarget (s : State) (lost : Word) (cfg : Vector Word 64) : Option (Nat × Nat × Nat) :=
  if dxOp cfg = 6 ∧ 2 ≤ dxTarget cfg ∧ bitAt lost (dxEngine cfg).toNat then some (2, (dxEngine cfg).toNat, dxTarget cfg - 2)
  else if dxOp cfg = 0 ∧ dxDs cfg = 7 ∧ dxGroupMask s cfg &&& lost ≠ 0 then some (3, lowest (dxGroupMask s cfg &&& lost), 0)
  else none

/-- Engines that have joined again are sources once more. -/
def findSources (joined : Word) (k : Core) : Core :=
  { k with halo := { k.halo with bufs := k.halo.bufs.map (fun b => { b with lost := b.lost && !(bitAt joined (hbSource b).2) }) } }

/-- A channel's command depends on a lost engine (R188, R209): a halo credit wait is the last that halted its core; the lost receivers of
its transfers are awaited no longer, and the core halts. In a halting core the channel drains. -/
def loseChan (lost : Word) (c : CoreId) (ch : ChanId) (s : State) : State :=
  match (dxChan s c ch).run with
  | none => s
  | some r =>
    match lostTarget s lost r.cfg with
    | none => s
    | some (source, e, port) =>
      let s := if r.haloWait.isSome ∧ coreLive s c then haloNote c (haloLastWord true (dxTarget r.cfg) e) s else s
      dxOwnHalt c ch (linkLost source e port 3 r.cmd.set.val) (modDxRun c ch (fun r => { r with
        out := r.out.map (fun t => if t.target = .haloNext ∨ t.target = .haloPrev then t else { t with members := t.members &&& ~~~ lost }) }) s)

/-- The halts of a core whose waits or commands depend on lost engines (R188, R209). -/
def loseCore (lost : Word) (c : CoreId) (s : State) : State :=
  forAll (List.finRange 4) (loseChan lost c) (haloLostWaits c (modCore c (loseSources lost) s))

/-- The flits of a class that have arrived of a source's run whose last flit has not. -/
def partRun (s : State) (cls : Fin 4) (src : Nat) : List (LinkId × Flit) :=
  ((s.links.rx.filter (fun x => decide (x.2.cls = cls) && decide (x.2.src.toNat = src))).reverse.takeWhile (fun x => !x.2.last)).reverse

/-- What has come in of the runs of lost engines and is not whole is dropped: their pair sequences start anew when they join again. -/
def dropParts (lost : Word) (s : State) : State :=
  forAll ((List.range 32).filter (fun e => bitAt lost e)) (fun e s => dropRx (partRun s 0 e ++ partRun s 1 e) s) s

/-- Engines leave the membership: waits and paths to them end, their runs are not sent again, proxies of their fences have
err, and their subscriptions end (R347, R350). -/
def loseEngines (lost : Word) (s : State) : State :=
  let s := forAll (List.finRange 6) (loseCore lost) s
  let gone (e : BitVec 5) : Bool := bitAt lost e.toNat
  let s := modLinks (fun k => { k with
    sent := k.sent.filter (fun r => !(gone r.dst)), ports := k.ports.map (fun p => { p with
        sendq := p.sendq.filter (fun f => !(gone f.dst) || hopwise f) }) }) s
  let s := cancelProxies (fun x => bitAt lost x.engine) stPartitioned (dropParts lost s)
  let s := { s with host := { s.host with proxies := s.host.proxies.map (fun x => if bitAt lost x.engine then { x with err := true } else x) } }
  groupAck lost (settle (dropSubs (fun u => bitAt lost u.engine) s))

/-! ### MEMBERSHIP (R343, R350) -/

/-- What a MEMBERSHIP message says. -/
structure Membership where
  mask : Word
  epoch : Half
  topo : Nat
  x : Nat
  y : Nat
  count : Nat
  config : Word
  groups : Vector Word 16
  tickSys : Nat
  deriving DecidableEq, Repr

/-- The payload of MEMBERSHIP (Table 15.3). -/
def memberBytes (m : Membership) : List Byte :=
  leBytes 4 m.mask.toNat ++ leBytes 2 m.epoch.toNat ++ leBytes 1 m.topo ++ leBytes 1 m.x ++ leBytes 1 m.y ++ leBytes 3 m.count
    ++ leBytes 4 m.config.toNat ++ m.groups.toList.flatMap (fun g => leBytes 4 g.toNat) ++ leBytes 4 m.tickSys

/-- The message that a flit carries. -/
def memberOf (f : Flit) : Membership :=
  { mask := BitVec.ofNat 32 (msgNum f 0 4), epoch := BitVec.ofNat 16 (msgNum f 4 2), topo := msgNum f 6 1, x := msgNum f 7 1,
    y := msgNum f 8 1, count := msgNum f 9 1, config := BitVec.ofNat 32 (msgNum f 12 4),
    groups := Vector.ofFn (fun i : Fin 16 => BitVec.ofNat 32 (msgNum f (16 + 4 * i.val) 4)), tickSys := msgNum f 80 4 }

/-- The membership that the engine holds. -/
def heldMembers (s : State) : Membership :=
  let k := s.links
  { mask := k.members, epoch := k.epoch, topo := k.topo.toNat, x := linkX k, y := linkY k, count := k.count.toNat,
    config := k.config, groups := k.groups, tickSys := k.tickSys.toNat }

/-- MEMBERSHIP goes out on ports. -/
def sendMembers (ports : List LinkId) (m : Membership) (s : State) : State := forAll ports (fun l => sendNext l 2 (memberBytes m)) s

/-- A value for the engines of a mask. -/
def setWhere {α : Type} (mask : Word) (v : α) (x : Vector α 32) : Vector α 32 := x.mapFinIdx (fun i a _ => if bitAt mask i then v else a)

/-- A membership is adopted (R350; log 94 for link_membership where only groups change; log 102 for a settle window that is open): addresses and
routes, pair sequences and loss timers of new members, the loss of others, the capability table, link_membership and the record. -/
def adoptMembers (m : Membership) (s : State) : State :=
  let own := BitVec.ofNat 32 (2 ^ ownAddr s)
  let old := if s.links.sys = 2 then s.links.members else 0
  let joined := m.mask &&& ~~~ old &&& ~~~ own
  let addr := BitVec.ofNat 5 (ownAddr s)
  let s := modLinks (fun k => { k with
    sys := 2, primary := true, joinFail := false, joinAt := none, addr := addr, epoch := m.epoch, members := m.mask
    topo := BitVec.ofNat 2 m.topo, xm1 := BitVec.ofNat 3 (m.x - 1), ym1 := BitVec.ofNat 2 (m.y - 1), count := BitVec.ofNat 6 m.count
    config := m.config, groups := m.groups, tickSys := BitVec.ofNat 24 m.tickSys, enum := none
    pseqTo := setWhere joined 0 k.pseqTo, pseqFrom := setWhere joined 0 k.pseqFrom
    lossFrom := setWhere (~~~ m.mask) none (setWhere joined (some s.time) k.lossFrom)
    lost := k.lost &&& m.mask, settle := if k.lost &&& m.mask = 0 then none else k.settle }) s
  let s := { s with cores := s.cores.map (findSources joined) }
  let s := reroute (loseEngines (old &&& ~~~ m.mask) s)
  let late := if tickRootOf s = addr.toNat then 0 else ((s.links.lat[tickRootOf s]?).getD 0).toNat
  let s := { s with tick := { s.tick with linkComp := s.links.tickSys - BitVec.ofNat 24 late } }
  postRecord { code := 0x23, unit := 5, detail := m.epoch.toNat } (setGint 0x020 (bumpGen s))

/-- Whether a MEMBERSHIP message that names this engine is one that it adopts: that of its enumeration; on a member one that is newer than what it
holds; on an islanded engine one with a new epoch while its JOIN waits (R352, R353). -/
def membersFor (s : State) (m : Membership) : Bool :=
  match s.links.sys.toNat with
  | 0 => false
  | 1 => true
  | 2 => decide (m ≠ heldMembers s) && decide ((m.epoch - s.links.epoch).toNat < 2 ^ 15)
  | _ => s.links.joinAt.isSome && decide (m.epoch ≠ s.links.epoch)

/-- Whether a MEMBERSHIP message is one that the engine adopts. -/
def newMembers (s : State) (m : Membership) : Bool := bitAt m.mask (ownAddr s) && membersFor s m

/-- Joins that were held during a settle window go on to the lowest engine, where that is another one (R352, R357). -/
def passJoins (low : Nat) (s : State) : State :=
  if s.links.settle.isSome ∨ low = s.links.addr.toNat then s
  else
    let body (j : Nat × BitVec 5 × Word) : List Byte := leBytes 4 j.2.1.toNat ++ leBytes 4 j.2.2.toNat
    forAll s.links.joins (fun j => sendMsg 3 3 low 0 (body j)) (modLinks (fun k => { k with joins := [] }) s)

/-- MEMBERSHIP from a port: adopted and passed on; a change of groups alone is acknowledged to engine 0 (log 22). -/
def takeMembers (l : LinkId) (f : Flit) (s : State) : State :=
  let m := memberOf f
  if ¬ newMembers s m then s
  else
    let groupsOnly := decide (s.links.sys = 2) && decide (m.epoch = s.links.epoch)
    let s := sendMembers ((upPorts s).filter (fun o => decide (o ≠ l))) m (adoptMembers m s)
    let s := passJoins (lowest s.links.members) s
    if groupsOnly then sendMsg 3 6 0 0 (leBytes 2 groupAckSeq) s else s

/-- MEMBERSHIP. -/
def execMembership (l : LinkId) (s : State) : Host.Outcome State Fault Refusal := .next (takeMsg l 3 2 (takeMembers l) s)

/-! ### Latencies (R340) -/

/-- PROBE is answered with its own bytes; an engine without a route answers by the port it came from. -/
def takeProbe (l : LinkId) (f : Flit) (s : State) : State :=
  let body := f.payload.take 8
  if s.links.sys = 1 then sendOn l [{ message s 3 5 f.src.toNat 0 body with src := BitVec.ofNat 5 (ownAddr s) }] s
  else sendMsg 3 5 f.src.toNat 0 body s

/-- PROBE. -/
def execProbe (l : LinkId) (s : State) : Host.Outcome State Fault Refusal := .next (takeMsg l 3 4 (takeProbe l) s)

/-! ### Enumeration (R342, R343, R358) -/

/-- A multiple of 1,000 ns not below n. -/
def wholeUs (n : Nat) : Nat := ceilDiv n 1000 * 1000

/-- The engines of a count. -/
def firstMask (n : Nat) : Word := BitVec.ofNat 32 (2 ^ n - 1)

/-- The membership of a new system. -/
def newSystem (e : EnumRun) : Membership :=
  { mask := firstMask (e.x * e.y), epoch := 1, topo := e.topo, x := e.x, y := e.y, count := e.x * e.y, config := firstMask (e.x * e.y),
    groups := Vector.replicate 16 0, tickSys := wholeUs ((e.x * e.y - 1) * 240) }

/-- The detail word of a reply (R342). -/
def enumDetail (result engine port : Nat) : Nat := result + engine * 2 ^ 8 + port * 2 ^ 16

/-- The status of a result (Table 15.6). -/
def enumStatus (result : Nat) : Nat := if result = 0 then stOk else if result = 5 then stResourceBusy else stBadArg

/-- An enumeration ends without a system: the engine is in its state before, and engine 0 answers. -/
def enumFail (result engine port reached : Nat) (s : State) : State :=
  match s.links.enum with
  | none => s
  | some e =>
    let d := enumDetail result engine port
    let s := reroute (modLinks (fun k => { k with
      enum := none, sys := e.before, enumResult := if e.mbox.isSome then BitVec.ofNat 32 d else k.enumResult }) s)
    match e.mbox with
    | some m => reply m (enumStatus result) d (leBytes 1 reached) s
    | none => s

/-- Every member has been measured: the system forms. -/
def enumDone (e : EnumRun) (s : State) : State :=
  let m := newSystem e
  let s := sendMembers (upPorts s) m (adoptMembers m s)
  match e.mbox with
  | some b => reply b stOk 0 (leBytes 1 (e.x * e.y)) (modLinks (fun k => { k with enumResult := 0 }) s)
  | none => s

/-- The routes of a system that is being formed: over a torus along the token's path, since no other engine knows the topology yet. -/
def enumRoutes (e : EnumRun) (s : State) : Vector (Option LinkId) 32 :=
  let t := modLinks (fun k => { k with
    topo := BitVec.ofNat 2 e.topo, xm1 := BitVec.ofNat 3 (e.x - 1), ym1 := BitVec.ofNat 2 (e.y - 1), count := BitVec.ofNat 6 (e.x * e.y),
        members := firstMask (e.x * e.y), addr := 0, farDown := [] }) s
  if e.topo = 3 then Vector.ofFn (fun d : Fin 32 => if 0 < d.val ∧ d.val < e.x * e.y then some (if d.val < e.x then 0 else 2) else none)
  else Vector.ofFn (fun d : Fin 32 => routeTo t d.val)

/-- The count is complete: every other engine is measured with PROBE. -/
def enumMeasure (e : EnumRun) (s : State) : State :=
  let others := firstMask (e.x * e.y) &&& ~~~ 1#32
  let s := modLinks (fun k => { k with enum := some { e with phase := 2, probes := others }, routes := enumRoutes e s }) s
  forAll ((List.range 32).filter (fun d => bitAt others d)) (fun d => sendMsg 3 4 d 0 (leBytes 8 (nowNs s))) s

/-- PROBE_REPLY: half the round trip is the engine's latency; a member that takes its ticks from the root follows it (R344). -/
def probeReply (f : Flit) (s : State) : State :=
  let n := min 0xFFFF ((nowNs s - msgNum f 0 8) / 2)
  let s := modLinks (fun k => { k with lat := updAt k.lat (f.src.toFin : Fin 32) (fun _ => BitVec.ofNat 16 n) }) s
  let s := if s.links.sys = 2 ∧ f.src.toNat = tickRootOf s then
    { s with tick := { s.tick with linkComp := s.links.tickSys - BitVec.ofNat 24 n } } else s
  match s.links.enum with
  | some e =>
    if e.phase ≠ 2 then s
    else
      let left := e.probes &&& ~~~ BitVec.ofNat 32 (2 ^ f.src.toNat)
      let s := modLinks (fun k => { k with enum := some { e with probes := left } }) s
      if left = 0 then enumDone { e with probes := left } s else s
  | none => s

/-- PROBE_REPLY. -/
def execProbeReply (l : LinkId) (s : State) : Host.Outcome State Fault Refusal := .next (takeMsg l 3 5 probeReply s)

/-- TOKEN leaves by a port: bytes 0 and 1 as Table 15.3. A result on its way back to engine 0 is phase 0x80 + result, with the
engine and port in bytes 2 and 3 (log 22). -/
def sendToken (l : LinkId) (next phase engine port : Nat) (s : State) : State :=
  sendNext l 1 (leBytes 1 next ++ leBytes 1 phase ++ leBytes 1 engine ++ leBytes 1 port) s

/-- An engine answers a token with a result. -/
def tokenAnswer (l : LinkId) (next result : Nat) (s : State) : State := sendToken l next (0x80 + result) (ownAddr s) l.val s

/-- Whether a count is short: it is not X × Y, or where a system forms again it has not reached every configured engine (R354). -/
def countShort (s : State) (e : EnumRun) (next : Nat) : Bool :=
  decide (next ≠ e.x * e.y) || (decide (e.before = 3) && decide (s.links.config &&& ~~~ firstMask next ≠ 0))

/-- The count has come back to engine 0. -/
def countDone (e : EnumRun) (next : Nat) (s : State) : State :=
  if countShort s e next then enumFail 2 0 0 next s
  else if e.topo = 2 then sendToken 2 1 1 0 0 (modLinks (fun k => { k with enum := some { e with phase := 1 } }) s)
  else enumMeasure e s

/-- TOKEN at engine 0. -/
def tokenHome (l : LinkId) (e0 : EnumRun) (next phase : Nat) (f : Flit) (s0 : State) : State :=
  let e := if e0.phase = 0 then { e0 with reached := next } else e0
  let s := modLinks (fun k => { k with enum := some e }) s0
  if 0x80 ≤ phase then enumFail (phase - 0x80) (msgNum f 2 1) (msgNum f 3 1) e.reached s
  else if phase = 1 then
    if e.phase = 1 ∧ l = 3 ∧ next = e.x then enumMeasure e s else enumFail 3 0 l.val e.reached s
  else if e.phase ≠ 0 then enumFail 3 0 l.val e.reached s
  else if e.topo = 3 then
    if l = 1 then sendToken 2 next 0 0 0 s else if l = 3 then countDone e next s else enumFail 3 0 l.val next s
  else if l = 1 then countDone e next s
  else enumFail 3 0 l.val next s

/-- A token gives this engine its address. -/
def takeAddress (l : LinkId) (next : Nat) (starter : Bool) (s : State) : State :=
  sendToken 0 (next + 1) 0 0 0 (modLinks (fun k => { k with
    sys := 1, enum := some {
        mbox := none, since := s.time, topo := 0, x := 0, y := 0, phase := 0, before := k.sys, addr := next, starter := starter, from_ := l,
        probes := 0, reached := 1, rowEnd := 64 } }) s)

/-- TOKEN at another engine. -/
def tokenOther (l : LinkId) (next phase : Nat) (f : Flit) (s : State) : State :=
  match s.links.enum with
  | none =>
    if 0x80 ≤ phase then s
    else if s.links.sys = 2 ∨ phase ≠ 0 then tokenAnswer l next 5 s
    else if l = 1 then takeAddress l next false s
    else if l = 3 then takeAddress l next true s
    else tokenAnswer l next 3 s
  | some e =>
    if 0x80 ≤ phase then sendToken e.from_ next phase (msgNum f 2 1) (msgNum f 3 1) (enumFail 0 0 0 0 s)
    else if phase = 1 then (if l = 3 ∧ next = e.addr then sendToken 2 (next + 1) 1 0 0 s else tokenAnswer l next 3 s)
    else if l = 1 ∧ e.starter then sendToken 2 next 0 0 0 (modLinks (fun k => { k with enum := some { e with rowEnd := next } }) s)
    else tokenAnswer l next 3 s

/-- TOKEN. -/
def takeToken (l : LinkId) (f : Flit) (s : State) : State :=
  match s.links.enum with
  | some e => if e.mbox.isSome then tokenHome l e (msgNum f 0 1) (msgNum f 1 1) f s else tokenOther l (msgNum f 0 1) (msgNum f 1 1) f s
  | none => tokenOther l (msgNum f 0 1) (msgNum f 1 1) f s

/-- TOKEN. -/
def execToken (l : LinkId) (s : State) : Host.Outcome State Fault Refusal := .next (takeMsg l 3 1 (takeToken l) s)

/-- ENUM_TOKEN_TIMEOUT: 10 ms after it began an enumeration has not ended. -/
def execEnumTokenTimeout (s : State) : Host.Outcome State Fault Refusal :=
  .next (
    match s.links.enum with
    | none => s
    | some e => enumFail 4 0 0 e.reached (atTime (e.since + us 10000) s))

/-- Arguments, grade and planning rule of op 0 (Table 15.4, Table 15.7). -/
def enumArgs (g : Grade) (topo x y : Nat) : Bool :=
  match topo with
  | 1 => linkPresent g 1 && decide (2 ≤ x) && decide (x ≤ 8) && decide (y = 1)
  | 2 => linkPresent g 3 && decide (2 ≤ x) && decide (x ≤ 32) && decide (y = 1)
  | 3 => linkPresent g 3 && decide (2 ≤ x) && decide (x ≤ 8) && decide (2 ≤ y) && decide (y ≤ 4)
  | _ => false

/-- LINK_ENUMERATE: engine 0 takes address 0 and sends the token through L0. -/
def linkEnumerate (m : MboxId) (_ : PartId) (b : List Byte) (s : State) : State :=
  let topo := arg b 9 1
  let x := arg b 10 1
  let y := arg b 11 1
  if ¬ s.bnd.kroot then reply m stDenied 0 [] s
  else if s.links.sys = 2 ∨ s.links.sys = 1 then reply m stResourceBusy 0 [] s
  else if ¬ enumArgs s.grade topo x y then
    reply m stBadArg (enumDetail 1 0 0) [] (modLinks (fun k => { k with enumResult := BitVec.ofNat 32 (enumDetail 1 0 0) }) s)
  else
    sendToken 0 1 0 0 0 (modLinks (fun k => { k with
      sys := 1, enum := some {
          mbox := some m, since := s.time, topo := topo, x := x, y := y, phase := 0, before := k.sys, addr := 0, starter := true, from_ := 0,
          probes := 0, reached := 1, rowEnd := 64 } }) s)

/-- LINK_ENUMERATE. -/
def execLinkEnumerate (s : State) : Host.Outcome State Fault Refusal := .next (serve 0x80 (some 0) linkEnumerate s)

/-- A multicast command of a group runs on this engine. -/
def groupRuns (s : State) (g : Nat) : Bool :=
  (List.finRange 6).any (fun c : CoreId => (s.cores[c]).dx.chans.toList.any (fun x => match x.run with
    | some r => decide (dxOp r.cfg = 0 ∧ dxDs r.cfg = 7 ∧ (dxGroup r.cfg).toNat = g)
    | none => false))

/-- A multicast command of a group runs somewhere in the system; what the other members run is free (log 22). -/
def groupInUse (s : State) (g : Nat) : Bool :=
  groupRuns s g || (decide (1 < popcount 32 s.links.members.toNat) && Config.groupElsewhere s.time g)

/-- LINK_SET_GROUP: the new mask goes out with MEMBERSHIP; the reply waits for every member. -/
def linkSetGroup (m : MboxId) (_ : PartId) (b : List Byte) (s : State) : State :=
  let g := arg b 12 1
  let mask := BitVec.ofNat 32 (arg b 16 4)
  if s.links.addr ≠ 0 ∨ s.links.sys ≠ 2 then reply m stDenied 0 [] s
  else if groupInUse s g ∨ s.links.groupSet.isSome then reply m stResourceBusy 0 [] s
  else if 16 ≤ g ∨ mask &&& ~~~ s.links.config ≠ 0 then
    let d := enumDetail (if 16 ≤ g then 1 else 6) 0 0
    reply m stBadArg d [] (modLinks (fun k => { k with enumResult := BitVec.ofNat 32 d }) s)
  else
    let s := modLinks (fun k => { k with
      groups := k.groups.setIfInBounds g mask, groupSet := some { mbox := m, waits := k.members &&& ~~~ 1#32 } }) s
    groupAck 0 (sendMembers (upPorts s) (heldMembers s) s)

/-- LINK_SET_GROUP. -/
def execLinkSetGroup (s : State) : Host.Outcome State Fault Refusal := .next (serve 0x80 (some 1) linkSetGroup s)

/-! ### Joins (R352) -/

/-- Admit the oldest waiting join outside a settle window, and those behind it: each with its own MEMBERSHIP. -/
def admitJoins : Nat → State → State
  | 0, s => s
  | n + 1, s =>
    match s.links.joins with
    | [] => s
    | (_, a, config) :: rest =>
      if s.links.settle.isSome then s
      else
        let s := modLinks (fun k => { k with joins := rest }) s
        let ok := bitAt s.links.config a.toNat && !(bitAt s.links.members a.toNat) && decide (config = s.links.config)
        if ¬ ok then admitJoins n s
        else
          let held := heldMembers s
          let m := { held with mask := held.mask ||| BitVec.ofNat 32 (2 ^ a.toNat), epoch := held.epoch + 1 }
          admitJoins n (sendMembers (upPorts s) m (adoptMembers m s))

/-- A join takes its place: in order of arrival, of two at one time the lower address first (R352). -/
def queueJoin (j : Nat × BitVec 5 × Word) (joins : List (Nat × BitVec 5 × Word)) : List (Nat × BitVec 5 × Word) :=
  let before (x : Nat × BitVec 5 × Word) : Bool := decide (x.1 < j.1 ∨ (x.1 = j.1 ∧ x.2.1.toNat ≤ j.2.1.toNat))
  joins.takeWhile before ++ j :: joins.dropWhile before

/-- JOIN: a member holds it during a settle window; the lowest member admits it, other members pass it on towards that member, an islanded
engine along its ring until a member or its own sender has it (log 22). -/
def takeJoin (l : LinkId) (f : Flit) (s : State) : State :=
  if s.links.sys = 3 ∧ msgNum f 0 1 ≠ s.links.addr.toNat then sendOn (across l) [f] s
  else if s.links.sys ≠ 2 then s
  else
    let low := lowest s.links.members
    if low ≠ s.links.addr.toNat ∧ s.links.settle.isNone then sendTo low [f] s
    else
      let s := modLinks (fun k => { k with joins := queueJoin (s.time, BitVec.ofNat 5 (msgNum f 0 1), BitVec.ofNat 32 (msgNum f 4 4)) k.joins }) s
      admitJoins s.links.joins.length s

/-- JOIN. -/
def execJoin (l : LinkId) (s : State) : Host.Outcome State Fault Refusal := .next (takeMsg l 3 3 (takeJoin l) s)

/-- JOIN_TIMEOUT: 5 ms without an admitting MEMBERSHIP. -/
def execJoinTimeout (s : State) : Host.Outcome State Fault Refusal :=
  .next (
    match s.links.joinAt with
    | none => s
    | some t =>
      let s := modLinks (fun k => { k with joinFail := true, joinAt := none }) (atTime (t + us 5000) s)
      postRecord { code := 0x22, unit := 5, detail := s.links.config.toNat } s)

/-! ### Heartbeats and the decision (R348, R349) -/

/-- HEARTBEAT_SEND: every 100 µs the engine's own record goes out on every up port. -/
def execHeartbeatSend (s : State) : Host.Outcome State Fault Refusal :=
  .next (
    let s := atTime (s.links.hbAt + us 100) s
    let s := modLinks (fun k => { k with hbSeq := k.hbSeq + 1, hbAt := s.time }) s
    let r : HbRec := {
        origin := s.links.addr, member := decide (s.links.sys = 2), islanded := decide (s.links.sys = 3), seq := s.links.hbSeq,
        epoch := s.links.epoch }
    forAll (upPorts s) (fun l => modLink l (fun p => { p with hbWait := p.hbWait ++ [r] })) s)

/-- HEARTBEAT_LOSS: a member's loss timer expires; the first expiry opens the settle window. -/
def execHeartbeatLoss (e : BitVec 5) (s : State) : Host.Outcome State Fault Refusal :=
  .next (
    match (s.links.lossFrom[e.toNat]?).join with
    | none => s
    | some t =>
      if s.links.sys ≠ 2 ∨ ¬ bitAt s.links.members e.toNat then s
      else
        let s := atTime (t + us 2000) s
        modLinks (fun k => { k with
          lossFrom := updAt k.lossFrom (e.toFin : Fin 32) (fun _ => none), lost := k.lost ||| BitVec.ofNat 32 (2 ^ e.toNat)
          settle := some (k.settle.getD s.time) }) s)

/-- The engines that remain: G of R349. -/
def remaining (s : State) : Word := s.links.members &&& ~~~ s.links.lost

/-- Whether G is the primary. -/
def isPrimary (s : State) : Bool :=
  let n := popcount 32 (remaining s).toNat
  decide (s.links.count.toNat < 2 * n) || (decide (2 * n = s.links.count.toNat) && bitAt (remaining s) 0)

/-- SETTLE_WINDOW_END: the lowest engine of a primary G sends MEMBERSHIP; any other G islands, which is an FC_ENGINE fault
(R351). -/
def settleEnd (s : State) : State :=
  match s.links.settle with
  | none => s
  | some t =>
    let s := modLinks (fun k => { k with settle := none }) (atTime (t + us 250) s)
    if s.links.sys ≠ 2 then s
    else if ¬ isPrimary s then engineClass { code := 0x21, fc := 4, unit := 5, detail := s.links.members.toNat } s
    else if lowest (remaining s) ≠ s.links.addr.toNat then passJoins (lowest (remaining s)) s
    else
      let held := heldMembers s
      let m := { held with mask := remaining s, epoch := held.epoch + 1 }
      let s := sendMembers (upPorts s) m (adoptMembers m s)
      admitJoins s.links.joins.length s

/-- SETTLE_WINDOW_END. -/
def execSettleWindowEnd (s : State) : Host.Outcome State Fault Refusal := .next (settleEnd s)

/-! ### The link tick (R344) -/

/-- LINK_TICK_MARKER: a marker that has not been seen is forwarded; a member with src 3 takes its tick TK_LINK_COMP later. -/
def execLinkTickMarker (l : LinkId) (at_ : Nat) (count : Word) (s : State) : Host.Outcome State Fault Refusal :=
  .next (
    if ¬ receives s l ∨ s.links.sys ≠ 2 ∨ count = s.links.tickFwd then s
    else
      let s := atTime at_ s
      let s := forAll (markerPorts s) (sendControl (some count)) (modLinks (fun k => { k with tickFwd := count }) s)
      if fld s.tick.ctrl 1 2 ≠ 3 then s
      else modLinks (fun k => { k with markerDue := some (s.time + nsec s.tick.linkComp.toNat), markerAt := s.time }) s)

/-- LINK_TICK_DUE: the link tick is taken; one that comes early is ignored and counted (R295). -/
def execLinkTickDue (s : State) : Host.Outcome State Fault Refusal :=
  .next (
    match s.links.markerDue with
    | none => s
    | some t =>
      let s := atTime t (modLinks (fun k => { k with markerDue := none }) s)
      if s.tick.state = .stopped then s
      else if ¬ notEarly s t then { s with tick := { s.tick with early := satAdd s.tick.early 1 } }
      else lockTick t s)

end Sys2Proof.Machine
end

