-- ==== Sys2Proof/Machine/PartConfig.lean ====
section
/-! DEFINITION. Machine/PartConfig.lean: MB_PARTITION_CONFIG (R263, R264, Table 12.1), the rules of a core's allocations (R130, R132,
R234) and the scrub of a partition that changes its world (R407). -/
namespace Sys2Proof.Machine
open Sys2Proof

/-! ### The request (Table 12.1) -/

/-- The allocation that a core word asks for. -/
def allocOf (w : Nat) : Alloc :=
  { accBase := BitVec.ofNat 4 w, accCount := BitVec.ofNat 4 (w / 2 ^ 4), tokBase := BitVec.ofNat 6 (w / 2 ^ 8)
    tokCount := BitVec.ofNat 7 (w / 2 ^ 14), setBase := BitVec.ofNat 2 (w / 2 ^ 21), setCount := BitVec.ofNat 3 (w / 2 ^ 23) }

/-- The allocation asked for on a core. -/
def wantAlloc (b : List Byte) (c : CoreId) : Alloc := allocOf (arg b (20 + 4 * c.val) 4)

/-- The request enables the partition. -/
def wantEnabled (b : List Byte) : Bool := decide (arg b 8 1 % 2 = 1)
/-- The world that the request asks for. -/
def wantSecure (b : List Byte) : Bool := decide (arg b 8 1 / 2 % 2 = 1)
/-- The request names staging region r. -/
def wantStaging (b : List Byte) (r : Fin 16) : Bool := (arg b 16 2).testBit r.val

/-! ### Refusals (R264) -/

/-- Two ranges, by base and count, share a member. -/
def rangesMeet (a n b m : Nat) : Bool := decide (n ≠ 0) && decide (m ≠ 0) && overlaps a (a + n) b (b + m)

/-- Two allocations share a slot, counter or set. -/
def allocsMeet (x y : Alloc) : Bool :=
  rangesMeet x.accBase.toNat x.accCount.toNat y.accBase.toNat y.accCount.toNat
    || rangesMeet x.tokBase.toNat x.tokCount.toNat y.tokBase.toNat y.tokCount.toNat
    || rangesMeet x.setBase.toNat x.setCount.toNat y.setBase.toNat y.setCount.toNat

/-- The other partitions. -/
def otherParts (p : PartId) : List PartId := (List.finRange 8).filter (fun q => decide (q ≠ p))

/-- The request names a resource of another partition, or raises a total past its limit. -/
def takesOthers (s : State) (p : PartId) (b : List Byte) : Bool :=
  let others := otherParts p
  (List.finRange 6).any (fun c : CoreId => others.any (fun q => allocsMeet (wantAlloc b c) ((s.cores[c]).allocs[q])))
    || others.any (fun q => rangesMeet (arg b 12 2) (arg b 14 2) (s.host.parts[q]).tagBase (s.host.parts[q]).tagCount)
    || (List.finRange 16).any (fun r : Fin 16 => wantStaging b r && decide ((s.sg.regions[r]).owner.toNat < 8)
        && decide ((s.sg.regions[r]).owner.toNat ≠ p.val))
    || decide (8192 < arg b 10 2 + (others.map (fun q => (s.host.parts[q]).fenceQuota)).sum)
    || decide (256 < arg b 18 2 + (others.map (fun q => (s.host.parts[q]).queueQuota)).sum)

/-- The commands that the engines of a core hold, with the set registers of each that has started. -/
def coreCmds (k : Core) : List (EngId × EngCmd × Option (Vector Word 64)) :=
  let bare (e : EngId) (x : Option EngCmd) : List (EngId × EngCmd × Option (Vector Word 64)) := x.toList.map (fun m => (e, m, none))
  let vec (e : EngId) (v : Vec) : List (EngId × EngCmd × Option (Vector Word 64)) :=
    bare e v.taken ++ bare e v.parked ++ v.run.toList.map (fun r => (e, r.cmd, some r.cfg))
  bare 0 k.mx.taken ++ k.mx.started.map (fun m => (0, m.cmd, some m.cfg)) ++ vec 1 k.vx ++ vec 2 k.wx
    ++ k.dx.chans.toList.flatMap (fun x => bare 3 x.waiting ++ bare 3 x.parked ++ x.run.toList.map (fun r => (3, r.cmd, some r.cfg)))
    ++ bare 4 k.fx.taken ++ bare 4 k.fx.parked ++ k.fx.run.toList.map (fun r => (4, r.cmd, some r.cfg))

/-- A started command of an engine other than MX works on accumulator slots. -/
def onSlots (e : EngId) (cfg : Vector Word 64) : Bool :=
  match e.val with
  | 1 => (vxA cfg).src || (vxB cfg).src
  | 2 => (wxI cfg).src
  | 3 => decide (dxSs cfg = 2) || decide (dxDs cfg = 2)
  | _ => false

/-- A partition has a snuffed command that awaits resumption on a core, or a preempted job there (log 27). -/
def awaitsResume (s : State) (p : PartId) (c : CoreId) : Bool :=
  let k := s.cores[c]
  let mine (x : Option EngCmd) : Bool := x.any (fun m => decide (m.part = p))
  mine k.vx.parked || mine k.wx.parked || mine k.fx.parked || k.dx.chans.toList.any (fun x => mine x.parked)
    || (k.mx.resume.valid && k.mx.started.any (fun m => decide (some m.ord = k.mx.resumed) && decide (m.cmd.part = p)))
    || s.host.jobs.any (fun j => decide (j.part = p) && j.saved.any (fun x => decide (x.core = c)))

/-- An allocation of slots may not change now (R130). -/
def slotsHeld (s : State) (p : PartId) (c : CoreId) : Bool :=
  awaitsResume s p c || (coreCmds s.cores[c]).any (fun x => decide (x.2.1.part = p) && (decide (x.1 = 0) || x.2.2.any (onSlots x.1)))

/-- The partition has a packet in a queue of the core. -/
def packetsOf (s : State) (p : PartId) (c : CoreId) : Bool :=
  (s.cores[c]).queues.toList.any (fun q => q.slots.any (fun x => (findJob s x.job).any (fun j => decide (j.part = p))))

/-- An allocation of counters or sets may not change now (R234). -/
def rangesHeld (s : State) (p : PartId) (c : CoreId) : Bool :=
  awaitsResume s p c || packetsOf s p c || (coreCmds s.cores[c]).any (fun x => decide (x.2.1.part = p))

/-- Slots, counters and sets that a package loaded for a partition needs on a core (R132; the counts of Table 11.4's checks 10
to 13). -/
def packageNeed (s : State) (p : PartId) (c : CoreId) (f : Nat → Nat) : Nat :=
  (s.host.slots.toList.map (fun x => if x.part = some p ∧ reqUsed (pkReq x.package c.val) then f (pkReq x.package c.val) else 0)).foldl max 0

/-- A count would be lowered below what a loaded package needs. -/
def cutsNeed (now want need : Nat) : Bool := decide (want < now) && decide (want < need)

/-- A core's new allocation is refused for now. -/
def allocBusy (s : State) (p : PartId) (b : List Byte) (c : CoreId) : Bool :=
  let now := (s.cores[c]).allocs[p]
  let want := wantAlloc b c
  (decide (now.accBase ≠ want.accBase ∨ now.accCount ≠ want.accCount) && slotsHeld s p c)
    || (decide (now.tokBase ≠ want.tokBase ∨ now.tokCount ≠ want.tokCount ∨ now.setBase ≠ want.setBase
        ∨ now.setCount ≠ want.setCount) && rangesHeld s p c)
    || cutsNeed now.accCount.toNat want.accCount.toNat (packageNeed s p c (fun w => w % 16))
    || cutsNeed now.tokCount.toNat want.tokCount.toNat (packageNeed s p c (fun w => w / 16 % 128))
    || cutsNeed now.setCount.toNat want.setCount.toNat (packageNeed s p c (fun w => w / 2 ^ 11 % 8))

/-- The request lowers a quota below what is held, changes the world while enabled, or disables a partition that holds a queue, an
ASID or a package. -/
def partBusy (s : State) (p : PartId) (b : List Byte) : Bool :=
  let x := s.host.parts[p]
  let queues := s.host.queues.countP (fun q => decide (q.part = p))
  decide (arg b 18 2 < queues) || decide (arg b 10 2 < (usedFids s p).length)
    || (x.enabled && decide (wantSecure b ≠ x.secure))
    || (x.enabled && !(wantEnabled b) && (decide (queues ≠ 0) || s.host.asids.any (fun a => decide (a.part = p))
        || s.host.slots.toList.any (fun y => decide (y.part = some p))))
    || (List.finRange 16).any (fun r : Fin 16 => decide ((s.sg.regions[r]).owner.toNat = p.val) && !(wantStaging b r)
        && stagingUsed s p r.val)

/-- The request is answered ST_RESOURCE_BUSY. -/
def configRefused (s : State) (p : PartId) (b : List Byte) : Bool :=
  takesOthers s p b || partBusy s p b || (List.finRange 6).any (allocBusy s p b)

/-! ### The change -/

/-- The bytes of a slot in the four arrays' accumulators. -/
def slotRanges (n : Nat) : List (Nat × Nat) := [0, 1, 2, 3].map (fun a => (a * 0x80000 + n * 0x10000, 0x10000))

/-- A slot of a core is zeroed and marked valid (R130). -/
def zeroSlot (n : Nat) (k : Core) : Core :=
  let rows : BitVec 1024 := BitVec.ofNat 1024 (2 ^ 128 - 1) <<< (128 * n)
  { k with
    mem := { k.mem with acc := (slotRanges n).foldl (fun m r => memZero m r.1 r.2) k.mem.acc }
    arrays := k.arrays.map (fun u => { u with invalid := u.invalid &&& ~~~ rows }) }

/-- A configuration set of the five engines takes its reset values. -/
def zeroSet (n : SetId) (k : Core) : Core :=
  (List.finRange 5).foldl (fun k e => modSet e n (fun _ => Vector.replicate 64 0) k) k

/-- The members of a range that a partition did not hold last. -/
def passed {n : Nat} (p : PartId) (owners : Vector PartId n) (base count : Nat) : List (Fin n) :=
  (List.finRange n).filter (fun i => decide (base ≤ i.val ∧ i.val < base + count) && decide (owners[i] ≠ p))

/-- An allocation takes effect: what passes to the partition is cleared first (R130, R234). -/
def giveAlloc (p : PartId) (want : Alloc) (k : Core) : Core :=
  let accs := passed p k.owners.acc want.accBase.toNat want.accCount.toNat
  let toks := passed p k.owners.tok want.tokBase.toNat want.tokCount.toNat
  let sets := passed p k.owners.set want.setBase.toNat want.setCount.toNat
  let k := accs.foldl (fun (k : Core) (i : Fin 8) => { zeroSlot i.val k with owners := { k.owners with acc := k.owners.acc.set i p } }) k
  let k := toks.foldl (fun (k : Core) (i : TokId) => { k with toks := k.toks.set i 0, owners := { k.owners with tok := k.owners.tok.set i p } }) k
  let k := sets.foldl (fun (k : Core) (i : SetId) => { zeroSet i k with owners := { k.owners with set := k.owners.set.set i p } }) k
  { k with allocs := k.allocs.set p want }

/-- The scrub of a partition: its page's registers and the state of its tags, of the range it had and of its new one (DEDUCED,
log 41). A request of its mailbox is gone with the registers. -/
def scrubPart (p : PartId) (b : List Byte) (s : State) : State :=
  let s := clearTags s.host.parts[p] s
  let s := modPart p (fun x => { Partition.cold p with
      enabled := x.enabled, secure := x.secure, fenceQuota := x.fenceQuota, tagBase := arg b 12 2, tagCount := arg b 14 2,
      queueQuota := x.queueQuota }) s
  clearTags s.host.parts[p] { s with host := { s.host with sent := s.host.sent.filter (fun m => decide (m ≠ partMb p)) } }

/-- A staging region that the request names, or the partition loses. -/
def setStaging (p : PartId) (b : List Byte) (r : Fin 16) (s : State) : State :=
  if wantStaging b r then giveStaging r p s
  else if (s.sg.regions[r]).owner.toNat = p.val then freeResource 3 r.val s
  else s

/-- The new configuration takes effect as a whole. -/
def configure (p : PartId) (b : List Byte) (s : State) : State :=
  let old := s.host.parts[p]
  let s := if old.secure = wantSecure b then s else scrubPart p b s
  let s := modPart p (fun x => { x with
      enabled := wantEnabled b, secure := wantSecure b, fenceQuota := arg b 10 2, tagBase := arg b 12 2, tagCount := arg b 14 2,
      queueQuota := arg b 18 2 }) s
  let s := forAll (List.finRange 16) (setStaging p b) s
  let s := forAll (List.finRange 6) (fun (c : CoreId) s =>
    let slots := passed p (s.cores[c]).owners.acc (wantAlloc b c).accBase.toNat (wantAlloc b c).accCount.toNat
    let t := freshWords (.acc c) (slots.flatMap (fun i => slotRanges i.val)) (modCore c (giveAlloc p (wantAlloc b c)) s)
    if (t.cores[c]).toks = (s.cores[c]).toks then t else progress c t) s
  if old.enabled ∧ ¬ wantEnabled b then dropClaims p s else s

/-- MB_PARTITION_CONFIG. -/
def mbPartitionConfig (m : MboxId) (p : PartId) (b : List Byte) (s : State) : State :=
  if configRefused s p b then reply m stResourceBusy 0 [] s else reply m stOk 0 [] (configure p b s)

/-- MB_PARTITION_CONFIG. -/
def execMbPartitionConfig (s : State) : Host.Outcome State Fault Refusal := .next (serve 0x10 none mbPartitionConfig s)

end Sys2Proof.Machine
end

