-- ==== Sys2Proof/Machine/Reads.lean ====
section
/-! DEFINITION. Machine/Reads.lean: the reads that clear (Table 00.2, RC), one meaning for each register. A read returns the
value before it clears; a refused read has no effect on the register (R13). -/
namespace Sys2Proof.Machine
open Sys2Proof

/-- A read of MX_SAT_COUNT (R84). -/
def execSatCountRead (acc : Access) (c : CoreId) (s : State) : Host.Outcome State Fault Refusal :=
  .next (coreRc acc c 0x404 (fun k => k.mx.sat) (fun k => { k with mx := { k.mx with sat := 0 } }) s)

/-- A read of MX_ROWS_ISSUED (R84). -/
def execRowsIssuedRead (acc : Access) (c : CoreId) (s : State) : Host.Outcome State Fault Refusal :=
  .next (coreRc acc c 0x408 (fun k => k.mx.rows) (fun k => { k with mx := { k.mx with rows := 0 } }) s)

/-- A read of MX_ZERO_CELLS (R84). -/
def execZeroCellsRead (acc : Access) (c : CoreId) (s : State) : Host.Outcome State Fault Refusal :=
  .next (coreRc acc c 0x40C (fun k => k.mx.zeros) (fun k => { k with mx := { k.mx with zeros := 0 } }) s)

/-- A read of MX_STALL_FEED (R109). -/
def execStallFeedRead (acc : Access) (c : CoreId) (s : State) : Host.Outcome State Fault Refusal :=
  .next (coreRc acc c 0x480 (fun k => k.mx.stallFeed) (fun k => { k with mx := { k.mx with stallFeed := 0 } }) s)

/-- A read of MX_STALL_DRAIN (R109). -/
def execStallDrainRead (acc : Access) (c : CoreId) (s : State) : Host.Outcome State Fault Refusal :=
  .next (coreRc acc c 0x484 (fun k => k.mx.stallDrain) (fun k => { k with mx := { k.mx with stallDrain := 0 } }) s)

/-- A read of MX_STALL_LOAD (R109). -/
def execStallLoadRead (acc : Access) (c : CoreId) (s : State) : Host.Outcome State Fault Refusal :=
  .next (coreRc acc c 0x488 (fun k => k.mx.stallLoad) (fun k => { k with mx := { k.mx with stallLoad := 0 } }) s)

/-- A read of MX_FROZEN (R109). -/
def execFrozenRead (acc : Access) (c : CoreId) (s : State) : Host.Outcome State Fault Refusal :=
  .next (coreRc acc c 0x48C (fun k => k.mx.frozen) (fun k => { k with mx := { k.mx with frozen := 0 } }) s)

/-- A read of MX_THROTTLED (R109). -/
def execThrottledRead (acc : Access) (c : CoreId) (s : State) : Host.Outcome State Fault Refusal :=
  .next (coreRc acc c 0x490 (fun k => k.mx.throttled) (fun k => { k with mx := { k.mx with throttled := 0 } }) s)

/-- A read of MX_SWAP_WAIT (R109). -/
def execSwapWaitRead (acc : Access) (c : CoreId) (s : State) : Host.Outcome State Fault Refusal :=
  .next (coreRc acc c 0x494 (fun k => k.mx.swapWait) (fun k => { k with mx := { k.mx with swapWait := 0 } }) s)

/-- A read of MX_STALL_MAP (R109). -/
def execStallMapRead (acc : Access) (c : CoreId) (s : State) : Host.Outcome State Fault Refusal :=
  .next (coreRc acc c 0x498 (fun k => k.mx.stallMap) (fun k => { k with mx := { k.mx with stallMap := 0 } }) s)

/-- A read of MX_REPLAYS (R109). -/
def execReplaysRead (acc : Access) (c : CoreId) (s : State) : Host.Outcome State Fault Refusal :=
  .next (coreRc acc c 0x49C (fun k => k.mx.replayCnt) (fun k => { k with mx := { k.mx with replayCnt := 0 } }) s)

/-- A read of MX_STEM_SKIP (R125). -/
def execStemSkipRead (acc : Access) (c : CoreId) (s : State) : Host.Outcome State Fault Refusal :=
  .next (coreRc acc c 0x4B4 (fun k => k.mx.stemSkip) (fun k => { k with mx := { k.mx with stemSkip := 0 } }) s)

/-- A read of MX_STEM_WAIT (R125). -/
def execStemWaitRead (acc : Access) (c : CoreId) (s : State) : Host.Outcome State Fault Refusal :=
  .next (coreRc acc c 0x4B8 (fun k => k.mx.stemWait) (fun k => { k with mx := { k.mx with stemWait := 0 } }) s)

/-- A read of VX_ELEMS (R169). -/
def execVxElemsRead (acc : Access) (c : CoreId) (s : State) : Host.Outcome State Fault Refusal :=
  .next (coreRc acc c 0x1404 (fun k => k.vx.elems) (fun k => { k with vx := { k.vx with elems := 0 } }) s)

/-- A read of WX_ELEMS (R169). -/
def execWxElemsRead (acc : Access) (c : CoreId) (s : State) : Host.Outcome State Fault Refusal :=
  .next (coreRc acc c 0x2404 (fun k => k.wx.elems) (fun k => { k with wx := { k.wx with elems := 0 } }) s)

/-- A read of DX_BYTES_EXT (R194). -/
def execBytesExtRead (acc : Access) (c : CoreId) (s : State) : Host.Outcome State Fault Refusal :=
  .next (coreRc acc c 0x4444 (fun k => k.dx.bytesExt) (fun k => { k with dx := { k.dx with bytesExt := 0 } }) s)

/-- A read of DX_XFERS (R194). -/
def execXfersRead (acc : Access) (c : CoreId) (s : State) : Host.Outcome State Fault Refusal :=
  .next (coreRc acc c 0x4448 (fun k => k.dx.xfers) (fun k => { k with dx := { k.dx with xfers := 0 } }) s)

/-- A read of DX_CREDIT_WAIT (R194). -/
def execCreditWaitRead (acc : Access) (c : CoreId) (s : State) : Host.Outcome State Fault Refusal :=
  .next (coreRc acc c 0x444C (fun k => k.dx.credWait) (fun k => { k with dx := { k.dx with credWait := 0 } }) s)

/-- A read of DX_HALO_DROP (R213). -/
def execHaloDropRead (acc : Access) (c : CoreId) (s : State) : Host.Outcome State Fault Refusal :=
  .next (coreRc acc c 0x4844 (fun k => k.halo.drop) (fun k => { k with halo := { k.halo with drop := 0 } }) s)

/-- A read of DX_QUEUE_CNT_e (R250): rewinds low, ignored packets high. -/
def execQueueCntRead (acc : Access) (c : CoreId) (e : EngId) (s : State) : Host.Outcome State Fault Refusal :=
  .next (coreRc acc c (0x4584 + 8 * e.val) (fun k => (k.queues[e]).ignored ++ (k.queues[e]).rewinds)
    (fun k => { k with queues := updAt k.queues e (fun q => { q with ignored := 0, rewinds := 0 }) }) s)

/-- A read of FX_SPURIOUS (R386). -/
def execFxSpuriousRead (acc : Access) (c : CoreId) (s : State) : Host.Outcome State Fault Refusal :=
  .next (coreRc acc c 0x5414 (fun k => k.fx.spurious) (fun k => { k with fx := { k.fx with spurious := 0 } }) s)

/-- A read of LL_STRMn_DROP (R14, R25). -/
def execStreamDropRead (acc : Access) (n : StreamId) (s : State) : Host.Outcome State Fault Refusal :=
  .next (rcRead acc (0x20C + 0x40 * n.val) (fun s => (s.bnd.strm[n]).drop) (modPort n (fun x => { x with drop := 0 })) s)

/-- A read of SG_MP_BYTES_Pp (R195). -/
def execMpBytesRead (acc : Access) (p : PartId) (s : State) : Host.Outcome State Fault Refusal :=
  .next (rcRead acc (0x440 + 4 * p.val) (fun s => s.sg.bytes[p])
    (fun s => { s with sg := { s.sg with bytes := updAt s.sg.bytes p (fun _ => 0) } }) s)

/-- A read of PT_DB_REJECT (R294). -/
def execDbRejectRead (acc : Access) (p : PartId) (s : State) : Host.Outcome State Fault Refusal :=
  .next (pageRc acc p 0x204 (fun x => x.dbReject) (fun x => { x with dbReject := 0 }) s)

/-- A read of PT_FR_LOST (R294). -/
def execFrLostRead (acc : Access) (p : PartId) (s : State) : Host.Outcome State Fault Refusal :=
  .next (pageRc acc p 0x314 (fun x => x.frLost) (fun x => { x with frLost := 0 }) s)

/-- A read of PT_FENCE_STALE (R294). -/
def execFenceStaleRead (acc : Access) (p : PartId) (s : State) : Host.Outcome State Fault Refusal :=
  .next (pageRc acc p 0x410 (fun x => x.fenceStale) (fun x => { x with fenceStale := 0 }) s)

/-- A read of PT_FSIG_REJECT (R294). -/
def execFsigRejectRead (acc : Access) (p : PartId) (s : State) : Host.Outcome State Fault Refusal :=
  .next (pageRc acc p 0x414 (fun x => x.fsigReject) (fun x => { x with fsigReject := 0 }) s)

/-- A read of TK_EARLY (R309). -/
def execEarlyRead (acc : Access) (s : State) : Host.Outcome State Fault Refusal :=
  .next (rcRead acc (0x90000 + 0x14) (fun s => s.tick.early) (fun s => { s with tick := { s.tick with early := 0 } }) s)

/-- A read of TK_SYNTH (R309). -/
def execSynthRead (acc : Access) (s : State) : Host.Outcome State Fault Refusal :=
  .next (rcRead acc (0x90000 + 0x18) (fun s => s.tick.synth) (fun s => { s with tick := { s.tick with synth := 0 } }) s)

/-- A read of TK_GUTTERS (R309). -/
def execGuttersRead (acc : Access) (s : State) : Host.Outcome State Fault Refusal :=
  .next (rcRead acc (0x90000 + 0x38) (fun s => s.tick.gutters) (fun s => { s with tick := { s.tick with gutters := 0 } }) s)

/-- A read of SF_FC_COUNTk (R333). -/
def execFcCountRead (acc : Access) (k : Fin 6) (s : State) : Host.Outcome State Fault Refusal :=
  .next (rcRead acc (0xA0010 + 4 * k.val) (fun s => s.safety.fcCount[k])
    (fun s => { s with safety := { s.safety with fcCount := updAt s.safety.fcCount k (fun _ => 0) } }) s)

/-- A read of SF_CORR_COUNT (R333). -/
def execCorrCountRead (acc : Access) (s : State) : Host.Outcome State Fault Refusal :=
  .next (rcRead acc (0xA0000 + 0x30) (fun s => s.safety.corr) (fun s => { s with safety := { s.safety with corr := 0 } }) s)

/-- A read of SF_DUAL_FAIL (R333). -/
def execDualFailRead (acc : Access) (s : State) : Host.Outcome State Fault Refusal :=
  .next (rcRead acc (0xA0000 + 0x44) (fun s => s.safety.dualFail) (fun s => { s with safety := { s.safety with dualFail := 0 } }) s)

/-- A read of LK_Pl_CRC (R359). -/
def execCrcRead (acc : Access) (l : LinkId) (s : State) : Host.Outcome State Fault Refusal :=
  .next (linkRc acc l 0x4 (fun x => x.crc) (fun x => { x with crc := 0 }) s)

/-- A read of LK_Pl_REPLAY (R359). -/
def execReplayRead (acc : Access) (l : LinkId) (s : State) : Host.Outcome State Fault Refusal :=
  .next (linkRc acc l 0x8 (fun x => x.replay) (fun x => { x with replay := 0 }) s)

/-- A read of LK_Pl_RETRAIN (R359). -/
def execRetrainRead (acc : Access) (l : LinkId) (s : State) : Host.Outcome State Fault Refusal :=
  .next (linkRc acc l 0xC (fun x => x.retrain) (fun x => { x with retrain := 0 }) s)

/-- A read of LK_Pl_FLITS (R359). -/
def execFlitsRead (acc : Access) (l : LinkId) (s : State) : Host.Outcome State Fault Refusal :=
  .next (linkRc acc l 0x14 (fun x => x.flits) (fun x => { x with flits := 0 }) s)

/-- A read of FB_UCLK_ERR (R387). -/
def execUclkErrRead (acc : Access) (s : State) : Host.Outcome State Fault Refusal :=
  .next (rcRead acc 0xC0084 (fun s => s.fabric.uclkErr) (fun s => { s with fabric := { s.fabric with uclkErr := 0 } }) s)

/-- A read of FB_Zz_LOADS (R387). -/
def execLoadsRead (acc : Access) (z : RegionId) (s : State) : Host.Outcome State Fault Refusal :=
  .next (regionRc acc z 0xC (fun x => x.loads) (fun x => { x with loads := 0 }) s)

/-- A read of FB_Zz_BRAM_ERR (R387). -/
def execBramErrRead (acc : Access) (z : RegionId) (s : State) : Host.Outcome State Fault Refusal :=
  .next (regionRc acc z 0x10 (fun x => x.bramErr) (fun x => { x with bramErr := 0 }) s)

end Sys2Proof.Machine
end

