-- ==== Sys2Proof/Machine/Window.lean ====
section
/-! DEFINITION. Machine/Window.lean: writes of the register window (R11 to R13): where each register lies (Table 01.1 and the register
tables of each chapter) and what a 32-bit write of it does. An offset with no writable register ignores the write (R12). -/
namespace Sys2Proof.Machine
open Sys2Proof

/-! ### Configuration sets (R82, R101, R165, R167, R191, R193, R383, R386) -/

/-- The engine whose set registers lie at an offset of a core window, with set and register index. -/
def setAt (o : Nat) : Option (EngId × SetId × Nat) :=
  let place (e : EngId) (base : Nat) : Option (EngId × SetId × Nat) := some (e, fin 4 ((o - base) / 0x100), (o - base) % 0x100 / 4)
  if o < 0x400 then place 0 0
  else if 0x1000 ≤ o ∧ o < 0x1400 then place 1 0x1000
  else if 0x2000 ≤ o ∧ o < 0x2400 then place 2 0x2000
  else if 0x4000 ≤ o ∧ o < 0x4400 then place 3 0x4000
  else if 0x5000 ≤ o ∧ o < 0x5400 then place 4 0x5000
  else none

/-- A resume record of an engine that names a set is cleared. -/
def clearRecord (e : EngId) (n : SetId) (k : Core) : Core :=
  let vec (v : Vec) : Vec := if v.resume.set = n then { v with resume := Resume.reset } else v
  match e.val with
  | 0 => if k.mx.resume.valid ∧ k.mx.resume.set = n then { k with mx := { k.mx with
      resume := Resume.reset, resumed := none, redo := k.mx.resumed } } else k
  | 1 => { k with vx := vec k.vx }
  | 2 => { k with wx := vec k.wx }
  | 3 => { k with dx := { k.dx with chans := k.dx.chans.map (fun x => if x.resume.set = n then { x with resume := DxChan.reset.resume } else x) } }
  | _ => if k.fx.resumeSet = n then { k with fx := { k.fx with resumeValid := false, resumeSet := 0 } } else k

/-- A write of register i of a set: only while the core is halted. -/
def setWrite (c : CoreId) (e : EngId) (n : SetId) (i : Nat) (val : Word) (s : State) : State :=
  if coreHalted s.cores[c] then modCore c (fun k => clearRecord e n (modSet e n (writeSetReg e i val) k)) s else s

/-- A write at an offset of a core window that is a set register's. -/
def coreSetWrite (c : CoreId) (o : Nat) (val : Word) (s : State) : State :=
  match setAt o with
  | some (e, n, i) => setWrite c e n i val s
  | none => s

/-- CONFIG_SET_WRITE. -/
def execConfigSetWrite (acc : Access) (off : BitVec 25) (val : Word) (s : State) : Host.Outcome State Fault Refusal :=
  .next (access acc off.toNat true (fun s =>
    if 0x100000 ≤ off.toNat ∧ off.toNat < 0x700000 ∧ off.toNat % 4 = 0 then
      coreSetWrite (fin 6 ((off.toNat - 0x100000) / 0x100000)) (off.toNat % 0x100000) val s
    else s) s)

/-! ### The registers of each window -/

/-- The lower half of the global window: interrupt enables, stream ports, the thermal threshold, the memory port. -/
def writeLow (secure : Bool) (o : Nat) (val : Word) (s : State) : State :=
  if o = 0x104 then writeGintStatus val s
  else if o = 0x108 then { s with bnd := { s.bnd with gintEnable := val.setWidth 12 } }
  else if 0x200 ≤ o ∧ o < 0x300 then
    let n : StreamId := fin 4 ((o - 0x200) / 0x40)
    match o % 0x40 with
    | 0 => writeStreamCtrl secure n val s
    | 4 => writeStreamRing n val s
    | _ => s
  else if o = 0x304 then refreshWarn { s with bnd := { s.bnd with warnC := val.setWidth 8 } }
  else if 0x400 ≤ o ∧ o < 0x410 then { s with sg := { s.sg with cls := updAt s.sg.cls (fin 4 ((o - 0x400) / 4)) (fun _ => val &&& 0xFF0F) } }
  else if 0x410 ≤ o ∧ o < 0x430 then { s with sg := { s.sg with cap := updAt s.sg.cap (fin 8 ((o - 0x410) / 4)) (fun _ => val.setWidth 16) } }
  else if o = 0x430 then writeMpqLock secure val s
  else s

/-- A memory region descriptor register: base, limit, control (Table 17.7). -/
def writeMrd (k : Nat) (val : Word) (d : Mrd) : Mrd :=
  match k with
  | 0 => { d with base := val }
  | 4 => { d with limit := val }
  | 8 => { d with enable := bitAt val 0 }
  | _ => d

/-- A mailbox's request words: ignored while busy or while a reply stands (R265). -/
def mbReqWrite (m : MboxId) (i : Fin 16) (val : Word) (s : State) : State :=
  let x := mbOf s m
  if x.busy ∨ x.replyValid then s else modMb m (fun x => { x with req := x.req.set i val }) s

/-- The registers of a mailbox (Table 12.12, R414). -/
def writeMailbox (m : MboxId) (o : Nat) (val : Word) (s : State) : State :=
  if o < 0x40 then mbReqWrite m (fin 16 (o / 4)) val s
  else if o = 0x40 then mbSendWrite m val s
  else if o = 0x48 then (if bitAt val 0 then mbAckWrite m s else s)
  else s

/-- The secure half of the global window: boot, resets, worlds, descriptors, the secure mailbox. -/
def writeHigh (o : Nat) (val : Word) (s : State) : State :=
  if o = 0x8004 then bootReleaseWrite val s
  else if o = 0x8020 then resetWrite val s
  else if o = 0x8024 then partResetWrite val s
  else if o = 0x8028 then regionResetWrite val s
  else if o = 0x8040 then worldReqWrite val s
  else if 0x8100 ≤ o ∧ o < 0x8200 then
    modBoot (fun b => { b with mrdNs := updAt b.mrdNs (fin 16 ((o - 0x8100) / 16)) (writeMrd (o % 16) val) }) s
  else if 0x8200 ≤ o ∧ o < 0x8300 then
    modBoot (fun b => { b with mrdS := updAt b.mrdS (fin 16 ((o - 0x8200) / 16)) (writeMrd (o % 16) val) }) s
  else if 0xE000 ≤ o ∧ o < 0xE080 then writeMailbox secureMb (o - 0xE000) val s
  else if o = 0xE100 then writeSmIntStatus val s
  else if o = 0xE104 then { s with host := { s.host with smIntEnable := val.setWidth 2 } }
  else s

/-- Replace the bits of a value from lo up with those of another, n of them. -/
def splice (w : Nat) (old : BitVec w) (lo n : Nat) (val : Word) : BitVec w :=
  let mask : BitVec w := BitVec.ofNat w ((2 ^ n - 1) * 2 ^ lo)
  (old &&& ~~~ mask) ||| ((BitVec.ofNat w (val.toNat % 2 ^ n)) <<< lo)

/-- A partition page (Table 12.12): a base of the fault ring is ignored while the ring is enabled (R292). -/
def writePage (p : PartId) (o : Nat) (val : Word) (s : State) : State :=
  let hold (f : Partition → Partition) : State := if bitAt (s.host.parts[p]).frCtrl 0 then s else modPart p f s
  if o < 0x80 then writeMailbox (partMb p) o val s
  else if o = 0x100 then writePtIntStatus p val s
  else if o = 0x104 then modPart p (fun x => { x with intEnable := val.setWidth 5 }) s
  else if o = 0x200 then doorbellWrite p val s
  else if o = 0x208 then modPart p (fun x => { x with qSel := val.setWidth 8 }) s
  else if o = 0x300 then hold (fun x => { x with frBase := splice 48 x.frBase 12 20 (val >>> 12) })
  else if o = 0x304 then hold (fun x => { x with frBase := splice 48 x.frBase 32 16 val })
  else if o = 0x308 then frCtrlWrite p val s
  else if o = 0x310 then frTailWrite p val s
  else if o = 0x400 then modPart p (fun x => { x with fsigId := val.setWidth 12 }) s
  else if o = 0x404 then modPart p (fun x => { x with fsigErr := bitAt val 0 }) s
  else if o = 0x408 then modPart p (fun x => { x with fsigLo := val }) s
  else if o = 0x40C then fencePortSignal p val s
  else if o = 0x500 then modPart p (fun x => { x with tagSel := val.setWidth 14 }) s
  else if o = 0x600 then tlbInvWrite p val s
  else if o = 0x604 then modPart p (fun x => { x with tlbVa := splice 48 x.tlbVa 12 20 (val >>> 12) }) s
  else if o = 0x608 then modPart p (fun x => { x with tlbVa := splice 48 x.tlbVa 32 16 val }) s
  else s

/-- The safety window (Table 14.8). -/
def writeSafety (o : Nat) (val : Word) (s : State) : State :=
  if o = 0x04 then ksafeStopWrite val s
  else if o = 0x40 then dualMapWrite val s
  else if o = 0x50 then writeSfIntStatus val s
  else if o = 0x54 then { s with safety := { s.safety with intEnable := val.setWidth 5 } }
  else s

/-- The fabric window (Table 16.15). -/
def writeFabric (secure : Bool) (o : Nat) (val : Word) (s : State) : State :=
  if o = 0x00 then modFabric (fun f => { f with cfgRegion := val.setWidth 3 }) s
  else if o = 0x04 then cfgCmdWrite val s
  else if o = 0x10 then modFabric (fun f => { f with dataLo := val }) s
  else if o = 0x14 then cfgDataPush val s
  else if 0x40 ≤ o ∧ o < 0x80 then uclkWrite (fin 16 ((o - 0x40) / 4)) val s
  else if 0x2000 ≤ o ∧ o < 0x2100 then kioWrite secure (fin 64 ((o - 0x2000) / 4)) val s
  else if 0x3000 ≤ o ∧ o < 0x3040 ∧ o % 16 = 0 then timerWrite (fin 4 ((o - 0x3000) / 16)) val s
  else s

/-- A core window: sets, core control, token counters (only while the core is halted), halo registers. -/
def writeCore (c : CoreId) (o : Nat) (val : Word) (s : State) : State :=
  if o = 0x4520 then writeCoreCtrl c val s
  else if 0x4600 ≤ o ∧ o < 0x4700 then
    if coreHalted s.cores[c] then setTok c (fin 64 ((o - 0x4600) / 4)) (val.setWidth 16) s else s
  else if 0x4800 ≤ o ∧ o < 0x4840 then
    let k : HaloId := fin 4 ((o - 0x4800) / 16)
    match o % 16 with
    | 0 => writeHbWindow c k .ctrl val s
    | 4 => writeHbWindow c k .win val s
    | 8 => writeHbWindow c k .seq val s
    | _ => s
  else if o = 0x4840 then modCore c (fun k => { k with halo := { k.halo with tmo := val.setWidth 24 } }) s
  else coreSetWrite c o val s

/-- A 32-bit write of the register at an aligned offset of the window (Table 01.1). -/
def writeReg (secure : Bool) (off : Nat) (val : Word) (s : State) : State :=
  if off < 0x8000 then writeLow secure off val s
  else if off < 0x10000 then writeHigh off val s
  else if off < 0x90000 then writePage (fin 8 ((off - 0x10000) / 0x10000)) ((off - 0x10000) % 0x10000) val s
  else if 0xA0000 ≤ off ∧ off < 0xB0000 then writeSafety (off - 0xA0000) val s
  else if 0xC0000 ≤ off ∧ off < 0x100000 then writeFabric secure (off - 0xC0000) val s
  else if 0x100000 ≤ off ∧ off < 0x700000 then writeCore (fin 6 ((off - 0x100000) / 0x100000)) (off % 0x100000) val s
  else if 0x1000000 ≤ off then apertureWrite (off - 0x1000000) (leBytes 4 val.toNat) s
  else s

/-! ### Accesses (R11) -/

/-- A 32-bit write access. -/
def write32 (acc : Access) (off : Nat) (val : Word) (s : State) : State := access acc off true (writeReg acc.secure off val) s

/-- A write access: the world check is made before the rules of width and alignment; a 64-bit access is two of 32 bits, the lower
address first; a narrow write or a misaligned one is ignored. -/
def windowWrite (acc : Access) (off : Nat) (size : AccSize) (val : Dword) (s : State) : State :=
  if ¬ acc.secure ∧ secureAt s off true then refuseAccess acc off s
  else match size with
    | .b32 => if off % 4 = 0 then write32 acc off (val.setWidth 32) s else s
    | .b64 => if off % 8 = 0 then write32 acc (off + 4) ((val >>> 32).setWidth 32) (write32 acc off (val.setWidth 32) s) else s
    | _ => s

/-- REGISTER_WRITE. -/
def execRegisterWrite (acc : Access) (off : BitVec 25) (size : AccSize) (val : Dword) (s : State) :
    Host.Outcome State Fault Refusal :=
  .next (windowWrite acc off.toNat size val s)

end Sys2Proof.Machine
end

