-- ==== Sys2Proof/Machine/Dispatch.lean ====
section
/-! DEFINITION. Machine/Dispatch.lean: exec, one arm per command, each one call of its meaning. -/
namespace Sys2Proof.Machine
open Sys2Proof

def exec (i : Instr) (s : State) : Host.Outcome State Fault Refusal :=
  match i with
  | .registerWrite acc off size val => Sys2Proof.Machine.execRegisterWrite acc off size val s
  | .gintStatusClear acc val => Sys2Proof.Machine.execGintStatusClear acc val s
  | .ptIntStatusClear acc p val => Sys2Proof.Machine.execPtIntStatusClear acc p val s
  | .smIntStatusClear acc val => Sys2Proof.Machine.execSmIntStatusClear acc val s
  | .sfIntStatusClear acc val => Sys2Proof.Machine.execSfIntStatusClear acc val s
  | .streamCtrlWrite acc n val => Sys2Proof.Machine.execStreamCtrlWrite acc n val s
  | .streamRingWrite acc n val => Sys2Proof.Machine.execStreamRingWrite acc n val s
  | .streamLineArrival n at_ line => Sys2Proof.Machine.execStreamLineArrival n at_ line s
  | .streamDropRead acc n => Sys2Proof.Machine.execStreamDropRead acc n s
  | .stemLineAvailable n => Sys2Proof.Machine.execStemLineAvailable n s
  | .vofsAckArrival => Sys2Proof.Machine.execVofsAckArrival s
  | .regulatorTimeout => Sys2Proof.Machine.execRegulatorTimeout s
  | .throttleLevelChange level => Sys2Proof.Machine.execThrottleLevelChange level s
  | .tempUpdate temp => Sys2Proof.Machine.execTempUpdate temp s
  | .ktickEdge at_ => Sys2Proof.Machine.execKtickEdge at_ s
  | .memoryErrorResponse src => Sys2Proof.Machine.execMemoryErrorResponse src s
  | .curveWriteRelease c => Sys2Proof.Machine.execCurveWriteRelease c s
  | .configSetWrite acc off val => Sys2Proof.Machine.execConfigSetWrite acc off val s
  | .mxCommandStart c => Sys2Proof.Machine.execMxCommandStart c s
  | .mxPassFormation c => Sys2Proof.Machine.execMxPassFormation c s
  | .mxPassStart c => Sys2Proof.Machine.execMxPassStart c s
  | .mxCommandComplete c => Sys2Proof.Machine.execMxCommandComplete c s
  | .mxSnuffComplete c => Sys2Proof.Machine.execMxSnuffComplete c s
  | .mxSnuffTimeout c => Sys2Proof.Machine.execMxSnuffTimeout c s
  | .arrayFault c fault => Sys2Proof.Machine.execArrayFault c fault s
  | .arrayReplayDone c => Sys2Proof.Machine.execArrayReplayDone c s
  | .mxOutputReadFault at_ => Sys2Proof.Machine.execMxOutputReadFault at_ s
  | .accReadRelease c unit => Sys2Proof.Machine.execAccReadRelease c unit s
  | .satCountRead acc c => Sys2Proof.Machine.execSatCountRead acc c s
  | .rowsIssuedRead acc c => Sys2Proof.Machine.execRowsIssuedRead acc c s
  | .zeroCellsRead acc c => Sys2Proof.Machine.execZeroCellsRead acc c s
  | .stallFeedRead acc c => Sys2Proof.Machine.execStallFeedRead acc c s
  | .stallDrainRead acc c => Sys2Proof.Machine.execStallDrainRead acc c s
  | .stallLoadRead acc c => Sys2Proof.Machine.execStallLoadRead acc c s
  | .frozenRead acc c => Sys2Proof.Machine.execFrozenRead acc c s
  | .throttledRead acc c => Sys2Proof.Machine.execThrottledRead acc c s
  | .swapWaitRead acc c => Sys2Proof.Machine.execSwapWaitRead acc c s
  | .stallMapRead acc c => Sys2Proof.Machine.execStallMapRead acc c s
  | .replaysRead acc c => Sys2Proof.Machine.execReplaysRead acc c s
  | .stemSkipRead acc c => Sys2Proof.Machine.execStemSkipRead acc c s
  | .stemWaitRead acc c => Sys2Proof.Machine.execStemWaitRead acc c s
  | .vxCommandStart c => Sys2Proof.Machine.execVxCommandStart c s
  | .vxCommandComplete c => Sys2Proof.Machine.execVxCommandComplete c s
  | .wxCommandStart c => Sys2Proof.Machine.execWxCommandStart c s
  | .wxCommandComplete c => Sys2Proof.Machine.execWxCommandComplete c s
  | .vxwxSnuffComplete c eng => Sys2Proof.Machine.execVxwxSnuffComplete c eng s
  | .engineFault c fault => Sys2Proof.Machine.execEngineFault c fault s
  | .vxElemsRead acc c => Sys2Proof.Machine.execVxElemsRead acc c s
  | .wxElemsRead acc c => Sys2Proof.Machine.execWxElemsRead acc c s
  | .dxCommandStart c ch => Sys2Proof.Machine.execDxCommandStart c ch s
  | .dxTransferIssue c ch => Sys2Proof.Machine.execDxTransferIssue c ch s
  | .dxTransferAck c ch k => Sys2Proof.Machine.execDxTransferAck c ch k s
  | .dxCommandComplete c ch => Sys2Proof.Machine.execDxCommandComplete c ch s
  | .dxSnuffComplete c ch => Sys2Proof.Machine.execDxSnuffComplete c ch s
  | .dxFault c ch finding => Sys2Proof.Machine.execDxFault c ch finding s
  | .mportCapWindow => Sys2Proof.Machine.execMportCapWindow s
  | .mpqLockSet acc val => Sys2Proof.Machine.execMpqLockSet acc val s
  | .bytesExtRead acc c => Sys2Proof.Machine.execBytesExtRead acc c s
  | .xfersRead acc c => Sys2Proof.Machine.execXfersRead acc c s
  | .creditWaitRead acc c => Sys2Proof.Machine.execCreditWaitRead acc c s
  | .mpBytesRead acc p => Sys2Proof.Machine.execMpBytesRead acc p s
  | .hbCtrlWrite acc c k val => Sys2Proof.Machine.execHbCtrlWrite acc c k val s
  | .haloCreditGrant c path v => Sys2Proof.Machine.execHaloCreditGrant c path v s
  | .haloRunArrival c path => Sys2Proof.Machine.execHaloRunArrival c path s
  | .haloRelease c k => Sys2Proof.Machine.execHaloRelease c k s
  | .haloCreditReturn c path => Sys2Proof.Machine.execHaloCreditReturn c path s
  | .haloTimeout c unit => Sys2Proof.Machine.execHaloTimeout c unit s
  | .haloDropRead acc c => Sys2Proof.Machine.execHaloDropRead acc c s
  | .queueWordPush c e first w corrupt => Sys2Proof.Machine.execQueueWordPush c e first w corrupt s
  | .packetAbort c e => Sys2Proof.Machine.execPacketAbort c e s
  | .ctlTokenWrite c t v => Sys2Proof.Machine.execCtlTokenWrite c t v s
  | .ctlHaloRegWrite c k r val => Sys2Proof.Machine.execCtlHaloRegWrite c k r val s
  | .ctlRead c src => Sys2Proof.Machine.execCtlRead c src s
  | .ctlBranch c src => Sys2Proof.Machine.execCtlBranch c src s
  | .ctlWait c req => Sys2Proof.Machine.execCtlWait c req s
  | .ctlWaitSatisfied c => Sys2Proof.Machine.execCtlWaitSatisfied c s
  | .ctlProgramEnd c how => Sys2Proof.Machine.execCtlProgramEnd c how s
  | .ctlLockstepMismatch c comparator => Sys2Proof.Machine.execCtlLockstepMismatch c comparator s
  | .bankSwitchPoint c point target => Sys2Proof.Machine.execBankSwitchPoint c point target s
  | .bankSwitch c => Sys2Proof.Machine.execBankSwitch c s
  | .imemWrite c bank off data => Sys2Proof.Machine.execImemWrite c bank off data s
  | .bankReady c => Sys2Proof.Machine.execBankReady c s
  | .packetTake c e ecc => Sys2Proof.Machine.execPacketTake c e ecc s
  | .queuePointerMismatch c e freePtr a b => Sys2Proof.Machine.execQueuePointerMismatch c e freePtr a b s
  | .stallMonitorExpiry c => Sys2Proof.Machine.execStallMonitorExpiry c s
  | .haltComplete c => Sys2Proof.Machine.execHaltComplete c s
  | .coreRestart acc c => Sys2Proof.Machine.execCoreRestart acc c s
  | .coreReset acc c => Sys2Proof.Machine.execCoreReset acc c s
  | .haltReq acc c => Sys2Proof.Machine.execHaltReq acc c s
  | .coreRecoveryReset c selfTestOk => Sys2Proof.Machine.execCoreRecoveryReset c selfTestOk s
  | .queueCntRead acc c e => Sys2Proof.Machine.execQueueCntRead acc c e s
  | .mbAck acc m => Sys2Proof.Machine.execMbAck acc m s
  | .mbCapsRead => Sys2Proof.Machine.execMbCapsRead s
  | .mbPartitionConfig => Sys2Proof.Machine.execMbPartitionConfig s
  | .mbQueueCreate => Sys2Proof.Machine.execMbQueueCreate s
  | .mbQueueDestroy => Sys2Proof.Machine.execMbQueueDestroy s
  | .mbAsidAttach => Sys2Proof.Machine.execMbAsidAttach s
  | .mbAsidRevoke => Sys2Proof.Machine.execMbAsidRevoke s
  | .mbProgramLoad => Sys2Proof.Machine.execMbProgramLoad s
  | .packageVerifyEnd => Sys2Proof.Machine.execPackageVerifyEnd s
  | .mbProgramUnload => Sys2Proof.Machine.execMbProgramUnload s
  | .fenceRegister => Sys2Proof.Machine.execFenceRegister s
  | .fenceRelease => Sys2Proof.Machine.execFenceRelease s
  | .fenceClearError => Sys2Proof.Machine.execFenceClearError s
  | .fenceRegisterProxy => Sys2Proof.Machine.execFenceRegisterProxy s
  | .mbTickConfig => Sys2Proof.Machine.execMbTickConfig s
  | .mbCandleTable => Sys2Proof.Machine.execMbCandleTable s
  | .fabricLoad => Sys2Proof.Machine.execFabricLoad s
  | .fabricUnload => Sys2Proof.Machine.execFabricUnload s
  | .fabricLoadAbort => Sys2Proof.Machine.execFabricLoadAbort s
  | .linkEnumerate => Sys2Proof.Machine.execLinkEnumerate s
  | .linkSetGroup => Sys2Proof.Machine.execLinkSetGroup s
  | .mbMarginReport => Sys2Proof.Machine.execMbMarginReport s
  | .resourceClaim => Sys2Proof.Machine.execResourceClaim s
  | .resourceRelease => Sys2Proof.Machine.execResourceRelease s
  | .resourceQuery => Sys2Proof.Machine.execResourceQuery s
  | .mbWarmRestart => Sys2Proof.Machine.execMbWarmRestart s
  | .doorbell acc p val => Sys2Proof.Machine.execDoorbell acc p val s
  | .dbRejectRead acc p => Sys2Proof.Machine.execDbRejectRead acc p s
  | .jobAdmission qid => Sys2Proof.Machine.execJobAdmission qid s
  | .jobPull c qid => Sys2Proof.Machine.execJobPull c qid s
  | .jobEnd job => Sys2Proof.Machine.execJobEnd job s
  | .fencePortSignal acc p val => Sys2Proof.Machine.execFencePortSignal acc p val s
  | .fenceIoError site => Sys2Proof.Machine.execFenceIoError site s
  | .fenceStaleRead acc p => Sys2Proof.Machine.execFenceStaleRead acc p s
  | .fsigRejectRead acc p => Sys2Proof.Machine.execFsigRejectRead acc p s
  | .tlbInvalidate acc p val => Sys2Proof.Machine.execTlbInvalidate acc p val s
  | .tlbInvalidateDone p => Sys2Proof.Machine.execTlbInvalidateDone p s
  | .faultRingEnable acc p val => Sys2Proof.Machine.execFaultRingEnable acc p val s
  | .faultRingTailWrite acc p val => Sys2Proof.Machine.execFaultRingTailWrite acc p val s
  | .frLostRead acc p => Sys2Proof.Machine.execFrLostRead acc p s
  | .tickSourceEvent => Sys2Proof.Machine.execTickSourceEvent s
  | .tickTimerExpiry => Sys2Proof.Machine.execTickTimerExpiry s
  | .tickWatchdogExpiry => Sys2Proof.Machine.execTickWatchdogExpiry s
  | .holdoverTick => Sys2Proof.Machine.execHoldoverTick s
  | .earlyRead acc => Sys2Proof.Machine.execEarlyRead acc s
  | .synthRead acc => Sys2Proof.Machine.execSynthRead acc s
  | .guttersRead acc => Sys2Proof.Machine.execGuttersRead acc s
  | .candleStart e => Sys2Proof.Machine.execCandleStart e s
  | .preemptRestart job => Sys2Proof.Machine.execPreemptRestart job s
  | .candleGutter e => Sys2Proof.Machine.execCandleGutter e s
  | .handover c => Sys2Proof.Machine.execHandover c s
  | .lampSubtimerExpiry => Sys2Proof.Machine.execLampSubtimerExpiry s
  | .lampTestStart c => Sys2Proof.Machine.execLampTestStart c s
  | .lampDeferExpiry c => Sys2Proof.Machine.execLampDeferExpiry c s
  | .lampVerdict c failing => Sys2Proof.Machine.execLampVerdict c failing s
  | .arrayWake c a => Sys2Proof.Machine.execArrayWake c a s
  | .columnDiagnosis c a column => Sys2Proof.Machine.execColumnDiagnosis c a column s
  | .scrubVisit mem off found => Sys2Proof.Machine.execScrubVisit mem off found s
  | .scrubWriteback mem off => Sys2Proof.Machine.execScrubWriteback mem off s
  | .coreAliveExpiry c => Sys2Proof.Machine.execCoreAliveExpiry c s
  | .llWatchdogExpiry => Sys2Proof.Machine.execLlWatchdogExpiry s
  | .llLockstepMismatch => Sys2Proof.Machine.execLlLockstepMismatch s
  | .clockMonitorFault n => Sys2Proof.Machine.execClockMonitorFault n s
  | .supplyFault rail sample => Sys2Proof.Machine.execSupplyFault rail sample s
  | .pacingExpiry => Sys2Proof.Machine.execPacingExpiry s
  | .lampOverdueExpiry c a => Sys2Proof.Machine.execLampOverdueExpiry c a s
  | .sfKsafeStopWrite acc val => Sys2Proof.Machine.execSfKsafeStopWrite acc val s
  | .sfDualMapWrite acc val => Sys2Proof.Machine.execSfDualMapWrite acc val s
  | .fcCountRead acc k => Sys2Proof.Machine.execFcCountRead acc k s
  | .corrCountRead acc => Sys2Proof.Machine.execCorrCountRead acc s
  | .dualFailRead acc => Sys2Proof.Machine.execDualFailRead acc s
  | .slackWindow readings => Sys2Proof.Machine.execSlackWindow readings s
  | .marginPlannerRun => Sys2Proof.Machine.execMarginPlannerRun s
  | .binChange => Sys2Proof.Machine.execBinChange s
  | .clockRelockDone => Sys2Proof.Machine.execClockRelockDone s
  | .dataFlitReceive l flit => Sys2Proof.Machine.execDataFlitReceive l flit s
  | .controlFlitReceive l flit => Sys2Proof.Machine.execControlFlitReceive l flit s
  | .linkRetrain l => Sys2Proof.Machine.execLinkRetrain l s
  | .linkRetrainEnd l lanes => Sys2Proof.Machine.execLinkRetrainEnd l lanes s
  | .portRetry l => Sys2Proof.Machine.execPortRetry l s
  | .crcRead acc l => Sys2Proof.Machine.execCrcRead acc l s
  | .replayRead acc l => Sys2Proof.Machine.execReplayRead acc l s
  | .retrainRead acc l => Sys2Proof.Machine.execRetrainRead acc l s
  | .flitsRead acc l => Sys2Proof.Machine.execFlitsRead acc l s
  | .token l => Sys2Proof.Machine.execToken l s
  | .enumTokenTimeout => Sys2Proof.Machine.execEnumTokenTimeout s
  | .membership l => Sys2Proof.Machine.execMembership l s
  | .join l => Sys2Proof.Machine.execJoin l s
  | .joinTimeout => Sys2Proof.Machine.execJoinTimeout s
  | .probe l => Sys2Proof.Machine.execProbe l s
  | .probeReply l => Sys2Proof.Machine.execProbeReply l s
  | .runAck l => Sys2Proof.Machine.execRunAck l s
  | .runRefuse l => Sys2Proof.Machine.execRunRefuse l s
  | .multicastRunReceive l => Sys2Proof.Machine.execMulticastRunReceive l s
  | .signal l => Sys2Proof.Machine.execSignal l s
  | .update l => Sys2Proof.Machine.execUpdate l s
  | .subscribe l => Sys2Proof.Machine.execSubscribe l s
  | .subReply l => Sys2Proof.Machine.execSubReply l s
  | .unsubscribe l => Sys2Proof.Machine.execUnsubscribe l s
  | .heartbeatSend => Sys2Proof.Machine.execHeartbeatSend s
  | .heartbeatLoss e => Sys2Proof.Machine.execHeartbeatLoss e s
  | .settleWindowEnd => Sys2Proof.Machine.execSettleWindowEnd s
  | .linkTickMarker l at_ count => Sys2Proof.Machine.execLinkTickMarker l at_ count s
  | .linkTickDue => Sys2Proof.Machine.execLinkTickDue s
  | .fabricFrame found => Sys2Proof.Machine.execFabricFrame found s
  | .fabricRelease => Sys2Proof.Machine.execFabricRelease s
  | .cfgStart acc val => Sys2Proof.Machine.execCfgStart acc val s
  | .cfgAbort acc val => Sys2Proof.Machine.execCfgAbort acc val s
  | .cfgDataPush acc val => Sys2Proof.Machine.execCfgDataPush acc val s
  | .configScanMismatch z frame => Sys2Proof.Machine.execConfigScanMismatch z frame s
  | .uclkWrite acc n val => Sys2Proof.Machine.execUclkWrite acc n val s
  | .uclkErrRead acc => Sys2Proof.Machine.execUclkErrRead acc s
  | .kioWrite acc n val => Sys2Proof.Machine.execKioWrite acc n val s
  | .timerCtrlWrite acc k val => Sys2Proof.Machine.execTimerCtrlWrite acc k val s
  | .timerPeriodicExpiry k => Sys2Proof.Machine.execTimerPeriodicExpiry k s
  | .userWatchdogExpiry k => Sys2Proof.Machine.execUserWatchdogExpiry k s
  | .watchdogService k => Sys2Proof.Machine.execWatchdogService k s
  | .loadsRead acc z => Sys2Proof.Machine.execLoadsRead acc z s
  | .bramErrRead acc z => Sys2Proof.Machine.execBramErrRead acc z s
  | .bramUncorr z port off => Sys2Proof.Machine.execBramUncorr z port off s
  | .fxCommandStart c => Sys2Proof.Machine.execFxCommandStart c s
  | .fxDone c taken beats => Sys2Proof.Machine.execFxDone c taken beats s
  | .fxErr c code taken beats => Sys2Proof.Machine.execFxErr c code taken beats s
  | .fxCommandComplete c => Sys2Proof.Machine.execFxCommandComplete c s
  | .fxFault c fault => Sys2Proof.Machine.execFxFault c fault s
  | .fxSnuffComplete c => Sys2Proof.Machine.execFxSnuffComplete c s
  | .fxSnuffTimeout c => Sys2Proof.Machine.execFxSnuffTimeout c s
  | .fxSpuriousRead acc c => Sys2Proof.Machine.execFxSpuriousRead acc c s
  | .coldResetRelease kroot => Sys2Proof.Machine.execColdResetRelease kroot s
  | .llResetCold acc val => Sys2Proof.Machine.execLlResetCold acc val s
  | .bootApertureWrite acc off data => Sys2Proof.Machine.execBootApertureWrite acc off data s
  | .bootRelease acc val => Sys2Proof.Machine.execBootRelease acc val s
  | .bistDone found => Sys2Proof.Machine.execBistDone found s
  | .bootImageCheck copyBad => Sys2Proof.Machine.execBootImageCheck copyBad s
  | .llResetWarm acc val => Sys2Proof.Machine.execLlResetWarm acc val s
  | .llPartResetWrite acc val => Sys2Proof.Machine.execLlPartResetWrite acc val s
  | .llRegionResetWrite acc val => Sys2Proof.Machine.execLlRegionResetWrite acc val s
  | .llWorldReq acc val => Sys2Proof.Machine.execLlWorldReq acc val s
  | .worldScrubDone => Sys2Proof.Machine.execWorldScrubDone s
  | .coreRetentionExit c => Sys2Proof.Machine.execCoreRetentionExit c s
  | .mbSend acc m val => Sys2Proof.Machine.execMbSend acc m val s
  | .candleEnded e => Sys2Proof.Machine.execCandleEnded e s
  | .cmdReady z => Sys2Proof.Machine.execCmdReady z s
  | .uclkLock n => Sys2Proof.Machine.execUclkLock n s
  | .coreResetDone c => Sys2Proof.Machine.execCoreResetDone c s

end Sys2Proof.Machine
end

