-- ==== Sys2Proof/Machine/UserLogic.lean ====
section
/-! DEFINITION. Machine/UserLogic.lean: what the fabric does as time passes: the edges of the clock lines of all configured regions (R361 to
R364, R380) and the configuration scan (R373). -/
namespace Sys2Proof.Machine
open Sys2Proof

/-- The edges at a time: of every configured region, read in the state before them, and of the extension ports whose fx_line has one. -/
def fabricTick (t : Nat) (s0 : State) : State :=
  let s := forAll (liveRegions s0) (regionEdge s0 t) (atTime t s0)
  let ports := (List.finRange 6).filter (fun c : CoreId =>
    decide (fxRegion c ∈ liveRegions s0) && decide (fxLineOf s0 (fxRegion c) ∈ linesAt s0 (fxRegion c) t))
  forAll ports (fxEdge s0 t) s

/-- The clocks of every configured region run up to a time; a command that waits for the end of an abort is sent then (R383). -/
def runFabric (t : Nat) (s : State) : State :=
  let zs := liveRegions s
  let s := forAll (edgeTimes s t) fabricTick s
  forAll (List.finRange 6) fxSend (forAll zs (fun z => modRegion z (fun r => { r with logic := { r.logic with ranTo := t } })) s)

/-- The scan goes on for a time; frames that it reads and that do not hold fail their regions. -/
def runScan (dt : Nat) (s : State) : State :=
  forAll (scanMisses dt s) (fun x s => if (s.fabric.regions[x.1]).state = 2 then scanFails x.1 x.2 s else s) (scanOn dt s)

end Sys2Proof.Machine
end

