-- ==== Sys2Proof/Machine/Idle.lean ====
section
/-! DEFINITION. Machine/Idle.lean: what the engine does in an array-clock cycle in which no command comes (log 1). -/
namespace Sys2Proof.Machine
open Sys2Proof

/-- One array-clock cycle of a core: its engines, its waits for credits. -/
def idleCore (c : CoreId) (s : State) : State := countCredit c 1 (coreCycle c s)

/-- One idle cycle: every core, the stall monitor (R239), the throttle level that waits for a pattern, the fabric's user logic and its scan, what a
member learns of far ports, and a control flit at every trained port, since no data flit may be sent (R336). -/
def idleStep (s : State) : State :=
  let s := throttleDue (stallCycle (forAll (List.finRange 6) idleCore s))
  let s := forAll (List.finRange 4) pump (learnPorts (flushRefused s))
  let s := forAll (livePorts s) (sendControl none) s
  let t := s.time + binPeriod s.safety.bin
  atTime t (runScan (binPeriod s.safety.bin) (runFabric t s))

end Sys2Proof.Machine
end

