-- ==== Sys2Proof/Machine/Registers.lean ====
section
/-! DEFINITION. Machine/Registers.lean: what a read of each register of the window gives (R10 to R12 and the register tables of every
chapter), as a view of the state, and a read of any width (R11). The reads that clear are commands of their own too (Reads.lean); every
other read changes nothing. -/
namespace Sys2Proof.Machine
open Sys2Proof

/-- The low word of a number. -/
def word (v : Nat) : Word := BitVec.ofNat 32 v
/-- A time in units of n microseconds, saturating at 0xFFFF. -/
def elapsed16 (t since n : Nat) : Nat := min 0xFFFF ((t - since) / us n)

/-! ### Interrupt lines (R16, Table 01.4) -/

/-- The level of an interrupt line: an enabled cause behind it is pending. -/
def lineLevel (s : State) (i : Nat) : Bool :=
  if h : i < 8 then decide ((s.host.parts[(⟨i, h⟩ : PartId)]).intStatus &&& (s.host.parts[(⟨i, h⟩ : PartId)]).intEnable ≠ 0)
  else if i = 8 then decide (s.host.smIntStatus &&& s.host.smIntEnable ≠ 0)
  else if i = 9 then decide (s.safety.intStatus &&& s.safety.intEnable ≠ 0)
  else if i = 10 then decide (s.bnd.gintStatus &&& s.bnd.gintEnable ≠ 0)
  else false

/-! ### The lower half of the global window (Tables 01.2, 01.3, 01.7, 01.9, 08.6, 08.7) -/

/-- A stream port's registers. -/
def readStream (x : StrmPort) (o : Nat) : Word :=
  match o with
  | 0 => x.ctrl
  | 4 => x.ring
  | 8 => word (x.credits.toNat + x.lastFrame.toNat * 2 ^ 8 + b2n x.inFrame * 2 ^ 24 + b2n x.cfgErr * 2 ^ 25)
  | 0xC => x.drop
  | _ => 0

/-- Registers 0x0000 to 0x7FFF. -/
def readLow (s : State) (o : Nat) : Word :=
  let b := s.bnd
  if o = 0 then 0x0C4D0096
  else if o = 4 then 0x00000100
  else if o = 8 then word (gradeCode s.grade)
  else if o = 0xC then fuseMask s.grade
  else if o = 0x100 then word (bitNum 11 (lineLevel s))
  else if o = 0x104 then b.gintStatus.setWidth 32
  else if o = 0x108 then b.gintEnable.setWidth 32
  else if 0x200 ≤ o ∧ o < 0x300 then readStream b.strm[fin 4 ((o - 0x200) / 0x40)] (o % 0x40)
  else if o = 0x300 then word (b.throttle.toNat + b.tempC.toNat * 2 ^ 8 + b2n b.warn * 2 ^ 16)
  else if o = 0x304 then b.warnC.setWidth 32
  else if o = 0x308 then word (b.vofsCode.toNat + b.vofsAck.toNat * 2 ^ 4 + b2n (decide (b.vofsCode ≠ b.vofsAck)) * 2 ^ 8 + b2n b.timedOut * 2 ^ 9)
  else if 0x400 ≤ o ∧ o < 0x410 then s.sg.cls[fin 4 ((o - 0x400) / 4)]
  else if 0x410 ≤ o ∧ o < 0x430 then (s.sg.cap[fin 8 ((o - 0x410) / 4)]).setWidth 32
  else if o = 0x430 then word (b2n s.sg.lock)
  else if 0x440 ≤ o ∧ o < 0x460 then s.sg.bytes[fin 8 ((o - 0x440) / 4)]
  else if 0x500 ≤ o ∧ o < 0x540 then
    let r := s.sg.regions[fin 16 ((o - 0x500) / 4)]
    word (r.owner.toNat + b2n r.secure * 2 ^ 4 + b2n r.boot * 2 ^ 5)
  else 0

/-! ### The secure half (Table 17.7, R414) -/

/-- Powered domains, by the numbering of R411. -/
def domainOn (s : State) (i : Nat) : Bool :=
  if i < 24 then ((s.cores[i / 4]?).bind (fun k => k.arrays[i % 4]?)).any (fun u => u.powered)
  else if i < 30 then (s.cores[i - 24]?).any (fun k => k.powered)
  else if i < 36 then (s.cores[i - 30]?).any (fun k => k.powered && !k.retained)
  else if i < 44 then (s.fabric.regions[i - 36]?).any (fun z => z.powered)
  else if i < 48 then bitAt s.boot.pdLnk (i - 44)
  else if i = 48 then s.boot.pdAon
  else decide (i = 49) && s.boot.pdSg

/-- The secure blocks, in the layout of LL_WORLDS. -/
def worldsWord (s : State) : Nat :=
  bitNum 6 (fun i => (s.cores[i]?).any (fun k => k.secure)) + bitNum 8 (fun i => (s.fabric.regions[i]?).any (fun z => z.secure)) * 2 ^ 6
    + bitNum 4 (fun i => (s.links.ports[i]?).any (fun l => l.secure)) * 2 ^ 14 + bitNum 8 (fun i => (s.host.parts[i]?).any (fun p => p.secure)) * 2 ^ 18

/-- The registers of a mailbox. -/
def readMailbox (x : Mailbox) (o : Nat) : Word :=
  if o < 0x40 then x.req[fin 16 (o / 4)]
  else if o = 0x44 then word (b2n x.busy + b2n x.replyValid * 2 + b2n x.overrun * 4)
  else if 0x80 ≤ o ∧ o < 0xC0 then x.rep[fin 16 ((o - 0x80) / 4)]
  else 0

/-- A descriptor's registers. -/
def readMrd (d : Mrd) (o : Nat) : Word :=
  match o with
  | 0 => d.base
  | 4 => d.limit
  | 8 => word (b2n d.enable)
  | _ => 0

/-- Registers 0x8000 to 0xFFFF. -/
def readHigh (s : State) (o : Nat) : Word :=
  let b := s.boot
  if o = 0x8000 then word (b.state.toNat + b2n b.bistDone * 2 ^ 3 + b2n b.releaseSeen * 2 ^ 4 + b2n b.slotB * 2 ^ 5 + b2n b.noValid * 2 ^ 6)
  else if o = 0x8008 then (b.slotCode[0]).setWidth 32
  else if o = 0x800C then (b.slotCode[1]).setWidth 32
  else if o = 0x8010 then b.seq
  else if o = 0x8014 then b.vector
  else if o = 0x8018 then b.bist.setWidth 32
  else if o = 0x8020 then word (b2n (decide (b.state = 4)) + b2n (decide (b.state.toNat < 3 ∧ fld b.cause 0 2 = 1)) * 2)
  else if o = 0x8024 then b.partBusy.setWidth 32
  else if o = 0x802C then b.cause
  else if o = 0x8044 then word (worldsWord s)
  else if o = 0x8048 then word (b2n b.worldBusy.isSome + b2n b.worldErr * 2 + b.worldKind.toNat * 4 + b.worldIndex.toNat * 16)
  else if 0x8100 ≤ o ∧ o < 0x8200 then readMrd b.mrdNs[fin 16 ((o - 0x8100) / 16)] (o % 16)
  else if 0x8200 ≤ o ∧ o < 0x8300 then readMrd b.mrdS[fin 16 ((o - 0x8200) / 16)] (o % 16)
  else if o = 0x8400 then word (bitNum 32 (domainOn s))
  else if o = 0x8404 then word (bitNum 18 (fun i => domainOn s (32 + i)))
  else if o = 0x8408 then word (bitNum 6 (fun i => (s.cores[i]?).any (fun k => k.retained)))
  else if 0xE000 ≤ o ∧ o < 0xE0C0 then readMailbox s.host.smBox (o - 0xE000)
  else if o = 0xE100 then s.host.smIntStatus.setWidth 32
  else if o = 0xE104 then s.host.smIntEnable.setWidth 32
  else 0

/-! ### Partition pages (Table 12.12) -/

/-- PT_Q_STATE of the selected queue. -/
def queueWord (s : State) (p : PartId) : Nat :=
  match findQueue s (s.host.parts[p]).qSel.toNat with
  | some q =>
    if q.part ≠ p then 0
    else (match q.state with | .enabled => 1 | .disabled => 2 | .error => 3) + q.pulled % 2 ^ 16 * 2 ^ 16
  | none => 0

/-- The state of the selected tag, where the partition holds it. -/
def selTag (s : State) (p : PartId) : Option TagState :=
  let x := s.host.parts[p]
  if tagHeld x x.tagSel.toNat then tagOf s x.tagSel.toNat else none

/-- A page's registers. -/
def readPage (s : State) (p : PartId) (o : Nat) : Word :=
  let x := s.host.parts[p]
  if o < 0xC0 then readMailbox x.mbox o
  else if o = 0x100 then x.intStatus.setWidth 32
  else if o = 0x104 then x.intEnable.setWidth 32
  else if o = 0x204 then x.dbReject
  else if o = 0x208 then x.qSel.setWidth 32
  else if o = 0x20C then word (queueWord s p)
  else if o = 0x300 then x.frBase.setWidth 32
  else if o = 0x304 then (x.frBase >>> 32).setWidth 32
  else if o = 0x308 then x.frCtrl.setWidth 32
  else if o = 0x30C then x.frHead
  else if o = 0x310 then x.frTail
  else if o = 0x314 then x.frLost
  else if o = 0x400 then x.fsigId.setWidth 32
  else if o = 0x404 then word (b2n x.fsigErr)
  else if o = 0x408 then x.fsigLo
  else if o = 0x410 then x.fenceStale
  else if o = 0x414 then x.fsigReject
  else if o = 0x500 then x.tagSel.setWidth 32
  else if o = 0x504 then word ((selTag s p).map (fun t => t.seq) |>.getD 0)
  else if o = 0x508 then word ((selTag s p).map (fun t => t.qid + b2n t.fault * 2 ^ 8 + b2n t.valid * 2 ^ 9) |>.getD 0)
  else if o = 0x604 then x.tlbVa.setWidth 32
  else if o = 0x608 then (x.tlbVa >>> 32).setWidth 32
  else if o = 0x60C then word (b2n (s.host.tlbInv.any (fun t => decide (t.part = p))))
  else 0

/-! ### The tick window (Table 13.6) -/

/-- The code of an entry's state. -/
def entryCode : EntryState → Nat
  | .invalid => 0 | .pending => 1 | .running => 2 | .paused => 3 | .ended => 4 | .guttered => 5 | .demoted => 6

/-- The code of the tick state. -/
def tickCode : TickState → Nat
  | .stopped => 0 | .locked => 1 | .holdover => 2

/-- The tick registers. -/
def readTick (s : State) (o : Nat) : Word :=
  let t := s.tick
  let runs (n : Nat) : Nat := bitNum 32 (fun i => (t.runs[n + i]?).any (fun r => decide (r.state = .running)))
  if o = 0 then t.ctrl
  else if o = 4 then t.period.setWidth 32
  else if o = 8 then word (tickCode t.state + b2n t.commit.isSome * 4)
  else if o = 0xC then t.count
  else if o = 0x10 then word ((s.time - t.last) / us 1 % 2 ^ 20)
  else if o = 0x14 then t.early
  else if o = 0x18 then t.synth
  else if o = 0x1C then t.linkComp.setWidth 32
  else if o = 0x20 then t.gated.setWidth 32
  else if o = 0x28 then t.short.setWidth 32
  else if o = 0x2C then (t.short >>> 32).setWidth 32
  else if o = 0x30 then word (runs 0)
  else if o = 0x34 then word (runs 32)
  else if o = 0x38 then t.gutters
  else if 0x100 ≤ o ∧ o < 0x500 then (t.active[fin 64 ((o - 0x100) / 16)] >>> (8 * (o % 16))).setWidth 32
  else if 0x500 ≤ o ∧ o < 0x600 then
    let e : EntryId := fin 65 ((o - 0x500) / 4)
    word (min 0xFFFFF (elapsedOf s e / us 1) + entryCode (runOf s e).state * 2 ^ 20)
  else 0

/-! ### The safety window (Table 14.8) -/

/-- The memories of Table 01.15. -/
def sramNames : List MemName :=
  (List.finRange 6).flatMap (fun c => [.core c, .acc c, .wbuf c, .curve c, .dmem c, .bank c false, .bank c true])
    ++ [.staging, .llImem, .llDmem] ++ (List.finRange 8).map .bram ++ (List.finRange 4).map .replayBuf

/-- When a memory last finished a scrub pass: its initialisation at cold start, where time begins, counts as one. -/
def scrubbedAt (s : State) (m : MemName) : Nat := ((s.safety.scrubAt.find? (fun x => decide (x.1 = m))).map (fun x => x.2)).getD 0

/-- Milliseconds since the slowest memory finished a scrub pass. -/
def scrubAge (s : State) : Nat := ((sramNames.filter (memThere s)).map (fun m => elapsed16 s.time (scrubbedAt s m) 1000)).foldl max 0

/-- The safety registers. -/
def readSafety (s : State) (o : Nat) : Word :=
  let x := s.safety
  if o = 4 then word (b2n x.stopReq)
  else if o = 0 then word (b2n x.toggling + b2n s.bnd.ksafeA * 2 + b2n x.stopped * 4 + b2n x.exhausted * 8 + x.cause.toNat * 2 ^ 8)
  else if 0x10 ≤ o ∧ o < 0x28 then x.fcCount[fin 6 ((o - 0x10) / 4)]
  else if o = 0x30 then x.corr
  else if o = 0x34 then word (scrubAge s)
  else if o = 0x40 then x.dualMap.setWidth 32
  else if o = 0x44 then x.dualFail
  else if o = 0x48 then x.cwdg.setWidth 32
  else if o = 0x4C then x.clkSup.setWidth 32
  else if o = 0x50 then x.intStatus.setWidth 32
  else if o = 0x54 then x.intEnable.setWidth 32
  else if 0x100 ≤ o ∧ o < 0x160 then x.lampSig[fin 24 ((o - 0x100) / 4)]
  else if o = 0x180 then x.marginCfg
  else if o = 0x184 then word (s.bnd.vofsCode.toNat + x.bin.toNat * 2 ^ 4 + b2n x.exhausted * 2 ^ 7 + x.forcing.toNat * 2 ^ 8
    + min 0xFFFF ((nowUs s - x.lastRun) / 1000000) * 2 ^ 16)
  else if 0x200 ≤ o ∧ o < 0x2B0 then
    let m := x.slack[fin 44 ((o - 0x200) / 4)]
    word (m.now.toNat + m.low.toNat * 2 ^ 8 + m.ring.toNat * 2 ^ 16)
  else if 0x1000 ≤ o ∧ o < 0x1800 then (x.log[fin 64 ((o - 0x1000) / 32)] >>> (8 * (o % 32))).setWidth 32
  else if o = 0x1800 then x.logHead
  else 0

/-! ### The link window (Table 15.8) -/

/-- A port's registers. -/
def readPort (x : LinkPort) (o : Nat) : Word :=
  match o with
  | 0 => word (x.state.toNat + x.lanes.toNat * 2 ^ 2 + (match x.neighbour with
      | some (e, p) => e.toNat * 2 ^ 6 + p.toNat * 2 ^ 11 + 2 ^ 13
      | none => 0))
  | 4 => x.crc
  | 8 => x.replay
  | 0xC => x.retrain
  | 0x10 => x.trainedLanes.setWidth 32
  | 0x14 => x.flits
  | _ => 0

/-- Ports towards 16 engines, 0 where there is none. -/
def routeWord (k : Links) (n : Nat) : Nat :=
  ((List.range 16).map (fun i => (((k.routes[n + i]?).getD none).map (fun l => l.val)).getD 0 * 4 ^ i)).sum

/-- The link registers. -/
def readLinks (s : State) (o : Nat) : Word :=
  let k := s.links
  if o = 0 then word (k.sys.toNat + b2n k.primary * 4 + b2n k.joinFail * 8 + k.addr.toNat * 2 ^ 4 + popcount 32 k.members.toNat * 2 ^ 9
    + k.epoch.toNat * 2 ^ 16)
  else if o = 4 then word (k.topo.toNat + k.xm1.toNat * 4 + k.ym1.toNat * 2 ^ 5 + k.count.toNat * 2 ^ 8)
  else if o = 8 then k.config
  else if o = 0xC then k.members
  else if o = 0x10 then word (bitNum 32 (fun e => ((k.heardAt[e]?).getD none).any (fun t => decide (s.time ≤ t + us 400))))
  else if o = 0x14 then k.tickSys.setWidth 32
  else if o = 0x18 then word (routeWord k 0)
  else if o = 0x1C then word (routeWord k 16)
  else if o = 0x20 then k.enumResult
  else if 0x40 ≤ o ∧ o < 0x80 then k.groups[fin 16 ((o - 0x40) / 4)]
  else if 0x80 ≤ o ∧ o < 0x100 then (k.lat[fin 32 ((o - 0x80) / 4)]).setWidth 32
  else if 0x100 ≤ o ∧ o < 0x200 then readPort k.ports[fin 4 ((o - 0x100) / 0x40)] (o % 0x40)
  else 0

/-! ### The fabric window (Table 16.15) -/

/-- A region's registers. -/
def readRegion (z : Region) (o : Nat) : Word :=
  match o with
  | 0 => word (z.state.toNat + b2n z.powered * 2 ^ 3 + b2n z.cmdReady * 2 ^ 4 + z.lastCode.toNat * 2 ^ 8 + z.failFrame.toNat * 2 ^ 16)
  | 4 => z.extId.setWidth 32
  | 8 => z.clk
  | 0xC => z.loads
  | 0x10 => z.bramErr
  | _ => 0

/-- A timer's registers: control, microseconds remaining (0 while it does not count), owner. The lamp sub-timer counts from the last lamp-test point
while the tick needs it (R307). -/
def readTimer (s : State) (x : FbTimer) (o : Nat) : Word :=
  let t := if x.use = 3 then { x with enable := subTimerRuns s, since := s.tick.subAt } else x
  match o with
  | 0 => word (t.reload.toNat + b2n t.enable * 2 ^ 24)
  | 4 => word (if t.enable then t.reload.toNat - (s.time - t.since) / us 1 else 0)
  | 8 => word (t.use.toNat + t.region.val * 4 + t.part.val * 2 ^ 5 + b2n t.ll * 2 ^ 8)
  | _ => 0

/-- FB_CFG_STATUS. -/
def cfgStatus (f : Fabric) : Nat :=
  let l := f.load
  (l.map (fun x => x.path)).getD 0 + (l.map (fun x => x.region.val)).getD 0 * 4 + fifoSpace f * 2 ^ 5 + f.lastCode.toNat * 2 ^ 16
    + f.frames.toNat * 2 ^ 20

/-- The fabric registers. -/
def readFabric (s : State) (o : Nat) : Word :=
  let f := s.fabric
  if o = 0 then f.cfgRegion.setWidth 32
  else if o = 4 then f.cmd.setWidth 32
  else if o = 8 then word (cfgStatus f)
  else if o = 0x20 then word (f.scanRegion.toNat + b2n f.load.isSome * 8 + f.scanPasses.toNat * 2 ^ 16)
  else if 0x40 ≤ o ∧ o < 0x80 then (f.uclk[fin 16 ((o - 0x40) / 4)]).setWidth 32
  else if o = 0x80 then f.lock.setWidth 32
  else if o = 0x84 then f.uclkErr
  else if 0x1000 ≤ o ∧ o < 0x1800 then readRegion f.regions[fin 8 ((o - 0x1000) / 0x100)] (o % 0x100)
  else if 0x2000 ≤ o ∧ o < 0x2100 then (f.kio[fin 64 ((o - 0x2000) / 4)]).setWidth 32
  else if 0x2100 ≤ o ∧ o < 0x2200 then
    let p := f.pins[fin 64 ((o - 0x2100) / 4)]
    word (p.use.toNat + p.region.val * 4 + p.part.val * 2 ^ 5 + b2n p.secure * 2 ^ 8)
  else if o = 0x2200 then f.ioVolt.setWidth 32
  else if 0x3000 ≤ o ∧ o < 0x3040 then readTimer s f.timers[fin 4 ((o - 0x3000) / 16)] (o % 16)
  else 0

/-! ### Core windows -/

/-- The arrays of a started command. -/
def ordMask (m : Mx) (ord : Nat) : BitVec 4 := match mxCmd m ord with | some q => mxMask q.cfg | none => 0

/-- MX_STATUS (Table 03.14). -/
def mxStatus (k : Core) : Nat :=
  let m := k.mx
  let busy := bitNum 4 (fun i => let a : ArrId := fin 4 i; runOn m a || gridBusy m a)
  let full : BitVec 4 := match m.load with | some l => if 128 ≤ l.done then ordMask m l.ord else 0 | none => 0
  let ord := (m.run.map (fun r => r.ord)).orElse (fun _ => m.load.map (fun l => l.ord))
  let frozen := match ord.bind (mxCmd m) with | some q => q.freeze | none => false
  busy + full.toNat * 2 ^ 4 + bitNum 4 (fun a => (k.arrays[a]?).any (fun u => u.plane.isSome)) * 2 ^ 8
    + m.curSet.val * 2 ^ 12 + b2n frozen * 2 ^ 14 + b2n (!m.outq.isEmpty) * 2 ^ 15

/-- MX_ARR_STATE of an array: 0 absent, 1 in service, 2 retired. -/
def arrCode (g : Grade) (k : Core) (a : ArrId) : Nat :=
  if ¬ arrayPresent g a then 0 else if k.retired || (k.arrays[a]).retired then 2 else 1

/-- A sum over the four arrays, w bits each. -/
def perArray (w : Nat) (f : ArrId → Nat) : Nat := ((List.finRange 4).map (fun a : ArrId => f a * 2 ^ (w * a.val))).sum

/-- The MX registers above the sets. -/
def readMx (s : State) (c : CoreId) (o : Nat) : Word :=
  let k := s.cores[c]
  let m := k.mx
  let r := m.resume
  if o = 0x400 then word (mxStatus k)
  else if o = 0x404 then m.sat
  else if o = 0x408 then m.rows
  else if o = 0x40C then m.zeros
  else if o = 0x410 then word (perArray 2 (arrCode s.grade k))
  else if o = 0x414 then word (perArray 8 (fun a => if arrCode s.grade k a = 1 then cEff (k.arrays[a]).staged else 0))
  else if 0x420 ≤ o ∧ o < 0x460 then 
    let a : ArrId := fin 4 ((o - 0x420) / 16)
    if arrCode s.grade k a = 1 then ((k.arrays[a]).mapNow >>> (8 * (o % 16))).setWidth 32 else 0
  else if o = 0x480 then m.stallFeed
  else if o = 0x484 then m.stallDrain
  else if o = 0x488 then m.stallLoad
  else if o = 0x48C then m.frozen
  else if o = 0x490 then m.throttled
  else if o = 0x494 then m.swapWait
  else if o = 0x498 then m.stallMap
  else if o = 0x49C then m.replayCnt
  else if o = 0x4A0 then word (b2n r.valid + b2n r.replay * 2 + r.set.val * 4 + r.mask.toNat * 2 ^ 4 + r.mRes * 2 ^ 8)
  else if o = 0x4A4 then word (r.pos % 2 ^ 24)
  else if o = 0x4A8 then m.faultInfo
  else if o = 0x4AC then word (perArray 8 (fun a => bitNum 8 (fun n => decide (fld (k.arrays[a]).invalid (128 * n) 128 ≠ 0))))
  else if o = 0x4B0 then word (min 0xFFFF m.cursor.received + b2n (!m.cursor.seeking) * 2 ^ 16 + b2n m.cursor.seeking * 2 ^ 17
    + m.cursor.port.val * 2 ^ 18 + (let x := s.bnd.strm[m.cursor.port]; if portCore x = c then x.held.length * 2 ^ 24 else 0))
  else if o = 0x4B4 then m.stemSkip
  else if o = 0x4B8 then m.stemWait
  else if 0x4C0 ≤ o ∧ o < 0x4E0 then
    let a := k.allocs[fin 8 ((o - 0x4C0) / 4)]
    word (a.accBase.toNat + a.accCount.toNat * 2 ^ 4)
  else if o = 0x4E0 then m.passIdx.setWidth 32
  else 0

/-- The VX or WX registers above the sets (Table 07.9). -/
def readVec (v : Vec) (o : Nat) : Word :=
  match o with
  | 0x400 => word (b2n v.run.isSome + v.curSet.val * 2)
  | 0x404 => v.elems
  | 0x408 => word (b2n v.resume.valid + v.resume.set.val * 2 + v.resume.pos * 2 ^ 4)
  | 0x40C => word (v.faultCause.toNat + v.faultRow.toNat * 4)
  | _ => 0

/-- The FX registers above the sets (Table 16.14). -/
def readFx (f : Fx) (o : Nat) : Word :=
  match o with
  | 0x400 => word (b2n f.run.isSome + f.curSet.val * 2 + b2n (f.run.any (fun r => r.waitLoad)) * 8 + b2n (f.run.any (fun r => !r.waitLoad && !r.sent)) * 16)
  | 0x404 => word (b2n f.resumeValid + f.resumeSet.val * 2)
  | 0x408 => f.faultInfo.setWidth 32
  | 0x40C => f.inCount
  | 0x410 => f.outCount
  | 0x414 => f.spurious
  | _ => 0

/-- DX_CORE_STATUS (R220, Table 10.9). -/
def coreStatus (s : State) (c : CoreId) : Nat :=
  let k := s.cores[c]
  let w := k.ctl.wait
  let waiting := k.ctl.running && decide (w ≠ .none)
  let state := if ¬ corePresent s.grade c then 6 else if k.retired then 7 else match k.phase with
    | .reset _ => 5 | .halted _ => 4 | .halting _ _ _ => 3
    | .live => if waiting then 2 else b2n k.ctl.running
  let why := if ¬ waiting then 0 else match w with
    | .tok t _ => (if isHaloTok k t then 4 else 1) * 2 ^ 3 + t.val * 2 ^ 6
    | .space e _ => 2 * 2 ^ 3 + e.val * 2 ^ 12
    | .bank => 3 * 2 ^ 3
    | .none => 0
  state + why

/-- DX_QUEUE_e (Table 10.11). -/
def readQueue (k : Core) (e : EngId) : Nat :=
  let q := k.queues[e]
  let taken := match e.val with
    | 0 => k.mx.taken.isSome | 1 => k.vx.taken.isSome | 2 => k.wx.taken.isSome
    | 3 => k.dx.chans.toList.any (fun x => x.waiting.isSome) | _ => k.fx.taken.isSome
  q.slots.length + (readySlots q).length * 2 ^ 7 + b2n (queueOpen q) * 2 ^ 14 + b2n taken * 2 ^ 15 + q.overrun.toNat * 2 ^ 16

/-- The DX registers above the sets: data mover, control core, queues, halts, tokens (Tables 08.6, 10.9). -/
def readDx (s : State) (c : CoreId) (o : Nat) : Word :=
  let k := s.cores[c]
  let d := k.dx
  let chans : List ChanId := List.finRange 4
  if o = 0x4400 then
    word ((chans.map (fun n : ChanId => b2n (d.chans[n]).run.isSome * 2 ^ n.val + b2n (d.chans[n]).waiting.isSome * 2 ^ (4 + n.val)
      + (((d.chans[n]).run.map (fun r => r.cmd.set.val)).getD 0) * 2 ^ (8 + 2 * n.val))).sum)
  else if 0x4410 ≤ o ∧ o < 0x4420 then (d.chans[fin 4 ((o - 0x4410) / 4)]).pos
  else if 0x4420 ≤ o ∧ o < 0x4440 then
    let r := (d.chans[fin 4 ((o - 0x4420) / 8)]).resume
    if o % 8 = 0 then word (b2n r.valid + r.set.val * 2 + b2n r.credHeld * 8) else word r.run
  else if o = 0x4440 then d.fault
  else if o = 0x4444 then d.bytesExt
  else if o = 0x4448 then d.xfers
  else if o = 0x444C then d.credWait
  else if o = 0x4500 then k.halt.addr.setWidth 32
  else if o = 0x4504 then k.halt.info
  else if o = 0x4508 then k.halt.detail
  else if o = 0x450C then k.halt.second
  else if o = 0x4510 then k.halt.time
  else if o = 0x4520 then k.ctrlReq.setWidth 32
  else if o = 0x4524 then word (coreStatus s c)
  else if o = 0x4528 then word ((k.stall.map (fun x => x.2)).foldl max 0)
  else if o = 0x452C then word (b2n k.ctl.active + b2n k.ctl.ready * 2 + b2n (decide (k.ctl.wait = .bank)) * 4 + k.ctl.actWr.toNat * 2 ^ 16)
  else if 0x4540 ≤ o ∧ o < 0x4560 then
    let a := k.allocs[fin 8 ((o - 0x4540) / 4)]
    word (a.tokBase.toNat + a.tokCount.toNat * 2 ^ 6)
  else if 0x4560 ≤ o ∧ o < 0x4580 then
    let a := k.allocs[fin 8 ((o - 0x4560) / 4)]
    word (a.setBase.toNat + a.setCount.toNat * 4)
  else if 0x4580 ≤ o ∧ o < 0x45A8 then
    let e : EngId := fin 5 ((o - 0x4580) / 8)
    if o % 8 = 0 then word (readQueue k e) else word ((k.queues[e]).rewinds.toNat + (k.queues[e]).ignored.toNat * 2 ^ 16)
  else if 0x4600 ≤ o ∧ o < 0x4700 then (k.toks[fin 64 ((o - 0x4600) / 4)]).setWidth 32
  else 0

/-- The halo registers (Table 09.3). -/
def readHalo (h : Halo) (o : Nat) : Word :=
  if 0x4800 ≤ o ∧ o < 0x4840 then
    let b := h.bufs[fin 4 ((o - 0x4800) / 16)]
    match o % 16 with
    | 0 => b.ctrl
    | 4 => b.win
    | 8 => word (b.seqStart.toNat + b.nextSeq.toNat * 2 ^ 16)
    | _ => word (b.held.toNat + b2n b.part * 2 ^ 8 + b2n b.err * 2 ^ 9)
  else if o = 0x4840 then h.tmo.setWidth 32
  else if o = 0x4844 then h.drop
  else if o = 0x4848 then h.last.setWidth 32
  else if o = 0x4850 then h.credNext.setWidth 32
  else if o = 0x4854 then h.credPrev.setWidth 32
  else if 0x4880 ≤ o ∧ o < 0x4900 then (h.credEng[fin 32 ((o - 0x4880) / 4)]).setWidth 32
  else 0

/-- The range-monitor view: VX_RM_LO_e and VX_RM_HI_e (R155). -/
def readRange (k : Core) (o : Nat) : Word :=
  let e := k.rm[fin 512 (o / 8)]
  if o % 8 = 0 then e.1 else e.2

/-- The registers of a core window. -/
def readCore (s : State) (c : CoreId) (o : Nat) : Word :=
  let k := s.cores[c]
  match setAt o with
  | some (e, n, i) => readSetReg e i (setsOf k e)[n]
  | none =>
    if o < 0x1000 then readMx s c o
    else if 0x1500 ≤ o ∧ o < 0x1540 then k.sc[fin 16 ((o - 0x1500) / 4)]
    else if o < 0x2000 then readVec k.vx (o - 0x1000)
    else if o < 0x3000 then readVec k.wx (o - 0x2000)
    else if o < 0x4000 then readRange k (o - 0x3000)
    else if o < 0x4800 then readDx s c o
    else if o < 0x5000 then readHalo k.halo o
    else if o < 0x6000 then readFx k.fx (o - 0x5000)
    else 0

/-! ### The window -/

/-- What a permitted read of the register at an aligned offset gives; zero where no register lies (R12), for a write-only register
(Table 00.2), and from a unit that does not answer. -/
def regValue (s : State) (off : Nat) : Word :=
  if ¬ answers s off then 0
  else if off < 0x8000 then readLow s off
  else if off < 0x10000 then readHigh s off
  else if off < 0x90000 then readPage s (fin 8 ((off - 0x10000) / 0x10000)) ((off - 0x10000) % 0x10000)
  else if off < 0xA0000 then readTick s (off - 0x90000)
  else if off < 0xB0000 then readSafety s (off - 0xA0000)
  else if off < 0xC0000 then readLinks s (off - 0xB0000)
  else if off < 0x100000 then readFabric s (off - 0xC0000)
  else if off < 0x700000 then readCore s (fin 6 ((off - 0x100000) / 0x100000)) (off % 0x100000)
  else if 0x1000000 ≤ off ∧ s.boot.state = 1 then word (memNat s.staging (off - 0x1000000) 4)
  else 0

/-! ### Reads of any width (R11 to R13)

The table has rows for the reads that clear, and none for another read (log 68): readWindow is what a read access does. -/

/-- The read side effect in a core window: a read that clears. -/
def clearCore (o : Nat) (k : Core) : Core :=
  let mx (f : Mx → Mx) : Core := { k with mx := f k.mx }
  if o = 0x404 then mx (fun m => { m with sat := 0 })
  else if o = 0x408 then mx (fun m => { m with rows := 0 })
  else if o = 0x40C then mx (fun m => { m with zeros := 0 })
  else if o = 0x480 then mx (fun m => { m with stallFeed := 0 })
  else if o = 0x484 then mx (fun m => { m with stallDrain := 0 })
  else if o = 0x488 then mx (fun m => { m with stallLoad := 0 })
  else if o = 0x48C then mx (fun m => { m with frozen := 0 })
  else if o = 0x490 then mx (fun m => { m with throttled := 0 })
  else if o = 0x494 then mx (fun m => { m with swapWait := 0 })
  else if o = 0x498 then mx (fun m => { m with stallMap := 0 })
  else if o = 0x49C then mx (fun m => { m with replayCnt := 0 })
  else if o = 0x4B4 then mx (fun m => { m with stemSkip := 0 })
  else if o = 0x4B8 then mx (fun m => { m with stemWait := 0 })
  else if o = 0x1404 then { k with vx := { k.vx with elems := 0 } }
  else if o = 0x2404 then { k with wx := { k.wx with elems := 0 } }
  else if o = 0x4444 then { k with dx := { k.dx with bytesExt := 0 } }
  else if o = 0x4448 then { k with dx := { k.dx with xfers := 0 } }
  else if o = 0x444C then { k with dx := { k.dx with credWait := 0 } }
  else if 0x4580 ≤ o ∧ o < 0x45A8 ∧ o % 8 = 4 then
    { k with queues := updAt k.queues (fin 5 ((o - 0x4580) / 8)) (fun q => { q with ignored := 0, rewinds := 0 }) }
  else if o = 0x4844 then { k with halo := { k.halo with drop := 0 } }
  else if o = 0x5414 then { k with fx := { k.fx with spurious := 0 } }
  else k

/-- The read side effect in a partition page. -/
def clearPage (o : Nat) (x : Partition) : Partition :=
  match o with
  | 0x204 => { x with dbReject := 0 }
  | 0x314 => { x with frLost := 0 }
  | 0x410 => { x with fenceStale := 0 }
  | 0x414 => { x with fsigReject := 0 }
  | _ => x

/-- The read side effect in the tick window. -/
def clearTick (o : Nat) (t : Tick) : Tick :=
  match o with
  | 0x14 => { t with early := 0 }
  | 0x18 => { t with synth := 0 }
  | 0x38 => { t with gutters := 0 }
  | _ => t

/-- The read side effect in the safety window. -/
def clearSafety (o : Nat) (x : Safety) : Safety :=
  if 0x10 ≤ o ∧ o < 0x28 then { x with fcCount := updAt x.fcCount (fin 6 ((o - 0x10) / 4)) (fun _ => 0) }
  else if o = 0x30 then { x with corr := 0 }
  else if o = 0x44 then { x with dualFail := 0 }
  else x

/-- The read side effect in a port's registers. -/
def clearPort (o : Nat) (x : LinkPort) : LinkPort :=
  match o with
  | 4 => { x with crc := 0 }
  | 8 => { x with replay := 0 }
  | 0xC => { x with retrain := 0 }
  | 0x14 => { x with flits := 0 }
  | _ => x

/-- The read side effect in the fabric window. -/
def clearFabric (o : Nat) (s : State) : State :=
  if o = 0x84 then modFabric (fun f => { f with uclkErr := 0 }) s
  else if 0x1000 ≤ o ∧ o < 0x1800 then modRegion (fin 8 ((o - 0x1000) / 0x100)) (fun z =>
    if o % 0x100 = 0xC then { z with loads := 0 } else if o % 0x100 = 0x10 then { z with bramErr := 0 } else z) s
  else s

/-- The read side effect of the register at an aligned offset: an RC register is cleared (Table 00.2). -/
def readClears (off : Nat) (s : State) : State :=
  if 0x200 ≤ off ∧ off < 0x300 then (if off % 0x40 = 0xC then modPort (fin 4 ((off - 0x200) / 0x40)) (fun x => { x with drop := 0 }) s else s)
  else if 0x440 ≤ off ∧ off < 0x460 then { s with sg := { s.sg with bytes := updAt s.sg.bytes (fin 8 ((off - 0x440) / 4)) (fun _ => 0) } }
  else if off < 0x10000 then s
  else if off < 0x90000 then modPart (fin 8 ((off - 0x10000) / 0x10000)) (clearPage ((off - 0x10000) % 0x10000)) s
  else if off < 0xA0000 then { s with tick := clearTick (off - 0x90000) s.tick }
  else if off < 0xB0000 then { s with safety := clearSafety (off - 0xA0000) s.safety }
  else if off < 0xB0100 then s
  else if off < 0xB0200 then modLink (fin 4 ((off - 0xB0100) / 0x40)) (clearPort ((off - 0xB0100) % 0x40)) s
  else if off < 0xC0000 then s
  else if off < 0x100000 then clearFabric (off - 0xC0000) s
  else if off < 0x700000 then modCore (fin 6 ((off - 0x100000) / 0x100000)) (clearCore (off % 0x100000)) s
  else s

/-- A read of the register at an aligned offset: the world check, the value, the side effect. -/
def read32 (acc : Access) (off : Nat) (s : State) : State :=
  access acc off false (fun s => readClears off { s with busData := (regValue s off).setWidth 64 }) s

/-- n bytes of what a read of the containing register gives, from the addressed one on. -/
def narrowRead (acc : Access) (off n : Nat) (s : State) : State :=
  let t := read32 acc (off / 4 * 4) s
  { t with busData := (t.busData >>> (8 * (off % 4))) &&& BitVec.ofNat 64 (2 ^ (8 * n) - 1) }

/-- A read access (R11): the world check first; a narrow read gives the addressed bytes and has the register's side effect; a 64-bit read is
two, the lower address first; a misaligned one reads as an unmapped offset. -/
def readWindow (acc : Access) (off : Nat) (size : AccSize) (s : State) : State :=
  if ¬ acc.secure ∧ secureAt s off false then refuseAccess acc off s
  else match size with
    | .b8 => narrowRead acc off 1 s
    | .b16 => if off % 2 = 0 then narrowRead acc off 2 s else { s with busData := 0 }
    | .b32 => if off % 4 = 0 then read32 acc off s else { s with busData := 0 }
    | .b64 =>
      if off % 8 = 0 then
        let t := read32 acc off s
        let u := read32 acc (off + 4) t
        { u with busData := t.busData ||| (u.busData <<< 32) }
      else { s with busData := 0 }

end Sys2Proof.Machine
end

