-- ==== Sys2Proof/Safety.lean ====
section
/-! DEFINITION. Safety.lean: what claims about runs speak of: the memories in canonical form, the KSAFE pins, which accesses of
the window pass the checks of R12 and R13, the window that each command uses, and what a record leaves alone. -/
namespace Sys2Proof.Machine
open Sys2Proof

/-! ### Invariants -/

/-- The memories of a core are in canonical form. -/
abbrev CoreMem.wf (m : CoreMem) : Prop :=
  Memory.wf m.core ∧ Memory.wf m.acc ∧ Memory.wf m.wbuf ∧ Memory.wf m.curve ∧ Memory.wf m.dmem ∧ Memory.wf m.bank0 ∧
    Memory.wf m.bank1

/-- Every memory of the engine is in canonical form. -/
abbrev State.memWf (s : State) : Prop :=
  (∀ c : CoreId, (s.cores[c]).mem.wf) ∧ Memory.wf s.dram ∧ Memory.wf s.staging ∧ Memory.wf s.boot.llImem ∧
    Memory.wf s.boot.llDmem ∧ ∀ z : RegionId, Memory.wf (s.fabric.regions[z]).bram ∧ Memory.wf (s.fabric.regions[z]).config

/-- While the KSAFE stop stands, both pins are low (R318). -/
abbrev State.safeLow (s : State) : Prop := s.safety.stopped = true → s.bnd.ksafeA = false ∧ s.bnd.ksafeB = false

/-- The pins are never high together: while they toggle they are complementary, and otherwise they are low (R28, R318). -/
abbrev State.pinsSafe (s : State) : Prop := s.safeLow ∧ ¬ (s.bnd.ksafeA = true ∧ s.bnd.ksafeB = true)

/-! ### Accesses of the window -/

/-- An access passes the world check of R13 and its unit answers (R12). -/
abbrev Passes (acc : Access) (s : State) (off : Nat) (write : Bool) : Prop :=
  (acc.secure = true ∨ secureAt s off write = false) ∧ answers s off = true

/-- A core whose window an access may use, but for the registers that every world but the secure one is refused (R12, R13). -/
abbrev CoreOpen (acc : Access) (c : CoreId) (s : State) : Prop :=
  corePresent s.grade c = true ∧ scrubbing s 0 c.val = false ∧ (acc.secure = true ∨ (s.cores[c]).secure = false)

/-- The window access by which a command comes: its master, its offset, and whether it is a write. -/
def windowOf : Instr → Option (Access × Nat × Bool)
  | .registerWrite acc off _ _ => some (acc, off.toNat, true)
  | .configSetWrite acc off _ => some (acc, off.toNat, true)
  | .gintStatusClear acc _ => some (acc, 0x104, true)
  | .ptIntStatusClear acc p _ => some (acc, pageOff p 0x100, true)
  | .smIntStatusClear acc _ => some (acc, 0xE100, true)
  | .sfIntStatusClear acc _ => some (acc, 0xA0050, true)
  | .streamCtrlWrite acc n _ => some (acc, 0x200 + 0x40 * n.val, true)
  | .streamRingWrite acc n _ => some (acc, 0x204 + 0x40 * n.val, true)
  | .streamDropRead acc n => some (acc, 0x20C + 0x40 * n.val, false)
  | .mpqLockSet acc _ => some (acc, 0x430, true)
  | .mpBytesRead acc p => some (acc, 0x440 + 4 * p.val, false)
  | .satCountRead acc c => some (acc, coreOff c 0x404, false)
  | .rowsIssuedRead acc c => some (acc, coreOff c 0x408, false)
  | .zeroCellsRead acc c => some (acc, coreOff c 0x40C, false)
  | .stallFeedRead acc c => some (acc, coreOff c 0x480, false)
  | .stallDrainRead acc c => some (acc, coreOff c 0x484, false)
  | .stallLoadRead acc c => some (acc, coreOff c 0x488, false)
  | .frozenRead acc c => some (acc, coreOff c 0x48C, false)
  | .throttledRead acc c => some (acc, coreOff c 0x490, false)
  | .swapWaitRead acc c => some (acc, coreOff c 0x494, false)
  | .stallMapRead acc c => some (acc, coreOff c 0x498, false)
  | .replaysRead acc c => some (acc, coreOff c 0x49C, false)
  | .stemSkipRead acc c => some (acc, coreOff c 0x4B4, false)
  | .stemWaitRead acc c => some (acc, coreOff c 0x4B8, false)
  | .vxElemsRead acc c => some (acc, coreOff c 0x1404, false)
  | .wxElemsRead acc c => some (acc, coreOff c 0x2404, false)
  | .bytesExtRead acc c => some (acc, coreOff c 0x4444, false)
  | .xfersRead acc c => some (acc, coreOff c 0x4448, false)
  | .creditWaitRead acc c => some (acc, coreOff c 0x444C, false)
  | .haloDropRead acc c => some (acc, coreOff c 0x4844, false)
  | .queueCntRead acc c e => some (acc, coreOff c (0x4584 + 8 * e.val), false)
  | .fxSpuriousRead acc c => some (acc, coreOff c 0x5414, false)
  | .hbCtrlWrite acc c k _ => some (acc, coreOff c (0x4800 + 0x10 * k.val), true)
  | .coreRestart acc c => some (acc, coreOff c 0x4520, true)
  | .coreReset acc c => some (acc, coreOff c 0x4520, true)
  | .haltReq acc c => some (acc, coreOff c 0x4520, true)
  | .mbSend acc m _ => some (acc, mbOff m 0x40, true)
  | .mbAck acc m => some (acc, mbOff m 0x48, true)
  | .doorbell acc p _ => some (acc, pageOff p 0x200, true)
  | .dbRejectRead acc p => some (acc, pageOff p 0x204, false)
  | .faultRingEnable acc p _ => some (acc, pageOff p 0x308, true)
  | .faultRingTailWrite acc p _ => some (acc, pageOff p 0x310, true)
  | .frLostRead acc p => some (acc, pageOff p 0x314, false)
  | .fencePortSignal acc p _ => some (acc, pageOff p 0x40C, true)
  | .fenceStaleRead acc p => some (acc, pageOff p 0x410, false)
  | .fsigRejectRead acc p => some (acc, pageOff p 0x414, false)
  | .tlbInvalidate acc p _ => some (acc, pageOff p 0x600, true)
  | .earlyRead acc => some (acc, 0x90014, false)
  | .synthRead acc => some (acc, 0x90018, false)
  | .guttersRead acc => some (acc, 0x90038, false)
  | .sfKsafeStopWrite acc _ => some (acc, 0xA0004, true)
  | .sfDualMapWrite acc _ => some (acc, 0xA0040, true)
  | .fcCountRead acc k => some (acc, 0xA0010 + 4 * k.val, false)
  | .corrCountRead acc => some (acc, 0xA0030, false)
  | .dualFailRead acc => some (acc, 0xA0044, false)
  | .crcRead acc l => some (acc, linkOff l 0x4, false)
  | .replayRead acc l => some (acc, linkOff l 0x8, false)
  | .retrainRead acc l => some (acc, linkOff l 0xC, false)
  | .flitsRead acc l => some (acc, linkOff l 0x14, false)
  | .cfgStart acc _ => some (acc, 0xC0004, true)
  | .cfgAbort acc _ => some (acc, 0xC0004, true)
  | .cfgDataPush acc _ => some (acc, 0xC0014, true)
  | .uclkWrite acc n _ => some (acc, 0xC0040 + 4 * n.val, true)
  | .uclkErrRead acc => some (acc, 0xC0084, false)
  | .kioWrite acc n _ => some (acc, 0xC2000 + 4 * n.val, true)
  | .timerCtrlWrite acc k _ => some (acc, 0xC3000 + 16 * k.val, true)
  | .loadsRead acc z => some (acc, regionOff z 0xC, false)
  | .bramErrRead acc z => some (acc, regionOff z 0x10, false)
  | .bootRelease acc _ => some (acc, 0x8004, true)
  | .llResetCold acc _ => some (acc, 0x8020, true)
  | .llResetWarm acc _ => some (acc, 0x8020, true)
  | .llPartResetWrite acc _ => some (acc, 0x8024, true)
  | .llRegionResetWrite acc _ => some (acc, 0x8028, true)
  | .llWorldReq acc _ => some (acc, 0x8040, true)
  | .bootApertureWrite acc off _ => some (acc, 0x1000000 + off.toNat, true)
  | _ => none

/-- A command that reads a register and clears it (RC, Table 00.2): the read gives the value before the clear, and nothing else
changes. -/
abbrev ReadClears (i : Instr) (acc : Access) (off : Nat) (get : State → Word) (clear : State → State) : Prop :=
  ∀ s : State, Passes acc s off false → exec i s = .next (clear { s with busData := (get s).zeroExtend 64 })

/-- As ReadClears, for a register of a core's window. -/
abbrev CoreReadClears (i : Instr) (acc : Access) (c : CoreId) (off : Nat) (get : Core → Word) (clear : Core → Core) : Prop :=
  ReadClears i acc (coreOff c off) (fun s => get s.cores[c]) (modCore c clear)

/-! ### Records -/

/-- A record of this code stands in the log at the entry that its number names (R312, R333). -/
abbrev Posted (s t : State) (code : Nat) : Prop :=
  t.safety.seq = s.safety.seq + 1 ∧ t.safety.logHead = s.safety.logHead + 1 ∧
    fld (t.safety.log[fin 64 s.safety.seq.toNat]) 8 8 = code

/-- LINK_PORT is posted and then routes are recomputed, for some engines with runs that name the port anew (R340, R356, R357). -/
abbrev PortPosted (s t : State) : Prop := ∃ (also : Nat → Bool) (v : State), Posted s v 0x20 ∧ t = rerouteFor also v

/-- Whether any fault ring takes records: none does where every partition's ring is off (R292). -/
abbrev RingsOff (s : State) : Prop := ∀ p : PartId, bitAt (s.host.parts[p]).frCtrl 0 = false

/-! ### Mailboxes -/

/-- Mailbox m holds the request that the Lamplighter takes next, the only one sent (R265 to R269): its bytes b ask for opcode op, with the op byte
sub where the opcode has operations, for partition p, and pass every check of R267. u is the state once it is taken. -/
abbrev Requested (op : Nat) (sub : Option Nat) (m : MboxId) (p : PartId) (b : List Byte) (s u : State) : Prop :=
  llServes s = true ∧ s.host.sent = [m] ∧ b = reqBytes (mbOf s m).req ∧ p = reqPart m b ∧ frameNum b 0 2 = op ∧
    (sub = none ∨ sub = some (frameNum b 8 1)) ∧ frameStatus s m b = none ∧ u = { s with host := { s.host with sent := [] } }

/-! ### Ticks -/

/-- A tick that finds nothing to gutter, no committed table and no configuration that waits for it (R297, R299, R302). -/
abbrev QuietTick (s : State) : Prop :=
  (∀ e : EntryId, (runOf s e).state ≠ .pending ∧ (runOf s e).state ≠ .paused ∧ (runOf s e).state ≠ .running) ∧
    s.tick.commit = none ∧ s.tick.pendCfg = none

/-! ### Messages of the links -/

/-- The first message of a class and type that waits at a port is f, and u is the state once it has left its receive buffer, whose credit
returns with the next control flit (R336). -/
abbrev Waiting (l : LinkId) (cls : Fin 4) (type : Nat) (f : Flit) (s u : State) : Prop :=
  s.links.rx.find? (fun x => decide (x.1 = l) && decide (x.2.cls = cls) && decide (fld x.2.info 0 8 = type)) = some (l, f) ∧
    u = dropRx [(l, f)] s

/-! ### Cycles -/

/-- n array-clock cycles of core c; their time passes. -/
def cyclesOf (c : CoreId) (n : Nat) (s : State) : State := Nat.repeat (runCycle c) n s

/-- Core c first meets a condition after n of its cycles, soon enough for an event command to wait for it (log 13). -/
abbrev MeetsAfter (c : CoreId) (cond : State → Bool) (n : Nat) (s : State) : Prop :=
  n ≤ eventFuel ∧ (∀ m, m < n → cond (cyclesOf c m s) = false) ∧ cond (cyclesOf c n s) = true

end Sys2Proof.Machine
end

