-- ==== Sys2Proof/WellFormed.lean ====
section
/-! DEFINITION. WellFormed.lean: which commands are well formed: operands that the boundary can carry. A window offset is
aligned to its access (R11), a line carries 1 to 16,368 bytes (R23), a flit is 256 bytes (R334), a finding names a cause
that its table lists (R102, R166, Table 08.6). -/
namespace Sys2Proof

/-- The bytes of an access size. -/
def AccSize.bytes : AccSize → Nat
  | .b8 => 1 | .b16 => 2 | .b32 => 4 | .b64 => 8

/-- Whether a command is well formed. -/
def Instr.wf : Instr → Bool
  | .registerWrite _ off size _ => decide (off.toNat % size.bytes = 0)
  | .configSetWrite _ off _ => decide (off.toNat % 4 = 0)
  | .streamLineArrival _ _ line => decide (1 ≤ line.payload.length) && decide (line.payload.length ≤ 16368)
  | .arrayFault _ f => decide (1 ≤ f.cause.toNat) && decide (f.cause.toNat ≤ 4) && decide (f.arrays ≠ 0)
  | .engineFault _ (.vec e cause _) => decide (cause ≠ 0) && !(decide (e = .wx) && decide (cause = 2))
  | .dxFault _ _ finding => decide (1 ≤ finding.cause.toNat) && decide (finding.cause.toNat ≤ 5)
  | .ctlWait _ (.space _ k) => decide (1 ≤ k) && decide (k ≤ 64)
  | .ctlLockstepMismatch _ comparator => decide (1 ≤ comparator.toNat) && decide (comparator.toNat ≤ 5)
  | .imemWrite _ _ off data => decide (off + data.length ≤ 0x20000)
  | .dataFlitReceive _ flit => decide (flit.length = 256)
  | .controlFlitReceive _ flit => decide (flit.length = 256)
  | .bramUncorr _ _ off => decide (off < 0x4000)
  | _ => true

end Sys2Proof
end

