-- ==== Sys2Proof/Certificates/Slice0/Obligations.lean ====
section
/-! DEFINITION. Certificates/Slice0/Obligations.lean: the statements about the model, family by family. Most conclude that a command answers a next
state and give that state whole, as an update of the state before, so that each is result, completion and frame in one. -/
open Sys2Proof Sys2Proof.Machine

/-! ### The machine as a whole -/

/-- A step takes the command at the front of the queue and runs it on the state with the rest of the queue. -/
def Obligations.StepTakesFrontCommand : Prop :=
  ∀ (s : State) (i : Instr) (rest : List Instr), s.pending = i :: rest → step s = exec i { s with pending := rest }

/-- On an empty queue one array-clock cycle passes (the model's choice, log 1): the queue stays empty and staging, boot and tick stay as they are.
With no uncorrectable word in memory, which an engine could meet (R320), the clock advances by the period of the present bin (R33) and host, external
memory and the safety registers stay as they are; so does the fabric while no region is configured, and a port outside a system sends a control flit
exactly where it is trained and not being scrubbed, since no data flit may be sent (R336). -/
def Obligations.IdleStepPassesOneCycle : Prop :=
  ∀ s : State, s.pending = [] → ∃ t : State, step s = .next t ∧ t.pending = [] ∧ t.staging = s.staging ∧ t.boot = s.boot ∧ t.tick = s.tick ∧
    (s.safety.poison = [] → t.time = s.time + binPeriod s.safety.bin ∧ t.host = s.host ∧ t.dram = s.dram ∧ t.safety = s.safety ∧
      ((∀ z : RegionId, (s.fabric.regions[z]).state ≠ 2) → t.fabric = s.fabric) ∧
      (s.links.sys ≠ 2 → ∀ l : LinkId, t.links.ports[l] = if receives s l then { (s.links.ports[l]) with
          control := some (controlOf none s.links.ports[l]), nak := false, freed := Vector.replicate 4 0
          hbWait := (s.links.ports[l]).hbWait.drop 28, haloOut := [] }
        else s.links.ports[l]))

/-- No command of the engine ends in a fault or a refusal: what the manual calls a fault is a record, a halt or a status, which are next states. A
command whose event cannot happen is a step that changes nothing (the model's choice, log 2). -/
def Obligations.EveryStepAnswersNext : Prop := ∀ s : State, ∃ t : State, step s = .next t

/-- The reset values that the register tables give, in State.reset: R390, Tables 01.9, 08.7, 13.6, 14.8, 16.15, R125, R155, R263, R336. The rest of
State.reset is the model's choice (log 4). -/
def Obligations.ResetHoldsSpecValues : Prop :=
  State.reset.pending = [] ∧ State.reset.boot.state = 0 ∧ State.reset.bnd.warnC = 0x69 ∧
  regValue State.reset 0x500 = 0x28 ∧ regValue State.reset 0x504 = 0x28 ∧ regValue State.reset 0x508 = 0 ∧
  regValue State.reset 0x90000 = 0x103 ∧ regValue State.reset 0x90004 = 40000 ∧
  regValue State.reset 0xA0040 = 0x2521A ∧ regValue State.reset 0xA0180 = 0x0E100514 ∧
  regValue State.reset 0xC0040 = 0xC8 ∧ regValue State.reset 0x1004B0 = 0x00020000 ∧
  regValue State.reset 0x103000 = 0x7FFFFFFF ∧ regValue State.reset 0x103004 = 0x80000000 ∧
  (∀ l : LinkId, ∀ k : Fin 4, (State.reset.links.ports[l]).credits[k] = 64) ∧
  (∀ p : PartId, (State.reset.host.parts[p]).enabled = decide (p.val = 0))

/-- The invariants hold at reset. -/
def Obligations.InvariantsHoldAtReset : Prop := State.reset.memWf ∧ State.reset.pinsSafe

/-- Every step keeps every memory of the engine in its canonical form. -/
def Obligations.StepKeepsMemoriesCanonical : Prop := ∀ s t : State, s.memWf → step s = .next t → t.memWf

/-- Every step keeps the KSAFE pins safe (R28, R318): low while the stop stands, and never high together. -/
def Obligations.StepKeepsPinsSafe : Prop := ∀ s t : State, s.pinsSafe → step s = .next t → t.pinsSafe

/-! ### The register window and the boundary (chapters 00 and 01) -/

/-- Every command of the window that the world check of R13 refuses has no effect on its register: it reads zero, and a security fault is recorded. A
unit that does not answer (fused off under R1, or under a scrub of R407) reads zero and ignores writes; no record is made (R12). REGISTER_WRITE has
its own statement. -/
def Obligations.WindowAccessChecks : Prop :=
  (∀ (i : Instr) (acc : Access) (off : Nat) (w : Bool) (s : State), windowOf i = some (acc, off, w) → acc.secure = false →
    secureAt s off w = true → ∃ t : State, exec i s = .next t ∧ Posted s t 0x0A ∧ t.busData = 0 ∧
      t.host.smIntStatus = s.host.smIntStatus ||| 2 ∧
      t = { s with busData := 0, dram := t.dram, host := t.host, safety := t.safety, walkErr := t.walkErr, freeCtr := t.freeCtr } ∧
      (RingsOff s → t.dram = s.dram)) ∧
  (∀ (i : Instr) (acc : Access) (off : Nat) (w : Bool) (s : State), windowOf i = some (acc, off, w) →
    (∀ a o z v, i ≠ .registerWrite a o z v) → (acc.secure = true ∨ secureAt s off w = false) → answers s off = false →
    exec i s = .next (if w then s else { s with busData := 0 }))

/-- A write of 32 bits at an aligned offset writes the register there; one of 64 bits at an offset of 8 is two of 32 bits, the lower address first; a
narrower write and a misaligned one are ignored (R11). Registers that simply take a write: interrupt enables, staging classes and caps, the queue and
tag selectors of a page, descriptors, the halo timeout (Tables 01.2, 08.7, 09.3, 12.12, 14.8, 17.7); the thermal threshold takes it too, and the
warning follows from the new threshold at once (R26). A write of a cause register clears each cause written as 1 and leaves the others (W1C, Table
00.2; R18, R294, R414, R415). That a write of 64 bits is checked once for its world is log 69. -/
def Obligations.RegistersTakeWrites : Prop :=
  (∀ (acc : Access) (off : BitVec 25) (val : Dword) (s : State), (acc.secure = true ∨ secureAt s off.toNat true = false) →
    (off.toNat % 4 = 0 → answers s off.toNat = true →
      exec (.registerWrite acc off .b32 val) s = .next (writeReg acc.secure off.toNat (val.setWidth 32) s)) ∧
    (off.toNat % 8 = 0 → ∀ u : State, exec (.registerWrite acc off .b32 val) s = .next u →
      exec (.registerWrite acc off .b64 val) s
        = exec (.registerWrite acc (off + 4) .b32 (val >>> 32)) u) ∧
    (off.toNat % 4 ≠ 0 → exec (.registerWrite acc off .b32 val) s = .next s) ∧
    (off.toNat % 8 ≠ 0 → exec (.registerWrite acc off .b64 val) s = .next s) ∧
    exec (.registerWrite acc off .b16 val) s = .next s ∧ exec (.registerWrite acc off .b8 val) s = .next s) ∧
  (∀ (acc : Access) (val : Dword) (s : State) (p : PartId) (c : CoreId) (k : Fin 16) (n : Fin 4),
    exec (.registerWrite acc 0x108 .b32 val) s = .next { s with bnd := { s.bnd with gintEnable := val.setWidth 12 } } ∧
    exec (.registerWrite acc 0x304 .b32 val) s = .next { s with bnd := { s.bnd with
      warnC := val.setWidth 8, warn := decide ((val.setWidth 8).toInt ≤ s.bnd.tempC.toInt)
      gintStatus := if (val.setWidth 8).toInt ≤ s.bnd.tempC.toInt ∧ s.bnd.warn = false then s.bnd.gintStatus ||| 0x100
        else s.bnd.gintStatus } } ∧
    (acc.secure = true →
      exec (.registerWrite acc 0xE104 .b32 val) s = .next { s with host := { s.host with smIntEnable := val.setWidth 2 } } ∧
      exec (.registerWrite acc 0xA0054 .b32 val) s = .next { s with safety := { s.safety with intEnable := val.setWidth 5 } } ∧
      exec (.registerWrite acc (BitVec.ofNat 25 (0x8100 + 16 * k.val)) .b32 val) s = .next
        { s with boot := { s.boot with mrdNs := updAt s.boot.mrdNs k (fun d => { d with base := val.setWidth 32 }) } } ∧
      exec (.registerWrite acc (BitVec.ofNat 25 (0x8204 + 16 * k.val)) .b32 val) s = .next
        { s with boot := { s.boot with mrdS := updAt s.boot.mrdS k (fun d => { d with limit := val.setWidth 32 }) } } ∧
      exec (.registerWrite acc (BitVec.ofNat 25 (0x400 + 4 * n.val)) .b32 val) s = .next
        { s with sg := { s.sg with cls := updAt s.sg.cls n (fun _ => val.setWidth 32 &&& 0xFF0F) } } ∧
      exec (.registerWrite acc (BitVec.ofNat 25 (0x410 + 4 * p.val)) .b32 val) s = .next
        { s with sg := { s.sg with cap := updAt s.sg.cap p (fun _ => val.setWidth 16) } }) ∧
    (acc.secure = true ∨ (s.host.parts[p]).secure = false →
      exec (.registerWrite acc (BitVec.ofNat 25 (pageOff p 0x104)) .b32 val) s
        = .next (modPart p (fun x => { x with intEnable := val.setWidth 5 }) s) ∧
      exec (.registerWrite acc (BitVec.ofNat 25 (pageOff p 0x208)) .b32 val) s
        = .next (modPart p (fun x => { x with qSel := val.setWidth 8 }) s) ∧
      exec (.registerWrite acc (BitVec.ofNat 25 (pageOff p 0x500)) .b32 val) s
        = .next (modPart p (fun x => { x with tagSel := val.setWidth 14 }) s) ∧
      exec (.registerWrite acc (BitVec.ofNat 25 (pageOff p 0x400)) .b32 val) s
        = .next (modPart p (fun x => { x with fsigId := val.setWidth 12 }) s)) ∧
    (CoreOpen acc c s → exec (.registerWrite acc (BitVec.ofNat 25 (coreOff c 0x4840)) .b32 val) s
      = .next (modCore c (fun k => { k with halo := { k.halo with tmo := val.setWidth 24 } }) s))) ∧
  (∀ (acc : Access) (val : Word) (p : PartId) (s : State),
    exec (.gintStatusClear acc val) s
      = .next { s with bnd := { s.bnd with gintStatus := s.bnd.gintStatus &&& ~~~ val.setWidth 12 } } ∧
    (acc.secure = true ∨ (s.host.parts[p]).secure = false → exec (.ptIntStatusClear acc p val) s
      = .next (modPart p (fun x => { x with intStatus := x.intStatus &&& ~~~ val.setWidth 5 }) s)) ∧
    (acc.secure = true →
      exec (.smIntStatusClear acc val) s
        = .next { s with host := { s.host with smIntStatus := s.host.smIntStatus &&& ~~~ val.setWidth 2 } } ∧
      exec (.sfIntStatusClear acc val) s
        = .next { s with safety := { s.safety with intStatus := s.safety.intStatus &&& ~~~ val.setWidth 5 } }))

/-- Every command that reads a register and clears it completes wherever the access passes the world check and the unit answers (R11, R12): the read
gives the value before the clear on the bus, the register is then zero, and nothing else changes (Table 00.2). The counters of the matrix engine (R84,
R109, R125). The counters of the other engines of a core, its queues and its halos (R169, R194, R213, R250, R386). The counters outside the core
windows: stream ports, memory port, partition pages, tick, safety, links, fabric (R25, R195, R294, R309, R333, R359, R387). -/
def Obligations.CountersClearOnRead : Prop :=
  (∀ (acc : Access) (c : CoreId) (s : State),
    (Passes acc s (coreOff c 0x404) false → exec (.satCountRead acc c) s
      = .next (modCore c (fun k => { k with mx := { k.mx with sat := 0 } }) { s with busData := ((s.cores[c]).mx.sat).zeroExtend 64 })) ∧
    (Passes acc s (coreOff c 0x408) false → exec (.rowsIssuedRead acc c) s
      = .next (modCore c (fun k => { k with mx := { k.mx with rows := 0 } }) { s with busData := ((s.cores[c]).mx.rows).zeroExtend 64 })) ∧
    (Passes acc s (coreOff c 0x40C) false → exec (.zeroCellsRead acc c) s
      = .next (modCore c (fun k => { k with mx := { k.mx with zeros := 0 } }) { s with busData := ((s.cores[c]).mx.zeros).zeroExtend 64 })) ∧
    (Passes acc s (coreOff c 0x480) false → exec (.stallFeedRead acc c) s
      = .next (modCore c (fun k => { k with mx := { k.mx with stallFeed := 0 } }) { s with busData := ((s.cores[c]).mx.stallFeed).zeroExtend 64 })) ∧
    (Passes acc s (coreOff c 0x484) false → exec (.stallDrainRead acc c) s
      = .next (modCore c (fun k => { k with mx := { k.mx with stallDrain := 0 } }) { s with
          busData := ((s.cores[c]).mx.stallDrain).zeroExtend 64 })) ∧
    (Passes acc s (coreOff c 0x488) false → exec (.stallLoadRead acc c) s
      = .next (modCore c (fun k => { k with mx := { k.mx with stallLoad := 0 } }) { s with busData := ((s.cores[c]).mx.stallLoad).zeroExtend 64 })) ∧
    (Passes acc s (coreOff c 0x48C) false → exec (.frozenRead acc c) s
      = .next (modCore c (fun k => { k with mx := { k.mx with frozen := 0 } }) { s with busData := ((s.cores[c]).mx.frozen).zeroExtend 64 })) ∧
    (Passes acc s (coreOff c 0x490) false → exec (.throttledRead acc c) s
      = .next (modCore c (fun k => { k with mx := { k.mx with throttled := 0 } }) { s with busData := ((s.cores[c]).mx.throttled).zeroExtend 64 })) ∧
    (Passes acc s (coreOff c 0x494) false → exec (.swapWaitRead acc c) s
      = .next (modCore c (fun k => { k with mx := { k.mx with swapWait := 0 } }) { s with busData := ((s.cores[c]).mx.swapWait).zeroExtend 64 })) ∧
    (Passes acc s (coreOff c 0x498) false → exec (.stallMapRead acc c) s
      = .next (modCore c (fun k => { k with mx := { k.mx with stallMap := 0 } }) { s with busData := ((s.cores[c]).mx.stallMap).zeroExtend 64 })) ∧
    (Passes acc s (coreOff c 0x49C) false → exec (.replaysRead acc c) s
      = .next (modCore c (fun k => { k with mx := { k.mx with replayCnt := 0 } }) { s with busData := ((s.cores[c]).mx.replayCnt).zeroExtend 64 })) ∧
    (Passes acc s (coreOff c 0x4B4) false → exec (.stemSkipRead acc c) s
      = .next (modCore c (fun k => { k with mx := { k.mx with stemSkip := 0 } }) { s with busData := ((s.cores[c]).mx.stemSkip).zeroExtend 64 })) ∧
    (Passes acc s (coreOff c 0x4B8) false → exec (.stemWaitRead acc c) s
      = .next (modCore c (fun k => { k with mx := { k.mx with stemWait := 0 } }) { s with busData := ((s.cores[c]).mx.stemWait).zeroExtend 64 }))) ∧
  (∀ (acc : Access) (c : CoreId) (s : State),
    (Passes acc s (coreOff c 0x1404) false → exec (.vxElemsRead acc c) s
      = .next (modCore c (fun k => { k with vx := { k.vx with elems := 0 } }) { s with busData := ((s.cores[c]).vx.elems).zeroExtend 64 })) ∧
    (Passes acc s (coreOff c 0x2404) false → exec (.wxElemsRead acc c) s
      = .next (modCore c (fun k => { k with wx := { k.wx with elems := 0 } }) { s with busData := ((s.cores[c]).wx.elems).zeroExtend 64 })) ∧
    (Passes acc s (coreOff c 0x4444) false → exec (.bytesExtRead acc c) s
      = .next (modCore c (fun k => { k with dx := { k.dx with bytesExt := 0 } }) { s with busData := ((s.cores[c]).dx.bytesExt).zeroExtend 64 })) ∧
    (Passes acc s (coreOff c 0x4448) false → exec (.xfersRead acc c) s
      = .next (modCore c (fun k => { k with dx := { k.dx with xfers := 0 } }) { s with busData := ((s.cores[c]).dx.xfers).zeroExtend 64 })) ∧
    (Passes acc s (coreOff c 0x444C) false → exec (.creditWaitRead acc c) s
      = .next (modCore c (fun k => { k with dx := { k.dx with credWait := 0 } }) { s with busData := ((s.cores[c]).dx.credWait).zeroExtend 64 })) ∧
    (Passes acc s (coreOff c 0x4844) false → exec (.haloDropRead acc c) s
      = .next (modCore c (fun k => { k with halo := { k.halo with drop := 0 } }) { s with busData := ((s.cores[c]).halo.drop).zeroExtend 64 })) ∧
    (∀ e : EngId, (Passes acc s (coreOff c (0x4584 + 8 * e.val)) false → exec (.queueCntRead acc c e) s
      = .next (modCore c (fun k => { k with queues := updAt k.queues e (fun q => { q with ignored := 0, rewinds := 0 }) }) { s with
          busData := (((s.cores[c]).queues[e]).ignored ++ ((s.cores[c]).queues[e]).rewinds).zeroExtend 64 }))) ∧
    (Passes acc s (coreOff c 0x5414) false → exec (.fxSpuriousRead acc c) s
      = .next (modCore c (fun k => { k with fx := { k.fx with spurious := 0 } }) { s with busData := ((s.cores[c]).fx.spurious).zeroExtend 64 }))) ∧
  (∀ (acc : Access) (n : StreamId) (p : PartId) (k : Fin 6) (l : LinkId) (z : RegionId) (s : State),
    (Passes acc s (0x20C + 0x40 * n.val) false → exec (.streamDropRead acc n) s
      = .next (modPort n (fun x => { x with drop := 0 }) { s with busData := ((s.bnd.strm[n]).drop).zeroExtend 64 })) ∧
    (Passes acc s (0x440 + 4 * p.val) false → exec (.mpBytesRead acc p) s
      = .next { s with busData := (s.sg.bytes[p]).zeroExtend 64, sg := { s.sg with bytes := updAt s.sg.bytes p (fun _ => 0) } }) ∧
    (Passes acc s (pageOff p 0x204) false → exec (.dbRejectRead acc p) s
      = .next (modPart p (fun x => { x with dbReject := 0 }) { s with busData := ((s.host.parts[p]).dbReject).zeroExtend 64 })) ∧
    (Passes acc s (pageOff p 0x314) false → exec (.frLostRead acc p) s
      = .next (modPart p (fun x => { x with frLost := 0 }) { s with busData := ((s.host.parts[p]).frLost).zeroExtend 64 })) ∧
    (Passes acc s (pageOff p 0x410) false → exec (.fenceStaleRead acc p) s
      = .next (modPart p (fun x => { x with fenceStale := 0 }) { s with busData := ((s.host.parts[p]).fenceStale).zeroExtend 64 })) ∧
    (Passes acc s (pageOff p 0x414) false → exec (.fsigRejectRead acc p) s
      = .next (modPart p (fun x => { x with fsigReject := 0 }) { s with busData := ((s.host.parts[p]).fsigReject).zeroExtend 64 })) ∧
    (Passes acc s 0x90014 false → exec (.earlyRead acc) s
      = .next { s with busData := (s.tick.early).zeroExtend 64, tick := { s.tick with early := 0 } }) ∧
    (Passes acc s 0x90018 false → exec (.synthRead acc) s
      = .next { s with busData := (s.tick.synth).zeroExtend 64, tick := { s.tick with synth := 0 } }) ∧
    (Passes acc s 0x90038 false → exec (.guttersRead acc) s
      = .next { s with busData := (s.tick.gutters).zeroExtend 64, tick := { s.tick with gutters := 0 } }) ∧
    (Passes acc s (0xA0010 + 4 * k.val) false → exec (.fcCountRead acc k) s
      = .next { s with busData := (s.safety.fcCount[k]).zeroExtend 64, safety := { s.safety with
          fcCount := updAt s.safety.fcCount k (fun _ => 0) } }) ∧
    (Passes acc s 0xA0030 false → exec (.corrCountRead acc) s
      = .next { s with busData := (s.safety.corr).zeroExtend 64, safety := { s.safety with corr := 0 } }) ∧
    (Passes acc s 0xA0044 false → exec (.dualFailRead acc) s
      = .next { s with busData := (s.safety.dualFail).zeroExtend 64, safety := { s.safety with dualFail := 0 } }) ∧
    (Passes acc s (linkOff l 0x4) false → exec (.crcRead acc l) s
      = .next (modLink l (fun x => { x with crc := 0 }) { s with busData := ((s.links.ports[l]).crc).zeroExtend 64 })) ∧
    (Passes acc s (linkOff l 0x8) false → exec (.replayRead acc l) s
      = .next (modLink l (fun x => { x with replay := 0 }) { s with busData := ((s.links.ports[l]).replay).zeroExtend 64 })) ∧
    (Passes acc s (linkOff l 0xC) false → exec (.retrainRead acc l) s
      = .next (modLink l (fun x => { x with retrain := 0 }) { s with busData := ((s.links.ports[l]).retrain).zeroExtend 64 })) ∧
    (Passes acc s (linkOff l 0x14) false → exec (.flitsRead acc l) s
      = .next (modLink l (fun x => { x with flits := 0 }) { s with busData := ((s.links.ports[l]).flits).zeroExtend 64 })) ∧
    (Passes acc s 0xC0084 false → exec (.uclkErrRead acc) s
      = .next { s with busData := (s.fabric.uclkErr).zeroExtend 64, fabric := { s.fabric with uclkErr := 0 } }) ∧
    (Passes acc s (regionOff z 0xC) false → exec (.loadsRead acc z) s
      = .next (modRegion z (fun x => { x with loads := 0 }) { s with busData := ((s.fabric.regions[z]).loads).zeroExtend 64 })) ∧
    (Passes acc s (regionOff z 0x10) false → exec (.bramErrRead acc z) s
      = .next (modRegion z (fun x => { x with bramErr := 0 }) { s with busData := ((s.fabric.regions[z]).bramErr).zeroExtend 64 })))

/-- A control word that enables a port towards a core that is not there, is secure for a non-secure writer, or whose ring has no slot, no stride or
does not fit core memory is refused: cfg_err and the stream-configuration cause are set and the port keeps its configuration. So is one that names the
targets 6 or 7, and a write of the ring of an enabled port or of a ring that does not fit (R25). An accepted control word becomes the port's; where
its target is the same core the ring goes on, otherwise the ring restarts as after a write of the ring register: write position 0, every slot free,
one credit a slot, and the old core's feeder seeks (R24). A line that arrives at an enabled port with a credit and fits its slot is written there,
header before payload, and consumes a credit: credits and held lines together stay the slots of the ring, and one credit goes and one line is held
where no feeder of the core seeks a line of this port, so that none is released at once. Its bytes are the only memory that changes. A disabled port
drops it (R23 to R25). The line's arrival brings the clock to its time. STEM_LINE_AVAILABLE: the oldest held line that is not available becomes so,
and no other (R121). The model's choices: a line that arrives without a credit is ignored (log 51), and a control word takes effect at once (log 21).
-/
def Obligations.StreamPortsWork : Prop :=
  (∀ (acc : Access) (n : StreamId) (val : Word) (s : State), Passes acc s (0x200 + 0x40 * n.val) true →
    (6 ≤ fld val 1 3 ∨ (bitAt val 0 = true ∧ (coreCount s.grade ≤ fld val 1 3 ∨
        (acc.secure = false ∧ ∃ k, s.cores[fld val 1 3]? = some k ∧ k.secure = true) ∨
        fld (s.bnd.strm[n]).ring 16 8 = 0 ∨ fld (s.bnd.strm[n]).ring 24 8 = 0 ∨
        2 ^ 23 < slotBase (s.bnd.strm[n]).ring (fld (s.bnd.strm[n]).ring 16 8))) →
      exec (.streamCtrlWrite acc n val) s = .next (setGint 0x800 (modPort n (fun x => { x with cfgErr := true }) s))) ∧
    (bitAt (s.bnd.strm[n]).ctrl 0 = true ∨ 2 ^ 23 < slotBase val (fld val 16 8) →
      exec (.streamRingWrite acc n val) s = .next (setGint 0x800 (modPort n (fun x => { x with cfgErr := true }) s)))) ∧
  (∀ (acc : Access) (n : StreamId) (val : Word) (s : State), Passes acc s (0x200 + 0x40 * n.val) true →
    (streamRefused acc.secure n val s = false →
      (fld (s.bnd.strm[n]).ctrl 1 3 = fld val 1 3 → exec (.streamCtrlWrite acc n val) s
        = .next (modPort n (fun x => { x with ctrl := val &&& 0xF, cfgErr := x.cfgErr && bitAt val 0 }) s)) ∧
      (fld (s.bnd.strm[n]).ctrl 1 3 ≠ fld val 1 3 → exec (.streamCtrlWrite acc n val) s
        = .next (ringRestart (portCore (s.bnd.strm[n])) n
            (modPort n (fun x => { x with ctrl := val &&& 0xF, cfgErr := x.cfgErr && bitAt val 0 }) s)))) ∧
    (bitAt (s.bnd.strm[n]).ctrl 0 = false → slotBase val (fld val 16 8) ≤ 2 ^ 23 → ∃ t : State, exec (.streamRingWrite acc n val) s = .next t ∧
      t.bnd.strm[n] = { (s.bnd.strm[n]) with
        ring := val, wpos := 0, credits := BitVec.ofNat 8 (fld val 16 8), held := [] } ∧
      t = { s with bnd := { s.bnd with strm := s.bnd.strm.set n t.bnd.strm[n] }, cores := t.cores } ∧
      ∀ c : CoreId, t.cores[c] = { (s.cores[c]) with mx := { (s.cores[c]).mx with cursor := (t.cores[c]).mx.cursor } })) ∧
  (∀ (n : StreamId) (at_ : Nat) (l : CameraLine) (s : State), streamPresent s.grade n = true → (Instr.streamLineArrival n at_ l).wf →
    (bitAt (s.bnd.strm[n]).ctrl 0 = false → exec (.streamLineArrival n at_ l) s = .next
      (setGint 0x400 (modPort n (fun x => { x with drop := satAdd x.drop 1 }) { s with time := max s.time at_ }))) ∧
    (bitAt (s.bnd.strm[n]).ctrl 0 = true → (s.bnd.strm[n]).credits = 0 →
      exec (.streamLineArrival n at_ l) s = .next { s with time := max s.time at_ }) ∧
    (bitAt (s.bnd.strm[n]).ctrl 0 = true → (s.bnd.strm[n]).credits ≠ 0 →
      fld (s.bnd.strm[n]).ring 24 8 * 128 < 16 + l.payload.length → exec (.streamLineArrival n at_ l) s = .next
        (setGint 0x400 (modPort n (fun x => { x with drop := satAdd x.drop 1 }) { s with time := max s.time at_ }))) ∧
    (bitAt (s.bnd.strm[n]).ctrl 0 = true → (s.bnd.strm[n]).credits ≠ 0 →
      16 + l.payload.length ≤ fld (s.bnd.strm[n]).ring 24 8 * 128 →
      ∃ t : State, exec (.streamLineArrival n at_ l) s = .next t ∧
        (t.cores[portCore (s.bnd.strm[n])]).mem = { (s.cores[portCore (s.bnd.strm[n])]).mem with
          core := memStore (s.cores[portCore (s.bnd.strm[n])]).mem.core
            (slotBase (s.bnd.strm[n]).ring (s.bnd.strm[n]).wpos) (lineBytes n l) } ∧
        (∀ c : CoreId, c ≠ portCore (s.bnd.strm[n]) → t.cores[c] = s.cores[c]) ∧
        (t.bnd.strm[n]).wpos = ((s.bnd.strm[n]).wpos + 1) % fld (s.bnd.strm[n]).ring 16 8 ∧
        (t.bnd.strm[n]).lastFrame = l.frame ∧
        (t.bnd.strm[n]).credits + BitVec.ofNat 8 (t.bnd.strm[n]).held.length
          = (s.bnd.strm[n]).credits + BitVec.ofNat 8 (s.bnd.strm[n]).held.length ∧
        ((s.cores[portCore (s.bnd.strm[n])]).mx.cursor.port ≠ n ∨ (s.cores[portCore (s.bnd.strm[n])]).mx.cursor.seeking = false →
          (t.bnd.strm[n]).credits = (s.bnd.strm[n]).credits - 1 ∧ (t.bnd.strm[n]).held = (s.bnd.strm[n]).held ++ [⟨(s.bnd.strm[n]).wpos, false⟩]) ∧
        t = { s with time := max s.time at_, cores := t.cores, tick := t.tick, bnd := { s.bnd with strm := t.bnd.strm }
                     safety := { s.safety with poison := t.safety.poison } })) ∧
  (∀ (n : StreamId) (s : State) (a b : List HeldLine) (slot : Nat),
    (s.bnd.strm[n]).held = a ++ ⟨slot, false⟩ :: b → (∀ h ∈ a, h.avail = true) →
    exec (.stemLineAvailable n) s = .next (modPort n (fun x => { x with held := a ++ ⟨slot, true⟩ :: b }) s))

/-- The regulator's acknowledgement, with which a step of the margin planner that waited for it is posted (R329), its timeout 1 ms after the change
(recorded as REGULATOR, class FC_DEGRADED, once), the throttle level at the start of a pattern, the temperature with its warning, and a KTICK edge at
least 1 µs after the last (R26, R27, R30, Table 14.3). The memory port (R190): at each microsecond a new cap window begins, in which first the
requests go that waited for it and no partition requests more than its cap; only a secure write of 1 sets the lock of the caps. Held accesses (R54,
R106): a write of a curve table starts once no running command selects it, and a held read of the accumulator is made once its rows are valid. WX
reads no accumulator row and holds none. The model's choices: which value the planner waits for (log 40) and what waits for a cap window (log 23). -/
def Obligations.BoundaryPinsAndPort : Prop :=
  (∀ s : State,
    (s.safety.planStep = none → (s.bnd.vofsCode = s.safety.marginCode ∨ s.bnd.timedOut = true) →
      exec .vofsAckArrival s = .next { s with bnd := { s.bnd with vofsAck := s.bnd.vofsCode } }) ∧
    (s.safety.planStep = none → s.bnd.vofsCode ≠ s.safety.marginCode → s.bnd.timedOut = false →
      exec .vofsAckArrival s = .next { s with bnd := { s.bnd with
        vofsAck := s.bnd.vofsCode, vofsFrom := s.time
        vofsCode := if s.bnd.vofsCode < s.safety.marginCode then s.bnd.vofsCode + 1 else s.bnd.vofsCode - 1 } }) ∧
    (∀ mon : Byte, s.safety.planStep = some mon → ∃ t : State, exec .vofsAckArrival s = .next t ∧ Posted s t 0x01 ∧
      t.bnd = { s.bnd with vofsAck := s.bnd.vofsCode, gintStatus := s.bnd.gintStatus ||| 0x004 } ∧
      t.safety.planStep = none ∧ t.safety.fresh = 2 ∧ t.safety.forcing = mon) ∧
    (s.bnd.vofsCode ≠ s.bnd.vofsAck → s.bnd.timedOut = false → exec .regulatorTimeout s = .next
      (setGint 0x200 (postRecord { code := 0x0C, fc := 2, unit := 10 }
        { s with
          time := max s.time (s.bnd.vofsFrom + us 1000), bnd := { s.bnd with timedOut := true }
          safety := { s.safety with planStep := none } }))) ∧
    (∀ level : BitVec 3, patternStarts s = true → exec (.throttleLevelChange level) s = .next { s with bnd := { s.bnd with
      throttle := level, thrNext := none
      gintStatus := if s.bnd.throttle = level then s.bnd.gintStatus else s.bnd.gintStatus ||| 0x80 } }) ∧
    (∀ level : BitVec 3, patternStarts s = false →
      exec (.throttleLevelChange level) s = .next { s with bnd := { s.bnd with thrNext := some level } }) ∧
    (∀ temp : Byte, exec (.tempUpdate temp) s = .next { s with bnd := { s.bnd with
      tempC := temp, warn := decide (s.bnd.warnC.toInt ≤ temp.toInt)
      gintStatus := if s.bnd.warnC.toInt ≤ temp.toInt ∧ s.bnd.warn = false then s.bnd.gintStatus ||| 0x100 else s.bnd.gintStatus } }) ∧
    (∀ at_ : Nat, (s.fabric.pins[0]).use = 2 → (∀ t, s.bnd.ktickLast = some t → t + us 1 ≤ max s.time at_) →
      exec (.ktickEdge at_) s = .next (raiseTick 0 0 { s with
        time := max s.time at_, bnd := { s.bnd with ktickLast := some (max s.time at_) } })) ∧
    (∀ at_ : Nat, (s.fabric.pins[0]).use ≠ 2 ∨ (∃ t, s.bnd.ktickLast = some t ∧ max s.time at_ < t + us 1) →
      exec (.ktickEdge at_) s = .next { s with time := max s.time at_ })) ∧
  (∀ s : State,
    (∃ t : State, exec .mportCapWindow s = .next t ∧ t.time = (s.time / us 1 + 1) * us 1 ∧ t.sg.cap = s.sg.cap ∧ t.sg.lock = s.sg.lock ∧
      t.host = s.host ∧ t.dram = s.dram ∧ (∀ p : PartId, s.sg.cap[p] ≠ 0 → t.sg.window[p] ≤ (s.sg.cap[p]).toNat * 256) ∧
      ((∀ (c : CoreId) (ch : ChanId) (r : DxRun), (dxChan s c ch).run = some r → ∀ x ∈ r.out, x.owed = 0) →
        t.sg.window = Vector.replicate 8 0 ∧ t.cores = s.cores)) ∧
    (∀ (acc : Access) (val : Word), Passes acc s 0x430 true → exec (.mpqLockSet acc val) s =
      .next (if acc.secure = true ∧ bitAt val 0 = true then { s with sg := { s.sg with lock := true } } else s)) ∧
    (∀ (acc : Access) (n : Nat), acc.secure = false → s.sg.lock = true → n < 13 → exec (.registerWrite acc (BitVec.ofNat 25 (0x400 + 4 * n)) .b32 0) s
      = .next (refuseAccess acc (0x400 + 4 * n) s))) ∧
  (∀ (c : CoreId) (s : State),
    exec (.curveWriteRelease c) s = .next (forAll (List.finRange 4) (fun ch => modDxRun c ch (fun r => { r with
      out := r.out.map (fun x => if x.held then { x with held := curveClash s.cores[c] x } else x) })) s) ∧
    exec (.accReadRelease c .vx) s = .next (modVx c (fun v => { v with run := v.run.map (fun r =>
      { r with held := r.held && vxInvalid s.cores[c] r }) }) s) ∧
    exec (.accReadRelease c .wx) s = .next s ∧
    (∀ (ch : ChanId) (r : DxRun), (dxChan s c ch).run = some r → r.held = true → coreLive s c = true → (dxChan s c ch).snuff = false →
      exec (.accReadRelease c (.dx ch)) s = .next (dxIssueNow c ch r s)))

/-! ### The matrix engine (chapters 03 to 06) -/

/-- A write of a configuration-set register of a halted core stores the bits that the register has, and clears a resume record that names the set;
while the core is not halted the write is ignored (R82, R101, R146, R165, R167, R191, R193, R383, R386). What becomes of the snuffed command is log
60. -/
def Obligations.ConfigSetWriteNeedsHaltedCore : Prop :=
  ∀ (acc : Access) (c : CoreId) (o : Nat) (val : Word) (s : State) (e : EngId) (n : SetId) (i : Nat),
    setAt o = some (e, n, i) → o % 4 = 0 → CoreOpen acc c s →
    (coreHalted s.cores[c] = true → exec (.configSetWrite acc (BitVec.ofNat 25 (coreOff c o)) val) s = .next
      (modCore c (fun k => clearRecord e n (modSet e n (writeSetReg e i val) k)) s)) ∧
    (coreHalted s.cores[c] = false → exec (.configSetWrite acc (BitVec.ofNat 25 (coreOff c o)) val) s = .next s)

/-- A taken command whose wait is satisfied starts when its start rules allow (R81, R89, R122, R137): it leaves the taken place, stands last among the
started commands, and its first pass is formed. stemStart is the stem feeder's part (R123), none in the other modes. A start on another set than a
valid resume record's halts with HALT_INCONSISTENT_CFG (R101); one whose nest checks fail halts with their condition. That a line-gated start waits
before its checks, and where a stem command takes the cursor, is the model's choice (log 82). -/
def Obligations.MxCommandStarts : Prop :=
  ∀ (c : CoreId) (s u v : State) (cmd : EngCmd) (cfg : Vector Word 64) (freeze : Bool) (q : MxCmd),
    (s.cores[c]).mx.taken = some cmd → cfg = (s.cores[c]).mx.sets[cmd.set] →
    freeze = (bitAt (reg cfg 0x04) 6 || candleFreeze s cmd.job c) →
    u = (if mxAgMode cfg = 3 then stemStart c cfg s else s) → v = progress c (modMx c (fun m => { m with taken := none }) u) →
    q = { ord := (s.cores[c]).mx.nextOrd, cmd := cmd, cfg := cfg, next := 0, limit := mxPasses cfg, mStart := 0, reload := false, freeze := freeze } →
    coreLive s c = true → cmd.start = true → waitDone s.cores[c] cmd = true →
    (s.cores[c]).mx.stop = .none → (s.cores[c]).mx.stopped = false → mxFreeToStart s c cfg freeze = true → mxGated u c cfg = false →
    (((s.cores[c]).mx.resume.valid = false ∨ (s.cores[c]).mx.resume.set = cmd.set) → mxNestChecks s.cores[c] cmd cfg = none →
      exec (.mxCommandStart c) s = .next (formPass c q (mxEff (s.cores[c]).mem.core cfg 0)
        (modMx c (fun m => { m with started := m.started ++ [q], nextOrd := m.nextOrd + 1 }) v))) ∧
    ((s.cores[c]).mx.resume.valid = true → (s.cores[c]).mx.resume.set ≠ cmd.set → exec (.mxCommandStart c) s = .next
      (raiseHalt c (mxHalt 0x11#8 cmd.set 9 1 0) (modMx c (mxDrain none 0) v))) ∧
    (∀ h, ((s.cores[c]).mx.resume.valid = false ∨ (s.cores[c]).mx.resume.set = cmd.set) → mxNestChecks s.cores[c] cmd cfg = some h →
      exec (.mxCommandStart c) s = .next (raiseHalt c h (modMx c (mxDrain none 0) v)))

/-- The next pass of the started commands is formed (R62, R64, R66, R77, R80, R81, R136): where the load slot is free the next pass that swaps takes
it, and its load begins, with the planes under the staged maps where they come from core memory; a pass that reuses the plane or streams no window
waits for the last row of the pass before it and begins to enter rows; a failing check halts. A pass forms so at a command's start too. A loaded pass
starts at the first cycle that R64 allows (R63): the shadow planes become active with their maps, each array counts its blocks' steps past the swap,
their gated cells are counted, and rows begin to enter; a stem command with ring release releases the lines below its first (R124). The model's
choices: the planes are read as the load forms (log 80), the positions that a pass without a plane merges (log 79), and a pass start runs the cycles
up to it (log 13). -/
def Obligations.MxPassFormsAndStarts : Prop :=
  (∀ (c : CoreId) (s : State) (cmd : MxCmd) (e : MxEff), mxForms s c = true → passDue s c = some (cmd, e) →
    exec (.mxPassFormation c) s = .next (formPass c cmd e s) ∧
    (mxSwaps cmd e = true → (s.cores[c]).mx.load = none) ∧ (mxSwaps cmd e = false → runDone (s.cores[c]).mx = true)) ∧
  (∀ (c : CoreId) (s : State) (cmd : MxCmd) (e e' : MxEff), e' = (if mxSwaps cmd e then { e with reuse := false } else e) →
    (∀ h, (if e.idx = 0 then mxNestChecks s.cores[c] cmd.cmd cmd.cfg else none).orElse (fun _ =>
        mxPassChecks s.grade s.bnd.strm[mxPort cmd.cfg] (stemBound s c cmd.cfg) s.cores[c] cmd.cmd cmd.cfg e') = some h →
      formPass c cmd e s = raiseHalt c h (modMx c (mxDrain (some cmd.ord) e.idx) s)) ∧
    ((if e.idx = 0 then mxNestChecks s.cores[c] cmd.cmd cmd.cfg else none).orElse (fun _ =>
        mxPassChecks s.grade s.bnd.strm[mxPort cmd.cfg] (stemBound s c cmd.cfg) s.cores[c] cmd.cmd cmd.cfg e') = none →
      (mxSwaps cmd e = false → formPass c cmd e s = startRun c cmd e cmd.mStart s) ∧
      ((∀ x ∈ s.safety.poison, x.1 ≠ .core c) →
        (mxSwaps cmd e = true → mxAgMode cmd.cfg ≠ 3 → formPass c cmd e s = modMx c (fun m => { m with
          load := some { ord := cmd.ord, eff := e', mStart := if e.idx = cmd.next then cmd.mStart else 0, cols := Vector.replicate 8 0
                         got := 0, waiting := false, follows := !(runDone (s.cores[c]).mx)
                         need := loadNeeds s.cores[c] s.bnd.strm[mxPort cmd.cfg] cmd.cfg e'
                         planes := loadPlanes s.cores[c] s.bnd.strm[mxPort cmd.cfg] cmd.cfg e' } }) s) ∧
        (mxSwaps cmd e = true → mxAgMode cmd.cfg = 3 → formPass c cmd e s = fillLoad c (modMx c (fun m => { m with
          load := some { ord := cmd.ord, eff := e', mStart := if e.idx = cmd.next then cmd.mStart else 0, cols := Vector.replicate 8 0
                         got := 0, waiting := true, follows := !(runDone (s.cores[c]).mx), need := [], planes := [] } }) s))))) ∧
  (∀ (c : CoreId) (s u : State) (n : Nat) (l : MxLoad) (cmd : MxCmd), mxForms s c = true → (s.cores[c]).mx.load.isSome = true →
    MeetsAfter c (fun t => passReady (weightFills s c) t.cores[c] || !(mxForms t c)) n s → u = cyclesOf c n s → mxForms u c = true →
    passReady (weightFills s c) u.cores[c] = true → (u.cores[c]).mx.load = some l → mxCmd (u.cores[c]).mx l.ord = some cmd →
    exec (.mxPassStart c) s = .next (swapRelease c cmd l.eff (startRun c cmd l.eff l.mStart (modCore c (fun k => { k with
      arrays := l.planes.foldl (fun v p => updAt v p.1 (fun a => { a with
        plane := some p.2, mapNow := p.2.map, grid := { a.grid with swap := some (gridN a.grid 0 0) } })) k.arrays
      mx := { k.mx with
        zeros := satAdd k.mx.zeros ((l.planes.map (fun p => gatedCells p.2)).foldl (· + ·) 0)
        load := none } }) u))))

/-- The oldest command completes in the cycle after its last merge or its last code write (R73): it leaves the engine, a record that names it clears,
its stem lines are released, and its tokens are posted (R227). A taken packet without a start completes as soon as its wait is satisfied (R226). A
packet that starts nothing completes once its wait is satisfied, whatever runs, in each engine that takes packets (R226, R227): the place of the taken
command is free and its tokens are posted. The posts of a completing command (R227): each named counter takes its increment, the sum where both name
one; past 65,535 the counter stays and the core halts with HALT_TOKEN_RANGE kind 1 (R235). A completion runs the engine's cycles up to it (the model's
choice, log 13). -/
def Obligations.MxCommandEndsAndPosts : Prop :=
  (∀ (c : CoreId) (s u : State) (n : Nat) (cmd : MxCmd), (s.cores[c]).mx.started ≠ [] →
    (∀ q, (s.cores[c]).mx.taken = some q → q.start = true ∨ waitDone s.cores[c] q = false) →
    ((s.cores[c]).mx.started.head?.any (fun q => decide (q.next < mxPasses q.cfg))) = false →
    MeetsAfter c (fun t => (mxFinished (t.cores[c]).mx).isSome) n s → u = cyclesOf c n s → mxFinished (u.cores[c]).mx = some cmd →
    (u.cores[c]).mx.stopped = false →
    exec (.mxCommandComplete c) s = .next (postTokens c 0 cmd.cmd (endRelease c cmd (progress c (modMx c (fun m => { m with
      started := m.started.filter (fun k => decide (k.ord ≠ cmd.ord))
      run := m.run.filter (fun r => decide (r.ord ≠ cmd.ord))
      resume := if m.resumed = some cmd.ord then Resume.reset else m.resume
      resumed := if m.resumed = some cmd.ord then none else m.resumed }) u))))) ∧
  (∀ (c : CoreId) (s : State) (cmd : EngCmd), coreLive s c = true → cmd.start = false → waitDone s.cores[c] cmd = true →
    ((s.cores[c]).mx.taken = some cmd → exec (.mxCommandComplete c) s
      = .next (postTokens c 0 cmd (progress c (modMx c (fun m => { m with taken := none }) s)))) ∧
    ((s.cores[c]).vx.taken = some cmd → exec (.vxCommandComplete c) s
      = .next (postTokens c 1 cmd (progress c (modVx c (fun v => { v with taken := none }) s)))) ∧
    ((s.cores[c]).wx.taken = some cmd → exec (.wxCommandComplete c) s
      = .next (postTokens c 2 cmd (progress c (modWx c (fun v => { v with taken := none }) s))))) ∧
  (∀ (c : CoreId) (eng : Nat) (cmd : EngCmd) (s : State) (t : TokId) (n : Nat), cmd.post0 = some (t, n) →
    (cmd.post1 = none → (tok s c t).toNat + n ≤ 65535 → (tok (postTokens c eng cmd s) c t).toNat = (tok s c t).toNat + n) ∧
    (∀ m, cmd.post1 = some (t, m) → (tok s c t).toNat + n + m ≤ 65535 →
      (tok (postTokens c eng cmd s) c t).toNat = (tok s c t).toNat + n + m) ∧
    (∀ t' m, cmd.post1 = some (t', m) → t' ≠ t → (tok s c t).toNat + n ≤ 65535 → (tok s c t').toNat + m ≤ 65535 →
      (tok (postTokens c eng cmd s) c t).toNat = (tok s c t).toNat + n ∧
      (tok (postTokens c eng cmd s) c t').toNat = (tok s c t').toNat + m ∧
      ∀ x, x ≠ t → x ≠ t' → tok (postTokens c eng cmd s) c x = tok s c x) ∧
    (cmd.post1 = none → 65535 < (tok s c t).toNat + n → (s.cores[c]).phase = .live →
      tok (postTokens c eng cmd s) c t = tok s c t ∧ ∃ h, ((postTokens c eng cmd s).cores[c]).phase = .halting h none s.time ∧ h.code = 8))

/-- A snuff of MX ends once the rows that had entered are merged and written (R98): the planes of the snuffed arrays are discarded (R107), and with a
command unfinished at the recorded position the resume record names set, arrays, pass and row; a snuff that fell into a replay records replay = 1 and
row 0 (R108). A snuff that has not drained 4,096 cycles after its request abandons the rows in flight under the fault rules, with cause 5, and its
record asks for a replay of the group (R99, R103): the group's rows become invalid. Here where the rows of one command are left. The model's choices:
a snuff's end runs the cycles up to it (log 13), the other fields of a cause 5 word (log 84), and what the group's end does to later commands (log
83). -/
def Obligations.MxSnuffEnds : Prop :=
  (∀ (c : CoreId) (s u : State) (n : Nat) (pos : Option (Nat × Nat × Nat)), (s.cores[c]).mx.stop ≠ .none →
    MeetsAfter c (fun t => stopDrained (t.cores[c]).mx || snuffLate t.cores[c]) n s → u = cyclesOf c n s →
    stopDrained (u.cores[c]).mx = true → mxFinished (u.cores[c]).mx = none →
    (u.cores[c]).mx.stop = .snuff pos → ∃ t : State, exec (.mxSnuffComplete c) s = .next t ∧ t = { u with cores := t.cores } ∧
      (∀ d : CoreId, d ≠ c → t.cores[d] = u.cores[d]) ∧
      (∀ ord pass row cmd, pos = some (ord, pass, row) → mxCmd (u.cores[c]).mx ord = some cmd →
        (t.cores[c]).mx.resume = ⟨true, (u.cores[c]).mx.stopReplay, cmd.cmd.set, mxMask cmd.cfg,
          if (u.cores[c]).mx.stopReplay then 0 else row, pass⟩ ∧ (t.cores[c]).mx.resumed = some ord) ∧
      (pos = none → (t.cores[c]).mx.resume = (u.cores[c]).mx.resume) ∧
      (t.cores[c]).mx.stopped = true ∧ (t.cores[c]).mx.stop = .none ∧
      (t.cores[c]).mx.run = none ∧ (t.cores[c]).mx.load = none ∧ (t.cores[c]).mx.started = (u.cores[c]).mx.started ∧
      (∀ a : ArrId, ((t.cores[c]).arrays[a]).plane =
        if bitAt (u.cores[c]).mx.stopMask a.val then none else ((u.cores[c]).arrays[a]).plane) ∧
      (t.cores[c]).mem = (u.cores[c]).mem ∧ (t.cores[c]).toks = (u.cores[c]).toks) ∧
  (∀ (c : CoreId) (s u : State) (n : Nat) (pos : Option (Nat × Nat × Nat)) (cmd : MxCmd) (ord idx first last : Nat),
      (s.cores[c]).mx.stop = .snuff pos →
    MeetsAfter c (fun t => stopDrained (t.cores[c]).mx || snuffLate t.cores[c]) n s → u = cyclesOf c n s →
    stopDrained (u.cores[c]).mx = false → unfinished (u.cores[c]).mx = [(ord, idx)] → mxCmd (u.cores[c]).mx ord = some cmd →
    mxGroup (u.cores[c]).mem.core cmd.cfg idx = (some first, last) →
    ∃ t : State, exec (.mxSnuffTimeout c) s = .next t ∧ t = { u with cores := t.cores } ∧
      (∀ d : CoreId, d ≠ c → t.cores[d] = u.cores[d]) ∧ (t.cores[c]).mem = (u.cores[c]).mem ∧
      (t.cores[c]).mx.flight = [] ∧ (t.cores[c]).mx.outq = [] ∧ (t.cores[c]).mx.stopped = true ∧
      fld (t.cores[c]).mx.faultInfo 4 3 = 5 ∧
      (t.cores[c]).mx.resume = { valid := true, replay := true, set := cmd.cmd.set, mask := mxMask cmd.cfg, mRes := 0, pos := first } ∧
      (∀ a : ArrId, bitAt (mxMask cmd.cfg) a.val = true →
        ((t.cores[c]).arrays[a]).invalid = ((markInvalid (mxMask cmd.cfg) ((u.cores[c]).allocs[cmd.cmd.part]).accBase.toNat
          (groupLost u.cores[c] cmd first idx true) u.cores[c]).arrays[a]).invalid) ∧
      (∀ a : ArrId, bitAt (u.cores[c]).mx.stopMask a.val = true → ((t.cores[c]).arrays[a]).plane = none))

/-- An array fault with an overwrite pass at the head of its group, in no snuff and not yet the third of the group, discards the group and sets up its
replay (R103, R104, R138): entry stops, the load and the group's rows in flight are discarded, MX_FAULT_INFO takes the finding, the group's
accumulator rows become invalid, and the command goes on from the group's first pass with its planes loaded anew. The third fault of a group ends in
HALT_LAMP_FAIL, and one without an overwrite pass in HALT_INCONSISTENT_CFG, after the passes before it (R81, R104, R105). A replay ends in the cycle
in which the replayed group's last row merges (R104): ARRAY_REPLAYED is recorded with the fault's word, and the group's count starts again. The
model's choices: how two replays join (joinReplay, log 83), the lamp test of a replay (log 19), and the cycles that the end of a replay runs (log 13).
-/
def Obligations.ArrayFaultsReplay : Prop :=
  (∀ (c : CoreId) (f : ArrayFinding) (s u : State) (ord idx row first last count : Nat) (cmd : MxCmd), inService s c = true →
    faultSite (s.cores[c]).mx f.site = some (ord, idx, row) → mxCmd (s.cores[c]).mx ord = some cmd →
    f.cause ≠ 0 → f.cause.toNat ≤ 4 → f.arrays &&& mxMask cmd.cfg ≠ 0 → f.word = none →
    mxGroup (s.cores[c]).mem.core cmd.cfg idx = (some first, last) → (∀ pos, (s.cores[c]).mx.stop ≠ .snuff pos) →
    count = (if (s.cores[c]).mx.replay.any (fun r => decide (r.ord = ord) && decide (r.first ≤ idx) && decide (idx ≤ r.last))
      then (s.cores[c]).mx.replays else 0) →
    u = discardGroup c cmd first last idx true (faultInfoWord f.arrays.toNat f.cause.toNat f.band.toNat f.group.toNat row count) s →
    (count < 2 → exec (.arrayFault c f) s = .next (modCore c flushStep (modMx c (fun m => { m with
        replay := some (joinReplay m.replay { ord := ord, first := first, last := last, count := count + 1, phase := 0 })
        replays := count + 1 }) u))) ∧
    (2 ≤ count → ∃ t : State, exec (.arrayFault c f) s = .next t ∧
      (coreLive s c = true → (t.cores[c]).phase = .halting (replayLimitHalt s c f.arrays) none s.time) ∧
      (t.cores[c]).lampBad = (s.cores[c]).lampBad ||| arrayGroups f.arrays ∧ (t.cores[c]).mx.replay = none)) ∧
  (∀ (c : CoreId) (f : ArrayFinding) (s : State) (ord idx row last : Nat) (cmd : MxCmd), inService s c = true →
    faultSite (s.cores[c]).mx f.site = some (ord, idx, row) → mxCmd (s.cores[c]).mx ord = some cmd →
    f.cause ≠ 0 → f.cause.toNat ≤ 4 → f.arrays &&& mxMask cmd.cfg ≠ 0 → f.word = none → (s.cores[c]).phase = .live →
    mxGroup (s.cores[c]).mem.core cmd.cfg idx = (none, last) → ∃ t : State, exec (.arrayFault c f) s = .next t ∧
      (t.cores[c]).phase = .halting (mxHalt 0x11#8 cmd.cmd.set 10 1 idx) none s.time ∧ (t.cores[c]).mx.load = none ∧
      (t.cores[c]).mem = (s.cores[c]).mem ∧ (∀ a : ArrId, bitAt (mxMask cmd.cfg) a.val = true → ((t.cores[c]).arrays[a]).plane = none)) ∧
  (∀ (c : CoreId) (cmd : MxCmd) (first last idx : Nat) (led : Bool) (info : Word) (s : State), ∃ t : State,
    t = discardGroup c cmd first last idx led info s ∧ (t.cores[c]).mx.load = none ∧ (t.cores[c]).mx.faultInfo = info ∧
    (∀ r ∈ (t.cores[c]).mx.flight, r.ord ≠ cmd.ord ∨ r.eff.idx < first ∨ last < r.eff.idx ∨
      (led = false ∧ r.eff.slot ≠ (mxEff (s.cores[c]).mem.core cmd.cfg idx).slot)) ∧
    (∀ r ∈ (t.cores[c]).mx.flight, ∃ q ∈ (s.cores[c]).mx.flight, r.ord = q.ord ∧ r.eff.idx = q.eff.idx ∧ r.row = q.row ∧ r.parts = q.parts) ∧
    (t.cores[c]).mem = (s.cores[c]).mem ∧ t = { s with cores := t.cores } ∧ (∀ d : CoreId, d ≠ c → t.cores[d] = s.cores[d])) ∧
  (∀ (c : CoreId) (s u : State) (n : Nat) (r : MxReplay), (s.cores[c]).mx.replay = some r → r.phase = 2 →
    MeetsAfter c (fun t => replayMerged (t.cores[c]).mx r) n s → u = cyclesOf c n s → (u.cores[c]).mx.replay = some r →
    exec (.arrayReplayDone c) s = .next (modMx c (fun m => { m with replay := none, replays := 0 })
      (postReplayed u c (u.cores[c]).mx r u)) ∧
    ((∀ x, jobUnacked u x = false) → postReplayed u c (u.cores[c]).mx r u = postRecord (replayedRecord u c (u.cores[c]).mx r) u) ∧
    (replayedRecord u c (u.cores[c]).mx r).code = 3 ∧ (replayedRecord u c (u.cores[c]).mx r).index = c.val ∧
    (replayedRecord u c (u.cores[c]).mx r).detail = (u.cores[c]).mx.faultInfo.toNat)

/-- A bad read of the output stage (R102 cause 6): no code of the row nor of a later one is written, MX_FAULT_INFO names it, MX stops, and the core
faults with the ENGINE_FAULT record. An engine fault of VX or WX (R166): the command stops, the fault register takes cause and row, ENGINE_FAULT is
recorded and the core stops. A bad read of the control core's data is a core fault too, and a bad fetch halts the core with HALT_IMEM_ECC at the
address (R216). A fault of the data mover (R192, Table 08.6): DX_FAULT_INFO takes channel, cause and run, ENGINE_FAULT is recorded and the core
stops; the channel keeps its outstanding transfers. An error response of the system chip is such a fault, of cause 1 for a read and 2 for a write,
which is performed but for the granule that met the error: that holds unknown bytes (R22, log 7); met by a page walk it fails the next walk (R271),
by an access of a kind the next access of that kind, and by a container it ends the load with code 11. A record of a job with data writes under way
waits for them (R20): here for a job without. A finding that names the word it read counts it against the word's unit besides (R324). The model's
choices: the access that an error response meets is the command's operand (log 8), the bytes of the failed granule (log 7), the other fields of a
cause 6 word (log 84), what stands of a core fault (log 76), and the details of a word's count (log 88). -/
def Obligations.EngineFaultsStopCore : Prop :=
  (∀ (c : CoreId) (n : Nat) (s : State) (o : MxOut), (s.cores[c]).mx.outq[n]? = some o →
    ∃ t : State, exec (.mxOutputReadFault ⟨c, n, none⟩) s = .next t ∧ (jobUnacked s (s.cores[c]).ctl.job = false → Posted s t 0x05) ∧
      (t.cores[c]).mx.outq = ((s.cores[c]).mx.outq.take n).map (fun x => if x.age = 0 then readOut s.cores[c] x else x) ∧
      (t.cores[c]).mx.flight = [] ∧ (t.cores[c]).mx.run = none ∧ (t.cores[c]).mx.load = none ∧
      (t.cores[c]).mx.started = (s.cores[c]).mx.started.filter (fun q => decide (q.ord < o.ord)) ∧
      (t.cores[c]).mx.faultInfo = faultInfoWord 0 6 0 0 o.row 0 ∧ (t.cores[c]).mem = (s.cores[c]).mem ∧
      ((s.cores[c]).phase = .live → ∃ cond, (t.cores[c]).phase = .halting cond none s.time ∧ cond.code = 0) ∧
      (∀ d : CoreId, d ≠ c → t.cores[d] = s.cores[d])) ∧
  (∀ (c : CoreId) (s : State), inService s c = true →
    (∀ (e : VecEng) (cause : BitVec 2) (r : VecRun), (vecOf s.cores[c] e).run = some r → (Instr.engineFault c (.vec e cause none)).wf →
      ∃ t : State, exec (.engineFault c (.vec e cause none)) s = .next t ∧ (jobUnacked s (s.cores[c]).ctl.job = false → Posted s t 0x05) ∧
        (vecOf t.cores[c] e).run = none ∧
        (vecOf t.cores[c] e).faultCause = cause ∧ (vecOf t.cores[c] e).faultRow = BitVec.ofNat 28 r.row ∧
        ((s.cores[c]).phase = .live → ∃ h, (t.cores[c]).phase = .halting h none s.time ∧ h.code = 0) ∧
        (t.cores[c]).mem = (s.cores[c]).mem ∧ (∀ d : CoreId, d ≠ c → t.cores[d] = s.cores[d])) ∧
    ((s.cores[c]).ctl.running = true → exec (.engineFault c (.control none)) s = .next (coreFault c 0x05 0 5 0 0 s)) ∧
    (∀ off : BitVec 17, (s.cores[c]).ctl.running = true → (s.cores[c]).phase = .live →
      ∃ t : State, exec (.engineFault c (.fetch off)) s = .next t ∧ t = { s with cores := t.cores } ∧
        (t.cores[c]).ctl.addr.toNat = off.toNat + (if (s.cores[c]).ctl.active then 2 ^ 17 else 0) ∧
        ∃ h, (t.cores[c]).phase = .halting h none s.time ∧ h.code = 0x0B ∧ h.detail.toNat = (t.cores[c]).ctl.addr.toNat)) ∧
  (∀ (c : CoreId) (ch : ChanId) (s : State) (r : DxRun), (dxChan s c ch).run = some r → r.fault = 0 ∨ r.fault = 6 →
    (∀ cause : BitVec 3, (Instr.dxFault c ch ⟨cause, none⟩).wf → inService s c = true →
      ∃ t : State, exec (.dxFault c ch ⟨cause, none⟩) s = .next t ∧ (jobUnacked s (s.cores[c]).ctl.job = false → Posted s t 0x05) ∧
        (t.cores[c]).dx.fault = dxFaultWord ch cause.toNat r.run ∧
        (∃ q, (dxChan t c ch).run = some q ∧ q.out = r.out ∧ q.fault = cause.toNat) ∧
        ((s.cores[c]).phase = .live → ∃ h, (t.cores[c]).phase = .halting h none s.time ∧ h.code = 0) ∧
        (∀ d : CoreId, (t.cores[d]).mem = (s.cores[d]).mem) ∧ (RingsOff s → t.dram = s.dram)) ∧
    (∀ (k i g : Nat) (x : DxXfer), dxNth r.out k = some i → r.out[i]? = some x →
      (x.extRead = true → ∃ t : State, exec (.memoryErrorResponse (.dx c ch k false g)) s = .next t ∧
        (s.host.owed = [] → jobUnacked (modDxRun c ch (fun q => { q with out := dropNth i q.out }) s) (s.cores[c]).ctl.job = false →
          Posted s t 0x05) ∧
        (t.cores[c]).dx.fault = dxFaultWord ch 1 x.run ∧ (RingsOff s → t.dram = s.dram)) ∧
      (∀ lo, x.target = .ext → dxGranule x g = some lo → ∃ t : State, exec (.memoryErrorResponse (.dx c ch k true g)) s = .next t ∧
        (t.cores[c]).dx.fault = dxFaultWord ch 2 x.run ∧
        (RingsOff s → ∀ a, a < lo ∨ lo + 64 ≤ a → memLoad t.dram a = memLoad (dxPerform c x s).dram a)))) ∧
  (∀ s : State,
    exec (.memoryErrorResponse .walk) s = .next { s with walkErr := true } ∧
    (∀ x, exec (.memoryErrorResponse (.access x)) s = .next { s with host := { s.host with portErr := s.host.portErr ++ [x] } }) ∧
    (∀ l, s.fabric.load = some l → l.path = 1 → exec (.memoryErrorResponse .fabric) s = .next (loadFail 11 0 s))) ∧
  (∀ (c : CoreId) (ch : ChanId) (n : Nat) (e : VecEng) (cause : BitVec 2) (cause' : BitVec 3) (f : ArrayFinding) (w : WordAt) (s t : State),
    (exec (.arrayFault c { f with word := none }) s = .next t → exec (.arrayFault c { f with word := w }) s = .next (wordMet c 0x03 w t)) ∧
    (exec (.mxOutputReadFault ⟨c, n, none⟩) s = .next t → exec (.mxOutputReadFault ⟨c, n, w⟩) s = .next (wordMet c 0x05 w t)) ∧
    (exec (.engineFault c (.vec e cause none)) s = .next t → exec (.engineFault c (.vec e cause w)) s = .next (wordMet c 0x05 w t)) ∧
    (exec (.engineFault c (.control none)) s = .next t → exec (.engineFault c (.control w)) s = .next (wordMet c 0x05 w t)) ∧
    (exec (.dxFault c ch ⟨cause', none⟩) s = .next t → exec (.dxFault c ch ⟨cause', w⟩) s = .next (wordMet c 0x05 w t)) ∧
    (exec (.fxFault c (.coreRead none)) s = .next t → exec (.fxFault c (.coreRead w)) s = .next (wordMet c 0x35 w t)))

/-! ### Vector, window and data-moving engines (chapters 07 to 09) -/

/-- A taken command of VX or WX starts when the engine is free and its wait is satisfied, a snuffed one before it (R147, R165, R170): at the recorded
row where the record is valid; a start on another set than the record's halts with HALT_INCONSISTENT_CFG, and a failing start check halts with its
condition. A command of VX or WX completes once its last row is written (R147, R154): the engine is free, VX writes its scalars, and the tokens are
posted in that cycle (R227). The rows left are processed first (log 13). A snuff of VX or WX finishes the row in progress (R165): the command is
parked for the restart, and the resume record is valid with its set and the number of rows completed, also where all are; nothing is posted (R227).
The model's choices: when the resume record clears (log 81), rows as units (log 14), and what a resumed command clears (log 18). -/
def Obligations.VectorCommandsRun : Prop :=
  (∀ (c : CoreId) (e : VecEng) (i : Instr) (s : State) (cmd : EngCmd) (v : Vec) (cfg : Vector Word 64),
    i = (match e with | .vx => .vxCommandStart c | .wx => .wxCommandStart c) → v = vecOf s.cores[c] e →
    vecNext s.cores[c] v = some cmd → cfg = v.sets[cmd.set] → vecFree s c e cfg = true →
    (v.resume.valid = true → v.resume.set ≠ cmd.set → exec i s = .next
      (raiseHalt c (vecHalt 0x11 (vecNum e) cmd.set.val 9 2 0) (progress c (modVec c e vecDequeue s)))) ∧
    (v.resume.valid = false ∨ v.resume.set = cmd.set →
      (∀ h, vecChecks (progress c (modVec c e vecDequeue s)) c e cmd cfg = some h →
        exec i s = .next (raiseHalt c h (progress c (modVec c e vecDequeue s)))) ∧
      (vecChecks (progress c (modVec c e vecDequeue s)) c e cmd cfg = none → ∃ t : State, exec i s = .next t ∧
        (e = .vx → exec (.vxCommandStart c) s = .next t) ∧ (e = .wx → exec (.wxCommandStart c) s = .next t) ∧
        t = { s with cores := t.cores, safety := { s.safety with poison := t.safety.poison } } ∧
        (∀ d : CoreId, d ≠ c → t.cores[d] = { (s.cores[d]) with stall := (t.cores[d]).stall }) ∧
        (vecOf t.cores[c] e).curSet = cmd.set ∧ (vecOf t.cores[c] e).resume = Resume.reset ∧
        (∃ r, (vecOf t.cores[c] e).run = some r ∧ r.cmd = cmd ∧ r.cfg = cfg ∧ r.row = vecFirstRow e v cfg) ∧
        (t.cores[c]).mem.acc = (s.cores[c]).mem.acc ∧ (t.cores[c]).toks = (s.cores[c]).toks))) ∧
  (∀ (c : CoreId) (s u : State) (r r' : VecRun), inService s c = true →
    ((s.cores[c]).vx.run = some r → (s.cores[c]).vx.snuff = false → u = vecRunRows c .vx (vxRows r.cfg - r.row) s →
      (∀ q, (s.cores[c]).vx.taken = some q → q.start = true ∨ waitDone s.cores[c] q = false) →
      (u.cores[c]).vx.run = some r' → vxRows r'.cfg ≤ r'.row →
      exec (.vxCommandComplete c) s = .next (postTokens c 1 r'.cmd (progress c (modCore c (fun k =>
        { k with vx := { k.vx with run := none, snuff := false }, sc := vxScalars r' k.sc }) u)))) ∧
    ((s.cores[c]).wx.run = some r → (s.cores[c]).wx.snuff = false → u = vecRunRows c .wx (wxRows r.cfg - r.row) s →
      (∀ q, (s.cores[c]).wx.taken = some q → q.start = true ∨ waitDone s.cores[c] q = false) →
      (u.cores[c]).wx.run = some r' → wxRows r'.cfg ≤ r'.row →
      exec (.wxCommandComplete c) s = .next (postTokens c 2 r'.cmd (progress c (modCore c (fun k =>
        { k with wx := { k.wx with run := none, snuff := false } }) u))))) ∧
  (∀ (c : CoreId) (e : VecEng) (s u : State) (r r' : VecRun), (vecOf s.cores[c] e).run = some r → (vecOf s.cores[c] e).snuff = true →
    u = (if r.cyc = 0 ∨ r.held then s else vecRunRows c e 1 s) → (vecOf u.cores[c] e).run = some r' →
    exec (.vxwxSnuffComplete c e) s = .next (modVec c e (fun v => { v with
      run := none, snuff := false, parked := some { r'.cmd with wait := none }
      resume := { valid := true, replay := false, set := r'.cmd.set, mask := 0, mRes := 0, pos := vecResumesAt e r'.cfg r'.row } }) u))

/-- A snuffed command of a channel resumes, or its waiting one starts once its wait is satisfied, when the channel is free (R171, R191, R196, R233):
the tokens first, then a set other than a valid record's (HALT_INCONSISTENT_CFG), Table 08.8 and the link checks halt the core where they fail. With
room under max_out, the credits of the next transfer's unit are taken (R177, R187) and the transfer is issued (R172): it joins the outstanding ones
and its external bytes count against the cap, beyond which its requests wait (R190). Where a credit is missing the channel waits, a transfer that
would fault halts the core, and a read of an uncorrectable word, the entry of a GATHER run before its source, is a DX fault of cause 3 (R192, R320). A
credit of a unit (R177, R178, R236): with more in its counter than lower-numbered waiting channels take and no halo credit needed, the counter falls
by one and the channel does not wait; else the channel waits and no counter changes. An acknowledged transfer's writes land in its target and nowhere
else, its bytes and transfers are counted, and the runs it completes are retired, with the arrivals of their units (R172, R173, R177, R187, R194);
here a transfer not performed before, and an external one that no earlier one of its granules precedes (R20). Retirement is in run order: behind an
older transfer that is not acknowledged nothing is retired and no unit is posted; the oldest one, where its acknowledgement completes runs and the
next one is not acknowledged, goes, the position is the runs it completes, and each unit that these complete adds one to its arrival counters; after a
DX fault no further unit is posted. That a transfer is read at its issue and written at its acknowledgement is the model's choice (log 15), as are the
cap windows (log 23). A page error met on the transfer is a DX fault of cause 4 instead (R185). A 4 KiB piece of memory goes to the channel of the
port that R19 gives. -/
def Obligations.DxCommandRuns : Prop :=
  (∀ (c : CoreId) (ch : ChanId) (s u : State) (cmd : EngCmd) (x : DxChan) (cfg : Vector Word 64), x = dxChan s c ch →
    x.parked.orElse (fun _ => x.waiting.filter (fun q => q.start && waitDone s.cores[c] q)) = some cmd →
    coreLive s c = true → x.run = none → x.snuff = false → cfg = (s.cores[c]).dx.sets[cmd.set] →
    u = progress c (modChan c ch (fun x => match x.parked with
      | some _ => { x with parked := none } | none => { x with waiting := none }) s) →
    (dxTokenCheck u c cmd cfg = none → x.resume.valid = true → x.resume.set ≠ cmd.set →
      exec (.dxCommandStart c ch) s = .next (raiseLogged c (dxHalt 0x11 cmd.set ch 9 3 0) u)) ∧
    (∀ h, dxTokenCheck u c cmd cfg = some h → exec (.dxCommandStart c ch) s = .next (raiseLogged c h u)) ∧
    (dxTokenCheck u c cmd cfg = none → x.resume.valid = false ∨ x.resume.set = cmd.set →
      (∀ h, (dxChecks u c cmd cfg).or (dxLinkChecks u c cmd cfg) = some h → exec (.dxCommandStart c ch) s = .next (raiseLogged c h u)) ∧
      ((dxChecks u c cmd cfg).or (dxLinkChecks u c cmd cfg) = none →
        exec (.dxCommandStart c ch) s = .next (modChan c ch (fun y => { y with
          run := some (dxRun0 cmd cfg x.resume), pos := BitVec.ofNat 32 (dxRun0 cmd cfg x.resume).runsAcked
          resume := { valid := false, set := 0, credHeld := false, run := 0 } }) u)))) ∧
  (∀ (c : CoreId) (ch : ChanId) (s u : State) (r : DxRun), (dxChan s c ch).run = some r → (dxChan s c ch).snuff = false →
    r.fault = 0 → r.held = false → dxAllIssued r = false → dxOutstanding r < dxMaxOut r.cfg → coreLive s c = true →
    (dxTakeUnits c ch r.cmd r.cfg (dxLastRun r / dxUnit r.cfg + 1 - r.unitsTaken) s = (false, u) →
      exec (.dxTransferIssue c ch) s = .next u) ∧
    (∀ q : DxRun, dxTakeUnits c ch r.cmd r.cfg (dxLastRun r / dxUnit r.cfg + 1 - r.unitsTaken) s = (true, u) →
      (dxChan u c ch).run = some q →
      (dxEntryBad u c q = true → exec (.dxTransferIssue c ch) s = .next (dxFault c ch 3 q.run u)) ∧ (dxEntryBad u c q = false →
      (∀ (x : DxXfer) (r' : DxRun) (v : State), dxForm u c ch q = .ok x r' v →
        (dxReadBad u c q = false → exec (.dxTransferIssue c ch) s = .next (progress c (modDxRun c ch (fun y => { r' with
          held := false
          out := y.out ++ [{ x with held := curveClash v.cores[c] x, owed := x.ext - capGrant v q.cmd.part x.ext }] })
          (countIssued q.cmd.part (capGrant v q.cmd.part x.ext) { v with sg := { v.sg with issued := v.sg.issued + 1 } })))) ∧
        (dxReadBad u c q = true → exec (.dxTransferIssue c ch) s = .next (dxFault c ch 3 q.run u))) ∧
      (dxForm u c ch q = .hold → exec (.dxTransferIssue c ch) s = .next (modDxRun c ch (fun y => { y with held := true }) u)) ∧
      (dxForm u c ch q = .later → exec (.dxTransferIssue c ch) s = .next u) ∧
      (∀ (h : HaltCond) (v : State), dxForm u c ch q = .halt h v →
        exec (.dxTransferIssue c ch) s
          = .next (raiseLogged c h (modDxRun c ch (fun y => { y with fault := if y.fault = 0 then 6 else y.fault }) v)))))) ∧
  (∀ (c : CoreId) (ch : ChanId) (s : State) (cmd : EngCmd) (cfg : Vector Word 64) (t : TokId), dxCrEn cfg = true → dxOp cfg ≠ 6 →
    dxCounters s c cmd cfg (dxCrTok cfg) = [(c, t)] →
    (claimsBefore s c t ch.val < (tok s c t).toNat → ∃ u : State, dxTakeUnits c ch cmd cfg 1 s = (true, u) ∧ tok u c t = tok s c t - 1 ∧
      ∀ x : TokId, x ≠ t → tok u c x = tok s c x) ∧
    ((tok s c t).toNat ≤ claimsBefore s c t ch.val →
      ∃ u : State, dxTakeUnits c ch cmd cfg 1 s = (false, u) ∧ (∀ x : TokId, tok u c x = tok s c x) ∧
      ∀ r, (dxChan s c ch).run = some r → ∃ q, (dxChan u c ch).run = some q ∧ q.waiting = true)) ∧
  (∀ (c : CoreId) (ch : ChanId) (k i : Nat) (s : State) (r : DxRun) (x : DxXfer), (dxChan s c ch).run = some r →
    dxNth r.out k = some i → r.out[i]? = some x → x.held = false → x.members = 0 → x.owed = 0 →
    (x.err = 0 → x.landed = false → ∃ t : State, exec (.dxTransferAck c ch k) s = .next t ∧
      (s.host.owed = [] → t.host = s.host ∧ (x.target ≠ .ext → t.dram = s.dram) ∧
        (x.target = .ext → dxDue s x = [x] → t.dram = x.writes.foldl (fun m w => memStore m w.1 w.2) s.dram)) ∧
      (x.target = .staging → t.staging = x.writes.foldl (fun m w => memStore m w.1 w.2) s.staging) ∧
      (x.target ≠ .staging → (x.target = .ext → dxDue s x = [x]) → t.staging = s.staging) ∧
      (x.target = .core → (t.cores[c]).mem = { (s.cores[c]).mem with
        core := x.writes.foldl (fun m w => memStore m w.1 w.2) (s.cores[c]).mem.core }) ∧
      (x.target = .acc → (t.cores[c]).mem = { (s.cores[c]).mem with
        acc := x.writes.foldl (fun m w => memStore m w.1 w.2) (s.cores[c]).mem.acc }) ∧
      (x.target = .wbuf → (t.cores[c]).mem = { (s.cores[c]).mem with
        wbuf := x.writes.foldl (fun m w => memStore m w.1 w.2) (s.cores[c]).mem.wbuf }) ∧
      (x.target = .curve → (t.cores[c]).mem = { (s.cores[c]).mem with
        curve := x.writes.foldl (fun m w => memStore m w.1 w.2) (s.cores[c]).mem.curve }) ∧
      (∀ mask, x.target = .cast mask → ∀ d : CoreId, (t.cores[d]).mem = if bitAt mask d.val = true ∧ inReset s.cores[d] = false then
          { (s.cores[d]).mem with wbuf := x.writes.foldl (fun m w => memStore m w.1 w.2) (s.cores[d]).mem.wbuf }
        else (s.cores[d]).mem) ∧
      (∀ d : CoreId, (∀ mask, x.target ≠ .cast mask) → (x.target = .ext → dxDue s x = [x]) → d ≠ c → (t.cores[d]).mem = (s.cores[d]).mem) ∧
      (t.cores[c]).dx.bytesExt = satAdd (s.cores[c]).dx.bytesExt (((s.cores[c]).dx.extRem + x.ext) / 64) ∧
      (t.cores[c]).dx.xfers = satAdd (s.cores[c]).dx.xfers 1 ∧ ((∀ o ∈ s.host.owed, o.2.dangerous = false) → t.bnd = s.bnd) ∧
      t.fabric = s.fabric) ∧
    (x.err = 0 → ∃ (t : State) (q : DxRun), exec (.dxTransferAck c ch k) s = .next t ∧ (dxChan t c ch).run = some q ∧
      (∀ y, r.out.head? = some y → y.acked = false → i ≠ 0 → q.runsAcked = r.runsAcked ∧ q.unitsPosted = r.unitsPosted ∧
        q.out.length = r.out.length ∧ ∀ (d : CoreId) (a : TokId), tok t d a = tok s d a) ∧
      (∀ n : Nat, i = 0 → (∀ y ∈ r.out.tail, y.acked = false) → r.runsAcked < x.done →
        n = (if r.fault ≠ 0 ∧ r.fault ≠ 6 then 0 else max r.unitsPosted (x.done / dxUnit r.cfg) - r.unitsPosted) →
        (∀ a ∈ dxCounters s c r.cmd r.cfg (dxAvTok r.cfg), (tok s a.1 a.2).toNat + n ≤ 65535) →
        q.runsAcked = x.done ∧ q.unitsPosted = r.unitsPosted + n ∧ q.out.length + 1 = r.out.length ∧
        (dxChan t c ch).pos = BitVec.ofNat 32 x.done ∧ (dxAvEn r.cfg = false → ∀ (d : CoreId) (a : TokId), tok t d a = tok s d a) ∧
        (dxAvEn r.cfg = true → ∀ a ∈ dxCounters s c r.cmd r.cfg (dxAvTok r.cfg), tok t a.1 a.2 = tok s a.1 a.2 + BitVec.ofNat 16 n))) ∧
    (x.err = 4 → r.fault = 0 ∨ r.fault = 6 → ∃ t : State, exec (.dxTransferAck c ch k) s = .next t ∧
      (s.host.owed = [] → jobUnacked (modDxRun c ch (fun q => { q with out := dropNth i q.out }) s) (s.cores[c]).ctl.job = false →
        Posted s t 0x05) ∧
      (t.cores[c]).dx.fault = dxFaultWord ch 4 x.run)) ∧
  (∀ spa : Nat, spa < 2 ^ 44 → (mportChannel spa).toNat = Nat.xor (spa / 2 ^ 12 % 8) (spa / 2 ^ 15 % 8))

/-- A command of a channel completes when every write of every transfer is acknowledged (R172): the channel is free and the tokens are posted. A
waiting packet without a start completes as soon as its wait is satisfied, whatever runs (R226). A snuff of a channel ends once nothing is outstanding
(R191): an unfinished command is recorded with its set, the first run not acknowledged and whether that run's credit has been taken, and waits to
resume; a channel that a fault stopped leaves no record (R192). How the special operations are cut into transfers is log 58. -/
def Obligations.DxCommandEnds : Prop :=
  (∀ (c : CoreId) (ch : ChanId) (s : State),
    (∀ r, (dxChan s c ch).run = some r → dxAllIssued r = true → r.out = [] → r.fault = 0 → (dxChan s c ch).snuff = false →
      exec (.dxCommandComplete c ch) s
        = .next (postTokens c 3 r.cmd (progress c (modChan c ch (fun x => { x with run := none, snuff := false }) s)))) ∧
    (∀ q, (∀ r, (dxChan s c ch).run = some r → dxAllDone r = false) → (dxChan s c ch).waiting = some q → q.start = false →
        waitDone s.cores[c] q = true →
      coreLive s c = true → exec (.dxCommandComplete c ch) s
        = .next (postTokens c 3 q (progress c (modChan c ch (fun x => { x with waiting := none }) s))))) ∧
  (∀ (c : CoreId) (ch : ChanId) (s : State) (r : DxRun), (dxChan s c ch).run = some r → (dxChan s c ch).snuff = true →
    dxOutstanding r = 0 →
    (r.fault = 0 → dxAllDone r = false → exec (.dxSnuffComplete c ch) s = .next (modChan c ch (fun x => { x with
      run := none, snuff := false, parked := some { r.cmd with wait := none }
      resume := { valid := true, set := r.cmd.set, credHeld := dxCredHeld r, run := r.runsAcked } }) s)) ∧
    (r.fault ≠ 0 → exec (.dxSnuffComplete c ch) s = .next (modChan c ch (fun x => { x with run := none, snuff := false }) s)) ∧
    (dxAllDone r = true → exec (.dxSnuffComplete c ch) s
      = .next (postTokens c 3 r.cmd (progress c (modChan c ch (fun x => { x with run := none, snuff := false }) s)))))

/-- R182 whole: a 64-byte block compresses to an 8-byte mask, bit i of which is 1 exactly when byte i differs from the zero code, followed by the
bytes that differ, in ascending order; the record is 8 + popcount(mask) bytes long, from 8 to 72. -/
def Obligations.BlockCompressesToMask : Prop :=
  ∀ (z : Byte) (bs : List Byte), bs.length = 64 → ∃ mask : Nat, mask < 2 ^ 64 ∧
    (∀ i, i < 64 → (mask.testBit i = true ↔ bs[i]? ≠ some z)) ∧
    zcBlock z bs = leBytes 8 mask ++ ((List.range 64).filter (fun i => mask.testBit i)).map (fun i => bs[i]?.getD z) ∧
    leNat ((zcBlock z bs).take 8) = mask ∧ (zcBlock z bs).length = 8 + popcount 64 mask ∧
    8 ≤ (zcBlock z bs).length ∧ (zcBlock z bs).length ≤ 72

/-- Unpacking restores what was packed (R182 to R185): the blocks of a page read back from their records are the page's 4,096 bytes, and the records
take exactly the bytes that their masks say, whatever follows them in the slot. -/
def Obligations.PackedPageIsRestored : Prop :=
  ∀ (z : Byte) (bs rest : List Byte), bs.length = 4096 →
    zcBlocks z 64 ((chunks 64 64 bs).flatMap (zcBlock z) ++ rest) = bs ∧
    zcNeeds 64 ((chunks 64 64 bs).flatMap (zcBlock z) ++ rest) = ((chunks 64 64 bs).flatMap (zcBlock z)).length

/-- A write of DX_HB_CTRL_k, from the window of a halted core or from the running control program, whose partition becomes the owner (R199, R201,
R213, R233). Enabling tells the source its slots as credits and starts at seq_start; an enable that R199 or Table 09.4 forbids sets err and stores the
word with enable 0; a token beyond the owner's count halts with HALT_TOKEN_RANGE; disabling clears enable alone and sends the source a grant of none,
which closes its counter at 0; a buffer that stays disabled takes the word, and one that stays enabled keeps its own, with err where they differ (log
25). The credits of a halo path (R201, R203): a grant sets the source's counter to the value given and opens the path, or closes it at none; a return
adds one to a path that is open, and nothing to one that a reset of the sender has closed (R212); a release with a unit held, and its token beyond the
takes that go before it in the cycle (R236), takes both down and sends the credit back. A message on the ring is gone once it has landed. A halo run
that arrives in order for an enabled, bound and owned buffer is written at its offset in the window, and its unit's last run completes the unit: held
and the expected number advance and arr_tok counts it. Out of order or outside the window it is dropped with err, and the core halts; without a buffer
it is dropped and counted. Every run is acknowledged (R198, R202). A halo wait that its limit ends (DX_HALO_TMO, or a quarter of the tick period)
halts the core with HALT_HALO_TIMEOUT, and DX_HALO_LAST names the path (R206). Here for an arrival wait of the control core or of a taken command, and
for a channel's wait for a credit. A wait of the control core on a buffer whose source has left the membership ends with HALT_LINK_LOST (R209, R210),
and nothing happens where no source is lost. The model's choices: messages and runs of one path come in order (log 24), and those of a remote path by
commands (log 22). -/
def Obligations.HalosWork : Prop :=
  (∀ (acc : Access) (c : CoreId) (k : HaloId) (val : Word) (s u : State),
    (CoreOpen acc c s → coreHalted s.cores[c] = true → u = writeHbCtrl c k val s → exec (.hbCtrlWrite acc c k val) s = .next u) ∧
    (CoreOpen acc c s → coreHalted s.cores[c] = false → exec (.hbCtrlWrite acc c k val) s = .next s) ∧
    (ctlRuns s c = true →
      exec (.ctlHaloRegWrite c k .ctrl val) s = .next (writeHbCtrl c k ((val &&& 0x8FFFFFFF) ||| put 28 (s.cores[c]).ctl.part.val) s) ∧
      (hbEnabled (hbOf s c k) = false →
        exec (.ctlHaloRegWrite c k .win val) s = .next (modHb c k (fun b => { b with win := val }) s) ∧
        exec (.ctlHaloRegWrite c k .seq val) s = .next (modHb c k (fun b => { b with seqStart := val.setWidth 16 }) s)) ∧
      (hbEnabled (hbOf s c k) = true →
        exec (.ctlHaloRegWrite c k .win val) s = .next (modHb c k (fun b => { b with err := true }) s) ∧
        exec (.ctlHaloRegWrite c k .seq val) s = .next (modHb c k (fun b => { b with err := true }) s))) ∧
    (hbEnabled (hbOf s c k) = false → bitAt val 0 = true → bitAt val 31 = false →
      (∀ t, hbTokBad s c val = some t → (s.cores[c]).phase = .live →
        ∃ h, ((writeHbCtrl c k val s).cores[c]).phase = .halting h none s.time ∧ h.code = 8) ∧
      (hbTokBad s c val = none → hbRefused s c k val = true →
        hbOf (writeHbCtrl c k val s) c k = { hbOf s c k with ctrl := val &&& ~~~ 1#32, err := true } ∧
        (writeHbCtrl c k val s).haloMsgs = s.haloMsgs) ∧
      (hbTokBad s c val = none → hbRefused s c k val = false →
        hbOf (writeHbCtrl c k val s) c k = { hbOf s c k with
          ctrl := (val &&& ~~~ 1#32) ||| 1#32, nextSeq := (hbOf s c k).seqStart, held := 0, part := false, dead := false, lost := false } ∧
        (fld val 1 2 = 0 → ringPrev s c ≠ c → (writeHbCtrl c k val s).haloMsgs
          = s.haloMsgs ++ [⟨ringPrev s c, .next, some (BitVec.ofNat 8 (fld val 8 8))⟩]) ∧
        (fld val 1 2 = 1 → ringNext s c ≠ c → (writeHbCtrl c k val s).haloMsgs
          = s.haloMsgs ++ [⟨ringNext s c, .prev, some (BitVec.ofNat 8 (fld val 8 8))⟩]) ∧
        (fld val 1 2 = 2 → ∀ l : LinkId, (s.links.routes[fld val 3 5]?).join = some l →
          ((writeHbCtrl c k val s).links.ports[l]).haloOut = (s.links.ports[l]).haloOut ++
            [(BitVec.ofNat 5 (fld val 3 5), ⟨c, .remote s.links.addr, some (BitVec.ofNat 8 (fld val 8 8))⟩)]))) ∧
    (hbEnabled (hbOf s c k) = true → bitAt val 0 = false → bitAt val 31 = false →
      hbEnabled (hbOf (writeHbCtrl c k val s) c k) = false ∧ (hbOf (writeHbCtrl c k val s) c k).held = 0 ∧
      (hbOf (writeHbCtrl c k val s) c k).ctrl = (hbOf s c k).ctrl &&& ~~~ 1#32 ∧
      (fld (hbOf s c k).ctrl 1 2 = 0 → ringPrev s c ≠ c →
        (writeHbCtrl c k val s).haloMsgs = s.haloMsgs ++ [⟨ringPrev s c, .next, some 0⟩]) ∧
      (fld (hbOf s c k).ctrl 1 2 = 1 → ringNext s c ≠ c →
        (writeHbCtrl c k val s).haloMsgs = s.haloMsgs ++ [⟨ringNext s c, .prev, some 0⟩]) ∧
      (fld (hbOf s c k).ctrl 1 2 = 2 → ∀ l : LinkId, (s.links.routes[fld (hbOf s c k).ctrl 3 5]?).join = some l →
        ((writeHbCtrl c k val s).links.ports[l]).haloOut = (s.links.ports[l]).haloOut ++
          [(BitVec.ofNat 5 (fld (hbOf s c k).ctrl 3 5), ⟨c, .remote s.links.addr, some 0⟩)])) ∧
    (hbEnabled (hbOf s c k) = true → bitAt val 0 = true → bitAt val 31 = false →
      writeHbCtrl c k val s = if val = (hbOf s c k).ctrl then s else modHb c k (fun b => { b with err := true }) s) ∧
    (hbEnabled (hbOf s c k) = false → bitAt val 0 = false → bitAt val 31 = false →
      writeHbCtrl c k val s = modHb c k (fun b => { b with ctrl := val }) s)) ∧
  (∀ (c : CoreId) (s : State),
    (∀ (m : HaloMsg) (w v : Byte), (m.path = .next ∨ m.path = .prev) → m.core = c → haloMsgAt s c m.path = some m → m.grant = some w →
      exec (.haloCreditGrant c m.path v) s = .next (haloMsgDone c m.path (takeGrant c m.path w s))) ∧
    (∀ (m : HaloMsg), (m.path = .next ∨ m.path = .prev) → m.core = c → haloMsgAt s c m.path = some m → m.grant = none →
      exec (.haloCreditReturn c m.path) s = .next (haloMsgDone c m.path (takeReturn c m.path s))) ∧
    (∀ (e : BitVec 5) (v : Byte), inService s c = true →
      exec (.haloCreditGrant c (.remote e) v) s = .next (takeGrant c (.remote e) v s) ∧
      exec (.haloCreditReturn c (.remote e)) s = .next (takeReturn c (.remote e) s)) ∧
    (∀ w : Byte,
      takeGrant c .next w s = modCore c (fun k => { k with halo := { k.halo with credNext := w, openNext := decide (w ≠ 0) } }) s ∧
      takeGrant c .prev w s = modCore c (fun k => { k with halo := { k.halo with credPrev := w, openPrev := decide (w ≠ 0) } }) s ∧
      ∀ e : BitVec 5, takeGrant c (.remote e) w s = modCore c (fun k => { k with halo := { k.halo with
        credEng := k.halo.credEng.set e.toNat w (by omega)
        openEng := if w = 0 then k.halo.openEng &&& ~~~ BitVec.ofNat 32 (2 ^ e.toNat) else k.halo.openEng ||| BitVec.ofNat 32 (2 ^ e.toNat) } }) s) ∧
    (∀ path : HaloPath, (creditOpen (s.cores[c]).halo path = true → takeReturn c path s = modCredit c path (fun w => w + 1) s) ∧
      (creditOpen (s.cores[c]).halo path = false → takeReturn c path s = s)) ∧
    (∀ (k : HaloId) (t : TokId), hbRel s.cores[c] (hbOf s c k) = some t → hbEnabled (hbOf s c k) = true → (hbOf s c k).held ≠ 0 →
      (releasesBefore s c t k < (tok s c t).toNat → exec (.haloRelease c k) s = .next (hbTell c (hbOf s c k) none
        (modHb c k (fun b => { b with held := b.held - 1 }) (setTok c t (tok s c t - 1) s)))) ∧
      ((tok s c t).toNat ≤ releasesBefore s c t k → exec (.haloRelease c k) s = .next s))) ∧
  (∀ (c : CoreId) (path : HaloPath) (s u : State) (r : HaloRun),
    s.haloRuns.find? (fun r => decide (r.core = c) && decide (r.path = path)) = some r →
    u = { s with haloRuns := s.haloRuns.eraseP (fun r => decide (r.core = c) && decide (r.path = path)) } →
    exec (.haloRunArrival c path) s = .next (haloAck r (haloArrive r u)) ∧
    (hbFor s r = none → haloArrive r u
      = modCore r.core (fun q => { q with halo := { q.halo with drop := satAdd q.halo.drop (if r.runLast = true then 1 else 0) } }) u) ∧
    (∀ k, hbFor s r = some k → (hbOf s r.core k).dead = false →
      (r.seq = (hbOf s r.core k).nextSeq → hbOutside (hbOf s r.core k) r = false →
        ((haloArrive r u).cores[r.core]).mem = { (s.cores[r.core]).mem with
          core := memStore (s.cores[r.core]).mem.core ((hbWindow (hbOf s r.core k)).1 + (r.start + r.off).toNat) r.data } ∧
        (∀ d : CoreId, d ≠ r.core → ((haloArrive r u).cores[d]).mem = (s.cores[d]).mem) ∧
        (r.runLast = false ∨ r.unitLast = false → (hbOf (haloArrive r u) r.core k) = { hbOf s r.core k with part := true }) ∧
        (r.runLast = true → r.unitLast = true → (hbOf (haloArrive r u) r.core k) = { hbOf s r.core k with
            part := false, held := (hbOf s r.core k).held + 1, nextSeq := (hbOf s r.core k).nextSeq + 1 } ∧
          ∀ t, hbArr s.cores[r.core] (hbOf s r.core k) = some t → (tok s r.core t).toNat < 65535 →
            tok (haloArrive r u) r.core t = tok s r.core t + 1)) ∧
      (r.seq ≠ (hbOf s r.core k).nextSeq ∨ hbOutside (hbOf s r.core k) r = true →
        ((haloArrive r u).cores[r.core]).mem = (s.cores[r.core]).mem ∧ (hbOf (haloArrive r u) r.core k).err = true ∧
        ((s.cores[r.core]).phase = .live →
          ∃ h, ((haloArrive r u).cores[r.core]).phase = .halting h none s.time ∧ h.code = 2)))) ∧
  (∀ (c : CoreId) (s : State),
    ((∀ k : HaloId, (hbOf s c k).lost = false) → haloLostWaits c s = s) ∧
    (∀ (t : TokId) (from_ : Nat) (k : HaloId), coreLive s c = true → tokenWait s.cores[c] .control = some (t, from_) →
      k ∈ hbsOfTok s.cores[c] t → (hbOf s c k).lost = true →
      ∃ h second, ((haloLostWaits c s).cores[c]).phase = .halting h second s.time ∧ h.code = (linkLost 1 0 0 5 0).code)) ∧
  (∀ (c : CoreId) (s : State), coreLive s c = true →
    (∀ (w : HaloWaiter) (j : HaloId) (from_ : Nat), arrivalWait s.cores[c] w = some (j, from_) → ∃ t : State,
      exec (.haloTimeout c w) s = .next t ∧ t.time = max s.time (from_ + haloLimit s s.cores[c]) ∧
      (∃ h, (t.cores[c]).phase = .halting h none t.time ∧ h.code = 0x0A) ∧
      (t.cores[c]).halo.last = BitVec.ofNat 9 (2 * j.val + 16 * (hbSource (hbOf s c j)).2) ∧
      t = { s with time := t.time, cores := t.cores } ∧ (∀ d : CoreId, d ≠ c → t.cores[d] = s.cores[d])) ∧
    (∀ (ch : ChanId) (r : DxRun) (from_ : Nat), (dxChan s c ch).run = some r → r.haloWait = some from_ → haloCredit s.cores[c] r.cfg = 0 →
      ∃ t : State, exec (.haloTimeout c (.chan ch)) s = .next t ∧ t.time = max s.time (from_ + haloLimit s s.cores[c]) ∧
      (∃ h, (t.cores[c]).phase = .halting h none t.time ∧ h.code = 0x0A) ∧ (∀ d : CoreId, d ≠ c → t.cores[d] = s.cores[d])))

/-! ### Control cores, queues, halts (chapter 10) -/

/-- A word that the control program pushes (R223): the first word of a packet takes a free slot, having rewound an open packet, and is ignored with
the whole packet where all 64 are in use; the last word commits the packet with the job's partition and tag in word 0; a corrupt word rewinds it; a
committed packet is progress. An abort rewinds the open packet. The next packet in read order (R224, R225): where it fails a check of Table 10.4 it
stays and the core halts; otherwise its words go into the set, the engine holds it as its taken command, its slot is marked taken and freed once all
older ones are (R222). Copies of a queue pointer that differ (R228): the queue and the engine's taken commands are discarded and the core halts with
HALT_QUEUE_RESET. Whether a word is corrupt is the command's operand (log 8). -/
def Obligations.EngineQueuesWork : Prop :=
  (∀ (c : CoreId) (e : EngId) (s : State) (q : EngQueue) (ctl : Ctl), ctlRuns s c = true → q = (s.cores[c]).queues[e] → ctl = (s.cores[c]).ctl →
    (∀ w : Word, 64 ≤ (rewindOpen q).slots.length → exec (.queueWordPush c e true w false) s = .next (modCore c (fun k => { k with
      queues := updAt k.queues e (fun _ => { rewindOpen q with
        ignoring := true, overrun := q.overrun ||| BitVec.ofNat 8 (2 ^ ctl.part.val), ignored := satAdd16 q.ignored 1 })
      ctl := if q.overrun ||| BitVec.ofNat 8 (2 ^ ctl.part.val) = q.overrun ∧ satAdd16 q.ignored 1 = q.ignored then ctl
        else { ctl with overran := true } }) s)) ∧
    (∀ w : Word, (rewindOpen q).slots.length < 64 → fld w 8 5 ≠ 0 →
      ∃ t : State, exec (.queueWordPush c e true w false) s = .next t ∧
        ((t.cores[c]).queues[e]).slots = (rewindOpen q).slots ++ [⟨[w], fld w 8 5 + 1, none, false, ctl.job⟩]) ∧
    (∀ (w : Word) (a : List QSlot) (x : QSlot), q.slots = a ++ [x] → (∀ y ∈ a, y.order.isSome = true) → x.order = none →
      x.words.length + 1 = x.len → ∃ t : State, exec (.queueWordPush c e false w false) s = .next t ∧
        ((t.cores[c]).queues[e]).slots = a ++ [{ x with order := some q.commits, words := match x.words with
          | v :: vs => insertFields ctl.part ctl.tag v :: (vs ++ [w]) | [] => [insertFields ctl.part ctl.tag w] }] ∧
        ∀ y ∈ (t.cores[c]).stall, c ∉ groupCores s y.1) ∧
    (∀ w : Word, ∃ t : State, exec (.queueWordPush c e false w true) s = .next t ∧
      ∀ x ∈ ((t.cores[c]).queues[e]).slots, x.order.isSome = true) ∧
    exec (.packetAbort c e) s = .next (modCore c (fun k => { k with queues := updAt k.queues e (fun q => rewindOpen q) }) s)) ∧
  (∀ (c : CoreId) (e : EngId) (ecc : Bool) (s : State) (x : QSlot) (cmd : EngCmd), nextPacket (s.cores[c]).queues[e] = some x →
    cmd = packetCmd s c e x ((physSet ((s.cores[c]).allocs[fin 8 (fld (x.words.headD 0) 13 3)]) (fld (x.words.headD 0) 3 2)).getD 0) →
    coreLive s c = true → engineParked s.cores[c] e = false → holdsTaken s.cores[c] e cmd.chan = false →
    (physSet ((s.cores[c]).allocs[fin 8 (fld (x.words.headD 0) 13 3)]) (fld (x.words.headD 0) 3 2)).any (setInUse s.cores[c] e) = false →
    (∀ h, packetChecks s c e (s.cores[c]).queues[e] x ecc = some h → exec (.packetTake c e ecc) s = .next (raiseHalt c h s)) ∧
    (packetChecks s c e (s.cores[c]).queues[e] x ecc = none → exec (.packetTake c e ecc) s = .next
      (haloLostWaits c <| progress c (modCore c (fun k => setTaken e cmd (modSet e cmd.set (applyRuns e (packetRuns 32 (x.words.drop 3))) { k with
        queues := updAt k.queues e (fun q => freeTaken { q with
          slots := q.slots.map (fun y => if y = x then { y with taken := true } else y) }) })) s)))) ∧
  (∀ (c : CoreId) (e : EngId) (freePtr : Bool) (a b : BitVec 6) (s : State), inService s c = true → a ≠ b → (s.cores[c]).phase = .live →
    ∃ t : State, exec (.queuePointerMismatch c e freePtr a b) s = .next t ∧ t = { s with cores := t.cores } ∧
      (∀ d : CoreId, d ≠ c → t.cores[d] = s.cores[d]) ∧ ((t.cores[c]).queues[e]).slots = [] ∧ (t.cores[c]).mem = (s.cores[c]).mem ∧
      (∀ ch : ChanId, holdsTaken t.cores[c] e ch = false) ∧
      (∃ h, (t.cores[c]).phase = .halting h none s.time ∧ h.code = 0x13 ∧ fld h.detail 0 3 = e.val ∧ fld h.detail 4 6 = a.toNat ∧
        fld h.detail 10 6 = b.toNat))

/-- What a control program does with the registers of its core (R217, R220, R221, R233, R235): a write of a token counter that it holds, a read and a
branch on a counter or a scalar, which the data of the last read shows, a wait, and the end of a wait once its condition holds. A counter beyond the
partition's count halts with HALT_TOKEN_RANGE. The control core goes on once what it waits for holds (R220); its program ends, or halts with
HALT_ILLEGAL_OP at an undefined encoding (R219, R249); a lockstep mismatch halts with HALT_LOCKSTEP (R215). The instruction banks (R242, R243, R258):
a write of the inactive bank stores its bytes and clears ready and the bank's segment; one of the active bank is ignored and counted; ready is set
once the bank holds the next segment: as the loader wrote it, or as the Lamplighter copies it from the program store, whose CRC is checked (a copy
that fails it leaves ready 0 and fails the job); at a switch point the program waits, and once ready it goes on in the other bank at its target; a
switch point without a next segment halts with HALT_ILLEGAL_OP at its address. The model's choices: the program's actions are commands (log 9), when a
lockstep mismatch is taken (log 45), and the part of the loader (log 32). -/
def Obligations.ControlCoreRuns : Prop :=
  (∀ (c : CoreId) (s : State), ctlRuns s c = true →
    (∀ (t : BitVec 6) (p : TokId), ctlTok s c t = .ok p →
      (∀ v : Half, ∃ u : State, exec (.ctlTokenWrite c t v) s = .next u ∧ tok u c p = v ∧
        (∀ x : TokId, x ≠ p → tok u c x = tok s c x) ∧ u = { s with cores := u.cores }) ∧
      exec (.ctlRead c (.tok t)) s = .next { s with busData := (tok s c p).setWidth 64 } ∧
      exec (.ctlBranch c (.tok t)) s = .next { s with busData := (tok s c p).setWidth 64 } ∧
      (∀ v : Half, exec (.ctlWait c (.tok t v)) s
        = .next (haloLostWaits c (modCtl c (fun x => { x with wait := .tok p v, waitFrom := s.time }) s)))) ∧
    (∀ r : BitVec 4, exec (.ctlRead c (.sc r)) s = .next { s with busData := ((s.cores[c]).sc[r.toNat]'(by omega)).setWidth 64 } ∧
      exec (.ctlBranch c (.sc r)) s = .next { s with busData := ((s.cores[c]).sc[r.toNat]'(by omega)).setWidth 64 }) ∧
    (∀ (e : EngId) (k : Nat), exec (.ctlWait c (.space e k)) s
      = .next (modCtl c (fun x => { x with wait := .space e k, waitFrom := s.time }) s)) ∧
    (∀ (t : BitVec 6) (v : Half) (h : HaltCond), ctlTok s c t = .error h → h.code = 8 ∧
      exec (.ctlTokenWrite c t v) s = .next (raiseHalt c h s) ∧ exec (.ctlRead c (.tok t)) s = .next (raiseHalt c h s) ∧
      exec (.ctlBranch c (.tok t)) s = .next (raiseHalt c h s) ∧ exec (.ctlWait c (.tok t v)) s = .next (raiseHalt c h s))) ∧
  (∀ (c : CoreId) (s : State),
    (coreLive s c = true → (s.cores[c]).ctl.running = true → ctlWaitHolds s.cores[c] = true →
      exec (.ctlWaitSatisfied c) s = .next (modCtl c (fun x => { x with wait := .none }) s)) ∧
    (ctlRuns s c = true → exec (.ctlProgramEnd c .ended) s = .next (modCtl c (fun x => { x with running := false, ended := true }) s) ∧
      ∀ (addr : BitVec 18) (w : Word), exec (.ctlProgramEnd c (.illegal addr w)) s
        = .next (raiseHalt c (haltCond 0x01 5 0 w) (modCtl c (fun x => { x with addr := addr }) s))) ∧
    (∀ cmp : BitVec 16, inService s c = true → (s.cores[c]).powered = true → (s.cores[c]).retained = false →
      exec (.ctlLockstepMismatch c cmp) s = .next (raiseHalt c (haltCond 0x0C 5 0 (put 0 (cmp.toNat % 16))) s))) ∧
  (∀ (c : CoreId) (s : State),
    (∀ (bank : Bool) (off : Nat) (data : List Byte), inService s c = true → (Instr.imemWrite c bank off data).wf →
      ((s.cores[c]).ctl.active = bank →
        exec (.imemWrite c bank off data) s = .next (modCtl c (fun x => { x with actWr := satAdd16 x.actWr 1 }) s)) ∧
      ((s.cores[c]).ctl.active ≠ bank → ∃ t : State, exec (.imemWrite c bank off data) s = .next t ∧
        t = { s with cores := s.cores.set c t.cores[c], safety := { s.safety with poison := t.safety.poison } } ∧
        (∀ x ∈ s.safety.poison, x ∉ t.safety.poison → x.1 = .bank c bank ∧ off ≤ x.2 ∧ x.2 + 8 ≤ off + data.length) ∧
        (t.cores[c]).ctl = { (s.cores[c]).ctl with ready := false, seen := false } ∧
        bankMem t.cores[c] bank = memStore (bankMem s.cores[c] bank) off data ∧ bankMem t.cores[c] (!bank) = bankMem s.cores[c] (!bank) ∧
        bankTag t.cores[c] bank = none)) ∧
    (inService s c = true →
      (nextSection s c = none → exec (.bankReady c) s = .next (modCtl c (fun x => { x with ready := true }) s)) ∧
      (∀ (n : Nat × Nat) (p : ProgSlot), nextSection s c = some n → progOf s n.1 = some p →
        (memBytes (bankMem s.cores[c] (!(s.cores[c]).ctl.active)) 0 (sect p.package n.2).len = sectBytes p.package n.2 →
          exec (.bankReady c) s = .next (modCtl c (fun x => { x with ready := true }) (tagBank c (!(s.cores[c]).ctl.active) (some n) s))) ∧
        (∀ (ok : Bool) (u : State), memBytes (bankMem s.cores[c] (!(s.cores[c]).ctl.active)) 0 (sect p.package n.2).len ≠ sectBytes p.package n.2 →
          (ok, u) = fillBank c (!(s.cores[c]).ctl.active) n.1 p n.2 (modCtl c (fun x => { x with ready := false }) s) →
          (ok = true ↔ meetsPoison s .staging (p.store + storeOff p.package n.2) (sect p.package n.2).len = false ∧
            (crc32c (memBytes s.staging (p.store + storeOff p.package n.2) (sect p.package n.2).len)).toNat = (sect p.package n.2).crc) ∧
          bankMem u.cores[c] (!(s.cores[c]).ctl.active) = memStore (bankMem s.cores[c] (!(s.cores[c]).ctl.active)) 0
            (memBytes s.staging (p.store + storeOff p.package n.2) (sect p.package n.2).len) ∧
          bankMem u.cores[c] (s.cores[c]).ctl.active = bankMem s.cores[c] (s.cores[c]).ctl.active ∧
          (ok = true → exec (.bankReady c) s = .next (modCtl c (fun x => { x with ready := true }) u)) ∧
          (ok = false → exec (.bankReady c) s = .next (failJob (s.cores[c]).ctl.job ⟨0, 1, 0⟩ u))))) ∧
    (∀ (at_ : BitVec 18) (word : Nat) (target : BitVec 17), ctlRuns s c = true →
      (∀ next : Nat × Nat, nextSection s c = some next → exec (.bankSwitchPoint c ⟨at_, word⟩ target) s = .next (modCore c (fun k => { k with
        queues := k.queues.map rewindOpen
        ctl := { k.ctl with
          wait := .bank, waitFrom := s.time, target := target, seen := false
          ready := k.ctl.ready && decide (bankTag k (!k.ctl.active) = some next) } }) s)) ∧
      (nextSection s c = none → exec (.bankSwitchPoint c ⟨at_, word⟩ target) s
        = .next (raiseHalt c (haltCond 0x01 5 0 (BitVec.ofNat 32 word)) (modCtl c (fun x => { x with addr := at_ }) s)))) ∧
    (coreLive s c = true → (s.cores[c]).ctl.wait = .bank → (s.cores[c]).ctl.ready = true →
      exec (.bankSwitch c) s = .next (modCtl c (fun x => { x with
        active := !x.active, seg := bankTag s.cores[c] (!x.active), ready := false, seen := true, wait := .none, running := true
        addr := BitVec.ofNat 18 (x.target.toNat + (if x.active then 0 else 2 ^ 17)) }) s)))

/-- The stall monitor (R237 to R239): a candle group that stands still halts every core with a countable wait with HALT_DEADLOCK when its count
reaches 65,536; the cycles that are left pass. The command names a core, whose group with the highest count it is (log 13). A halt is complete once
every engine has stopped (R244): the core is halted, the halt record registers hold the condition, its detail with a snuff's resume bits, the next
instruction, the second condition and the time (Table 10.10), its jobs fail (R279), and CORE_HALT is recorded, but not for a snuff, a core fault or
the halts whose record comes with their recovery; while writes of the job are outstanding the record waits for them (R20). A core fault leaves the
halt registers. How the model holds a core fault is log 76. -/
def Obligations.HaltsAreRecorded : Prop :=
  (∀ (c : CoreId) (g : Nat) (s : State), coreLive s c = true → g ∈ stallGroups s → c ∈ groupCores s g → standsStill s g = true →
    (∀ h ∈ stallGroups s, c ∈ groupCores s h → standsStill s h = true → h = g ∨ groupStall s h < groupStall s g) →
    ∃ t : State, exec (.stallMonitorExpiry c) s = .next t ∧
      t.time = s.time + (65536 - groupStall s g) * binPeriod s.safety.bin ∧ t = { s with time := t.time, cores := t.cores } ∧
      (∀ d ∈ groupCores s g, coreLive s d = true → countable s d (inGroup s g) = true →
        (t.cores[d]).phase = .halting (deadlockHalt s d (inGroup s g)) none t.time) ∧
      (∀ d ∈ groupCores s g, stallOf t.cores[d] g = 65536) ∧ (∀ d : CoreId, d ∉ groupCores s g → t.cores[d] = s.cores[d])) ∧
  (∀ (c : CoreId) (s : State) (h k : HaltCond) (second : Option HaltCond) (since : Nat), (s.cores[c]).phase = .halting h second since →
    k = { h with detail := recordDetail s.cores[c] h } → enginesStopped s.cores[c] = true → ∃ t : State, exec (.haltComplete c) s = .next t ∧
      (t.cores[c]) = { (s.cores[c]) with
        phase := .halted k
        ctl := { (s.cores[c]).ctl with addr := (haltAddr h c s).1 }
        halt := if h.code = 0 then (s.cores[c]).halt else haltRecord s s.cores[c] k second (haltAddr h c s).1 } ∧
      (∀ d : CoreId, d ≠ c → t.cores[d] = s.cores[d]) ∧
      (haltFails h = true → h.code ≠ 0x0C → ∀ j ∈ activeOn s c, j.fail = none →
        { j with fail := some ⟨h.code.toNat, if h.code = 0 then 1 else haltClass h, k.detail.toNat⟩ } ∈ t.host.jobs) ∧
      (h.code ≠ 0 → h.code ≠ 0x0F → h.code ≠ 0x14 → h.code ≠ 0x0C →
        (jobUnacked s (s.cores[c]).ctl.job = false → Posted s t 0x04) ∧
        (jobUnacked s (s.cores[c]).ctl.job = true → (findJob s (s.cores[c]).ctl.job).isSome = true → t.safety = s.safety ∧
          ∃ r : RecIn, r.code = 0x04 ∧ t.host.owed = s.host.owed ++ [((s.cores[c]).ctl.job, r)])) ∧
      (h.code = 0 ∨ h.code = 0x0F ∨ h.code = 0x0C → t.safety = s.safety ∧ t.dram = s.dram) ∧
      (RingsOff s → t.dram = s.dram) ∧ t.staging = s.staging ∧ t.time = s.time) ∧
  (∀ (c : CoreId) (h : HaltCond) (s : State), h.code = 0 ∨ (s.cores[c]).ctl.running = false ∨ (h.eng = 5 ∧ (h.code = 0x01 ∨ h.code = 0x0B)) →
    haltAddr h c s = ((s.cores[c]).ctl.addr, s))

/-- DX_CORE_CTRL (R246, Table 10.9): reset before halt_req before restart. A reset leaves the core in reset with its queues, counters, scalars,
monitors and resume records cleared and its sets and memories kept; halt_req snuffs it with cause 5; a restart lets a core that a snuff of cause 1 or
5 halted run on, its record no longer valid. The bit that acted reads back as 1 (Table 00.2; log 90). Only a secure access may write it (R13). -/
def Obligations.CoreControlActs : Prop :=
  ∀ (acc : Access) (c : CoreId) (s : State), acc.secure = true → inService s c = true →
    (inReset s.cores[c] = false → ∃ t : State, exec (.coreReset acc c) s = .next t ∧ (t.cores[c]).phase = .reset s.time ∧
      (t.cores[c]).ctrlReq = (s.cores[c]).ctrlReq ||| 2 ∧
      (t.cores[c]).mem = (s.cores[c]).mem ∧ (∀ e : EngId, setsOf t.cores[c] e = setsOf s.cores[c] e) ∧
      (∀ x : TokId, tok t c x = 0) ∧ (∀ e : EngId, ((t.cores[c]).queues[e]).slots = []) ∧ (∀ i : Fin 16, (t.cores[c]).sc[i] = 0) ∧
      (∀ i : Fin 512, (t.cores[c]).rm[i] = emptyRange) ∧ (t.cores[c]).mx.resume.valid = false ∧ (t.cores[c]).vx.resume.valid = false ∧
      (t.cores[c]).wx.resume.valid = false ∧ (t.cores[c]).fx.resumeValid = false ∧ (∀ ch : ChanId, (dxChan t c ch).resume.valid = false) ∧
      (∀ k : HaloId, hbEnabled (hbOf t c k) = false) ∧ (t.cores[c]).halo.credNext = 0 ∧ (t.cores[c]).halo.credPrev = 0 ∧
      (∀ path : HaloPath, creditOpen (t.cores[c]).halo path = false) ∧
      (∀ d : CoreId, d ≠ c → (t.cores[d]).mem = (s.cores[d]).mem ∧ (t.cores[d]).phase = (s.cores[d]).phase)) ∧
    exec (.haltReq acc c) s = .next (raiseHalt c (haltCond 0x0F 6 0 (put 0 5)) (modCore c (fun k => { k with ctrlReq := k.ctrlReq ||| 4 }) s)) ∧
    (∀ h : HaltCond, (s.cores[c]).phase = .halted h → h.code = 0x0F → (fld h.detail 0 4 = 1 ∨ fld h.detail 0 4 = 5) →
      (s.cores[c]).mx.redo = none → exec (.coreRestart acc c) s = .next (modCore c (fun k => mxRestart { k with
        ctrlReq := k.ctrlReq ||| 1, phase := .live, halt := { k.halt with info := k.halt.info &&& 0x7FFFFFFF } }) s))

/-- What the Lamplighter does with a failed core (R249, R279, R324): the core is reset and the other cores of its jobs are stopped; after an
uncorrectable fetch its bank is to be loaded anew; a lockstep halt has its record now, and retires the core where its self-test fails. A core reset
lasts 2 µs (R403); in the fatal hold the cores stay in reset (R398). The model's choices: the cause that CORE_RETIRED carries, 0x04 for a lockstep
mismatch (log 48), when that halt is recorded (log 45), and the stop of the other cores in the same step (log 11). -/
def Obligations.FailedCoreComesBack : Prop :=
  (∀ (c : CoreId) (ok : Bool) (s : State) (h : HaltCond), (s.cores[c]).phase = .halted h →
    ((activeOn s c).any failStops = true ∨ haltFails h = true) →
    (h.code ≠ 0x14 → h.code ≠ 0x0C → h.code ≠ 0x0B → exec (.coreRecoveryReset c ok) s = .next (coreReset c (stopOthers c s))) ∧
    (h.code = 0x0B → exec (.coreRecoveryReset c ok) s = .next (noteUncorr c (.bank c (bitAt h.detail 17)) (fld h.detail 0 17) 0x04
      (tagBank c (bitAt h.detail 17) none (coreReset c (stopOthers c s))))) ∧
    (h.code = 0x0C → exec (.coreRecoveryReset c ok) s = .next (if ok = true then coreReset c (stopOthers c (lockstepRecord c h ok s))
      else retireCore c 0x04 (coreReset c (stopOthers c (lockstepRecord c h ok s)))) ∧
      (jobUnacked s (s.cores[c]).ctl.job = false → Posted s (lockstepRecord c h ok s) 0x04))) ∧
  (∀ (c : CoreId) (ok : Bool) (s : State), (s.cores[c]).phase = .live → (activeOn s c).any failStops = true →
    exec (.coreRecoveryReset c ok) s = .next (coreReset c (snuffNow c 5 (stopOthers c s)))) ∧
  (∀ (c : CoreId) (s : State) (since : Nat), (s.cores[c]).phase = .reset since →
    (s.safety.fatal = false → exec (.coreResetDone c) s
      = .next { s with time := max s.time (since + us 2), cores := s.cores.set c { (s.cores[c]) with phase := .live } }) ∧
    (s.safety.fatal = true → exec (.coreResetDone c) s = .next s))

/-! ### Mailboxes and host objects (chapters 11 and 12) -/

/-- SEND and ACK (R265 to R267): a request sent while one is busy or its reply stands only sets overrun; otherwise the mailbox is busy and the request
waits its turn; one whose frame fails a check is answered with the status of R267, with no effect; ACK clears reply_valid and overrun. That a refused
frame is answered when its turn comes is the model's choice for the mailbox (log 10). -/
def Obligations.MailboxSendAndAck : Prop :=
  ∀ (acc : Access) (m : MboxId) (val : Word) (s : State), Passes acc s (mbOff m 0x40) true →
    exec (.mbAck acc m) s = .next (modMb m (fun x => { x with replyValid := false, overrun := false }) s) ∧
    (bitAt val 0 = false → exec (.mbSend acc m val) s = .next s) ∧
    (bitAt val 0 = true → ((mbOf s m).busy = true ∨ (mbOf s m).replyValid = true) →
      exec (.mbSend acc m val) s = .next (modMb m (fun x => { x with overrun := true }) s)) ∧
    (bitAt val 0 = true → (mbOf s m).busy = false → (mbOf s m).replyValid = false → s.host.sent = [] →
      (llServes s = false ∨ frameStatus s m (reqBytes (mbOf s m).req) = none → ∃ t : State, exec (.mbSend acc m val) s = .next t ∧
        t.host.sent = [m] ∧ mbOf t m = { mbOf s m with busy := true } ∧
        t = { s with host := { s.host with sent := [m], parts := t.host.parts, smBox := t.host.smBox } }) ∧
      (∀ st, llServes s = true → frameStatus s m (reqBytes (mbOf s m).req) = some st → ∃ t : State,
        exec (.mbSend acc m val) s = .next t ∧ t.host.sent = [] ∧
        mbOf t m = { mbOf s m with rep := frameWords (replyBytes (reqBytes (mbOf s m).req) st 0 []), busy := false, replyValid := true } ∧
        t = { s with host := { s.host with parts := t.host.parts, smBox := t.host.smBox, smIntStatus := t.host.smIntStatus } } ∧
        (∀ p : PartId, p.val = m.val → (t.host.parts[p]).intStatus = (s.host.parts[p]).intStatus ||| 1) ∧
        (m.val = 8 → t.host.smIntStatus = s.host.smIntStatus ||| 1)))

/-- MB_CAPS_READ stores the capability table at the translated address and answers the generation count; MB_PARTITION_CONFIG, where nothing refuses
it, gives the partition its enable, world, quotas, tags, and on each core its allocation, and leaves every other partition (R263, R264, R293). The
model's choices: C_eff 0 of a retired array (log 42), and what a new range of tags starts from (log 41). -/
def Obligations.CapsReadAndPartitionConfig : Prop :=
  ∀ (m : MboxId) (p : PartId) (b : List Byte) (s u : State),
    (Requested 0x01 none m p b s u → ∀ (spa : Nat) (v : State),
      hostTranslate p (u.host.parts[p]).secure (argAsid b) (arg b 8 8) true u = (some spa, v) →
      exec .mbCapsRead s = .next (reply m 0 0 (leBytes 4 u.host.genCount.toNat) { v with dram := memStore v.dram spa (capsTable u) })) ∧
    (Requested 0x10 none m p b s u → configRefused u p b = true → exec .mbPartitionConfig s = .next (reply m 5 0 [] u)) ∧
    (Requested 0x10 none m p b s u → configRefused u p b = false → ∃ t : State, exec .mbPartitionConfig s = .next t ∧
      (t.host.parts[p]).enabled = wantEnabled b ∧ (t.host.parts[p]).secure = wantSecure b ∧ (t.host.parts[p]).fenceQuota = arg b 10 2 ∧
      (t.host.parts[p]).tagBase = arg b 12 2 ∧ (t.host.parts[p]).tagCount = arg b 14 2 ∧ (t.host.parts[p]).queueQuota = arg b 18 2 ∧
      (∀ c : CoreId, (t.cores[c]).allocs[p] = wantAlloc b c) ∧
      (∀ q : PartId, q ≠ p → t.host.parts[q] = s.host.parts[q] ∧ ∀ c : CoreId, (t.cores[c]).allocs[q] = (s.cores[c]).allocs[q]) ∧
      t.dram = s.dram ∧ (mbOf t m).replyValid = true)

/-- R332 whole: MB_MARGIN_REPORT has no arguments (R267 checks that its bytes are zero) and answers the VOFS code, the clock bin, exhausted and the
pending bin change, the guard, each monitor's minimum since the last planner run, and the seconds since that run. -/
def Obligations.MarginReportAnswersTable : Prop :=
  ∀ (m : MboxId) (p : PartId) (b : List Byte) (s u : State), Requested 0x90 none m p b s u →
    (∀ i, 8 ≤ i → i < 64 → b[i]? = some 0) ∧
    ∃ results r : List Byte, exec .mbMarginReport s = .next (reply m 0 0 results u) ∧ r = replyBytes b 0 0 results ∧
      mbOf (reply m 0 0 results u) m = { mbOf s m with rep := frameWords r, busy := false, replyValid := true } ∧
      r[12]? = some (s.bnd.vofsCode.setWidth 8) ∧ r[13]? = some (s.safety.bin.setWidth 8) ∧
      r[14]? = some (BitVec.ofNat 8 (b2n s.safety.exhausted + 2 * b2n s.tick.binPend.isSome)) ∧
      r[15]? = some (marginGuard s) ∧ (∀ n : Fin 44, r[16 + n.val]? = some (s.safety.slack[n]).sinceRun) ∧
      frameNum r 60 4 = (nowUs s - s.safety.lastRun) / 1000000 % 2 ^ 32 ∧ r.length = 64

/-- Queues and address spaces (R270, R274, R290, R291): a queue is created with the lowest free number, within the quota; a destroyed one is disabled,
its unpulled packets are discarded and it is answered once its pulled jobs have ended; an ASID takes the partition's world, or is in use; a revoked
ASID is attached to nobody and in no translation cache. The model's choices: an unknown queue, or one whose destruction waits, in MB_QUEUE_DESTROY
(log 31), and a revocation's stops in one step (log 11). -/
def Obligations.QueueAndAsidRequests : Prop :=
  ∀ (m : MboxId) (p : PartId) (b : List Byte) (s u : State),
    (Requested 0x20 none m p b s u → ∀ qid, lowestFree (s.host.queues.map (fun q => q.qid)) 256 = some qid →
      s.host.queues.countP (fun q => decide (q.part = p)) < (s.host.parts[p]).queueQuota →
      exec .mbQueueCreate s = .next (reply m 0 0 (leBytes 1 qid) { u with host := { u.host with queues := u.host.queues ++
        [⟨qid, p, argAsid b, (s.host.parts[p]).secure, arg b 8 8, arg b 16 8, arg b 24 1, .enabled, 0, 0, none, none⟩] } })) ∧
    (Requested 0x20 none m p b s u → (s.host.parts[p]).queueQuota ≤ s.host.queues.countP (fun q => decide (q.part = p)) →
      exec .mbQueueCreate s = .next (reply m 4 0 [] u)) ∧
    (Requested 0x21 none m p b s u → ∀ q, findQueue u (arg b 8 1) = some q →
      (q.part ≠ p → exec .mbQueueDestroy s = .next (reply m 2 0 [] u)) ∧
      (q.part = p → q.destroy = none → exec .mbQueueDestroy s = .next (finishDestroy q.qid (modQueue q.qid (fun q => { q with destroy := some m })
        (settle (discardQueue q (disableQueue q.qid u))))))) ∧
    (Requested 0x30 none m p b s u → (∀ a ∈ s.host.asids, a.asid ≠ argAsid b) → exec .mbAsidAttach s = .next (reply m 0 0 []
      { u with host := { u.host with asids := u.host.asids ++ [⟨argAsid b, p, (s.host.parts[p]).secure, arg b 8 8⟩] } })) ∧
    (Requested 0x30 none m p b s u → (∃ a ∈ s.host.asids, a.asid = argAsid b) → exec .mbAsidAttach s = .next (reply m 5 0 [] u)) ∧
    (Requested 0x31 none m p b s u → ∃ t : State, exec .mbAsidRevoke s = .next t ∧ t = reply m 0 0 [] (revokeAsid p (argAsid b) u) ∧
      (∀ a ∈ t.host.asids, a.asid ≠ argAsid b) ∧ (∀ e ∈ t.host.tlb, e.asid ≠ argAsid b) ∧ (mbOf t m).replyValid = true)

/-- Packages (R255, R256, R269): a load reads the package and is answered at the end of its verification; while one is verified another is told
ST_BUSY; a package that fails is answered ST_VERIFY_FAIL with the check's number, one that passes enters the lowest free slot with a new handle and
its control segments go to the program store; an unload frees the slot of a handle in force. The model's choices: the order of the checks of LAYOUT
(log 61), the lowest place of the program store (log 32), and a package that cannot be read (log 29). -/
def Obligations.PackageRequests : Prop :=
  ∀ (m : MboxId) (p : PartId) (b : List Byte) (s u : State),
    (Requested 0x40 none m p b s u → s.host.verify.isSome = true → exec .mbProgramLoad s = .next (reply m 1 0 [] u)) ∧
    (Requested 0x40 none m p b s u → s.host.verify = none → ∀ (bs : List Byte) (v : State),
      loadBytes p (argAsid b) (arg b 8 8) (arg b 16 4) u = (some bs, v) →
      exec .mbProgramLoad s = .next { v with host := { v.host with verify := some ⟨m, (mbOf v m).req, p, argAsid b, bs⟩ } }) ∧
    (∀ (v : Verify) (w : State), s.host.verify = some v → w = { s with host := { s.host with verify := none } } →
      (∀ d, verifyPackage w v.part (arg (reqBytes v.req) 16 4) v.bytes = some d →
        exec .packageVerifyEnd s = .next (reply v.mbox 8 d [] w)) ∧
      (∀ (i : Fin 64) (a : Nat), verifyPackage w v.part (arg (reqBytes v.req) 16 4) v.bytes = none →
        (List.finRange 64).find? (fun i : Fin 64 => (s.host.slots[i]).part.isNone) = some i → storePlace w (storeBytes v.bytes).length = some a →
        exec .packageVerifyEnd s = .next (reply v.mbox 0 0 (leBytes 4 (((s.host.slots[i]).count + 1) % 2 ^ 26 * 64 + i.val))
          <| freshWords .staging [(a, (storeBytes v.bytes).length)] { w with
          staging := memStore s.staging a (storeBytes v.bytes)
          host := { w.host with
            slots := w.host.slots.set i ⟨((s.host.slots[i]).count + 1) % 2 ^ 26, v.asid, some v.part, v.bytes, arg (reqBytes v.req) 8 8, a⟩ } }))) ∧
    (Requested 0x41 none m p b s u → ∀ x, progOf u (arg b 8 4) = some x → x.part = some p →
      (slotInUse u (arg b 8 4 % 64) = true → exec .mbProgramUnload s = .next (reply m 5 0 [] u)) ∧
      (slotInUse u (arg b 8 4 % 64) = false → exec .mbProgramUnload s = .next (reply m 0 0 [] (unloadSlot (fin 64 (arg b 8 4)) u)))) ∧
    (Requested 0x41 none m p b s u → progOf u (arg b 8 4) = none → exec .mbProgramUnload s = .next (reply m 3 0 [] u))

/-- Fences (R282, R283, R346, R413): a record that is not yet cached is registered with its contents, the engine its home, and the lowest free fid; a
known one shares it; a release drops the registration unless a job names it; its owner clears err; a proxy is asked of its home and answered with the
home's reply. The model's choices: ext of a record whose err its owner clears (log 74), and how long a record stays cached (log 49). -/
def Obligations.FenceRequests : Prop :=
  ∀ (m : MboxId) (p : PartId) (b : List Byte) (s u : State),
    (Requested 0x50 (some 0) m p b s u → ∀ (addr fid : Nat) (v : State),
      hostTranslate p (u.host.parts[p]).secure (argAsid b) (arg b 16 8) true u = (some addr, v) →
      (∀ r ∈ v.host.regs, r.addr = addr → r.home = none → ¬ (r.part = p ∧ r.asid = argAsid b)) → freeFid v p = some fid →
      (∀ f, findFence v addr = some f →
        exec .fenceRegister s = .next (reply m 0 0 (leBytes 2 fid ++ [1]) (addReg p fid (argAsid b) addr v))) ∧
      (findFence v addr = none → memNat v.dram addr 16 / 2 ^ 66 % 2 ^ 14 = 0 → memNat v.dram addr 16 / 2 ^ 95 = 0 →
        exec .fenceRegister s = .next (reply m 0 0 (leBytes 2 fid ++ [0]) (addReg p fid (argAsid b) addr
          (writeThrough addr { v with host := { v.host with
          fences := v.host.fences ++ [⟨addr, BitVec.ofNat 64 (memNat v.dram addr 16), (memNat v.dram addr 16).testBit 64,
            (memNat v.dram addr 16).testBit 65, argAsid b, p, (v.host.parts[p]).secure, v.links.addr.toNat, [], true⟩] } }))))) ∧
    (Requested 0x50 (some 1) m p b s u → (findReg u p (arg b 10 2)).isSome = true →
      (fidNamed u p (arg b 10 2) = true → exec .fenceRelease s = .next (reply m 5 0 [] u)) ∧
      (fidNamed u p (arg b 10 2) = false → exec .fenceRelease s = .next (reply m 0 0 []
        (dropRegs (fun r => decide (r.part = p ∧ r.fid = arg b 10 2)) u)))) ∧
    (Requested 0x50 (some 2) m p b s u → ∀ (r : FenceReg) (f : Fence) (v : State), findReg u p (arg b 10 2) = some r → r.home = none →
      v = useFence r.addr u → findFence v r.addr = some f →
      (f.ownAsid = argAsid b → f.ownPart = p → f.err = true → exec .fenceClearError s = .next (reply m 0 0 []
        (settle (fenceChanged r.addr (modFence r.addr (fun x => { x with err := false, ext := true }) v))))) ∧
      (f.ownAsid ≠ argAsid b ∨ f.ownPart ≠ p → exec .fenceClearError s = .next (reply m 2 0 [] v))) ∧
    (Requested 0x50 (some 3) m p b s u → ∀ fid, arg b 9 1 ≠ s.links.addr.toNat → bitAt s.links.members (arg b 9 1) = true →
      islanded s = false →
      (routeCarries s (arg b 9 1) p = true → freeFid u p = some fid → exec .fenceRegisterProxy s = .next (sendMsg 2 3 (arg b 9 1) (arg b 12 2)
        [BitVec.ofNat 8 p.val, BitVec.ofNat 8 (b2n (s.host.parts[p]).secure)] { u with host := { u.host with proxies := u.host.proxies ++
          [⟨p, fid, argAsid b, arg b 9 1, arg b 12 2, 0, false, some (m, 0)⟩] } })) ∧
      (routeCarries s (arg b 9 1) p = false → exec .fenceRegisterProxy s = .next (reply m 2 0 [] u)))

/-- MB_TICK_CONFIG and MB_CANDLE_TABLE (R297, R299): a good configuration takes effect at once while the tick is stopped, else at the next tick;
entries of the shadow table are replaced, and a commit that passes its checks becomes the active table at the next tick. A request with enable 0 while
the tick runs stops it at the next tick (log 73). -/
def Obligations.TickAndCandleRequests : Prop :=
  ∀ (m : MboxId) (p : PartId) (b : List Byte) (s u : State),
    (Requested 0x60 none m p b s u → tickSourceOk u b = true → candleCheck u s.tick.active (BitVec.ofNat 20 (arg b 12 4)).toNat = none →
      (arg b 8 1 ≠ 0 ∨ (s.fabric.pins[0]).use = 2) →
      (s.tick.state = .stopped → exec .mbTickConfig s = .next (reply m 0 0 []
        (if bitAt (tickCtrl b) 0 then startTick (applyTickCfg (tickCtrl b) (BitVec.ofNat 20 (arg b 12 4)) u)
          else applyTickCfg (tickCtrl b) (BitVec.ofNat 20 (arg b 12 4)) u))) ∧
      (s.tick.state ≠ .stopped → exec .mbTickConfig s = .next (reply m 0 0 []
        { u with tick := { u.tick with pendCfg := some (tickCtrl b, BitVec.ofNat 20 (arg b 12 4)) } }))) ∧
    (Requested 0x61 none m p b s u → arg b 10 1 = 0 →
      exec .mbCandleTable s = .next (reply m 0 0 [] { u with tick := { u.tick with shadow := shadowWith u b } })) ∧
    (Requested 0x61 none m p b s u → arg b 10 1 ≠ 0 → candleCheck u (shadowWith u b) s.tick.period.toNat = none →
      exec .mbCandleTable s = .next (reply m 0 0 []
        { u with tick := { u.tick with shadow := shadowWith u b, commit := some (shadowWith u b, s.time) } }))

/-- MB_FABRIC_LOAD (R371, Table 16.6, Table 16.7): a load on a region that nothing refuses puts it into state 3 with its block RAM cleared and checks
the header; an unload gates the region; an abort of the running load ends it with code 10; the refusals are answered. MB_RESOURCE (R376 to R379): a
free resource is granted to the partition; its holder releases it, unless it is in use; a query names use, partition and region of the holder, 0xFF
for none. The detail of an aborted load, the frames applied before it, and the index that a failing frame's header names are the model's (log 35). -/
def Obligations.FabricAndResourceRequests : Prop :=
  (∀ (m : MboxId) (p : PartId) (b : List Byte) (s u : State),
    (Requested 0x70 (some 0) m p b s u → ∀ st, fabricRefusal u p (argRegion b) = some st → exec .fabricLoad s = .next (reply m st 0 [] u)) ∧
    (Requested 0x70 (some 0) m p b s u → fabricRefusal u p (argRegion b) = none → ∀ (w v : State) (h : List Byte),
      w = enterLoad ⟨1, argRegion b, m, p, argAsid b, arg b 16 8, arg b 24 4, none, 0, []⟩ u →
      hostRead w (w.host.parts[p]).secure (argAsid b) (arg b 16 8) 64 = (some h, v) →
      exec .fabricLoad s = .next (takeHeader h v) ∧ (v.fabric.regions[argRegion b]).state = 3 ∧
      (∀ l, v.fabric.load = some l → headerCheck { v.fabric with load := some { l with header := some h, got := 64 } } h l.region = none →
        takeHeader h v = modFabric (fun f => { f with load := some { l with header := some h, got := 64 } }) v)) ∧
    (Requested 0x70 (some 1) m p b s u → fabricRefusal u p (argRegion b) = none → exec .fabricUnload s = .next (reply m 0 0 []
      (bumpGen (modRegion (argRegion b) (fun r => { r with
        state := 1, powered := false, cmdReady := false, extId := 0, bram := [], config := [], crcs := [], logic := Logic.cold }) u)))) ∧
    (Requested 0x70 (some 2) m p b s u → ∀ l, s.fabric.load = some l → l.region = argRegion b →
      exec .fabricLoadAbort s = .next (reply m 0 0 [] (loadFail 10 l.applied.length u))) ∧
    (Requested 0x70 (some 2) m p b s u → s.fabric.load = none → exec .fabricLoadAbort s = .next (reply m 3 0 [] u))) ∧
  (∀ (m : MboxId) (p : PartId) (b : List Byte) (s u : State),
    (Requested 0xA0 (some 0) m p b s u →
      (∀ st, claimRefusal u m p (arg b 9 1) (arg b 10 1) (arg b 11 1) (fin 8 (arg b 12 1)) = some st →
        exec .resourceClaim s = .next (reply m st 0 [] u)) ∧
      (claimRefusal u m p (arg b 9 1) (arg b 10 1) (arg b 11 1) (fin 8 (arg b 12 1)) = none →
        exec .resourceClaim s = .next (reply m 0 0 [] (grant p (arg b 9 1) (arg b 10 1) (arg b 11 1) (fin 8 (arg b 12 1)) u)) ∧
        (arg b 9 1 = 1 → holderOf (grant p 1 (arg b 10 1) (arg b 11 1) (fin 8 (arg b 12 1)) u) 1 (arg b 10 1)
          = some (arg b 11 1 + 1, p.val, if arg b 11 1 = 0 then arg b 12 1 % 8 else 0)))) ∧
    (Requested 0xA0 (some 1) m p b s u → ∀ use owner region, holderOf u (arg b 9 1) (arg b 10 1) = some (use, owner, region) →
      (owner ≠ p.val → exec .resourceRelease s = .next (reply m 2 0 [] u)) ∧
      (owner = p.val → releaseBusy u p (arg b 9 1) (arg b 10 1) = true → exec .resourceRelease s = .next (reply m 5 0 [] u)) ∧
      (owner = p.val → releaseBusy u p (arg b 9 1) (arg b 10 1) = false →
        exec .resourceRelease s = .next (reply m 0 0 [] (freeResource (arg b 9 1) (arg b 10 1) u)) ∧
        holderOf (freeResource (arg b 9 1) (arg b 10 1) u) (arg b 9 1) (arg b 10 1) = none)) ∧
    (Requested 0xA0 (some 2) m p b s u → exec .resourceQuery s = .next (match holderOf u (arg b 9 1) (arg b 10 1) with
      | some (use, owner, region) => reply m 0 0 (leBytes 1 use ++ leBytes 1 owner ++ leBytes 1 region) u
      | none => reply m 0 0 [0, 0xFF, 0] u)))

/-- A doorbell counts packets or is rejected (R275); an enable of the fault ring empties it, and its tail moves only up to its head (R292). An
invalidation of an ASID of the partition waits behind the running ones; at its end no cached translation of the page, or of the whole ASID, is left;
nothing else changes (R273). The model's choices: an enable with an ASID that is not attached or a size out of range is ignored whole (log 30), and
what the translation cache keeps and an invalidation takes (log 63). -/
def Obligations.PartitionPageCommands : Prop :=
  (∀ (acc : Access) (p : PartId) (val : Word) (s : State),
    (Passes acc s (pageOff p 0x200) true →
      (findQueue s (fld val 0 8) = none → exec (.doorbell acc p val) s
        = .next (setPtInt p 0b10000 (modPart p (fun x => { x with dbReject := satAdd x.dbReject 1 }) s))) ∧
      (∀ q d, findQueue s (fld val 0 8) = some q → d = (fld val 16 16 + 65536 - q.submitted % 65536) % 65536 →
        (d = 0 → exec (.doorbell acc p val) s = .next s) ∧
        (d ≠ 0 → q.part = p → q.state = .enabled → q.submitted + d ≤ q.pulled + 2 ^ q.log2n → exec (.doorbell acc p val) s
          = .next (modQueue q.qid (fun x => { x with submitted := x.submitted + d }) s)) ∧
        (d ≠ 0 → (q.part ≠ p ∨ q.state ≠ .enabled ∨ q.pulled + 2 ^ q.log2n < q.submitted + d) → exec (.doorbell acc p val) s
          = .next (setPtInt p 0b10000 (modPart p (fun x => { x with dbReject := satAdd x.dbReject 1 }) s))))) ∧
    (Passes acc s (pageOff p 0x308) true → bitAt (s.host.parts[p]).frCtrl 0 = false →
      (bitAt val 0 = true → asidOf s p (fld val 1 6) = true → 7 ≤ fld val 8 4 → fld val 8 4 ≤ 12 →
        exec (.faultRingEnable acc p val) s
          = .next (modPart p (fun x => { x with frCtrl := val.setWidth 12 &&& 0xF7F, frHead := 0, frTail := 0 }) s)) ∧
      (bitAt val 0 = true → (asidOf s p (fld val 1 6) = false ∨ fld val 8 4 < 7 ∨ 12 < fld val 8 4) →
        exec (.faultRingEnable acc p val) s = .next s)) ∧
    (Passes acc s (pageOff p 0x308) true → bitAt (s.host.parts[p]).frCtrl 0 = true → bitAt val 0 = false →
      exec (.faultRingEnable acc p val) s
        = .next (modPart p (fun x => { x with frCtrl := (val.setWidth 12 &&& 0x07F) ||| (x.frCtrl &&& 0xF00) }) s)) ∧
    (Passes acc s (pageOff p 0x310) true →
      ((val - (s.host.parts[p]).frTail).toNat ≤ ((s.host.parts[p]).frHead - (s.host.parts[p]).frTail).toNat →
        exec (.faultRingTailWrite acc p val) s = .next (modPart p (fun x => { x with frTail := val }) s)) ∧
      (((s.host.parts[p]).frHead - (s.host.parts[p]).frTail).toNat < (val - (s.host.parts[p]).frTail).toNat →
        exec (.faultRingTailWrite acc p val) s = .next s))) ∧
  (∀ (acc : Access) (p : PartId) (val : Word) (s : State),
    (Passes acc s (pageOff p 0x600) true →
      (asidOf s p (fld val 0 6) = true → exec (.tlbInvalidate acc p val) s = .next { s with host := { s.host with
        tlbInv := s.host.tlbInv ++ [⟨p, fld val 0 6, bitAt val 6, (s.host.parts[p]).tlbVa.toNat / 4096⟩] } }) ∧
      (asidOf s p (fld val 0 6) = false → exec (.tlbInvalidate acc p val) s = .next s)) ∧
    (∀ (a b : List TlbInv) (t : TlbInv), s.host.tlbInv = a ++ t :: b → t.part = p → (∀ x ∈ a, x.part ≠ p) →
      ∃ u : State, exec (.tlbInvalidateDone p) s = .next u ∧
        u = { s with host := { s.host with tlbInv := a ++ b, tlb := u.host.tlb } } ∧
        (∀ e, e ∈ u.host.tlb ↔ e ∈ s.host.tlb ∧ ¬ (e.asid = t.asid ∧ (t.all = true ∨ e.index = t.page / 512 ^ e.below)))))

/-- The fence port (R286, R288): a signal to a registered record that nobody waits for or subscribes to advances the value or carries err, sets ext
and is written through; one that does not advance is counted as stale; one through a proxy goes to its home. An error response to a record's
write-through sets err and is recorded as FENCE_IO; one to its read also gives the fence the latest target that a wait holds, or 0 (R413). After such
a change every running candle-table entry with nothing left to pull ends (R302), and nothing else happens where none runs. That the change of a signal
sets ext is the model's reading (log 74). -/
def Obligations.SignalReachesFence : Prop :=
  (∀ (acc : Access) (p : PartId) (hi : Word) (s : State) (v : BitVec 64), Passes acc s (pageOff p 0x40C) true →
    v = hi ++ (s.host.parts[p]).fsigLo → (∀ q ∈ s.host.queues, q.head = none) →
    (fenceKey s p (s.host.parts[p]).fsigId.toNat = none →
      exec (.fencePortSignal acc p hi) s = .next (modPart p (fun x => { x with fsigReject := satAdd x.fsigReject 1 }) s)) ∧
    (∀ (a : Nat) (f : Fence), fenceKey s p (s.host.parts[p]).fsigId.toNat = some (.record a) → findFence s a = some f → f.cached = false →
      f.subs = [] → fenceRefused s f = false → exec (.fencePortSignal acc p hi) s = exec (.fencePortSignal acc p hi) (modFence a (fun x => { x with
        value := BitVec.ofNat 64 (memNat s.dram a 16), err := (memNat s.dram a 16).testBit 64, ext := (memNat s.dram a 16).testBit 65
        cached := true }) s)) ∧
    (∀ (a : Nat) (f : Fence), fenceKey s p (s.host.parts[p]).fsigId.toNat = some (.record a) → findFence s a = some f → f.cached = true →
        f.subs = [] →
      (advances f.value v = true → fenceRefused s f = false → exec (.fencePortSignal acc p hi) s = .next (endIdles
        { modFence a (fun x => { x with value := v, err := x.err || (s.host.parts[p]).fsigErr, ext := true }) s with
          dram := memStore s.dram a (fenceBytes { f with value := v, err := f.err || (s.host.parts[p]).fsigErr, ext := true }) })) ∧
      (advances f.value v = false → v ≠ f.value → (s.host.parts[p]).fsigErr = false → exec (.fencePortSignal acc p hi) s
        = .next (endIdles (modPart p (fun x => { x with fenceStale := satAdd x.fenceStale 1 }) s))) ∧
      (v = f.value → (s.host.parts[p]).fsigErr = false → exec (.fencePortSignal acc p hi) s = .next (endIdles s))) ∧
    (∀ (fid : Nat) (x : Proxy), fenceKey s p (s.host.parts[p]).fsigId.toNat = some (.proxy p fid) → findProxy s p fid = some x →
      (bitAt s.links.members x.engine = true → routeCarries s x.engine p = true → exec (.fencePortSignal acc p hi) s = .next (endIdles
        (sendMsg 2 1 x.engine x.homeFid (leBytes 8 v.toNat ++ [BitVec.ofNat 8 (b2n (s.host.parts[p]).fsigErr)]) s))) ∧
      (bitAt s.links.members x.engine = false ∨ routeCarries s x.engine p = false → exec (.fencePortSignal acc p hi) s = .next (endIdles s)))) ∧
  (∀ (a : BitVec 48) (f : Fence) (s : State), findFence s a.toNat = some f →
    (f.subs = [] → (∀ q ∈ s.host.queues, q.head = none) →
      exec (.fenceIoError ⟨a, false⟩) s = .next (endIdles (postRecord
        { code := 0x0D, fc := 1, toPart := some f.ownPart, unit := 9, index := f.ownPart.val, addr := a.toNat }
        (modFence a.toNat (fun x => { x with err := true, ext := true }) s))) ∧
      exec (.fenceIoError ⟨a, true⟩) s = .next (endIdles (postRecord
        { code := 0x0D, fc := 1, toPart := some f.ownPart, unit := 9, index := f.ownPart.val, addr := a.toNat }
        (modFence a.toNat (fun x => { x with value := 0, err := true, ext := true, cached := true }) s)))) ∧
    exec (.fenceIoError ⟨a, true⟩) s = .next (settle (fenceUnread f s)) ∧
    findFence (fenceUnread f s) a.toNat
      = some { f with value := (latestTarget s (.record a.toNat)).getD 0, err := true, ext := true, cached := true }) ∧
  (∀ s : State, (∀ e : EntryId, (runOf s e).state ≠ .running) → endIdles s = s)

/-- Jobs (R277 to R279): the oldest packet of an enabled queue is admitted as its head, or completes with the status of the first check of Table 12.7
that it fails; the pulling core of a running entry takes the chosen head and starts it, or completes it; a job all of whose parts are over ends. The
model's choices: a head one of whose waits has err completes at once (log 50), and the order of the checks of a dual-run package (log 62). -/
def Obligations.JobsFromAdmissionToEnd : Prop :=
  ∀ s : State,
    (∀ (qid : Byte) (q : HostQueue) (b : List Byte) (v : State), findQueue s qid.toNat = some q → q.state = .enabled → q.head = none →
      q.pulled < q.submitted → readPacket q q.pulled s = (some b, v) →
      (∀ n st, admissionCheck v q.part b = some (n, st) →
        exec (.jobAdmission qid) s = .next (settle (headEnd q b { st := st, detail := n } v))) ∧
      (admissionCheck v q.part b = none → pkt b 20 1 = 0 → exec (.jobAdmission qid) s
        = .next (settle (modQueue qid.toNat (fun x => { x with head := some ⟨b, pktWaits (useWaits q.part b v) x.part b⟩ })
          (useWaits q.part b v))))) ∧
    (∀ (c : CoreId) (qid : Byte) (e : EntryId) (q : HostQueue) (h : Head),
      (List.finRange 65).find? (fun e : EntryId => mayPull s e && decide (pullingCore s e = some c)) = some e →
      choosePull s e = some q → q.head = some h → q.qid = qid.toNat → coreTakes s q.part c = true →
      (∀ plan, pullPlan s e h.packet = .ok plan → (∀ d ∈ plan.cores ++ plan.twins.map (fun t => t.2), coreTakes s q.part d = true) →
        ∃ t : State, exec (.jobPull c qid) s = .next t ∧ t = startJob e q h.packet plan s ∧ t.host.nextJob = s.host.nextJob + 1 ∧
          (∃ j ∈ t.host.jobs, j.id = s.host.nextJob ∧ j.packet = h.packet ∧ j.qid = q.qid ∧ j.seq = q.pulled ∧ j.phase = .running ∧
            j.variant = plan.variant ∧ j.cores.map (fun x => x.core) = plan.cores ++ plan.twins.map (fun t => t.2)) ∧
          t.host.queues = s.host.queues.map (fun x => if x.qid = q.qid then { x with head := none, pulled := x.pulled + 1 } else x)) ∧
      (∀ st variant, pullPlan s e h.packet = .error (st, variant) → exec (.jobPull c qid) s = .next (settle (headEnd q h.packet
        { st := st, variant := variant } { s with host := { s.host with rrLast := updAt s.host.rrLast q.part (fun _ => q.qid) } })))) ∧
    (∀ (id : Nat) (j : Job), findJob s id = some j →
      (jobOver s j = false → exec (.jobEnd id) s = .next s) ∧
      (jobOver s j = true → j.fail = none → (∀ x ∈ j.cores, (s.cores[x.core]).ctl.overran = false) →
        (j.twins = [] ∨ dualDiffers s j = none → ∃ t : State, exec (.jobEnd id) s = .next t ∧ t = jobComplete j {} s ∧
          ∀ x ∈ t.host.jobs, x.id ≠ j.id) ∧
        (∀ c b ch, j.twins ≠ [] → dualDiffers s j = some (c, b, ch) → exec (.jobEnd id) s = .next (jobComplete j
          { failed := true, fc := 1, detail := b + ch * 2 ^ 8 + c.val * 2 ^ 10 }
          (dualFailed j (b + ch * 2 ^ 8 + c.val * 2 ^ 10) s)))))

/-! ### Records, ticks, protection (chapters 13 and 14) -/

/-- A record takes the next number, its entry of the secure log and its place in its class's count (R312, R313, R333); one for a partition goes to
that partition's ring alone, at the entry its head names, or is lost where the ring is full, off or unmapped, or where its write meets an error
response (log 20) (R292); a dangerous one stops KSAFE (R318). The units that records name are log 75. -/
def Obligations.RecordIsPosted : Prop :=
  ∀ (r : RecIn) (s t : State), t = postRecord r s →
    t.safety.seq = s.safety.seq + 1 ∧ t.safety.logHead = s.safety.logHead + 1 ∧
    t.safety.log[fin 64 s.safety.seq.toNat] = recordBits { r with fc := recordedClass r s } s.safety.seq.toNat (nowUs s) ∧
    (∀ k : Fin 64, k ≠ fin 64 s.safety.seq.toNat → t.safety.log[k] = s.safety.log[k]) ∧
    (r.event = false → r.fc < 6 → t.safety.fcCount[(fin 6 (recordedClass r s) : Fin 6)]
      = satAdd (s.safety.fcCount[(fin 6 (recordedClass r s) : Fin 6)]) 1) ∧
    (r.event = true → t.safety.fcCount = s.safety.fcCount) ∧
    (r.dangerous = true → t.safety.stopped = true ∧ t.bnd.ksafeA = false ∧ t.bnd.ksafeB = false) ∧
    (∀ p : PartId, r.toPart = some p →
      (∀ q : PartId, q ≠ p → t.host.parts[q] = s.host.parts[q]) ∧
      (bitAt (s.host.parts[p]).frCtrl 0 = false → t.dram = s.dram ∧
        t.host.parts[p] = { (s.host.parts[p]) with
          frLost := satAdd (s.host.parts[p]).frLost 1, intStatus := (s.host.parts[p]).intStatus ||| 0b01000 }) ∧
      (∀ (spa : Nat) (world : Bool) (v : State), bitAt (s.host.parts[p]).frCtrl 0 = true →
        ((s.host.parts[p]).frHead - (s.host.parts[p]).frTail).toNat ≠ 2 ^ fld (s.host.parts[p]).frCtrl 8 4 →
        translate s (s.host.parts[p]).secure (fld (s.host.parts[p]).frCtrl 1 6) ((s.host.parts[p]).frBase.toNat
          + 32 * ((s.host.parts[p]).frHead.toNat % 2 ^ fld (s.host.parts[p]).frCtrl 8 4)) true = (.ok spa world, v) →
        ((meetsErr .ring v).1 = false → t.host.parts[p] = { (s.host.parts[p]) with
            frHead := (s.host.parts[p]).frHead + 1, intStatus := (s.host.parts[p]).intStatus ||| 0b00100 } ∧
          t.dram = memStore s.dram spa (leBytes 32 (recordBits { r with fc := recordedClass r s } s.safety.seq.toNat (nowUs s)).toNat)) ∧
        ((meetsErr .ring v).1 = true → t.host.parts[p] = { (s.host.parts[p]) with
          frLost := satAdd (s.host.parts[p]).frLost 1, intStatus := (s.host.parts[p]).intStatus ||| 0b01000 }))) ∧
    t.cores = s.cores ∧ t.links = s.links ∧ t.fabric = s.fabric ∧ t.tick = s.tick ∧ t.time = s.time ∧ t.staging = s.staging

/-- R311 whole: a third FC_ENGINE fault within 10 s of CK_TICK time of the first is recorded as FC_FATAL instead, whether or not the warm restarts in
between completed: what is remembered of the faults before survives a warm restart, and a fault at FC_FATAL holds the engine, so that it never cycles.
-/
def Obligations.ThirdEngineFaultIsFatal : Prop :=
  (∀ (r : RecIn) (s : State), r.event = false → r.fc = 4 → s.safety.fatal = false →
    (2 ≤ (s.safety.engTimes.filter (fun t => decide (nowUs s ≤ t + 10000000))).length →
      (postRecord r s).safety.fatal = true ∧ recordedClass r s = 5) ∧
    ((s.safety.engTimes.filter (fun t => decide (nowUs s ≤ t + 10000000))).length < 2 →
      (postRecord r s).safety.fatal = false ∧ recordedClass r s = 4 ∧ (postRecord r s).safety.engTimes.length ≤ 2 ∧
      nowUs s ∈ (postRecord r s).safety.engTimes)) ∧
  (∀ (by_ : Option (Fin 9)) (kind code : Nat) (s : State), (∀ x ∈ s.host.owed, x.2.fc < 4) → imageHolds (warmSnuff (warmStop s)) = true →
    (warmRestart by_ kind code s).safety.engTimes = s.safety.engTimes) ∧
  (∀ s : State, s.safety.fatal = true → canRestart s = false)

/-- The tick (R295, R296, R302): the oldest source event is taken, or counted as early where less than half a period has passed; a tick on which
nothing gutters begins every valid entry anew, and 1.5 periods without one, then every period, synthesise it. The engine's own timer, the watchdog and
holdover (R295, R240): an expiry of the timer is a source event a period after the last tick; without a source in time the watchdog posts
TICK_HOLDOVER (R296) and the tick is synthesised, in holdover every period. The link tick (R344): the root sends a marker at its source event and
takes the tick after L_sys; a new marker is forwarded, and a member whose source is the link takes its tick TK_LINK_COMP later; one that comes early
is counted. Source events wait in a list until the tick takes the oldest (the model's choice, log 53); what the root in engine 0's place does is log
22. -/
def Obligations.TicksComeAndAreKeptUp : Prop :=
  (∀ (s : State) (t : Nat) (rest : List Nat) (v : State), s.tick.raised = t :: rest → v = { s with tick := { s.tick with raised := rest } } →
    (s.tick.state = .stopped → exec .tickSourceEvent s = .next v) ∧
    (holdoverRoot s = true → exec .tickSourceEvent s = .next v) ∧
    (s.tick.state ≠ .stopped → holdoverRoot s = false → t < s.tick.last + us s.tick.period.toNat / 2 →
      exec .tickSourceEvent s = .next { v with tick := { v.tick with early := satAdd s.tick.early 1 } }) ∧
    (s.tick.state = .locked → holdoverRoot s = false → s.tick.last + us s.tick.period.toNat / 2 ≤ t → tickRoot s = false → ∃ u : State,
      exec .tickSourceEvent s = .next u ∧ u.tick.last = t ∧ u.tick.subAt = t ∧
      (QuietTick s → u.time = max s.time t ∧ u.tick.state = .locked ∧ u.tick.count = s.tick.count + 1 ∧ u.tick.gutters = s.tick.gutters ∧
          u.tick.active = s.tick.active ∧
        ∀ i : Fin 64, (u.tick.runs[i]).state = if bitAt (s.tick.active[i]) 0 then .pending else .invalid)) ∧
    (s.tick.state = .holdover → holdoverRoot s = false → s.tick.last + us s.tick.period.toNat / 2 ≤ t → tickRoot s = false →
      exec .tickSourceEvent s = .next (takeTick t
      { postRecord { event := true, code := 0x04, detail := fld s.tick.ctrl 1 2 } v with tick := { v.tick with state := .locked } })) ∧
    (s.tick.state ≠ .stopped → s.tick.last + us s.tick.period.toNat / 2 ≤ t → tickRoot s = true → fld s.tick.ctrl 1 2 ≠ 3 →
      exec .tickSourceEvent s = .next (sendMarkers { v with links := { v.links with
        markerDue := some (t + nsec s.links.tickSys.toNat), markerAt := t } }))) ∧
  (∀ s : State,
    (s.tick.state ≠ .stopped → fld s.tick.ctrl 1 2 = 1 → s.tick.raised = [] → exec .tickTimerExpiry s = .next { s with
      time := max s.time (s.tick.last + us s.tick.period.toNat)
      tick := { s.tick with raised := [max s.time (s.tick.last + us s.tick.period.toNat)] } }) ∧
    (∀ t : Nat, t = s.tick.last + us s.tick.period.toNat * 3 / 2 → s.tick.state = .locked → sourceArrived s t = false → QuietTick s →
      ∃ u : State, exec .tickWatchdogExpiry s = .next u ∧ Posted s u 0x03 ∧ u.tick.state = .holdover ∧ u.tick.synth = satAdd s.tick.synth 1 ∧
          u.tick.last = t ∧
        u.time = max s.time t ∧ bitAt u.bnd.gintStatus 4 = true) ∧
    (∀ t : Nat, t = s.tick.last + us s.tick.period.toNat → s.tick.state = .holdover → sourceArrived s t = false → QuietTick s →
      ∃ u : State, exec .holdoverTick s = .next u ∧ u.tick.state = .holdover ∧ u.tick.synth = satAdd s.tick.synth 1 ∧ u.tick.last = t ∧
        u.time = max s.time t ∧ bitAt u.bnd.gintStatus 4 = true)) ∧
  (∀ s : State,
    (∀ (l : LinkId) (at_ : Nat) (count : Word), receives s l = true → s.links.sys = 2 → count ≠ s.links.tickFwd → ∃ t : State,
      exec (.linkTickMarker l at_ count) s = .next t ∧ t.links.tickFwd = count ∧ t.time = max s.time at_ ∧ t.tick = s.tick ∧
      t.cores = s.cores ∧ t.links.markerDue = (if fld s.tick.ctrl 1 2 = 3 then some (t.time + nsec s.tick.linkComp.toNat)
        else s.links.markerDue) ∧ (fld s.tick.ctrl 1 2 = 3 → t.links.markerAt = t.time)) ∧
    (∀ (l : LinkId) (at_ : Nat), exec (.linkTickMarker l at_ s.links.tickFwd) s = .next s) ∧
    (∀ (t : Nat) (v : State), s.links.markerDue = some t → v = { s with time := max s.time t, links := { s.links with markerDue := none } } →
      (s.tick.state = .stopped → exec .linkTickDue s = .next v) ∧
      (s.tick.state ≠ .stopped → t < s.tick.last + us s.tick.period.toNat / 2 →
        exec .linkTickDue s = .next { v with tick := { v.tick with early := satAdd v.tick.early 1 } }) ∧
      (s.tick.state = .locked → s.tick.last + us s.tick.period.toNat / 2 ≤ t → exec .linkTickDue s = .next (takeTick t v))))

/-- A pending entry whose start has passed runs when nothing goes first (R302): it pre-empts the holders of its cores, which are of lower priority; a
paused job runs on when no running entry holds its cores (R303). An entry whose budget is spent gutters while its job is not over, and is counted and
posted; under the continue policy its job is demoted, else its cores halt with HALT_OVERRUN, and a job that a snuff has stopped has failed (R305).
Without a job it has ended. A core whose last rows drain passes to the next entry (R306). The model's choices: where a pre-empted job's core context
stands (log 27), and an entry that still runs at a tick (log 33). -/
def Obligations.CandlesRun : Prop :=
  (∀ (e : EntryId) (s v w : State), v = { s with time := max s.time (startTime s e) } → entryValid s e = true → s.tick.relock = none →
    s.tick.binDue = false → w = forAll (holders v e) preempt v →
    (s.tick.state ≠ .stopped → (runOf s e).state = .pending → outranked v e = false →
      (∀ f ∈ holders v e, enPrio (entryBits s f) < enPrio (entryBits s e)) → demotedOn w (enCores w e) = [] → demotedOf w e = none →
      exec (.candleStart e) s = .next (endIdles (modRun e (fun r => { r with state := .running, since := w.time }) w)) ∧
      (enHold (entryBits w e) = true →
        (runOf (endIdles (modRun e (fun r => { r with state := .running, since := w.time }) w)) e).state = .running)) ∧
    (s.tick.state ≠ .stopped → (runOf s e).state = .pending → (∃ f ∈ holders v e, enPrio (entryBits s e) ≤ enPrio (entryBits s f)) →
      exec (.candleStart e) s = .next s) ∧
    (∀ j : Job, findJob s j.id = some j → entryOf j = e → j.phase = .paused → (runOf s e).state = .paused → holders s e = [] →
      demotedOn s (enCores s e) = [] → ∃ t u : State, u = resumeJob j s ∧ exec (.preemptRestart j.id) s = .next t ∧
        t = modRun e (fun r => { r with state := .running, since := u.time }) (modJob j.id (fun x => { x with phase := .running }) u))) ∧
  (∀ (e : EntryId) (s : State) (d : Nat), entryValid s e = true → (runOf s e).state = .running → (runOf s e).since ≤ s.time →
    d = us (enBudget (entryBits s e)) - elapsedOf s e →
    (entryJob s e = none → exec (.candleEnded e) s = .next (modRun e (fun r => { r with
      state := .ended, full := true, elapsed := max (us (enBudget (entryBits s e))) (elapsedOf s e) }) { s with time := s.time + d })) ∧
    (∀ j : Job, entryJob s e = some j → jobOver s j = false → j.phase = .running → ∃ t : State,
      exec (.candleGutter e) s = .next t ∧ t.time = s.time + d ∧ t.tick.gutters = satAdd s.tick.gutters 1 ∧
      (enContinue (entryBits s e) = true → Posted s t 0x06 ∧ (runOf t e).state = .demoted ∧ (runOf t e).full = true ∧
        (∀ x ∈ t.host.jobs, x.id = j.id → x.phase = .demoted) ∧ t.cores = s.cores) ∧
      (enContinue (entryBits s e) = false → Posted s t 0x06 ∧ (runOf t e).state = .guttered ∧
        (∀ c ∈ jobHolds j, (s.cores[c]).phase = .live → ∃ h second, (t.cores[c]).phase = .halting h second t.time ∧ h.code = 0x10) ∧
        ((∃ c ∈ jobHolds j, coreHalted s.cores[c] = true) → j.fail = none →
          { j with fail := some ⟨0x10, 1, gutterDetail { s with time := s.time + d } e⟩ } ∈ t.host.jobs))) ∧
    (∀ j : Job, entryJob s e = some j → jobOver s j = true → exec (.candleGutter e) s = .next s) ∧
    (∀ (c : CoreId) (j : Job), findJob s (s.cores[c]).ctl.job = some j → coreLive s c = true → partActive j c = true →
      drainsOnly s.cores[c] j.id = true → (s.cores[c]).ctl.overran = false →
      (∃ f : EntryId, entryValid s f = true ∧ ((runOf s f).state = .pending ∨ (runOf s f).state = .running) ∧ f ≠ entryOf j ∧
        enCore (entryBits s f) c = true ∧ enPart (entryBits s f) ≠ j.part) →
      exec (.handover c) s = .next (modJob j.id (fun x => { x with
        cores := x.cores.map (fun y => if y.core = c then { y with handed := true } else y) }) s)))

/-- Lamp tests (R107, R307, R321): a due test begins on the powered arrays and discards their planes; after 511 enabled cycles a core that all its
tested arrays pass runs on; one with a failing array halts with HALT_LAMP_FAIL, which names them; a tick's test that waited behind another is due
then. The sub-timer asks for tests every 50 ms of a longer period. A gated array that the tables need powers up in 2 µs; one that a started or taken
MX command names powers up with every gated array the command names, each posted, and takes its lamp test first (R308). The model's choices: the
planes go as the test begins (log 19), a deferred test begins in the step of its snuff (log 11) and its core runs on by itself (log 47), and a wake
waits behind another test (log 46). -/
def Obligations.LampTestsAndWakes : Prop :=
  (∀ (c : CoreId) (s : State),
    (∀ since d : Nat, (s.cores[c]).lamp = .due since d → s.tick.binDue = false → inReset s.cores[c] = false →
      (mxQuiet s.cores[c] = true → exec (.lampTestStart c) s = .next (modCore c (fun k => if lampArrays s c = 0 then { k with lamp := .idle }
        else { dropPlanes (lampArrays s c) k with lamp := .running k.enabled (lampArrays s c) (decide (d ≠ 0)) }) s)) ∧
      (mxQuiet s.cores[c] = false → exec (.lampTestStart c) s = .next s) ∧
      (mxQuiet s.cores[c] = false → d ≠ 0 →
        exec (.lampDeferExpiry c) s = .next (beginLamp c true (modCore c (fun k => { k with lampOwn := decide ((s.cores[c]).phase = .live) })
          (snuffNow c 1 { s with time := max s.time (since + us d) }))))) ∧
    (∀ (failing : BitVec 32) (since : Nat) (mask : BitVec 4) (tick : Bool), (s.cores[c]).lamp = .running since mask tick →
      511 ≤ (s.cores[c]).enabled - since → (s.cores[c]).phase = .live →
      (failedArrays mask failing = [] → ∃ t : State, exec (.lampVerdict c failing) s = .next t ∧
        (t.cores[c]).lamp = (match (s.cores[c]).lampNext with | some x => .due x.1 x.2 | none => .idle) ∧
        t.safety.lampPass = (s.safety.lampPass || tick) ∧ (t.cores[c]).phase = .live ∧ t.safety.seq = s.safety.seq ∧
        (∀ a : ArrId, bitAt mask a.val = true → arrayInService s c a = true → t.safety.lampOk[(fin 24 (4 * c.val + a.val) : Fin 24)] = s.time) ∧
        (∀ d : CoreId, d ≠ c → t.cores[d] = s.cores[d]) ∧ (t.cores[c]).mem = (s.cores[c]).mem) ∧
      (failedArrays mask failing ≠ [] → ∃ (t : State) (h : HaltCond), exec (.lampVerdict c failing) s = .next t ∧
        (t.cores[c]).phase = .halting h none s.time ∧ h.code = 0x14 ∧ fld h.detail 4 1 = b2n tick ∧
        (∀ a : ArrId, bitAt h.detail a.val = decide (a ∈ failedArrays mask failing)) ∧
        (t.cores[c]).lamp = (match (s.cores[c]).lampNext with | some x => .due x.1 x.2 | none => .idle) ∧
        (∀ g : Fin 32, bitAt mask (g.val / 8) = true → bitAt failing g.val = true → bitAt (t.cores[c]).lampBad g.val = true) ∧
        t.safety.lampPass = s.safety.lampPass ∧
        (jobUnacked s (s.cores[c]).ctl.job = false → t.safety.seq = s.safety.seq + BitVec.ofNat 16 (failedArrays mask failing).length))) ∧
    (s.tick.state ≠ .stopped → 50000 < s.tick.period.toNat → exec .lampSubtimerExpiry s = .next (togglePoint (lampsDue { s with
      time := max s.time (s.tick.subAt + us 50000), tick := { s.tick with subAt := max s.time (s.tick.subAt + us 50000) } })))) ∧
  (∀ (c : CoreId) (a : ArrId) (s : State), arrayInService s c a = true → (s.cores[c]).powered = true → (s.cores[c]).retained = false →
    bitAt s.tick.gated (4 * c.val + a.val) = true →
    (wakingCmd s c a = none → wakeNeeded s c a = true → ∃ t : State, exec (.arrayWake c a) s = .next t ∧ t.time = s.time + us 2 ∧
      ((t.cores[c]).arrays[a]).powered = true ∧ bitAt t.tick.gated (4 * c.val + a.val) = false ∧ t.safety.seq = s.safety.seq ∧
      (∀ b : ArrId, b ≠ a → (t.cores[c]).arrays[b] = (s.cores[c]).arrays[b]) ∧ (t.cores[c]).mem = (s.cores[c]).mem) ∧
    (wakingCmd s c a = none → wakeNeeded s c a = false → exec (.arrayWake c a) s = .next s) ∧
    (∀ x mask, wakingCmd s c a = some (x, mask) → (s.cores[c]).lamp = .idle → ∃ t : State, exec (.arrayWake c a) s = .next t ∧
      t.time = s.time + us 2 ∧ (t.cores[c]).lamp = .running (s.cores[c]).enabled (gatedOf s c mask) false ∧
      (∀ b : ArrId, bitAt (gatedOf s c mask) b.val = true → ((t.cores[c]).arrays[b]).powered = true ∧
        bitAt t.tick.gated (4 * c.val + b.val) = false) ∧
      t.safety.seq = s.safety.seq + BitVec.ofNat 16 (popcount 4 (gatedOf s c mask).toNat)))

/-- The diagnosis of a failing group (R324): the faulty column joins the staged bypass map while fewer than 8 are bypassed, otherwise the array is
retired; with the last group's outcome the core is reset. Scrub and write-back (R320): a visit that corrects is counted; an uncorrectable word is
recorded and its word is poisoned, in every memory; a repeat at a word of core memory, a weight buffer or an instruction bank retires the core, one of
an accumulator its array (R324); an instruction bank holds no segment any more; the Lamplighter's memory raises LL_MEM, FC_ENGINE; and one in a
partition's state is PART_STATE and resets the partition (Tables 14.1, 14.3; log 66 for where that state stands); a corrected read is counted, and a
second correction before the next visit is recorded as CORR_REPEAT. A word that a write covers whole is good again. The model's choices: what physics
finds is the command's operand (log 8), a corrected read and its write-back are one command (log 56), and the details of retirements (logs 48, 88). -/
def Obligations.DiagnosisAndScrub : Prop :=
  (∀ (c : CoreId) (a : ArrId) (s : State) (h : HaltCond), arrayInService s c a = true → (s.cores[c]).phase = .halted h →
    fld (s.cores[c]).lampBad (8 * a.val) 8 ≠ 0 →
    (∀ j : Fin 128, replayLimited s.cores[c] = false → bitAt (s.cores[c]).lampBad (8 * a.val + j.val / 16) = true →
      bitAt ((s.cores[c]).arrays[a]).staged j.val = false → popcount 128 ((s.cores[c]).arrays[a]).staged.toNat < 8 → ∃ t u : State,
      exec (.columnDiagnosis c a (some j)) s = .next t ∧ t = diagnosed c u ∧ Posted s u 0x08 ∧ u.host.genCount = s.host.genCount + 1 ∧
      ((u.cores[c]).arrays[a]).staged = ((s.cores[c]).arrays[a]).staged ||| BitVec.ofNat 128 (2 ^ j.val) ∧
      bitAt (u.cores[c]).lampBad (8 * a.val + j.val / 16) = false ∧ (u.cores[c]).phase = .halted h ∧
      (∀ d : CoreId, d ≠ c → u.cores[d] = s.cores[d])) ∧
    (∀ j : Fin 128, replayLimited s.cores[c] = false → bitAt (s.cores[c]).lampBad (8 * a.val + j.val / 16) = true →
      bitAt ((s.cores[c]).arrays[a]).staged j.val = false → 8 ≤ popcount 128 ((s.cores[c]).arrays[a]).staged.toNat →
      exec (.columnDiagnosis c a (some j)) s = .next (diagnosed c (retireArray c a 0x07 s))) ∧
    exec (.columnDiagnosis c a none) s = .next (diagnosed c (retireArray c a 0x07 s)) ∧
    ∃ u : State, u = retireArray c a 0x07 s ∧ ((u.cores[c]).arrays[a]).retired = true ∧ (arraysLeft u c < 2 → (u.cores[c]).retired = true)) ∧
  (∀ (m : MemName) (off : Nat) (s : State), wordThere s m off = true → off + 8 ≠ memSize m →
    ((m, off) ∉ s.safety.poison → ∃ t : State, exec (.scrubVisit m off .clean) s = .next t ∧ (m, off) ∉ t.safety.corrected ∧
      t = { s with safety := { s.safety with corrected := t.safety.corrected } }) ∧
    ((m, off) ∉ s.safety.poison → ∃ t : State, exec (.scrubVisit m off .corrected) s = .next t ∧ (m, off) ∈ t.safety.corrected ∧
      t = { s with safety := { s.safety with corrected := t.safety.corrected, corr := satAdd s.safety.corr 1 } }) ∧
    (∀ found : EccFinding, (m, off) ∈ s.safety.poison → exec (.scrubVisit m off found) s = exec (.scrubVisit m off .uncorrectable) s) ∧
    (m = .staging → ∃ t : State, exec (.scrubVisit m off .uncorrectable) s = .next t ∧ Posted s t 0x02 ∧ (m, off) ∈ t.safety.poison ∧
      t.cores = s.cores ∧ t.staging = s.staging) ∧
    (∀ (c : CoreId) (z : RegionId) (l : LinkId), m = .curve c ∨ m = .dmem c ∨ m = .bram z ∨ m = .replayBuf l → ∃ t : State,
      exec (.scrubVisit m off .uncorrectable) s = .next t ∧ Posted s t 0x02 ∧ (m, off) ∈ t.safety.poison ∧ t.cores = s.cores ∧
      t.staging = s.staging ∧ t.fabric = s.fabric ∧ t.links = s.links) ∧
    (∀ c : CoreId, m = .acc c → (m, off) ∉ s.safety.poison → ∃ u v : State, Posted s u 0x02 ∧ (m, off) ∈ u.safety.poison ∧ u.cores = s.cores ∧
      v = retireArray c (fin 4 (off / 0x80000)) 0x02 u ∧
      exec (.scrubVisit m off .uncorrectable) s = .next (if (m, off) ∉ s.safety.uncorrAt then
          { u with safety := { u.safety with uncorrAt := (m, off) :: s.safety.uncorrAt } }
        else if (activeOn v c).isEmpty then v else ensureReset c (failDegraded c (stopOthers c v)))) ∧
    (∀ (c : CoreId) (b : Bool), m = .bank c b → ∃ t : State, exec (.scrubVisit m off .uncorrectable) s = .next t ∧ bankTag t.cores[c] b = none ∧
      ((m, off) ∈ s.safety.poison ∨ (m, off) ∉ s.safety.uncorrAt → Posted s t 0x02 ∧ (m, off) ∈ t.safety.poison ∧
        ((s.cores[c]).ctl.active ≠ b → (t.cores[c]).ctl.ready = false) ∧ ∀ d : CoreId, d ≠ c → t.cores[d] = s.cores[d]) ∧
      ((m, off) ∉ s.safety.poison → (m, off) ∈ s.safety.uncorrAt → (t.cores[c]).retired = true)) ∧
    (m = .llImem ∨ m = .llDmem → ∃ u : State, Posted s u 0x02 ∧ (m, off) ∈ u.safety.poison ∧ u.cores = s.cores ∧
      exec (.scrubVisit m off .uncorrectable) s
        = .next (engineClass { code := 0x12, fc := 4, unit := 8, addr := off, dangerous := true } u)) ∧
    (∀ c : CoreId, m = .core c ∨ m = .wbuf c → (m, off) ∉ s.safety.poison → ∃ u : State, Posted s u 0x02 ∧ (m, off) ∈ u.safety.poison ∧
        u.cores = s.cores ∧
      exec (.scrubVisit m off .uncorrectable) s = .next (if (m, off) ∈ s.safety.uncorrAt then retireCore c 0x02 u
        else { u with safety := { u.safety with uncorrAt := (m, off) :: s.safety.uncorrAt } })) ∧
    ((m, off) ∉ s.safety.corrected → (m, off) ∉ s.safety.poison → ∃ t : State, exec (.scrubWriteback m off) s = .next t ∧
        (m, off) ∈ t.safety.corrected ∧
      t = { s with safety := { s.safety with corrected := t.safety.corrected, corr := satAdd s.safety.corr 1 } }) ∧
    ((m, off) ∈ s.safety.corrected → (m, off) ∉ s.safety.poison → ∃ t : State, exec (.scrubWriteback m off) s = .next t ∧ Posted s t 0x01 ∧
      t.safety.corr = satAdd s.safety.corr 1)) ∧
  (∀ (p : PartId) (s : State), wordThere s (.part p) 0 = true → ∃ u : State, Posted s u 0x0B ∧ u.safety.stopped = s.safety.stopped ∧
    u.cores = s.cores ∧ exec (.scrubVisit (.part p) 0 .uncorrectable) s = .next (partReset p u)) ∧
  (∀ (m : MemName) (a n : Nat) (s : State) (x : MemName × Nat),
    x ∈ (freshWords m [(a, n)] s).safety.poison ↔ x ∈ s.safety.poison ∧ ¬ (x.1 = m ∧ a ≤ x.2 ∧ x.2 + 8 ≤ a + n))

/-- The monitors of Table 14.5: a supply sample stands in SF_CLK_SUP (Table 14.8); each posts its record, dangerous and FC_ENGINE but for the
always-on rail, which is FC_FATAL; a control core without a pulse is reset, and retired the second time within an hour. A fault of the engine (R311,
R398, Table 14.1): FC_ENGINE begins a warm restart by fault; FC_FATAL stops KSAFE and holds every core in reset. SF_KSAFE_STOP is a dangerous record
of its own (R318); SF_DUAL_MAP takes a symmetric map while no safety-classed entry runs (R333). The warm restart and the fatal hold are those of log
37. -/
def Obligations.MonitorsRaiseFaults : Prop :=
  (∀ s : State,
    (s.boot.state = 3 →
      exec .llWatchdogExpiry s = .next (engineClass { code := 0x11, fc := 4, dangerous := true, unit := 8 } s) ∧
      exec .llLockstepMismatch s = .next (engineClass { code := 0x10, fc := 4, dangerous := true, unit := 8 } s) ∧
      (∀ t, s.safety.toggledAt = some t → exec .pacingExpiry s
        = .next (engineClass { code := 0x16, fc := 4, dangerous := true } { s with time := max s.time (t + us 80000) })) ∧
      (∀ (c : CoreId) (a : ArrId), bitAt (lampArrays s c) a.val = true → bitAt s.safety.lampArmed (4 * c.val + a.val) = true →
        exec (.lampOverdueExpiry c a) s = .next (engineClass
          { code := 0x17, fc := 4, dangerous := true, unit := 2, index := c.val, sub := a.val }
          { s with time := max s.time ((s.safety.lampOk[4 * c.val + a.val]?).getD 0 + us 90000) }))) ∧
    (s.boot.held = false →
      (∀ n : Fin 9, exec (.clockMonitorFault n) s = .next (engineClass
        { code := 0x13, fc := 4, dangerous := true, unit := 10, index := n.val }
        { s with safety := { s.safety with clkSup := s.safety.clkSup ||| 1 } })) ∧
      (∀ (rail : Fin 3) (high : Bool) (pins : BitVec 6) (v : State),
        v = { s with safety := { s.safety with clkSup := (s.safety.clkSup &&& 1) ||| (pins.setWidth 7 <<< 1) } } →
        (bitAt pins (rail.val + 3 * b2n high) = true → exec (.supplyFault rail ⟨high, pins⟩) s = .next (engineClass
          { code := if rail = 2 then 0x15 else 0x14, fc := if rail = 2 then 5 else 4, dangerous := true, unit := 10, index := rail.val } v)) ∧
        (bitAt pins (rail.val + 3 * b2n high) = false → exec (.supplyFault rail ⟨high, pins⟩) s = .next v))) ∧
    (∀ c : CoreId, coreOn s c true = true → ∃ t : State, exec (.coreAliveExpiry c) s = .next t ∧ t.time = s.time + us 100 ∧
      bitAt t.safety.cwdg c.val = true ∧ t.safety.aliveAt[c] = some (s.time + us 100) ∧
      (s.safety.aliveAt[c] = none → inReset t.cores[c] = true ∧
        (s.host.owed = [] → jobUnacked s (s.cores[c]).ctl.job = false → Posted s t 0x08)) ∧
      (∀ u, s.safety.aliveAt[c] = some u → s.time + us 100 ≤ u + us 3600000000 → (t.cores[c]).retired = true))) ∧
  (∀ (r : RecIn) (s t : State), t = postRecord r s → s.boot.held = false → s.safety.fatal = false →
    (t.safety.fatal = false → s.boot.state ≠ 4 → engineClass r s = warmRestart none 3 r.code t) ∧
    (t.safety.fatal = true → ∃ u : State, u = engineClass r s ∧ u.boot.state = 5 ∧ u.safety.stopped = true ∧ u.bnd.ksafeA = false ∧
      u.bnd.ksafeB = false ∧ (∀ c : CoreId, inService s c = true → (s.cores[c]).powered = true → inReset u.cores[c] = true)) ∧
    (∀ (acc : Access) (val : Word), acc.secure = true →
      (bitAt val 0 = true → exec (.sfKsafeStopWrite acc val) s
        = .next (postRecord { code := 0x1A, dangerous := true } { s with safety := { s.safety with stopReq := true } })) ∧
      (bitAt val 0 = false → exec (.sfKsafeStopWrite acc val) s = .next s) ∧
      (safetyRuns s = false → dualMapOk s val = true →
        exec (.sfDualMapWrite acc val) s = .next { s with safety := { s.safety with dualMap := val.setWidth 18 } }) ∧
      ((safetyRuns s = true ∨ dualMapOk s val = false) → exec (.sfDualMapWrite acc val) s = .next s)))

/-- Margins (R328 to R331): a window's readings are kept with their minima, and one below the floor is SLACK_FLOOR; a round of the planner ends where
every slack reaches the guard, else raises the offset by one code, else drops a bin, else posts exhaustion; a bin change snuffs the cores with started
jobs, and 20 µs later they run on, but for those whose job is paused. The model's choices: a round for each command, and which monitor has forced it
(log 40). -/
def Obligations.MarginsAreKept : Prop :=
  ∀ s : State,
    (∀ (n : Fin 44) (b : Byte) (ring : Half) (v : State), s.boot.held = false → monitorOn s n.val = true →
      v = { s with
        time := max s.time ((s.time / us 1000 + 1) * us 1000)
        safety := { s.safety with
          fresh := s.safety.fresh - 1
          slack := updAt s.safety.slack n (fun x => ⟨b, if x.low ≤ b then x.low else b, ring, if x.sinceRun ≤ b then x.sinceRun else b⟩) } } →
      (marginFloor s ≤ b.toNat → exec (.slackWindow [⟨n, b, ring⟩]) s = .next v) ∧
      (b.toNat < marginFloor s → exec (.slackWindow [⟨n, b, ring⟩]) s
        = .next (engineClass { code := 0x18, fc := 5, dangerous := true, unit := 11, index := n.val } v))) ∧
    (∀ (g : Byte) (sc sf : Nat × Byte), g = marginGuard s → sc = leastSlack s 0 29 → sf = leastSlack s 30 43 → s.boot.state = 3 →
      offsetPending s = false → s.tick.binPend = none → s.tick.relock = none → s.safety.fresh = 0 → s.safety.plannerDue = true →
      (g ≤ sc.2 → g ≤ sf.2 → exec .marginPlannerRun s = .next (plannerEnd s)) ∧
      ((sc.2 < g ∨ sf.2 < g) → s.bnd.vofsCode.toNat < 12 → s.bnd.timedOut = false → ∃ t : State, exec .marginPlannerRun s = .next t ∧
        t.bnd = { s.bnd with vofsCode := s.bnd.vofsCode + 1, vofsFrom := s.time } ∧ t.safety.planStep.isSome = true ∧ t.safety.bin = s.safety.bin ∧
        t.safety.seq = s.safety.seq) ∧
      (sc.2 < g → (12 ≤ s.bnd.vofsCode.toNat ∨ s.bnd.timedOut = true) → s.safety.bin.toNat < 4 → ∃ t : State,
        exec .marginPlannerRun s = .next t ∧ t.tick.binPend = some (s.safety.bin + 1) ∧ t.bnd.vofsCode = s.bnd.vofsCode ∧ Posted s t 0x01) ∧
      ((sc.2 < g ∨ sf.2 < g) → (12 ≤ s.bnd.vofsCode.toNat ∨ s.bnd.timedOut = true) → (sc.2 < g → 4 ≤ s.safety.bin.toNat) → ∃ t : State,
        exec .marginPlannerRun s = .next t ∧ t.safety.exhausted = true ∧ t.safety.bin = s.safety.bin ∧ t.bnd.vofsCode = s.bnd.vofsCode ∧
        Posted s t 0x02 ∧ t.safety.plannerDue = false)) ∧
    (∀ (b : BitVec 3) (u : State), s.tick.binPend = some b → s.tick.binDue = true → offsetPending s = false →
      u = forAll (relockCores s) (fun c v => if (v.cores[c]).phase = .live then snuffNow c 1 v else v) s →
      exec .binChange s = .next (recheck (bumpGen { u with
        tick := { u.tick with binPend := none, binDue := false, relock := some (u.time, relockCores s) }
        safety := { u.safety with bin := b } }))) ∧
    (∀ t : Nat, s.tick.relock = some (t, []) → exec .clockRelockDone s = .next { s with
      time := max s.time (t + us 20), tick := { s.tick with relock := none } }) ∧
    (∀ (t : Nat) (l : List CoreId), s.tick.relock = some (t, l) → ∃ u : State, exec .clockRelockDone s = .next u ∧
      u.time = max s.time (t + us 20) ∧ u.tick.relock = none ∧ (∀ c : CoreId, c ∉ l → u.cores[c] = s.cores[c]) ∧
      (∀ c ∈ l, jobWaits s c = true → u.cores[c] = s.cores[c]) ∧
      ∀ (c : CoreId) (h : HaltCond), c ∈ l → jobWaits s c = false → (s.cores[c]).phase = .halted h → h.code = 0x0F → haltFails h = false →
        (u.cores[c]).phase = .live ∧ bitAt (u.cores[c]).halt.info 31 = false ∧ (u.cores[c]).mem = (s.cores[c]).mem)

/-! ### Links (chapter 15) -/

/-- Flits that arrive (R335 to R337, R341, R351): a bad one, and one out of sequence, is discarded and counted, and the first discard asks for the nak
of the next control flit; one in sequence is accepted; a message for this engine waits in its receive buffer, and the next flit of a run in pair
sequence too. An islanded engine takes none of classes 0 to 2. Training (R338): 16 naks of one flit, or 50 µs without a good one, retrain a port;
lanes that come up carry it, all 8 or those of one half; the third failed attempt takes the port down, and 10 ms later it trains again. Every change
of state is posted, and then routes are recomputed (R340), where a run that may not take its new port halts its core (log 101). When control flits go
out is log 54; the fields that chapter 15 does not place are log 22. -/
def Obligations.LinkPortsCarryFlits : Prop :=
  (∀ (l : LinkId) (raw : List Byte) (s v : State) (f : Flit), f = flitOf raw →
    v = modLink l (fun p => { p with goodAt := s.time, hears := true, rxSeq := f.lseq, discarding := false }) s →
    (receives s l = false → exec (.dataFlitReceive l raw) s = .next s ∧ exec (.controlFlitReceive l raw) s = .next s) ∧
    (receives s l = true → flitGood raw = false → exec (.dataFlitReceive l raw) s = .next (discardFlit l s) ∧
      exec (.controlFlitReceive l raw) s = .next (discardFlit l s)) ∧
    discardFlit l s = modLink l (fun p => { p with crc := satAdd p.crc 1, nak := p.nak || !p.discarding, discarding := true }) s ∧
    (receives s l = true → flitGood raw = true → leNat (raw.take 1) % 16 = 1 →
      (f.lseq ≠ (s.links.ports[l]).rxSeq + 1 → exec (.dataFlitReceive l raw) s
        = .next (discardFlit l (modLink l (fun p => { p with goodAt := s.time, hears := true }) s))) ∧
      (f.lseq = (s.links.ports[l]).rxSeq + 1 →
        (islanded s = true → f.cls.val ≤ 2 → exec (.dataFlitReceive l raw) s = .next (freeBuffer l f.cls v)) ∧
        ((f.cls.val = 3 ∨ (f.cls.val = 2 ∧ islanded s = false)) → (hopwise f = true ∨ f.dst.toNat = ownAddr s) →
          exec (.dataFlitReceive l raw) s = .next { v with links := { v.links with rx := v.links.rx ++ [(l, f)] } }) ∧
        (islanded s = false → f.cls.val = 1 → f.dst.toNat = ownAddr s → f.pseq = s.links.pseqFrom[(f.src.toFin : Fin 32)] →
          exec (.dataFlitReceive l raw) s = .next { v with links := { v.links with
            pseqFrom := updAt s.links.pseqFrom (f.src.toFin : Fin 32) (fun n => n + 1), rx := v.links.rx ++ [(l, f)] } }) ∧
        (islanded s = false → f.cls.val ≤ 1 → f.dst.toNat = ownAddr s → f.pseq ≠ s.links.pseqFrom[(f.src.toFin : Fin 32)] →
          2048 ≤ (s.links.pseqFrom[(f.src.toFin : Fin 32)] - f.pseq).toNat → exec (.dataFlitReceive l raw) s
            = .next (freeBuffer l f.cls (modLink l (fun p => { p with crc := satAdd p.crc 1 }) v))))) ∧
    (receives s l = true → flitGood raw = true → leNat (raw.take 1) % 16 = 2 → ∃ t : State, exec (.controlFlitReceive l raw) s = .next t ∧
      (t.links.ports[l]).goodAt = s.time ∧ (t.links.ports[l]).hears = true ∧ (t.links.ports[l]).heard = (leNat ((raw.drop 18).take 1)).testBit 1 ∧
      (t.links.ports[l]).state = (if (leNat ((raw.drop 18).take 1)).testBit 1 = true then 3 else 2) ∧
      (s.links.sent = [] → t.cores = s.cores) ∧ t.fabric = s.fabric ∧ t.time = s.time ∧ (RingsOff s → t.dram = s.dram))) ∧
  (∀ (l : LinkId) (s : State),
    (receives s l = true → ∃ t : State, exec (.linkRetrain l) s = .next t ∧ PortPosted s t ∧ (t.links.ports[l]).state = 2 ∧
      (t.links.ports[l]).laneMask = 0 ∧ (t.links.ports[l]).trainedLanes = 0 ∧ (t.links.ports[l]).heard = false ∧ (t.links.ports[l]).fails = 0 ∧
      (t.links.ports[l]).retrain = satAdd (s.links.ports[l]).retrain 1 ∧ (t.links.ports[l]).retrainAt = t.time ∧
      t.time = (if 16 ≤ (s.links.ports[l]).nakCount then s.time else max s.time ((s.links.ports[l]).goodAt + us 50))) ∧
    (∀ lanes : Byte, (s.links.ports[l]).state = 2 → (s.links.ports[l]).laneMask = 0 →
      (usedLanes lanes ≠ 0 → ∃ t : State, exec (.linkRetrainEnd l lanes) s = .next t ∧ PortPosted s t ∧ (t.links.ports[l]).state = 2 ∧
        (t.links.ports[l]).laneMask = usedLanes lanes ∧ (t.links.ports[l]).trainedLanes = lanes ∧
            (t.links.ports[l]).lanes = (if usedLanes lanes = 0xFF then 8 else 4) ∧
        (t.links.ports[l]).fails = 0 ∧ (t.links.ports[l]).goodAt = s.time ∧ t.time = s.time) ∧
      (usedLanes lanes = 0 → (s.links.ports[l]).fails < 2 → ∃ t : State, exec (.linkRetrainEnd l lanes) s = .next t ∧ PortPosted s t ∧
        (t.links.ports[l]).state = 2 ∧ (t.links.ports[l]).fails = (s.links.ports[l]).fails + 1 ∧
        t.time = max s.time ((s.links.ports[l]).retrainAt + us 100)) ∧
      (usedLanes lanes = 0 → 2 ≤ (s.links.ports[l]).fails → ∃ t : State, exec (.linkRetrainEnd l lanes) s = .next t ∧ PortPosted s t ∧
        (t.links.ports[l]).state = 1 ∧ t.time = max s.time ((s.links.ports[l]).retrainAt + us 100))) ∧
    ((s.links.ports[l]).state = 1 → ∃ t : State, exec (.portRetry l) s = .next t ∧ PortPosted s t ∧ (t.links.ports[l]).state = 2 ∧
      (t.links.ports[l]).fails = 2 ∧ t.time = max s.time ((s.links.ports[l]).retrainAt + us 10000)))

/-- Enumeration (R342, R343): engine 0 alone begins it, with a good layout and outside a system, by a token through L0; the token gives the next
engine its address; each engine answers its PROBE, and the last reply forms the system; after 10 ms without an end it fails with result 4. A change of
a group waits for every member; while a command of the group runs it is answered busy, and what runs on other engines is free (log 22). -/
def Obligations.EnumerationFormsSystem : Prop :=
  ∀ s : State,
    (∀ (m : MboxId) (p : PartId) (b : List Byte) (u : State),
      (Requested 0x80 (some 0) m p b s u →
        (s.bnd.kroot = false → exec .linkEnumerate s = .next (reply m 2 0 [] u)) ∧
        (s.bnd.kroot = true → (s.links.sys = 1 ∨ s.links.sys = 2) → exec .linkEnumerate s = .next (reply m 5 0 [] u)) ∧
        (s.bnd.kroot = true → s.links.sys ≠ 1 → s.links.sys ≠ 2 → enumArgs s.grade (arg b 9 1) (arg b 10 1) (arg b 11 1) = true →
          exec .linkEnumerate s = .next (sendToken 0 1 0 0 0 { u with links := { u.links with
            sys := 1, enum := some ⟨some m, s.time, arg b 9 1, arg b 10 1, arg b 11 1, 0, s.links.sys, 0, true, 0, 0, 1, 64⟩ } }))) ∧
      (Requested 0x80 (some 1) m p b s u →
        (s.links.addr ≠ 0 ∨ s.links.sys ≠ 2 → exec .linkSetGroup s = .next (reply m 2 0 [] u)) ∧
        (∀ w : State, s.links.addr = 0 → s.links.sys = 2 → s.links.groupSet = none → arg b 12 1 < 16 →
          BitVec.ofNat 32 (arg b 16 4) &&& ~~~ s.links.config = 0 → w = { u with links := { u.links with
            groups := u.links.groups.setIfInBounds (arg b 12 1) (BitVec.ofNat 32 (arg b 16 4))
            groupSet := some ⟨m, s.links.members &&& ~~~ 1#32⟩ } } →
          exec .linkSetGroup s = .next (if groupInUse s (arg b 12 1) = true then reply m 5 0 [] u
            else groupAck 0 (sendMembers (upPorts w) (heldMembers w) w))))) ∧
    (∀ (l : LinkId) (f : Flit) (u : State),
      (Waiting l 3 1 f s u → s.links.enum = none → s.links.sys ≠ 2 → (l.val = 1 ∨ l.val = 3) → msgNum f 1 1 = 0 →
        exec (.token l) s = .next (sendToken 0 (msgNum f 0 1 + 1) 0 0 0 { u with links := { u.links with
          sys := 1, enum := some ⟨none, s.time, 0, 0, 0, 0, s.links.sys, msgNum f 0 1, decide (l.val = 3), l, 0, 1, 64⟩ } })) ∧
      (Waiting l 3 4 f s u → s.links.sys ≠ 1 → exec (.probe l) s = .next (sendMsg 3 5 f.src.toNat 0 (f.payload.take 8) u)) ∧
      (Waiting l 3 5 f s u → s.links.enum = none → s.links.sys ≠ 2 → exec (.probeReply l) s = .next { u with links := { u.links with
        lat := updAt u.links.lat (f.src.toFin : Fin 32) (fun _ => BitVec.ofNat 16 (min 0xFFFF ((nowNs s - msgNum f 0 8) / 2))) } }) ∧
      (∀ e : EnumRun, Waiting l 3 5 f s u → s.links.enum = some e → e.phase = 2 → s.links.sys = 1 →
        e.probes &&& ~~~ BitVec.ofNat 32 (2 ^ f.src.toNat) = 0 → ∃ t : State, exec (.probeReply l) s = .next t ∧ t.links.sys = 2 ∧
          t.links.enum = none ∧ t.links.epoch = 1 ∧ t.links.members = firstMask (e.x * e.y) ∧ t.links.config = firstMask (e.x * e.y))) ∧
    (∀ e : EnumRun, s.links.enum = some e → ∃ t : State, exec .enumTokenTimeout s = .next t ∧ t.links.enum = none ∧
      t.links.sys = e.before ∧ t.time = max s.time (e.since + us 10000) ∧
      (∀ m, e.mbox = some m → t.links.enumResult = 4 ∧ (mbOf t m).replyValid = true))

/-- Membership (R348 to R352): a newer MEMBERSHIP that names this engine is adopted, on an islanded engine only while its JOIN waits (R353); the
lowest member admits a join with the next epoch, and a member holds it in order of arrival while a settle window is open; an islanded engine passes it
along its ring (log 22); heartbeats go out every 100 µs; an expired loss timer opens the window; at its end a primary's lowest engine sends the
membership without the lost, the others pass held joins on to it, and any other part islands. The model's choices: every adopted MEMBERSHIP sets
link_membership, a change of groups too (log 94); a MEMBERSHIP that leaves a lost engine in leaves the window open, and members other than the lowest
hold joins while it is (log 102). -/
def Obligations.MembershipChanges : Prop :=
  ∀ s : State,
    (∀ (l : LinkId) (f : Flit) (u : State), Waiting l 3 2 f s u →
      (newMembers s (memberOf f) = true → ∃ t : State, exec (.membership l) s = .next t ∧ t.links.members = (memberOf f).mask ∧
        t.links.epoch = (memberOf f).epoch ∧ t.links.config = (memberOf f).config ∧ t.links.groups = (memberOf f).groups ∧ t.links.sys = 2 ∧
        t.links.addr.toNat = ownAddr s % 32 ∧
        t.links.settle = (if s.links.lost &&& (memberOf f).mask = 0 then none else s.links.settle) ∧ t.host.genCount = s.host.genCount + 1 ∧
            bitAt t.bnd.gintStatus 5 = true) ∧
      (newMembers s (memberOf f) = false → exec (.membership l) s = .next u)) ∧
    (∀ (l : LinkId) (f : Flit) (u : State), Waiting l 3 3 f s u →
      (s.links.sys = 3 → msgNum f 0 1 ≠ s.links.addr.toNat → exec (.join l) s = .next (sendOn (across l) [f] u)) ∧
      (s.links.sys ≠ 2 → (s.links.sys = 3 → msgNum f 0 1 = s.links.addr.toNat) → exec (.join l) s = .next u) ∧
      (s.links.sys = 2 → s.links.settle.isSome = true → exec (.join l) s = .next { u with links := { u.links with
          joins := queueJoin (s.time, BitVec.ofNat 5 (msgNum f 0 1), BitVec.ofNat 32 (msgNum f 4 4)) u.links.joins } }) ∧
      (s.links.sys = 2 → s.links.settle = none →
        (lowest s.links.members ≠ s.links.addr.toNat → exec (.join l) s = .next (sendTo (lowest s.links.members) [f] u)) ∧
        (lowest s.links.members = s.links.addr.toNat → s.links.joins = [] → BitVec.ofNat 32 (msgNum f 4 4) = s.links.config →
          bitAt s.links.config (msgNum f 0 1 % 32) = true → bitAt s.links.members (msgNum f 0 1 % 32) = false → ∃ t : State,
          exec (.join l) s = .next t ∧ t.links.joins = [] ∧ t.links.epoch = s.links.epoch + 1 ∧
          t.links.members = s.links.members ||| BitVec.ofNat 32 (2 ^ (msgNum f 0 1 % 32))))) ∧
    (∀ t : Nat, s.links.joinAt = some t → exec .joinTimeout s = .next (postRecord { code := 0x22, unit := 5, detail := s.links.config.toNat }
      { s with time := max s.time (t + us 5000), links := { s.links with joinFail := true, joinAt := none } })) ∧
    (∃ t : State, exec .heartbeatSend s = .next t ∧ t = { s with time := t.time, links := t.links } ∧
      t.time = max s.time (s.links.hbAt + us 100) ∧ t.links.hbAt = t.time ∧ t.links.hbSeq = s.links.hbSeq + 1 ∧
      (∀ l : LinkId, t.links.ports[l] = if linkUp s l then { (s.links.ports[l]) with hbWait := (s.links.ports[l]).hbWait ++
        [⟨s.links.addr, decide (s.links.sys = 2), decide (s.links.sys = 3), s.links.hbSeq + 1, s.links.epoch⟩] } else s.links.ports[l])) ∧
    (∀ (e : BitVec 5) (t : Nat), (s.links.lossFrom[e.toNat]?).join = some t → s.links.sys = 2 → bitAt s.links.members e.toNat = true →
      exec (.heartbeatLoss e) s = .next { s with
        time := max s.time (t + us 2000)
        links := { s.links with
          lossFrom := updAt s.links.lossFrom (e.toFin : Fin 32) (fun _ => none), lost := s.links.lost ||| BitVec.ofNat 32 (2 ^ e.toNat)
          settle := some (s.links.settle.getD (max s.time (t + us 2000))) } }) ∧
    (∀ (t : Nat) (v : State), s.links.settle = some t → s.links.sys = 2 →
      v = { s with time := max s.time (t + us 250), links := { s.links with settle := none } } →
      (isPrimary s = false → exec .settleWindowEnd s
        = .next (engineClass { code := 0x21, fc := 4, unit := 5, detail := s.links.members.toNat } v)) ∧
      (isPrimary s = true → lowest (remaining s) ≠ s.links.addr.toNat →
        exec .settleWindowEnd s = .next (passJoins (lowest (remaining s)) v)) ∧
      (isPrimary s = true → lowest (remaining s) = s.links.addr.toNat → s.links.joins = [] → ∃ u : State,
        exec .settleWindowEnd s = .next u ∧ u.links.members = remaining s ∧ u.links.epoch = s.links.epoch + 1 ∧ u.links.lost = 0))

/-- Runs and fence messages (R341, R345, R346): a run ends with its RUN_ACK; one refused halts its sender; a multicast run is stored where its
partition owns the staging, else refused; signals and updates reach the fences and proxies they name; subscriptions are made, answered and ended. The
model's choices: the fields and the order of messages (log 22), how the last flit tells a run's length and which ports of the other world a fence
message does not take (log 101), and the partition that a SIGNAL acts on (log 26). -/
def Obligations.RunsAndFenceMessages : Prop :=
  ∀ (l : LinkId) (f : Flit) (s u : State),
    (Waiting l 3 6 f s u →
      (∀ r, sentRun s f.src (msgNum f 0 2) = some r → exec (.runAck l) s
        = .next (memberAck f.src.toNat r { u with links := { u.links with sent := u.links.sent.erase r } })) ∧
      (sentRun s f.src (msgNum f 0 2) = none → s.links.groupSet = none → exec (.runAck l) s = .next u)) ∧
    (Waiting l 3 7 f s u → ∀ (r : SentRun) (v : State) (c : CoreId) (ch : ChanId) (n : Nat) (x : DxRun),
      sentRun s f.src (msgNum f 0 2) = some r → r.owner = some (c, ch, n) →
      v = memberAck f.src.toNat r { u with links := { u.links with sent := u.links.sent.erase r } } → (dxChan v c ch).run = some x →
      exec (.runRefuse l) s = .next (dxOwnHalt c ch (dxHalt 0x0E x.cmd.set ch 0 0 1) v)) ∧
    (∀ (xs : List (LinkId × Flit)) (g : Flit), s.links.rx.find? (fun x => decide (x.1 = l) && decide (x.2.cls = 1)) = some (l, f) →
      runOfRx s 1 f.src = xs → (xs.head?).map (fun x => x.2) = some g → ∀ (data : List Byte) (last : Flit) (v : State),
      data = runData (xs.map (fun y => y.2)) → (xs.getLast?).map (fun x => x.2) = some last → v = dropRx xs s →
      (stagingOwned s (fld g.info 4 3) g.addr.toNat data.length = true → exec (.multicastRunReceive l) s
        = .next (sendMsg 3 6 g.src.toNat 0 (leBytes 2 last.pseq.toNat) (freshWords .staging [(g.addr.toNat, data.length)] { v with
            staging := memStore s.staging g.addr.toNat data }))) ∧
      (stagingOwned s (fld g.info 4 3) g.addr.toNat data.length = false → exec (.multicastRunReceive l) s
        = .next (sendMsg 3 7 g.src.toNat 0 (leBytes 2 last.pseq.toNat ++ [1]) v))) ∧
    (Waiting l 2 1 f s u → ∀ hits : List (Nat × Nat), hits = s.host.fences.flatMap (fun x => (x.subs.filter (fun y =>
        decide (y.engine = f.src.toNat ∧ y.fid = msgFid f))).map (fun y => (x.addr, y.part))) →
      (hits = [] → (∀ q ∈ s.host.queues, q.head = none) → exec (.signal l) s = .next (endIdles u)) ∧
      (∀ a n, hits = [(a, n)] → exec (.signal l) s = .next (settle (signalRecord a (BitVec.ofNat 64 (msgNum f 0 8))
        ((msgNum f 8 1).testBit 0) true (fin 8 n) u)))) ∧
    (Waiting l 2 2 f s u → exec (.update l) s = .next (settle { u with host := { u.host with proxies := u.host.proxies.map (fun x =>
      if x.engine = f.src.toNat ∧ x.homeFid = msgFid f ∧ x.pending = none then
        { x with value := BitVec.ofNat 64 (msgNum f 0 8), err := (msgNum f 8 1).testBit 0 } else x) } })) ∧
    (Waiting l 2 3 f s u → ∀ p : PartId, p = fin 8 (msgNum f 0 1) →
      (findReg s p (msgFid f) = none → exec (.subscribe l) s = .next (sendFence p 4 f.src.toNat (msgFid f) [1] u)) ∧
      (∀ r, findReg s p (msgFid f) = some r → r.home = none →
        ((s.host.parts[p]).secure ≠ (msgNum f 1 1).testBit 0 → exec (.subscribe l) s = .next (sendFence p 4 f.src.toNat (msgFid f) [2] u)) ∧
        ((s.host.parts[p]).secure = (msgNum f 1 1).testBit 0 → exec (.subscribe l) s = .next (sendFence p 4 f.src.toNat (msgFid f) [0]
          (modFence r.addr (fun x => { x with subs := if ⟨f.src.toNat, p.val, msgFid f⟩ ∈ x.subs then x.subs
            else x.subs ++ [⟨f.src.toNat, p.val, msgFid f⟩] }) u))))) ∧
    (Waiting l 2 4 f s u → ∀ (x : Proxy) (m : MboxId) (n : Word),
      s.host.proxies.find? (fun x => proxyOf f x && x.pending.isSome) = some x → x.pending = some (m, n) →
      (msgNum f 0 1 ≠ 0 → exec (.subReply l) s
        = .next (reply m 2 0 [] { u with host := { u.host with proxies := u.host.proxies.erase x } })) ∧
      (msgNum f 0 1 = 0 → ∃ t : State, exec (.subReply l) s = .next t ∧ t.freeCtr = s.freeCtr + 8 ∧ (mbOf t m).replyValid = true ∧
        t.host.regs = s.host.regs ++ [⟨x.part, x.fid, x.asid, 0, some (x.engine, x.homeFid)⟩] ∧
        (∀ y ∈ t.host.proxies, y ∉ s.host.proxies → y.pending = none ∧ y.part = x.part ∧ y.fid = x.fid))) ∧
    (Waiting l 2 5 f s u → ∃ t : State, exec (.unsubscribe l) s = .next t ∧
      (∀ g ∈ t.host.fences, ∀ y ∈ g.subs, ¬ (y.engine = f.src.toNat ∧ y.fid = msgFid f)) ∧ t.cores = s.cores ∧ t.host.queues = s.host.queues)

/-! ### The fabric and the extension engines (chapter 16) -/

/-- The fabric window (R365, R372, R375, R378, Table 16.15): start and abort of a host-path load, the pushes of its FIFO, user clocks, pin options and
timers, on a grade with a fabric (log 91); the condition of a pin by its claim and its region (R374). The frames of a load (R367, R369, R370): a good
frame of a mailbox load goes into the region's configuration and is counted; a bad one ends the load with its code; once all 2,560 are applied the
release configures the region from its header, a mailbox load is answered with its ext_id, and an FX command that waited for the load tests the region
again; a mismatch of the scan fails the region (R373). A start on a region that is absent or held is ignored, and a failing frame's index is its
header's (log 35); what frames configure is opaque (log 89). -/
def Obligations.FabricTakesLoads : Prop :=
  (∀ (acc : Access) (val : Word) (s v : State), s.grade ≠ .s92 →
    v = { s with fabric := { s.fabric with cmd := s.fabric.cmd ||| val.setWidth 2 } } →
    (acc.secure = true →
      (∀ z : RegionId, z = s.fabric.cfgRegion.toFin → s.fabric.load = none → bitAt val 0 = true → regionPresent s.grade z = true →
        fxHolds s z = false → scrubbing s 1 z.val = false → exec (.cfgStart acc val) s = .next (enterLoad ⟨2, z, secureMb, 0, 0, 0, 0, none, 0,
            []⟩ v)) ∧
      (∀ l, s.fabric.load = some l → bitAt val 1 = true → l.path = 2 → exec (.cfgAbort acc val) s = .next (loadFail 10 l.applied.length v)) ∧
      (s.fabric.fifo.length < 512 → (∀ l, s.fabric.load = some l → l.path = 1 ∨ l.header.isSome = true ∨ s.fabric.fifo.length < 7) →
        exec (.cfgDataPush acc val) s
          = .next { s with fabric := { s.fabric with fifo := s.fabric.fifo ++ [val ++ s.fabric.dataLo] } }) ∧
      (∀ l, s.fabric.load = some l → l.path = 2 → l.header = none → s.fabric.fifo.length = 7 → exec (.cfgDataPush acc val) s
        = .next (takeHeader (wordBytes (s.fabric.fifo ++ [val ++ s.fabric.dataLo])) { s with fabric := { s.fabric with fifo := [] } })) ∧
      (∀ l, s.fabric.load = some l → l.path = 2 → 512 ≤ s.fabric.fifo.length →
        exec (.cfgDataPush acc val) s = .next (loadFail 13 0 s)) ∧
      (∀ n : Fin 16,
        (clockUsed s.fabric n.val = true → exec (.uclkWrite acc n val) s
          = .next { s with fabric := { s.fabric with uclkErr := satAdd s.fabric.uclkErr 1 } }) ∧
        (clockUsed s.fabric n.val = false → 10 ≤ fld val 0 10 → fld val 0 10 ≤ 600 → exec (.uclkWrite acc n val) s
          = .next { s with fabric := { s.fabric with
            uclk := updAt s.fabric.uclk n (fun _ => val.setWidth 11), lock := s.fabric.lock &&& ~~~ BitVec.ofNat 16 (2 ^ n.val) } }))) ∧
    (∀ n : Fin 64, acc.secure = ((s.fabric.pins[n]).secure || decide ((s.fabric.pins[n]).use = 0)) →
      (fld val 2 2 ≠ 3 → exec (.kioWrite acc n val) s
        = .next { s with fabric := { s.fabric with kio := updAt s.fabric.kio n (fun _ => val.setWidth 6) } }) ∧
      (fld val 2 2 = 3 → exec (.kioWrite acc n val) s = .next s)) ∧
    (∀ k : Fin 4, Passes acc s (0xC3000 + 16 * k.val) true → exec (.timerCtrlWrite acc k val) s = .next (if k = 0 then s
      else { s with fabric := { s.fabric with timers := updAt s.fabric.timers k (fun t => { t with
        reload := val.setWidth 24, enable := bitAt val 24, since := s.time }) } })) ∧
    (∀ n : Fin 64, s.boot.state ≠ 0 →
      ((s.fabric.pins[n]).use = 0 ∨ ((s.fabric.pins[n]).use = 1 ∧ (s.fabric.regions[(s.fabric.pins[n]).region]).state ≠ 2) →
        pinCondition s n = highZ) ∧
      ((s.fabric.pins[n]).use = 2 → n = 0 → pinCondition s n = ⟨.off, true, true, kioOptions s.fabric.kio[n]⟩) ∧
      (∀ r : Region, r = s.fabric.regions[(s.fabric.pins[n]).region] → (s.fabric.pins[n]).use = 1 → r.state = 2 →
        r.pinMask.getLsbD n.val = true → (pinCondition s n).input = true ∧ (pinCondition s n).filter = false ∧
        (pinCondition s n).driver = imageDrives s (s.fabric.pins[n]).region n ∧ (pinCondition s n).options = kioOptions s.fabric.kio[n]))) ∧
  (∀ (s : State) (l : FbLoad) (h : List Byte), s.fabric.load = some l → l.header = some h →
    (∀ (found : FrameFinding) (b : List Byte) (v : State) (i : Nat), l.applied.length < 2560 → nextFrame l s = (some (.ok b), v) →
      i = leNat (b.take 4) / 16 % 4096 →
      (frameCheck l (hdReloc h) b found = none → exec (.fabricFrame found) s = .next (modRegion l.region (fun r => { r with
        config := memStore r.config (256 * i) (b.drop 16)
        crcs := (i, BitVec.ofNat 32 (leNat (b.take 4)), BitVec.ofNat 32 (leNat ((b.drop 4).take 4))) :: r.crcs }) { v with fabric := { v.fabric with
          load := some { l with got := l.got + 272, applied := i :: l.applied }, frames := v.fabric.frames + 1 } })) ∧
      (∀ code, frameCheck l (hdReloc h) b found = some code → exec (.fabricFrame found) s = .next (loadFail code i v))) ∧
    (l.applied.length < 2560 → exec .fabricRelease s = .next s) ∧
    (2560 ≤ l.applied.length → ∃ t : State, exec .fabricRelease s = .next t ∧ t.fabric.load = none ∧
      (t.fabric.regions[l.region]).state = 2 ∧ (t.fabric.regions[l.region]).extId.toNat = hd h 64 16 ∧
      (t.fabric.regions[l.region]).bram = [] ∧ (t.fabric.regions[l.region]).config = (s.fabric.regions[l.region]).config ∧
      (t.fabric.regions[l.region]).loads = satAdd (s.fabric.regions[l.region]).loads 1 ∧ t.host.genCount = s.host.genCount + 1 ∧
      bitAt t.bnd.gintStatus 6 = true ∧ (∀ z : RegionId, z ≠ l.region → t.fabric.regions[z] = s.fabric.regions[z]) ∧
      (l.path = 1 → (mbOf t l.mbox).replyValid = true ∧ (mbOf t l.mbox).busy = false ∧
        (mbOf t l.mbox).rep = frameWords (replyBytes (reqBytes (mbOf s l.mbox).req) 0 0 (leBytes 2 (hd h 64 16)))) ∧
      (l.path ≠ 1 → ∀ m : MboxId, mbOf t m = mbOf s m) ∧
      ((∀ hz : l.region.val < 6, (s.cores[(⟨l.region.val, hz⟩ : CoreId)]).fx.run = none) → t.cores = s.cores) ∧
      (∀ (c : CoreId) (r : FxRun), c.val = l.region.val → (s.cores[c]).fx.run = some r → r.waitLoad = true →
        (t.cores[c]).fx.run = some { r with waitLoad := false } ∨
        ((t.cores[c]).fx.run = none ∧ ((s.cores[c]).phase = .live → ∃ x, (t.cores[c]).phase = .halting x none s.time)))) ∧
    (∀ code, ∃ t : State, t = loadFail code 0 s ∧ t.fabric.load = none ∧ (t.fabric.regions[l.region]).state = 4 ∧
      (t.fabric.regions[l.region]).lastCode = BitVec.ofNat 8 code ∧ (t.fabric.regions[l.region]).extId = 0 ∧ Posted s t 0x30)) ∧
  (∀ (z : RegionId) (frame : BitVec 12) (s : State), (s.fabric.regions[z]).state = 2 → s.fabric.load = none → frame.toNat < 2560 →
    exec (.configScanMismatch z frame) s = .next (scanFails z frame.toNat s) ∧ ((scanFails z frame.toNat s).fabric.regions[z]).state = 4 ∧
    ((scanFails z frame.toNat s).fabric.regions[z]).cmdReady = false ∧ ((scanFails z frame.toNat s).fabric.regions[z]).extId = 0)

/-- What happens in configured regions (R364, R365, R373, R378, R380): the scan, user clocks that lock, cmd_ready of a region with an extension port,
timers, watchdogs and their service, uncorrectable block RAM; and what a cell's LUT gives (R361). A started FX command of a region that the scan
fails, or whose watchdog expires, ends in a fault of cause 5 or 6 (R384); one whose done has come is not ended by the scan (R385). How the user logic
runs is log 89, its initial values log 71, and the scan in idle steps log 55. -/
def Obligations.RegionEvents : Prop :=
  (∀ (truth : BitVec 16) (a b c d : Bool), lutOut truth a b c d = truth.getLsbD
    ((if a then 1 else 0) + 2 * (if b then 1 else 0) + 4 * (if c then 1 else 0) + 8 * (if d then 1 else 0))) ∧
  ∀ s : State,
    (∀ (z : RegionId) (frame : BitVec 12), (s.fabric.regions[z]).state = 2 →
      (s.fabric.load = none → frame.toNat < 2560 → ∃ t : State, exec (.configScanMismatch z frame) s = .next t ∧
        (t.fabric.regions[z]).state = 4 ∧ (t.fabric.regions[z]).extId = 0 ∧ (t.fabric.regions[z]).bram = (s.fabric.regions[z]).bram ∧
        (6 ≤ z.val → Posted s t 0x31 ∧ t.cores = s.cores) ∧
        (∀ c : CoreId, c.val = z.val → ((∀ r, (s.cores[c]).fx.run = some r → r.done = true) → Posted s t 0x31 ∧ t.cores = s.cores) ∧
          ∀ r, (s.cores[c]).fx.run = some r → r.done = false → (t.cores[c]).fx.run = none ∧ (t.cores[c]).fx.faultInfo = 5 ∧
            (∀ d : CoreId, d ≠ c → t.cores[d] = s.cores[d]) ∧ fld (t.safety.log[fin 64 s.safety.seq.toNat]) 8 8 = 0x31 ∧
            (jobUnacked s (s.cores[c]).ctl.job = false → t.safety.seq = s.safety.seq + 2 ∧
              fld (t.safety.log[fin 64 (s.safety.seq + 1).toNat]) 8 8 = 0x35))) ∧
      (s.fabric.load.isSome = true → exec (.configScanMismatch z frame) s = .next s) ∧
      (6 ≤ z.val ∨ (s.fabric.regions[z]).extId = 0 → exec (.cmdReady z) s = .next s) ∧
      (∀ h : z.val < 6, (s.fabric.regions[z]).extId ≠ 0 →
        (corePresent s.grade ⟨z.val, h⟩ = true → (s.cores[(⟨z.val, h⟩ : CoreId)]).retired = false →
          exec (.cmdReady z) s = .next (fxSend ⟨z.val, h⟩ (modRegion z (fun r => { r with cmdReady := true }) s))) ∧
        (corePresent s.grade ⟨z.val, h⟩ = false ∨ (s.cores[(⟨z.val, h⟩ : CoreId)]).retired = true → exec (.cmdReady z) s = .next s)) ∧
      (∀ (port : Fin 96) (off : Nat), exec (.bramUncorr z port off) s = .next (postRecord
        { code := 0x33, unit := 6, index := z.val, detail := port.val / 2, addr := off }
        (modRegion z (fun r => { r with
          bramErr := satAdd r.bramErr 1
          logic := { r.logic with rams := updAt r.logic.rams port (fun x => (x.1, { x.2 with err := true })) } }) s)))) ∧
    (∀ n : Fin 16, bitAt s.fabric.uclk[n] 10 = true → exec (.uclkLock n) s
      = .next { s with fabric := { s.fabric with lock := s.fabric.lock ||| BitVec.ofNat 16 (2 ^ n.val) } }) ∧
    (∀ (k : Fin 4) (T : Nat), T = max s.time ((s.fabric.timers[k]).since + us (s.fabric.timers[k]).reload.toNat) →
      (timerRuns s k 2 = true → exec (.timerPeriodicExpiry k) s = .next { s with
        time := T, fabric := { s.fabric with timers := updAt s.fabric.timers k (fun t => { t with since := T, pulsed := some T }) } }) ∧
      (timerRuns s k 1 = true → 6 ≤ ((s.fabric.timers[k]).region).val → exec (.userWatchdogExpiry k) s = .next
        (initialValues (s.fabric.timers[k]).region (postRecord
          { code := 0x32, fc := 1, unit := 6, index := ((s.fabric.timers[k]).region).val, detail := k.val } { s with
            time := T, fabric := { s.fabric with timers := updAt s.fabric.timers k (fun t => { t with since := T }) } }))) ∧
      (∀ c : CoreId, timerRuns s k 1 = true → ((s.fabric.timers[k]).region).val = c.val → ∃ t : State,
        exec (.userWatchdogExpiry k) s = .next t ∧ t.time = T ∧ (t.fabric.regions[(s.fabric.timers[k]).region]).cmdReady = false ∧
        (t.fabric.timers[k]).since = T ∧ fld (t.safety.log[fin 64 s.safety.seq.toNat]) 8 8 = 0x32 ∧
        ((s.cores[c]).fx.run = none → Posted s t 0x32 ∧ t.cores = s.cores) ∧
        (∀ r, (s.cores[c]).fx.run = some r → (t.cores[c]).fx.run = none ∧ (t.cores[c]).fx.faultInfo = 6 ∧
          (∀ d : CoreId, d ≠ c → t.cores[d] = s.cores[d]) ∧ (jobUnacked s (s.cores[c]).ctl.job = false →
            t.safety.seq = s.safety.seq + 2 ∧ fld (t.safety.log[fin 64 (s.safety.seq + 1).toNat]) 8 8 = 0x35))) ∧
      (timerRuns s k 1 = true → (s.fabric.regions[(s.fabric.timers[k]).region]).state = 2 → exec (.watchdogService k) s
        = .next { s with fabric := { s.fabric with timers := updAt s.fabric.timers k (fun t => { t with since := s.time }) } }))

/-- An FX command that passes the checks of Table 16.11 starts, and its word is sent once the extension is ready; a failing check halts (R380, R382).
A packet without a start completes with its wait, whatever runs (R226). The extension's answers (R381, R383, R384): done brings the beats, which
completion writes to ascending addresses with the counts, the scalar and the posts; err, an unreadable input and parity end in a fault of their cause;
a pulse without a command is counted. A snuffed FX command ends with its beats written and a resume record that names its set (R383); 4,096 fabric
cycles after abort without done the user logic takes its initial values, which is recorded, and the command ends in the same way. Without abort, which
a command whose done had come is not sent (R385), there is nothing to stop. What the extension has done is the operands' (log 34). -/
def Obligations.FxCommandRuns : Prop :=
  (∀ (c : CoreId) (s : State) (cmd : EngCmd), (s.cores[c]).fx.taken = some cmd → cmd.start = false → waitDone s.cores[c] cmd = true →
    coreLive s c = true → exec (.fxCommandComplete c) s = .next (postTokens c 4 cmd
      (progress c (modFx c (fun f => { f with taken := none }) s)))) ∧
  (∀ (c : CoreId) (s v : State) (cmd : EngCmd) (cfg : Vector Word 64), (s.cores[c]).fx.parked = none → (s.cores[c]).fx.taken = some cmd →
    waitDone s.cores[c] cmd = true → coreLive s c = true → (s.cores[c]).fx.run = none → cfg = (s.cores[c]).fx.sets[cmd.set] →
    v = progress c (modFx c (fun f => { f with taken := none }) s) →
    (cmd.start = true → (s.cores[c]).fx.resumeValid = true → (s.cores[c]).fx.resumeSet ≠ cmd.set →
      exec (.fxCommandStart c) s = .next (raiseHalt c (fxHalt 0x11 cmd.set.val 9 2 0) v)) ∧
    (cmd.start = true → ((s.cores[c]).fx.resumeValid = false ∨ (s.cores[c]).fx.resumeSet = cmd.set) →
      (∀ h, (fxChecks cmd.set cfg).orElse (fun _ => fxRegionChecks s c cmd.set cfg) = some h →
        exec (.fxCommandStart c) s = .next (raiseHalt c h v)) ∧
      ((fxChecks cmd.set cfg).orElse (fun _ => fxRegionChecks s c cmd.set cfg) = none → ∃ t : State,
        exec (.fxCommandStart c) s = .next t ∧ (t.cores[c]).fx.curSet = cmd.set ∧ (t.cores[c]).fx.resumeValid = false ∧
        (t.cores[c]).fx.run = some (if (s.fabric.regions[fxRegion c]).state = 2 ∧ (s.fabric.regions[fxRegion c]).cmdReady = true ∧
            (s.cores[c]).fx.abortTill ≤ s.time then { newFxRun cmd cfg false with sent := true, sentAt := s.time }
          else newFxRun cmd cfg (decide ((s.fabric.regions[fxRegion c]).state = 3))) ∧
        (t.cores[c]).mem = (s.cores[c]).mem ∧ t.host = s.host ∧ t.dram = s.dram))) ∧
  (∀ (c : CoreId) (s : State) (taken : Nat) (beats : List (BitVec 256)),
    (fxInProgress s c = none → exec (.fxDone c taken beats) s
      = .next (if (s.cores[c]).fx.errAt = some s.time then s else fxSpurious c s)) ∧
    (fxErrMeets s c = none → ∀ code, exec (.fxErr c code taken beats) s = .next (fxSpurious c s)) ∧
    (∀ r : FxRun, fxErrMeets s c = some r → ∀ code : Byte, ∃ t : State, exec (.fxErr c code taken beats) s = .next t ∧ (t.cores[c]).fx.run = none ∧
      (jobUnacked s (s.cores[c]).ctl.job = false → Posted s t 0x35) ∧
      (t.cores[c]).fx.faultInfo = (if fxBadInput s c r taken = true then 2 else if fxBeyond r beats = true then 3
        else BitVec.ofNat 11 (1 + code.toNat * 8)) ∧
      (fxBadInput s c r taken = false → (t.cores[c]).fx.inCount = BitVec.ofNat 32 (max r.taken (min taken (fxIn r.cfg))) ∧
        (fxBeyond r beats = false → (t.cores[c]).fx.outCount = BitVec.ofNat 32 (r.written + r.outq.length + beats.length)))) ∧
    (∀ r : FxRun, fxInProgress s c = some r →
      (fxBadInput s c r taken = false → fxBeyond r beats = false → ∃ (t : State) (x : FxRun), exec (.fxDone c taken beats) s = .next t ∧
        (t.cores[c]).fx.run = some x ∧ x.done = true ∧ x.doneAt = s.time ∧ x.taken = max r.taken (min taken (fxIn r.cfg)) ∧ x.inq = [] ∧
        x.outq = (r.outq ++ beats).drop (r.outq.length + beats.length - 64) ∧ x.written = r.written + (r.outq.length + beats.length - 64) ∧
        (t.cores[c]).mem.core = memStore (s.cores[c]).mem.core (fxOutBase r.cfg + 32 * r.written)
          (((r.outq ++ beats).take (r.outq.length + beats.length - 64)).flatMap (fun b => leBytes 32 b.toNat)) ∧
        (∀ d : CoreId, d ≠ c → t.cores[d] = s.cores[d]) ∧ t.host = s.host ∧ t.dram = s.dram ∧ t.time = s.time) ∧
      (fxBadInput s c r taken = true ∨ fxBeyond r beats = true → ∃ t : State, exec (.fxDone c taken beats) s = .next t ∧
        (t.cores[c]).fx.run = none ∧ (t.cores[c]).fx.faultInfo = (if fxBadInput s c r taken = true then 2 else 3) ∧
        (jobUnacked s (s.cores[c]).ctl.job = false → Posted s t 0x35)) ∧
      (∀ fault : FxFinding, fault = .coreRead none ∨ fault = .parity → ∃ t : State, exec (.fxFault c fault) s = .next t ∧
        (t.cores[c]).fx.run = none ∧ (t.cores[c]).fx.faultInfo = (match fault with | .coreRead _ => 2 | .parity => 4) ∧
        (jobUnacked s (s.cores[c]).ctl.job = false → Posted s t 0x35) ∧ (t.cores[c]).mem = (s.cores[c]).mem ∧
        (t.cores[c]).fx.inCount = BitVec.ofNat 32 r.taken ∧ (t.cores[c]).fx.outCount = BitVec.ofNat 32 r.written ∧
        (∀ w, fault = .coreRead none → exec (.fxFault c (.coreRead w)) s = .next (wordMet c 0x35 w t)))) ∧
    (∀ r : FxRun, (s.cores[c]).fx.run = some r → r.done = true → (s.cores[c]).fx.abort = false → inService s c = true →
      (∀ q, (s.cores[c]).fx.taken = some q → q.start = true ∨ waitDone s.cores[c] q = false ∨ coreLive s c = false) → ∃ (t u : State) (n : Word),
      exec (.fxCommandComplete c) s = .next t ∧ t = postTokens c 4 r.cmd (progress c u) ∧ n = BitVec.ofNat 32 (r.written + r.outq.length) ∧
      (u.cores[c]).mem.core = memStore (s.cores[c]).mem.core (fxOutBase r.cfg + 32 * r.written) (r.outq.flatMap (fun b => leBytes 32 b.toNat)) ∧
      (u.cores[c]).fx.run = none ∧ (u.cores[c]).fx.inCount = BitVec.ofNat 32 r.taken ∧ (u.cores[c]).fx.outCount = n ∧
      (u.cores[c]).sc = (if bitAt (reg r.cfg 0x00) 0 then updAt (s.cores[c]).sc (fin 16 (fld (reg r.cfg 0x00) 1 4)) (fun _ => n)
        else (s.cores[c]).sc) ∧
      u.time = s.time + r.outq.length * fxPeriod s.fabric (fxRegion c) ∧ (∀ d : CoreId, d ≠ c → u.cores[d] = s.cores[d]) ∧ u.host = s.host ∧
      u.dram = s.dram ∧ u.staging = s.staging)) ∧
  (∀ (c : CoreId) (s : State) (r : FxRun), (s.cores[c]).fx.run = some r → (s.cores[c]).fx.abort = true →
    (r.done = true ∨ r.sent = false → ∃ t : State, exec (.fxSnuffComplete c) s = .next t ∧ t = fxSnuffed c r s ∧
      (t.cores[c]).fx.run = none ∧ (t.cores[c]).fx.abort = false ∧ (t.cores[c]).fx.resumeValid = true ∧
      (t.cores[c]).fx.resumeSet = r.cmd.set ∧ (t.cores[c]).fx.parked = some { r.cmd with wait := none } ∧
      (t.cores[c]).fx.outCount = BitVec.ofNat 32 (r.written + r.outq.length) ∧ (∀ d : CoreId, d ≠ c → t.cores[d] = s.cores[d])) ∧
    (r.done = false → r.sent = true → exec (.fxSnuffComplete c) s = .next s ∧ ∃ t : State, exec (.fxSnuffTimeout c) s = .next t ∧
      Posted s t 0x34 ∧ (t.cores[c]).fx.run = none ∧ (t.cores[c]).fx.resumeValid = true ∧ (t.cores[c]).fx.resumeSet = r.cmd.set ∧
      (t.cores[c]).fx.outCount = BitVec.ofNat 32 (r.written + r.outq.length) ∧ (t.fabric.regions[fxRegion c]).cmdReady = false ∧
      t.time = max s.time ((s.cores[c]).fx.abortAt + 4096 * fxPeriod s.fabric (fxRegion c)) + r.outq.length * fxPeriod s.fabric (fxRegion c))) ∧
  (∀ (c : CoreId) (s : State) (r : FxRun), (s.cores[c]).fx.run = some r → (s.cores[c]).fx.abort = false →
    exec (.fxSnuffComplete c) s = .next s)

/-! ### Startup, resets, worlds (chapter 17) -/

/-- The release of cold reset puts everything at its reset value and samples KROOT with it (R29, R390); external memory and what waits in the queue
stay. LL_RESET.cold does the same and goes before warm (Table 17.5). BIST and the image check (R392 to R397): a BIST that finds nothing retires
nothing; one with findings bypasses the columns of an array, or retires it where it is beyond repair or more than 8 columns would be bypassed, and
retires the cores it names; of two valid images the newer runs, else the valid one, else the state returns to boot-wait and no_valid is set; the
chosen body is what instruction memory holds; a copy that fails its re-check makes its slot's result 7, and the other valid slot is taken (R395). The
model's choices: time and power after a cold start (log 67), when release_seen falls (log 38), and a boot image's poisoned words (log 38). -/
def Obligations.StartupAndBoot : Prop :=
  (∀ (kroot : Bool) (s : State),
    (s.boot.held = true → ∃ t : State, exec (.coldResetRelease kroot) s = .next t ∧ t.boot.held = false ∧ t.boot.state = 1 ∧
      t.boot.cause = 0 ∧ t.time = 0 ∧ t.bnd.kroot = (kroot && decide (s.grade ≠ .s92)) ∧ t.grade = s.grade ∧ t.dram = s.dram ∧
      t.pending = s.pending ∧ t.staging = [] ∧ t.safety.fatal = false ∧ t.safety.seq = 0 ∧ t.host = HostSide.cold ∧
      (∀ c : CoreId, (t.cores[c]).powered = corePresent s.grade c ∧ (t.cores[c]).mem = Core.cold.mem) ∧
      (∀ l : LinkId, (t.links.ports[l]).state = if linkPresent s.grade l then 2 else 0) ∧
      (∀ z : RegionId, (t.fabric.regions[z]).state = if regionPresent s.grade z then 1 else 0)) ∧
    (s.boot.held = false → exec (.coldResetRelease kroot) s = .next s) ∧
    (∀ (acc : Access) (val : Word), acc.secure = true → s.boot.held = false → bitAt val 1 = true →
      exec (.llResetCold acc val) s = .next (coldStart 1 s)) ∧
    (∀ (acc : Access) (off : BitVec 24) (data : List Byte), acc.secure = true →
      (s.boot.state = 1 → off.toNat + data.length ≤ 0x200000 →
        exec (.bootApertureWrite acc off data) s
        = .next (freshWords .staging [(off.toNat, data.length)] { s with staging := memStore s.staging off.toNat data })) ∧
      (s.boot.state ≠ 1 ∨ 0x200000 < off.toNat + data.length → exec (.bootApertureWrite acc off data) s = .next s)) ∧
    (∀ (acc : Access) (val : Word), acc.secure = true →
      (bitAt val 0 = true → s.boot.state = 1 → s.boot.bistDone = false →
        exec (.bootRelease acc val) s = .next { s with boot := { s.boot with releaseSeen := true } }) ∧
      (bitAt val 0 = true → s.boot.state = 1 → s.boot.bistDone = true →
        exec (.bootRelease acc val) s = .next { s with boot := { s.boot with state := 2, releaseSeen := false, noValid := false } }) ∧
      (bitAt val 0 = false ∨ s.boot.state ≠ 1 → exec (.bootRelease acc val) s = .next s))) ∧
  (∀ s : State,
    (s.boot.state = 1 → s.boot.bistDone = false → s.boot.releaseSeen = false → ∃ t : State,
      exec (.bistDone ⟨[], [], []⟩) s = .next t ∧ t.boot.bistDone = true ∧ t.boot.state = 1 ∧
      (∀ (c : CoreId) (a : ArrId), ((t.cores[c]).arrays[a]).retired = ((s.cores[c]).arrays[a]).retired ∧
        (t.cores[c]).mem = (s.cores[c]).mem)) ∧
    (∀ found : BistFinding, s.boot.state = 1 → s.boot.bistDone = false → s.boot.releaseSeen = false → ∃ t : State,
      exec (.bistDone found) s = .next t ∧ t.boot.bistDone = true ∧ t.boot.state = 1 ∧ t.boot.bist = bistWord t ∧
      ∀ c : CoreId, (t.cores[c]).mem = (s.cores[c]).mem ∧ (corePresent s.grade c = false → t.cores[c] = s.cores[c]) ∧
        (corePresent s.grade c = true →
          (∀ a : ArrId, arrayPresent s.grade a = true →
            ((c, a) ∈ found.arrays ∨ 8 < popcount 128 (foundMap found c a).toNat → ((t.cores[c]).arrays[a]).retired = true) ∧
            ((c, a) ∉ found.arrays → popcount 128 (foundMap found c a).toNat ≤ 8 →
              ((t.cores[c]).arrays[a]).retired = ((s.cores[c]).arrays[a]).retired ∧ ((t.cores[c]).arrays[a]).staged = foundMap found c a ∧
              ((t.cores[c]).arrays[a]).mapNow = foundMap found c a)) ∧
          (c ∈ found.cores → (t.cores[c]).retired = true ∧ (t.cores[c]).powered = false))) ∧
    (s.boot.state = 2 →
      (∀ (copyBad : BitVec 2) (i : Nat), slotOrder s (slotCode s 0) (slotCode s 1) = [i] → bitAt copyBad i = true → ∃ t : State,
        exec (.bootImageCheck copyBad) s = .next t ∧ t.boot.state = 1 ∧ t.boot.noValid = true ∧ t.boot.slotCode[i]? = some 7 ∧
        t.boot.llImem = s.boot.llImem ∧ bitAt t.bnd.gintStatus 1 = true ∧ t.cores = s.cores) ∧
      (∀ (copyBad : BitVec 2) (i j : Nat), slotOrder s (slotCode s 0) (slotCode s 1) = [i, j] → bitAt copyBad i = true →
        (bitAt copyBad j = true → ∃ t : State, exec (.bootImageCheck copyBad) s = .next t ∧ t.boot.state = 1 ∧ t.boot.noValid = true ∧
          t.boot.slotCode = #v[7, 7] ∧ t.cores = s.cores) ∧
        (bitAt copyBad j = false → s.host.sent = [] → ∃ t : State, exec (.bootImageCheck copyBad) s = .next t ∧ t.boot.state = 3 ∧
          t.boot.slotB = decide (j = 1) ∧ t.boot.slotCode[i]? = some 7 ∧ t.boot.slotCode[j]? = some 1 ∧
          t.boot.llImem = memStore [] 0 (memBytes s.staging (j * 0x100000 + 64) (bhLen (bootHeader s j))))) ∧
      (slotCode s 0 ≠ 1 → slotCode s 1 ≠ 1 → exec (.bootImageCheck 0) s = .next { s with
        bnd := { s.bnd with gintStatus := s.bnd.gintStatus ||| 0x002 }
        boot := { s.boot with
          state := 1, noValid := true, slotCode := #v[BitVec.ofNat 3 (slotCode s 0), BitVec.ofNat 3 (slotCode s 1)] } }) ∧
      (∀ i : Nat, (slotOrder s (slotCode s 0) (slotCode s 1)).head? = some i → s.host.sent = [] →
        ∃ t : State, exec (.bootImageCheck 0) s = .next t ∧ t.boot.state = 3 ∧ t.boot.slotB = decide (i = 1) ∧
          t.boot.llImem = memStore [] 0 (memBytes s.staging (i * 0x100000 + 64) (bhLen (bootHeader s i))) ∧
          t.boot.vector = BitVec.ofNat 32 (bhEntry (bootHeader s i)) ∧ (t.sg.regions[(0 : Fin 16)]).owner = 8 ∧
          (t.sg.regions[(1 : Fin 16)]).owner = 8 ∧ bitAt t.bnd.gintStatus 0 = true ∧ t.safety.plannerDue = true ∧
          (bitAt s.tick.ctrl 0 = false → t.cores = s.cores) ∧ (bitAt s.tick.ctrl 0 = true → t.tick.last = s.time))) ∧
    slotOrder s 1 1 = (if 1 ≤ (bhSeq (bootHeader s 1) + 2 ^ 32 - bhSeq (bootHeader s 0)) % 2 ^ 32 ∧
      (bhSeq (bootHeader s 1) + 2 ^ 32 - bhSeq (bootHeader s 0)) % 2 ^ 32 ≤ 2 ^ 31 - 1 then [1, 0] else [0, 1]))

/-- A warm restart whose image holds (R398 to R402): every started job has ended, KSAFE is low, the cause is recorded, the request that began it is
answered ST_OK; what Table 17.4 keeps stands. Without a kept image that holds the engine makes a cold start (log 37). A partition reset (R404): its
started jobs are stopped as HALT_SNUFFED with cause 3 and class FC_PARTITION and are gone, its queues are in the error state with nothing left to
pull, its tags are clear, no translation of its ASIDs is cached; a queue of another partition that has no head stands as it was. While the reset of a
partition runs, a write of its bit does nothing. Records that wait for the writes of their jobs (R20) are of classes below FC_ENGINE here, as all that
the engine makes are. A restart and a partition reset are one step each (logs 11, 37). -/
def Obligations.RestartsAndResets : Prop :=
  (∀ s : State,
    (∀ (by_ : Option (Fin 9)) (kind code : Nat), (∀ x ∈ s.host.owed, x.2.fc < 4) → imageHolds (warmSnuff (warmStop s)) = true → ∃ t : State,
      t = warmRestart by_ kind code s ∧ t.host.jobs = [] ∧ t.boot.state = 3 ∧ t.boot.cause = warmCause s.boot.cause kind code ∧
      t.bnd.ksafeA = false ∧ t.bnd.ksafeB = false ∧ t.bnd.kroot = s.bnd.kroot ∧ t.grade = s.grade ∧ t.boot.llImem = s.boot.llImem ∧
      t.safety.bin = s.safety.bin ∧ t.safety.fatal = s.safety.fatal ∧ s.time + us 20 ≤ t.time ∧
      (∀ p : PartId, (t.host.parts[p]).enabled = (s.host.parts[p]).enabled ∧ (t.host.parts[p]).secure = (s.host.parts[p]).secure) ∧
      (∀ m, by_ = some m → (mbOf t m).replyValid = true)) ∧
    (∀ (by_ : Option (Fin 9)) (kind code : Nat), imageHolds (warmSnuff (warmStop s)) = false →
      warmRestart by_ kind code s = coldStart 0 (warmSnuff (warmStop s))) ∧
    (∀ (m : MboxId) (p : PartId) (b : List Byte) (u : State), Requested 0xF0 none m p b s u →
      (canRestart s = true → exec .mbWarmRestart s = .next (warmRestart (some m) 2 0 u)) ∧
      (canRestart s = false → exec .mbWarmRestart s = .next (reply m 1 0 [] u))) ∧
    (∀ (acc : Access) (val : Word), acc.secure = true → s.boot.held = false → bitAt val 1 = false →
      (bitAt val 0 = true → canRestart s = true → exec (.llResetWarm acc val) s = .next (warmRestart none 2 0 s)) ∧
      (bitAt val 0 = false ∨ canRestart s = false → exec (.llResetWarm acc val) s = .next s))) ∧
  (∀ (acc : Access) (p : PartId) (s : State) (val : Word), acc.secure = true → val = BitVec.ofNat 32 (2 ^ p.val) →
    (llServes s = true → bitAt s.boot.partBusy p.val = false → ∃ t : State, exec (.llPartResetWrite acc val) s = .next t ∧
      (∀ q ∈ t.host.queues, q.part = p → q.state = .error ∧ q.pulled = q.submitted ∧ q.head = none) ∧
      (∀ x ∈ t.host.tags, tagHeld t.host.parts[p] x.tag = false) ∧
      (∀ e ∈ t.host.tlb, ∀ a ∈ t.host.asids, a.part = p → e.asid ≠ a.asid) ∧ (∀ j ∈ t.host.jobs, j.part ≠ p) ∧
      bitAt t.boot.partBusy p.val = false ∧ t.tick.state = s.tick.state ∧
      (∀ q ∈ s.host.queues, q.part ≠ p → q.head = none → (∀ r ∈ s.host.queues, r.qid = q.qid → r = q) →
        (∀ j ∈ s.host.jobs, j.part = p → j.qid ≠ q.qid) → q ∈ t.host.queues)) ∧
    (∀ (js : List Job) (j : Job) (v : State), js = s.host.jobs.filter (fun x => decide (x.part = p)) → j ∈ js → j.fail = none →
      (∀ k ∈ s.host.jobs, k.id = j.id → k = j) → v = forAll js (stopJob 3 3) s →
      ∃ (x : Job) (f : JobFail), findJob v j.id = some x ∧ x.fail = some f ∧ f.halt = 0x0F ∧ f.fc = 3 ∧ f.detail % 16 = 3 ∧
        (endJobs js v).host.jobs.all (fun k => decide (k.id ≠ j.id)) = true) ∧
    (llServes s = false ∨ bitAt s.boot.partBusy p.val = true → exec (.llPartResetWrite acc val) s = .next s))

/-- R405 whole: a reset of region z ends its load with ABORTED in state 3; in state 2 the user logic takes its initial values, and block RAM, pin
settings and ext_id stand; in states 1 and 4, and while a started FX command holds the region, it has no effect. -/
def Obligations.RegionResetByState : Prop :=
  ∀ (acc : Access) (z : RegionId) (s : State) (val : Word), acc.secure = true → val = BitVec.ofNat 32 (2 ^ z.val) →
    (fxHolds s z = false →
      ((s.fabric.regions[z]).state = 3 → ∀ l, s.fabric.load = some l → l.region = z → exec (.llRegionResetWrite acc val) s
        = .next (loadFail 10 l.applied.length s)) ∧
      ((s.fabric.regions[z]).state = 2 → ∃ t : State, exec (.llRegionResetWrite acc val) s = .next t ∧
        t = initialValues z s ∧ (t.fabric.regions[z]).cmdReady = false ∧
        (t.fabric.regions[z]).bram = (s.fabric.regions[z]).bram ∧ t.fabric.kio = s.fabric.kio ∧
        (t.fabric.regions[z]).extId = (s.fabric.regions[z]).extId) ∧
      ((s.fabric.regions[z]).state = 1 ∨ (s.fabric.regions[z]).state = 4 → exec (.llRegionResetWrite acc val) s = .next s)) ∧
    (fxHolds s z = true → exec (.llRegionResetWrite acc val) s = .next s)

/-- Worlds (R406, R407): a request for a block in use sets err; an accepted one is busy until its scrub is done, after which the block has the new
world and its memories are zero: of a core, its core memory, accumulators, weight buffer, curve tables, both instruction banks and its control core's
data, with its halt record; it then runs, or stays in reset in the fatal hold (R398). A core in retention that is wanted wakes in 20 µs with a reset
(R410). The model's choices: an absent block's request (log 65), and what a core loses in retention (log 39). -/
def Obligations.WorldChangesScrub : Prop :=
  ∀ s : State,
    (∀ (acc : Access) (val : Word) (kind index : Nat) (old : Bool), acc.secure = true → kind = fld val 0 2 → index = fld val 2 3 →
      worldOf s kind index = some old →
      (bitAt val 5 = old → exec (.llWorldReq acc val) s = .next s) ∧
      (bitAt val 5 ≠ old → (s.boot.worldBusy.isSome = true ∨ worldInUse s kind index = true) → exec (.llWorldReq acc val) s = .next
        { s with boot := { s.boot with worldKind := BitVec.ofNat 2 kind, worldIndex := BitVec.ofNat 3 index, worldErr := true } }) ∧
      (bitAt val 5 ≠ old → s.boot.worldBusy = none → worldInUse s kind index = false → kind ≠ 0 → exec (.llWorldReq acc val) s = .next
        { s with boot := { s.boot with
          worldKind := BitVec.ofNat 2 kind, worldIndex := BitVec.ofNat 3 index, worldErr := false
          worldBusy := some (BitVec.ofNat 2 kind, BitVec.ofNat 3 index, bitAt val 5) } }) ∧
      (bitAt val 5 ≠ old → s.boot.worldBusy = none → worldInUse s kind index = false → kind = 0 → exec (.llWorldReq acc val) s = .next
        (modCore (fin 6 index) (dropPlanes 0xF) { s with boot := { s.boot with
          worldKind := BitVec.ofNat 2 kind, worldIndex := BitVec.ofNat 3 index, worldErr := false
          worldBusy := some (BitVec.ofNat 2 kind, BitVec.ofNat 3 index, bitAt val 5) } }))) ∧
    (∀ (c : CoreId) (world : Bool), s.boot.worldBusy = some (0, BitVec.ofNat 3 c.val, world) → ∃ t : State,
      exec .worldScrubDone s = .next t ∧ t.boot.worldBusy = none ∧ (t.cores[c]).secure = world ∧ (t.cores[c]).mem.core = [] ∧
      (t.cores[c]).mem.wbuf = [] ∧ (t.cores[c]).mem.dmem = [] ∧ (t.cores[c]).mem.bank0 = [] ∧ (t.cores[c]).mem.bank1 = [] ∧
      (t.cores[c]).mem.acc = [] ∧ (t.cores[c]).mem.curve = [] ∧ (t.cores[c]).halt = ⟨0, 0, 0, 0, 0⟩ ∧
      (s.safety.fatal = false → (t.cores[c]).phase = .live) ∧ (s.safety.fatal = true → inReset t.cores[c] = true) ∧
      (∀ d : CoreId, d ≠ c → (t.cores[d]).mem = (s.cores[d]).mem ∧ (t.cores[d]).secure = (s.cores[d]).secure)) ∧
    (∀ (z : RegionId) (world : Bool), s.boot.worldBusy = some (1, BitVec.ofNat 3 z.val, world) → exec .worldScrubDone s = .next (bumpGen
      (modRegion z (fun r => { r with
        secure := world, state := 1, powered := false, cmdReady := false, extId := 0, bram := [], config := [], crcs := [], logic := Logic.cold })
        { s with boot := { s.boot with worldBusy := none } }))) ∧
    (∀ (l : LinkId) (world : Bool), s.boot.worldBusy = some (2, BitVec.ofNat 3 l.val, world) → ∃ t : State,
      exec .worldScrubDone s = .next t ∧ t.boot.worldBusy = none ∧ (t.links.ports[l]).secure = world ∧ (t.links.ports[l]).buffer = [] ∧
      (t.links.ports[l]).state = 2) ∧
    (∀ c : CoreId, inService s c = true → (s.cores[c]).retained = true → coreWanted s c = true → ∃ t : State,
      exec (.coreRetentionExit c) s = .next t ∧ t.time = s.time + us 20 ∧ (t.cores[c]).retained = false ∧
      (t.cores[c]).phase = .reset t.time ∧ (t.cores[c]).mem = (s.cores[c]).mem)
end

