-- ==== Sys2Proof/Laws/Access.lean ====
section
/-! SUPPORT. Laws/Access.lean: everything an access of the window can do (R10 to R13), and that every command of the window but REGISTER_WRITE
is one access. -/
namespace Sys2Proof.Machine
open Sys2Proof

/-- A refused access is the security fault and nothing else. -/
theorem access_refused {acc : Access} {off : Nat} {w : Bool} {f : State → State} {s : State} (h : acc.secure = false)
    (h' : secureAt s off w = true) : access acc off w f s = refuseAccess acc off s := by
  simp [access, h, h']

/-- An access that passes has its effect. -/
theorem access_passes {acc : Access} {off : Nat} {w : Bool} {f : State → State} {s : State} (h : Passes acc s off w) :
    access acc off w f s = f s := by
  obtain ⟨h1 | h1, h2⟩ := h <;> simp [access, h1, h2]

/-- A unit that does not answer reads zero and ignores writes. -/
theorem access_unanswered {acc : Access} {off : Nat} {w : Bool} {f : State → State} {s : State}
    (h : acc.secure = true ∨ secureAt s off w = false) (h' : answers s off = false) :
    access acc off w f s = if w then s else { s with busData := 0 } := by
  obtain h | h := h <;> simp [access, h, h']

/-- Every command of the window but REGISTER_WRITE is one access at its offset. -/
theorem exec_window {i : Instr} {acc : Access} {off : Nat} {w : Bool} (h : windowOf i = some (acc, off, w))
    (hr : ∀ a o z v, i ≠ .registerWrite a o z v) (s : State) :
    ∃ f : State → State, exec i s = .next (access acc off w f s) := by
  cases i
  case registerWrite => exact absurd rfl (hr _ _ _ _)
  all_goals simp only [windowOf, Option.some.injEq, Prod.mk.injEq, reduceCtorEq] at h
  all_goals obtain ⟨rfl, rfl, rfl⟩ := h
  case satCountRead | rowsIssuedRead | zeroCellsRead | stallFeedRead | stallDrainRead | stallLoadRead | frozenRead |
      throttledRead | swapWaitRead | stallMapRead | replaysRead | stemSkipRead | stemWaitRead | vxElemsRead |
      wxElemsRead | bytesExtRead | xfersRead | creditWaitRead | haloDropRead | queueCntRead | fxSpuriousRead |
      dbRejectRead | frLostRead | fenceStaleRead | fsigRejectRead | crcRead | replayRead | retrainRead | flitsRead |
      loadsRead | bramErrRead =>
    all_goals simp only [exec, execSatCountRead, execRowsIssuedRead, execZeroCellsRead, execStallFeedRead,
      execStallDrainRead, execStallLoadRead, execFrozenRead, execThrottledRead, execSwapWaitRead, execStallMapRead,
      execReplaysRead, execStemSkipRead, execStemWaitRead, execVxElemsRead, execWxElemsRead, execBytesExtRead,
      execXfersRead, execCreditWaitRead, execHaloDropRead, execQueueCntRead, execFxSpuriousRead, execDbRejectRead,
      execFrLostRead, execFenceStaleRead, execFsigRejectRead, execCrcRead, execReplayRead, execRetrainRead,
      execFlitsRead, execLoadsRead, execBramErrRead, coreRc, pageRc, linkRc, regionRc, rcRead]
    all_goals exact ⟨_, rfl⟩
  all_goals exact ⟨_, rfl⟩

/-- A REGISTER_WRITE that the world check refuses is refused whatever its width. -/
theorem registerWrite_refused {acc : Access} {off : BitVec 25} {size : AccSize} {val : Dword} {s : State} (h : acc.secure = false)
    (h' : secureAt s off.toNat true = true) :
    exec (.registerWrite acc off size val) s = .next (refuseAccess acc off.toNat s) := by
  simp [exec, execRegisterWrite, windowWrite, h, h']

/-- Every window access that the world check refuses is the security fault. -/
theorem exec_refused {i : Instr} {acc : Access} {off : Nat} {w : Bool} {s : State} (h : windowOf i = some (acc, off, w))
    (ha : acc.secure = false) (hs : secureAt s off w = true) : exec i s = .next (refuseAccess acc off s) := by
  by_cases hr : ∃ a o z v, i = .registerWrite a o z v
  · obtain ⟨a, o, z, v, rfl⟩ := hr
    cases h
    exact registerWrite_refused ha hs
  · obtain ⟨f, hf⟩ := exec_window h (fun a o z v e => hr ⟨a, o, z, v, e⟩) s
    rw [hf, access_refused ha hs]

/-- A command of the window whose access passes: its effect is the one of the access. -/
theorem readClears_of_rcRead {i : Instr} {acc : Access} {off : Nat} {get : State → Word} {clear : State → State}
    (h : ∀ s, exec i s = .next (rcRead acc off get clear s)) : ReadClears i acc off get clear := by
  intro s hp
  rw [h, rcRead, access_passes hp]

end Sys2Proof.Machine
end

