-- ==== Sys2Proof/Laws/Memory.lean ====
section
/-! SUPPORT. Laws/Memory.lean: the byte memory. Every store and every zeroing keeps the canonical form of Machine/Mem.lean;
a load after a store of the same byte gives it, and a store leaves every byte outside it alone. -/
namespace Sys2Proof.Machine
open Sys2Proof

/-! ### The cells a store lists -/

/-- Every cell of stored bytes lies in the bytes' range. -/
theorem cellsFrom_range (bs : List Byte) : ∀ (a : Nat) (c : Host.Cell), c ∈ cellsFrom a bs → a ≤ c.1 ∧ c.1 < a + bs.length := by
  induction bs with
  | nil => intro a c h; simp [cellsFrom] at h
  | cons b bs ih =>
    intro a c h
    simp only [cellsFrom] at h
    split at h
    · have := ih (a + 1) c h; simp only [List.length_cons]; omega
    · rcases List.mem_cons.1 h with rfl | h
      · simp
      · have := ih (a + 1) c h; simp only [List.length_cons]; omega

/-- The cells of stored bytes are canonical. -/
theorem cellsFrom_wf (bs : List Byte) : ∀ a : Nat, Memory.wf (cellsFrom a bs) := by
  induction bs with
  | nil => intro a; exact ⟨List.Pairwise.nil, fun c h => by simp [cellsFrom] at h⟩
  | cons b bs ih =>
    intro a
    simp only [cellsFrom]
    split
    · exact ih (a + 1)
    · rename_i hb
      refine ⟨List.Pairwise.cons (fun c h => ?_) (ih (a + 1)).1, fun c h => ?_⟩
      · have := (cellsFrom_range bs (a + 1) c h).1; simp only; omega
      · rcases List.mem_cons.1 h with rfl | h
        · exact hb
        · exact (ih (a + 1)).2 c h

/-! ### The canonical form -/

/-- The empty memory is canonical. -/
@[simp] theorem memory_nil_wf : Memory.wf [] := ⟨List.Pairwise.nil, fun c h => by simp at h⟩

/-- A canonical memory with cells left out is canonical. -/
theorem memory_filter_wf {m : Memory} (f : Host.Cell → Bool) (h : Memory.wf m) : Memory.wf (m.filter f) :=
  ⟨h.1.filter f, fun c hc => h.2 c (List.mem_filter.1 hc).1⟩

/-- A store keeps the canonical form. -/
theorem memStore_wf {m : Memory} (a : Nat) (bs : List Byte) (h : Memory.wf m) : Memory.wf (memStore m a bs) := by
  have hl := memory_filter_wf (fun c => decide (c.1 < a)) h
  have hr := memory_filter_wf (fun c => decide (a + bs.length ≤ c.1)) h
  have hc := cellsFrom_wf bs a
  unfold memStore
  refine ⟨List.pairwise_append.2 ⟨List.pairwise_append.2 ⟨hl.1, hc.1, ?_⟩, hr.1, ?_⟩, ?_⟩
  · intro x hx y hy
    have := cellsFrom_range bs a y hy
    have := of_decide_eq_true (List.mem_filter.1 hx).2
    omega
  · intro x hx y hy
    have := of_decide_eq_true (List.mem_filter.1 hy).2
    rcases List.mem_append.1 hx with hx | hx
    · have := of_decide_eq_true (List.mem_filter.1 hx).2; omega
    · have := cellsFrom_range bs a x hx; omega
  · intro c hc'
    rcases List.mem_append.1 hc' with h' | h'
    · rcases List.mem_append.1 h' with h' | h'
      · exact hl.2 c h'
      · exact hc.2 c h'
    · exact hr.2 c h'

/-- Zeroing bytes keeps the canonical form. -/
theorem memZero_wf {m : Memory} (a n : Nat) (h : Memory.wf m) : Memory.wf (memZero m a n) := memory_filter_wf _ h

/-! ### Loads -/

/-- A byte that no cell lists reads as the unlisted byte. -/
theorem memLoad_unlisted {m : Memory} {a : Nat} (h : ∀ c ∈ m, c.1 ≠ a) : memLoad m a = unlistedByte := by
  induction m with
  | nil => rfl
  | cons c m ih =>
    simp only [memLoad]
    rw [if_neg (h c (List.mem_cons_self ..))]
    exact ih (fun d hd => h d (List.mem_cons_of_mem _ hd))

/-- A load from two lists of cells: the first where it lists the address, else the second. -/
theorem memLoad_append (l m : Memory) (a : Nat) :
    memLoad (l ++ m) a = if l.any (fun c => decide (c.1 = a)) then memLoad l a else memLoad m a := by
  induction l with
  | nil => simp
  | cons c l ih =>
    simp only [List.cons_append, memLoad, List.any_cons]
    by_cases h : c.1 = a
    · simp [h]
    · simp [h, ih]

/-- Leaving out cells of other addresses does not change a load. -/
theorem memLoad_filter {m : Memory} {a : Nat} {f : Host.Cell → Bool} (h : ∀ c : Host.Cell, c.1 = a → f c = true) :
    memLoad (m.filter f) a = memLoad m a := by
  induction m with
  | nil => rfl
  | cons c m ih =>
    by_cases hc : c.1 = a
    · simp [h c hc, memLoad, hc]
    · cases hf : f c <;> simp [hf, memLoad, hc, ih]

/-- A load from the cells of stored bytes inside their range. -/
theorem memLoad_cellsFrom (bs : List Byte) : ∀ (a i : Nat), i < bs.length →
    memLoad (cellsFrom a bs) (a + i) = bs[i]?.getD unlistedByte := by
  induction bs with
  | nil => intro a i h; simp at h
  | cons b bs ih =>
    intro a i h
    simp only [cellsFrom]
    cases i with
    | zero =>
      split
      · rename_i hb
        rw [memLoad_unlisted (fun c hc => by have := cellsFrom_range bs (a + 1) c hc; omega)]
        simp [hb]
      · simp [memLoad]
    | succ i =>
      have h' : i < bs.length := by simpa using h
      have e : a + (i + 1) = a + 1 + i := by omega
      split
      · rw [e, ih (a + 1) i h']; simp
      · simp only [memLoad]
        rw [if_neg (by omega), e, ih (a + 1) i h']; simp

/-- A byte stored reads back. -/
theorem memLoad_memStore_same (m : Memory) (a : Nat) (bs : List Byte) (i : Nat) (h : i < bs.length) :
    memLoad (memStore m a bs) (a + i) = bs[i]?.getD unlistedByte := by
  unfold memStore
  rw [List.append_assoc, memLoad_append, if_neg, memLoad_append]
  · split
    · exact memLoad_cellsFrom bs a i h
    · rename_i hn
      have hx : memLoad (cellsFrom a bs) (a + i) = unlistedByte :=
        memLoad_unlisted (fun c hc e => hn (List.any_eq_true.2 ⟨c, hc, by simpa using e⟩))
      rw [memLoad_cellsFrom bs a i h] at hx
      rw [hx]
      exact memLoad_unlisted (fun c hc => by have := of_decide_eq_true (List.mem_filter.1 hc).2; omega)
  · intro hy
    obtain ⟨c, hc, e⟩ := List.any_eq_true.1 hy
    have := of_decide_eq_true (List.mem_filter.1 hc).2
    have := of_decide_eq_true e
    omega

/-- A byte outside a store reads as before. -/
theorem memLoad_memStore_other (m : Memory) (a : Nat) (bs : List Byte) (b : Nat) (h : b < a ∨ a + bs.length ≤ b) :
    memLoad (memStore m a bs) b = memLoad m b := by
  unfold memStore
  have hc : memLoad (cellsFrom a bs) b = unlistedByte :=
    memLoad_unlisted (fun c hc => by have := cellsFrom_range bs a c hc; omega)
  have hn : (cellsFrom a bs).any (fun c => decide (c.1 = b)) = false := by
    rw [List.any_eq_false]; intro c hc; have := cellsFrom_range bs a c hc; simp; omega
  rw [memLoad_append, List.any_append, hn, Bool.or_false]
  rcases h with h | h
  · split
    · rename_i hy
      rw [memLoad_append, if_pos hy]
      exact memLoad_filter (fun c e => by simp; omega)
    · rename_i hy
      rw [memLoad_unlisted (fun c hc => by have := of_decide_eq_true (List.mem_filter.1 hc).2; omega)]
      refine (memLoad_unlisted (fun c hc e => hy (List.any_eq_true.2 ⟨c, ?_, by simpa using e⟩))).symm
      exact List.mem_filter.2 ⟨hc, by simp; omega⟩
  · rw [if_neg]
    · exact memLoad_filter (fun c e => by simp; omega)
    · intro hy
      obtain ⟨c, hc, e⟩ := List.any_eq_true.1 hy
      have := of_decide_eq_true (List.mem_filter.1 hc).2
      have := of_decide_eq_true e
      omega

/-- A zeroed byte reads 0x00. -/
theorem memLoad_memZero_same (m : Memory) (a n b : Nat) (h : a ≤ b ∧ b < a + n) : memLoad (memZero m a n) b = unlistedByte :=
  memLoad_unlisted (fun c hc => by have := (List.mem_filter.1 hc).2; simp at this; omega)

/-- A byte outside a zeroed range reads as before. -/
theorem memLoad_memZero_other (m : Memory) (a n b : Nat) (h : b < a ∨ a + n ≤ b) :
    memLoad (memZero m a n) b = memLoad m b :=
  memLoad_filter (fun c e => by simp; omega)

/-! ### Several bytes -/

/-- A read of n bytes gives n bytes. -/
@[simp] theorem memBytes_length (m : Memory) (a n : Nat) : (memBytes m a n).length = n := by simp [memBytes]

/-- A read of n bytes gives each byte's load. -/
theorem memBytes_eq (m : Memory) (a n : Nat) : memBytes m a n = (List.range n).map (fun i => memLoad m (a + i)) := by
  unfold memBytes
  refine List.map_congr_left (fun i hi => ?_)
  have := List.mem_range.1 hi
  exact memLoad_filter (fun c e => by simp; omega)

/-- A read of just the stored bytes gives them. -/
theorem memBytes_memStore_same (m : Memory) (a : Nat) (bs : List Byte) : memBytes (memStore m a bs) a bs.length = bs := by
  rw [memBytes_eq]
  apply List.ext_getElem
  · simp
  · intro i h _
    have hi : i < bs.length := by simpa using h
    simp [memLoad_memStore_same m a bs i hi, hi]

/-- A read apart from a store is as before. -/
theorem memBytes_memStore_other (m : Memory) (a : Nat) (bs : List Byte) (b n : Nat)
    (h : b + n ≤ a ∨ a + bs.length ≤ b) : memBytes (memStore m a bs) b n = memBytes m b n := by
  rw [memBytes_eq, memBytes_eq]
  refine List.map_congr_left (fun i hi => ?_)
  have := List.mem_range.1 hi
  exact memLoad_memStore_other m a bs (b + i) (by omega)

/-- The empty memory reads zeros. -/
@[simp] theorem memLoad_nil (a : Nat) : memLoad [] a = unlistedByte := rfl

end Sys2Proof.Machine
end

