-- ==== Sys2Proof/Laws/State.lean ====
section
/-! SUPPORT. Laws/State.lean: what each update of the state leaves, one lemma per field per update, and what an update of one unit of a vector
does, so that no proof unfolds a record update. -/
namespace Sys2Proof.Machine
open Sys2Proof

/-! ### One unit of a vector -/

/-- The unit that was changed. -/
@[simp] theorem updAt_get_same {α : Type} {n : Nat} (v : Vector α n) (i : Fin n) (f : α → α) : (updAt v i f)[i] = f v[i] := by
  simp [updAt]

/-- Every other unit stands. -/
theorem updAt_get_other {α : Type} {n : Nat} (v : Vector α n) (i j : Fin n) (f : α → α) (h : j ≠ i) : (updAt v i f)[j] = v[j] := by
  simp only [updAt, Fin.getElem_fin]
  exact Vector.getElem_set_ne _ _ (fun e => h (Fin.ext e.symm))

/-- Two changes of one unit are one. -/
@[simp] theorem updAt_updAt {α : Type} {n : Nat} (v : Vector α n) (i : Fin n) (f g : α → α) :
    updAt (updAt v i f) i g = updAt v i (fun x => g (f x)) := by
  simp [updAt]

/-- A change that changes nothing. -/
@[simp] theorem updAt_self {α : Type} {n : Nat} (v : Vector α n) (i : Fin n) : updAt v i (fun x => x) = v := by
  simp [updAt]

/-- The core that was changed. -/
@[simp] theorem modCore_same (c : CoreId) (f : Core → Core) (s : State) : (modCore c f s).cores[c] = f s.cores[c] :=
  updAt_get_same _ _ _
/-- Every other core stands. -/
theorem modCore_other (c d : CoreId) (f : Core → Core) (s : State) (h : d ≠ c) : (modCore c f s).cores[d] = s.cores[d] :=
  updAt_get_other _ _ _ _ h
/-- Two changes of one core are one. -/
@[simp] theorem modCore_modCore (c : CoreId) (f g : Core → Core) (s : State) :
    modCore c g (modCore c f s) = modCore c (fun k => g (f k)) s := by simp [modCore]
/-- The partition that was changed. -/
@[simp] theorem modPart_same (p : PartId) (f : Partition → Partition) (s : State) :
    (modPart p f s).host.parts[p] = f s.host.parts[p] := updAt_get_same _ _ _
/-- Every other partition stands. -/
theorem modPart_other (p q : PartId) (f : Partition → Partition) (s : State) (h : q ≠ p) :
    (modPart p f s).host.parts[q] = s.host.parts[q] := updAt_get_other _ _ _ _ h
/-- Two changes of one partition are one. -/
@[simp] theorem modPart_modPart (p : PartId) (f g : Partition → Partition) (s : State) :
    modPart p g (modPart p f s) = modPart p (fun x => g (f x)) s := by simp [modPart]
/-- The link port that was changed. -/
@[simp] theorem modLink_same (l : LinkId) (f : LinkPort → LinkPort) (s : State) :
    (modLink l f s).links.ports[l] = f s.links.ports[l] := updAt_get_same _ _ _
/-- Every other link port stands. -/
theorem modLink_other (l m : LinkId) (f : LinkPort → LinkPort) (s : State) (h : m ≠ l) :
    (modLink l f s).links.ports[m] = s.links.ports[m] := updAt_get_other _ _ _ _ h
/-- Two changes of one link port are one. -/
@[simp] theorem modLink_modLink (l : LinkId) (f g : LinkPort → LinkPort) (s : State) :
    modLink l g (modLink l f s) = modLink l (fun x => g (f x)) s := by simp [modLink]
/-- The region that was changed. -/
@[simp] theorem modRegion_same (z : RegionId) (f : Region → Region) (s : State) :
    (modRegion z f s).fabric.regions[z] = f s.fabric.regions[z] := updAt_get_same _ _ _
/-- Every other region stands. -/
theorem modRegion_other (z y : RegionId) (f : Region → Region) (s : State) (h : y ≠ z) :
    (modRegion z f s).fabric.regions[y] = s.fabric.regions[y] := updAt_get_other _ _ _ _ h
/-- Two changes of one region are one. -/
@[simp] theorem modRegion_modRegion (z : RegionId) (f g : Region → Region) (s : State) :
    modRegion z g (modRegion z f s) = modRegion z (fun x => g (f x)) s := by simp [modRegion]

/-! ### Steps over a list -/

/-- What every step of a list keeps, the list keeps. -/
theorem forAll_keeps {α β : Type} (get : State → β) (f : α → State → State) (h : ∀ a s, get (f a s) = get s) (l : List α) (s : State) :
    get (forAll l f s) = get s := by
  induction l generalizing s with
  | nil => rfl
  | cons a l ih => exact (ih (f a s)).trans (h a s)

/-- As forAll_keeps, for a property of states. -/
theorem forAll_inv {α : Type} (P : State → Prop) (f : α → State → State) (h : ∀ a s, P s → P (f a s)) (l : List α) (s : State)
    (hs : P s) : P (forAll l f s) := by
  induction l generalizing s with
  | nil => exact hs
  | cons a l ih => exact ih (f a s) (h a s hs)

/-- Nothing to do. -/
@[simp] theorem forAll_nil {α : Type} (f : α → State → State) (s : State) : forAll [] f s = s := rfl
/-- One step, then the others. -/
@[simp] theorem forAll_cons {α : Type} (f : α → State → State) (a : α) (l : List α) (s : State) :
    forAll (a :: l) f s = forAll l f (f a s) := rfl

/-! ### What an update leaves -/


@[simp] theorem modCore_pending (c : CoreId) (f : Core → Core) (s : State) : (modCore c f s).pending = s.pending := rfl
@[simp] theorem modCore_freeCtr (c : CoreId) (f : Core → Core) (s : State) : (modCore c f s).freeCtr = s.freeCtr := rfl
@[simp] theorem modCore_busData (c : CoreId) (f : Core → Core) (s : State) : (modCore c f s).busData = s.busData := rfl
@[simp] theorem modCore_time (c : CoreId) (f : Core → Core) (s : State) : (modCore c f s).time = s.time := rfl
@[simp] theorem modCore_walkErr (c : CoreId) (f : Core → Core) (s : State) : (modCore c f s).walkErr = s.walkErr := rfl
@[simp] theorem modCore_ahead (c : CoreId) (f : Core → Core) (s : State) : (modCore c f s).ahead = s.ahead := rfl
@[simp] theorem modCore_haloMsgs (c : CoreId) (f : Core → Core) (s : State) : (modCore c f s).haloMsgs = s.haloMsgs := rfl
@[simp] theorem modCore_haloRuns (c : CoreId) (f : Core → Core) (s : State) : (modCore c f s).haloRuns = s.haloRuns := rfl
@[simp] theorem modCore_grade (c : CoreId) (f : Core → Core) (s : State) : (modCore c f s).grade = s.grade := rfl
@[simp] theorem modCore_bnd (c : CoreId) (f : Core → Core) (s : State) : (modCore c f s).bnd = s.bnd := rfl
@[simp] theorem modCore_sg (c : CoreId) (f : Core → Core) (s : State) : (modCore c f s).sg = s.sg := rfl
@[simp] theorem modCore_dram (c : CoreId) (f : Core → Core) (s : State) : (modCore c f s).dram = s.dram := rfl
@[simp] theorem modCore_staging (c : CoreId) (f : Core → Core) (s : State) : (modCore c f s).staging = s.staging := rfl
@[simp] theorem modCore_host (c : CoreId) (f : Core → Core) (s : State) : (modCore c f s).host = s.host := rfl
@[simp] theorem modCore_tick (c : CoreId) (f : Core → Core) (s : State) : (modCore c f s).tick = s.tick := rfl
@[simp] theorem modCore_safety (c : CoreId) (f : Core → Core) (s : State) : (modCore c f s).safety = s.safety := rfl
@[simp] theorem modCore_links (c : CoreId) (f : Core → Core) (s : State) : (modCore c f s).links = s.links := rfl
@[simp] theorem modCore_fabric (c : CoreId) (f : Core → Core) (s : State) : (modCore c f s).fabric = s.fabric := rfl
@[simp] theorem modCore_boot (c : CoreId) (f : Core → Core) (s : State) : (modCore c f s).boot = s.boot := rfl

@[simp] theorem modMx_pending (c : CoreId) (f : Mx → Mx) (s : State) : (modMx c f s).pending = s.pending := rfl
@[simp] theorem modMx_freeCtr (c : CoreId) (f : Mx → Mx) (s : State) : (modMx c f s).freeCtr = s.freeCtr := rfl
@[simp] theorem modMx_busData (c : CoreId) (f : Mx → Mx) (s : State) : (modMx c f s).busData = s.busData := rfl
@[simp] theorem modMx_time (c : CoreId) (f : Mx → Mx) (s : State) : (modMx c f s).time = s.time := rfl
@[simp] theorem modMx_walkErr (c : CoreId) (f : Mx → Mx) (s : State) : (modMx c f s).walkErr = s.walkErr := rfl
@[simp] theorem modMx_ahead (c : CoreId) (f : Mx → Mx) (s : State) : (modMx c f s).ahead = s.ahead := rfl
@[simp] theorem modMx_haloMsgs (c : CoreId) (f : Mx → Mx) (s : State) : (modMx c f s).haloMsgs = s.haloMsgs := rfl
@[simp] theorem modMx_haloRuns (c : CoreId) (f : Mx → Mx) (s : State) : (modMx c f s).haloRuns = s.haloRuns := rfl
@[simp] theorem modMx_grade (c : CoreId) (f : Mx → Mx) (s : State) : (modMx c f s).grade = s.grade := rfl
@[simp] theorem modMx_bnd (c : CoreId) (f : Mx → Mx) (s : State) : (modMx c f s).bnd = s.bnd := rfl
@[simp] theorem modMx_sg (c : CoreId) (f : Mx → Mx) (s : State) : (modMx c f s).sg = s.sg := rfl
@[simp] theorem modMx_dram (c : CoreId) (f : Mx → Mx) (s : State) : (modMx c f s).dram = s.dram := rfl
@[simp] theorem modMx_staging (c : CoreId) (f : Mx → Mx) (s : State) : (modMx c f s).staging = s.staging := rfl
@[simp] theorem modMx_host (c : CoreId) (f : Mx → Mx) (s : State) : (modMx c f s).host = s.host := rfl
@[simp] theorem modMx_tick (c : CoreId) (f : Mx → Mx) (s : State) : (modMx c f s).tick = s.tick := rfl
@[simp] theorem modMx_safety (c : CoreId) (f : Mx → Mx) (s : State) : (modMx c f s).safety = s.safety := rfl
@[simp] theorem modMx_links (c : CoreId) (f : Mx → Mx) (s : State) : (modMx c f s).links = s.links := rfl
@[simp] theorem modMx_fabric (c : CoreId) (f : Mx → Mx) (s : State) : (modMx c f s).fabric = s.fabric := rfl
@[simp] theorem modMx_boot (c : CoreId) (f : Mx → Mx) (s : State) : (modMx c f s).boot = s.boot := rfl

@[simp] theorem modChan_pending (c : CoreId) (ch : ChanId) (f : DxChan → DxChan) (s : State) : (modChan c ch f s).pending = s.pending := rfl
@[simp] theorem modChan_freeCtr (c : CoreId) (ch : ChanId) (f : DxChan → DxChan) (s : State) : (modChan c ch f s).freeCtr = s.freeCtr := rfl
@[simp] theorem modChan_busData (c : CoreId) (ch : ChanId) (f : DxChan → DxChan) (s : State) : (modChan c ch f s).busData = s.busData := rfl
@[simp] theorem modChan_time (c : CoreId) (ch : ChanId) (f : DxChan → DxChan) (s : State) : (modChan c ch f s).time = s.time := rfl
@[simp] theorem modChan_walkErr (c : CoreId) (ch : ChanId) (f : DxChan → DxChan) (s : State) : (modChan c ch f s).walkErr = s.walkErr := rfl
@[simp] theorem modChan_ahead (c : CoreId) (ch : ChanId) (f : DxChan → DxChan) (s : State) : (modChan c ch f s).ahead = s.ahead := rfl
@[simp] theorem modChan_haloMsgs (c : CoreId) (ch : ChanId) (f : DxChan → DxChan) (s : State) : (modChan c ch f s).haloMsgs = s.haloMsgs := rfl
@[simp] theorem modChan_haloRuns (c : CoreId) (ch : ChanId) (f : DxChan → DxChan) (s : State) : (modChan c ch f s).haloRuns = s.haloRuns := rfl
@[simp] theorem modChan_grade (c : CoreId) (ch : ChanId) (f : DxChan → DxChan) (s : State) : (modChan c ch f s).grade = s.grade := rfl
@[simp] theorem modChan_bnd (c : CoreId) (ch : ChanId) (f : DxChan → DxChan) (s : State) : (modChan c ch f s).bnd = s.bnd := rfl
@[simp] theorem modChan_sg (c : CoreId) (ch : ChanId) (f : DxChan → DxChan) (s : State) : (modChan c ch f s).sg = s.sg := rfl
@[simp] theorem modChan_dram (c : CoreId) (ch : ChanId) (f : DxChan → DxChan) (s : State) : (modChan c ch f s).dram = s.dram := rfl
@[simp] theorem modChan_staging (c : CoreId) (ch : ChanId) (f : DxChan → DxChan) (s : State) : (modChan c ch f s).staging = s.staging := rfl
@[simp] theorem modChan_host (c : CoreId) (ch : ChanId) (f : DxChan → DxChan) (s : State) : (modChan c ch f s).host = s.host := rfl
@[simp] theorem modChan_tick (c : CoreId) (ch : ChanId) (f : DxChan → DxChan) (s : State) : (modChan c ch f s).tick = s.tick := rfl
@[simp] theorem modChan_safety (c : CoreId) (ch : ChanId) (f : DxChan → DxChan) (s : State) : (modChan c ch f s).safety = s.safety := rfl
@[simp] theorem modChan_links (c : CoreId) (ch : ChanId) (f : DxChan → DxChan) (s : State) : (modChan c ch f s).links = s.links := rfl
@[simp] theorem modChan_fabric (c : CoreId) (ch : ChanId) (f : DxChan → DxChan) (s : State) : (modChan c ch f s).fabric = s.fabric := rfl
@[simp] theorem modChan_boot (c : CoreId) (ch : ChanId) (f : DxChan → DxChan) (s : State) : (modChan c ch f s).boot = s.boot := rfl

@[simp] theorem modCtl_pending (c : CoreId) (f : Ctl → Ctl) (s : State) : (modCtl c f s).pending = s.pending := rfl
@[simp] theorem modCtl_freeCtr (c : CoreId) (f : Ctl → Ctl) (s : State) : (modCtl c f s).freeCtr = s.freeCtr := rfl
@[simp] theorem modCtl_busData (c : CoreId) (f : Ctl → Ctl) (s : State) : (modCtl c f s).busData = s.busData := rfl
@[simp] theorem modCtl_time (c : CoreId) (f : Ctl → Ctl) (s : State) : (modCtl c f s).time = s.time := rfl
@[simp] theorem modCtl_walkErr (c : CoreId) (f : Ctl → Ctl) (s : State) : (modCtl c f s).walkErr = s.walkErr := rfl
@[simp] theorem modCtl_ahead (c : CoreId) (f : Ctl → Ctl) (s : State) : (modCtl c f s).ahead = s.ahead := rfl
@[simp] theorem modCtl_haloMsgs (c : CoreId) (f : Ctl → Ctl) (s : State) : (modCtl c f s).haloMsgs = s.haloMsgs := rfl
@[simp] theorem modCtl_haloRuns (c : CoreId) (f : Ctl → Ctl) (s : State) : (modCtl c f s).haloRuns = s.haloRuns := rfl
@[simp] theorem modCtl_grade (c : CoreId) (f : Ctl → Ctl) (s : State) : (modCtl c f s).grade = s.grade := rfl
@[simp] theorem modCtl_bnd (c : CoreId) (f : Ctl → Ctl) (s : State) : (modCtl c f s).bnd = s.bnd := rfl
@[simp] theorem modCtl_sg (c : CoreId) (f : Ctl → Ctl) (s : State) : (modCtl c f s).sg = s.sg := rfl
@[simp] theorem modCtl_dram (c : CoreId) (f : Ctl → Ctl) (s : State) : (modCtl c f s).dram = s.dram := rfl
@[simp] theorem modCtl_staging (c : CoreId) (f : Ctl → Ctl) (s : State) : (modCtl c f s).staging = s.staging := rfl
@[simp] theorem modCtl_host (c : CoreId) (f : Ctl → Ctl) (s : State) : (modCtl c f s).host = s.host := rfl
@[simp] theorem modCtl_tick (c : CoreId) (f : Ctl → Ctl) (s : State) : (modCtl c f s).tick = s.tick := rfl
@[simp] theorem modCtl_safety (c : CoreId) (f : Ctl → Ctl) (s : State) : (modCtl c f s).safety = s.safety := rfl
@[simp] theorem modCtl_links (c : CoreId) (f : Ctl → Ctl) (s : State) : (modCtl c f s).links = s.links := rfl
@[simp] theorem modCtl_fabric (c : CoreId) (f : Ctl → Ctl) (s : State) : (modCtl c f s).fabric = s.fabric := rfl
@[simp] theorem modCtl_boot (c : CoreId) (f : Ctl → Ctl) (s : State) : (modCtl c f s).boot = s.boot := rfl

@[simp] theorem modFx_pending (c : CoreId) (f : Fx → Fx) (s : State) : (modFx c f s).pending = s.pending := rfl
@[simp] theorem modFx_freeCtr (c : CoreId) (f : Fx → Fx) (s : State) : (modFx c f s).freeCtr = s.freeCtr := rfl
@[simp] theorem modFx_busData (c : CoreId) (f : Fx → Fx) (s : State) : (modFx c f s).busData = s.busData := rfl
@[simp] theorem modFx_time (c : CoreId) (f : Fx → Fx) (s : State) : (modFx c f s).time = s.time := rfl
@[simp] theorem modFx_walkErr (c : CoreId) (f : Fx → Fx) (s : State) : (modFx c f s).walkErr = s.walkErr := rfl
@[simp] theorem modFx_ahead (c : CoreId) (f : Fx → Fx) (s : State) : (modFx c f s).ahead = s.ahead := rfl
@[simp] theorem modFx_haloMsgs (c : CoreId) (f : Fx → Fx) (s : State) : (modFx c f s).haloMsgs = s.haloMsgs := rfl
@[simp] theorem modFx_haloRuns (c : CoreId) (f : Fx → Fx) (s : State) : (modFx c f s).haloRuns = s.haloRuns := rfl
@[simp] theorem modFx_grade (c : CoreId) (f : Fx → Fx) (s : State) : (modFx c f s).grade = s.grade := rfl
@[simp] theorem modFx_bnd (c : CoreId) (f : Fx → Fx) (s : State) : (modFx c f s).bnd = s.bnd := rfl
@[simp] theorem modFx_sg (c : CoreId) (f : Fx → Fx) (s : State) : (modFx c f s).sg = s.sg := rfl
@[simp] theorem modFx_dram (c : CoreId) (f : Fx → Fx) (s : State) : (modFx c f s).dram = s.dram := rfl
@[simp] theorem modFx_staging (c : CoreId) (f : Fx → Fx) (s : State) : (modFx c f s).staging = s.staging := rfl
@[simp] theorem modFx_host (c : CoreId) (f : Fx → Fx) (s : State) : (modFx c f s).host = s.host := rfl
@[simp] theorem modFx_tick (c : CoreId) (f : Fx → Fx) (s : State) : (modFx c f s).tick = s.tick := rfl
@[simp] theorem modFx_safety (c : CoreId) (f : Fx → Fx) (s : State) : (modFx c f s).safety = s.safety := rfl
@[simp] theorem modFx_links (c : CoreId) (f : Fx → Fx) (s : State) : (modFx c f s).links = s.links := rfl
@[simp] theorem modFx_fabric (c : CoreId) (f : Fx → Fx) (s : State) : (modFx c f s).fabric = s.fabric := rfl
@[simp] theorem modFx_boot (c : CoreId) (f : Fx → Fx) (s : State) : (modFx c f s).boot = s.boot := rfl

@[simp] theorem raiseHalt_pending (c : CoreId) (h : HaltCond) (s : State) : (raiseHalt c h s).pending = s.pending := rfl
@[simp] theorem raiseHalt_freeCtr (c : CoreId) (h : HaltCond) (s : State) : (raiseHalt c h s).freeCtr = s.freeCtr := rfl
@[simp] theorem raiseHalt_busData (c : CoreId) (h : HaltCond) (s : State) : (raiseHalt c h s).busData = s.busData := rfl
@[simp] theorem raiseHalt_time (c : CoreId) (h : HaltCond) (s : State) : (raiseHalt c h s).time = s.time := rfl
@[simp] theorem raiseHalt_walkErr (c : CoreId) (h : HaltCond) (s : State) : (raiseHalt c h s).walkErr = s.walkErr := rfl
@[simp] theorem raiseHalt_ahead (c : CoreId) (h : HaltCond) (s : State) : (raiseHalt c h s).ahead = s.ahead := rfl
@[simp] theorem raiseHalt_haloMsgs (c : CoreId) (h : HaltCond) (s : State) : (raiseHalt c h s).haloMsgs = s.haloMsgs := rfl
@[simp] theorem raiseHalt_haloRuns (c : CoreId) (h : HaltCond) (s : State) : (raiseHalt c h s).haloRuns = s.haloRuns := rfl
@[simp] theorem raiseHalt_grade (c : CoreId) (h : HaltCond) (s : State) : (raiseHalt c h s).grade = s.grade := rfl
@[simp] theorem raiseHalt_bnd (c : CoreId) (h : HaltCond) (s : State) : (raiseHalt c h s).bnd = s.bnd := rfl
@[simp] theorem raiseHalt_sg (c : CoreId) (h : HaltCond) (s : State) : (raiseHalt c h s).sg = s.sg := rfl
@[simp] theorem raiseHalt_dram (c : CoreId) (h : HaltCond) (s : State) : (raiseHalt c h s).dram = s.dram := rfl
@[simp] theorem raiseHalt_staging (c : CoreId) (h : HaltCond) (s : State) : (raiseHalt c h s).staging = s.staging := rfl
@[simp] theorem raiseHalt_host (c : CoreId) (h : HaltCond) (s : State) : (raiseHalt c h s).host = s.host := rfl
@[simp] theorem raiseHalt_tick (c : CoreId) (h : HaltCond) (s : State) : (raiseHalt c h s).tick = s.tick := rfl
@[simp] theorem raiseHalt_safety (c : CoreId) (h : HaltCond) (s : State) : (raiseHalt c h s).safety = s.safety := rfl
@[simp] theorem raiseHalt_links (c : CoreId) (h : HaltCond) (s : State) : (raiseHalt c h s).links = s.links := rfl
@[simp] theorem raiseHalt_fabric (c : CoreId) (h : HaltCond) (s : State) : (raiseHalt c h s).fabric = s.fabric := rfl
@[simp] theorem raiseHalt_boot (c : CoreId) (h : HaltCond) (s : State) : (raiseHalt c h s).boot = s.boot := rfl

@[simp] theorem modPart_pending (p : PartId) (f : Partition → Partition) (s : State) : (modPart p f s).pending = s.pending := rfl
@[simp] theorem modPart_freeCtr (p : PartId) (f : Partition → Partition) (s : State) : (modPart p f s).freeCtr = s.freeCtr := rfl
@[simp] theorem modPart_busData (p : PartId) (f : Partition → Partition) (s : State) : (modPart p f s).busData = s.busData := rfl
@[simp] theorem modPart_time (p : PartId) (f : Partition → Partition) (s : State) : (modPart p f s).time = s.time := rfl
@[simp] theorem modPart_walkErr (p : PartId) (f : Partition → Partition) (s : State) : (modPart p f s).walkErr = s.walkErr := rfl
@[simp] theorem modPart_ahead (p : PartId) (f : Partition → Partition) (s : State) : (modPart p f s).ahead = s.ahead := rfl
@[simp] theorem modPart_haloMsgs (p : PartId) (f : Partition → Partition) (s : State) : (modPart p f s).haloMsgs = s.haloMsgs := rfl
@[simp] theorem modPart_haloRuns (p : PartId) (f : Partition → Partition) (s : State) : (modPart p f s).haloRuns = s.haloRuns := rfl
@[simp] theorem modPart_grade (p : PartId) (f : Partition → Partition) (s : State) : (modPart p f s).grade = s.grade := rfl
@[simp] theorem modPart_bnd (p : PartId) (f : Partition → Partition) (s : State) : (modPart p f s).bnd = s.bnd := rfl
@[simp] theorem modPart_sg (p : PartId) (f : Partition → Partition) (s : State) : (modPart p f s).sg = s.sg := rfl
@[simp] theorem modPart_cores (p : PartId) (f : Partition → Partition) (s : State) : (modPart p f s).cores = s.cores := rfl
@[simp] theorem modPart_dram (p : PartId) (f : Partition → Partition) (s : State) : (modPart p f s).dram = s.dram := rfl
@[simp] theorem modPart_staging (p : PartId) (f : Partition → Partition) (s : State) : (modPart p f s).staging = s.staging := rfl
@[simp] theorem modPart_tick (p : PartId) (f : Partition → Partition) (s : State) : (modPart p f s).tick = s.tick := rfl
@[simp] theorem modPart_safety (p : PartId) (f : Partition → Partition) (s : State) : (modPart p f s).safety = s.safety := rfl
@[simp] theorem modPart_links (p : PartId) (f : Partition → Partition) (s : State) : (modPart p f s).links = s.links := rfl
@[simp] theorem modPart_fabric (p : PartId) (f : Partition → Partition) (s : State) : (modPart p f s).fabric = s.fabric := rfl
@[simp] theorem modPart_boot (p : PartId) (f : Partition → Partition) (s : State) : (modPart p f s).boot = s.boot := rfl

@[simp] theorem setPtInt_pending (p : PartId) (m : BitVec 5) (s : State) : (setPtInt p m s).pending = s.pending := rfl
@[simp] theorem setPtInt_freeCtr (p : PartId) (m : BitVec 5) (s : State) : (setPtInt p m s).freeCtr = s.freeCtr := rfl
@[simp] theorem setPtInt_busData (p : PartId) (m : BitVec 5) (s : State) : (setPtInt p m s).busData = s.busData := rfl
@[simp] theorem setPtInt_time (p : PartId) (m : BitVec 5) (s : State) : (setPtInt p m s).time = s.time := rfl
@[simp] theorem setPtInt_walkErr (p : PartId) (m : BitVec 5) (s : State) : (setPtInt p m s).walkErr = s.walkErr := rfl
@[simp] theorem setPtInt_ahead (p : PartId) (m : BitVec 5) (s : State) : (setPtInt p m s).ahead = s.ahead := rfl
@[simp] theorem setPtInt_haloMsgs (p : PartId) (m : BitVec 5) (s : State) : (setPtInt p m s).haloMsgs = s.haloMsgs := rfl
@[simp] theorem setPtInt_haloRuns (p : PartId) (m : BitVec 5) (s : State) : (setPtInt p m s).haloRuns = s.haloRuns := rfl
@[simp] theorem setPtInt_grade (p : PartId) (m : BitVec 5) (s : State) : (setPtInt p m s).grade = s.grade := rfl
@[simp] theorem setPtInt_bnd (p : PartId) (m : BitVec 5) (s : State) : (setPtInt p m s).bnd = s.bnd := rfl
@[simp] theorem setPtInt_sg (p : PartId) (m : BitVec 5) (s : State) : (setPtInt p m s).sg = s.sg := rfl
@[simp] theorem setPtInt_cores (p : PartId) (m : BitVec 5) (s : State) : (setPtInt p m s).cores = s.cores := rfl
@[simp] theorem setPtInt_dram (p : PartId) (m : BitVec 5) (s : State) : (setPtInt p m s).dram = s.dram := rfl
@[simp] theorem setPtInt_staging (p : PartId) (m : BitVec 5) (s : State) : (setPtInt p m s).staging = s.staging := rfl
@[simp] theorem setPtInt_tick (p : PartId) (m : BitVec 5) (s : State) : (setPtInt p m s).tick = s.tick := rfl
@[simp] theorem setPtInt_safety (p : PartId) (m : BitVec 5) (s : State) : (setPtInt p m s).safety = s.safety := rfl
@[simp] theorem setPtInt_links (p : PartId) (m : BitVec 5) (s : State) : (setPtInt p m s).links = s.links := rfl
@[simp] theorem setPtInt_fabric (p : PartId) (m : BitVec 5) (s : State) : (setPtInt p m s).fabric = s.fabric := rfl
@[simp] theorem setPtInt_boot (p : PartId) (m : BitVec 5) (s : State) : (setPtInt p m s).boot = s.boot := rfl

@[simp] theorem setSmInt_pending (m : BitVec 2) (s : State) : (setSmInt m s).pending = s.pending := rfl
@[simp] theorem setSmInt_freeCtr (m : BitVec 2) (s : State) : (setSmInt m s).freeCtr = s.freeCtr := rfl
@[simp] theorem setSmInt_busData (m : BitVec 2) (s : State) : (setSmInt m s).busData = s.busData := rfl
@[simp] theorem setSmInt_time (m : BitVec 2) (s : State) : (setSmInt m s).time = s.time := rfl
@[simp] theorem setSmInt_walkErr (m : BitVec 2) (s : State) : (setSmInt m s).walkErr = s.walkErr := rfl
@[simp] theorem setSmInt_ahead (m : BitVec 2) (s : State) : (setSmInt m s).ahead = s.ahead := rfl
@[simp] theorem setSmInt_haloMsgs (m : BitVec 2) (s : State) : (setSmInt m s).haloMsgs = s.haloMsgs := rfl
@[simp] theorem setSmInt_haloRuns (m : BitVec 2) (s : State) : (setSmInt m s).haloRuns = s.haloRuns := rfl
@[simp] theorem setSmInt_grade (m : BitVec 2) (s : State) : (setSmInt m s).grade = s.grade := rfl
@[simp] theorem setSmInt_bnd (m : BitVec 2) (s : State) : (setSmInt m s).bnd = s.bnd := rfl
@[simp] theorem setSmInt_sg (m : BitVec 2) (s : State) : (setSmInt m s).sg = s.sg := rfl
@[simp] theorem setSmInt_cores (m : BitVec 2) (s : State) : (setSmInt m s).cores = s.cores := rfl
@[simp] theorem setSmInt_dram (m : BitVec 2) (s : State) : (setSmInt m s).dram = s.dram := rfl
@[simp] theorem setSmInt_staging (m : BitVec 2) (s : State) : (setSmInt m s).staging = s.staging := rfl
@[simp] theorem setSmInt_tick (m : BitVec 2) (s : State) : (setSmInt m s).tick = s.tick := rfl
@[simp] theorem setSmInt_safety (m : BitVec 2) (s : State) : (setSmInt m s).safety = s.safety := rfl
@[simp] theorem setSmInt_links (m : BitVec 2) (s : State) : (setSmInt m s).links = s.links := rfl
@[simp] theorem setSmInt_fabric (m : BitVec 2) (s : State) : (setSmInt m s).fabric = s.fabric := rfl
@[simp] theorem setSmInt_boot (m : BitVec 2) (s : State) : (setSmInt m s).boot = s.boot := rfl

@[simp] theorem bumpGen_pending (s : State) : (bumpGen s).pending = s.pending := rfl
@[simp] theorem bumpGen_freeCtr (s : State) : (bumpGen s).freeCtr = s.freeCtr := rfl
@[simp] theorem bumpGen_busData (s : State) : (bumpGen s).busData = s.busData := rfl
@[simp] theorem bumpGen_time (s : State) : (bumpGen s).time = s.time := rfl
@[simp] theorem bumpGen_walkErr (s : State) : (bumpGen s).walkErr = s.walkErr := rfl
@[simp] theorem bumpGen_ahead (s : State) : (bumpGen s).ahead = s.ahead := rfl
@[simp] theorem bumpGen_haloMsgs (s : State) : (bumpGen s).haloMsgs = s.haloMsgs := rfl
@[simp] theorem bumpGen_haloRuns (s : State) : (bumpGen s).haloRuns = s.haloRuns := rfl
@[simp] theorem bumpGen_grade (s : State) : (bumpGen s).grade = s.grade := rfl
@[simp] theorem bumpGen_bnd (s : State) : (bumpGen s).bnd = s.bnd := rfl
@[simp] theorem bumpGen_sg (s : State) : (bumpGen s).sg = s.sg := rfl
@[simp] theorem bumpGen_cores (s : State) : (bumpGen s).cores = s.cores := rfl
@[simp] theorem bumpGen_dram (s : State) : (bumpGen s).dram = s.dram := rfl
@[simp] theorem bumpGen_staging (s : State) : (bumpGen s).staging = s.staging := rfl
@[simp] theorem bumpGen_tick (s : State) : (bumpGen s).tick = s.tick := rfl
@[simp] theorem bumpGen_safety (s : State) : (bumpGen s).safety = s.safety := rfl
@[simp] theorem bumpGen_links (s : State) : (bumpGen s).links = s.links := rfl
@[simp] theorem bumpGen_fabric (s : State) : (bumpGen s).fabric = s.fabric := rfl
@[simp] theorem bumpGen_boot (s : State) : (bumpGen s).boot = s.boot := rfl

@[simp] theorem modJob_pending (id : Nat) (f : Job → Job) (s : State) : (modJob id f s).pending = s.pending := rfl
@[simp] theorem modJob_freeCtr (id : Nat) (f : Job → Job) (s : State) : (modJob id f s).freeCtr = s.freeCtr := rfl
@[simp] theorem modJob_busData (id : Nat) (f : Job → Job) (s : State) : (modJob id f s).busData = s.busData := rfl
@[simp] theorem modJob_time (id : Nat) (f : Job → Job) (s : State) : (modJob id f s).time = s.time := rfl
@[simp] theorem modJob_walkErr (id : Nat) (f : Job → Job) (s : State) : (modJob id f s).walkErr = s.walkErr := rfl
@[simp] theorem modJob_ahead (id : Nat) (f : Job → Job) (s : State) : (modJob id f s).ahead = s.ahead := rfl
@[simp] theorem modJob_haloMsgs (id : Nat) (f : Job → Job) (s : State) : (modJob id f s).haloMsgs = s.haloMsgs := rfl
@[simp] theorem modJob_haloRuns (id : Nat) (f : Job → Job) (s : State) : (modJob id f s).haloRuns = s.haloRuns := rfl
@[simp] theorem modJob_grade (id : Nat) (f : Job → Job) (s : State) : (modJob id f s).grade = s.grade := rfl
@[simp] theorem modJob_bnd (id : Nat) (f : Job → Job) (s : State) : (modJob id f s).bnd = s.bnd := rfl
@[simp] theorem modJob_sg (id : Nat) (f : Job → Job) (s : State) : (modJob id f s).sg = s.sg := rfl
@[simp] theorem modJob_cores (id : Nat) (f : Job → Job) (s : State) : (modJob id f s).cores = s.cores := rfl
@[simp] theorem modJob_dram (id : Nat) (f : Job → Job) (s : State) : (modJob id f s).dram = s.dram := rfl
@[simp] theorem modJob_staging (id : Nat) (f : Job → Job) (s : State) : (modJob id f s).staging = s.staging := rfl
@[simp] theorem modJob_tick (id : Nat) (f : Job → Job) (s : State) : (modJob id f s).tick = s.tick := rfl
@[simp] theorem modJob_safety (id : Nat) (f : Job → Job) (s : State) : (modJob id f s).safety = s.safety := rfl
@[simp] theorem modJob_links (id : Nat) (f : Job → Job) (s : State) : (modJob id f s).links = s.links := rfl
@[simp] theorem modJob_fabric (id : Nat) (f : Job → Job) (s : State) : (modJob id f s).fabric = s.fabric := rfl
@[simp] theorem modJob_boot (id : Nat) (f : Job → Job) (s : State) : (modJob id f s).boot = s.boot := rfl

@[simp] theorem modQueue_pending (q : Nat) (f : HostQueue → HostQueue) (s : State) : (modQueue q f s).pending = s.pending := rfl
@[simp] theorem modQueue_freeCtr (q : Nat) (f : HostQueue → HostQueue) (s : State) : (modQueue q f s).freeCtr = s.freeCtr := rfl
@[simp] theorem modQueue_busData (q : Nat) (f : HostQueue → HostQueue) (s : State) : (modQueue q f s).busData = s.busData := rfl
@[simp] theorem modQueue_time (q : Nat) (f : HostQueue → HostQueue) (s : State) : (modQueue q f s).time = s.time := rfl
@[simp] theorem modQueue_walkErr (q : Nat) (f : HostQueue → HostQueue) (s : State) : (modQueue q f s).walkErr = s.walkErr := rfl
@[simp] theorem modQueue_ahead (q : Nat) (f : HostQueue → HostQueue) (s : State) : (modQueue q f s).ahead = s.ahead := rfl
@[simp] theorem modQueue_haloMsgs (q : Nat) (f : HostQueue → HostQueue) (s : State) : (modQueue q f s).haloMsgs = s.haloMsgs := rfl
@[simp] theorem modQueue_haloRuns (q : Nat) (f : HostQueue → HostQueue) (s : State) : (modQueue q f s).haloRuns = s.haloRuns := rfl
@[simp] theorem modQueue_grade (q : Nat) (f : HostQueue → HostQueue) (s : State) : (modQueue q f s).grade = s.grade := rfl
@[simp] theorem modQueue_bnd (q : Nat) (f : HostQueue → HostQueue) (s : State) : (modQueue q f s).bnd = s.bnd := rfl
@[simp] theorem modQueue_sg (q : Nat) (f : HostQueue → HostQueue) (s : State) : (modQueue q f s).sg = s.sg := rfl
@[simp] theorem modQueue_cores (q : Nat) (f : HostQueue → HostQueue) (s : State) : (modQueue q f s).cores = s.cores := rfl
@[simp] theorem modQueue_dram (q : Nat) (f : HostQueue → HostQueue) (s : State) : (modQueue q f s).dram = s.dram := rfl
@[simp] theorem modQueue_staging (q : Nat) (f : HostQueue → HostQueue) (s : State) : (modQueue q f s).staging = s.staging := rfl
@[simp] theorem modQueue_tick (q : Nat) (f : HostQueue → HostQueue) (s : State) : (modQueue q f s).tick = s.tick := rfl
@[simp] theorem modQueue_safety (q : Nat) (f : HostQueue → HostQueue) (s : State) : (modQueue q f s).safety = s.safety := rfl
@[simp] theorem modQueue_links (q : Nat) (f : HostQueue → HostQueue) (s : State) : (modQueue q f s).links = s.links := rfl
@[simp] theorem modQueue_fabric (q : Nat) (f : HostQueue → HostQueue) (s : State) : (modQueue q f s).fabric = s.fabric := rfl
@[simp] theorem modQueue_boot (q : Nat) (f : HostQueue → HostQueue) (s : State) : (modQueue q f s).boot = s.boot := rfl

@[simp] theorem modFence_pending (a : Nat) (f : Fence → Fence) (s : State) : (modFence a f s).pending = s.pending := rfl
@[simp] theorem modFence_freeCtr (a : Nat) (f : Fence → Fence) (s : State) : (modFence a f s).freeCtr = s.freeCtr := rfl
@[simp] theorem modFence_busData (a : Nat) (f : Fence → Fence) (s : State) : (modFence a f s).busData = s.busData := rfl
@[simp] theorem modFence_time (a : Nat) (f : Fence → Fence) (s : State) : (modFence a f s).time = s.time := rfl
@[simp] theorem modFence_walkErr (a : Nat) (f : Fence → Fence) (s : State) : (modFence a f s).walkErr = s.walkErr := rfl
@[simp] theorem modFence_ahead (a : Nat) (f : Fence → Fence) (s : State) : (modFence a f s).ahead = s.ahead := rfl
@[simp] theorem modFence_haloMsgs (a : Nat) (f : Fence → Fence) (s : State) : (modFence a f s).haloMsgs = s.haloMsgs := rfl
@[simp] theorem modFence_haloRuns (a : Nat) (f : Fence → Fence) (s : State) : (modFence a f s).haloRuns = s.haloRuns := rfl
@[simp] theorem modFence_grade (a : Nat) (f : Fence → Fence) (s : State) : (modFence a f s).grade = s.grade := rfl
@[simp] theorem modFence_bnd (a : Nat) (f : Fence → Fence) (s : State) : (modFence a f s).bnd = s.bnd := rfl
@[simp] theorem modFence_sg (a : Nat) (f : Fence → Fence) (s : State) : (modFence a f s).sg = s.sg := rfl
@[simp] theorem modFence_cores (a : Nat) (f : Fence → Fence) (s : State) : (modFence a f s).cores = s.cores := rfl
@[simp] theorem modFence_dram (a : Nat) (f : Fence → Fence) (s : State) : (modFence a f s).dram = s.dram := rfl
@[simp] theorem modFence_staging (a : Nat) (f : Fence → Fence) (s : State) : (modFence a f s).staging = s.staging := rfl
@[simp] theorem modFence_tick (a : Nat) (f : Fence → Fence) (s : State) : (modFence a f s).tick = s.tick := rfl
@[simp] theorem modFence_safety (a : Nat) (f : Fence → Fence) (s : State) : (modFence a f s).safety = s.safety := rfl
@[simp] theorem modFence_links (a : Nat) (f : Fence → Fence) (s : State) : (modFence a f s).links = s.links := rfl
@[simp] theorem modFence_fabric (a : Nat) (f : Fence → Fence) (s : State) : (modFence a f s).fabric = s.fabric := rfl
@[simp] theorem modFence_boot (a : Nat) (f : Fence → Fence) (s : State) : (modFence a f s).boot = s.boot := rfl

@[simp] theorem modPort_pending (n : StreamId) (f : StrmPort → StrmPort) (s : State) : (modPort n f s).pending = s.pending := rfl
@[simp] theorem modPort_freeCtr (n : StreamId) (f : StrmPort → StrmPort) (s : State) : (modPort n f s).freeCtr = s.freeCtr := rfl
@[simp] theorem modPort_busData (n : StreamId) (f : StrmPort → StrmPort) (s : State) : (modPort n f s).busData = s.busData := rfl
@[simp] theorem modPort_time (n : StreamId) (f : StrmPort → StrmPort) (s : State) : (modPort n f s).time = s.time := rfl
@[simp] theorem modPort_walkErr (n : StreamId) (f : StrmPort → StrmPort) (s : State) : (modPort n f s).walkErr = s.walkErr := rfl
@[simp] theorem modPort_ahead (n : StreamId) (f : StrmPort → StrmPort) (s : State) : (modPort n f s).ahead = s.ahead := rfl
@[simp] theorem modPort_haloMsgs (n : StreamId) (f : StrmPort → StrmPort) (s : State) : (modPort n f s).haloMsgs = s.haloMsgs := rfl
@[simp] theorem modPort_haloRuns (n : StreamId) (f : StrmPort → StrmPort) (s : State) : (modPort n f s).haloRuns = s.haloRuns := rfl
@[simp] theorem modPort_grade (n : StreamId) (f : StrmPort → StrmPort) (s : State) : (modPort n f s).grade = s.grade := rfl
@[simp] theorem modPort_sg (n : StreamId) (f : StrmPort → StrmPort) (s : State) : (modPort n f s).sg = s.sg := rfl
@[simp] theorem modPort_cores (n : StreamId) (f : StrmPort → StrmPort) (s : State) : (modPort n f s).cores = s.cores := rfl
@[simp] theorem modPort_dram (n : StreamId) (f : StrmPort → StrmPort) (s : State) : (modPort n f s).dram = s.dram := rfl
@[simp] theorem modPort_staging (n : StreamId) (f : StrmPort → StrmPort) (s : State) : (modPort n f s).staging = s.staging := rfl
@[simp] theorem modPort_host (n : StreamId) (f : StrmPort → StrmPort) (s : State) : (modPort n f s).host = s.host := rfl
@[simp] theorem modPort_tick (n : StreamId) (f : StrmPort → StrmPort) (s : State) : (modPort n f s).tick = s.tick := rfl
@[simp] theorem modPort_safety (n : StreamId) (f : StrmPort → StrmPort) (s : State) : (modPort n f s).safety = s.safety := rfl
@[simp] theorem modPort_links (n : StreamId) (f : StrmPort → StrmPort) (s : State) : (modPort n f s).links = s.links := rfl
@[simp] theorem modPort_fabric (n : StreamId) (f : StrmPort → StrmPort) (s : State) : (modPort n f s).fabric = s.fabric := rfl
@[simp] theorem modPort_boot (n : StreamId) (f : StrmPort → StrmPort) (s : State) : (modPort n f s).boot = s.boot := rfl

@[simp] theorem setGint_pending (m : BitVec 12) (s : State) : (setGint m s).pending = s.pending := rfl
@[simp] theorem setGint_freeCtr (m : BitVec 12) (s : State) : (setGint m s).freeCtr = s.freeCtr := rfl
@[simp] theorem setGint_busData (m : BitVec 12) (s : State) : (setGint m s).busData = s.busData := rfl
@[simp] theorem setGint_time (m : BitVec 12) (s : State) : (setGint m s).time = s.time := rfl
@[simp] theorem setGint_walkErr (m : BitVec 12) (s : State) : (setGint m s).walkErr = s.walkErr := rfl
@[simp] theorem setGint_ahead (m : BitVec 12) (s : State) : (setGint m s).ahead = s.ahead := rfl
@[simp] theorem setGint_haloMsgs (m : BitVec 12) (s : State) : (setGint m s).haloMsgs = s.haloMsgs := rfl
@[simp] theorem setGint_haloRuns (m : BitVec 12) (s : State) : (setGint m s).haloRuns = s.haloRuns := rfl
@[simp] theorem setGint_grade (m : BitVec 12) (s : State) : (setGint m s).grade = s.grade := rfl
@[simp] theorem setGint_sg (m : BitVec 12) (s : State) : (setGint m s).sg = s.sg := rfl
@[simp] theorem setGint_cores (m : BitVec 12) (s : State) : (setGint m s).cores = s.cores := rfl
@[simp] theorem setGint_dram (m : BitVec 12) (s : State) : (setGint m s).dram = s.dram := rfl
@[simp] theorem setGint_staging (m : BitVec 12) (s : State) : (setGint m s).staging = s.staging := rfl
@[simp] theorem setGint_host (m : BitVec 12) (s : State) : (setGint m s).host = s.host := rfl
@[simp] theorem setGint_tick (m : BitVec 12) (s : State) : (setGint m s).tick = s.tick := rfl
@[simp] theorem setGint_safety (m : BitVec 12) (s : State) : (setGint m s).safety = s.safety := rfl
@[simp] theorem setGint_links (m : BitVec 12) (s : State) : (setGint m s).links = s.links := rfl
@[simp] theorem setGint_fabric (m : BitVec 12) (s : State) : (setGint m s).fabric = s.fabric := rfl
@[simp] theorem setGint_boot (m : BitVec 12) (s : State) : (setGint m s).boot = s.boot := rfl

@[simp] theorem modLink_pending (l : LinkId) (f : LinkPort → LinkPort) (s : State) : (modLink l f s).pending = s.pending := rfl
@[simp] theorem modLink_freeCtr (l : LinkId) (f : LinkPort → LinkPort) (s : State) : (modLink l f s).freeCtr = s.freeCtr := rfl
@[simp] theorem modLink_busData (l : LinkId) (f : LinkPort → LinkPort) (s : State) : (modLink l f s).busData = s.busData := rfl
@[simp] theorem modLink_time (l : LinkId) (f : LinkPort → LinkPort) (s : State) : (modLink l f s).time = s.time := rfl
@[simp] theorem modLink_walkErr (l : LinkId) (f : LinkPort → LinkPort) (s : State) : (modLink l f s).walkErr = s.walkErr := rfl
@[simp] theorem modLink_ahead (l : LinkId) (f : LinkPort → LinkPort) (s : State) : (modLink l f s).ahead = s.ahead := rfl
@[simp] theorem modLink_haloMsgs (l : LinkId) (f : LinkPort → LinkPort) (s : State) : (modLink l f s).haloMsgs = s.haloMsgs := rfl
@[simp] theorem modLink_haloRuns (l : LinkId) (f : LinkPort → LinkPort) (s : State) : (modLink l f s).haloRuns = s.haloRuns := rfl
@[simp] theorem modLink_grade (l : LinkId) (f : LinkPort → LinkPort) (s : State) : (modLink l f s).grade = s.grade := rfl
@[simp] theorem modLink_bnd (l : LinkId) (f : LinkPort → LinkPort) (s : State) : (modLink l f s).bnd = s.bnd := rfl
@[simp] theorem modLink_sg (l : LinkId) (f : LinkPort → LinkPort) (s : State) : (modLink l f s).sg = s.sg := rfl
@[simp] theorem modLink_cores (l : LinkId) (f : LinkPort → LinkPort) (s : State) : (modLink l f s).cores = s.cores := rfl
@[simp] theorem modLink_dram (l : LinkId) (f : LinkPort → LinkPort) (s : State) : (modLink l f s).dram = s.dram := rfl
@[simp] theorem modLink_staging (l : LinkId) (f : LinkPort → LinkPort) (s : State) : (modLink l f s).staging = s.staging := rfl
@[simp] theorem modLink_host (l : LinkId) (f : LinkPort → LinkPort) (s : State) : (modLink l f s).host = s.host := rfl
@[simp] theorem modLink_tick (l : LinkId) (f : LinkPort → LinkPort) (s : State) : (modLink l f s).tick = s.tick := rfl
@[simp] theorem modLink_safety (l : LinkId) (f : LinkPort → LinkPort) (s : State) : (modLink l f s).safety = s.safety := rfl
@[simp] theorem modLink_fabric (l : LinkId) (f : LinkPort → LinkPort) (s : State) : (modLink l f s).fabric = s.fabric := rfl
@[simp] theorem modLink_boot (l : LinkId) (f : LinkPort → LinkPort) (s : State) : (modLink l f s).boot = s.boot := rfl

@[simp] theorem modLinks_pending (f : Links → Links) (s : State) : (modLinks f s).pending = s.pending := rfl
@[simp] theorem modLinks_freeCtr (f : Links → Links) (s : State) : (modLinks f s).freeCtr = s.freeCtr := rfl
@[simp] theorem modLinks_busData (f : Links → Links) (s : State) : (modLinks f s).busData = s.busData := rfl
@[simp] theorem modLinks_time (f : Links → Links) (s : State) : (modLinks f s).time = s.time := rfl
@[simp] theorem modLinks_walkErr (f : Links → Links) (s : State) : (modLinks f s).walkErr = s.walkErr := rfl
@[simp] theorem modLinks_ahead (f : Links → Links) (s : State) : (modLinks f s).ahead = s.ahead := rfl
@[simp] theorem modLinks_haloMsgs (f : Links → Links) (s : State) : (modLinks f s).haloMsgs = s.haloMsgs := rfl
@[simp] theorem modLinks_haloRuns (f : Links → Links) (s : State) : (modLinks f s).haloRuns = s.haloRuns := rfl
@[simp] theorem modLinks_grade (f : Links → Links) (s : State) : (modLinks f s).grade = s.grade := rfl
@[simp] theorem modLinks_bnd (f : Links → Links) (s : State) : (modLinks f s).bnd = s.bnd := rfl
@[simp] theorem modLinks_sg (f : Links → Links) (s : State) : (modLinks f s).sg = s.sg := rfl
@[simp] theorem modLinks_cores (f : Links → Links) (s : State) : (modLinks f s).cores = s.cores := rfl
@[simp] theorem modLinks_dram (f : Links → Links) (s : State) : (modLinks f s).dram = s.dram := rfl
@[simp] theorem modLinks_staging (f : Links → Links) (s : State) : (modLinks f s).staging = s.staging := rfl
@[simp] theorem modLinks_host (f : Links → Links) (s : State) : (modLinks f s).host = s.host := rfl
@[simp] theorem modLinks_tick (f : Links → Links) (s : State) : (modLinks f s).tick = s.tick := rfl
@[simp] theorem modLinks_safety (f : Links → Links) (s : State) : (modLinks f s).safety = s.safety := rfl
@[simp] theorem modLinks_fabric (f : Links → Links) (s : State) : (modLinks f s).fabric = s.fabric := rfl
@[simp] theorem modLinks_boot (f : Links → Links) (s : State) : (modLinks f s).boot = s.boot := rfl

@[simp] theorem modRegion_pending (z : RegionId) (f : Region → Region) (s : State) : (modRegion z f s).pending = s.pending := rfl
@[simp] theorem modRegion_freeCtr (z : RegionId) (f : Region → Region) (s : State) : (modRegion z f s).freeCtr = s.freeCtr := rfl
@[simp] theorem modRegion_busData (z : RegionId) (f : Region → Region) (s : State) : (modRegion z f s).busData = s.busData := rfl
@[simp] theorem modRegion_time (z : RegionId) (f : Region → Region) (s : State) : (modRegion z f s).time = s.time := rfl
@[simp] theorem modRegion_walkErr (z : RegionId) (f : Region → Region) (s : State) : (modRegion z f s).walkErr = s.walkErr := rfl
@[simp] theorem modRegion_ahead (z : RegionId) (f : Region → Region) (s : State) : (modRegion z f s).ahead = s.ahead := rfl
@[simp] theorem modRegion_haloMsgs (z : RegionId) (f : Region → Region) (s : State) : (modRegion z f s).haloMsgs = s.haloMsgs := rfl
@[simp] theorem modRegion_haloRuns (z : RegionId) (f : Region → Region) (s : State) : (modRegion z f s).haloRuns = s.haloRuns := rfl
@[simp] theorem modRegion_grade (z : RegionId) (f : Region → Region) (s : State) : (modRegion z f s).grade = s.grade := rfl
@[simp] theorem modRegion_bnd (z : RegionId) (f : Region → Region) (s : State) : (modRegion z f s).bnd = s.bnd := rfl
@[simp] theorem modRegion_sg (z : RegionId) (f : Region → Region) (s : State) : (modRegion z f s).sg = s.sg := rfl
@[simp] theorem modRegion_cores (z : RegionId) (f : Region → Region) (s : State) : (modRegion z f s).cores = s.cores := rfl
@[simp] theorem modRegion_dram (z : RegionId) (f : Region → Region) (s : State) : (modRegion z f s).dram = s.dram := rfl
@[simp] theorem modRegion_staging (z : RegionId) (f : Region → Region) (s : State) : (modRegion z f s).staging = s.staging := rfl
@[simp] theorem modRegion_host (z : RegionId) (f : Region → Region) (s : State) : (modRegion z f s).host = s.host := rfl
@[simp] theorem modRegion_tick (z : RegionId) (f : Region → Region) (s : State) : (modRegion z f s).tick = s.tick := rfl
@[simp] theorem modRegion_safety (z : RegionId) (f : Region → Region) (s : State) : (modRegion z f s).safety = s.safety := rfl
@[simp] theorem modRegion_links (z : RegionId) (f : Region → Region) (s : State) : (modRegion z f s).links = s.links := rfl
@[simp] theorem modRegion_boot (z : RegionId) (f : Region → Region) (s : State) : (modRegion z f s).boot = s.boot := rfl

@[simp] theorem modFabric_pending (f : Fabric → Fabric) (s : State) : (modFabric f s).pending = s.pending := rfl
@[simp] theorem modFabric_freeCtr (f : Fabric → Fabric) (s : State) : (modFabric f s).freeCtr = s.freeCtr := rfl
@[simp] theorem modFabric_busData (f : Fabric → Fabric) (s : State) : (modFabric f s).busData = s.busData := rfl
@[simp] theorem modFabric_time (f : Fabric → Fabric) (s : State) : (modFabric f s).time = s.time := rfl
@[simp] theorem modFabric_walkErr (f : Fabric → Fabric) (s : State) : (modFabric f s).walkErr = s.walkErr := rfl
@[simp] theorem modFabric_ahead (f : Fabric → Fabric) (s : State) : (modFabric f s).ahead = s.ahead := rfl
@[simp] theorem modFabric_haloMsgs (f : Fabric → Fabric) (s : State) : (modFabric f s).haloMsgs = s.haloMsgs := rfl
@[simp] theorem modFabric_haloRuns (f : Fabric → Fabric) (s : State) : (modFabric f s).haloRuns = s.haloRuns := rfl
@[simp] theorem modFabric_grade (f : Fabric → Fabric) (s : State) : (modFabric f s).grade = s.grade := rfl
@[simp] theorem modFabric_bnd (f : Fabric → Fabric) (s : State) : (modFabric f s).bnd = s.bnd := rfl
@[simp] theorem modFabric_sg (f : Fabric → Fabric) (s : State) : (modFabric f s).sg = s.sg := rfl
@[simp] theorem modFabric_cores (f : Fabric → Fabric) (s : State) : (modFabric f s).cores = s.cores := rfl
@[simp] theorem modFabric_dram (f : Fabric → Fabric) (s : State) : (modFabric f s).dram = s.dram := rfl
@[simp] theorem modFabric_staging (f : Fabric → Fabric) (s : State) : (modFabric f s).staging = s.staging := rfl
@[simp] theorem modFabric_host (f : Fabric → Fabric) (s : State) : (modFabric f s).host = s.host := rfl
@[simp] theorem modFabric_tick (f : Fabric → Fabric) (s : State) : (modFabric f s).tick = s.tick := rfl
@[simp] theorem modFabric_safety (f : Fabric → Fabric) (s : State) : (modFabric f s).safety = s.safety := rfl
@[simp] theorem modFabric_links (f : Fabric → Fabric) (s : State) : (modFabric f s).links = s.links := rfl
@[simp] theorem modFabric_boot (f : Fabric → Fabric) (s : State) : (modFabric f s).boot = s.boot := rfl

@[simp] theorem modTimer_pending (k : Fin 4) (f : FbTimer → FbTimer) (s : State) : (modTimer k f s).pending = s.pending := rfl
@[simp] theorem modTimer_freeCtr (k : Fin 4) (f : FbTimer → FbTimer) (s : State) : (modTimer k f s).freeCtr = s.freeCtr := rfl
@[simp] theorem modTimer_busData (k : Fin 4) (f : FbTimer → FbTimer) (s : State) : (modTimer k f s).busData = s.busData := rfl
@[simp] theorem modTimer_time (k : Fin 4) (f : FbTimer → FbTimer) (s : State) : (modTimer k f s).time = s.time := rfl
@[simp] theorem modTimer_walkErr (k : Fin 4) (f : FbTimer → FbTimer) (s : State) : (modTimer k f s).walkErr = s.walkErr := rfl
@[simp] theorem modTimer_ahead (k : Fin 4) (f : FbTimer → FbTimer) (s : State) : (modTimer k f s).ahead = s.ahead := rfl
@[simp] theorem modTimer_haloMsgs (k : Fin 4) (f : FbTimer → FbTimer) (s : State) : (modTimer k f s).haloMsgs = s.haloMsgs := rfl
@[simp] theorem modTimer_haloRuns (k : Fin 4) (f : FbTimer → FbTimer) (s : State) : (modTimer k f s).haloRuns = s.haloRuns := rfl
@[simp] theorem modTimer_grade (k : Fin 4) (f : FbTimer → FbTimer) (s : State) : (modTimer k f s).grade = s.grade := rfl
@[simp] theorem modTimer_bnd (k : Fin 4) (f : FbTimer → FbTimer) (s : State) : (modTimer k f s).bnd = s.bnd := rfl
@[simp] theorem modTimer_sg (k : Fin 4) (f : FbTimer → FbTimer) (s : State) : (modTimer k f s).sg = s.sg := rfl
@[simp] theorem modTimer_cores (k : Fin 4) (f : FbTimer → FbTimer) (s : State) : (modTimer k f s).cores = s.cores := rfl
@[simp] theorem modTimer_dram (k : Fin 4) (f : FbTimer → FbTimer) (s : State) : (modTimer k f s).dram = s.dram := rfl
@[simp] theorem modTimer_staging (k : Fin 4) (f : FbTimer → FbTimer) (s : State) : (modTimer k f s).staging = s.staging := rfl
@[simp] theorem modTimer_host (k : Fin 4) (f : FbTimer → FbTimer) (s : State) : (modTimer k f s).host = s.host := rfl
@[simp] theorem modTimer_tick (k : Fin 4) (f : FbTimer → FbTimer) (s : State) : (modTimer k f s).tick = s.tick := rfl
@[simp] theorem modTimer_safety (k : Fin 4) (f : FbTimer → FbTimer) (s : State) : (modTimer k f s).safety = s.safety := rfl
@[simp] theorem modTimer_links (k : Fin 4) (f : FbTimer → FbTimer) (s : State) : (modTimer k f s).links = s.links := rfl
@[simp] theorem modTimer_boot (k : Fin 4) (f : FbTimer → FbTimer) (s : State) : (modTimer k f s).boot = s.boot := rfl

@[simp] theorem setSfInt_pending (m : BitVec 5) (s : State) : (setSfInt m s).pending = s.pending := rfl
@[simp] theorem setSfInt_freeCtr (m : BitVec 5) (s : State) : (setSfInt m s).freeCtr = s.freeCtr := rfl
@[simp] theorem setSfInt_busData (m : BitVec 5) (s : State) : (setSfInt m s).busData = s.busData := rfl
@[simp] theorem setSfInt_time (m : BitVec 5) (s : State) : (setSfInt m s).time = s.time := rfl
@[simp] theorem setSfInt_walkErr (m : BitVec 5) (s : State) : (setSfInt m s).walkErr = s.walkErr := rfl
@[simp] theorem setSfInt_ahead (m : BitVec 5) (s : State) : (setSfInt m s).ahead = s.ahead := rfl
@[simp] theorem setSfInt_haloMsgs (m : BitVec 5) (s : State) : (setSfInt m s).haloMsgs = s.haloMsgs := rfl
@[simp] theorem setSfInt_haloRuns (m : BitVec 5) (s : State) : (setSfInt m s).haloRuns = s.haloRuns := rfl
@[simp] theorem setSfInt_grade (m : BitVec 5) (s : State) : (setSfInt m s).grade = s.grade := rfl
@[simp] theorem setSfInt_bnd (m : BitVec 5) (s : State) : (setSfInt m s).bnd = s.bnd := rfl
@[simp] theorem setSfInt_sg (m : BitVec 5) (s : State) : (setSfInt m s).sg = s.sg := rfl
@[simp] theorem setSfInt_cores (m : BitVec 5) (s : State) : (setSfInt m s).cores = s.cores := rfl
@[simp] theorem setSfInt_dram (m : BitVec 5) (s : State) : (setSfInt m s).dram = s.dram := rfl
@[simp] theorem setSfInt_staging (m : BitVec 5) (s : State) : (setSfInt m s).staging = s.staging := rfl
@[simp] theorem setSfInt_host (m : BitVec 5) (s : State) : (setSfInt m s).host = s.host := rfl
@[simp] theorem setSfInt_tick (m : BitVec 5) (s : State) : (setSfInt m s).tick = s.tick := rfl
@[simp] theorem setSfInt_links (m : BitVec 5) (s : State) : (setSfInt m s).links = s.links := rfl
@[simp] theorem setSfInt_fabric (m : BitVec 5) (s : State) : (setSfInt m s).fabric = s.fabric := rfl
@[simp] theorem setSfInt_boot (m : BitVec 5) (s : State) : (setSfInt m s).boot = s.boot := rfl

@[simp] theorem finishScrub_pending (m : MemName) (s : State) : (finishScrub m s).pending = s.pending := rfl
@[simp] theorem finishScrub_freeCtr (m : MemName) (s : State) : (finishScrub m s).freeCtr = s.freeCtr := rfl
@[simp] theorem finishScrub_busData (m : MemName) (s : State) : (finishScrub m s).busData = s.busData := rfl
@[simp] theorem finishScrub_time (m : MemName) (s : State) : (finishScrub m s).time = s.time := rfl
@[simp] theorem finishScrub_walkErr (m : MemName) (s : State) : (finishScrub m s).walkErr = s.walkErr := rfl
@[simp] theorem finishScrub_ahead (m : MemName) (s : State) : (finishScrub m s).ahead = s.ahead := rfl
@[simp] theorem finishScrub_haloMsgs (m : MemName) (s : State) : (finishScrub m s).haloMsgs = s.haloMsgs := rfl
@[simp] theorem finishScrub_haloRuns (m : MemName) (s : State) : (finishScrub m s).haloRuns = s.haloRuns := rfl
@[simp] theorem finishScrub_grade (m : MemName) (s : State) : (finishScrub m s).grade = s.grade := rfl
@[simp] theorem finishScrub_bnd (m : MemName) (s : State) : (finishScrub m s).bnd = s.bnd := rfl
@[simp] theorem finishScrub_sg (m : MemName) (s : State) : (finishScrub m s).sg = s.sg := rfl
@[simp] theorem finishScrub_cores (m : MemName) (s : State) : (finishScrub m s).cores = s.cores := rfl
@[simp] theorem finishScrub_dram (m : MemName) (s : State) : (finishScrub m s).dram = s.dram := rfl
@[simp] theorem finishScrub_staging (m : MemName) (s : State) : (finishScrub m s).staging = s.staging := rfl
@[simp] theorem finishScrub_host (m : MemName) (s : State) : (finishScrub m s).host = s.host := rfl
@[simp] theorem finishScrub_tick (m : MemName) (s : State) : (finishScrub m s).tick = s.tick := rfl
@[simp] theorem finishScrub_links (m : MemName) (s : State) : (finishScrub m s).links = s.links := rfl
@[simp] theorem finishScrub_fabric (m : MemName) (s : State) : (finishScrub m s).fabric = s.fabric := rfl
@[simp] theorem finishScrub_boot (m : MemName) (s : State) : (finishScrub m s).boot = s.boot := rfl

@[simp] theorem modBoot_pending (f : Boot → Boot) (s : State) : (modBoot f s).pending = s.pending := rfl
@[simp] theorem modBoot_freeCtr (f : Boot → Boot) (s : State) : (modBoot f s).freeCtr = s.freeCtr := rfl
@[simp] theorem modBoot_busData (f : Boot → Boot) (s : State) : (modBoot f s).busData = s.busData := rfl
@[simp] theorem modBoot_time (f : Boot → Boot) (s : State) : (modBoot f s).time = s.time := rfl
@[simp] theorem modBoot_walkErr (f : Boot → Boot) (s : State) : (modBoot f s).walkErr = s.walkErr := rfl
@[simp] theorem modBoot_ahead (f : Boot → Boot) (s : State) : (modBoot f s).ahead = s.ahead := rfl
@[simp] theorem modBoot_haloMsgs (f : Boot → Boot) (s : State) : (modBoot f s).haloMsgs = s.haloMsgs := rfl
@[simp] theorem modBoot_haloRuns (f : Boot → Boot) (s : State) : (modBoot f s).haloRuns = s.haloRuns := rfl
@[simp] theorem modBoot_grade (f : Boot → Boot) (s : State) : (modBoot f s).grade = s.grade := rfl
@[simp] theorem modBoot_bnd (f : Boot → Boot) (s : State) : (modBoot f s).bnd = s.bnd := rfl
@[simp] theorem modBoot_sg (f : Boot → Boot) (s : State) : (modBoot f s).sg = s.sg := rfl
@[simp] theorem modBoot_cores (f : Boot → Boot) (s : State) : (modBoot f s).cores = s.cores := rfl
@[simp] theorem modBoot_dram (f : Boot → Boot) (s : State) : (modBoot f s).dram = s.dram := rfl
@[simp] theorem modBoot_staging (f : Boot → Boot) (s : State) : (modBoot f s).staging = s.staging := rfl
@[simp] theorem modBoot_host (f : Boot → Boot) (s : State) : (modBoot f s).host = s.host := rfl
@[simp] theorem modBoot_tick (f : Boot → Boot) (s : State) : (modBoot f s).tick = s.tick := rfl
@[simp] theorem modBoot_safety (f : Boot → Boot) (s : State) : (modBoot f s).safety = s.safety := rfl
@[simp] theorem modBoot_links (f : Boot → Boot) (s : State) : (modBoot f s).links = s.links := rfl
@[simp] theorem modBoot_fabric (f : Boot → Boot) (s : State) : (modBoot f s).fabric = s.fabric := rfl

@[simp] theorem atTime_pending (t : Nat) (s : State) : (atTime t s).pending = s.pending := rfl
@[simp] theorem atTime_freeCtr (t : Nat) (s : State) : (atTime t s).freeCtr = s.freeCtr := rfl
@[simp] theorem atTime_busData (t : Nat) (s : State) : (atTime t s).busData = s.busData := rfl
@[simp] theorem atTime_walkErr (t : Nat) (s : State) : (atTime t s).walkErr = s.walkErr := rfl
@[simp] theorem atTime_ahead (t : Nat) (s : State) : (atTime t s).ahead = s.ahead := rfl
@[simp] theorem atTime_haloMsgs (t : Nat) (s : State) : (atTime t s).haloMsgs = s.haloMsgs := rfl
@[simp] theorem atTime_haloRuns (t : Nat) (s : State) : (atTime t s).haloRuns = s.haloRuns := rfl
@[simp] theorem atTime_grade (t : Nat) (s : State) : (atTime t s).grade = s.grade := rfl
@[simp] theorem atTime_bnd (t : Nat) (s : State) : (atTime t s).bnd = s.bnd := rfl
@[simp] theorem atTime_sg (t : Nat) (s : State) : (atTime t s).sg = s.sg := rfl
@[simp] theorem atTime_cores (t : Nat) (s : State) : (atTime t s).cores = s.cores := rfl
@[simp] theorem atTime_dram (t : Nat) (s : State) : (atTime t s).dram = s.dram := rfl
@[simp] theorem atTime_staging (t : Nat) (s : State) : (atTime t s).staging = s.staging := rfl
@[simp] theorem atTime_host (t : Nat) (s : State) : (atTime t s).host = s.host := rfl
@[simp] theorem atTime_tick (t : Nat) (s : State) : (atTime t s).tick = s.tick := rfl
@[simp] theorem atTime_safety (t : Nat) (s : State) : (atTime t s).safety = s.safety := rfl
@[simp] theorem atTime_links (t : Nat) (s : State) : (atTime t s).links = s.links := rfl
@[simp] theorem atTime_fabric (t : Nat) (s : State) : (atTime t s).fabric = s.fabric := rfl
@[simp] theorem atTime_boot (t : Nat) (s : State) : (atTime t s).boot = s.boot := rfl

@[simp] theorem storeSpa_pending (a : Nat) (bs : List Byte) (s : State) : (storeSpa a bs s).pending = s.pending := rfl
@[simp] theorem storeSpa_freeCtr (a : Nat) (bs : List Byte) (s : State) : (storeSpa a bs s).freeCtr = s.freeCtr := rfl
@[simp] theorem storeSpa_busData (a : Nat) (bs : List Byte) (s : State) : (storeSpa a bs s).busData = s.busData := rfl
@[simp] theorem storeSpa_time (a : Nat) (bs : List Byte) (s : State) : (storeSpa a bs s).time = s.time := rfl
@[simp] theorem storeSpa_walkErr (a : Nat) (bs : List Byte) (s : State) : (storeSpa a bs s).walkErr = s.walkErr := rfl
@[simp] theorem storeSpa_ahead (a : Nat) (bs : List Byte) (s : State) : (storeSpa a bs s).ahead = s.ahead := rfl
@[simp] theorem storeSpa_haloMsgs (a : Nat) (bs : List Byte) (s : State) : (storeSpa a bs s).haloMsgs = s.haloMsgs := rfl
@[simp] theorem storeSpa_haloRuns (a : Nat) (bs : List Byte) (s : State) : (storeSpa a bs s).haloRuns = s.haloRuns := rfl
@[simp] theorem storeSpa_grade (a : Nat) (bs : List Byte) (s : State) : (storeSpa a bs s).grade = s.grade := rfl
@[simp] theorem storeSpa_bnd (a : Nat) (bs : List Byte) (s : State) : (storeSpa a bs s).bnd = s.bnd := rfl
@[simp] theorem storeSpa_sg (a : Nat) (bs : List Byte) (s : State) : (storeSpa a bs s).sg = s.sg := rfl
@[simp] theorem storeSpa_cores (a : Nat) (bs : List Byte) (s : State) : (storeSpa a bs s).cores = s.cores := rfl
@[simp] theorem storeSpa_staging (a : Nat) (bs : List Byte) (s : State) : (storeSpa a bs s).staging = s.staging := rfl
@[simp] theorem storeSpa_host (a : Nat) (bs : List Byte) (s : State) : (storeSpa a bs s).host = s.host := rfl
@[simp] theorem storeSpa_tick (a : Nat) (bs : List Byte) (s : State) : (storeSpa a bs s).tick = s.tick := rfl
@[simp] theorem storeSpa_safety (a : Nat) (bs : List Byte) (s : State) : (storeSpa a bs s).safety = s.safety := rfl
@[simp] theorem storeSpa_links (a : Nat) (bs : List Byte) (s : State) : (storeSpa a bs s).links = s.links := rfl
@[simp] theorem storeSpa_fabric (a : Nat) (bs : List Byte) (s : State) : (storeSpa a bs s).fabric = s.fabric := rfl
@[simp] theorem storeSpa_boot (a : Nat) (bs : List Byte) (s : State) : (storeSpa a bs s).boot = s.boot := rfl

/-! ### Inside the parts -/

/-- An interrupt cause of a partition changes its causes alone. -/
@[simp] theorem setPtInt_same (p : PartId) (m : BitVec 5) (s : State) :
    (setPtInt p m s).host.parts[p] = { (s.host.parts[p]) with intStatus := (s.host.parts[p]).intStatus ||| m } := modPart_same _ _ _
@[simp] theorem modPart_fences (p : PartId) (f : Partition → Partition) (s : State) : (modPart p f s).host.fences = s.host.fences := rfl
@[simp] theorem modPart_queues (p : PartId) (f : Partition → Partition) (s : State) : (modPart p f s).host.queues = s.host.queues := rfl
@[simp] theorem modPart_jobs (p : PartId) (f : Partition → Partition) (s : State) : (modPart p f s).host.jobs = s.host.jobs := rfl
@[simp] theorem modPart_sent (p : PartId) (f : Partition → Partition) (s : State) : (modPart p f s).host.sent = s.host.sent := rfl
@[simp] theorem modQueue_parts (q : Nat) (f : HostQueue → HostQueue) (s : State) : (modQueue q f s).host.parts = s.host.parts := rfl
@[simp] theorem modQueue_jobs (q : Nat) (f : HostQueue → HostQueue) (s : State) : (modQueue q f s).host.jobs = s.host.jobs := rfl
@[simp] theorem modQueue_fences (q : Nat) (f : HostQueue → HostQueue) (s : State) : (modQueue q f s).host.fences = s.host.fences := rfl
@[simp] theorem modJob_parts (id : Nat) (f : Job → Job) (s : State) : (modJob id f s).host.parts = s.host.parts := rfl
@[simp] theorem modJob_queues (id : Nat) (f : Job → Job) (s : State) : (modJob id f s).host.queues = s.host.queues := rfl
@[simp] theorem modFence_parts (a : Nat) (f : Fence → Fence) (s : State) : (modFence a f s).host.parts = s.host.parts := rfl
@[simp] theorem modFence_queues (a : Nat) (f : Fence → Fence) (s : State) : (modFence a f s).host.queues = s.host.queues := rfl
@[simp] theorem modFence_jobs (a : Nat) (f : Fence → Fence) (s : State) : (modFence a f s).host.jobs = s.host.jobs := rfl
@[simp] theorem setGint_ksafeA (m : BitVec 12) (s : State) : (setGint m s).bnd.ksafeA = s.bnd.ksafeA := rfl
@[simp] theorem setGint_ksafeB (m : BitVec 12) (s : State) : (setGint m s).bnd.ksafeB = s.bnd.ksafeB := rfl
@[simp] theorem modPort_ksafeA (n : StreamId) (f : StrmPort → StrmPort) (s : State) : (modPort n f s).bnd.ksafeA = s.bnd.ksafeA := rfl
@[simp] theorem modPort_ksafeB (n : StreamId) (f : StrmPort → StrmPort) (s : State) : (modPort n f s).bnd.ksafeB = s.bnd.ksafeB := rfl
@[simp] theorem setSfInt_stopped (m : BitVec 5) (s : State) : (setSfInt m s).safety.stopped = s.safety.stopped := rfl
@[simp] theorem finishScrub_stopped (m : MemName) (s : State) : (finishScrub m s).safety.stopped = s.safety.stopped := rfl
@[simp] theorem modRegion_load (z : RegionId) (f : Region → Region) (s : State) : (modRegion z f s).fabric.load = s.fabric.load := rfl
@[simp] theorem modLink_routes (l : LinkId) (f : LinkPort → LinkPort) (s : State) : (modLink l f s).links.routes = s.links.routes := rfl
@[simp] theorem modLink_rx (l : LinkId) (f : LinkPort → LinkPort) (s : State) : (modLink l f s).links.rx = s.links.rx := rfl

/-! ### Words written whole (R320): only the poisoned words change -/

@[simp] theorem freshWords_pending (m : MemName) (r : List (Nat × Nat)) (s : State) : (freshWords m r s).pending = s.pending := rfl
@[simp] theorem freshWords_ahead (m : MemName) (r : List (Nat × Nat)) (s : State) : (freshWords m r s).ahead = s.ahead := rfl
@[simp] theorem freshWords_freeCtr (m : MemName) (r : List (Nat × Nat)) (s : State) : (freshWords m r s).freeCtr = s.freeCtr := rfl
@[simp] theorem freshWords_busData (m : MemName) (r : List (Nat × Nat)) (s : State) : (freshWords m r s).busData = s.busData := rfl
@[simp] theorem freshWords_time (m : MemName) (r : List (Nat × Nat)) (s : State) : (freshWords m r s).time = s.time := rfl
@[simp] theorem freshWords_walkErr (m : MemName) (r : List (Nat × Nat)) (s : State) : (freshWords m r s).walkErr = s.walkErr := rfl
@[simp] theorem freshWords_haloMsgs (m : MemName) (r : List (Nat × Nat)) (s : State) : (freshWords m r s).haloMsgs = s.haloMsgs := rfl
@[simp] theorem freshWords_haloRuns (m : MemName) (r : List (Nat × Nat)) (s : State) : (freshWords m r s).haloRuns = s.haloRuns := rfl
@[simp] theorem freshWords_grade (m : MemName) (r : List (Nat × Nat)) (s : State) : (freshWords m r s).grade = s.grade := rfl
@[simp] theorem freshWords_bnd (m : MemName) (r : List (Nat × Nat)) (s : State) : (freshWords m r s).bnd = s.bnd := rfl
@[simp] theorem freshWords_sg (m : MemName) (r : List (Nat × Nat)) (s : State) : (freshWords m r s).sg = s.sg := rfl
@[simp] theorem freshWords_cores (m : MemName) (r : List (Nat × Nat)) (s : State) : (freshWords m r s).cores = s.cores := rfl
@[simp] theorem freshWords_dram (m : MemName) (r : List (Nat × Nat)) (s : State) : (freshWords m r s).dram = s.dram := rfl
@[simp] theorem freshWords_staging (m : MemName) (r : List (Nat × Nat)) (s : State) : (freshWords m r s).staging = s.staging := rfl
@[simp] theorem freshWords_host (m : MemName) (r : List (Nat × Nat)) (s : State) : (freshWords m r s).host = s.host := rfl
@[simp] theorem freshWords_tick (m : MemName) (r : List (Nat × Nat)) (s : State) : (freshWords m r s).tick = s.tick := rfl
@[simp] theorem freshWords_links (m : MemName) (r : List (Nat × Nat)) (s : State) : (freshWords m r s).links = s.links := rfl
@[simp] theorem freshWords_fabric (m : MemName) (r : List (Nat × Nat)) (s : State) : (freshWords m r s).fabric = s.fabric := rfl
@[simp] theorem freshWords_boot (m : MemName) (r : List (Nat × Nat)) (s : State) : (freshWords m r s).boot = s.boot := rfl
@[simp] theorem freshWords_seq (m : MemName) (r : List (Nat × Nat)) (s : State) : (freshWords m r s).safety.seq = s.safety.seq := rfl
@[simp] theorem freshWords_logHead (m : MemName) (r : List (Nat × Nat)) (s : State) : (freshWords m r s).safety.logHead = s.safety.logHead := rfl
@[simp] theorem freshWords_stopped (m : MemName) (r : List (Nat × Nat)) (s : State) : (freshWords m r s).safety.stopped = s.safety.stopped := rfl
@[simp] theorem freshWords_corrected (m : MemName) (r : List (Nat × Nat)) (s : State) : (freshWords m r s).safety.corrected = s.safety.corrected := rfl
@[simp] theorem freshWords_toggling (m : MemName) (r : List (Nat × Nat)) (s : State) : (freshWords m r s).safety.toggling = s.safety.toggling := rfl
@[simp] theorem freshWords_log (m : MemName) (r : List (Nat × Nat)) (s : State) : (freshWords m r s).safety.log = s.safety.log := rfl

@[simp] theorem modFxRun_pending (c : CoreId) (f : FxRun → FxRun) (s : State) : (modFxRun c f s).pending = s.pending := rfl
@[simp] theorem modFxRun_freeCtr (c : CoreId) (f : FxRun → FxRun) (s : State) : (modFxRun c f s).freeCtr = s.freeCtr := rfl
@[simp] theorem modFxRun_busData (c : CoreId) (f : FxRun → FxRun) (s : State) : (modFxRun c f s).busData = s.busData := rfl
@[simp] theorem modFxRun_time (c : CoreId) (f : FxRun → FxRun) (s : State) : (modFxRun c f s).time = s.time := rfl
@[simp] theorem modFxRun_walkErr (c : CoreId) (f : FxRun → FxRun) (s : State) : (modFxRun c f s).walkErr = s.walkErr := rfl
@[simp] theorem modFxRun_ahead (c : CoreId) (f : FxRun → FxRun) (s : State) : (modFxRun c f s).ahead = s.ahead := rfl
@[simp] theorem modFxRun_haloMsgs (c : CoreId) (f : FxRun → FxRun) (s : State) : (modFxRun c f s).haloMsgs = s.haloMsgs := rfl
@[simp] theorem modFxRun_haloRuns (c : CoreId) (f : FxRun → FxRun) (s : State) : (modFxRun c f s).haloRuns = s.haloRuns := rfl
@[simp] theorem modFxRun_grade (c : CoreId) (f : FxRun → FxRun) (s : State) : (modFxRun c f s).grade = s.grade := rfl
@[simp] theorem modFxRun_bnd (c : CoreId) (f : FxRun → FxRun) (s : State) : (modFxRun c f s).bnd = s.bnd := rfl
@[simp] theorem modFxRun_sg (c : CoreId) (f : FxRun → FxRun) (s : State) : (modFxRun c f s).sg = s.sg := rfl
@[simp] theorem modFxRun_dram (c : CoreId) (f : FxRun → FxRun) (s : State) : (modFxRun c f s).dram = s.dram := rfl
@[simp] theorem modFxRun_staging (c : CoreId) (f : FxRun → FxRun) (s : State) : (modFxRun c f s).staging = s.staging := rfl
@[simp] theorem modFxRun_host (c : CoreId) (f : FxRun → FxRun) (s : State) : (modFxRun c f s).host = s.host := rfl
@[simp] theorem modFxRun_tick (c : CoreId) (f : FxRun → FxRun) (s : State) : (modFxRun c f s).tick = s.tick := rfl
@[simp] theorem modFxRun_safety (c : CoreId) (f : FxRun → FxRun) (s : State) : (modFxRun c f s).safety = s.safety := rfl
@[simp] theorem modFxRun_links (c : CoreId) (f : FxRun → FxRun) (s : State) : (modFxRun c f s).links = s.links := rfl
@[simp] theorem modFxRun_fabric (c : CoreId) (f : FxRun → FxRun) (s : State) : (modFxRun c f s).fabric = s.fabric := rfl
@[simp] theorem modFxRun_boot (c : CoreId) (f : FxRun → FxRun) (s : State) : (modFxRun c f s).boot = s.boot := rfl

@[simp] theorem modDxRun_pending (c : CoreId) (ch : ChanId) (f : DxRun → DxRun) (s : State) : (modDxRun c ch f s).pending = s.pending := rfl
@[simp] theorem modDxRun_freeCtr (c : CoreId) (ch : ChanId) (f : DxRun → DxRun) (s : State) : (modDxRun c ch f s).freeCtr = s.freeCtr := rfl
@[simp] theorem modDxRun_busData (c : CoreId) (ch : ChanId) (f : DxRun → DxRun) (s : State) : (modDxRun c ch f s).busData = s.busData := rfl
@[simp] theorem modDxRun_time (c : CoreId) (ch : ChanId) (f : DxRun → DxRun) (s : State) : (modDxRun c ch f s).time = s.time := rfl
@[simp] theorem modDxRun_walkErr (c : CoreId) (ch : ChanId) (f : DxRun → DxRun) (s : State) : (modDxRun c ch f s).walkErr = s.walkErr := rfl
@[simp] theorem modDxRun_ahead (c : CoreId) (ch : ChanId) (f : DxRun → DxRun) (s : State) : (modDxRun c ch f s).ahead = s.ahead := rfl
@[simp] theorem modDxRun_haloMsgs (c : CoreId) (ch : ChanId) (f : DxRun → DxRun) (s : State) : (modDxRun c ch f s).haloMsgs = s.haloMsgs := rfl
@[simp] theorem modDxRun_haloRuns (c : CoreId) (ch : ChanId) (f : DxRun → DxRun) (s : State) : (modDxRun c ch f s).haloRuns = s.haloRuns := rfl
@[simp] theorem modDxRun_grade (c : CoreId) (ch : ChanId) (f : DxRun → DxRun) (s : State) : (modDxRun c ch f s).grade = s.grade := rfl
@[simp] theorem modDxRun_bnd (c : CoreId) (ch : ChanId) (f : DxRun → DxRun) (s : State) : (modDxRun c ch f s).bnd = s.bnd := rfl
@[simp] theorem modDxRun_sg (c : CoreId) (ch : ChanId) (f : DxRun → DxRun) (s : State) : (modDxRun c ch f s).sg = s.sg := rfl
@[simp] theorem modDxRun_dram (c : CoreId) (ch : ChanId) (f : DxRun → DxRun) (s : State) : (modDxRun c ch f s).dram = s.dram := rfl
@[simp] theorem modDxRun_staging (c : CoreId) (ch : ChanId) (f : DxRun → DxRun) (s : State) : (modDxRun c ch f s).staging = s.staging := rfl
@[simp] theorem modDxRun_host (c : CoreId) (ch : ChanId) (f : DxRun → DxRun) (s : State) : (modDxRun c ch f s).host = s.host := rfl
@[simp] theorem modDxRun_tick (c : CoreId) (ch : ChanId) (f : DxRun → DxRun) (s : State) : (modDxRun c ch f s).tick = s.tick := rfl
@[simp] theorem modDxRun_safety (c : CoreId) (ch : ChanId) (f : DxRun → DxRun) (s : State) : (modDxRun c ch f s).safety = s.safety := rfl
@[simp] theorem modDxRun_links (c : CoreId) (ch : ChanId) (f : DxRun → DxRun) (s : State) : (modDxRun c ch f s).links = s.links := rfl
@[simp] theorem modDxRun_fabric (c : CoreId) (ch : ChanId) (f : DxRun → DxRun) (s : State) : (modDxRun c ch f s).fabric = s.fabric := rfl
@[simp] theorem modDxRun_boot (c : CoreId) (ch : ChanId) (f : DxRun → DxRun) (s : State) : (modDxRun c ch f s).boot = s.boot := rfl

end Sys2Proof.Machine
end

