-- ==== Sys2Proof/Laws/Ops.lean ====
section
/-! SUPPORT. Laws/Ops.lean: what each shared operation can do, said once: translation, reads by virtual address, the fault rings,
records, security faults, progress and token counters, the fence unit's settling, messages of the links, and cycles. -/
namespace Sys2Proof.Machine
open Sys2Proof

/-! ### Translation (R271 to R273): only the cached entries, a pending walk error and, on refused reads, the faults to log change -/

/-- A state with other cached entries and another pending walk error. -/
abbrev State.withTlb (s : State) (tlb : List TlbEntry) (e : Bool) : State :=
  { s with walkErr := e, host := { s.host with tlb := tlb } }

theorem leafOf_changes (s : State) (sec : Bool) (asid page : Nat) :
    ∃ tlb e, (leafOf s sec asid page).2 = s.withTlb tlb e := by
  unfold leafOf
  split
  · exact ⟨s.host.tlb, s.walkErr, rfl⟩
  · exact ⟨_, _, rfl⟩

/-- A translation changes nothing but the cached entries and a pending walk error. -/
theorem translate_changes (s : State) (sec : Bool) (asid va : Nat) (w : Bool) :
    ∃ tlb e, (translate s sec asid va w).2 = s.withTlb tlb e := by
  have h := leafOf_changes s sec asid (va % 2 ^ 48 / 4096)
  unfold translate
  simp only
  split
  · exact h
  · repeat' split
    all_goals exact h

/-- A state as a read may leave it: also with other faults of refused accesses to log. -/
abbrev State.withRead (s : State) (tlb : List TlbEntry) (e : Bool) (l : List (Nat × Nat)) : State :=
  { s with walkErr := e, host := { s.host with tlb := tlb, refused := l } }

/-- A read by virtual address changes nothing else either but the faults to log. -/
theorem readVa_changes (sec : Bool) (asid : Nat) : ∀ (fuel : Nat) (s : State) (va n : Nat),
    ∃ tlb e l, (readVa s sec asid fuel va n).2 = s.withRead tlb e l := by
  intro fuel
  induction fuel with
  | zero => intro s va n; cases n <;> exact ⟨s.host.tlb, s.walkErr, s.host.refused, rfl⟩
  | succ fuel ih =>
    intro s va n
    cases n with
    | zero => exact ⟨s.host.tlb, s.walkErr, s.host.refused, rfl⟩
    | succ n =>
      obtain ⟨t, e, h⟩ := translate_changes s sec asid va false
      simp only [readVa]
      split
      · rename_i x s' hs; rw [hs] at h; simp only at h; subst h
        cases x.security
        · exact ⟨t, e, s.host.refused, rfl⟩
        · exact ⟨t, e, _, rfl⟩
      · rename_i spa s' hs
        rw [hs] at h
        obtain ⟨t', e', l', h'⟩ := ih s' (va + min (n + 1) (4096 - va % 4096)) (n + 1 - min (n + 1) (4096 - va % 4096))
        split
        · rename_i s'' hs'; rw [hs'] at h'; simp only at h h' ⊢; exact ⟨t', e', l', by rw [h', h]⟩
        · rename_i bs s'' hs'; rw [hs'] at h'; simp only at h h' ⊢; exact ⟨t', e', l', by rw [h', h]⟩

theorem readBytes_changes (s : State) (sec : Bool) (asid va n : Nat) :
    ∃ tlb e l, (readBytes s sec asid va n).2 = s.withRead tlb e l := readVa_changes sec asid _ s va n

/-! ### The fault rings (R292) -/

/-- What a ring's write may change: external memory, the partitions, cached entries, the pending errors, the free values read, the writes
performed before it (R20) and the faults of refused accesses to log. -/
structure RingPart where
  dram : Memory
  parts : Vector Partition 8
  tlb : List TlbEntry
  walkErr : Bool
  portErr : List MemSite
  freeCtr : Nat
  performed : List Nat
  refused : List (Nat × Nat)

/-- A state with another such part. -/
abbrev State.withRing (s : State) (r : RingPart) : State :=
  { s with dram := r.dram, walkErr := r.walkErr, freeCtr := r.freeCtr, host := { s.host with
    parts := r.parts, tlb := r.tlb, portErr := r.portErr, performed := r.performed, refused := r.refused } }

/-- That part of a state. -/
abbrev State.ringPart (s : State) : RingPart :=
  { dram := s.dram, parts := s.host.parts, tlb := s.host.tlb, walkErr := s.walkErr, portErr := s.host.portErr, freeCtr := s.freeCtr,
    performed := s.host.performed, refused := s.host.refused }

/-- Writes one after the other keep external memory canonical. -/
theorem memStores_wf (l : List (Nat × List Byte)) : ∀ m : Memory, Memory.wf m → Memory.wf (l.foldl (fun m w => memStore m w.1 w.2) m) := by
  induction l with
  | nil => exact fun _ h => h
  | cons x l ih => exact fun m h => ih _ (memStore_wf _ _ h)

/-- The earlier writes of a write's granules change external memory, which stays canonical, and the list of those performed. -/
theorem performBefore_changes (spa : Nat) (bs : List Byte) (s : State) : ∃ d l,
    performBefore spa bs s = s.withRing { s.ringPart with dram := d, performed := l } ∧ (Memory.wf s.dram → Memory.wf d) :=
  ⟨_, _, rfl, memStores_wf _ _⟩

/-- A write within one granule changes external memory, which stays canonical, the list of the writes performed, a pending error and, where
it fails, the free values read. -/
theorem writeFor_changes (x : MemSite) (spa : Nat) (bs : List Byte) (s : State) : ∃ d pe n l,
    (writeFor x spa bs s).2 = s.withRing { s.ringPart with dram := d, portErr := pe, freeCtr := n, performed := l } ∧
      (Memory.wf s.dram → Memory.wf d) := by
  unfold writeFor meetsErr
  by_cases h : x ∈ s.host.portErr
  · rw [if_pos h]
    obtain ⟨d, l, h', w⟩ := performBefore_changes spa bs { s with host := { s.host with portErr := s.host.portErr.erase x } }
    exact ⟨_, _, _, l, by simp only [h']; rfl, fun v => memStore_wf _ _ (w v)⟩
  · rw [if_neg h]
    obtain ⟨d, l, h', w⟩ := performBefore_changes spa bs s
    exact ⟨_, s.host.portErr, s.freeCtr, l, by simp only [storeAfter, h']; rfl, fun v => memStore_wf _ _ (w v)⟩

/-- A write to a fault ring changes nothing but external memory, which stays canonical, the partitions' ring registers and
interrupt causes, the cached leaves, pending errors and the free values read. -/
theorem ringWrite_changes (p : PartId) (bits : BitVec 256) (s : State) :
    ∃ r, ringWrite p bits s = s.withRing r ∧ (Memory.wf s.dram → Memory.wf r.dram) := by
  unfold ringWrite
  simp only
  split
  · exact ⟨{ s.ringPart with parts := _ }, rfl, fun h => h⟩
  · obtain ⟨t, e, h⟩ := translate_changes s (s.host.parts[p]).secure (fld (s.host.parts[p]).frCtrl 1 6)
      ((s.host.parts[p]).frBase.toNat + 32 * ((s.host.parts[p]).frHead.toNat % 2 ^ fld (s.host.parts[p]).frCtrl 8 4)) true
    split
    · rename_i x s' hs; rw [hs] at h; simp only at h; subst h
      cases x.security
      · exact ⟨{ s.ringPart with parts := _, tlb := t, walkErr := e }, rfl, fun h => h⟩
      · exact ⟨{ s.ringPart with parts := _, tlb := t, walkErr := e, refused := _ }, rfl, fun h => h⟩
    · rename_i spa _ s' hs; rw [hs] at h; simp only at h; subst h
      obtain ⟨d, pe, n, l, h', w⟩ := writeFor_changes .ring spa (leBytes 32 bits.toNat) (s.withTlb t e)
      split
      all_goals rename_i s'' hs'
      all_goals rw [hs'] at h'
      all_goals simp only at h'
      all_goals subst h'
      all_goals exact ⟨{ s.ringPart with dram := d, parts := _, tlb := t, walkErr := e, portErr := pe, freeCtr := n, performed := l }, rfl, w⟩

theorem rings_change (bits : BitVec 256) (l : List PartId) : ∀ s : State,
    ∃ r, forAll l (fun p => ringWrite p bits) s = s.withRing r ∧ (Memory.wf s.dram → Memory.wf r.dram) := by
  induction l with
  | nil => intro s; exact ⟨s.ringPart, rfl, fun h => h⟩
  | cons p l ih =>
    intro s
    obtain ⟨r, h, w⟩ := ringWrite_changes p bits s
    obtain ⟨r', h', w'⟩ := ih (ringWrite p bits s)
    refine ⟨r', ?_, fun x => w' (by rw [h]; exact w x)⟩
    rw [forAll_cons, h', h]

/-! ### Records (R312, R313) -/

/-- A state as a record may leave it. -/
abbrev State.withRecord (s : State) (r : RingPart) (a b : Bool) (sf : Safety) : State :=
  { s.withRing r with bnd := { s.bnd with ksafeA := a, ksafeB := b }, safety := sf }

/-- The KSAFE stop drives both pins low; the stop stands, and no toggling begins (R318). -/
theorem ksafeStop_changes (code : Nat) (s : State) : ∃ sf,
    ksafeStop code s = { s with bnd := { s.bnd with ksafeA := false, ksafeB := false }, safety := sf } ∧
      sf.seq = s.safety.seq ∧ sf.logHead = s.safety.logHead ∧ sf.stopped = true ∧
      (sf.toggling = true → s.safety.toggling = true) := by
  unfold ksafeStop
  simp only
  split
  · rename_i h; exact ⟨s.safety, rfl, rfl, rfl, h, fun h => h⟩
  · exact ⟨_, rfl, rfl, rfl, rfl, fun h => by simp at h⟩

/-- A record takes the next number and its place in the log; besides that it may write rings, drive the KSAFE pins low and
hold them, count its class and set interrupt causes. External memory stays canonical. -/
theorem postRecord_changes (r : RecIn) (s : State) :
    ∃ x a b sf, postRecord r s = s.withRecord x a b sf ∧
      (Memory.wf s.dram → Memory.wf x.dram) ∧ sf.seq = s.safety.seq + 1 ∧ sf.logHead = s.safety.logHead + 1 ∧
      (r.dangerous = false → a = s.bnd.ksafeA ∧ b = s.bnd.ksafeB ∧ sf.stopped = s.safety.stopped) ∧
      (r.dangerous = true → a = false ∧ b = false ∧ sf.stopped = true) ∧
      (sf.toggling = true → s.safety.toggling = true) := by
  have key : ∀ v : State, (∃ x, v = s.withRing x ∧ (Memory.wf s.dram → Memory.wf x.dram)) →
      ∀ (log : Vector (BitVec 256) 64) (cnt : Vector Word 6) (times : List Nat) (fatal : Bool),
      ∃ x a b sf, (let u := setSfInt (recordCauses r (recordedClass r s)) { v with safety := { v.safety with
            log := log, logHead := v.safety.logHead + 1, seq := v.safety.seq + 1, fcCount := cnt, engTimes := times, fatal := fatal } }
          if r.dangerous then ksafeStop r.code u else u) = s.withRecord x a b sf ∧
        (Memory.wf s.dram → Memory.wf x.dram) ∧ sf.seq = s.safety.seq + 1 ∧ sf.logHead = s.safety.logHead + 1 ∧
        (r.dangerous = false → a = s.bnd.ksafeA ∧ b = s.bnd.ksafeB ∧ sf.stopped = s.safety.stopped) ∧
        (r.dangerous = true → a = false ∧ b = false ∧ sf.stopped = true) ∧
        (sf.toggling = true → s.safety.toggling = true) := by
    rintro v ⟨x, rfl, w⟩ log cnt times fatal
    cases hd : r.dangerous with
    | false =>
      exact ⟨x, s.bnd.ksafeA, s.bnd.ksafeB, _, rfl, w, rfl, rfl, fun _ => ⟨rfl, rfl, rfl⟩, fun h => by simp at h, fun h => h⟩
    | true =>
      obtain ⟨sf, h, h1, h2, h3, h4⟩ := ksafeStop_changes r.code (setSfInt (recordCauses r (recordedClass r s))
        { s.withRing x with safety := { s.safety with
            log := log, logHead := s.safety.logHead + 1, seq := s.safety.seq + 1, fcCount := cnt, engTimes := times, fatal := fatal } })
      exact ⟨x, false, false, sf, h, w, h1, h2, fun h => by simp at h, fun _ => ⟨rfl, rfl, h3⟩, h4⟩
  unfold postRecord
  cases hp : r.toPart with
  | some p => exact key _ (ringWrite_changes _ _ _) _ _ _ _
  | none => exact key _ (rings_change _ _ _) _ _ _ _

/-! What a record leaves alone. -/

@[simp] theorem postRecord_pending (r : RecIn) (s : State) : (postRecord r s).pending = s.pending := by
  obtain ⟨_, _, _, _, h, _⟩ := postRecord_changes r s; rw [h]
@[simp] theorem postRecord_ahead (r : RecIn) (s : State) : (postRecord r s).ahead = s.ahead := by
  obtain ⟨_, _, _, _, h, _⟩ := postRecord_changes r s; rw [h]
@[simp] theorem postRecord_busData (r : RecIn) (s : State) : (postRecord r s).busData = s.busData := by
  obtain ⟨_, _, _, _, h, _⟩ := postRecord_changes r s; rw [h]
@[simp] theorem postRecord_time (r : RecIn) (s : State) : (postRecord r s).time = s.time := by
  obtain ⟨_, _, _, _, h, _⟩ := postRecord_changes r s; rw [h]
@[simp] theorem postRecord_haloMsgs (r : RecIn) (s : State) : (postRecord r s).haloMsgs = s.haloMsgs := by
  obtain ⟨_, _, _, _, h, _⟩ := postRecord_changes r s; rw [h]
@[simp] theorem postRecord_haloRuns (r : RecIn) (s : State) : (postRecord r s).haloRuns = s.haloRuns := by
  obtain ⟨_, _, _, _, h, _⟩ := postRecord_changes r s; rw [h]
@[simp] theorem postRecord_grade (r : RecIn) (s : State) : (postRecord r s).grade = s.grade := by
  obtain ⟨_, _, _, _, h, _⟩ := postRecord_changes r s; rw [h]
@[simp] theorem postRecord_cores (r : RecIn) (s : State) : (postRecord r s).cores = s.cores := by
  obtain ⟨_, _, _, _, h, _⟩ := postRecord_changes r s; rw [h]
@[simp] theorem postRecord_sg (r : RecIn) (s : State) : (postRecord r s).sg = s.sg := by
  obtain ⟨_, _, _, _, h, _⟩ := postRecord_changes r s; rw [h]
@[simp] theorem postRecord_staging (r : RecIn) (s : State) : (postRecord r s).staging = s.staging := by
  obtain ⟨_, _, _, _, h, _⟩ := postRecord_changes r s; rw [h]
@[simp] theorem postRecord_tick (r : RecIn) (s : State) : (postRecord r s).tick = s.tick := by
  obtain ⟨_, _, _, _, h, _⟩ := postRecord_changes r s; rw [h]
@[simp] theorem postRecord_links (r : RecIn) (s : State) : (postRecord r s).links = s.links := by
  obtain ⟨_, _, _, _, h, _⟩ := postRecord_changes r s; rw [h]
@[simp] theorem postRecord_fabric (r : RecIn) (s : State) : (postRecord r s).fabric = s.fabric := by
  obtain ⟨_, _, _, _, h, _⟩ := postRecord_changes r s; rw [h]
@[simp] theorem postRecord_boot (r : RecIn) (s : State) : (postRecord r s).boot = s.boot := by
  obtain ⟨_, _, _, _, h, _⟩ := postRecord_changes r s; rw [h]
@[simp] theorem postRecord_queues (r : RecIn) (s : State) : (postRecord r s).host.queues = s.host.queues := by
  obtain ⟨_, _, _, _, h, _⟩ := postRecord_changes r s; rw [h]
@[simp] theorem postRecord_jobs (r : RecIn) (s : State) : (postRecord r s).host.jobs = s.host.jobs := by
  obtain ⟨_, _, _, _, h, _⟩ := postRecord_changes r s; rw [h]
@[simp] theorem postRecord_fences (r : RecIn) (s : State) : (postRecord r s).host.fences = s.host.fences := by
  obtain ⟨_, _, _, _, h, _⟩ := postRecord_changes r s; rw [h]
@[simp] theorem postRecord_asids (r : RecIn) (s : State) : (postRecord r s).host.asids = s.host.asids := by
  obtain ⟨_, _, _, _, h, _⟩ := postRecord_changes r s; rw [h]
@[simp] theorem postRecord_sent (r : RecIn) (s : State) : (postRecord r s).host.sent = s.host.sent := by
  obtain ⟨_, _, _, _, h, _⟩ := postRecord_changes r s; rw [h]
@[simp] theorem postRecord_seq (r : RecIn) (s : State) : (postRecord r s).safety.seq = s.safety.seq + 1 := by
  obtain ⟨_, _, _, _, h, _, h1, _⟩ := postRecord_changes r s; rw [h]; exact h1
@[simp] theorem postRecord_logHead (r : RecIn) (s : State) : (postRecord r s).safety.logHead = s.safety.logHead + 1 := by
  obtain ⟨_, _, _, _, h, _, _, h1, _⟩ := postRecord_changes r s; rw [h]; exact h1
/-- A record keeps external memory canonical. -/
theorem postRecord_dram_wf (r : RecIn) (s : State) (w : Memory.wf s.dram) : Memory.wf (postRecord r s).dram := by
  obtain ⟨_, _, _, _, h, h1, _⟩ := postRecord_changes r s; rw [h]; exact h1 w

/-! A security fault (R13) is a record and a cause of the secure mailbox. -/

@[simp] theorem securityFault_pending (u i a : Nat) (s : State) : (securityFault u i a s).pending = s.pending := by simp [securityFault]
@[simp] theorem securityFault_ahead (u i a : Nat) (s : State) : (securityFault u i a s).ahead = s.ahead := by simp [securityFault]
@[simp] theorem securityFault_busData (u i a : Nat) (s : State) : (securityFault u i a s).busData = s.busData := by simp [securityFault]
@[simp] theorem securityFault_time (u i a : Nat) (s : State) : (securityFault u i a s).time = s.time := by simp [securityFault]
@[simp] theorem securityFault_haloMsgs (u i a : Nat) (s : State) : (securityFault u i a s).haloMsgs = s.haloMsgs := by simp [securityFault]
@[simp] theorem securityFault_haloRuns (u i a : Nat) (s : State) : (securityFault u i a s).haloRuns = s.haloRuns := by simp [securityFault]
@[simp] theorem securityFault_grade (u i a : Nat) (s : State) : (securityFault u i a s).grade = s.grade := by simp [securityFault]
@[simp] theorem securityFault_cores (u i a : Nat) (s : State) : (securityFault u i a s).cores = s.cores := by simp [securityFault]
@[simp] theorem securityFault_sg (u i a : Nat) (s : State) : (securityFault u i a s).sg = s.sg := by simp [securityFault]
@[simp] theorem securityFault_staging (u i a : Nat) (s : State) : (securityFault u i a s).staging = s.staging := by simp [securityFault]
@[simp] theorem securityFault_tick (u i a : Nat) (s : State) : (securityFault u i a s).tick = s.tick := by simp [securityFault]
@[simp] theorem securityFault_links (u i a : Nat) (s : State) : (securityFault u i a s).links = s.links := by simp [securityFault]
@[simp] theorem securityFault_fabric (u i a : Nat) (s : State) : (securityFault u i a s).fabric = s.fabric := by simp [securityFault]
@[simp] theorem securityFault_boot (u i a : Nat) (s : State) : (securityFault u i a s).boot = s.boot := by simp [securityFault]
@[simp] theorem securityFault_seq (u i a : Nat) (s : State) : (securityFault u i a s).safety.seq = s.safety.seq + 1 := by simp [securityFault]
theorem securityFault_dram_wf (u i a : Nat) (s : State) (w : Memory.wf s.dram) : Memory.wf (securityFault u i a s).dram :=
  postRecord_dram_wf _ _ w

/-! ### Progress and token counters (R232 to R238) -/

/-- Progress changes stall counts alone. -/
theorem progress_cores (c d : CoreId) (s : State) : ∃ n, (progress c s).cores[d] = { s.cores[d] with stall := n } :=
  ⟨_, by simp [progress]; rfl⟩

@[simp] theorem progress_pending (c : CoreId) (s : State) : (progress c s).pending = s.pending := rfl
@[simp] theorem progress_freeCtr (c : CoreId) (s : State) : (progress c s).freeCtr = s.freeCtr := rfl
@[simp] theorem progress_busData (c : CoreId) (s : State) : (progress c s).busData = s.busData := rfl
@[simp] theorem progress_time (c : CoreId) (s : State) : (progress c s).time = s.time := rfl
@[simp] theorem progress_walkErr (c : CoreId) (s : State) : (progress c s).walkErr = s.walkErr := rfl
@[simp] theorem progress_ahead (c : CoreId) (s : State) : (progress c s).ahead = s.ahead := rfl
@[simp] theorem progress_haloMsgs (c : CoreId) (s : State) : (progress c s).haloMsgs = s.haloMsgs := rfl
@[simp] theorem progress_haloRuns (c : CoreId) (s : State) : (progress c s).haloRuns = s.haloRuns := rfl
@[simp] theorem progress_grade (c : CoreId) (s : State) : (progress c s).grade = s.grade := rfl
@[simp] theorem progress_bnd (c : CoreId) (s : State) : (progress c s).bnd = s.bnd := rfl
@[simp] theorem progress_sg (c : CoreId) (s : State) : (progress c s).sg = s.sg := rfl
@[simp] theorem progress_dram (c : CoreId) (s : State) : (progress c s).dram = s.dram := rfl
@[simp] theorem progress_staging (c : CoreId) (s : State) : (progress c s).staging = s.staging := rfl
@[simp] theorem progress_host (c : CoreId) (s : State) : (progress c s).host = s.host := rfl
@[simp] theorem progress_tick (c : CoreId) (s : State) : (progress c s).tick = s.tick := rfl
@[simp] theorem progress_safety (c : CoreId) (s : State) : (progress c s).safety = s.safety := rfl
@[simp] theorem progress_links (c : CoreId) (s : State) : (progress c s).links = s.links := rfl
@[simp] theorem progress_fabric (c : CoreId) (s : State) : (progress c s).fabric = s.fabric := rfl
@[simp] theorem progress_boot (c : CoreId) (s : State) : (progress c s).boot = s.boot := rfl
@[simp] theorem setTok_pending (c : CoreId) (t : TokId) (v : Half) (s : State) : (setTok c t v s).pending = s.pending := by
  unfold setTok; rw [progress_pending]; rfl
@[simp] theorem setTok_freeCtr (c : CoreId) (t : TokId) (v : Half) (s : State) : (setTok c t v s).freeCtr = s.freeCtr := by
  unfold setTok; rw [progress_freeCtr]; rfl
@[simp] theorem setTok_busData (c : CoreId) (t : TokId) (v : Half) (s : State) : (setTok c t v s).busData = s.busData := by
  unfold setTok; rw [progress_busData]; rfl
@[simp] theorem setTok_time (c : CoreId) (t : TokId) (v : Half) (s : State) : (setTok c t v s).time = s.time := by
  unfold setTok; rw [progress_time]; rfl
@[simp] theorem setTok_walkErr (c : CoreId) (t : TokId) (v : Half) (s : State) : (setTok c t v s).walkErr = s.walkErr := by
  unfold setTok; rw [progress_walkErr]; rfl
@[simp] theorem setTok_ahead (c : CoreId) (t : TokId) (v : Half) (s : State) : (setTok c t v s).ahead = s.ahead := by
  unfold setTok; rw [progress_ahead]; rfl
@[simp] theorem setTok_haloMsgs (c : CoreId) (t : TokId) (v : Half) (s : State) : (setTok c t v s).haloMsgs = s.haloMsgs := by
  unfold setTok; rw [progress_haloMsgs]; rfl
@[simp] theorem setTok_haloRuns (c : CoreId) (t : TokId) (v : Half) (s : State) : (setTok c t v s).haloRuns = s.haloRuns := by
  unfold setTok; rw [progress_haloRuns]; rfl
@[simp] theorem setTok_grade (c : CoreId) (t : TokId) (v : Half) (s : State) : (setTok c t v s).grade = s.grade := by
  unfold setTok; rw [progress_grade]; rfl
@[simp] theorem setTok_bnd (c : CoreId) (t : TokId) (v : Half) (s : State) : (setTok c t v s).bnd = s.bnd := by
  unfold setTok; rw [progress_bnd]; rfl
@[simp] theorem setTok_sg (c : CoreId) (t : TokId) (v : Half) (s : State) : (setTok c t v s).sg = s.sg := by
  unfold setTok; rw [progress_sg]; rfl
@[simp] theorem setTok_dram (c : CoreId) (t : TokId) (v : Half) (s : State) : (setTok c t v s).dram = s.dram := by
  unfold setTok; rw [progress_dram]; rfl
@[simp] theorem setTok_staging (c : CoreId) (t : TokId) (v : Half) (s : State) : (setTok c t v s).staging = s.staging := by
  unfold setTok; rw [progress_staging]; rfl
@[simp] theorem setTok_host (c : CoreId) (t : TokId) (v : Half) (s : State) : (setTok c t v s).host = s.host := by
  unfold setTok; rw [progress_host]; rfl
@[simp] theorem setTok_tick (c : CoreId) (t : TokId) (v : Half) (s : State) : (setTok c t v s).tick = s.tick := by
  unfold setTok; rw [progress_tick]; rfl
@[simp] theorem setTok_safety (c : CoreId) (t : TokId) (v : Half) (s : State) : (setTok c t v s).safety = s.safety := by
  unfold setTok; rw [progress_safety]; rfl
@[simp] theorem setTok_links (c : CoreId) (t : TokId) (v : Half) (s : State) : (setTok c t v s).links = s.links := by
  unfold setTok; rw [progress_links]; rfl
@[simp] theorem setTok_fabric (c : CoreId) (t : TokId) (v : Half) (s : State) : (setTok c t v s).fabric = s.fabric := by
  unfold setTok; rw [progress_fabric]; rfl
@[simp] theorem setTok_boot (c : CoreId) (t : TokId) (v : Half) (s : State) : (setTok c t v s).boot = s.boot := by
  unfold setTok; rw [progress_boot]; rfl
@[simp] theorem incTok_pending (c : CoreId) (t : TokId) (n e : Nat) (p : PartId) (s : State) : (incTok c t n e p s).pending = s.pending := by
  unfold incTok; repeat' split
  all_goals simp
@[simp] theorem incTok_freeCtr (c : CoreId) (t : TokId) (n e : Nat) (p : PartId) (s : State) : (incTok c t n e p s).freeCtr = s.freeCtr := by
  unfold incTok; repeat' split
  all_goals simp
@[simp] theorem incTok_busData (c : CoreId) (t : TokId) (n e : Nat) (p : PartId) (s : State) : (incTok c t n e p s).busData = s.busData := by
  unfold incTok; repeat' split
  all_goals simp
@[simp] theorem incTok_time (c : CoreId) (t : TokId) (n e : Nat) (p : PartId) (s : State) : (incTok c t n e p s).time = s.time := by
  unfold incTok; repeat' split
  all_goals simp
@[simp] theorem incTok_walkErr (c : CoreId) (t : TokId) (n e : Nat) (p : PartId) (s : State) : (incTok c t n e p s).walkErr = s.walkErr := by
  unfold incTok; repeat' split
  all_goals simp
@[simp] theorem incTok_ahead (c : CoreId) (t : TokId) (n e : Nat) (p : PartId) (s : State) : (incTok c t n e p s).ahead = s.ahead := by
  unfold incTok; repeat' split
  all_goals simp
@[simp] theorem incTok_haloMsgs (c : CoreId) (t : TokId) (n e : Nat) (p : PartId) (s : State) : (incTok c t n e p s).haloMsgs = s.haloMsgs := by
  unfold incTok; repeat' split
  all_goals simp
@[simp] theorem incTok_haloRuns (c : CoreId) (t : TokId) (n e : Nat) (p : PartId) (s : State) : (incTok c t n e p s).haloRuns = s.haloRuns := by
  unfold incTok; repeat' split
  all_goals simp
@[simp] theorem incTok_grade (c : CoreId) (t : TokId) (n e : Nat) (p : PartId) (s : State) : (incTok c t n e p s).grade = s.grade := by
  unfold incTok; repeat' split
  all_goals simp
@[simp] theorem incTok_bnd (c : CoreId) (t : TokId) (n e : Nat) (p : PartId) (s : State) : (incTok c t n e p s).bnd = s.bnd := by
  unfold incTok; repeat' split
  all_goals simp
@[simp] theorem incTok_sg (c : CoreId) (t : TokId) (n e : Nat) (p : PartId) (s : State) : (incTok c t n e p s).sg = s.sg := by
  unfold incTok; repeat' split
  all_goals simp
@[simp] theorem incTok_dram (c : CoreId) (t : TokId) (n e : Nat) (p : PartId) (s : State) : (incTok c t n e p s).dram = s.dram := by
  unfold incTok; repeat' split
  all_goals simp
@[simp] theorem incTok_staging (c : CoreId) (t : TokId) (n e : Nat) (p : PartId) (s : State) : (incTok c t n e p s).staging = s.staging := by
  unfold incTok; repeat' split
  all_goals simp
@[simp] theorem incTok_host (c : CoreId) (t : TokId) (n e : Nat) (p : PartId) (s : State) : (incTok c t n e p s).host = s.host := by
  unfold incTok; repeat' split
  all_goals simp
@[simp] theorem incTok_tick (c : CoreId) (t : TokId) (n e : Nat) (p : PartId) (s : State) : (incTok c t n e p s).tick = s.tick := by
  unfold incTok; repeat' split
  all_goals simp
@[simp] theorem incTok_safety (c : CoreId) (t : TokId) (n e : Nat) (p : PartId) (s : State) : (incTok c t n e p s).safety = s.safety := by
  unfold incTok; repeat' split
  all_goals simp
@[simp] theorem incTok_links (c : CoreId) (t : TokId) (n e : Nat) (p : PartId) (s : State) : (incTok c t n e p s).links = s.links := by
  unfold incTok; repeat' split
  all_goals simp
@[simp] theorem incTok_fabric (c : CoreId) (t : TokId) (n e : Nat) (p : PartId) (s : State) : (incTok c t n e p s).fabric = s.fabric := by
  unfold incTok; repeat' split
  all_goals simp
@[simp] theorem incTok_boot (c : CoreId) (t : TokId) (n e : Nat) (p : PartId) (s : State) : (incTok c t n e p s).boot = s.boot := by
  unfold incTok; repeat' split
  all_goals simp

/-- A counter written reads back, and every other keeps its value. -/
theorem setTok_tok (c : CoreId) (t u : TokId) (v : Half) (s : State) : tok (setTok c t v s) c u = if u = t then v else tok s c u := by
  unfold tok setTok
  obtain ⟨n, h⟩ := progress_cores c c (modCore c (fun k => { k with toks := k.toks.set t v }) s)
  rw [h, modCore_same]
  by_cases e : u = t
  · subst e; simp
  · have : t.val ≠ u.val := fun x => e (Fin.ext x.symm)
    simp [e, this]

/-- The counters of other cores keep their values. -/
theorem setTok_other (c d : CoreId) (t u : TokId) (v : Half) (s : State) (hd : d ≠ c) : tok (setTok c t v s) d u = tok s d u := by
  unfold tok setTok
  obtain ⟨n, h⟩ := progress_cores c d (modCore c (fun k => { k with toks := k.toks.set t v }) s)
  rw [h, modCore_other _ _ _ _ hd]

/-- An increment that stays within the counter adds (R235). -/
theorem incTok_adds (c : CoreId) (t : TokId) (n e : Nat) (p : PartId) (s : State) (h : (tok s c t).toNat + n ≤ 65535) :
    tok (incTok c t n e p s) c t = tok s c t + BitVec.ofNat 16 n := by
  unfold incTok
  rw [if_neg (by omega)]
  split
  · rename_i h0; subst h0; simp
  · rw [setTok_tok, if_pos rfl]

/-! ### Halts (R244, R245) -/

/-- A halt condition changes no memory, register set or counter of its core. -/
theorem raiseHalt_keeps (c : CoreId) (h : HaltCond) (s : State) : let k := (raiseHalt c h s).cores[c]
    k.mem = (s.cores[c]).mem ∧ k.toks = (s.cores[c]).toks ∧ k.allocs = (s.cores[c]).allocs ∧ k.arrays = (s.cores[c]).arrays ∧
      k.powered = (s.cores[c]).powered ∧ k.retired = (s.cores[c]).retired ∧ k.secure = (s.cores[c]).secure := by
  simp only [raiseHalt, modCore_same]
  split <;> simp [snuffEngines]

/-- A core that is halted or in reset meets no halt condition. -/
theorem raiseHalt_stopped (c : CoreId) (h : HaltCond) (s : State) (hs : coreHalted s.cores[c] = true ∨ inReset s.cores[c] = true) :
    (raiseHalt c h s).cores[c] = s.cores[c] := by
  simp only [raiseHalt, modCore_same]
  cases hp : (s.cores[c]).phase <;> simp_all [coreHalted, inReset]

/-- Other cores are untouched. -/
theorem raiseHalt_other (c d : CoreId) (h : HaltCond) (s : State) (hd : d ≠ c) : (raiseHalt c h s).cores[d] = s.cores[d] :=
  modCore_other _ _ _ _ hd

/-- A running core halts: its phase is halting from now on, by that condition. -/
theorem raiseHalt_live (c : CoreId) (h : HaltCond) (s : State) (hl : (s.cores[c]).phase = .live) :
    ((raiseHalt c h s).cores[c]).phase = .halting h none s.time := by
  unfold raiseHalt; rw [modCore_same]; simp only [hl]; rfl

/-! ### Fences and links -/

/-- With no head that an errored fence satisfies, no head settles: only entries with nothing left to pull end (R285, R287, R302). -/
theorem settle_no_err (s : State) (h : errHeads s = []) : settle s = endIdles s := by
  unfold settle; cases s.host.queues.length <;> simp [settleLoop, h]

/-- With no waiting head, none settles. -/
theorem settle_id (s : State) (h : ∀ q ∈ s.host.queues, q.head = none) : settle s = endIdles s := by
  refine settle_no_err s ?_
  have e : ((s.host.queues.filter (fun q => decide (q.state = .enabled))).filterMap (fun q => q.head.map (fun h => (q, h)))) = [] := by
    rw [List.filterMap_eq_nil_iff]; intro q hq; simp [h q (List.mem_filter.mp hq).1]
  simp [errHeads, e, sortBy]

/-- The waiting message is taken. -/
theorem takeMsg_waiting {l : LinkId} {cls : Fin 4} {type : Nat} {act : Flit → State → State} {f : Flit} {s u : State}
    (h : Waiting l cls type f s u) : takeMsg l cls type act s = act f u := by
  obtain ⟨h1, rfl⟩ := h; unfold takeMsg; rw [h1]

/-- Without one, nothing happens. -/
theorem takeMsg_none {l : LinkId} {cls : Fin 4} {type : Nat} {act : Flit → State → State} {s : State}
    (h : s.links.rx.find? (fun x => decide (x.1 = l) && decide (x.2.cls = cls) && decide (fld x.2.info 0 8 = type)) = none) :
    takeMsg l cls type act s = s := by
  unfold takeMsg; rw [h]

/-! ### Cycles -/

@[simp] theorem cyclesOf_zero (c : CoreId) (s : State) : cyclesOf c 0 s = s := rfl

/-- One more cycle comes last. -/
theorem cyclesOf_succ (c : CoreId) (n : Nat) (s : State) : cyclesOf c (n + 1) s = runCycle c (cyclesOf c n s) := rfl

/-- One more cycle comes first. -/
theorem cyclesOf_succ_first (c : CoreId) (n : Nat) (s : State) : cyclesOf c (n + 1) s = cyclesOf c n (runCycle c s) := by
  induction n with
  | zero => rfl
  | succ n ih => rw [cyclesOf_succ, ih, ← cyclesOf_succ]

/-- A use of a fence whose record the cache holds changes nothing. -/
theorem useFence_cached (addr : Nat) (s : State) (f : Fence) (hf : findFence s addr = some f) (h : f.cached = true) : useFence addr s = s := by
  simp [useFence, hf, h]

/-- A use of an address that has no fence changes nothing. -/
theorem useFence_none (addr : Nat) (s : State) (hf : findFence s addr = none) : useFence addr s = s := by simp [useFence, hf]

end Sys2Proof.Machine
end

