-- ==== Sys2Proof/Laws/PerInstr.lean ====
section
/-! SUPPORT. Laws/PerInstr.lean: statements for all commands, one lemma for each. WindowBound: a command that comes by an access of
the window names an offset inside the window's 32 MiB (R8, Table 00.3). -/
namespace Sys2Proof.Laws.WindowBound
open Sys2Proof Sys2Proof.Machine

/-- The window offset of a command, where it has one, lies inside the window. -/
def Statement (i : Instr) : Prop := ∀ (acc : Access) (off : Nat) (w : Bool), windowOf i = some (acc, off, w) → off < 0x2000000

/-- A command that is no access of the window. -/
theorem no_access {i : Instr} (h : windowOf i = none) : Statement i := fun acc off w h' => by rw [h] at h'; cases h'

/-- A command that is an access at a known offset. -/
theorem of_offset {i : Instr} {a : Access} {n : Nat} {b : Bool} (h : windowOf i = some (a, n, b)) (hn : n < 0x2000000) :
    Statement i := fun acc off w h' => by rw [h] at h'; cases h'; exact hn

theorem registerWrite (acc : Access) (off : BitVec 25) (size : AccSize) (val : Dword) : Statement (.registerWrite acc off size val) :=
  of_offset rfl (by omega)
theorem gintStatusClear (acc : Access) (val : Word) : Statement (.gintStatusClear acc val) :=
  of_offset rfl (by omega)
theorem ptIntStatusClear (acc : Access) (p : PartId) (val : Word) : Statement (.ptIntStatusClear acc p val) :=
  of_offset rfl (by unfold pageOff; omega)
theorem smIntStatusClear (acc : Access) (val : Word) : Statement (.smIntStatusClear acc val) :=
  of_offset rfl (by omega)
theorem sfIntStatusClear (acc : Access) (val : Word) : Statement (.sfIntStatusClear acc val) :=
  of_offset rfl (by omega)
theorem streamCtrlWrite (acc : Access) (n : StreamId) (val : Word) : Statement (.streamCtrlWrite acc n val) :=
  of_offset rfl (by omega)
theorem streamRingWrite (acc : Access) (n : StreamId) (val : Word) : Statement (.streamRingWrite acc n val) :=
  of_offset rfl (by omega)
theorem streamLineArrival (n : StreamId) (at_ : Nat) (line : CameraLine) : Statement (.streamLineArrival n at_ line) := no_access rfl
theorem streamDropRead (acc : Access) (n : StreamId) : Statement (.streamDropRead acc n) :=
  of_offset rfl (by omega)
theorem stemLineAvailable (n : StreamId) : Statement (.stemLineAvailable n) := no_access rfl
theorem vofsAckArrival : Statement (.vofsAckArrival) := no_access rfl
theorem regulatorTimeout : Statement (.regulatorTimeout) := no_access rfl
theorem throttleLevelChange (level : BitVec 3) : Statement (.throttleLevelChange level) := no_access rfl
theorem tempUpdate (temp : Byte) : Statement (.tempUpdate temp) := no_access rfl
theorem ktickEdge (at_ : Nat) : Statement (.ktickEdge at_) := no_access rfl
theorem memoryErrorResponse (src : MemSource) : Statement (.memoryErrorResponse src) := no_access rfl
theorem curveWriteRelease (c : CoreId) : Statement (.curveWriteRelease c) := no_access rfl
theorem configSetWrite (acc : Access) (off : BitVec 25) (val : Word) : Statement (.configSetWrite acc off val) :=
  of_offset rfl (by omega)
theorem mxCommandStart (c : CoreId) : Statement (.mxCommandStart c) := no_access rfl
theorem mxPassFormation (c : CoreId) : Statement (.mxPassFormation c) := no_access rfl
theorem mxPassStart (c : CoreId) : Statement (.mxPassStart c) := no_access rfl
theorem mxCommandComplete (c : CoreId) : Statement (.mxCommandComplete c) := no_access rfl
theorem mxSnuffComplete (c : CoreId) : Statement (.mxSnuffComplete c) := no_access rfl
theorem mxSnuffTimeout (c : CoreId) : Statement (.mxSnuffTimeout c) := no_access rfl
theorem arrayFault (c : CoreId) (fault : ArrayFinding) : Statement (.arrayFault c fault) := no_access rfl
theorem arrayReplayDone (c : CoreId) : Statement (.arrayReplayDone c) := no_access rfl
theorem mxOutputReadFault (at_ : OutputSite) : Statement (.mxOutputReadFault at_) := no_access rfl
theorem accReadRelease (c : CoreId) (unit : ReadUnit) : Statement (.accReadRelease c unit) := no_access rfl
theorem satCountRead (acc : Access) (c : CoreId) : Statement (.satCountRead acc c) :=
  of_offset rfl (by unfold coreOff; omega)
theorem rowsIssuedRead (acc : Access) (c : CoreId) : Statement (.rowsIssuedRead acc c) :=
  of_offset rfl (by unfold coreOff; omega)
theorem zeroCellsRead (acc : Access) (c : CoreId) : Statement (.zeroCellsRead acc c) :=
  of_offset rfl (by unfold coreOff; omega)
theorem stallFeedRead (acc : Access) (c : CoreId) : Statement (.stallFeedRead acc c) :=
  of_offset rfl (by unfold coreOff; omega)
theorem stallDrainRead (acc : Access) (c : CoreId) : Statement (.stallDrainRead acc c) :=
  of_offset rfl (by unfold coreOff; omega)
theorem stallLoadRead (acc : Access) (c : CoreId) : Statement (.stallLoadRead acc c) :=
  of_offset rfl (by unfold coreOff; omega)
theorem frozenRead (acc : Access) (c : CoreId) : Statement (.frozenRead acc c) :=
  of_offset rfl (by unfold coreOff; omega)
theorem throttledRead (acc : Access) (c : CoreId) : Statement (.throttledRead acc c) :=
  of_offset rfl (by unfold coreOff; omega)
theorem swapWaitRead (acc : Access) (c : CoreId) : Statement (.swapWaitRead acc c) :=
  of_offset rfl (by unfold coreOff; omega)
theorem stallMapRead (acc : Access) (c : CoreId) : Statement (.stallMapRead acc c) :=
  of_offset rfl (by unfold coreOff; omega)
theorem replaysRead (acc : Access) (c : CoreId) : Statement (.replaysRead acc c) :=
  of_offset rfl (by unfold coreOff; omega)
theorem stemSkipRead (acc : Access) (c : CoreId) : Statement (.stemSkipRead acc c) :=
  of_offset rfl (by unfold coreOff; omega)
theorem stemWaitRead (acc : Access) (c : CoreId) : Statement (.stemWaitRead acc c) :=
  of_offset rfl (by unfold coreOff; omega)
theorem vxCommandStart (c : CoreId) : Statement (.vxCommandStart c) := no_access rfl
theorem vxCommandComplete (c : CoreId) : Statement (.vxCommandComplete c) := no_access rfl
theorem wxCommandStart (c : CoreId) : Statement (.wxCommandStart c) := no_access rfl
theorem wxCommandComplete (c : CoreId) : Statement (.wxCommandComplete c) := no_access rfl
theorem vxwxSnuffComplete (c : CoreId) (eng : VecEng) : Statement (.vxwxSnuffComplete c eng) := no_access rfl
theorem engineFault (c : CoreId) (fault : EngineFinding) : Statement (.engineFault c fault) := no_access rfl
theorem vxElemsRead (acc : Access) (c : CoreId) : Statement (.vxElemsRead acc c) :=
  of_offset rfl (by unfold coreOff; omega)
theorem wxElemsRead (acc : Access) (c : CoreId) : Statement (.wxElemsRead acc c) :=
  of_offset rfl (by unfold coreOff; omega)
theorem dxCommandStart (c : CoreId) (ch : ChanId) : Statement (.dxCommandStart c ch) := no_access rfl
theorem dxTransferIssue (c : CoreId) (ch : ChanId) : Statement (.dxTransferIssue c ch) := no_access rfl
theorem dxTransferAck (c : CoreId) (ch : ChanId) (k : Nat) : Statement (.dxTransferAck c ch k) := no_access rfl
theorem dxCommandComplete (c : CoreId) (ch : ChanId) : Statement (.dxCommandComplete c ch) := no_access rfl
theorem dxSnuffComplete (c : CoreId) (ch : ChanId) : Statement (.dxSnuffComplete c ch) := no_access rfl
theorem dxFault (c : CoreId) (ch : ChanId) (finding : DxFinding) : Statement (.dxFault c ch finding) := no_access rfl
theorem mportCapWindow : Statement (.mportCapWindow) := no_access rfl
theorem mpqLockSet (acc : Access) (val : Word) : Statement (.mpqLockSet acc val) :=
  of_offset rfl (by omega)
theorem bytesExtRead (acc : Access) (c : CoreId) : Statement (.bytesExtRead acc c) :=
  of_offset rfl (by unfold coreOff; omega)
theorem xfersRead (acc : Access) (c : CoreId) : Statement (.xfersRead acc c) :=
  of_offset rfl (by unfold coreOff; omega)
theorem creditWaitRead (acc : Access) (c : CoreId) : Statement (.creditWaitRead acc c) :=
  of_offset rfl (by unfold coreOff; omega)
theorem mpBytesRead (acc : Access) (p : PartId) : Statement (.mpBytesRead acc p) :=
  of_offset rfl (by omega)
theorem hbCtrlWrite (acc : Access) (c : CoreId) (k : HaloId) (val : Word) : Statement (.hbCtrlWrite acc c k val) :=
  of_offset rfl (by unfold coreOff; omega)
theorem haloCreditGrant (c : CoreId) (path : HaloPath) (v : Byte) : Statement (.haloCreditGrant c path v) := no_access rfl
theorem haloRunArrival (c : CoreId) (path : HaloPath) : Statement (.haloRunArrival c path) := no_access rfl
theorem haloRelease (c : CoreId) (k : HaloId) : Statement (.haloRelease c k) := no_access rfl
theorem haloCreditReturn (c : CoreId) (path : HaloPath) : Statement (.haloCreditReturn c path) := no_access rfl
theorem haloTimeout (c : CoreId) (unit : HaloWaiter) : Statement (.haloTimeout c unit) := no_access rfl
theorem haloDropRead (acc : Access) (c : CoreId) : Statement (.haloDropRead acc c) :=
  of_offset rfl (by unfold coreOff; omega)
theorem queueWordPush (c : CoreId) (e : EngId) (first : Bool) (w : Word) (corrupt : Bool) : Statement (.queueWordPush c e first w corrupt) := no_access rfl
theorem packetAbort (c : CoreId) (e : EngId) : Statement (.packetAbort c e) := no_access rfl
theorem ctlTokenWrite (c : CoreId) (t : BitVec 6) (v : Half) : Statement (.ctlTokenWrite c t v) := no_access rfl
theorem ctlHaloRegWrite (c : CoreId) (k : HaloId) (r : HaloReg) (val : Word) : Statement (.ctlHaloRegWrite c k r val) := no_access rfl
theorem ctlRead (c : CoreId) (src : CtlSrc) : Statement (.ctlRead c src) := no_access rfl
theorem ctlBranch (c : CoreId) (src : CtlSrc) : Statement (.ctlBranch c src) := no_access rfl
theorem ctlWait (c : CoreId) (req : WaitReq) : Statement (.ctlWait c req) := no_access rfl
theorem ctlWaitSatisfied (c : CoreId) : Statement (.ctlWaitSatisfied c) := no_access rfl
theorem ctlProgramEnd (c : CoreId) (how : ProgramEnd) : Statement (.ctlProgramEnd c how) := no_access rfl
theorem ctlLockstepMismatch (c : CoreId) (comparator : BitVec 16) : Statement (.ctlLockstepMismatch c comparator) := no_access rfl
theorem bankSwitchPoint (c : CoreId) (point : SwitchPoint) (target : BitVec 17) : Statement (.bankSwitchPoint c point target) := no_access rfl
theorem bankSwitch (c : CoreId) : Statement (.bankSwitch c) := no_access rfl
theorem imemWrite (c : CoreId) (bank : Bool) (off : Nat) (data : List Byte) : Statement (.imemWrite c bank off data) := no_access rfl
theorem bankReady (c : CoreId) : Statement (.bankReady c) := no_access rfl
theorem packetTake (c : CoreId) (e : EngId) (ecc : Bool) : Statement (.packetTake c e ecc) := no_access rfl
theorem queuePointerMismatch (c : CoreId) (e : EngId) (freePtr : Bool) (a b : BitVec 6) : Statement (.queuePointerMismatch c e freePtr a b) := no_access rfl
theorem stallMonitorExpiry (c : CoreId) : Statement (.stallMonitorExpiry c) := no_access rfl
theorem haltComplete (c : CoreId) : Statement (.haltComplete c) := no_access rfl
theorem coreRestart (acc : Access) (c : CoreId) : Statement (.coreRestart acc c) :=
  of_offset rfl (by unfold coreOff; omega)
theorem coreReset (acc : Access) (c : CoreId) : Statement (.coreReset acc c) :=
  of_offset rfl (by unfold coreOff; omega)
theorem haltReq (acc : Access) (c : CoreId) : Statement (.haltReq acc c) :=
  of_offset rfl (by unfold coreOff; omega)
theorem coreRecoveryReset (c : CoreId) (selfTestOk : Bool) : Statement (.coreRecoveryReset c selfTestOk) := no_access rfl
theorem queueCntRead (acc : Access) (c : CoreId) (e : EngId) : Statement (.queueCntRead acc c e) :=
  of_offset rfl (by unfold coreOff; omega)
theorem mbAck (acc : Access) (m : MboxId) : Statement (.mbAck acc m) :=
  of_offset rfl (by unfold mbOff; unfold pageOff; split <;> omega)
theorem mbCapsRead : Statement (.mbCapsRead) := no_access rfl
theorem mbPartitionConfig : Statement (.mbPartitionConfig) := no_access rfl
theorem mbQueueCreate : Statement (.mbQueueCreate) := no_access rfl
theorem mbQueueDestroy : Statement (.mbQueueDestroy) := no_access rfl
theorem mbAsidAttach : Statement (.mbAsidAttach) := no_access rfl
theorem mbAsidRevoke : Statement (.mbAsidRevoke) := no_access rfl
theorem mbProgramLoad : Statement (.mbProgramLoad) := no_access rfl
theorem packageVerifyEnd : Statement (.packageVerifyEnd) := no_access rfl
theorem mbProgramUnload : Statement (.mbProgramUnload) := no_access rfl
theorem fenceRegister : Statement (.fenceRegister) := no_access rfl
theorem fenceRelease : Statement (.fenceRelease) := no_access rfl
theorem fenceClearError : Statement (.fenceClearError) := no_access rfl
theorem fenceRegisterProxy : Statement (.fenceRegisterProxy) := no_access rfl
theorem mbTickConfig : Statement (.mbTickConfig) := no_access rfl
theorem mbCandleTable : Statement (.mbCandleTable) := no_access rfl
theorem fabricLoad : Statement (.fabricLoad) := no_access rfl
theorem fabricUnload : Statement (.fabricUnload) := no_access rfl
theorem fabricLoadAbort : Statement (.fabricLoadAbort) := no_access rfl
theorem linkEnumerate : Statement (.linkEnumerate) := no_access rfl
theorem linkSetGroup : Statement (.linkSetGroup) := no_access rfl
theorem mbMarginReport : Statement (.mbMarginReport) := no_access rfl
theorem resourceClaim : Statement (.resourceClaim) := no_access rfl
theorem resourceRelease : Statement (.resourceRelease) := no_access rfl
theorem resourceQuery : Statement (.resourceQuery) := no_access rfl
theorem mbWarmRestart : Statement (.mbWarmRestart) := no_access rfl
theorem doorbell (acc : Access) (p : PartId) (val : Word) : Statement (.doorbell acc p val) :=
  of_offset rfl (by unfold pageOff; omega)
theorem dbRejectRead (acc : Access) (p : PartId) : Statement (.dbRejectRead acc p) :=
  of_offset rfl (by unfold pageOff; omega)
theorem jobAdmission (qid : Byte) : Statement (.jobAdmission qid) := no_access rfl
theorem jobPull (c : CoreId) (qid : Byte) : Statement (.jobPull c qid) := no_access rfl
theorem jobEnd (job : Nat) : Statement (.jobEnd job) := no_access rfl
theorem fencePortSignal (acc : Access) (p : PartId) (val : Word) : Statement (.fencePortSignal acc p val) :=
  of_offset rfl (by unfold pageOff; omega)
theorem fenceIoError (site : FenceAccess) : Statement (.fenceIoError site) := no_access rfl
theorem fenceStaleRead (acc : Access) (p : PartId) : Statement (.fenceStaleRead acc p) :=
  of_offset rfl (by unfold pageOff; omega)
theorem fsigRejectRead (acc : Access) (p : PartId) : Statement (.fsigRejectRead acc p) :=
  of_offset rfl (by unfold pageOff; omega)
theorem tlbInvalidate (acc : Access) (p : PartId) (val : Word) : Statement (.tlbInvalidate acc p val) :=
  of_offset rfl (by unfold pageOff; omega)
theorem tlbInvalidateDone (p : PartId) : Statement (.tlbInvalidateDone p) := no_access rfl
theorem faultRingEnable (acc : Access) (p : PartId) (val : Word) : Statement (.faultRingEnable acc p val) :=
  of_offset rfl (by unfold pageOff; omega)
theorem faultRingTailWrite (acc : Access) (p : PartId) (val : Word) : Statement (.faultRingTailWrite acc p val) :=
  of_offset rfl (by unfold pageOff; omega)
theorem frLostRead (acc : Access) (p : PartId) : Statement (.frLostRead acc p) :=
  of_offset rfl (by unfold pageOff; omega)
theorem tickSourceEvent : Statement (.tickSourceEvent) := no_access rfl
theorem tickTimerExpiry : Statement (.tickTimerExpiry) := no_access rfl
theorem tickWatchdogExpiry : Statement (.tickWatchdogExpiry) := no_access rfl
theorem holdoverTick : Statement (.holdoverTick) := no_access rfl
theorem earlyRead (acc : Access) : Statement (.earlyRead acc) :=
  of_offset rfl (by omega)
theorem synthRead (acc : Access) : Statement (.synthRead acc) :=
  of_offset rfl (by omega)
theorem guttersRead (acc : Access) : Statement (.guttersRead acc) :=
  of_offset rfl (by omega)
theorem candleStart (e : EntryId) : Statement (.candleStart e) := no_access rfl
theorem preemptRestart (job : Nat) : Statement (.preemptRestart job) := no_access rfl
theorem candleGutter (e : EntryId) : Statement (.candleGutter e) := no_access rfl
theorem handover (c : CoreId) : Statement (.handover c) := no_access rfl
theorem lampSubtimerExpiry : Statement (.lampSubtimerExpiry) := no_access rfl
theorem lampTestStart (c : CoreId) : Statement (.lampTestStart c) := no_access rfl
theorem lampDeferExpiry (c : CoreId) : Statement (.lampDeferExpiry c) := no_access rfl
theorem lampVerdict (c : CoreId) (failing : BitVec 32) : Statement (.lampVerdict c failing) := no_access rfl
theorem arrayWake (c : CoreId) (a : ArrId) : Statement (.arrayWake c a) := no_access rfl
theorem columnDiagnosis (c : CoreId) (a : ArrId) (column : Option (Fin 128)) : Statement (.columnDiagnosis c a column) := no_access rfl
theorem scrubVisit (mem : MemName) (off : Nat) (found : EccFinding) : Statement (.scrubVisit mem off found) := no_access rfl
theorem scrubWriteback (mem : MemName) (off : Nat) : Statement (.scrubWriteback mem off) := no_access rfl
theorem coreAliveExpiry (c : CoreId) : Statement (.coreAliveExpiry c) := no_access rfl
theorem llWatchdogExpiry : Statement (.llWatchdogExpiry) := no_access rfl
theorem llLockstepMismatch : Statement (.llLockstepMismatch) := no_access rfl
theorem clockMonitorFault (n : Fin 9) : Statement (.clockMonitorFault n) := no_access rfl
theorem supplyFault (rail : Fin 3) (sample : SupplySample) : Statement (.supplyFault rail sample) := no_access rfl
theorem pacingExpiry : Statement (.pacingExpiry) := no_access rfl
theorem lampOverdueExpiry (c : CoreId) (a : ArrId) : Statement (.lampOverdueExpiry c a) := no_access rfl
theorem sfKsafeStopWrite (acc : Access) (val : Word) : Statement (.sfKsafeStopWrite acc val) :=
  of_offset rfl (by omega)
theorem sfDualMapWrite (acc : Access) (val : Word) : Statement (.sfDualMapWrite acc val) :=
  of_offset rfl (by omega)
theorem fcCountRead (acc : Access) (k : Fin 6) : Statement (.fcCountRead acc k) :=
  of_offset rfl (by omega)
theorem corrCountRead (acc : Access) : Statement (.corrCountRead acc) :=
  of_offset rfl (by omega)
theorem dualFailRead (acc : Access) : Statement (.dualFailRead acc) :=
  of_offset rfl (by omega)
theorem slackWindow (readings : List SlackReading) : Statement (.slackWindow readings) := no_access rfl
theorem marginPlannerRun : Statement (.marginPlannerRun) := no_access rfl
theorem binChange : Statement (.binChange) := no_access rfl
theorem clockRelockDone : Statement (.clockRelockDone) := no_access rfl
theorem dataFlitReceive (l : LinkId) (flit : List Byte) : Statement (.dataFlitReceive l flit) := no_access rfl
theorem controlFlitReceive (l : LinkId) (flit : List Byte) : Statement (.controlFlitReceive l flit) := no_access rfl
theorem linkRetrain (l : LinkId) : Statement (.linkRetrain l) := no_access rfl
theorem linkRetrainEnd (l : LinkId) (lanes : Byte) : Statement (.linkRetrainEnd l lanes) := no_access rfl
theorem portRetry (l : LinkId) : Statement (.portRetry l) := no_access rfl
theorem crcRead (acc : Access) (l : LinkId) : Statement (.crcRead acc l) :=
  of_offset rfl (by unfold linkOff; omega)
theorem replayRead (acc : Access) (l : LinkId) : Statement (.replayRead acc l) :=
  of_offset rfl (by unfold linkOff; omega)
theorem retrainRead (acc : Access) (l : LinkId) : Statement (.retrainRead acc l) :=
  of_offset rfl (by unfold linkOff; omega)
theorem flitsRead (acc : Access) (l : LinkId) : Statement (.flitsRead acc l) :=
  of_offset rfl (by unfold linkOff; omega)
theorem token (l : LinkId) : Statement (.token l) := no_access rfl
theorem enumTokenTimeout : Statement (.enumTokenTimeout) := no_access rfl
theorem membership (l : LinkId) : Statement (.membership l) := no_access rfl
theorem join (l : LinkId) : Statement (.join l) := no_access rfl
theorem joinTimeout : Statement (.joinTimeout) := no_access rfl
theorem probe (l : LinkId) : Statement (.probe l) := no_access rfl
theorem probeReply (l : LinkId) : Statement (.probeReply l) := no_access rfl
theorem runAck (l : LinkId) : Statement (.runAck l) := no_access rfl
theorem runRefuse (l : LinkId) : Statement (.runRefuse l) := no_access rfl
theorem multicastRunReceive (l : LinkId) : Statement (.multicastRunReceive l) := no_access rfl
theorem signal (l : LinkId) : Statement (.signal l) := no_access rfl
theorem update (l : LinkId) : Statement (.update l) := no_access rfl
theorem subscribe (l : LinkId) : Statement (.subscribe l) := no_access rfl
theorem subReply (l : LinkId) : Statement (.subReply l) := no_access rfl
theorem unsubscribe (l : LinkId) : Statement (.unsubscribe l) := no_access rfl
theorem heartbeatSend : Statement (.heartbeatSend) := no_access rfl
theorem heartbeatLoss (e : BitVec 5) : Statement (.heartbeatLoss e) := no_access rfl
theorem settleWindowEnd : Statement (.settleWindowEnd) := no_access rfl
theorem linkTickMarker (l : LinkId) (at_ : Nat) (count : Word) : Statement (.linkTickMarker l at_ count) := no_access rfl
theorem linkTickDue : Statement (.linkTickDue) := no_access rfl
theorem fabricFrame (found : FrameFinding) : Statement (.fabricFrame found) := no_access rfl
theorem fabricRelease : Statement (.fabricRelease) := no_access rfl
theorem cfgStart (acc : Access) (val : Word) : Statement (.cfgStart acc val) :=
  of_offset rfl (by omega)
theorem cfgAbort (acc : Access) (val : Word) : Statement (.cfgAbort acc val) :=
  of_offset rfl (by omega)
theorem cfgDataPush (acc : Access) (val : Word) : Statement (.cfgDataPush acc val) :=
  of_offset rfl (by omega)
theorem configScanMismatch (z : RegionId) (frame : BitVec 12) : Statement (.configScanMismatch z frame) := no_access rfl
theorem uclkWrite (acc : Access) (n : Fin 16) (val : Word) : Statement (.uclkWrite acc n val) :=
  of_offset rfl (by omega)
theorem uclkErrRead (acc : Access) : Statement (.uclkErrRead acc) :=
  of_offset rfl (by omega)
theorem kioWrite (acc : Access) (n : Fin 64) (val : Word) : Statement (.kioWrite acc n val) :=
  of_offset rfl (by omega)
theorem timerCtrlWrite (acc : Access) (k : Fin 4) (val : Word) : Statement (.timerCtrlWrite acc k val) :=
  of_offset rfl (by omega)
theorem timerPeriodicExpiry (k : Fin 4) : Statement (.timerPeriodicExpiry k) := no_access rfl
theorem userWatchdogExpiry (k : Fin 4) : Statement (.userWatchdogExpiry k) := no_access rfl
theorem watchdogService (k : Fin 4) : Statement (.watchdogService k) := no_access rfl
theorem loadsRead (acc : Access) (z : RegionId) : Statement (.loadsRead acc z) :=
  of_offset rfl (by unfold regionOff; omega)
theorem bramErrRead (acc : Access) (z : RegionId) : Statement (.bramErrRead acc z) :=
  of_offset rfl (by unfold regionOff; omega)
theorem bramUncorr (z : RegionId) (port : Fin 96) (off : Nat) : Statement (.bramUncorr z port off) := no_access rfl
theorem fxCommandStart (c : CoreId) : Statement (.fxCommandStart c) := no_access rfl
theorem fxDone (c : CoreId) (taken : Nat) (beats : List (BitVec 256)) : Statement (.fxDone c taken beats) := no_access rfl
theorem fxErr (c : CoreId) (code : Byte) (taken : Nat) (beats : List (BitVec 256)) : Statement (.fxErr c code taken beats) := no_access rfl
theorem fxCommandComplete (c : CoreId) : Statement (.fxCommandComplete c) := no_access rfl
theorem fxFault (c : CoreId) (fault : FxFinding) : Statement (.fxFault c fault) := no_access rfl
theorem fxSnuffComplete (c : CoreId) : Statement (.fxSnuffComplete c) := no_access rfl
theorem fxSnuffTimeout (c : CoreId) : Statement (.fxSnuffTimeout c) := no_access rfl
theorem fxSpuriousRead (acc : Access) (c : CoreId) : Statement (.fxSpuriousRead acc c) :=
  of_offset rfl (by unfold coreOff; omega)
theorem coldResetRelease (kroot : Bool) : Statement (.coldResetRelease kroot) := no_access rfl
theorem llResetCold (acc : Access) (val : Word) : Statement (.llResetCold acc val) :=
  of_offset rfl (by omega)
theorem bootApertureWrite (acc : Access) (off : BitVec 24) (data : List Byte) : Statement (.bootApertureWrite acc off data) :=
  of_offset rfl (by omega)
theorem bootRelease (acc : Access) (val : Word) : Statement (.bootRelease acc val) :=
  of_offset rfl (by omega)
theorem bistDone (found : BistFinding) : Statement (.bistDone found) := no_access rfl
theorem bootImageCheck (copyBad : BitVec 2) : Statement (.bootImageCheck copyBad) := no_access rfl
theorem llResetWarm (acc : Access) (val : Word) : Statement (.llResetWarm acc val) :=
  of_offset rfl (by omega)
theorem llPartResetWrite (acc : Access) (val : Word) : Statement (.llPartResetWrite acc val) :=
  of_offset rfl (by omega)
theorem llRegionResetWrite (acc : Access) (val : Word) : Statement (.llRegionResetWrite acc val) :=
  of_offset rfl (by omega)
theorem llWorldReq (acc : Access) (val : Word) : Statement (.llWorldReq acc val) :=
  of_offset rfl (by omega)
theorem worldScrubDone : Statement (.worldScrubDone) := no_access rfl
theorem coreRetentionExit (c : CoreId) : Statement (.coreRetentionExit c) := no_access rfl
theorem mbSend (acc : Access) (m : MboxId) (val : Word) : Statement (.mbSend acc m val) :=
  of_offset rfl (by unfold mbOff; unfold pageOff; split <;> omega)
theorem candleEnded (e : EntryId) : Statement (.candleEnded e) := no_access rfl
theorem cmdReady (z : RegionId) : Statement (.cmdReady z) := no_access rfl
theorem uclkLock (n : Fin 16) : Statement (.uclkLock n) := no_access rfl
theorem coreResetDone (c : CoreId) : Statement (.coreResetDone c) := no_access rfl

end Sys2Proof.Laws.WindowBound
end

