-- ==== Sys2Proof/Laws/Reads.lean ====
section
/-! SUPPORT. Laws/Reads.lean: every command that reads a counter is the 32-bit read access of R11 to R13 at its offset: readWindow gives its
value and its side effect. -/
namespace Sys2Proof.Machine
open Sys2Proof

/-- A clearing read is the read access where the register's value and side effect are those of the window. -/
theorem rcRead_is_readWindow {acc : Access} {off : Nat} {get : State → Word} {clear : State → State} {s : State} (ha : off % 4 = 0)
    (hv : answers s off = true → regValue s off = get s) (hc : ∀ t : State, readClears off t = clear t) :
    rcRead acc off get clear s = readWindow acc off .b32 s := by
  unfold readWindow rcRead read32
  by_cases h : ¬ acc.secure = true ∧ secureAt s off false = true
  · rw [if_pos h, access, if_pos h]
  · rw [if_neg h]
    simp only [ha, if_true]
    unfold access
    rw [if_neg h, if_neg h]
    by_cases h' : answers s off = true
    · simp only [h', if_true, hc, hv h', BitVec.truncate_eq_setWidth]
    · rw [if_neg h', if_neg h']

/-- The window by its parts, for a unit that answers. -/
theorem regValue_of_answers {s : State} {off : Nat} (h : answers s off = true) : regValue s off =
    (if off < 0x8000 then readLow s off
    else if off < 0x10000 then readHigh s off
    else if off < 0x90000 then readPage s (fin 8 ((off - 0x10000) / 0x10000)) ((off - 0x10000) % 0x10000)
    else if off < 0xA0000 then readTick s (off - 0x90000)
    else if off < 0xB0000 then readSafety s (off - 0xA0000)
    else if off < 0xC0000 then readLinks s (off - 0xB0000)
    else if off < 0x100000 then readFabric s (off - 0xC0000)
    else if off < 0x700000 then readCore s (fin 6 ((off - 0x100000) / 0x100000)) (off % 0x100000)
    else if 0x1000000 ≤ off ∧ s.boot.state = 1 then word (memNat s.staging (off - 0x1000000) 4)
    else 0) := by
  simp [regValue, h]

/-- DX_QUEUE_CNT_e: rewinds below, ignored packets above. -/
theorem queueCnt_word (rewinds ignored : Half) : word (rewinds.toNat + ignored.toNat * 2 ^ 16) = ignored ++ rewinds := by
  apply BitVec.eq_of_toNat_eq
  have h1 := rewinds.isLt
  have h2 := ignored.isLt
  simp only [word, BitVec.toNat_ofNat, BitVec.toNat_append]
  rw [← Nat.shiftLeft_add_eq_or_of_lt h1, Nat.shiftLeft_eq]
  omega

/-- A clearing read whose parts agree by computation. -/
theorem exec_read {o : Host.Outcome State Fault Refusal} {acc : Access} {off : Nat} {get : State → Word} {clear : State → State} {s : State}
    (ho : o = .next (rcRead acc off get clear s)) (ha : off % 4 = 0)
    (hv : answers s off = true → regValue s off = get s) (hc : ∀ t : State, readClears off t = clear t) :
    o = .next (readWindow acc off .b32 s) := ho.trans (congrArg _ (rcRead_is_readWindow ha hv hc))

/-- Every command of the window that reads is the 32-bit read access at its offset. -/
theorem exec_is_readWindow {i : Instr} {acc : Access} {off : Nat} (h : windowOf i = some (acc, off, false)) (s : State) :
    exec i s = .next (readWindow acc off .b32 s) := by
  cases i
  all_goals simp only [windowOf, Option.some.injEq, Prod.mk.injEq, reduceCtorEq, Bool.true_eq_false, and_false] at h
  case queueCntRead a c e =>
    obtain ⟨rfl, rfl, -⟩ := h
    fin_cases c <;> fin_cases e <;>
      exact exec_read rfl rfl (fun h => (regValue_of_answers h).trans (queueCnt_word _ _)) (fun _ => rfl)
  case earlyRead | synthRead | guttersRead | corrCountRead | dualFailRead | uclkErrRead =>
    all_goals obtain ⟨rfl, rfl, -⟩ := h
    all_goals exact exec_read rfl rfl (fun h => (regValue_of_answers h).trans rfl) (fun _ => rfl)
  all_goals rename_i c
  all_goals obtain ⟨rfl, rfl, -⟩ := h
  all_goals fin_cases c <;> exact exec_read rfl rfl (fun h => (regValue_of_answers h).trans rfl) (fun _ => rfl)

end Sys2Proof.Machine
end

