-- ==== Sys2Proof/Machine/Flags.lean ====
section
/-! DEFINITION. Machine/Flags.lean: the levels of the engine's output pins that are computed from its registers: the eleven
interrupt lines (R16), LL_INT_LINE, and the KSAFE pair. -/
namespace Sys2Proof.Machine
open Sys2Proof

/-- The level of KINT_Pp: an enabled cause of the partition page is pending. -/
def kintPart (s : State) (p : PartId) : Bool :=
  decide ((s.host.parts[p]).intStatus &&& (s.host.parts[p]).intEnable ≠ 0)
/-- The level of KINT_SEC (R414). -/
def kintSec (s : State) : Bool := decide (s.host.smIntStatus &&& s.host.smIntEnable ≠ 0)
/-- The level of KINT_SAFE (R415). -/
def kintSafe (s : State) : Bool := decide (s.safety.intStatus &&& s.safety.intEnable ≠ 0)
/-- The level of KINT_GLOBAL (R18). -/
def kintGlobal (s : State) : Bool := decide (s.bnd.gintStatus &&& s.bnd.gintEnable ≠ 0)

/-- LL_INT_LINE: bit i is line i of Table 01.4. -/
def intLine (s : State) : Word :=
  BitVec.ofNat 32 (((List.finRange 8).map (fun p : PartId => b2n (kintPart s p) * 2 ^ p.val)).foldl (· + ·) 0
    + b2n (kintSec s) * 256 + b2n (kintSafe s) * 512 + b2n (kintGlobal s) * 1024)

end Sys2Proof.Machine
end

