-- ==== Sys2Proof/Tests/Slice0.lean ====
section
/-! SUPPORT. Tests/Slice0.lean: a smoke test of WellFormed with an ill-formed command for each check, small tests of single steps
whose expected values come from the spec's tables and worked numbers, and for each statement states and operands that
meet the hypotheses of its clauses, at the ends of their ranges. -/
open Sys2Proof Sys2Proof.Machine
namespace Sys2Proof.Tests

/-! ### Small states -/

/-- Bytes with little-endian numbers at some places: (offset, length, value). -/
def bytesWith (n : Nat) (l : List (Nat × Nat × Nat)) : List Byte := memBytes (l.foldl (fun m x => memStore m x.1 (leBytes x.2.1 x.2.2)) []) 0 n

/-- A running engine, every core powered. -/
def up : State := { State.reset with
  boot := { Boot.cold with held := false, state := 3, header := bytesWith 64 [(0, 4, 0x4C4C4B49)] }, cores := Vector.replicate 6 { Core.cold with
      powered := true } }

/-- Core 0 changed. -/
def k0 (f : Core → Core) : State := modCore 0 f up
/-- Core 5 changed. -/
def k5 (f : Core → Core) : State := modCore 5 f up
/-- A secure access and one of partition 0's master. -/
def sec : Access := ⟨true, 0xFF⟩
def plain : Access := ⟨false, 0⟩

/-- A set of registers with some given. -/
def cfgOf (l : List (Nat × Word)) : Vector Word 64 := l.foldl (fun v x => v.setIfInBounds x.1 x.2) (Vector.replicate 64 0)

/-- A taken packet that starts its engine on set 0, with nothing to wait for and nothing to post. -/
def go : EngCmd := ⟨0, 0, 0, 1, true, none, 0, none, none, 0, 0⟩
/-- The same without a start. -/
def idleCmd : EngCmd := { go with start := false }

/-! ### Witnesses: the machine as a whole, the window and the boundary -/

theorem witness_StepTakesFrontCommand : { up with pending := [.bankReady 0, .bankReady 5] }.pending = .bankReady 0 :: [.bankReady 5] := by decide

theorem witness_IdleStepPassesOneCycle : State.reset.pending = [] ∧ up.pending = [] := by decide

theorem witness_StepKeepsMemoriesCanonical : State.reset.memWf ∧ up.memWf ∧ ∃ t, step up = .next t := ⟨by decide, by decide, _, rfl⟩

theorem witness_StepKeepsPinsSafe : State.reset.pinsSafe ∧ up.pinsSafe ∧ (ksafeStop 0x1A up).pinsSafe ∧ ∃ t, step State.reset = .next t :=
  ⟨by decide, by decide, by decide, _, rfl⟩

theorem witness_WindowAccessChecks :
    (windowOf (.smIntStatusClear plain 0) = some (plain, 0xE100, true) ∧ secureAt up 0xE100 true = true) ∧
    (windowOf (.vxElemsRead plain 5) = some (plain, coreOff 5 0x1404, false) ∧
      secureAt { up with grade := .s94 } (coreOff 5 0x1404) false = false ∧ answers { up with grade := .s94 } (coreOff 5 0x1404) = false) ∧
    (windowOf (.streamCtrlWrite plain 3 0) = some (plain, 0x2C0, true) ∧
      secureAt { up with grade := .s92 } 0x2C0 true = false ∧ answers { up with grade := .s92 } 0x2C0 = false) ∧
    RingsOff up := by decide

theorem witness_RegistersTakeWrites :
    (secureAt up 0x108 true = false ∧ 0x108 % 8 = 0 ∧ answers up 0x108 = true) ∧ (secureAt up 0x10C true = false ∧ 0x10C % 8 ≠ 0) ∧
    (secureAt up 0x10A true = false ∧ 0x10A % 4 ≠ 0) ∧ sec.secure = true ∧ (up.host.parts[(0 : PartId)]).secure = false ∧
    (up.host.parts[(7 : PartId)]).secure = false ∧ CoreOpen plain 0 up ∧ CoreOpen plain 5 up := by decide

theorem witness_CountersClearOnRead :
    (∀ c : CoreId, c = 0 ∨ c = 5 → Passes plain up (coreOff c 0x404) false ∧ Passes plain up (coreOff c 0x5414) false ∧
      Passes plain up (coreOff c (0x4584 + 8 * 4)) false) ∧
    Passes plain up 0x20C false ∧ Passes plain up (0x20C + 0x40 * 3) false ∧ Passes plain up (0x440 + 4 * 7) false ∧
    Passes plain up (pageOff 7 0x414) false ∧ Passes sec up 0x90038 false ∧ Passes sec up (0xA0010 + 4 * 5) false ∧
    Passes plain up (linkOff 3 0x14) false ∧ Passes sec up 0xC0084 false ∧ Passes plain up (regionOff 7 0x10) false := by decide

/-- A port enabled towards core 0 with a ring of 4 slots of 128 bytes at 0. -/
def ported : State := modPort 0 (fun x => { x with ctrl := 1, ring := 0x01040000, credits := 4 }) up

theorem witness_StreamPortsWork_control :
    Passes plain up 0x200 true ∧ (bitAt (1 : Word) 0 = true ∧ fld (up.bnd.strm[(0 : StreamId)]).ring 16 8 = 0) ∧
    (bitAt (0xD : Word) 0 = true ∧ coreCount up.grade ≤ fld (0xD : Word) 1 3) ∧
    Passes plain ported 0x200 true ∧ bitAt (ported.bnd.strm[(0 : StreamId)]).ctrl 0 = true ∧
    (streamRefused false 0 1 ported = false ∧ fld (ported.bnd.strm[(0 : StreamId)]).ctrl 1 3 = fld (1 : Word) 1 3) ∧
    (streamRefused false 0 0xB ported = false ∧ fld (ported.bnd.strm[(0 : StreamId)]).ctrl 1 3 ≠ fld (0xB : Word) 1 3) ∧
    bitAt (up.bnd.strm[(3 : StreamId)]).ctrl 0 = false ∧ (6 ≤ fld (0xC : Word) 1 3 ∧ bitAt (0xC : Word) 0 = false) ∧
    (slotBase 0x01040000 4 ≤ 2 ^ 23 ∧ 2 ^ 23 < slotBase 0xFFFFFFFF 255 ∧ slotBase 0x01FFFF01 (fld (0x01FFFF01 : Word) 16 8) = 2 ^ 23 ∧
        2 ^ 23 < slotBase 0x01FFFF02 (fld (0x01FFFF02 : Word) 16 8)) := by decide

/-- A line with n bytes of payload. -/
def lineOf (n : Nat) : CameraLine := ⟨1, 0, true, false, List.replicate n 0x55⟩

theorem witness_StreamPortsWork_line :
    streamPresent up.grade 0 = true ∧ (Instr.streamLineArrival 0 0 (lineOf 1)).wf = true ∧
    bitAt (up.bnd.strm[(0 : StreamId)]).ctrl 0 = false ∧
    (bitAt (ported.bnd.strm[(0 : StreamId)]).ctrl 0 = true ∧ (ported.bnd.strm[(0 : StreamId)]).credits ≠ 0 ∧
      16 + (lineOf 112).payload.length ≤ fld (ported.bnd.strm[(0 : StreamId)]).ring 24 8 * 128 ∧
      fld (ported.bnd.strm[(0 : StreamId)]).ring 24 8 * 128 < 16 + (lineOf 113).payload.length ∧
      (Instr.streamLineArrival 0 0 (lineOf 113)).wf = true) ∧
    ((modPort 0 (fun x => { x with credits := 0 }) ported).bnd.strm[(0 : StreamId)]).credits = 0 ∧
    ((modPort 0 (fun x => { x with held := [⟨0, true⟩, ⟨1, false⟩] }) ported).bnd.strm[(0 : StreamId)]).held
      = [⟨0, true⟩] ++ ⟨1, false⟩ :: [] := by decide

theorem witness_BoundaryPinsAndPort :
    (let s := { up with bnd := { up.bnd with vofsCode := 1 } }; s.bnd.vofsCode ≠ s.bnd.vofsAck ∧ s.bnd.timedOut = false ∧
      s.safety.planStep = none ∧ s.bnd.vofsCode ≠ s.safety.marginCode) ∧
    (up.safety.planStep = none ∧ up.bnd.vofsCode = up.safety.marginCode ∧
      ({ up with safety := { up.safety with planStep := some 43 } }).safety.planStep = some 43) ∧
    patternStarts { up with cores := up.cores.map (fun k => { k with powered := false }) } = true ∧
    (let s := { up with fabric := { up.fabric with pins := up.fabric.pins.set 0 ⟨2, 0, 0, true⟩ }, bnd := { up.bnd with ktickLast := some 0 } };
      (s.fabric.pins[0]).use = 2 ∧ (∀ t, s.bnd.ktickLast = some t → t + us 1 ≤ max s.time (us 1)) ∧
      ∃ t, s.bnd.ktickLast = some t ∧ max s.time (us 1 - 1) < t + us 1) ∧
    (up.fabric.pins[0]).use ≠ 2 ∧ Passes plain up 0x430 true ∧
    (plain.secure = false ∧ ({ up with sg := { up.sg with lock := true } }).sg.lock = true ∧ 12 < 13) ∧
    patternStarts { up with cores := up.cores.map (fun k => { k with cyc := 7 }) } = false ∧
    (∀ (c : CoreId) (ch : ChanId), (dxChan up c ch).run.isSome = false) ∧
    ({ up with sg := { up.sg with cap := up.sg.cap.set 7 1 } }).sg.cap[(7 : PartId)] ≠ 0 := by
  refine ⟨by decide, by decide, by decide +kernel, ⟨by decide, ?_, 0, by decide⟩, by decide, by decide, by decide +kernel, by decide +kernel,
    by decide +kernel, by decide +kernel⟩
  intro t h; cases h; decide

/-- A command of a channel that reads nothing, held on the accumulator. -/
def dxRun : DxRun := ⟨go, cfgOf [], 0, 0, [], 0, 0, 0, 0, [], false, none, false, 0⟩
/-- Channel 0 of core 0 runs r. -/
def dx0 (r : DxRun) : State := modChan 0 0 (fun x => { x with run := some r }) up

theorem witness_BoundaryPinsAndPort_held : let s := dx0 { dxRun with held := true }
    (dxChan s 0 0).run = some { dxRun with held := true } ∧ coreLive s 0 = true ∧ (dxChan s 0 0).snuff = false := by decide

/-! ### Witnesses: the matrix engine -/

/-- A set in matrix mode: one K-step of one operand, one position, one weight row, on array 0. -/
def cfgA : Vector Word 64 := cfgOf [(0, 0x0101), (1, 1), (16, 0xA10000), (18, 0x00010001)]
/-- The same set without operands (K_t = 0), in stem mode, on no array. -/
def cfgZ : Vector Word 64 := cfgOf [(0, 0x0100), (1, 1), (16, 0xA10000), (18, 0x00010001)]
def cfgS : Vector Word 64 := cfgOf [(0, 0x0101), (1, 1), (16, 0xA30000), (17, 0x00010001), (18, 0x00010001)]
def cfgN : Vector Word 64 := cfgOf [(0, 0x0101), (16, 0xA10000), (18, 0x00010001)]

/-- Core c with powered arrays, its set 0 holding cfg, its matrix engine changed. -/
def mxc (c : CoreId) (cfg : Vector Word 64) (f : Mx → Mx) (s : State := up) : State := modCore c (fun k => { k with
  arrays := Vector.replicate 4 { ArrayUnit.reset with powered := true }, mx := f { k.mx with sets := k.mx.sets.set 0 cfg } }) s

/-- A started command with its next pass. -/
def mxcmd (cfg : Vector Word 64) (next : Nat) : MxCmd := ⟨0, go, cfg, next, mxPasses cfg, 0, false, false⟩
/-- Row r of pass 0 of a set, in flight and in the output stage. -/
def rowOf (cfg : Vector Word 64) (r : Nat) : MxRow := ⟨0, mxEff [] cfg 0, r, maskCount cfg, [⟨0, 0, 0, [0], 0⟩], []⟩
def outOf (cfg : Vector Word 64) (r : Nat) : MxOut := ⟨0, mxEff [] cfg 0, r, 0, []⟩

theorem witness_ConfigSetWriteNeedsHaltedCore :
    setAt 0 = some (0, 0, 0) ∧ (setAt 0x5378).isSome = true ∧ CoreOpen plain 0 up ∧ CoreOpen plain 5 up ∧
    coreHalted (k5 (fun k => { k with phase := .halted (haltCond 1 5 0 0) })).cores[(5 : CoreId)] = true ∧
    coreHalted up.cores[(0 : CoreId)] = false := by decide

theorem witness_MxCommandStarts : ∀ cfg : Vector Word 64, cfg = cfgA ∨ cfg = cfgZ →
    let s := mxc 5 cfg (fun m => { m with taken := some go })
    (s.cores[(5 : CoreId)]).mx.taken = some go ∧ (s.cores[(5 : CoreId)]).mx.sets[go.set] = cfg ∧ coreLive s 5 = true ∧
    go.start = true ∧ waitDone s.cores[(5 : CoreId)] go = true ∧ (s.cores[(5 : CoreId)]).mx.stop = .none ∧
    (s.cores[(5 : CoreId)]).mx.stopped = false ∧ mxFreeToStart s 5 cfg false = true ∧ mxGated s 5 cfg = false ∧ mxAgMode cfg ≠ 3 ∧
    (bitAt (reg cfg 0x04) 6 || candleFreeze s go.job 5) = false ∧
    (s.cores[(5 : CoreId)]).mx.resume.valid = false ∧ mxNestChecks s.cores[(5 : CoreId)] go cfg = none := by
  rintro cfg (rfl | rfl) <;> decide +kernel

theorem witness_MxCommandStarts_halts :
    (let s := mxc 0 cfgA (fun m => { m with taken := some go, resume := ⟨true, false, 3, 1, 0, 0⟩ });
      mxFreeToStart s 0 cfgA false = true ∧ mxGated s 0 cfgA = false ∧ (s.cores[(0 : CoreId)]).mx.resume.valid = true ∧
          (s.cores[(0 : CoreId)]).mx.resume.set ≠ go.set) ∧
    (let cfg := cfgA.setIfInBounds 28 6; let s := mxc 0 cfg (fun m => { m with taken := some go });
      mxFreeToStart s 0 cfg false = true ∧ mxGated s 0 cfg = false ∧ (mxNestChecks s.cores[(0 : CoreId)] go cfg).isSome = true) ∧
    (let s := mxc 0 cfgS (fun m => { m with taken := some go }) ported; let u := stemStart 0 cfgS s;
      mxAgMode cfgS = 3 ∧ coreLive s 0 = true ∧ mxFreeToStart s 0 cfgS false = true ∧ mxGated u 0 cfgS = false) := by decide +kernel

/-- The checks that a pass meets at its formation. -/
def formChecks (s : State) (c : CoreId) (cmd : MxCmd) (e : MxEff) : Option HaltCond :=
  (if e.idx = 0 then mxNestChecks s.cores[c] cmd.cmd cmd.cfg else none).orElse (fun _ =>
    mxPassChecks s.grade s.bnd.strm[mxPort cmd.cfg] (stemBound s c cmd.cfg) s.cores[c] cmd.cmd cmd.cfg e)

theorem witness_MxPassFormsAndStarts_forms :
    (∀ x : Vector Word 64 × Bool, x = (cfgA, false) ∨ x = (cfgZ, false) ∨ x = (cfgS, false) ∨ x = (cfgN, true) →
      let cmd := mxcmd x.1 0; let s := mxc 0 x.1 (fun m => { m with started := [cmd] }) ported; let e := mxEff (s.cores[(0 : CoreId)]).mem.core x.1 0
      (mxForms s 0 = true ∧ passDue s 0 = some (cmd, e)) ∧ (formChecks s 0 cmd e).isSome = x.2 ∧ s.safety.poison = []) ∧
    (mxSwaps (mxcmd cfgA 0) (mxEff [] cfgA 0) = true ∧ mxAgMode cfgA ≠ 3) ∧ mxSwaps (mxcmd cfgZ 0) (mxEff [] cfgZ 0) = false ∧
    (mxSwaps (mxcmd cfgS 0) (mxEff [] cfgS 0) = true ∧ mxAgMode cfgS = 3) := by
  refine ⟨?_, by decide +kernel⟩
  rintro x (rfl | rfl | rfl | rfl) <;> decide +kernel

/-- A complete shadow plane waits for its start. -/
def loaded : MxLoad := ⟨0, mxEff [] cfgA 0, 0, Vector.replicate 8 128, [], 0, false, false, []⟩

theorem witness_MxPassFormsAndStarts_starts : let s := mxc 0 cfgA (fun m => { m with started := [mxcmd cfgA 0], load := some loaded })
    mxForms s 0 = true ∧ (s.cores[(0 : CoreId)]).mx.load.isSome = true ∧
    MeetsAfter 0 (fun t => passReady (weightFills s 0) t.cores[(0 : CoreId)] || !(mxForms t 0)) 0 s ∧
    mxForms (cyclesOf 0 0 s) 0 = true ∧ passReady (weightFills s 0) (cyclesOf 0 0 s).cores[(0 : CoreId)] = true ∧
    ((cyclesOf 0 0 s).cores[(0 : CoreId)]).mx.load = some loaded ∧ mxCmd (s.cores[(0 : CoreId)]).mx 0 = some (mxcmd cfgA 0) := by decide +kernel

theorem witness_MxCommandEndsAndPosts :
    (let s := mxc 5 cfgA (fun m => { m with started := [mxcmd cfgA 1] });
      (s.cores[(5 : CoreId)]).mx.started ≠ [] ∧ (s.cores[(5 : CoreId)]).mx.taken = none ∧
      ((s.cores[(5 : CoreId)]).mx.started.head?.any (fun q => decide (q.next < mxPasses q.cfg))) = false ∧
      MeetsAfter 5 (fun t => (mxFinished (t.cores[(5 : CoreId)]).mx).isSome) 0 s ∧
      mxFinished ((cyclesOf 5 0 s).cores[(5 : CoreId)]).mx = some (mxcmd cfgA 1) ∧ (s.cores[(5 : CoreId)]).mx.stopped = false) ∧
    (let s := k0 (fun k => { k with mx := { k.mx with taken := some idleCmd, started := [mxcmd cfgA 0] }
                                    vx := { k.vx with taken := some idleCmd, run := some (vecRun0 go (cfgOf []) 0 []) }
                                    wx := { k.wx with taken := some idleCmd } });
      coreLive s 0 = true ∧ idleCmd.start = false ∧ waitDone s.cores[(0 : CoreId)] idleCmd = true ∧
      (s.cores[(0 : CoreId)]).mx.taken = some idleCmd ∧ (s.cores[(0 : CoreId)]).vx.taken = some idleCmd ∧
      (s.cores[(0 : CoreId)]).wx.taken = some idleCmd) := by decide +kernel

/-- Counter t of core 0 at v. -/
def tokAt (t : TokId) (v : Half) : State := k0 (fun k => { k with toks := k.toks.set t v })

theorem witness_MxCommandEndsAndPosts_posts :
    (tok (tokAt 63 65534) 0 63).toNat + 1 ≤ 65535 ∧ (tok (tokAt 63 65533) 0 63).toNat + 1 + 1 ≤ 65535 ∧
    ((63 : TokId) ≠ 0 ∧ (tok (tokAt 63 65534) 0 0).toNat + 65535 ≤ 65535) ∧
    (65535 < (tok (tokAt 63 65535) 0 63).toNat + 1 ∧ ((tokAt 63 65535).cores[(0 : CoreId)]).phase = .live) := by decide

theorem witness_MxSnuffEnds :
    (∀ x : Option (Nat × Nat × Nat) × Bool, x = (some (0, 0, 0), false) ∨ x = (some (0, 0, 0), true) ∨ x = (none, false) →
      let s := mxc 0 cfgA (fun m => { m with started := [mxcmd cfgA 0], stop := .snuff x.1, stopReplay := x.2, stopMask := 1 });
      (s.cores[(0 : CoreId)]).mx.stop ≠ .none ∧ MeetsAfter 0 (fun t => stopDrained (t.cores[(0 : CoreId)]).mx || snuffLate t.cores[(0 : CoreId)]) 0 s ∧
      stopDrained ((cyclesOf 0 0 s).cores[(0 : CoreId)]).mx = true ∧
      mxFinished ((cyclesOf 0 0 s).cores[(0 : CoreId)]).mx = none ∧ ((cyclesOf 0 0 s).cores[(0 : CoreId)]).mx.stop = .snuff x.1 ∧
      mxCmd ((cyclesOf 0 0 s).cores[(0 : CoreId)]).mx 0 = some (mxcmd cfgA 0) ∧ (s.cores[(0 : CoreId)]).mx.stopReplay = x.2) ∧
    (let s := modCore 0 (fun k => { k with cyc := 4096 }) (mxc 0 cfgA (fun m => { m with
        started := [mxcmd cfgA 1], flight := [rowOf cfgA 0], stop := .snuff none, stopMask := 1 }));
      (s.cores[(0 : CoreId)]).mx.stop = .snuff none ∧
          MeetsAfter 0 (fun t => stopDrained (t.cores[(0 : CoreId)]).mx || snuffLate t.cores[(0 : CoreId)]) 0 s ∧
      stopDrained ((cyclesOf 0 0 s).cores[(0 : CoreId)]).mx = false ∧ unfinished (s.cores[(0 : CoreId)]).mx = [(0, 0)] ∧
      mxCmd (s.cores[(0 : CoreId)]).mx 0 = some (mxcmd cfgA 1) ∧
      mxGroup (s.cores[(0 : CoreId)]).mem.core cfgA 0 = (some 0, 0)) := by
  refine ⟨?_, by decide +kernel⟩
  rintro x (rfl | rfl | rfl) <;> decide +kernel

/-- An array fault on the oldest row in flight. -/
def finding : ArrayFinding := ⟨1, 4, 7, 7, .row 0, none⟩

theorem witness_ArrayFaultsReplay :
    (∀ n : Nat, n = 0 ∨ n = 1 ∨ n = 2 →
      let s := mxc 0 cfgA (fun m => { m with started := [mxcmd cfgA 1], flight := [rowOf cfgA 0], replays := n,
                                             replay := if n = 0 then none else some ⟨0, 0, 0, n, 2⟩ })
      inService s 0 = true ∧ coreLive s 0 = true ∧ faultSite (s.cores[(0 : CoreId)]).mx finding.site = some (0, 0, 0) ∧
      mxCmd (s.cores[(0 : CoreId)]).mx 0 = some (mxcmd cfgA 1) ∧ finding.cause ≠ 0 ∧ finding.cause.toNat ≤ 4 ∧
      finding.arrays &&& mxMask cfgA ≠ 0 ∧ mxGroup (s.cores[(0 : CoreId)]).mem.core cfgA 0 = (some 0, 0) ∧
      (s.cores[(0 : CoreId)]).mx.stop = .none ∧
      n = (if (s.cores[(0 : CoreId)]).mx.replay.any (fun r => decide (r.ord = 0) && decide (r.first ≤ 0) && decide (0 ≤ r.last))
        then (s.cores[(0 : CoreId)]).mx.replays else 0)) ∧
    (let cfg := cfgA.setIfInBounds 1 0x81; let s := mxc 0 cfg (fun m => { m with started := [mxcmd cfg 1], flight := [rowOf cfg 0] });
      inService s 0 = true ∧ faultSite (s.cores[(0 : CoreId)]).mx finding.site = some (0, 0, 0) ∧ finding.arrays &&& mxMask cfg ≠ 0 ∧
      mxCmd (s.cores[(0 : CoreId)]).mx 0 = some (mxcmd cfg 1) ∧ (s.cores[(0 : CoreId)]).phase = .live ∧ finding.word = none ∧
      mxGroup (s.cores[(0 : CoreId)]).mem.core cfg 0 = (none, 0)) ∧
    (let s := mxc 0 cfgA (fun m => { m with started := [mxcmd cfgA 1], replay := some ⟨0, 0, 0, 1, 2⟩ });
      (s.cores[(0 : CoreId)]).mx.replay = some ⟨0, 0, 0, 1, 2⟩ ∧ MeetsAfter 0 (fun t => replayMerged (t.cores[(0 : CoreId)]).mx ⟨0, 0, 0, 1, 2⟩) 0 s ∧
      ((cyclesOf 0 0 s).cores[(0 : CoreId)]).mx.replay = some ⟨0, 0, 0, 1, 2⟩) := by
  refine ⟨?_, by decide +kernel⟩
  rintro n (rfl | rfl | rfl) <;> decide +kernel

/-! ### Witnesses: engine faults, vector engines, the data mover -/

/-- VX: op 0 (SCALE) from an 8-bit element at 0 to one at 128. OBSERVE (op 12) of the same element. -/
def vxCfg : Vector Word 64 := cfgOf [(0, 0), (2, 0x100000), (9, 0x00010001), (10, 1), (16, 1), (17, 0x00010001), (18, 1)]
def vxObs : Vector Word 64 := cfgOf [(0, 12), (9, 0x00010001), (10, 1)]
/-- WX: op 0 with a window of one element, from 0 to 128. -/
def wxCfg : Vector Word 64 := cfgOf [(5, 0x100000), (9, 0x00010001), (10, 1), (12, 1), (13, 0x00010001), (14, 1)]
/-- DX: a copy of one byte inside core memory, from 0 to 128. -/
def dxCfg : Vector Word 64 := cfgOf [(0, 0x1240), (3, 128), (6, 1), (7, 0x58D1), (8, 0x10001), (9, 0x10001), (10, 0x10001), (11, 0x10001),
    (12, 0x10001)]

/-- A run of a VX or WX command at a row. -/
def vrun (cfg : Vector Word 64) (row : Nat) : VecRun := vecRun0 go cfg row []
/-- A transfer of run 0 whose byte goes to a target. -/
def xfer (t : DxTarget) : DxXfer := ⟨0, 0, 1, 1, 0, 1, [0], false, t, [(128, [0x55])], [], 0, false, false, false, 0⟩
def dxr : DxRun := { dxRun with cfg := dxCfg }

theorem witness_EngineFaultsStopCore :
    (mxc 5 cfgA (fun m => { m with
        started := [mxcmd cfgA 1]
        outq := [outOf cfgA 0, outOf cfgA 1] })).cores[(5 : CoreId)].mx.outq[1]? = some (outOf cfgA 1) ∧
    jobUnacked up (up.cores[(5 : CoreId)]).ctl.job = false ∧
    (let s := k5 (fun k => { k with vx := { k.vx with run := some (vrun vxCfg 0) }, wx := { k.wx with run := some (vrun wxCfg 0) },
                                    ctl := { k.ctl with running := true } });
      inService s 5 = true ∧ (vecOf s.cores[(5 : CoreId)] .vx).run = some (vrun vxCfg 0) ∧
          (vecOf s.cores[(5 : CoreId)] .wx).run = some (vrun wxCfg 0) ∧
      (Instr.engineFault 5 (.vec .vx 2 none)).wf = true ∧ (Instr.engineFault 5 (.vec .wx 3 none)).wf = true ∧
      (s.cores[(5 : CoreId)]).ctl.running = true ∧ (s.cores[(5 : CoreId)]).phase = .live) ∧
    (∀ n : Nat, n = 0 ∨ n = 6 → let r := { dxr with out := [{ xfer .ext with extRead := true }], fault := n }
      (dxChan (dx0 r) 0 0).run = some r ∧ (Instr.dxFault 0 0 ⟨1, none⟩).wf = true ∧ (Instr.dxFault 0 0 ⟨5, none⟩).wf = true ∧
          inService (dx0 r) 0 = true ∧
      dxNth r.out 0 = some 0 ∧ r.out[0]? = some { xfer .ext with extRead := true } ∧ (dx0 r).host.owed = [] ∧
      dxGranule (xfer .ext) 0 = some 128 ∧ dxGranule (xfer .ext) 1 = none) ∧
    (({ up with fabric := { up.fabric with
        load := some ⟨1, 7, 0, 0, 0, 0, 0, none, 0, []⟩ } }).fabric.load.any (fun l : FbLoad => decide (l.path = 1))) = true ∧
    (∃ t, exec (.arrayFault 0 { finding with word := none }) up = .next t) ∧ (∃ t, exec (.fxFault 0 (.coreRead none)) up = .next t) := by
  refine ⟨by decide +kernel, by decide +kernel, by decide +kernel, ?_, by decide, ⟨_, rfl⟩, ⟨_, rfl⟩⟩
  rintro n (rfl | rfl) <;> decide +kernel

theorem witness_VectorCommandsRun :
    (let s := k5 (fun k => { k with vx := { k.vx with taken := some go, sets := k.vx.sets.set 0 vxCfg }, wx := { k.wx with
        taken := some go, sets := k.wx.sets.set 0 wxCfg } });
      vecNext s.cores[(5 : CoreId)] (vecOf s.cores[(5 : CoreId)] .vx) = some go ∧ vecFree s 5 .vx vxCfg = true ∧
      vecNext s.cores[(5 : CoreId)] (vecOf s.cores[(5 : CoreId)] .wx) = some go ∧ vecFree s 5 .wx wxCfg = true ∧
      vecChecks (progress 5 (modVec 5 .vx vecDequeue s)) 5 .vx go vxCfg = none ∧
      vecChecks (progress 5 (modVec 5 .wx vecDequeue s)) 5 .wx go wxCfg = none ∧
      (vecChecks (progress 5 (modVec 5 .vx vecDequeue s)) 5 .vx go (cfgOf [])).isSome = true ∧
          (vecOf s.cores[(5 : CoreId)] .vx).resume.valid = false) ∧
    (let s := k0 (fun k => { k with wx := { k.wx with parked := some go, resume := ⟨true, false, 3, 0, 0, 0⟩, sets := k.wx.sets.set 0 wxCfg } });
      vecNext s.cores[(0 : CoreId)] (vecOf s.cores[(0 : CoreId)] .wx) = some go ∧ vecFree s 0 .wx wxCfg = true ∧
      (vecOf s.cores[(0 : CoreId)] .wx).resume.valid = true ∧ (vecOf s.cores[(0 : CoreId)] .wx).resume.set ≠ go.set) ∧
    (let s := k0 (fun k => { k with vx := { k.vx with run := some (vrun vxCfg 1) }, wx := { k.wx with run := some (vrun wxCfg 1) } });
      inService s 0 = true ∧ (s.cores[(0 : CoreId)]).vx.snuff = false ∧ (s.cores[(0 : CoreId)]).wx.snuff = false ∧
      (s.cores[(0 : CoreId)]).vx.taken = none ∧ (s.cores[(0 : CoreId)]).wx.taken = none ∧
      ((vecRunRows 0 .vx (vxRows vxCfg - 1) s).cores[(0 : CoreId)]).vx.run = some (vrun vxCfg 1) ∧ vxRows vxCfg ≤ 1 ∧
      ((vecRunRows 0 .wx (wxRows wxCfg - 1) s).cores[(0 : CoreId)]).wx.run = some (vrun wxCfg 1) ∧ wxRows wxCfg ≤ 1) ∧
    (let s := k0 (fun k => { k with vx := { k.vx with run := some (vrun vxCfg 0), snuff := true } });
      (vecOf s.cores[(0 : CoreId)] .vx).run = some (vrun vxCfg 0) ∧ (vecOf s.cores[(0 : CoreId)] .vx).snuff = true ∧
      (vrun vxCfg 0).cyc = 0) ∧
    (let r := { vrun vxCfg 0 with cyc := 1 }; let s := k0 (fun k => { k with vx := { k.vx with run := some r, snuff := true } });
      (vecOf s.cores[(0 : CoreId)] .vx).run = some r ∧ r.held = false ∧
          (vecOf (vecRunRows 0 .vx 1 s).cores[(0 : CoreId)] .vx).run.isSome = true) := by
  decide +kernel

/-- Channel 3 of core 5 with a waiting packet on a set. -/
def dxWait (f : DxChan → DxChan) (cfg : Vector Word 64) : State :=
  modChan 5 3 f (modCore 5 (fun k => { k with dx := { k.dx with sets := k.dx.sets.set 0 cfg } }) up)

theorem witness_DxCommandRuns_starts :
    (let s := dxWait (fun x => { x with waiting := some go }) dxCfg; let x := dxChan s 5 3;
      let u := progress 5 (modChan 5 3 (fun x => { x with waiting := none }) s)
      (x.parked.orElse (fun _ => x.waiting.filter (fun q => q.start && waitDone s.cores[(5 : CoreId)] q))) = some go ∧ coreLive s 5 = true ∧
      x.run = none ∧ x.snuff = false ∧ (s.cores[(5 : CoreId)]).dx.sets[go.set] = dxCfg ∧ x.resume.valid = false ∧
      dxTokenCheck u 5 go dxCfg = none ∧ (dxChecks u 5 go dxCfg).or (dxLinkChecks u 5 go dxCfg) = none) ∧
    (let s := dxWait (fun x => { x with waiting := some go }) (cfgOf []);
      ((dxChecks s 5 go (cfgOf [])).or (dxLinkChecks s 5 go (cfgOf []))).isSome = true ∧ dxTokenCheck s 5 go (cfgOf []) = none) ∧
    (let cfg := dxCfg.setIfInBounds 24 0x40; (dxTokenCheck (modCore 5 (fun k => { k with allocs := k.allocs.map (fun a => { a with
        tokCount := 0 }) }) up) 5 go cfg).isSome = true) ∧
    (let s := dxWait (fun x => { x with parked := some go, resume := ⟨true, 3, false, 0⟩ }) dxCfg; let x := dxChan s 5 3;
      (x.parked.orElse (fun _ => x.waiting.filter (fun q => q.start && waitDone s.cores[(5 : CoreId)] q))) = some go ∧ coreLive s 5 = true ∧
      x.run = none ∧ x.resume.valid = true ∧ x.resume.set ≠ go.set) := by decide +kernel

/-- Whether a transfer forms, halts, or waits for a row. -/
def forms (f : DxForm) : Bool := match f with | .ok .. => true | _ => false
def formsHalt (f : DxForm) : Bool := match f with | .halt .. => true | _ => false
def formsHold (f : DxForm) : Bool := match f with | .hold => true | _ => false

theorem witness_DxCommandRuns_issues :
    (let s := dx0 dxr;
      (dxChan s 0 0).run = some dxr ∧ (dxChan s 0 0).snuff = false ∧ dxr.fault = 0 ∧ dxr.held = false ∧ dxAllIssued dxr = false ∧
      dxOutstanding dxr < dxMaxOut dxr.cfg ∧ coreLive s 0 = true ∧ (dxTakeUnits 0 0 go dxCfg 1 s).1 = true ∧
      (dxChan (dxTakeUnits 0 0 go dxCfg 1 s).2 0 0).run.isSome = true ∧ forms (dxForm s 0 0 dxr) = true ∧ dxReadBad s 0 dxr = false ∧
      dxReadBad { s with safety := { s.safety with poison := [(.core 0, 0)] } } 0 dxr = true) ∧
    (let cfg := dxCfg.setIfInBounds 0 0x1200; let r := { dxr with cfg := cfg };
      dxAllIssued r = false ∧ dxOutstanding r < dxMaxOut cfg ∧ formsHalt (dxForm (dx0 r) 0 0 r) = true) ∧
    (let cfg := dxCfg.setIfInBounds 0 0x1280; let r := { dxr with cfg := cfg };
      formsHold (dxForm (modCore 0 (fun k => { k with arrays := k.arrays.map (fun a => { a with invalid := 1 }) }) (dx0 r)) 0 0 r) = true) ∧
    (let cfg := dxCfg.setIfInBounds 24 0x40; let r := { dxr with cfg := cfg };
      dxCrEn cfg = true ∧ dxOp cfg ≠ 6 ∧ dxCounters (dx0 r) 0 go cfg (dxCrTok cfg) = [(0, 0)] ∧
      (tok (dx0 r) 0 0).toNat ≤ claimsBefore (dx0 r) 0 0 0 ∧
      claimsBefore (setTok 0 0 1 (dx0 r)) 0 0 0 < (tok (setTok 0 0 1 (dx0 r)) 0 0).toNat ∧ (dxTakeUnits 0 0 go cfg 1 (dx0 r)).1 = false) := by
  decide +kernel

theorem witness_DxCommandRuns_acks :
    (∀ t : DxTarget, t = .ext ∨ t = .core ∨ t = .acc ∨ t = .wbuf ∨ t = .staging ∨ t = .curve ∨ t = .cast 0x3F →
      let r := { dxr with out := [xfer t] }
      (dxChan (dx0 r) 0 0).run = some r ∧ dxNth r.out 0 = some 0 ∧ r.out[0]? = some (xfer t) ∧ (xfer t).held = false ∧ (xfer t).members = 0 ∧
      (xfer t).err = 0 ∧ (xfer t).owed = 0 ∧ (xfer t).landed = false ∧ dxDue (dx0 r) (xfer t) = [xfer t] ∧ (dx0 r).host.owed = []) ∧
    (∀ n : Nat, n = 0 ∨ n = 6 → let r := { dxr with out := [{ xfer .ext with err := 4 }], fault := n }
      (dxChan (dx0 r) 0 0).run = some r ∧ dxNth r.out 0 = some 0 ∧ (r.fault = 0 ∨ r.fault = 6) ∧
      jobUnacked (modDxRun 0 0 (fun q => { q with out := dropNth 0 q.out }) (dx0 r)) ((dx0 r).cores[(0 : CoreId)]).ctl.job = false) := by
  refine ⟨?_, ?_⟩
  · rintro t (rfl | rfl | rfl | rfl | rfl | rfl | rfl) <;> decide +kernel
  · rintro n (rfl | rfl) <;> decide +kernel

theorem witness_DxCommandEnds :
    (let r := { dxr with run := 1, runsAcked := 1 }; dxAllIssued r = true ∧ r.out = [] ∧ r.fault = 0 ∧ (dxChan (dx0 r) 0 0).snuff = false) ∧
    (let s := dxWait (fun x => { x with waiting := some idleCmd }) dxCfg;
      (dxChan s 5 3).run.all (fun r => !(dxAllDone r)) = true ∧ (dxChan s 5 3).waiting = some idleCmd ∧ idleCmd.start = false ∧
          waitDone s.cores[(5 : CoreId)] idleCmd = true ∧
      coreLive s 5 = true) ∧
    (∀ r : DxRun, r = dxr ∨ r = { dxr with fault := 4 } ∨ r = { dxr with run := 1, runsAcked := 1 } →
      let s := modChan 0 0 (fun x => { x with snuff := true }) (dx0 r)
      (dxChan s 0 0).run = some r ∧ (dxChan s 0 0).snuff = true ∧ dxOutstanding r = 0) ∧
    dxAllDone dxr = false ∧ dxAllDone { dxr with run := 1, runsAcked := 1 } = true := by
  refine ⟨by decide +kernel, by decide +kernel, ?_, by decide +kernel⟩
  rintro r (rfl | rfl | rfl) <;> decide +kernel

theorem witness_BlockCompressesToMask : (List.replicate 64 (0x80 : Byte)).length = 64 := by decide
theorem witness_PackedPageIsRestored : (List.replicate 4096 (0 : Byte)).length = 4096 := List.length_replicate

/-! ### Witnesses: halos, queues, control cores, halts -/

/-- Buffer k of core 0 with a control word: enabled from the previous core, 4 slots, arrivals on counter 1, releases on 2; a
window of 128 bytes at 0. -/
def hbOn : Word := 0x00810401
def hb0 (k : HaloId) (ctrl : Word) (s : State := up) : State :=
  modHb 0 k (fun b => { b with ctrl := ctrl, win := 0x00010000, held := if ctrl = 0 then 0 else 1 }) s
def halted0 : State := k0 (fun k => { k with phase := .halted (haltCond 1 5 0 0) })
def running : State := k0 (fun k => { k with ctl := { k.ctl with running := true, job := 1 } })

theorem witness_HalosWork_control :
    CoreOpen plain 0 up ∧ coreHalted halted0.cores[(0 : CoreId)] = true ∧ coreHalted up.cores[(0 : CoreId)] = false ∧
    ctlRuns running 0 = true ∧ hbEnabled (hbOf running 0 3) = false ∧ hbEnabled (hbOf (hb0 3 hbOn running) 0 3) = true ∧
    bitAt hbOn 0 = true ∧ bitAt hbOn 31 = false ∧
    ((hbTokBad up 0 (hbOn ||| 0x10000000)).isSome = true ∧ (up.cores[(0 : CoreId)]).phase = .live) ∧
    (hbTokBad up 0 hbOn = none ∧ hbRefused up 0 0 hbOn = false ∧ fld hbOn 1 2 = 0 ∧ ringPrev up 0 ≠ 0) ∧
    (hbTokBad up 0 (hbOn ||| 2) = none ∧ hbRefused up 0 3 (hbOn ||| 2) = false ∧ fld (hbOn ||| 2) 1 2 = 1 ∧ ringNext up 0 ≠ 0) ∧
    (hbTokBad up 0 (hbOn ||| 6) = none ∧ hbRefused up 0 0 (hbOn ||| 6) = true) ∧
    (hbEnabled (hbOf (hb0 0 hbOn) 0 0) = true ∧ bitAt (0 : Word) 0 = false ∧ bitAt (0 : Word) 31 = false) := by decide

theorem witness_HalosWork_credits :
    (let m : HaloMsg := ⟨5, .next, some 4⟩; haloMsgAt { up with haloMsgs := [m] } 5 m.path = some m ∧ m.core = 5 ∧ m.grant = some 4) ∧
    (let m : HaloMsg := ⟨5, .prev, none⟩; haloMsgAt { up with haloMsgs := [m] } 5 m.path = some m ∧ m.grant = none) ∧ inService up 5 = true ∧
    (let s := hb0 0 hbOn (tokAt 2 1); hbRel s.cores[(0 : CoreId)] (hbOf s 0 0) = some 2 ∧ hbEnabled (hbOf s 0 0) = true ∧ (hbOf s 0 0).held ≠ 0 ∧
      releasesBefore s 0 2 0 < (tok s 0 2).toNat ∧ (tok (hb0 0 hbOn) 0 2).toNat ≤ releasesBefore (hb0 0 hbOn) 0 2 0) ∧
    creditOpen (up.cores[(0 : CoreId)]).halo .next = false ∧ creditOpen (up.cores[(0 : CoreId)]).halo (.remote 31) = false ∧
    creditOpen ((takeGrant 0 (.remote 31) 4 up).cores[(0 : CoreId)]).halo (.remote 31) = true ∧
    creditOpen ((takeGrant 0 .prev 1 up).cores[(0 : CoreId)]).halo .prev = true := by decide +kernel

/-- A run of n bytes from the previous core at an offset of buffer 0's window. -/
def haloOf (seq : Half) (off n : Nat) (last : Bool) : HaloRun := ⟨0, .prev, 0, seq, off, n, 0, List.replicate n 7, true, last, none, none⟩

theorem witness_HalosWork_runs :
    (∀ r : HaloRun, r = haloOf 0 64 64 true ∨ r = haloOf 0 0 1 false ∨ r = haloOf 0 64 65 true ∨ r = haloOf 1 0 1 true ∨
        r = { haloOf 0 0 1 true with start := -1 } →
      let s := { hb0 0 hbOn with haloRuns := [r] }
      s.haloRuns.find? (fun r => decide (r.core = 0) && decide (r.path = .prev)) = some r ∧ hbFor s r = some 0 ∧
      (hbOf s 0 0).dead = false ∧ hbArr s.cores[(0 : CoreId)] (hbOf s 0 0) = some 1 ∧ (tok s 0 1).toNat < 65535 ∧
          (s.cores[(0 : CoreId)]).phase = .live) ∧
    (haloOf 0 64 64 true).seq = (hbOf (hb0 0 hbOn) 0 0).nextSeq ∧ hbOutside (hbOf (hb0 0 hbOn) 0 0) (haloOf 0 64 64 true) = false ∧
    hbOutside (hbOf (hb0 0 hbOn) 0 0) (haloOf 0 64 65 true) = true ∧
    hbOutside (hbOf (hb0 0 hbOn) 0 0) { haloOf 0 0 1 true with start := -1 } = true ∧
    (haloOf 1 0 1 true).seq ≠ (hbOf (hb0 0 hbOn) 0 0).nextSeq ∧ hbFor up (haloOf 0 0 1 true) = none := by
  refine ⟨?_, by decide +kernel⟩
  rintro r (rfl | rfl | rfl | rfl | rfl) <;> decide +kernel

theorem witness_HalosWork_waits :
    (let s := hb0 0 hbOn (k0 (fun k => { k with ctl := { k.ctl with running := true, wait := .tok 1 1 } }));
      coreLive s 0 = true ∧ arrivalWait s.cores[(0 : CoreId)] .control = some (0, 0)) ∧
    (let s := hb0 3 hbOn (k0 (fun k => { k with mx := { k.mx with taken := some { go with wait := some (1, 1) } } }));
      coreLive s 0 = true ∧ arrivalWait s.cores[(0 : CoreId)] (.taken 0 0) = some (3, 0)) ∧
    (let r := { dxr with haloWait := some 0, cfg := dxCfg.setIfInBounds 0 0x1046 };
      (dxChan (dx0 r) 0 0).run = some r ∧ haloCredit (dx0 r).cores[(0 : CoreId)] r.cfg = 0) ∧
    (let s := modHb 0 0 (fun b => { b with lost := true }) (hb0 0 hbOn (k0 (fun k => { k with ctl := { k.ctl with
        running := true, wait := .tok 1 1 } })));
      coreLive s 0 = true ∧ (tokenWait s.cores[(0 : CoreId)] .control).any (fun x => decide (x.1 = 1)) = true ∧
      (0 : HaloId) ∈ hbsOfTok s.cores[(0 : CoreId)] 1 ∧ (hbOf s 0 0).lost = true) ∧
    (∀ k : HaloId, (hbOf up 0 k).lost = false) := by decide +kernel

/-- A packet of three words for engine e, its start bit set, in a slot. -/
def w0of (e : EngId) : Word := BitVec.ofNat 32 (e.val + 128 + 2 * 256)
def slotOf (e : EngId) (order : Option Nat) (n : Nat) : QSlot := ⟨([w0of e, 0, 0] : List Word).take n, 3, order, false, 1⟩
def queued (c : CoreId) (e : EngId) (l : List QSlot) (s : State := up) : State :=
  modCore c (fun k => { k with queues := updAt k.queues e (fun q => { q with slots := l }) }) s

theorem witness_EngineQueuesWork_pushes :
    ctlRuns running 0 = true ∧
    64 ≤ (rewindOpen ((queued 0 4 (List.replicate 64 (slotOf 4 (some 0) 3)) running).cores[(0 : CoreId)]).queues[(4 : EngId)]).slots.length ∧
    (rewindOpen ((queued 0 4 (List.replicate 63 (slotOf 4 (some 0) 3)) running).cores[(0 : CoreId)]).queues[(4 : EngId)]).slots.length < 64 ∧
    fld (w0of 4) 8 5 ≠ 0 ∧
    (((queued 0 0 [slotOf 0 (some 0) 3, slotOf 0 none 2] running).cores[(0 : CoreId)]).queues[(0 : EngId)]).slots
      = [slotOf 0 (some 0) 3] ++ [slotOf 0 none 2] ∧ (slotOf 0 none 2).words.length + 1 = (slotOf 0 none 2).len := by decide

theorem witness_EngineQueuesWork_takes : ∀ e : EngId,
    let s := queued 5 e [slotOf e (some 0) 3]
    nextPacket (s.cores[(5 : CoreId)]).queues[e] = some (slotOf e (some 0) 3) ∧ coreLive s 5 = true ∧ engineParked s.cores[(5 : CoreId)] e = false ∧
    holdsTaken s.cores[(5 : CoreId)] e 0 = false ∧ (physSet ((s.cores[(5 : CoreId)]).allocs[(0 : PartId)]) 0) = some 0 ∧
    setInUse s.cores[(5 : CoreId)] e 0 = false ∧ packetChecks s 5 e (s.cores[(5 : CoreId)]).queues[e] (slotOf e (some 0) 3) false = none ∧
    (packetChecks s 5 e (s.cores[(5 : CoreId)]).queues[e] (slotOf e (some 0) 3) true).isSome = true := by decide

theorem witness_EngineQueuesWork_pointers : inService up 5 = true ∧ (0 : BitVec 6) ≠ 63 ∧ (up.cores[(5 : CoreId)]).phase = .live := by decide

/-- The counter that an access names, and the code of its halt. -/
def tokOk (x : Except HaltCond TokId) : Option TokId := match x with | .ok p => some p | .error _ => none
def tokErr (x : Except HaltCond TokId) : Option Byte := match x with | .ok _ => none | .error h => some h.code

theorem witness_ControlCoreRuns :
    ctlRuns running 0 = true ∧ tokOk (ctlTok running 0 63) = some 63 ∧
    (let s := modPart 1 (fun x => x) (k0 (fun k => { k with ctl := { k.ctl with running := true, part := 1 } }));
      ctlRuns s 0 = true ∧ tokErr (ctlTok s 0 0) = some 8) ∧
    (let s := k0 (fun k => { k with ctl := { k.ctl with running := true, wait := .tok 0 0 } });
      coreLive s 0 = true ∧ (s.cores[(0 : CoreId)]).ctl.running = true ∧ ctlWaitHolds s.cores[(0 : CoreId)] = true) ∧
    (ctlWaitHolds (k0 (fun k => { k with ctl := { k.ctl with running := true, wait := .space 4 64 } })).cores[(0 : CoreId)] = true) ∧
    (inService up 5 = true ∧ (up.cores[(5 : CoreId)]).powered = true ∧ (up.cores[(5 : CoreId)]).retained = false) ∧
    ((Instr.imemWrite 5 true 0x1FFFF [1]).wf = true ∧ (up.cores[(5 : CoreId)]).ctl.active ≠ true ∧ (up.cores[(5 : CoreId)]).ctl.active = false) ∧
    (let s := k5 (fun k => { k with ctl := { k.ctl with wait := .bank, ready := true } });
      coreLive s 5 = true ∧ (s.cores[(5 : CoreId)]).ctl.wait = .bank ∧ (s.cores[(5 : CoreId)]).ctl.ready = true) := by decide

/-- A package of one variant whose program on core 0 has two segments. -/
def pack : List Byte := bytesWith 192
  [(21, 1, 1), (23, 1, 2), (32, 4, 128), (52, 4, 160), (136, 6, 0xFFFFFFFFFF00), (160, 4, 1), (176, 4, 0x801)]
/-- The package loaded as handle 64 + 0 of partition 0. -/
def loadedPack (s : State := up) : State :=
  { s with host := { s.host with slots := s.host.slots.set 0 { ProgSlot.reset with count := 1, part := some 0, package := pack } } }

theorem witness_ControlCoreRuns_switch :
    let s := modCore 0 (fun k => { k with ctl := { k.ctl with running := true, seg := some (64, 0) } }) (loadedPack up)
    ctlRuns s 0 = true ∧ nextSection s 0 = some (64, 1) := by decide

theorem witness_HaltsAreRecorded :
    (∀ code : Byte, code = 0 ∨ code = 1 ∨ code = 0x0F ∨ code = 0x14 → let h := haltCond code 5 0 0; let s := k5 (fun k => { k with
        phase := .halting h none 0 })
      (s.cores[(5 : CoreId)]).phase = .halting h none 0 ∧ enginesStopped s.cores[(5 : CoreId)] = true) ∧
    jobUnacked up (up.cores[(5 : CoreId)]).ctl.job = false ∧
    (haltCond 0x0B 5 0 0).eng = 5 := by
  refine ⟨?_, by decide +kernel, by decide⟩
  rintro code (rfl | rfl | rfl | rfl) <;> decide +kernel

theorem witness_CoreControlActs :
    sec.secure = true ∧ inService up 0 = true ∧ inService up 5 = true ∧ inReset up.cores[(5 : CoreId)] = false ∧
    (∀ cause : Nat, cause = 1 ∨ cause = 5 → let h := haltCond 0x0F 6 0 (put 0 cause); let s := k5 (fun k => { k with phase := .halted h })
      (s.cores[(5 : CoreId)]).phase = .halted h ∧ h.code = 0x0F ∧ (fld h.detail 0 4 = 1 ∨ fld h.detail 0 4 = 5) ∧
      (s.cores[(5 : CoreId)]).mx.redo = none) := by
  refine ⟨by decide, by decide, by decide, by decide, ?_⟩
  rintro n (rfl | rfl) <;> decide

theorem witness_FailedCoreComesBack :
    (∀ code : Byte, code = 1 ∨ code = 0x0B ∨ code = 0x0C → let h := haltCond code 5 0 0; let s := k5 (fun k => { k with phase := .halted h })
      (s.cores[(5 : CoreId)]).phase = .halted h ∧ haltFails h = true) ∧
    (let s := k0 (fun k => { k with phase := .reset 7 }); (s.cores[(0 : CoreId)]).phase = .reset 7 ∧ s.safety.fatal = false ∧
      ({ s with safety := { s.safety with fatal := true } }).safety.fatal = true) := by
  refine ⟨?_, by decide⟩
  rintro code (rfl | rfl | rfl) <;> decide

/-! ### Witnesses: mailboxes and host objects -/

/-- A request frame stands in mailbox m, sent and not taken. -/
def asked (m : MboxId) (l : List (Nat × Nat × Nat)) (s : State := up) : State :=
  let s := modMb m (fun x => { x with req := frameWords (bytesWith 64 l), busy := true }) s
  { s with host := { s.host with sent := [m] } }

/-- The clauses of Requested about the state before. -/
def isReq (op : Nat) (sub : Option Nat) (m : MboxId) (p : PartId) (s : State) : Bool :=
  let b := reqBytes (mbOf s m).req
  llServes s && decide (s.host.sent = [m]) && decide (p = reqPart m b) && decide (frameNum b 0 2 = op) &&
    decide (sub = none ∨ sub = some (frameNum b 8 1)) && decide (frameStatus s m b = none)

/-- They are all of it: the frame's bytes and the state once taken are then given. -/
theorem requested_of_isReq {op : Nat} {sub : Option Nat} {m : MboxId} {p : PartId} {s : State} (h : isReq op sub m p s = true) :
    Requested op sub m p (reqBytes (mbOf s m).req) s { s with host := { s.host with sent := [] } } := by
  simp only [isReq, Bool.and_eq_true, decide_eq_true_eq] at h
  obtain ⟨⟨⟨⟨⟨h1, h2⟩, h3⟩, h4⟩, h5⟩, h6⟩ := h
  exact ⟨h1, h2, rfl, h3, h4, h5, h6, rfl⟩

/-- ASID 1 of partition 0: page 0 of its space lies at 0x8000 and may be written. -/
def paged (s : State := up) : State := { s with
  dram := [(0x1000, 0x2001), (0x2000, 0x3001), (0x3000, 0x4001), (0x4000, 0x8007)].foldl (fun m x => memStore m x.1 (leBytes 8 x.2)) []
  host := { s.host with asids := [⟨1, 0, false, 0x1000⟩] } }

/-- The bytes of the request, its arguments as the meanings read them. -/
def frame (s : State) (m : MboxId) : List Byte := reqBytes (mbOf s m).req

/-- A whole package: one variant on core 0, one segment of one word. -/
def goodPack : List Byte := bytesWith 176
  [(0, 4, 0x4B4D5047), (5, 1, 1), (6, 2, 2), (8, 4, 2), (16, 4, 0x41), (20, 1, 128), (21, 1, 1), (23, 1, 1), (32, 4, 128), (52, 4, 160),
   (64, 4, 176), (72, 4, 0x24811), (124, 4, 3850833052), (136, 6, 0xFFFFFFFFFF00), (160, 4, 1), (164, 4, 1), (168, 4, 4), (172, 4, 3273749443)]
  ++ List.replicate 3920 0 ++ leBytes 4 0x13 ++ List.replicate 4092 0
/-- A container header for region 7: no pins, no clocks, no extension. -/
def goodHeader : List Byte := bytesWith 64 [(0, 4, 0x4241464B), (5, 1, 1), (6, 2, 2), (10, 2, 2560), (24, 4, 0xFFFFFFFF), (60, 4, 601389254)]

/-- The state once the request is taken. -/
def taken (s : State) : State := { s with host := { s.host with sent := [] } }

theorem requested {op : Nat} {sub : Option Nat} {m : MboxId} {p : PartId} {s : State} (h : isReq op sub m p s = true) :
    Requested op sub m p (frame s m) s (taken s) := requested_of_isReq h

/-- Partition 0 with the quotas n. -/
def quotas (n : Nat) : State := modPart 0 (fun x => { x with fenceQuota := n, queueQuota := n }) paged

def capsReq : State := asked 0 [(0, 2, 1), (4, 1, 1), (8, 8, 0)] paged
def confReq (more : List (Nat × Nat × Nat)) : State := asked 8 ([(0, 2, 0x10), (5, 1, 1), (8, 1, 1)] ++ more)

theorem witness_CapsReadAndPartitionConfig :
    (Requested 0x01 none 0 0 (frame capsReq 0) capsReq (taken capsReq) ∧
      (hostTranslate 0 false (argAsid (frame capsReq 0)) (arg (frame capsReq 0) 8 8) true (taken capsReq)).1 = some 0x8000) ∧
    (Requested 0x10 none 8 1 (frame (confReq []) 8) (confReq []) (taken (confReq [])) ∧
      configRefused (taken (confReq [])) 1 (frame (confReq []) 8) = false) ∧
    (Requested 0x10 none 8 1 (frame (confReq [(14, 2, 64)]) 8) (confReq [(14, 2, 64)]) (taken (confReq [(14, 2, 64)])) ∧
      configRefused (taken (confReq [(14, 2, 64)])) 1 (frame (confReq [(14, 2, 64)]) 8) = true) :=
  ⟨⟨requested (by decide), by decide⟩, ⟨requested (by decide), by decide⟩, requested (by decide), by decide⟩

theorem witness_MarginReportAnswersTable : let s := asked 0 [(0, 2, 0x90)]; Requested 0x90 none 0 0 (frame s 0) s (taken s) :=
  requested (by decide)

def aQueue : HostQueue := ⟨3, 0, 1, false, 0x1000, 0, 4, .enabled, 0, 0, none, none⟩

theorem witness_QueueAndAsidRequests_queues :
    (∀ s : State, s = quotas 0 ∨ s = quotas 1 → let s := asked 0 [(0, 2, 0x20), (4, 1, 1), (16, 8, 0x1000), (24, 1, 4)] s
      Requested 0x20 none 0 0 (frame s 0) s (taken s)) ∧
    lowestFree ((quotas 1).host.queues.map (fun q => q.qid)) 256 = some 0 ∧
    (quotas 1).host.queues.countP (fun q => decide (q.part = 0)) < ((quotas 1).host.parts[(0 : PartId)]).queueQuota ∧
    ((quotas 0).host.parts[(0 : PartId)]).queueQuota ≤ paged.host.queues.countP (fun q => decide (q.part = 0)) ∧
    (∀ p : PartId, p = 0 ∨ p = 1 → let q := { aQueue with part := p }
      let s := asked 0 [(0, 2, 0x21), (8, 1, 3)] { up with host := { up.host with queues := [q] } }
      Requested 0x21 none 0 0 (frame s 0) s (taken s) ∧ findQueue (taken s) (arg (frame s 0) 8 1) = some q ∧ q.destroy = none) := by
  refine ⟨?_, by decide, by decide, by decide, ?_⟩
  · rintro s (rfl | rfl) <;> exact requested (by decide)
  · rintro p (rfl | rfl) <;> exact ⟨requested (by decide), by decide, by decide⟩

def attachReq (a : Nat) : State := asked 0 [(0, 2, 0x30), (4, 1, a), (8, 8, 0x1000)] paged
def revokeReq : State := asked 0 [(0, 2, 0x31), (4, 1, 1)] paged

theorem witness_QueueAndAsidRequests_asids :
    (Requested 0x30 none 0 0 (frame (attachReq 63) 0) (attachReq 63) (taken (attachReq 63)) ∧
      ∀ a ∈ (attachReq 63).host.asids, a.asid ≠ argAsid (frame (attachReq 63) 0)) ∧
    (Requested 0x30 none 0 0 (frame (attachReq 1) 0) (attachReq 1) (taken (attachReq 1)) ∧
      ∃ a ∈ (attachReq 1).host.asids, a.asid = argAsid (frame (attachReq 1) 0)) ∧
    Requested 0x31 none 0 0 (frame revokeReq 0) revokeReq (taken revokeReq) :=
  ⟨⟨requested (by decide), by decide⟩, ⟨requested (by decide), by decide⟩, requested (by decide)⟩

def loadReq (v : Option Verify) : State :=
  asked 0 [(0, 2, 0x40), (4, 1, 1), (8, 8, 0), (16, 4, 127)] { paged with host := { paged.host with verify := v } }
def verifying : Verify := ⟨0, (mbOf (asked 0 [(0, 2, 0x40), (16, 4, 8192)]) 0).req, 0, 1, goodPack⟩
def unloadReq (h : Nat) (jobs : List Job) : State :=
  let s := loadedPack up; asked 0 [(0, 2, 0x41), (8, 4, h)] { s with host := { s.host with jobs := jobs } }

set_option maxRecDepth 20000 in
theorem witness_PackageRequests_verify :
    arg (reqBytes verifying.req) 16 4 = 8192 ∧ verifyPackage up 0 8192 goodPack = none ∧
    (verifyPackage up 0 127 goodPack).isSome = true ∧
    (List.finRange 64).find? (fun i : Fin 64 => (up.host.slots[i]).part.isNone) = some 0 ∧ (storePlace up (storeBytes goodPack).length) = some 0 := by
  refine ⟨by decide, by decide +kernel, by decide +kernel, by decide +kernel, by decide +kernel⟩

theorem witness_PackageRequests :
    (Requested 0x40 none 0 0 (frame (loadReq (some verifying)) 0) (loadReq (some verifying)) (taken (loadReq (some verifying))) ∧
      (loadReq (some verifying)).host.verify.isSome = true) ∧
    (Requested 0x40 none 0 0 (frame (loadReq none) 0) (loadReq none) (taken (loadReq none)) ∧ (loadReq none).host.verify = none ∧
      (loadBytes 0 1 0 127 (taken (loadReq none))).1 = some []) ∧
    (∀ h : Nat, h = 64 ∨ h = 65 → Requested 0x41 none 0 0 (frame (unloadReq h []) 0) (unloadReq h []) (taken (unloadReq h []))) ∧
    ((progOf (taken (unloadReq 64 [])) 64).map (fun x => x.part)) = some (some 0) ∧ progOf (taken (unloadReq 65 [])) 65 = none ∧
    slotInUse (taken (unloadReq 64 [])) 0 = false := by
  refine ⟨⟨requested (by decide), by decide⟩, ⟨requested (by decide), by decide, by decide⟩, ?_, by decide, by decide, by decide⟩
  rintro h (rfl | rfl) <;> exact requested (by decide)

/-- The record at 0x8000, cached, and its registration as fid 0 of partition 0. -/
def aFence (err : Bool) (owner : Nat) : Fence := ⟨0x8000, 5, err, false, owner, 0, false, 0, [], true⟩
def aReg : FenceReg := ⟨0, 0, 1, 0x8000, none⟩
def fenced (f : List Fence) (r : List FenceReg) (s : State := paged) : State := { s with host := { s.host with fences := f, regs := r } }
def fenceReq (op : Nat) (more : List (Nat × Nat × Nat)) (s : State) : State := asked 0 ([(0, 2, 0x50), (4, 1, 1), (8, 1, op)] ++ more) s

theorem witness_FenceRequests_register : ∀ s : State, s = quotas 1 ∨ s = fenced [aFence false 1] [] (quotas 1) →
    let r := fenceReq 0 [(16, 8, 0)] s; let b := frame r 0
    Requested 0x50 (some 0) 0 0 b r (taken r) ∧ (hostTranslate 0 false (argAsid b) (arg b 16 8) true (taken r)).1 = some 0x8000 ∧
    let v := (hostTranslate 0 false (argAsid b) (arg b 16 8) true (taken r)).2
    (∀ r ∈ v.host.regs, r.addr = 0x8000 → r.home = none → ¬ (r.part = 0 ∧ r.asid = argAsid b)) ∧ freeFid v 0 = some 0 ∧
    (findFence v 0x8000 = none ∨ findFence v 0x8000 = some (aFence false 1)) ∧ memNat v.dram 0x8000 16 / 2 ^ 66 % 2 ^ 14 = 0 ∧
    memNat v.dram 0x8000 16 / 2 ^ 95 = 0 := by
  rintro s (rfl | rfl) <;> exact ⟨requested (by decide), by decide, by decide, by decide +kernel, by decide, by decide, by decide⟩

/-- The route to engine 31 leaves by port 0, whose world is not that of partition 0. -/
def otherWorld (s : State) : State :=
  modLink 0 (fun p => { p with secure := !(s.host.parts[(0 : PartId)]).secure }) { s with links := { s.links with
    routes := s.links.routes.set 31 (some 0) } }

theorem witness_FenceRequests_known :
    (let r := fenceReq 1 [(10, 2, 0)] (fenced [aFence false 1] [aReg]); Requested 0x50 (some 1) 0 0 (frame r 0) r (taken r) ∧
      (findReg (taken r) 0 (arg (frame r 0) 10 2)).isSome = true ∧ fidNamed (taken r) 0 (arg (frame r 0) 10 2) = false) ∧
    (∀ f : Fence, f = aFence true 1 ∨ f = aFence true 2 → let r := fenceReq 2 [(10, 2, 0)] (fenced [f] [aReg])
      Requested 0x50 (some 2) 0 0 (frame r 0) r (taken r) ∧ findReg (taken r) 0 (arg (frame r 0) 10 2) = some aReg ∧ aReg.home = none ∧
      findFence (taken r) aReg.addr = some f) ∧
    (let s := quotas 1; let r := fenceReq 3 [(9, 1, 31), (12, 2, 0xFFE)] { s with links := { s.links with sys := 2, members := 0x80000001 } }
      Requested 0x50 (some 3) 0 0 (frame r 0) r (taken r) ∧ arg (frame r 0) 9 1 ≠ r.links.addr.toNat ∧
      bitAt r.links.members (arg (frame r 0) 9 1) = true ∧ islanded r = false ∧ freeFid (taken r) 0 = some 0 ∧ routeCarries r 31 0 = true ∧
      routeCarries (otherWorld r) 31 0 = false) := by
  refine ⟨⟨requested (by decide), by decide, by decide⟩, ?_, requested (by decide), by decide, by decide, by decide, by decide +kernel, by decide,
    by decide⟩
  rintro f (rfl | rfl) <;> exact ⟨requested (by decide), by decide, by decide, by decide⟩

theorem witness_TickAndCandleRequests :
    (∀ x : TickState, x = .stopped ∨ x = .locked → let r := asked 8 [(0, 2, 0x60), (8, 1, 1), (10, 1, 1), (11, 1, 1), (12, 4, 1000)] { up with
        tick := { up.tick with state := x } }
      let b := frame r 8
      Requested 0x60 none 8 0 b r (taken r) ∧ tickSourceOk (taken r) b = true ∧
      (candleCheck (taken r) r.tick.active (BitVec.ofNat 20 (arg b 12 4)).toNat) = none ∧ arg b 8 1 ≠ 0 ∧ r.tick.state = x) ∧
    (∀ n : Nat, n = 0 ∨ n = 1 → let r := asked 8 [(0, 2, 0x61), (8, 1, 63), (9, 1, 1), (10, 1, n)]; let b := frame r 8
      Requested 0x61 none 8 0 b r (taken r) ∧ arg b 10 1 = n ∧ candleCheck (taken r) (shadowWith (taken r) b) r.tick.period.toNat = none) := by
  refine ⟨?_, ?_⟩
  · rintro x (rfl | rfl) <;> exact ⟨requested (by decide), by decide, by decide +kernel, by decide, by decide⟩
  · rintro n (rfl | rfl) <;> exact ⟨requested (by decide), by decide, by decide +kernel⟩

def fbReq (op z : Nat) (s : State := paged) : State :=
  asked 8 ([(0, 2, 0x70), (4, 1, 1), (8, 1, op), (9, 1, z)] ++ if op = 0 then [(24, 4, 64)] else []) s
/-- A load of region 7 over the host path. -/
def aLoad : FbLoad := ⟨1, 7, 0, 0, 1, 0, 64, none, 0, []⟩
def loading (s : State := paged) : State := { s with fabric := { s.fabric with load := some aLoad } }

theorem witness_FabricAndResourceRequests_fabric :
    (Requested 0x70 (some 0) 8 0 (frame (fbReq 0 7) 8) (fbReq 0 7) (taken (fbReq 0 7)) ∧
      fabricRefusal (taken (fbReq 0 7)) 0 (argRegion (frame (fbReq 0 7) 8)) = none ∧
      (hostRead (enterLoad ⟨1, 7, 8, 0, 1, 0, 64, none, 0, []⟩ (taken (fbReq 0 7))) false 1 0 64).1.isSome = true) ∧
    headerCheck { up.fabric with load := some { aLoad with header := some goodHeader, got := 64 } } goodHeader 7 = none ∧
    (Requested 0x70 (some 0) 8 0 (frame (fbReq 0 7 loading) 8) (fbReq 0 7 loading) (taken (fbReq 0 7 loading)) ∧
      fabricRefusal (taken (fbReq 0 7 loading)) 0 7 = some 1) ∧
    (Requested 0x70 (some 1) 8 0 (frame (fbReq 1 0) 8) (fbReq 1 0) (taken (fbReq 1 0)) ∧ fabricRefusal (taken (fbReq 1 0)) 0 0 = none) ∧
    (Requested 0x70 (some 2) 8 0 (frame (fbReq 2 7 loading) 8) (fbReq 2 7 loading) (taken (fbReq 2 7 loading)) ∧
      (fbReq 2 7 loading).fabric.load = some aLoad ∧ aLoad.region = argRegion (frame (fbReq 2 7 loading) 8)) ∧
    (Requested 0x70 (some 2) 8 0 (frame (fbReq 2 7) 8) (fbReq 2 7) (taken (fbReq 2 7)) ∧ (fbReq 2 7).fabric.load = none) :=
  ⟨⟨requested (by decide), by decide, by decide⟩, by decide +kernel, ⟨requested (by decide), by decide⟩, ⟨requested (by decide), by decide⟩,
    ⟨requested (by decide), by decide, by decide⟩, requested (by decide), by decide⟩

def resReq (op kind i : Nat) (s : State := up) : State := asked 0 [(0, 2, 0xA0), (8, 1, op), (9, 1, kind), (10, 1, i)] s
/-- Pin 63 is held by a partition, for user logic of region 0. -/
def pinned (p : PartId) : State := { up with fabric := { up.fabric with pins := up.fabric.pins.set 63 ⟨1, 0, p, true⟩ } }

theorem witness_FabricAndResourceRequests_resources :
    (∀ k : Nat × Nat, k = (1, 63) ∨ k = (2, 3) ∨ k = (3, 15) →
      let r := resReq 0 k.1 k.2 { up with sg := { up.sg with regions := up.sg.regions.set 15 ⟨15, false, false⟩ } }; let b := frame r 0
      Requested 0xA0 (some 0) 0 0 b r (taken r) ∧ claimRefusal (taken r) 0 0 (arg b 9 1) (arg b 10 1) (arg b 11 1) (fin 8 (arg b 12 1)) = none) ∧
    (let r := resReq 0 1 63 (pinned 0); let b := frame r 0; Requested 0xA0 (some 0) 0 0 b r (taken r) ∧
      claimRefusal (taken r) 0 0 (arg b 9 1) (arg b 10 1) (arg b 11 1) (fin 8 (arg b 12 1)) = some 5) ∧
    (∀ p : PartId, p = 0 ∨ p = 7 → let r := resReq 1 1 63 (pinned p); let b := frame r 0; Requested 0xA0 (some 1) 0 0 b r (taken r) ∧
      holderOf (taken r) (arg b 9 1) (arg b 10 1) = some (1, p.val, 0) ∧ releaseBusy (taken r) 0 (arg b 9 1) (arg b 10 1) = false) ∧
    (let r := resReq 2 1 63; Requested 0xA0 (some 2) 0 0 (frame r 0) r (taken r)) := by
  refine ⟨?_, ⟨requested (by decide), by decide⟩, ?_, requested (by decide)⟩
  · rintro k (rfl | rfl | rfl) <;> exact ⟨requested (by decide), by decide⟩
  · rintro p (rfl | rfl) <;> exact ⟨requested (by decide), by decide, by decide⟩

/-! ### Witnesses: partition pages, fences, jobs, records -/

/-- A queue of partition 0 of 16 packets whose packet 0 stands in it, and the packet: it asks for handle 64 and names no fence, or waits on fid 0. -/
def packet0 (waits : Bool) : List Byte :=
  bytesWith 20 [(8, 4, 64)] ++ (if waits then [0, 0xF0] else [0xFF, 0xFF]) ++ List.replicate 42 0xFF
def queueOf (n : Nat) (h : Option Head) : HostQueue := ⟨3, 0, 1, false, 0, 0, 4, .enabled, n, 0, h, none⟩
def withQueue (q : HostQueue) (s : State := loadedPack paged) : State :=
  { s with host := { s.host with queues := [q] }, dram := memStore s.dram 0x8000 (packet0 false), tick := { s.tick with
      implicit := { s.tick.implicit with state := .running } } }
/-- Job 1 on core 0, as its packet asked. -/
def aJob : Job := ⟨1, 3, 0, 0, 1, false, 0, false, packet0 true, 0, 0, none, [⟨0, false, false⟩], [], none, .running, 0, [], [], []⟩
def withJob (j : Job) (s : State := up) : State := { s with host := { s.host with jobs := [j] } }

theorem witness_HaltsAreRecorded_stall :
    let s := withJob aJob (k0 (fun k => { k with ctl := { k.ctl with running := true, job := 1, wait := .tok 0 1 } }))
    coreLive s 0 = true ∧ 64 ∈ stallGroups s ∧ (0 : CoreId) ∈ groupCores s 64 ∧ standsStill s 64 = true ∧ groupStall s 64 = 0 ∧ stallGroups s = [64] ∧
    countable s 0 (inGroup s 64) = true := by decide +kernel

/-- A job with a write that no acknowledgement has come for: its records wait. -/
theorem witness_HaltsAreRecorded_owed :
    let s := withJob aJob (modCore 0 (fun k => { k with ctl := { k.ctl with job := 1 } }) (dx0 { dxr with
      cmd := { go with job := 1 }, out := [xfer .ext] }))
    jobUnacked s (s.cores[(0 : CoreId)]).ctl.job = true ∧ (findJob s (s.cores[(0 : CoreId)]).ctl.job).isSome = true := by decide +kernel

theorem witness_requests_of_used_objects :
    (let r := fenceReq 1 [(10, 2, 0)] (withJob aJob (fenced [aFence false 1] [aReg])); Requested 0x50 (some 1) 0 0 (frame r 0) r (taken r) ∧
      fidNamed (taken r) 0 (arg (frame r 0) 10 2) = true) ∧
    (Requested 0x41 none 0 0 (frame (unloadReq 64 [aJob]) 0) (unloadReq 64 [aJob]) (taken (unloadReq 64 [aJob])) ∧
      slotInUse (taken (unloadReq 64 [aJob])) (arg (frame (unloadReq 64 [aJob]) 0) 8 4 % 64) = true) ∧
    (let s := pinned 0; let s := modRegion 0 (fun r => { r with
        state := 2, pinMask := BitVec.allOnes 64 }) s; let r := resReq 1 1 63 s; let b := frame r 0
      Requested 0xA0 (some 1) 0 0 b r (taken r) ∧ holderOf (taken r) (arg b 9 1) (arg b 10 1) = some (1, 0, 0) ∧
      releaseBusy (taken r) 0 (arg b 9 1) (arg b 10 1) = true) :=
  ⟨⟨requested (by decide), by decide⟩, ⟨requested (by decide), by decide⟩, requested (by decide), by decide, by decide⟩

theorem witness_MailboxSendAndAck :
    (∀ m : MboxId, m = 0 ∨ m = 7 → Passes plain up (mbOff m 0x40) true) ∧ Passes sec up (mbOff 8 0x40) true ∧
    (mbOf (modMb 8 (fun x => { x with busy := true }) up) 8).busy = true ∧ (mbOf up 8).busy = false ∧ (mbOf up 8).replyValid = false ∧
    up.host.sent = [] ∧ llServes up = true ∧ frameStatus up 0 (reqBytes (mbOf up 0).req) = some 3 ∧
    frameStatus capsReq 0 (reqBytes (mbOf capsReq 0).req) = none := by decide

theorem witness_PartitionPageCommands_doorbell :
    (∀ p : PartId, p = 0 ∨ p = 7 → Passes plain up (pageOff p 0x200) true ∧ Passes plain up (pageOff p 0x308) true ∧
      Passes plain up (pageOff p 0x310) true ∧ Passes plain up (pageOff p 0x600) true) ∧
    findQueue up (fld (3 : Word) 0 8) = none ∧
    (let q := queueOf 0 none; findQueue (withQueue q) 3 = some q ∧ q.submitted + 16 ≤ q.pulled + 2 ^ q.log2n ∧
      ¬ (q.submitted + 17 ≤ q.pulled + 2 ^ q.log2n) ∧ fld (0x00100003 : Word) 0 8 = 3 ∧ fld (0x00100003 : Word) 16 16 = 16) := by decide

theorem witness_PartitionPageCommands_pages :
    (bitAt (up.host.parts[(0 : PartId)]).frCtrl 0 = false ∧ asidOf paged 0 1 = true ∧ asidOf paged 0 2 = false ∧
      (bitAt (0xC03 : Word) 0 = true ∧ fld (0xC03 : Word) 1 6 = 1 ∧ fld (0xC03 : Word) 8 4 = 12)) ∧
    (let s := modPart 7 (fun x => { x with frCtrl := 0x703, frHead := 1 }) up; bitAt (s.host.parts[(7 : PartId)]).frCtrl 0 = true ∧
      ((1 : Word) - (s.host.parts[(7 : PartId)]).frTail).toNat ≤ ((s.host.parts[(7 : PartId)]).frHead - (s.host.parts[(7 : PartId)]).frTail).toNat ∧
      ((s.host.parts[(7 : PartId)]).frHead - (s.host.parts[(7 : PartId)]).frTail).toNat < ((2 : Word) - (s.host.parts[(7 : PartId)]).frTail).toNat) ∧
    (let a : TlbInv := ⟨1, 2, true, 0⟩; let b : TlbInv := ⟨0, 1, false, 0⟩
      ({ up with host := { up.host with tlbInv := [a, b] } }).host.tlbInv = [a] ++ b :: [] ∧ b.part = 0 ∧ ∀ x ∈ [a], x.part ≠ 0) := by decide

theorem witness_SignalReachesFence :
    (∀ p : PartId, p = 0 ∨ p = 7 → Passes plain up (pageOff p 0x40C) true) ∧ (∀ q ∈ up.host.queues, q.head = none) ∧
    fenceKey up 0 (up.host.parts[(0 : PartId)]).fsigId.toNat = none ∧
    (let s := fenced [aFence false 1] [aReg]; fenceKey s 0 (s.host.parts[(0 : PartId)]).fsigId.toNat = some (.record 0x8000) ∧
      findFence s 0x8000 = some (aFence false 1) ∧ (aFence false 1).subs = [] ∧ fenceRefused s (aFence false 1) = false ∧
      advances 5 6 = true ∧ advances 5 0x8000000000000005 = false ∧ advances 5 4 = false ∧ (s.host.parts[(0 : PartId)]).fsigErr = false ∧
      findFence s (0x8000 : BitVec 48).toNat = some (aFence false 1) ∧ (aFence false 1).cached = true) ∧
    (let f := { aFence false 1 with cached := false }; let s := fenced [f] [aReg]; findFence s 0x8000 = some f ∧ f.cached = false ∧ f.subs = [] ∧
      fenceRefused s f = false) ∧
    (let x : Proxy := ⟨0, 0, 1, 31, 5, 0, false, none⟩; let s := fenced [] [⟨0, 0, 1, 0, some (31, 5)⟩] { up with host := { up.host with
        proxies := [x] } }
      fenceKey s 0 (s.host.parts[(0 : PartId)]).fsigId.toNat = some (.proxy 0 0) ∧ findProxy s 0 0 = some x ∧
      bitAt s.links.members x.engine = false ∧ bitAt ({ s with links := { s.links with
          members := 0x80000001 } }).links.members x.engine = true ∧ routeCarries s x.engine 0 = true ∧
      routeCarries (otherWorld s) x.engine 0 = false) := by decide

theorem witness_JobsFromAdmissionToEnd_admission :
    (let q := queueOf 1 none; let s := withQueue q; findQueue s (3 : Byte).toNat = some q ∧ q.state = .enabled ∧ q.head = none ∧
        q.pulled < q.submitted ∧
      (readPacket q q.pulled s).1 = some (packet0 false) ∧ admissionCheck (readPacket q q.pulled s).2 q.part (packet0 false) = none ∧
      pkt (packet0 false) 20 1 = 0 ∧ admissionCheck up 0 (packet0 false) = some (4, 3)) := by decide +kernel

/-- The plan of a pull, and the status of one that is refused. -/
def planCores (x : Except (Nat × Nat) StartPlan) : Option (List CoreId) := match x with | .ok p => some p.cores | .error _ => none
def planStatus (x : Except (Nat × Nat) StartPlan) : Option Nat := match x with | .ok _ => none | .error e => some e.1

theorem witness_JobsFromAdmissionToEnd_pull :
    let q := queueOf 1 (some ⟨packet0 false, []⟩); let s := withQueue q
    (List.finRange 65).find? (fun e : EntryId => mayPull s e && decide (pullingCore s e = some 0)) = some 64 ∧
    choosePull s 64 = some q ∧ q.qid = (3 : Byte).toNat ∧ coreTakes s q.part 0 = true ∧
    planCores (pullPlan s 64 (packet0 false)) = some [0] ∧ planStatus (pullPlan up 64 (packet0 false)) = some 3 := by decide +kernel

theorem witness_JobsFromAdmissionToEnd_end :
    (let s := withJob aJob running; findJob s 1 = some aJob ∧ jobOver s aJob = false) ∧
    (let j := { aJob with cores := [⟨0, true, false⟩] }; let s := withJob j
      findJob s 1 = some j ∧ jobOver s j = true ∧ j.fail = none ∧ (∀ x ∈ j.cores, (s.cores[x.core]).ctl.overran = false) ∧ j.twins = []) ∧
    (let j := { aJob with cores := [⟨0, true, false⟩, ⟨5, true, false⟩], twins := [(0, 5)] }
      let s := withJob j; let d := { s with safety := { s.safety with duals := [(1, 0, 31, 3, 1), (1, 5, 31, 3, 2)] } }
      jobOver s j = true ∧ dualDiffers s j = none ∧ dualDiffers d j = some (0, 31, 3)) := by decide +kernel

/-- A record of class 4 for no partition, and one for partition 0. -/
def engRec : RecIn := { code := 0x0C, fc := 4, unit := 10 }
/-- Partition 0's ring: 128 entries at page 0 of ASID 1. -/
def ringed (head : Word) : State := modPart 0 (fun x => { x with frCtrl := 0x703, frHead := head }) paged

theorem witness_RecordIsPosted :
    engRec.event = false ∧ engRec.fc < 6 ∧ ({ engRec with fc := 5 }).fc < 6 ∧ ({ engRec with event := true }).event = true ∧
    ({ engRec with dangerous := true }).dangerous = true ∧ ({ engRec with toPart := some 0 }).toPart = some 0 ∧
    bitAt (up.host.parts[(0 : PartId)]).frCtrl 0 = false ∧
    (let s := ringed 127; bitAt (s.host.parts[(0 : PartId)]).frCtrl 0 = true ∧
      ((s.host.parts[(0 : PartId)]).frHead - (s.host.parts[(0 : PartId)]).frTail).toNat ≠ 2 ^ fld (s.host.parts[(0 : PartId)]).frCtrl 8 4 ∧
      (hostTranslate 0 (s.host.parts[(0 : PartId)]).secure (fld (s.host.parts[(0 : PartId)]).frCtrl 1 6) ((s.host.parts[(0 : PartId)]).frBase.toNat
          + 32 * ((s.host.parts[(0 : PartId)]).frHead.toNat % 2 ^ fld (s.host.parts[(0 : PartId)]).frCtrl 8 4)) true s).1 = some 0x8FE0) := by decide

theorem witness_ThirdEngineFaultIsFatal :
    (let s := { up with time := us 10000000, safety := { up.safety with engTimes := [0, 1] } }; engRec.event = false ∧ engRec.fc = 4 ∧
        s.safety.fatal = false ∧
      2 ≤ (s.safety.engTimes.filter (fun t => decide (nowUs s ≤ t + 10000000))).length) ∧
    (let s := { up with time := us 10000001, safety := { up.safety with engTimes := [0, 1] } };
      (s.safety.engTimes.filter (fun t => decide (nowUs s ≤ t + 10000000))).length < 2) ∧
    (∀ x ∈ up.host.owed, x.2.fc < 4) ∧ imageHolds (warmSnuff (warmStop up)) = true ∧ ({ up with safety := { up.safety with
        fatal := true } }).safety.fatal = true := by decide +kernel

/-- A tick of period 1 ms in a state, its last at 0, from a source. -/
def ticking (x : TickState) (src : Nat) (raised : List Nat) : State := { up with tick := { up.tick with
    state := x, period := 1000, last := 0, ctrl := BitVec.ofNat 32 (1 + 2 * src), raised := raised } }

theorem witness_TicksComeAndAreKeptUp :
    (∀ t : Nat, t = us 500 ∨ t = us 500 - 1 → ∀ x : TickState, x = .stopped ∨ x = .locked ∨ x = .holdover → let s := ticking x 1 [t, t + 1]
      s.tick.raised = t :: [t + 1] ∧ s.tick.state = x ∧ tickRoot s = false ∧ holdoverRoot s = false ∧ QuietTick s ∧
      (t < s.tick.last + us s.tick.period.toNat / 2 ↔ t = us 500 - 1)) ∧
    (let s := ticking .locked 1 []; s.tick.state ≠ .stopped ∧ fld s.tick.ctrl 1 2 = 1 ∧ s.tick.raised = []) ∧
    (let s := ticking .locked 0 []; us 1500 = s.tick.last + us s.tick.period.toNat * 3 / 2 ∧ sourceArrived s (us 1500) = false ∧ QuietTick s) ∧
    (let s := ticking .holdover 0 []; us 1000 = s.tick.last + us s.tick.period.toNat ∧ sourceArrived s (us 1000) = false ∧ QuietTick s) ∧
    (let s := ticking .locked 1 [us 600]; let s := { s with links := { s.links with sys := 2, addr := 0, members := 3 } }
      s.tick.raised = us 600 :: [] ∧ s.tick.state ≠ .stopped ∧ s.tick.last + us s.tick.period.toNat / 2 ≤ us 600 ∧ tickRoot s = true ∧
      fld s.tick.ctrl 1 2 ≠ 3 ∧ holdoverRoot { s with links := { s.links with addr := 1, members := 6 } } = true) := by
  refine ⟨?_, by decide, by decide, by decide, by decide⟩
  rintro t (rfl | rfl) x (rfl | rfl | rfl) <;> decide

theorem witness_TicksComeAndAreKeptUp_link :
    (∀ src : Nat, src = 1 ∨ src = 3 → let s := ticking .locked src []; let s := modLink 3 (fun x => { x with laneMask := 0xFF }) { s with
        links := { s.links with sys := 2 } }
      receives s 3 = true ∧ s.links.sys = 2 ∧ (1 : Word) ≠ s.links.tickFwd) ∧
    (∀ x : TickState, x = .stopped ∨ x = .locked → ∀ t : Nat, t = us 500 ∨ t = us 500 - 1 → let s := ticking x 3 []
      let s := { s with links := { s.links with markerDue := some t } }; s.links.markerDue = some t ∧ s.tick.state = x) := by
  refine ⟨?_, ?_⟩
  · rintro n (rfl | rfl) <;> decide
  · rintro x (rfl | rfl) t (rfl | rfl) <;> decide

/-! ### Witnesses: candles, lamps, margins -/

/-- An entry of partition 0 on core 0: its priority, continue policy and hold; it starts at 0 with a budget of 10 µs. -/
def entryWord (prio : Nat) (cont hold : Bool) : BitVec 128 := BitVec.ofNat 128 (1 + 2 ^ 4 + 2 ^ 10 + prio * 2 ^ 18 + b2n cont * 2 ^ 21 + b2n hold * 2 ^ 23 + 10 * 2 ^ 64)
/-- Entries 0 and 63 with their states. -/
def table (w0 : BitVec 128) (x0 : EntryState) (w63 : BitVec 128) (x63 : EntryState) (s : State := up) : State :=
  let r := EntryRun.reset
  { s with tick := { s.tick with
      state := .locked, active := (s.tick.active.set 0 w0).set 63 w63
      runs := (s.tick.runs.set 0 { r with state := x0 }).set 63 { r with state := x63 } } }
def ranJob (e : Nat) (p : JobPhase) : Job := { aJob with entry := some e, phase := p }

theorem witness_CandlesRun_starts :
    (let s := table (entryWord 1 false true) .pending (entryWord 0 false true) .running (withJob (ranJob 63 .running))
      let v := { s with time := max s.time (startTime s 0) }
      let w := forAll (holders v 0) preempt v
      entryValid s 0 = true ∧ s.tick.relock = none ∧ s.tick.binDue = false ∧ s.tick.state ≠ .stopped ∧ (runOf s 0).state = .pending ∧
          outranked v 0 = false ∧
      (∀ f ∈ holders v 0, enPrio (entryBits s f) < enPrio (entryBits s 0)) ∧ holders v 0 = [63] ∧ demotedOn w (enCores w 0) = [] ∧
          demotedOf w 0 = none ∧
      enHold (entryBits w 0) = true) ∧
    (let s := table (entryWord 0 false true) .pending (entryWord 0 false true) .running (withJob (ranJob 63 .running))
      let v := { s with time := max s.time (startTime s 0) }
      (runOf s 0).state = .pending ∧ ∃ f ∈ holders v 0, enPrio (entryBits s 0) ≤ enPrio (entryBits s f)) ∧
    (let j := ranJob 0 .paused; let s := table (entryWord 0 false true) .paused (entryWord 0 false true) .ended (withJob j)
      findJob s j.id = some j ∧ entryOf j = 0 ∧ (runOf s 0).state = .paused ∧ holders s 0 = [] ∧ demotedOn s (enCores s 0) = []) := by
  refine ⟨by decide +kernel, ⟨by decide, 63, by decide +kernel, by decide⟩, by decide +kernel⟩

theorem witness_CandlesRun_ends :
    (let s := table (entryWord 0 false true) .running 0 .invalid; entryValid s 0 = true ∧ (runOf s 0).state = .running ∧ (runOf s 0).since ≤ s.time ∧
      entryJob s 0 = none) ∧
    (∀ cont : Bool, let j := ranJob 63 .running; let s := table 0 .invalid (entryWord 0 cont true) .running (withJob j running)
      entryValid s 63 = true ∧ (runOf s 63).state = .running ∧ entryJob s 63 = some j ∧ jobOver s j = false ∧ j.phase = .running ∧
      enContinue (entryBits s 63) = cont ∧ 0 ∈ jobHolds j ∧ (s.cores[(0 : CoreId)]).phase = .live ∧ j.fail = none) ∧
    (let j := ranJob 63 .running; let s := table 0 .invalid (entryWord 0 false true) .running (withJob j (modCore 0 (fun k => { k with
        phase := .halted (haltCond 0x0F 6 0 1) }) running))
      entryJob s 63 = some j ∧ jobOver s j = false ∧ 0 ∈ jobHolds j ∧ coreHalted s.cores[(0 : CoreId)] = true) ∧
    (let j := { ranJob 0 .running with cores := [⟨0, true, false⟩] }; let s := table (entryWord 0 false true) .running 0 .invalid (withJob j)
      entryJob s 0 = some j ∧ jobOver s j = true) ∧
    (let j := ranJob 0 .running; let w := entryWord 0 false true ||| 2
      let s := table (entryWord 0 false true) .running w .pending (withJob j (k0 (fun k => { k with ctl := { k.ctl with job := 1, ended := true } })))
      findJob s (s.cores[(0 : CoreId)]).ctl.job = some j ∧ coreLive s 0 = true ∧ partActive j 0 = true ∧
          drainsOnly s.cores[(0 : CoreId)] j.id = true ∧
      (s.cores[(0 : CoreId)]).ctl.overran = false ∧ entryValid s 63 = true ∧ (runOf s 63).state = .pending ∧ (63 : EntryId) ≠ entryOf j ∧
      enCore (entryBits s 63) 0 = true ∧ enPart (entryBits s 63) ≠ j.part) := by
  refine ⟨by decide, ?_, by decide +kernel, by decide +kernel, by decide +kernel⟩
  rintro (_ | _) <;> decide +kernel

/-- Core 5 with powered arrays and a lamp state. -/
def lamps (l : Lamp) (f : Core → Core) : State :=
  k5 (fun k => f { k with arrays := Vector.replicate 4 { ArrayUnit.reset with powered := true }, lamp := l, enabled := 511 })

theorem witness_LampTestsAndWakes_tests :
    (∀ d : Nat, d = 0 ∨ d = 10000 → let s := lamps (.due 0 d) id
      (s.cores[(5 : CoreId)]).lamp = .due 0 d ∧ s.tick.binDue = false ∧ inReset s.cores[(5 : CoreId)] = false ∧ mxQuiet s.cores[(5 : CoreId)] = true ∧
      mxQuiet (lamps (.due 0 d) (fun k => { k with mx := { k.mx with started := [mxcmd cfgA 0] } })).cores[(5 : CoreId)] = false) ∧
    (∀ tick : Bool, let s := lamps (.running 0 0xF tick) id
      (s.cores[(5 : CoreId)]).lamp = .running 0 0xF tick ∧ 511 ≤ (s.cores[(5 : CoreId)]).enabled - 0 ∧
          jobUnacked s (s.cores[(5 : CoreId)]).ctl.job = false ∧
      (s.cores[(5 : CoreId)]).phase = .live ∧ failedArrays 0xF 0 = [] ∧ failedArrays 0xF 0x80000001 = [0, 3]) ∧
    (let s := ticking .locked 0 []; s.tick.state ≠ .stopped ∧ 50000 < ({ s with tick := { s.tick with period := 50001 } }).tick.period.toNat) := by
  refine ⟨?_, ?_, by decide⟩
  · rintro d (rfl | rfl) <;> decide
  · rintro (_ | _) <;> decide

theorem witness_LampTestsAndWakes_wakes :
    (∀ x : BitVec 128, x = 0 ∨ x = entryWord 0 false false → let s := table x .pending 0 .invalid { up with tick := { up.tick with gated := 1 } };
      arrayInService s 0 0 = true ∧ (s.cores[(0 : CoreId)]).powered = true ∧ (s.cores[(0 : CoreId)]).retained = false ∧
          bitAt s.tick.gated (4 * 0 + 0) = true ∧
      wakingCmd s 0 0 = none) ∧
    wakeNeeded (table (entryWord 0 false false) .pending 0 .invalid { up with tick := { up.tick with gated := 1 } }) 0 0 = true ∧
    wakeNeeded (table (entryWord 0 false false ^^^ 0xC00) .pending 0 .invalid { up with tick := { up.tick with gated := 1 } }) 0 0 = false ∧
    (let s := mxc 0 cfgA (fun m => { m with taken := some go }) { up with tick := { up.tick with gated := 1 } };
      wakingCmd s 0 0 = some (go, 1) ∧ (s.cores[(0 : CoreId)]).lamp = .idle) ∧
    (let s := mxc 0 cfgA (fun m => { m with started := [mxcmd cfgA 0] }) { up with tick := { up.tick with gated := 3 } };
      wakingCmd s 0 0 = some (go, 1) ∧ bitAt (gatedOf s 0 1) 0 = true ∧ bitAt (gatedOf s 0 3) 1 = true) := by
  refine ⟨?_, by decide +kernel, by decide +kernel, by decide +kernel, by decide +kernel⟩
  rintro x (rfl | rfl) <;> decide +kernel

/-- Core 5 halted by a lamp failure of group 7 of array 0, with n columns bypassed. -/
def failed (n : Nat) : State := k5 (fun k => { k with
    phase := .halted (haltCond 0x14 5 0 1), lampBad := 0x80
    arrays := k.arrays.set 0 { ArrayUnit.reset with staged := BitVec.ofNat 128 (2 ^ n - 1) } })

theorem witness_DiagnosisAndScrub :
    (∀ n : Nat, n = 7 ∨ n = 8 → let s := failed n; arrayInService s 5 0 = true ∧ (s.cores[(5 : CoreId)]).phase = .halted (haltCond 0x14 5 0 1) ∧
      fld (s.cores[(5 : CoreId)]).lampBad (8 * 0) 8 ≠ 0 ∧ replayLimited s.cores[(5 : CoreId)] = false ∧
          bitAt (s.cores[(5 : CoreId)]).lampBad (8 * 0 + 127 / 16) = true ∧
      bitAt ((s.cores[(5 : CoreId)]).arrays[(0 : ArrId)]).staged 127 = false ∧
          popcount 128 ((s.cores[(5 : CoreId)]).arrays[(0 : ArrId)]).staged.toNat = n) ∧
    (∀ m : MemName, m = .core 0 ∨ m = .curve 5 ∨ m = .dmem 5 → wordThere up m 0 = true ∧ 0 + 8 ≠ memSize m ∧ (m, 0) ∉ up.safety.corrected) ∧
    (let s := { up with boot := { up.boot with pdSg := true } }; wordThere s .staging (0x1000000 - 16) = true ∧
        0x1000000 - 16 + 8 ≠ memSize .staging) ∧
    (.core 0, 0) ∈ ({ up with safety := { up.safety with corrected := [(.core 0, 0)] } }).safety.corrected ∧
    (MemName.core 0, 0) ∉ up.safety.poison ∧ (MemName.core 0, 0) ∈ ({ up with safety := { up.safety with
        uncorrAt := [(.core 0, 0)] } }).safety.uncorrAt ∧
    wordThere (modPart 7 (fun x => { x with enabled := true }) up) (.part 7) 0 = true := by
  refine ⟨?_, ?_, by decide, by decide, by decide, by decide, by decide⟩
  · rintro n (rfl | rfl) <;> decide
  · rintro m (rfl | rfl | rfl) <;> decide

theorem witness_MonitorsRaiseFaults :
    up.boot.state = 3 ∧ up.boot.held = false ∧ ({ up with safety := { up.safety with toggledAt := some 5 } }).safety.toggledAt = some 5 ∧
    (let s := mxc 5 cfgA id { up with safety := { up.safety with lampArmed := BitVec.allOnes 24 } }; bitAt (lampArrays s 5) 3 = true ∧
        bitAt s.safety.lampArmed (4 * 5 + 3) = true) ∧
    coreOn up 5 true = true ∧ up.safety.aliveAt[(5 : CoreId)] = none ∧
    (∀ t : Nat, t = us 3600000100 → let s := { up with time := t, safety := { up.safety with aliveAt := up.safety.aliveAt.set 5 (some (us 200)) } }
      s.safety.aliveAt[(5 : CoreId)] = some (us 200) ∧ s.time + us 100 ≤ us 200 + us 3600000000) ∧
    up.safety.fatal = false ∧ (postRecord engRec up).safety.fatal = false ∧ (postRecord { engRec with fc := 5 } up).safety.fatal = true ∧
    safetyRuns up = false ∧ dualMapOk up 0x3FFFF = true ∧ dualMapOk up 0x3FFC1 = true ∧ dualMapOk up 0 = false ∧
    safetyRuns (table (entryWord 0 false false ||| 0x400000) .running 0 .invalid) = true ∧
    (∀ rail : Fin 3, ∀ high : Bool, bitAt (BitVec.allOnes 6) (rail.val + 3 * b2n high) = true ∧
        bitAt (0 : BitVec 6) (rail.val + 3 * b2n high) = false) ∧
    up.host.owed = [] ∧ jobUnacked up (up.cores[(5 : CoreId)]).ctl.job = false := by
  refine ⟨by decide, by decide, by decide, by decide, by decide, by decide, ?_, by decide, by decide, by decide, by decide +kernel, by decide,
      by decide,
    by decide, by decide +kernel, by decide, by decide, by decide +kernel⟩
  rintro t rfl; decide

/-- The planner is due, with the newest readings of monitors 0 and 30, the offset code and the bin. -/
def planned (a b : Byte) (code : Nat) (bin : Nat) : State := { up with
  bnd := { up.bnd with vofsCode := BitVec.ofNat 4 code, vofsAck := BitVec.ofNat 4 code }
  safety := { up.safety with
      marginCode := BitVec.ofNat 4 code
      plannerDue := true, fresh := 0, bin := BitVec.ofNat 3 bin
      slack := (up.safety.slack.set 24 ⟨a, a, 0, a⟩).set 30 ⟨b, b, 0, b⟩ } }

theorem witness_MarginsAreKept :
    (up.boot.held = false ∧ monitorOn up 24 = true ∧ monitorOn up 35 = true ∧ 0 < marginFloor up ∧ marginFloor up ≤ 255) ∧
    (∀ x : Byte × Byte, x = (marginGuard up, marginGuard up) ∨ x = (marginGuard up - 1, marginGuard up) ∨ x = (marginGuard up, marginGuard up - 1) →
      ∀ code : Nat, code = 11 ∨ code = 12 → ∀ bin : Nat, bin = 3 ∨ bin = 4 → let s := planned x.1 x.2 code bin
        s.boot.state = 3 ∧ offsetPending s = false ∧ s.tick.binPend = none ∧ s.tick.relock = none ∧ s.safety.fresh = 0 ∧ s.safety.plannerDue = true ∧
        (leastSlack s 0 29).2 = x.1 ∧ (leastSlack s 30 43).2 = x.2 ∧ s.bnd.vofsCode.toNat = code ∧ s.bnd.timedOut = false ∧
            s.safety.bin.toNat = bin) ∧
    (let s := { up with tick := { up.tick with binPend := some 4, binDue := true, relock := none } }; s.tick.binPend = some 4 ∧ s.tick.binDue = true ∧
        offsetPending s = false ∧
      relockCores s = []) ∧
    ({ up with tick := { up.tick with relock := some (7, []) } }).tick.relock = some (7, []) := by
  refine ⟨by decide, ?_, by decide, by decide⟩
  rintro x (rfl | rfl | rfl) code (rfl | rfl) bin (rfl | rfl) <;> decide +kernel

/-! ### Witnesses: links -/

/-- A member of a ring of 2 engines with addresses 0 and 1; its ports are up. -/
def member (a : Nat) (s : State := up) : State :=
  let ports := Vector.ofFn (fun i : Fin 4 => { s.links.ports[i] with laneMask := 0xFF, state := 3 })
  { s with links := { s.links with
      ports := ports, sys := 2, addr := BitVec.ofNat 5 a, members := 3, config := 3, topo := 1, count := 2, epoch := 1 } }
/-- A flit of a class from engine 1 to engine 0. -/
def flit (cls : Fin 4) (type addr : Nat) (payload : List Byte) : Flit := ⟨cls, true, 1, 0, 1, 0, BitVec.ofNat 24 addr, BitVec.ofNat 22 type, payload⟩
/-- A control flit that reports heard, and a data flit of 16 zero bytes of payload. -/
def ctlFlit (heard : Nat) : List Byte :=
  let h : List Byte := 2 :: List.replicate 11 0
  let rest := bytesWith 240 [(2, 1, 2 * heard)]
  h ++ leBytes 4 (crc32c (h ++ rest)).toNat ++ rest

set_option maxRecDepth 20000 in
theorem witness_LinkPortsCarryFlits_raw :
    (∀ cls : Fin 4, cls = 0 ∨ cls = 1 ∨ cls = 2 ∨ cls = 3 → let raw := flitBytes (flit cls 0 0 (List.replicate 16 0)); flitGood raw = true ∧
        leNat (raw.take 1) % 16 = 1 ∧
      flitOf raw = flit cls 0 0 (List.replicate 16 0)) ∧
    (∀ h : Nat, h = 0 ∨ h = 1 → flitGood (ctlFlit h) = true ∧ leNat ((ctlFlit h).take 1) % 16 = 2 ∧
        (leNat (((ctlFlit h).drop 18).take 1)).testBit 1 = decide (h = 1)) := by
  refine ⟨?_, ?_⟩
  · rintro cls (rfl | rfl | rfl | rfl) <;> decide +kernel
  · rintro h (rfl | rfl) <;> decide +kernel

theorem witness_LinkPortsCarryFlits :
    (receives up 3 = false ∧ receives (member 0) 3 = true ∧ flitGood [] = false) ∧
    (let f := flit 1 0 0 []; f.lseq = ((member 0).links.ports[(3 : LinkId)]).rxSeq + 1 ∧ islanded (member 0) = false ∧
        f.dst.toNat = ownAddr (member 0) ∧
      f.pseq = (member 0).links.pseqFrom[(f.src.toFin : Fin 32)] ∧
          f.lseq ≠ ((modLink 3 (fun x => { x with rxSeq := 1 }) (member 0)).links.ports[(3 : LinkId)]).rxSeq + 1) ∧
    islanded ({ member 0 with links := { (member 0).links with sys := 3 } }) = true ∧
    (let s := { member 0 with links := { (member 0).links with pseqFrom := Vector.replicate 32 1 } }; let f := { flit 1 0 0 [] with pseq := 2049 }
      f.pseq ≠ s.links.pseqFrom[(f.src.toFin : Fin 32)] ∧ 2048 ≤ (s.links.pseqFrom[(f.src.toFin : Fin 32)] - f.pseq).toNat) ∧
    (let s := modLink 3 (fun x => { x with state := 2, laneMask := 0, fails := 1 }) up; (s.links.ports[(3 : LinkId)]).state = 2 ∧
        (s.links.ports[(3 : LinkId)]).laneMask = 0 ∧
      usedLanes 0xFF ≠ 0 ∧ usedLanes 0xF1 ≠ 0 ∧ usedLanes 0x7E = 0 ∧ (s.links.ports[(3 : LinkId)]).fails < 2) ∧
    2 ≤ ((modLink 3 (fun x => { x with fails := 2 }) up).links.ports[(3 : LinkId)]).fails ∧
    ((modLink 3 (fun x => { x with state := 1 }) up).links.ports[(3 : LinkId)]).state = 1 := by decide

/-- A flit waits at port 1. -/
def waits (f : Flit) (s : State) : State := { s with links := { s.links with rx := [(1, f)] } }
/-- Engine 0 enumerates: it has sent its probes and waits for engine 1. -/
def probing : EnumRun := ⟨none, 0, 1, 2, 1, 2, 0, 0, true, 0, 2, 2, 64⟩
def enumReq (s : State) : State := asked 8 [(0, 2, 0x80), (9, 1, 1), (10, 1, 2), (11, 1, 1)] s
def groupReq (a : Nat) : State := asked 8 [(0, 2, 0x80), (8, 1, 1), (12, 1, 15), (16, 4, 3)] (member a)
def kroot (s : State) : State := { s with bnd := { s.bnd with kroot := true } }

theorem witness_EnumerationFormsSystem_requests :
    (∀ s : State, s = up ∨ s = kroot up ∨ s = kroot (member 0) → Requested 0x80 (some 0) 8 0 (frame (enumReq s) 8) (enumReq s) (taken (enumReq s))) ∧
    up.bnd.kroot = false ∧ (kroot up).bnd.kroot = true ∧ (kroot (member 0)).links.sys = 2 ∧ up.links.sys ≠ 1 ∧ up.links.sys ≠ 2 ∧
    enumArgs up.grade (arg (frame (enumReq (kroot up)) 8) 9 1) (arg (frame (enumReq (kroot up)) 8) 10 1) (arg (frame (enumReq (kroot up)) 8) 11 1) = true ∧
    (∀ a : Nat, a = 0 ∨ a = 1 → Requested 0x80 (some 1) 8 0 (frame (groupReq a) 8) (groupReq a) (taken (groupReq a))) ∧
    (groupReq 1).links.addr ≠ 0 ∧ (let s := groupReq 0; let b := frame s 8; s.links.addr = 0 ∧ s.links.sys = 2 ∧
      s.links.groupSet = none ∧ arg b 12 1 < 16 ∧ BitVec.ofNat 32 (arg b 16 4) &&& ~~~ s.links.config = 0) := by
  refine ⟨?_, by decide, by decide, by decide, by decide, by decide, by decide, ?_, by decide, by decide +kernel⟩
  · rintro s (rfl | rfl | rfl) <;> exact requested (by decide)
  · rintro a (rfl | rfl) <;> exact requested (by decide)

theorem witness_EnumerationFormsSystem_messages :
    (let f := flit 3 1 0 [31, 0]; let s := waits f up; Waiting 1 3 1 f s (dropRx [(1, f)] s) ∧ s.links.enum = none ∧ s.links.sys ≠ 2 ∧
        msgNum f 1 1 = 0) ∧
    (let f := flit 3 4 0 (List.replicate 16 1); let s := waits f up; Waiting 1 3 4 f s (dropRx [(1, f)] s) ∧ s.links.sys ≠ 1) ∧
    (let f := flit 3 5 0 (List.replicate 16 0); let s := waits f up; Waiting 1 3 5 f s (dropRx [(1, f)] s) ∧ s.links.enum = none ∧ s.links.sys ≠ 2 ∧
      let s := { s with links := { s.links with enum := some probing, sys := 1 } }; Waiting 1 3 5 f s (dropRx [(1, f)] s) ∧
          s.links.enum = some probing ∧
        probing.phase = 2 ∧ s.links.sys = 1 ∧ probing.probes &&& ~~~ BitVec.ofNat 32 (2 ^ f.src.toNat) = 0) := by
  refine ⟨⟨⟨by decide, rfl⟩, by decide⟩, ⟨⟨by decide, rfl⟩, by decide⟩, ⟨by decide, rfl⟩, by decide, by decide, ⟨by decide, rfl⟩, by decide⟩

/-- A membership of engines 0 and 1 with an epoch, as a message. -/
def memFlit (epoch : Nat) : Flit := flit 3 2 0 (bytesWith 96 [(0, 4, 3), (4, 2, epoch), (6, 1, 1), (7, 1, 2), (8, 1, 1), (9, 1, 2), (12, 4, 3)])
def joinFlit (a : Nat) : Flit := flit 3 3 0 (bytesWith 16 [(0, 1, a), (4, 4, 3)])

theorem witness_MembershipChanges_messages :
    (∀ e : Nat, e = 1 + 32767 ∨ e = 1 + 32768 → let s := waits (memFlit e) (member 0); Waiting 1 3 2 (memFlit e) s (dropRx [(1, memFlit e)] s) ∧
      newMembers s (memberOf (memFlit e)) = decide (e = 32768) ∧ newMembers { s with links := { s.links with
          sys := 3 } } (memberOf (memFlit e)) = false ∧
      newMembers { s with links := { s.links with sys := 3, joinAt := some 0 } } (memberOf (memFlit e)) = true) ∧
    (let s := waits (joinFlit 1) up; Waiting 1 3 3 (joinFlit 1) s (dropRx [(1, joinFlit 1)] s) ∧ s.links.sys ≠ 2) ∧
    (let s := waits (joinFlit 1) (member 1); s.links.sys = 2 ∧ s.links.settle = none ∧ lowest s.links.members ≠ s.links.addr.toNat) ∧
    (let s := waits (joinFlit 1) (member 0); let s := { s with links := { s.links with members := 1 } }
        Waiting 1 3 3 (joinFlit 1) s (dropRx [(1, joinFlit 1)] s) ∧
      s.links.sys = 2 ∧ lowest s.links.members = s.links.addr.toNat ∧ s.links.settle = none ∧ s.links.joins = [] ∧
      ({ s with links := { s.links with sys := 3, addr := 31 } }).links.sys = 3 ∧ msgNum (joinFlit 1) 0 1 ≠ BitVec.toNat (31 : BitVec 5) ∧
      BitVec.ofNat 32 (msgNum (joinFlit 1) 4 4) = s.links.config ∧ bitAt s.links.config (msgNum (joinFlit 1) 0 1 % 32) = true ∧
      bitAt s.links.members (msgNum (joinFlit 1) 0 1 % 32) = false ∧
          ({ s with links := { s.links with settle := some 0 } }).links.settle.isSome = true) := by
  refine ⟨?_, ⟨⟨by decide, rfl⟩, by decide⟩, by decide, ⟨by decide, rfl⟩, by decide⟩
  rintro e (rfl | rfl) <;> exact ⟨⟨by decide, rfl⟩, by decide⟩

/-- Engine a of a ring of 4 has seen the settle window open and has lost some. -/
def settling (a : Nat) (lost : Word) : State :=
  { member a with links := { (member a).links with settle := some 0, lost := lost, members := 0xF, config := 0xF, count := 4 } }

theorem witness_MembershipChanges_times :
    ({ up with links := { up.links with joinAt := some 3 } }).links.joinAt = some 3 ∧
    (let s := { member 0 with links := { (member 0).links with lossFrom := (member 0).links.lossFrom.set 1 (some 0) } };
      (s.links.lossFrom[(1 : BitVec 5).toNat]?).join = some 0 ∧ s.links.sys = 2 ∧ bitAt s.links.members (1 : BitVec 5).toNat = true) ∧
    (let s := settling 0 0xC; s.links.settle = some 0 ∧ s.links.sys = 2 ∧ isPrimary s = true ∧ lowest (remaining s) = s.links.addr.toNat ∧
        s.links.joins = []) ∧
    isPrimary (settling 3 0x3) = false ∧ isPrimary (settling 3 0x1) = true ∧
    lowest (remaining (settling 3 0x1)) ≠ (settling 3 0x1).links.addr.toNat ∧ isPrimary (settling 1 0xD) = false := by decide

/-- A run to engine 1 of one flit, of transfer 0 of channel 0. -/
def aRun : SentRun := ⟨1, none, [flit 0 0 0 []], some (0, 0, 0)⟩
def sentOne (s : State) : State := { s with links := { s.links with sent := [aRun] } }

theorem witness_RunsAndFenceMessages_runs :
    (∀ t : Nat, t = 6 ∨ t = 7 → let f := flit 3 t 0 [0, 0, 1]; let s := sentOne (waits f (dx0 dxr)); Waiting 1 3 t f s (dropRx [(1, f)] s) ∧
      sentRun s f.src (msgNum f 0 2) = some aRun ∧ aRun.owner = some (0, 0, 0)) ∧
    (let f := flit 3 6 0 [1, 0]; let s := sentOne (waits f up); sentRun s f.src (msgNum f 0 2) = none ∧ s.links.groupSet = none) ∧
    (let r := { dxr with out := [xfer .staging] }; let f := flit 3 7 0 [0, 0, 1]; let s := sentOne (waits f (dx0 r)); let u := dropRx [(1, f)] s
      let v := memberAck f.src.toNat aRun { u with links := { u.links with sent := u.links.sent.erase aRun } }
      ((dxChan v 0 0).run.map (fun x => x.out.length)) = some 1) ∧
    (∀ a : Nat, a = 0xFFFFF0 ∨ a = 0xFFFFF1 → let f := flit 1 0 a (List.replicate 16 7); let s := waits f up
      s.links.rx.find? (fun x => decide (x.1 = 1) && decide (x.2.cls = 1)) = some (1, f) ∧ runOfRx s 1 f.src = [(1, f)] ∧
      stagingOwned s (fld f.info 4 3) f.addr.toNat f.payload.length = decide (a = 0xFFFFF0)) := by
  refine ⟨?_, by decide, by decide, ?_⟩
  · rintro t (rfl | rfl) <;> exact ⟨⟨by decide, rfl⟩, by decide⟩
  · rintro a (rfl | rfl) <;> decide

theorem witness_RunsAndFenceMessages_fences :
    (let f := flit 2 1 0xFFE (bytesWith 16 [(0, 8, 6)]); let a := { aFence false 1 with subs := [⟨1, 0, 0xFFE⟩] }
      let s := waits f (fenced [a] []); Waiting 1 2 1 f s (dropRx [(1, f)] s) ∧ (∀ q ∈ s.host.queues, q.head = none) ∧
      s.host.fences.flatMap (fun x => (x.subs.filter (fun y => decide (y.engine = f.src.toNat ∧ y.fid = msgFid f))).map
          (fun y => (x.addr, y.part))) = [(0x8000, 0)]) ∧
    (let f := flit 2 2 0 (bytesWith 16 [(0, 8, 6)]); let s := waits f up; Waiting 1 2 2 f s (dropRx [(1, f)] s)) ∧
    (∀ w : Nat, w = 0 ∨ w = 1 → let f := flit 2 3 0 [0, BitVec.ofNat 8 w]; let s := waits f (fenced [aFence false 1] [aReg])
      Waiting 1 2 3 f s (dropRx [(1, f)] s) ∧ findReg s 0 (msgFid f) = some aReg ∧ aReg.home = none ∧ findReg up 0 (msgFid f) = none ∧
      ((s.host.parts[(0 : PartId)]).secure = (msgNum f 1 1).testBit 0 ↔ w = 0)) ∧
    (∀ st : Byte, st = 0 ∨ st = 2 → let f := flit 2 4 5 [st]; let x : Proxy := ⟨0, 0, 1, 1, 5, 0, false, some (0, 0)⟩
      let s := waits f { up with host := { up.host with proxies := [x] } }; Waiting 1 2 4 f s (dropRx [(1, f)] s) ∧
      s.host.proxies.find? (fun x => proxyOf f x && x.pending.isSome) = some x ∧ x.pending = some (0, 0) ∧ msgNum f 0 1 = st.toNat) ∧
    (let f := flit 2 5 5 [0]; let s := waits f up; Waiting 1 2 5 f s (dropRx [(1, f)] s)) := by
  refine ⟨⟨⟨by decide, rfl⟩, by decide⟩, ⟨by decide, rfl⟩, ?_, ?_, ⟨by decide, rfl⟩⟩
  · rintro w (rfl | rfl) <;> exact ⟨⟨by decide, rfl⟩, by decide⟩
  · rintro st (rfl | rfl) <;> exact ⟨⟨by decide, rfl⟩, by decide⟩

/-! ### Witnesses: the fabric, extension engines, boot, resets, worlds -/

/-- The host path's load of region 7: it has its header and n frames. -/
def pathLoad (path n : Nat) : FbLoad := ⟨path, 7, 8, 0, 1, 0, 2 ^ 20, some goodHeader, 64, List.replicate n 2560⟩
def withLoad (l : Option FbLoad) (fifo : List (BitVec 64)) (s : State := up) : State := { s with fabric := { s.fabric with load := l, fifo := fifo } }

theorem witness_FabricTakesLoads_window :
    (sec.secure = true ∧ (0 : RegionId) = up.fabric.cfgRegion.toFin ∧ up.fabric.load = none ∧ bitAt (1 : Word) 0 = true ∧
        regionPresent up.grade 0 = true ∧
      fxHolds up 0 = false ∧ bitAt (2 : Word) 1 = true) ∧
    (∀ n : Nat, n = 6 ∨ n = 7 ∨ n = 511 ∨ n = 512 →
        (withLoad (some ⟨2, 7, 8, 0, 0, 0, 0, none, 0, []⟩) (List.replicate n 0)).fabric.fifo.length = n) ∧
    clockUsed up.fabric 0 = false ∧ clockUsed (withLoad (some (pathLoad 2 0)) []).fabric 15 = false ∧
    clockUsed (modRegion 0 (fun r => { r with state := 2, clk := 0xFFFFFF0F }) up).fabric 15 = true ∧
    (10 ≤ fld (10 : Word) 0 10 ∧ fld (600 : Word) 0 10 ≤ 600) ∧
    (plain.secure = ((up.fabric.pins[63]).secure || decide ((up.fabric.pins[63]).use = 0)) ∨
      sec.secure = ((up.fabric.pins[63]).secure || decide ((up.fabric.pins[63]).use = 0))) ∧
    (fld (8 : Word) 2 2 ≠ 3 ∧ fld (0xC : Word) 2 2 = 3) ∧ Passes sec up (0xC3000 + 16 * 3) true ∧ up.grade ≠ .s92 := by
  refine ⟨by decide, ?_, by decide +kernel, by decide +kernel, by decide +kernel, by decide, by decide, by decide, by decide, by decide⟩
  rintro n h; exact List.length_replicate

/-- Frame i for region 7, all zero, as a record of 272 bytes. -/
def frameRec (i : Nat) : List Byte :=
  let w := leBytes 4 (7 + 16 * i)
  w ++ leBytes 4 (crc32c (w ++ List.replicate 256 0)).toNat ++ List.replicate 264 0
/-- The record as words of the FIFO. -/
def frameFifo (i : Nat) : List (BitVec 64) := (List.range 34).map (fun j => BitVec.ofNat 64 (leNat (((frameRec i).drop (8 * j)).take 8)))
def frameGot (x : Option (Except Nat (List Byte))) : List Byte := match x with | some (.ok b) => b | _ => []

set_option maxRecDepth 20000 in
theorem witness_FabricTakesLoads_frames :
    (let l := pathLoad 2 0; let s := withLoad (some l) (frameFifo 2559); s.fabric.load = some l ∧ l.header = some goodHeader ∧
        l.applied.length < 2560 ∧
      frameGot (nextFrame l s).1 = frameRec 2559 ∧ hdReloc goodHeader = false ∧ frameCheck l false (frameRec 2559) .ok = none ∧
      frameCheck l false (frameRec 2559) .floating = some 7 ∧ leNat ((frameRec 2559).take 4) / 16 % 4096 = 2559) := by decide +kernel

theorem witness_FabricTakesLoads_release : 2560 ≤ (pathLoad 2 2560).applied.length ∧ (pathLoad 2 2560).path = 2 ∧ 6 ≤ (pathLoad 2 2560).region.val ∧
    (pathLoad 2 2559).applied.length < 2560 :=
  ⟨Nat.le_of_eq List.length_replicate.symm, rfl, by decide, Nat.lt_of_le_of_lt (Nat.le_of_eq List.length_replicate) (by decide)⟩

/-- Region z is configured. Timer 3 runs with a use for it. -/
def configured (z : RegionId) (s : State := up) : State := modRegion z (fun r => { r with state := 2, powered := true }) s
def timed (use : BitVec 2) (z : RegionId) : State := configured z (modFabric (fun f => { f with timers := updAt f.timers 3 (fun t => { t with
    use := use, region := z, enable := true, reload := 5 }) }) up)

/-- Pin 63 is claimed for region 7, whose image drives it or not; pin 0 is the tick's. -/
theorem witness_FabricTakesLoads_pins :
    up.boot.state ≠ 0 ∧ (up.fabric.pins[(63 : Fin 64)]).use = 0 ∧
    (let s := modFabric (fun f => { f with pins := f.pins.set 63 ⟨1, 7, 0, false⟩ }) up; (s.fabric.pins[(63 : Fin 64)]).use = 1 ∧
      (s.fabric.regions[(s.fabric.pins[(63 : Fin 64)]).region]).state ≠ 2) ∧
    (let s := modFabric (fun f => { f with pins := f.pins.set 63 ⟨1, 7, 0, false⟩ }) (modRegion 7 (fun r => { r with
        pinMask := 0x8000000000000000 }) (configured 7));
      (s.fabric.regions[(s.fabric.pins[(63 : Fin 64)]).region]).state = 2 ∧ (s.fabric.regions[(7 : RegionId)]).pinMask.getLsbD 63 = true) ∧
    (let s := modFabric (fun f => { f with pins := f.pins.set 0 ⟨2, 0, 0, true⟩ }) up; (s.fabric.pins[(0 : Fin 64)]).use = 2) := by decide

theorem witness_RegionEvents :
    (∀ z : RegionId, z = 0 ∨ z = 6 ∨ z = 7 → ((configured z).fabric.regions[z]).state = 2 ∧ (configured z).fabric.load = none) ∧
    (BitVec.toNat (2559 : BitVec 12) < 2560) ∧ (withLoad (some (pathLoad 1 0)) [] (configured 0)).fabric.load.isSome = true ∧
    bitAt (modFabric (fun f => { f with uclk := updAt f.uclk 15 (fun _ => 0x40A) }) up).fabric.uclk[15] 10 = true ∧
    timerRuns (timed 2 0) 3 2 = true ∧ timerRuns (timed 1 7) 3 1 = true ∧ 6 ≤ (((timed 1 7).fabric.timers[3]).region).val ∧
    ((timed 1 7).fabric.regions[((timed 1 7).fabric.timers[3]).region]).state = 2 ∧
    (let s := modRegion 5 (fun r => { r with extId := 1 }) (configured 5); (s.fabric.regions[(5 : RegionId)]).extId ≠ 0 ∧
        corePresent s.grade 5 = true ∧
      (s.cores[(5 : CoreId)]).retired = false ∧ (configured 5).fabric.regions[(5 : RegionId)].extId = 0 ∧ corePresent .s94 5 = false ∧
      (modCore 5 (fun k => { k with retired := true }) s).cores[(5 : CoreId)].retired = true) := by
  refine ⟨?_, by decide, by decide, by decide, by decide, by decide, by decide, by decide, by decide⟩
  rintro z (rfl | rfl | rfl) <;> decide

/-- Core 5's FX with a taken packet, or with a command of one beat each way. -/
def fxCfg : Vector Word 64 := cfgOf [(3, 1), (4, 1), (5, 1)]
def fxc (f : Fx → Fx) : State := modCore 5 (fun k => { k with fx := f { k.fx with sets := k.fx.sets.set 0 fxCfg } }) (configured 5)
def fxRun (sent done : Bool) : FxRun := { newFxRun go fxCfg false with sent := sent, done := done }

theorem witness_FxCommandRuns_starts :
    (∀ b : Bool, let cmd := if b then go else idleCmd; let s := fxc (fun f => { f with taken := some cmd })
      (s.cores[(5 : CoreId)]).fx.parked = none ∧ (s.cores[(5 : CoreId)]).fx.taken = some cmd ∧ waitDone s.cores[(5 : CoreId)] cmd = true ∧
          coreLive s 5 = true ∧
      (s.cores[(5 : CoreId)]).fx.run = none ∧ (s.cores[(5 : CoreId)]).fx.sets[cmd.set] = fxCfg ∧ cmd.start = b ∧
          (s.cores[(5 : CoreId)]).fx.resumeValid = false ∧
      (fxChecks cmd.set fxCfg).orElse (fun _ => fxRegionChecks s 5 cmd.set fxCfg) = none) ∧
    ((fxChecks 0 (cfgOf [(3, 262145)])).orElse (fun _ => fxRegionChecks up 5 0 (cfgOf []))).isSome = true ∧
    ((fxChecks 0 (cfgOf [(3, 1), (5, 1)])).orElse (fun _ => fxRegionChecks up 5 0 (cfgOf []))).isSome = true ∧
    (let s := fxc (fun f => { f with taken := some go, resumeValid := true, resumeSet := 3 }); (s.cores[(5 : CoreId)]).fx.resumeValid = true ∧
      (s.cores[(5 : CoreId)]).fx.resumeSet ≠ go.set) := by
  refine ⟨?_, by decide, by decide, by decide⟩
  rintro (_ | _) <;> decide

theorem witness_FxCommandRuns_runs :
    fxInProgress up 5 = none ∧ (let r := fxRun true false; fxInProgress (fxc (fun f => { f with run := some r })) 5 = some r ∧
        ([0] : List (BitVec 256)).length ≤ fxOut r.cfg) ∧
    (let r := fxRun true false; let s := fxc (fun f => { f with run := some r })
      fxErrMeets up 5 = none ∧ fxErrMeets s 5 = some r ∧ fxBadInput s 5 r 1 = false ∧ jobUnacked s (s.cores[(5 : CoreId)]).ctl.job = false ∧
      fxBadInput { s with safety := { s.safety with poison := [(.core 5, 24)] } } 5 r 1 = true ∧ fxBeyond r [0] = false ∧
      fxBeyond r [0, 0] = true ∧ (up.cores[(5 : CoreId)]).fx.errAt ≠ some up.time) ∧
    (let r := fxRun true true; let s := fxc (fun f => { f with run := some r }); (s.cores[(5 : CoreId)]).fx.run = some r ∧ r.done = true ∧
      (s.cores[(5 : CoreId)]).fx.abort = false ∧ inService s 5 = true ∧ (s.cores[(5 : CoreId)]).fx.taken = none) ∧
    (∀ r : FxRun, r = fxRun true true ∨ r = fxRun false false ∨ r = fxRun true false → let s := fxc (fun f => { f with run := some r, abort := true })
      (s.cores[(5 : CoreId)]).fx.run = some r ∧ (s.cores[(5 : CoreId)]).fx.abort = true) := by
  refine ⟨by decide +kernel, by decide +kernel, by decide +kernel, by decide +kernel, ?_⟩
  rintro r (rfl | rfl | rfl) <;> decide

/-- An image of one word with a number, in a slot of staging. -/
def imageOf (seq : Nat) : List Byte :=
  let h := bytesWith 60 [(0, 4, 0x4C4C4B49), (5, 1, 1), (6, 2, 2), (8, 4, seq), (12, 4, 4), (56, 4, (crc32c [1, 2, 3, 4]).toNat)]
  h ++ leBytes 4 (crc32c h).toNat ++ [1, 2, 3, 4]
def slotted (i : Nat) : State :=
  { up with
    boot := { up.boot with state := 2 }
    staging := memStore [] (i * 0x100000) (imageOf 1)
    tick := { up.tick with ctrl := BitVec.ofNat 32 i } }

theorem witness_StartupAndBoot :
    State.reset.boot.held = true ∧ up.boot.held = false ∧ sec.secure = true ∧ bitAt (2 : Word) 1 = true ∧
    (let s := { up with boot := { up.boot with state := 1 } }; s.boot.state = 1 ∧ s.boot.bistDone = false ∧ s.boot.releaseSeen = false ∧
      (BitVec.toNat (0x1FFFFF : BitVec 24) + ([1] : List Byte).length ≤ 0x200000) ∧
          0x200000 < BitVec.toNat (0x1FFFFF : BitVec 24) + ([1, 2] : List Byte).length ∧
      ({ s with boot := { s.boot with bistDone := true } }).boot.bistDone = true) := by decide

theorem witness_StartupAndBoot_images :
    (let s := { up with boot := { up.boot with state := 2 } }; s.boot.state = 2 ∧ slotCode s 0 ≠ 1 ∧ slotCode s 1 ≠ 1) ∧
    (∀ i : Nat, i = 0 ∨ i = 1 → let s := slotted i; s.boot.state = 2 ∧ (slotOrder s (slotCode s 0) (slotCode s 1)).head? = some i ∧
      bitAt s.tick.ctrl 0 = decide (i = 1) ∧ s.host.sent = []) := by
  refine ⟨by decide, ?_⟩
  rintro i (rfl | rfl) <;> decide +kernel

def restartReq (s : State) : State := asked 8 [(0, 2, 0xF0)] s
def fatal : State := { up with safety := { up.safety with fatal := true } }

theorem witness_RestartsAndResets :
    imageHolds (warmSnuff (warmStop up)) = true ∧
    (let s := { up with boot := { up.boot with header := bytesWith 64 [(0, 4, 0x4C4C4B49), (56, 4, 1)] } };
        imageHolds (warmSnuff (warmStop s)) = false) ∧
    (∀ s : State, s = up ∨ s = fatal → Requested 0xF0 none 8 0 (frame (restartReq s) 8) (restartReq s) (taken (restartReq s))) ∧
    canRestart (restartReq up) = true ∧ canRestart (restartReq fatal) = false ∧ bitAt (1 : Word) 1 = false ∧ llServes up = true ∧
    llServes State.reset = false ∧ (∀ x ∈ up.host.owed, x.2.fc < 4) ∧ bitAt up.boot.partBusy 0 = false ∧
    bitAt ({ up with boot := { up.boot with partBusy := 0x80 } }).boot.partBusy 7 = true ∧
    ((withJob aJob).host.jobs.filter (fun x => decide (x.part = 0)) = [aJob] ∧ aJob.fail = none) ∧
    ((withQueue (queueOf 1 none)).host.queues = [queueOf 1 none] ∧ (queueOf 1 none).part ≠ 1 ∧ (withQueue (queueOf 1 none)).host.jobs = []) := by
  refine ⟨by decide +kernel, by decide +kernel, ?_, by decide, by decide, by decide, by decide, by decide, by decide, by decide, by decide,
    by decide +kernel, by decide +kernel⟩
  rintro s (rfl | rfl) <;> exact requested (by decide)

theorem witness_RegionResetByState :
    (∀ x : BitVec 3, x = 1 ∨ x = 2 ∨ x = 3 ∨ x = 4 → let s := modRegion 7 (fun r => { r with state := x }) (withLoad (some (pathLoad 2 0)) [])
      fxHolds s 7 = false ∧ (s.fabric.regions[(7 : RegionId)]).state = x ∧ s.fabric.load = some (pathLoad 2 0) ∧ (pathLoad 2 0).region = 7) ∧
    fxHolds (fxc (fun f => { f with run := some (fxRun true false) })) 5 = true := by
  refine ⟨?_, by decide⟩
  rintro x (rfl | rfl | rfl | rfl) <;> decide

/-- A scrub of a block runs. -/
def worldBusy (kind index : Nat) : State := { up with boot := { up.boot with worldBusy := some (BitVec.ofNat 2 kind, BitVec.ofNat 3 index, true) } }

theorem witness_WorldChangesScrub :
    (∀ x : Nat × Nat, x = (0, 0) ∨ x = (0, 5) ∨ x = (1, 7) ∨ x = (2, 3) → let val : Word := BitVec.ofNat 32 (x.1 + 4 * x.2 + 32)
      worldOf up (fld val 0 2) (fld val 2 3) = some false ∧ bitAt val 5 ≠ false ∧ bitAt (val ^^^ 32) 5 = false ∧ up.boot.worldBusy = none ∧
      worldInUse up (fld val 0 2) (fld val 2 3) = false ∧ (worldBusy x.1 x.2).boot.worldBusy.isSome = true) ∧
    (worldBusy 0 5).boot.worldBusy = some (0, BitVec.ofNat 3 (5 : CoreId).val, true) ∧
        (worldBusy 1 7).boot.worldBusy = some (1, BitVec.ofNat 3 (7 : RegionId).val, true) ∧
    (worldBusy 2 3).boot.worldBusy = some (2, BitVec.ofNat 3 (3 : LinkId).val, true) ∧
    (let s := modCore 5 (fun k => { k with retained := true }) (modPort 0 (fun x => { x with ctrl := 0xB }) up); inService s 5 = true ∧
      (s.cores[(5 : CoreId)]).retained = true ∧ coreWanted s 5 = true) := by
  refine ⟨?_, by decide, by decide, by decide, by decide +kernel⟩
  rintro x (rfl | rfl | rfl | rfl) <;> decide

/-! ### Witnesses: retirement, disabling, findings, faults of a region -/

/-- Two transfers out, the first ending a run; each run's arrival is counted at token 3. -/
def twoOut (fault : Nat) : DxRun :=
  { dxr with cfg := dxCfg.setIfInBounds 24 0x4300, run := 2, fault := fault, out := [xfer .core, { xfer .core with run := 1, done := 2 }] }

theorem witness_DxCommandRuns_retires : ∀ f : Nat, f = 0 ∨ f = 3 →
    (dxChan (dx0 (twoOut f)) 0 0).run = some (twoOut f) ∧ dxNth (twoOut f).out 0 = some 0 ∧ dxNth (twoOut f).out 1 = some 1 ∧
    (∀ y, (twoOut f).out.head? = some y → y.acked = false) ∧ (∀ y ∈ (twoOut f).out.tail, y.acked = false) ∧
    (twoOut f).runsAcked < (xfer .core).done ∧ dxAvEn (twoOut f).cfg = true ∧ dxAvEn dxCfg = false ∧
    dxCounters (dx0 (twoOut f)) 0 go (twoOut f).cfg (dxAvTok (twoOut f).cfg) = [(0, 3)] ∧ (tok (dx0 (twoOut f)) 0 3).toNat + 1 ≤ 65535 := by
  rintro f (rfl | rfl) <;> decide +kernel

theorem witness_DxCommandRuns_entry :
    dxEntryBad up 0 dxr = false ∧ (let cfg := dxCfg.setIfInBounds 0 0x1241; let r := { dxr with cfg := cfg };
      let s := dx0 r; dxEntryBad { s with safety := { s.safety with poison := [(.core 0, dxIdx cfg)] } } 0 r = true) := by decide +kernel

theorem witness_HalosWork_disables : ∀ src : Nat, src = 0 ∨ src = 1 ∨ src = 2 →
    let s := hb0 2 (hbOn ||| BitVec.ofNat 32 (2 * src)) { up with links := { up.links with routes := up.links.routes.set 0 (some 3) } };
    hbEnabled (hbOf s 0 2) = true ∧ fld (hbOf s 0 2).ctrl 1 2 = src ∧ ringPrev s 0 ≠ 0 ∧ ringNext s 0 ≠ 0 ∧
    (s.links.routes[fld (hbOf s 0 2).ctrl 3 5]?).join = some 3 ∧ bitAt hbOn 0 = true ∧ bitAt hbOn 31 = false := by
  rintro src (rfl | rfl | rfl) <;> decide +kernel

/-- A memory of each kind is there once its domain is up. -/
theorem witness_DiagnosisAndScrub_memories :
    let s := configured 7 { up with boot := { up.boot with pdAon := true, pdLnk := 0xF } };
    ∀ m : MemName, m = .curve 5 ∨ m = .dmem 5 ∨ m = .bram 7 ∨ m = .replayBuf 3 ∨ m = .llImem ∨ m = .llDmem ∨ m = .acc 5 ∨ m = .wbuf 5 ∨
        m = .bank 5 true → wordThere s m 8 = true ∧ 8 + 8 ≠ memSize m ∧ (m, 8) ∉ s.safety.poison ∧ (m, 8) ∉ s.safety.uncorrAt ∧
      (m, 8) ∈ ({ s with safety := { s.safety with uncorrAt := [(m, 8)] } }).safety.uncorrAt := by
  rintro s m (rfl | rfl | rfl | rfl | rfl | rfl | rfl | rfl | rfl) <;> decide

theorem witness_DiagnosisAndScrub_poisoned : let s := { up with safety := { up.safety with poison := [(.core 0, 8)] } };
    wordThere s (.core 0) 8 = true ∧ (MemName.core 0, 8) ∈ s.safety.poison := by decide

theorem witness_MarginsAreKept_relock :
    (let s := withJob aJob { up with tick := { up.tick with binPend := some 4, binDue := true } };
      relockCores s = [0] ∧ (s.cores[(0 : CoreId)]).phase = .live ∧ s.tick.binPend = some 4 ∧ s.tick.binDue = true ∧ offsetPending s = false) ∧
    (let h := haltCond 0x0F 6 0 1; let s := { k5 (fun k => { k with phase := .halted h }) with tick := { up.tick with relock := some (7, [5]) } };
      s.tick.relock = some (7, [5]) ∧ (0 : CoreId) ∉ ([5] : List CoreId) ∧ jobWaits s 5 = false ∧ (s.cores[(5 : CoreId)]).phase = .halted h ∧
      h.code = 0x0F ∧ haltFails h = false) ∧
    (let s := withJob { aJob with phase := .paused } (k5 (fun k => { k with ctl := { k.ctl with job := 1 } })); jobWaits s 5 = true) := by
  decide +kernel

theorem witness_FabricTakesLoads_mailbox : let r := { fxRun false false with waitLoad := true }
    (pathLoad 1 2560).path = 1 ∧ ((fxc (fun f => { f with run := some r })).cores[(5 : CoreId)]).fx.run = some r ∧ r.waitLoad = true ∧
    (5 : CoreId).val = (5 : RegionId).val ∧ (∀ hz : (5 : RegionId).val < 6, (up.cores[(⟨(5 : RegionId).val, hz⟩ : CoreId)]).fx.run = none) ∧
    ((configured 5).fabric.regions[(5 : RegionId)]).state = 2 ∧ (configured 5).fabric.load = none := by decide

theorem witness_RegionEvents_faults :
    (∀ d : Bool, let r := fxRun true d; let s := fxc (fun f => { f with run := some r }); (s.fabric.regions[(5 : RegionId)]).state = 2 ∧
      s.fabric.load = none ∧ (s.cores[(5 : CoreId)]).fx.run = some r ∧ r.done = d ∧ jobUnacked s (s.cores[(5 : CoreId)]).ctl.job = false) ∧
    ((configured 5).cores[(5 : CoreId)]).fx.run = none ∧ timerRuns (timed 1 5) 3 1 = true ∧
    (((timed 1 5).fabric.timers[3]).region).val = (5 : CoreId).val := by
  refine ⟨?_, by decide, by decide, by decide⟩
  rintro (_ | _) <;> decide

theorem witness_StartupAndBoot_findings :
    let s := { up with boot := { up.boot with state := 1 } }
    let found : BistFinding := ⟨(List.range 9).map (fun j => (5, 0, Fin.ofNat 128 j)) ++ [(4, 1, 3)], [(5, 1)], [2]⟩
    s.boot.state = 1 ∧ s.boot.bistDone = false ∧ s.boot.releaseSeen = false ∧ corePresent s.grade 5 = true ∧ corePresent .s94 5 = false ∧
    arrayPresent s.grade 1 = true ∧ 8 < popcount 128 (foundMap found 5 0).toNat ∧ ((5, 1) : CoreId × ArrId) ∈ found.arrays ∧
    popcount 128 (foundMap found 4 1).toNat ≤ 8 ∧ ((4, 1) : CoreId × ArrId) ∉ found.arrays ∧ (2 : CoreId) ∈ found.cores := by decide +kernel

/-- Both slots hold an image, slot B the newer one. -/
def bothSlots : State := { slotted 1 with staging := memStore (slotted 1).staging 0 (imageOf 0) }

theorem witness_StartupAndBoot_copies :
    (let s := slotted 1; s.boot.state = 2 ∧ slotOrder s (slotCode s 0) (slotCode s 1) = [1] ∧ bitAt (2 : BitVec 2) 1 = true) ∧
    (let s := bothSlots; s.boot.state = 2 ∧ slotOrder s (slotCode s 0) (slotCode s 1) = [1, 0] ∧ bitAt (2 : BitVec 2) 0 = false ∧
      bitAt (3 : BitVec 2) 0 = true ∧ s.host.sent = []) := by decide +kernel

theorem witness_WorldChangesScrub_fatal : up.safety.fatal = false ∧ fatal.safety.fatal = true ∧
    ({ fatal with boot := (worldBusy 0 5).boot }).boot.worldBusy = some (0, BitVec.ofNat 3 (5 : CoreId).val, true) := by decide

/-! ### WellFormed: a command for each check, refused -/

theorem wellformed_refuses :
    (Instr.registerWrite plain 0x106 .b32 0).wf = false ∧ (Instr.registerWrite plain 0x104 .b64 0).wf = false ∧
    (Instr.configSetWrite plain 2 0).wf = false ∧ (Instr.streamLineArrival 0 0 (lineOf 0)).wf = false ∧
    (Instr.arrayFault 0 ⟨1, 0, 0, 0, .row 0, none⟩).wf = false ∧ (Instr.arrayFault 0 ⟨1, 5, 0, 0, .row 0, none⟩).wf = false ∧
    (Instr.arrayFault 0 ⟨0, 1, 0, 0, .row 0, none⟩).wf = false ∧ (Instr.engineFault 0 (.vec .vx 0 none)).wf = false ∧
    (Instr.engineFault 0 (.vec .wx 2 none)).wf = false ∧ (Instr.dxFault 0 0 ⟨0, none⟩).wf = false ∧ (Instr.dxFault 0 0 ⟨6, none⟩).wf = false ∧
    (Instr.ctlWait 0 (.space 0 0)).wf = false ∧ (Instr.ctlWait 0 (.space 0 65)).wf = false ∧
    (Instr.ctlLockstepMismatch 0 0).wf = false ∧ (Instr.ctlLockstepMismatch 0 6).wf = false ∧
    (Instr.imemWrite 0 false 0x20000 [0]).wf = false ∧ (Instr.dataFlitReceive 0 []).wf = false ∧
    (Instr.controlFlitReceive 0 (0 :: List.replicate 256 0)).wf = false ∧ (Instr.bramUncorr 0 0 0x4000).wf = false := by decide +kernel

theorem wellformed_refuses_a_line_that_is_too_long : (Instr.streamLineArrival 0 0 (lineOf 16369)).wf = false := by
  have h : (lineOf 16369).payload.length = 16369 := List.length_replicate
  simp only [Instr.wf, h]; decide

theorem wellformed_accepts : (Instr.registerWrite plain 0x108 .b64 0).wf = true ∧ (Instr.arrayFault 0 ⟨1, 4, 0, 0, .row 0, none⟩).wf = true ∧
    (Instr.ctlWait 0 (.space 0 64)).wf = true ∧ (Instr.imemWrite 0 false 0x1FFFF [0]).wf = true ∧ (Instr.bramUncorr 0 0 0x3FFF).wf = true := by decide

/-! ### Worked numbers of the spec -/

/-- What a command does. -/
def after (i : Instr) (s : State) : State := match exec i s with | .next t => t | _ => s

/-- 02_numbers.md, the worked decode of a weight row. -/
theorem test_bg4_worked_row : bg4Row bg4Default [0x3F, 0xA8] = [-127, 40, 0, -26] := by decide

/-- 02_numbers.md, the worked curve: segment 29 with slope 128, csh 10 and offset −384 takes −3,000 to −375. -/
theorem test_curve_worked : curveStep (List.replicate 116 0 ++ leBytes 4 (0xFE80 + 128 * 2 ^ 16 + 10 * 2 ^ 28)) (-3000) = -375 := by decide

/-- 02_numbers.md, the worked requantisation: T 39,851, sh 31, mantissa 103, bias −1,205, zero point 12, u8. -/
theorem test_requant_worked : requant ⟨39851, 31, 0, false, 0, true, 12⟩ [] 18437 (-1205) 103 = 45 := by decide

/-- 02_numbers.md, the worked s16 input: −148 overwrites with shift 8, then 888 accumulates. -/
theorem test_s16_input_worked : mergeValue 0 1 5 (-148) = -37888 ∧ mergeValue 1 0 (-37888) 888 = -37000 := by decide

/-- 02_numbers.md, the worked zero-range channel and its neighbour. -/
theorem test_range_worked : encodeRange 4812 4812 40000 24 = ⟨4812, 1, 0⟩ ∧ encodeRange (-310) 9870 40000 24 = ⟨-310, 10, 0⟩ ∧
    roundHalfEven (10180 * 400000) 24 = 243 := by decide

/-- 08_data_movement.md, the worked block: zero code 0x0C, three bytes that differ. -/
theorem test_zc64_block_worked :
    zcBlock 0x0C ((((List.replicate 64 (0x0C : Byte)).set 3 0x40).set 17 0x0D).set 40 0x91) = [8, 0, 2, 0, 0, 1, 0, 0, 0x40, 0x0D, 0x91] := by decide

/-- 03_arrays.md, the worked bypass of columns 17 and 90. -/
theorem test_bypass_worked : let map : BitVec 128 := BitVec.ofNat 128 (2 ^ 17 + 2 ^ 90)
    cEff map = 126 ∧ [16, 17, 88, 89, 125].map (physCol map) = [16, 18, 89, 91, 127] := by decide +kernel

/-- 08_data_movement.md: a page wholly at the zero code has crc8 0xFF. The CRC-32C of the digits 1 to 9 is the published check value. -/
theorem test_crcs : crc8 [] = 0xFF ∧ crc32c [0x31, 0x32, 0x33, 0x34, 0x35, 0x36, 0x37, 0x38, 0x39] = 0xE3069283 := by decide +kernel

/-- 10_control_cores.md, the worked packet in MX's queue. -/
def workedPacket : QSlot := ⟨[0x6C8, 0x20043, 0x01450144, 0x40, 0x7F7880, 0x57, 0x3C0], 7, some 0, false, 1⟩

/-- The worked packet: it starts set 1 after token 3 reaches 2, posts 1 to tokens 4 and 5, and writes MX_SHAPE and MX_AG7. -/
theorem test_packetTake_worked :
    let k := (after (.packetTake 0 0 false) (queued 0 0 [workedPacket])).cores[(0 : CoreId)]
    k.mx.taken = some ⟨1, 0, 0, 1, true, some (3, 2), 3, some (4, 1), some (5, 1), 0, 0⟩ ∧
    reg k.mx.sets[(1 : SetId)] 0 = 0x7F7880 ∧ reg k.mx.sets[(1 : SetId)] 0x5C = 0x3C0 := by decide +kernel

/-- 10_control_cores.md, the worked halt record: partition 2, tag 0x0135, set 3, check 3 of Table 03.8 at pass 0. -/
theorem test_haltComplete_worked :
    let s := after (.haltComplete 0) (withJob { aJob with part := 2, tag := 0x135 }
      (k0 (fun k => { k with phase := .halting (mxHalt 0x11 3 1 3 0) none 0, ctl := { k.ctl with
          running := true, part := 2, tag := 0x135, job := 1 } })))
    regValue s (coreOff 0 0x4504) = 0x81355811 ∧ regValue s (coreOff 0 0x4508) = 0x3118 := by decide

/-- R11: a write of 64 bits writes two registers, the lower address first. -/
theorem test_registerWrite_halves :
    let s := after (.registerWrite sec 0x410 .b64 0x0000012300000045) up; regValue s 0x410 = 0x45 ∧ regValue s 0x414 = 0x123 := by decide

/-- R18: each cause written as 1 clears, the others stay. -/
theorem test_registerWrite_w1c :
    let s := { up with bnd := { up.bnd with gintStatus := 0x7 } }; (after (.registerWrite sec 0x104 .b32 0x5) s).bnd.gintStatus = 2 := by decide

end Sys2Proof.Tests
end

section
/-! PROOFS. Data movement (R182): numbers given by their bits, little-endian bytes, and the record of a ZC64 block. -/
namespace Sys2Proof.Machine
open Sys2Proof

/-! ### Numbers given by their bits -/

theorem b2n_eq_toNat (b : Bool) : b2n b = b.toNat := by
  cases b <;> rfl

/-- One more bit is one more power of two. -/
theorem bitNum_succ (n : Nat) (f : Nat → Bool) : bitNum (n + 1) f = 2 ^ n * b2n (f n) + bitNum n f := by
  simp [bitNum, List.range_succ, Nat.mul_comm, Nat.add_comm]

theorem bitNum_lt_two_pow (n : Nat) (f : Nat → Bool) : bitNum n f < 2 ^ n := by
  induction n with
  | zero => simp [bitNum]
  | succ n ih =>
    have hb : 2 ^ n * (f n).toNat ≤ 2 ^ n * 1 := Nat.mul_le_mul_left _ (Bool.toNat_le (f n))
    rw [bitNum_succ, b2n_eq_toNat, Nat.pow_succ]
    omega

/-- The bits of the number are the tests, and there is none from n on. -/
theorem testBit_bitNum (n : Nat) (f : Nat → Bool) (i : Nat) : (bitNum n f).testBit i = (decide (i < n) && f i) := by
  induction n with
  | zero => simp [bitNum]
  | succ n ih =>
    rw [bitNum_succ, Nat.testBit_two_pow_mul_add _ (bitNum_lt_two_pow n f), b2n_eq_toNat, Nat.testBit_bool_toNat, ih]
    rcases Nat.lt_trichotomy i n with h | h | h
    · simp [h, Nat.lt_succ_of_lt h]
    · simp [h]
    · simp [show ¬ i < n by omega, show ¬ i < n + 1 by omega, show i - n ≠ 0 by omega]

theorem popcount_le (n m : Nat) : popcount n m ≤ n := by
  simpa [popcount, bitsOf] using List.length_filter_le (fun i => m.testBit i) (List.range n)

/-! ### Little-endian bytes (R5) -/

@[simp] theorem length_leBytes (n v : Nat) : (leBytes n v).length = n := by
  induction n generalizing v with
  | zero => rfl
  | succ n ih => simp [leBytes, ih]

theorem leNat_leBytes (n v : Nat) : leNat (leBytes n v) = v % 2 ^ (8 * n) := by
  induction n generalizing v with
  | zero => simp [leBytes, leNat, Nat.mod_one]
  | succ n ih =>
    calc leNat (leBytes (n + 1) v) = v % 256 + 256 * (v / 256 % 2 ^ (8 * n)) := by
          rw [leBytes, leNat, ih, BitVec.toNat_ofNat]
      _ = v % (256 * 2 ^ (8 * n)) := Nat.mod_mul.symm
      _ = v % 2 ^ (8 * (n + 1)) := by rw [Nat.mul_succ, Nat.pow_add, Nat.mul_comm]

/-! ### The record of a ZC64 block (R182) -/

/-- Whether byte i of a block differs from the zero code; a place beyond the block counts as the zero code. -/
def zcDiffers (z : Byte) (bs : List Byte) (i : Nat) : Bool := decide (bs[i]?.getD z ≠ z)

/-- The mask of a block. -/
def zcMask (z : Byte) (bs : List Byte) : Nat := bitNum 64 (zcDiffers z bs)

/-- The model's sum of powers of two is the number whose bits say which bytes differ. -/
theorem zcBlock_eq (z : Byte) (bs : List Byte) :
    zcBlock z bs = leBytes 8 (zcMask z bs) ++ bs.filter (fun b => decide (b ≠ z)) := by
  have hterm (i : Nat) : (if bs[i]?.getD z = z then 0 else 2 ^ i) = b2n (zcDiffers z bs i) * 2 ^ i := by
    by_cases h : bs[i]?.getD z = z <;> simp [zcDiffers, b2n, h]
  simp only [zcBlock, zcMask, bitNum, hterm, List.sum_eq_foldl]

theorem zcMask_lt (z : Byte) (bs : List Byte) : zcMask z bs < 2 ^ 64 := bitNum_lt_two_pow 64 _

theorem testBit_zcMask {i : Nat} (z : Byte) (bs : List Byte) (hi : i < 64) : (zcMask z bs).testBit i = zcDiffers z bs i := by
  simp [zcMask, testBit_bitNum, hi]

theorem zcDiffers_iff {i : Nat} {z : Byte} {bs : List Byte} (hi : i < bs.length) :
    zcDiffers z bs i = true ↔ bs[i]? ≠ some z := by
  simp [zcDiffers, hi]

theorem map_getD_range (z : Byte) (bs : List Byte) : (List.range bs.length).map (fun i => bs[i]?.getD z) = bs :=
  List.ext_getElem (by simp) (fun i _ h => by simp [h])

/-- The bytes that differ stand in ascending order of the mask's bits. -/
theorem filter_ne_eq_map_bitsOf_zcMask {z : Byte} {bs : List Byte} (hlen : bs.length = 64) :
    bs.filter (fun b => decide (b ≠ z)) = (bitsOf 64 (zcMask z bs)).map (fun i => bs[i]?.getD z) := by
  have hbits : bitsOf 64 (zcMask z bs) = (List.range 64).filter (zcDiffers z bs) :=
    List.filter_congr (fun i hi => testBit_zcMask z bs (List.mem_range.mp hi))
  calc bs.filter (fun b => decide (b ≠ z))
      = ((List.range 64).map (fun i => bs[i]?.getD z)).filter (fun b => decide (b ≠ z)) := by
        rw [← hlen, map_getD_range]
    _ = ((List.range 64).filter (zcDiffers z bs)).map (fun i => bs[i]?.getD z) := List.filter_map
    _ = (bitsOf 64 (zcMask z bs)).map (fun i => bs[i]?.getD z) := by rw [hbits]

/-- The first 8 bytes of a record spell the mask. -/
theorem leNat_take_zcBlock (z : Byte) (bs : List Byte) : leNat ((zcBlock z bs).take 8) = zcMask z bs := by
  rw [zcBlock_eq, List.take_left' (length_leBytes 8 _), leNat_leBytes, Nat.mod_eq_of_lt (zcMask_lt z bs)]

theorem length_zcBlock {z : Byte} {bs : List Byte} (hlen : bs.length = 64) :
    (zcBlock z bs).length = 8 + popcount 64 (zcMask z bs) := by
  rw [zcBlock_eq, List.length_append, length_leBytes, filter_ne_eq_map_bitsOf_zcMask hlen, List.length_map, popcount]

end Sys2Proof.Machine

open Sys2Proof Sys2Proof.Machine

/-- Settles O23: the mask is the number whose bits are the tests of the bytes, so its bits, its little-endian bytes and the bytes that its bits select are
those of the record. -/
theorem blockCompressesToMask : Obligations.BlockCompressesToMask := by
  intro z bs hlen
  have hlength := length_zcBlock (z := z) hlen
  have hpop := popcount_le 64 (zcMask z bs)
  refine ⟨zcMask z bs, zcMask_lt z bs, fun i hi => ?_, ?_, leNat_take_zcBlock z bs, hlength, by omega, by omega⟩
  · rw [testBit_zcMask z bs hi, zcDiffers_iff (hlen.symm ▸ hi)]
  · rw [zcBlock_eq, filter_ne_eq_map_bitsOf_zcMask hlen, bitsOf]

end

section
/-! PROOFS. Mailboxes (R265 to R269): bytes of a frame, the Lamplighter's service of the one request sent, and MB_MARGIN_REPORT (R332). -/
namespace Sys2Proof.Machine
open Sys2Proof

/-! ### Bytes of a frame -/

@[simp] theorem length_reqBytes (r : Vector Word 16) : (reqBytes r).length = 64 := by
  simp [reqBytes, List.length_flatMap, List.map_const']

theorem leNat_eq_zero_iff (bs : List Byte) : leNat bs = 0 ↔ ∀ b ∈ bs, b = 0 := by
  induction bs with
  | nil => simp [leNat]
  | cons b bs ih =>
    have hb : b.toNat = 0 ↔ b = 0 := by simp [BitVec.toNat_eq]
    rw [List.forall_mem_cons, ← ih, ← hb, leNat]
    omega

/-- Reserved bytes that the check of R267 finds zero. -/
theorem getElem?_of_zeroFrom {b : List Byte} {off i : Nat} (hlen : b.length = 64) (hz : zeroFrom b off = true) (hoff : off ≤ i) (hi : i < 64) :
    b[i]? = some 0 := by
  have hi' : i < b.length := by omega
  have hall : ∀ x ∈ (b.drop off).take (64 - off), x = 0 := by
    simpa [zeroFrom, frameNum, leNat_eq_zero_iff] using hz
  have hmem : b[i] ∈ (b.drop off).take (64 - off) := by
    rw [List.take_of_length_le (by simp [hlen]), List.mem_drop_iff_getElem]
    exact ⟨i - off, by omega, by simp [Nat.add_sub_cancel' hoff]⟩
  rw [List.getElem?_eq_getElem hi', hall _ hmem]

/-- A reply whose results fill its frame is padded with nothing (Table 12.2). -/
theorem replyBytes_of_full {b results : List Byte} (hb : 4 ≤ b.length) (hres : results.length = 52) (status detail : Nat) :
    replyBytes b status detail results = b.take 4 ++ leBytes 4 status ++ leBytes 4 detail ++ results := by
  have hlen : (b.take 4 ++ leBytes 4 status ++ leBytes 4 detail ++ results).length = 64 := by simp [hres, hb]
  simp only [replyBytes, hlen, Nat.sub_self, List.replicate_zero, List.append_nil]
  exact List.take_of_length_le hlen.le

theorem drop_replyBytes_of_full {b results : List Byte} (hb : 4 ≤ b.length) (hres : results.length = 52) (status detail : Nat) :
    (replyBytes b status detail results).drop 12 = results := by
  rw [replyBytes_of_full hb hres]
  exact List.drop_left' (by simp [hb])

/-- Result byte i of a reply stands at byte 12 + i. -/
theorem getElem?_replyBytes_of_full {b results : List Byte} (hb : 4 ≤ b.length) (hres : results.length = 52) (status detail i : Nat) :
    (replyBytes b status detail results)[12 + i]? = results[i]? := by
  rw [← List.getElem?_drop, drop_replyBytes_of_full hb hres]

/-! ### The Lamplighter's service (R265 to R269) -/

theorem frameStatus_none_argsOk {s : State} {m : MboxId} {b : List Byte} (h : frameStatus s m b = none) :
    argsOk s (frameNum b 0 2) b = true := by
  by_contra hargs
  simp only [frameStatus, hargs, not_false_eq_true, true_or, or_true, if_true] at h
  split_ifs at h

@[simp] theorem reply_sent (m : MboxId) (status detail : Nat) (results : List Byte) (s : State) :
    (reply m status detail results s).host.sent = s.host.sent := by
  unfold reply modMb
  split <;> rfl

/-- What a reply leaves in its mailbox (R265). -/
theorem mbOf_reply (m : MboxId) (status detail : Nat) (results : List Byte) (s : State) :
    mbOf (reply m status detail results s) m = { mbOf s m with
      rep := frameWords (replyBytes (reqBytes (mbOf s m).req) status detail results), busy := false, replyValid := true } := by
  by_cases hm : m.val < 8
  · simp only [reply, modMb, mbOf, if_pos hm, setPtInt_same, modPart_same]
  · simp only [reply, modMb, mbOf, if_neg hm, setSmInt]

/-- With no request sent, there is none to take. -/
theorem drain_of_sent_nil {s : State} (h : s.host.sent = []) : drain s = s := by
  have hold : oldest s = none := by simp [oldest, h]
  simp [drain, drainLoop, hold]

/-- The Lamplighter stops at a request whose opcode decides. -/
theorem drain_of_oldest {s : State} {m : MboxId} {b : List Byte} (hold : oldest s = some (m, b)) (hok : frameStatus s m b = none) :
    drain s = s := by
  simp [drain, drainLoop, hold, hok]

/-- The one request sent is acted on, and nothing is left to take. -/
theorem serve_requested {op : Nat} {sub : Option Nat} {m : MboxId} {p : PartId} {b : List Byte} {s u : State}
    (h : Requested op sub m p b s u) (act : MboxId → PartId → List Byte → State → State) : serve op sub act s = drain (act m p b u) := by
  obtain ⟨hserves, hsent, rfl, rfl, hop, hsub, hok, rfl⟩ := h
  have hold : oldest s = some (m, reqBytes (mbOf s m).req) := by simp [oldest, hsent]
  have htaken : takeRequest s = { s with host := { s.host with sent := [] } } := by simp [takeRequest, hsent]
  simp only [serve, drain_of_oldest hold hok, hold, hserves, hop, hsub, hok, htaken, and_self, if_true]

/-! ### MB_MARGIN_REPORT (R332) -/

/-- The results of MB_MARGIN_REPORT. -/
def marginResults (s : State) : List Byte :=
  [s.bnd.vofsCode.setWidth 8, s.safety.bin.setWidth 8, BitVec.ofNat 8 (b2n s.safety.exhausted + 2 * b2n s.tick.binPend.isSome),
      marginGuard s] ++ s.safety.slack.toList.map (fun x => x.sinceRun) ++ leBytes 4 ((nowUs s - s.safety.lastRun) / 1000000)

theorem mbMarginReport_eq (m : MboxId) (p : PartId) (b : List Byte) (s : State) :
    mbMarginReport m p b s = reply m 0 0 (marginResults s) s := rfl

theorem length_marginResults (s : State) : (marginResults s).length = 52 := by simp [marginResults]

/-- The minimum of monitor n stands behind the four bytes of the head. -/
theorem getElem?_marginResults_slack (s : State) (n : Fin 44) : (marginResults s)[4 + n.val]? = some (s.safety.slack[n]).sinceRun := by
  simp [marginResults, List.getElem?_append, Nat.add_comm 4]

/-- The seconds since the last run stand at the end. -/
theorem drop_marginResults (s : State) : (marginResults s).drop 48 = leBytes 4 ((nowUs s - s.safety.lastRun) / 1000000) :=
  List.drop_left' (by simp)

end Sys2Proof.Machine

open Sys2Proof Sys2Proof.Machine

/-- Settles O33: the request is the only one sent, so the Lamplighter acts on it alone; its results fill the reply's frame, so that each stands
at its own place. -/
theorem marginReportAnswersTable : Obligations.MarginReportAnswersTable := by
  intro m p b s u hreq
  have hserve := (serve_requested hreq mbMarginReport).trans (congrArg drain (mbMarginReport_eq m p b u))
  obtain ⟨-, -, rfl, -, hop, -, hok, rfl⟩ := hreq
  have hzero : zeroFrom (reqBytes (mbOf s m).req) 8 = true := by simpa [hop, argsOk] using frameStatus_none_argsOk hok
  have hlen : 4 ≤ (reqBytes (mbOf s m).req).length := by simp
  have hres := length_marginResults s
  have hbyte := getElem?_replyBytes_of_full hlen hres 0 0
  refine ⟨fun i h8 hi => getElem?_of_zeroFrom (length_reqBytes _) hzero h8 hi, marginResults s, _, ?_, rfl, mbOf_reply m 0 0 _ _,
    hbyte 0, hbyte 1, hbyte 2, hbyte 3, fun n => ?_, ?_, ?_⟩
  · exact congrArg Host.Outcome.next (hserve.trans (drain_of_sent_nil (reply_sent ..)))
  · rw [show 16 + n.val = 12 + (4 + n.val) by omega, hbyte, getElem?_marginResults_slack]
  · rw [frameNum, show 60 = 12 + 48 from rfl, ← List.drop_drop, drop_replyBytes_of_full hlen hres, drop_marginResults,
      List.take_of_length_le (length_leBytes 4 _).le, leNat_leBytes]
  · simp [replyBytes_of_full hlen hres, hres]

end

section
/-! PROOFS. Engine faults (R311): what a record of class FC_ENGINE leaves, and which shared operations keep what is remembered of such faults. -/
namespace Sys2Proof.Machine
open Sys2Proof

/-! ### Records of FC_ENGINE faults (R311) -/

/-- The FC_ENGINE faults of the last 10 s that are remembered. -/
def recentEngineFaults (s : State) : List Nat := s.safety.engTimes.filter (fun t => decide (nowUs s ≤ t + 10000000))

theorem recordedClass_engine {r : RecIn} (he : r.event = false) (hf : r.fc = 4) (s : State) :
    recordedClass r s = if 2 ≤ (recentEngineFaults s).length then 5 else 4 := by
  simp only [recordedClass, recentEngineFaults, he, hf]
  rfl

@[simp] theorem ksafeStop_engTimes (code : Nat) (s : State) : (ksafeStop code s).safety.engTimes = s.safety.engTimes := by
  unfold ksafeStop
  dsimp only
  split <;> rfl

@[simp] theorem ksafeStop_fatal (code : Nat) (s : State) : (ksafeStop code s).safety.fatal = s.safety.fatal := by
  unfold ksafeStop
  dsimp only
  split <;> rfl

@[simp] theorem ksafeStop_owed (code : Nat) (s : State) : (ksafeStop code s).host.owed = s.host.owed := by
  unfold ksafeStop
  dsimp only
  split <;> rfl

@[simp] theorem postRecord_owed (r : RecIn) (s : State) : (postRecord r s).host.owed = s.host.owed := by
  obtain ⟨_, _, _, _, h, _⟩ := postRecord_changes r s; rw [h]

/-- The state once a record stands in its rings, before it enters the log. -/
def afterRings (r : RecIn) (s : State) : State :=
  let bits := recordBits { r with fc := recordedClass r s } s.safety.seq.toNat (nowUs s)
  match r.toPart with
  | some p => ringWrite p bits s
  | none => forAll ((List.finRange 8).filter (fun p : PartId => (s.host.parts[p]).enabled)) (fun p => ringWrite p bits) s

theorem afterRings_changes (r : RecIn) (s : State) : ∃ x, afterRings r s = s.withRing x := by
  unfold afterRings
  dsimp only
  split
  · exact (ringWrite_changes _ _ s).imp fun _ h => h.1
  · exact (rings_change _ _ s).imp fun _ h => h.1

/-- A record's rings leave the clock and the safety window. -/
theorem afterRings_safety (r : RecIn) (s : State) : nowUs (afterRings r s) = nowUs s ∧ (afterRings r s).safety = s.safety := by
  obtain ⟨x, hx⟩ := afterRings_changes r s
  rw [hx]
  exact ⟨rfl, rfl⟩

/-- An FC_ENGINE fault is remembered beside the recent ones; other records change nothing of it. -/
theorem postRecord_engTimes (r : RecIn) (s : State) : (postRecord r s).safety.engTimes =
    if r.event = false ∧ r.fc = 4 then nowUs s :: recentEngineFaults s else s.safety.engTimes := by
  obtain ⟨hnow, hsafety⟩ := afterRings_safety r s
  calc (postRecord r s).safety.engTimes
      = if ¬ r.event ∧ r.fc = 4 then nowUs (afterRings r s) :: recentEngineFaults (afterRings r s) else (afterRings r s).safety.engTimes := by
        unfold postRecord afterRings
        cases r.toPart <;> cases r.dangerous
        case none.false | some.false => rfl
        case none.true | some.true => exact ksafeStop_engTimes _ _
    _ = _ := by simp [recentEngineFaults, hnow, hsafety]

/-- A fault recorded as FC_FATAL begins the fatal hold. -/
theorem postRecord_fatal (r : RecIn) (s : State) :
    (postRecord r s).safety.fatal = (s.safety.fatal || decide (r.event = false ∧ recordedClass r s = 5)) := by
  obtain ⟨hnow, hsafety⟩ := afterRings_safety r s
  calc (postRecord r s).safety.fatal
      = ((afterRings r s).safety.fatal || decide (¬ r.event ∧ recordedClass r s = 5)) := by
        unfold postRecord afterRings
        cases r.toPart <;> cases r.dangerous
        case none.false | some.false => rfl
        case none.true | some.true => exact ksafeStop_fatal _ _
    _ = _ := by simp [hsafety]

/-- The third FC_ENGINE fault within 10 s is recorded as FC_FATAL. -/
theorem postRecord_third_engine {r : RecIn} {s : State} (he : r.event = false) (hf : r.fc = 4)
    (hrecent : 2 ≤ (recentEngineFaults s).length) : (postRecord r s).safety.fatal = true ∧ recordedClass r s = 5 := by
  have hclass : recordedClass r s = 5 := by rw [recordedClass_engine he hf, if_pos hrecent]
  exact ⟨by simp [postRecord_fatal, he, hclass], hclass⟩

/-- An earlier one is FC_ENGINE and is remembered. -/
theorem postRecord_early_engine {r : RecIn} {s : State} (he : r.event = false) (hf : r.fc = 4) (hfatal : s.safety.fatal = false)
    (hrecent : (recentEngineFaults s).length < 2) :
    (postRecord r s).safety.fatal = false ∧ recordedClass r s = 4 ∧ (postRecord r s).safety.engTimes.length ≤ 2 ∧
      nowUs s ∈ (postRecord r s).safety.engTimes := by
  have hclass : recordedClass r s = 4 := by rw [recordedClass_engine he hf, if_neg (by omega)]
  have htimes : (postRecord r s).safety.engTimes = nowUs s :: recentEngineFaults s := by
    rw [postRecord_engTimes, if_pos ⟨he, hf⟩]
  refine ⟨by simp [postRecord_fatal, hfatal, hclass], hclass, ?_, ?_⟩
  · rw [htimes, List.length_cons]; omega
  · rw [htimes]; exact List.mem_cons_self

/-! ### What is remembered of FC_ENGINE faults -/

/-- The FC_ENGINE faults remembered are those at these times, and no record that waits for writes of a job is of that class or a worse one. -/
def Remembers (times : List Nat) (s : State) : Prop := s.safety.engTimes = times ∧ ∀ x ∈ s.host.owed, x.2.fc < 4

/-- All that `Remembers` looks at. -/
abbrev State.faultMemory (s : State) : List Nat × List (Nat × RecIn) := (s.safety.engTimes, s.host.owed)

namespace Remembers
variable {times : List Nat} {s t : State}

/-- What changes neither the times nor the waiting records keeps the memory. -/
theorem of_eq (h : Remembers times s) (e : t.faultMemory = s.faultMemory) : Remembers times t := by
  obtain ⟨htimes, howed⟩ := Prod.ext_iff.mp e
  change t.host.owed = s.host.owed at howed
  exact ⟨htimes.trans h.1, howed ▸ h.2⟩

theorem ite {c : Prop} [Decidable c] (hs : Remembers times s) (ht : Remembers times t) : Remembers times (if c then s else t) := by
  split
  · exact hs
  · exact ht

theorem forAll {α : Type} {f : α → State → State} {l : List α} (h : Remembers times s)
    (hf : ∀ a u, Remembers times u → Remembers times (f a u)) : Remembers times (Machine.forAll l f s) :=
  forAll_inv (Remembers times) f hf l s h

/-! ### Updates of one unit -/

theorem modCore (h : Remembers times s) {c : CoreId} {f : Core → Core} : Remembers times (Machine.modCore c f s) := h.of_eq rfl
theorem modMx (h : Remembers times s) {c : CoreId} {f : Mx → Mx} : Remembers times (Machine.modMx c f s) := h.of_eq rfl
theorem modChan (h : Remembers times s) {c : CoreId} {ch : ChanId} {f : DxChan → DxChan} : Remembers times (Machine.modChan c ch f s) := h.of_eq rfl
theorem modDxRun (h : Remembers times s) {c : CoreId} {ch : ChanId} {f : DxRun → DxRun} : Remembers times (Machine.modDxRun c ch f s) := h.of_eq rfl
theorem modFx (h : Remembers times s) {c : CoreId} {f : Fx → Fx} : Remembers times (Machine.modFx c f s) := h.of_eq rfl
theorem modFxRun (h : Remembers times s) {c : CoreId} {f : FxRun → FxRun} : Remembers times (Machine.modFxRun c f s) := h.of_eq rfl
theorem modPart (h : Remembers times s) {p : PartId} {f : Partition → Partition} : Remembers times (Machine.modPart p f s) := h.of_eq rfl
theorem setPtInt (h : Remembers times s) {p : PartId} {m : BitVec 5} : Remembers times (Machine.setPtInt p m s) := h.of_eq rfl
theorem setGint (h : Remembers times s) {m : BitVec 12} : Remembers times (Machine.setGint m s) := h.of_eq rfl
theorem bumpGen (h : Remembers times s) : Remembers times (Machine.bumpGen s) := h.of_eq rfl
theorem modJob (h : Remembers times s) {id : Nat} {f : Job → Job} : Remembers times (Machine.modJob id f s) := h.of_eq rfl
theorem modQueue (h : Remembers times s) {q : Nat} {f : HostQueue → HostQueue} : Remembers times (Machine.modQueue q f s) := h.of_eq rfl
theorem modFence (h : Remembers times s) {a : Nat} {f : Fence → Fence} : Remembers times (Machine.modFence a f s) := h.of_eq rfl
theorem modRegion (h : Remembers times s) {z : RegionId} {f : Region → Region} : Remembers times (Machine.modRegion z f s) := h.of_eq rfl
theorem modFabric (h : Remembers times s) {f : Fabric → Fabric} : Remembers times (Machine.modFabric f s) := h.of_eq rfl
theorem atTime (h : Remembers times s) {n : Nat} : Remembers times (Machine.atTime n s) := h.of_eq rfl
theorem spend (h : Remembers times s) {c : CoreId} {d : Nat} : Remembers times (Machine.spend c d s) := h.of_eq rfl
theorem freshWords (h : Remembers times s) {m : MemName} {r : List (Nat × Nat)} : Remembers times (Machine.freshWords m r s) := h.of_eq rfl
theorem progress (h : Remembers times s) {c : CoreId} : Remembers times (Machine.progress c s) := h.of_eq rfl
theorem raiseHalt (h : Remembers times s) {c : CoreId} {x : HaltCond} : Remembers times (Machine.raiseHalt c x s) := h.of_eq rfl
theorem modRun (h : Remembers times s) {e : EntryId} {f : EntryRun → EntryRun} : Remembers times (Machine.modRun e f s) := by
  unfold Machine.modRun
  split <;> exact h.of_eq rfl

/-! ### Shared operations and records -/

theorem of_translate (h : Remembers times s) {secure : Bool} {asid va : Nat} {write : Bool} {x : Trans}
    (e : translate s secure asid va write = (x, t)) : Remembers times t := by
  obtain ⟨_, _, hs⟩ := translate_changes s secure asid va write
  rw [e] at hs
  exact h.of_eq (by rw [show t = _ from hs])

theorem of_writeFor (h : Remembers times s) {x : MemSite} {spa : Nat} {bs : List Byte} {b : Bool}
    (e : writeFor x spa bs s = (b, t)) : Remembers times t := by
  obtain ⟨_, _, _, _, hs, -⟩ := writeFor_changes x spa bs s
  rw [e] at hs
  exact h.of_eq (by rw [show t = _ from hs])

theorem ksafeStop (h : Remembers times s) {code : Nat} : Remembers times (Machine.ksafeStop code s) := h.of_eq (by simp)

/-- A record below FC_ENGINE is not remembered. -/
theorem postRecord (h : Remembers times s) {r : RecIn} (hr : r.fc < 4) : Remembers times (Machine.postRecord r s) := by
  have hfc : r.fc ≠ 4 := by omega
  exact h.of_eq (by simp [postRecord_engTimes, hfc])

theorem securityFault (h : Remembers times s) {unit index addr : Nat} : Remembers times (Machine.securityFault unit index addr s) :=
  (h.postRecord (r := { code := 0x0A, unit := unit, index := index, addr := addr }) (by simp)).of_eq rfl

/-- A record of a job below FC_ENGINE may wait, as the others that do. -/
theorem postFor (h : Remembers times s) {id : Nat} {r : RecIn} (hr : r.fc < 4) : Remembers times (Machine.postFor id r s) := by
  have hwait : Remembers times { s with host := { s.host with owed := s.host.owed ++ [(id, r)] } } := by
    refine ⟨h.1, fun x hx => ?_⟩
    rcases List.mem_append.mp hx with hx | hx
    · exact h.2 x hx
    · rw [List.mem_singleton.mp hx]; exact hr
  exact .ite (.ite hwait.ksafeStop hwait) (h.postRecord hr)

/-- The records that no longer wait are posted; none is of class FC_ENGINE. -/
theorem flushOwed (h : Remembers times s) : Remembers times (Machine.flushOwed s) := by
  have hpost : ∀ l : List (Nat × RecIn), (∀ x ∈ l, x.2.fc < 4) → ∀ u, Remembers times u →
      Remembers times (Machine.forAll l (fun x => Machine.postRecord x.2) u) := by
    intro l
    induction l with
    | nil => exact fun _ _ hu => hu
    | cons x l ih => exact fun hl u hu => ih (fun y hy => hl y (List.mem_cons_of_mem _ hy)) _ (hu.postRecord (hl x List.mem_cons_self))
  exact hpost _ (fun x hx => h.2 x (List.mem_of_mem_filter hx)) _ ⟨h.1, fun x hx => h.2 x (List.mem_of_mem_filter hx)⟩

theorem together (h : Remembers times s) {c : CoreId} {fs : List (State → State)}
    (hfs : ∀ f ∈ fs, ∀ u, Remembers times u → Remembers times (f u)) : Remembers times (Machine.together c fs s) := by
  have hfold : ∀ (g : State → State), (∀ u, Remembers times u → Remembers times (g u)) → ∀ x : State × Nat, Remembers times x.1 →
      Remembers times (fs.foldl (fun (x : State × Nat) f => let t := f (g x.1); (t, max x.2 t.ahead.used[c])) x).1 := by
    intro g hg
    induction fs with
    | nil => exact fun _ hx => hx
    | cons f fs ih =>
      exact fun x hx => ih (fun f' hf' => hfs f' (List.mem_cons_of_mem _ hf')) _ (hfs f List.mem_cons_self _ (hg _ hx))
  let from_ := (Machine.spend c 0 s).ahead.used[c]
  have hrun := hfold (fun u => { u with ahead := { u.ahead with used := u.ahead.used.set c from_ } })
    (fun _ hu => hu.of_eq rfl) (Machine.spend c 0 s, from_) h.spend
  exact hrun.of_eq rfl

/-! ### Tokens and messages -/

theorem raiseLogged (h : Remembers times s) {c : CoreId} {x : HaltCond} : Remembers times (Machine.raiseLogged c x s) :=
  raiseHalt (.ite h.securityFault h)

theorem incTok (h : Remembers times s) {c : CoreId} {k : TokId} {n eng : Nat} {p : PartId} : Remembers times (Machine.incTok c k n eng p s) :=
  .ite h.raiseHalt (.ite h (h.of_eq rfl))

theorem postTokens (h : Remembers times s) {c : CoreId} {eng : Nat} {cmd : EngCmd} : Remembers times (Machine.postTokens c eng cmd s) := by
  unfold Machine.postTokens
  split
  · exact .ite h.incTok h.incTok.incTok
  · exact h.incTok
  · exact h.incTok
  · exact h

theorem sendOn (h : Remembers times s) {l : LinkId} {fs : List Flit} : Remembers times (Machine.sendOn l fs s) :=
  .ite (h.of_eq rfl) (h.of_eq rfl)

theorem sendTo (h : Remembers times s) {dst : Nat} {fs : List Flit} : Remembers times (Machine.sendTo dst fs s) := by
  unfold Machine.sendTo
  split
  · exact h.sendOn
  · exact h

theorem sendVia (h : Remembers times s) {port : Option LinkId} {dst : Nat} {fs : List Flit} :
    Remembers times (Machine.sendVia port dst fs s) := by
  unfold Machine.sendVia
  split
  · exact h.sendOn
  · exact h

theorem sendFence (h : Remembers times s) {p : PartId} {type dst fid : Nat} {body : List Byte} :
    Remembers times (Machine.sendFence p type dst fid body s) := .ite h.sendTo h

theorem sendJoin (h : Remembers times s) : Remembers times (Machine.sendJoin s) :=
  of_eq (h.forAll fun _ _ hu => hu.sendOn) rfl

theorem memberAck (h : Remembers times s) {e : Nat} {r : SentRun} : Remembers times (Machine.memberAck e r s) := by
  unfold Machine.memberAck
  split
  · exact h.modDxRun
  · exact h

theorem dxOwnHalt (h : Remembers times s) {c : CoreId} {ch : ChanId} {x : HaltCond} : Remembers times (Machine.dxOwnHalt c ch x s) :=
  h.modDxRun.raiseLogged

theorem denyRun (h : Remembers times s) {kind : Nat} {r : SentRun} : Remembers times (Machine.denyRun kind r s) := by
  have hforgot : Remembers times { s with links := { s.links with sent := s.links.sent.erase r } } := h.of_eq rfl
  unfold Machine.denyRun
  dsimp only
  split
  · split
    · exact hforgot.memberAck.dxOwnHalt
    · exact hforgot.memberAck
  · exact hforgot.memberAck

theorem moveDest (h : Remembers times s) {d : Nat} : Remembers times (Machine.moveDest d s) := by
  unfold Machine.moveDest
  extract_lets denied runs own goes others links cleared sent
  have hdenied : Remembers times denied := h.forAll fun _ _ hu => hu.denyRun
  have hcleared : Remembers times cleared := hdenied.of_eq rfl
  have hsent : Remembers times sent := sendTo (hcleared.forAll fun _ _ hu => hu.sendVia)
  exact .ite hsent.sendTo hsent

theorem reroute (h : Remembers times s) : Remembers times (Machine.reroute s) :=
  forAll (h.of_eq rfl) fun _ _ hu => hu.moveDest

/-! ### Fences, completion entries and waiting heads -/

theorem of_hostTranslate (h : Remembers times s) {p : PartId} {secure : Bool} {asid va : Nat} {write : Bool} {x : Option Nat}
    (e : hostTranslate p secure asid va write s = (x, t)) : Remembers times t := by
  have hsnd : Remembers times (hostTranslate p secure asid va write s).2 := by
    unfold hostTranslate
    split
    case h_1 htr => exact h.of_translate htr
    case h_2 htr => exact .ite (h.of_translate htr).securityFault (h.of_translate htr)
  rwa [e] at hsnd

theorem sendUpdates (h : Remembers times s) {a : Nat} : Remembers times (Machine.sendUpdates a s) := by
  unfold Machine.sendUpdates
  split
  · exact h
  · exact h.forAll fun _ _ hu => hu.sendFence

theorem fenceFail (h : Remembers times s) {f : Fence} : Remembers times (Machine.fenceFail f s) :=
  h.modFence.sendUpdates.postRecord (by simp)

theorem useFence (h : Remembers times s) {a : Nat} : Remembers times (Machine.useFence a s) := by
  unfold Machine.useFence
  split
  · exact h
  · exact .ite h (.ite h.securityFault.modFence.fenceFail (.ite h.modFence h.modFence.sendUpdates))

theorem writeThrough (h : Remembers times s) {a : Nat} : Remembers times (Machine.writeThrough a s) := by
  unfold Machine.writeThrough
  split
  · exact h
  · exact .ite h.securityFault.fenceFail (h.of_eq rfl)

theorem applySignal (h : Remembers times s) {a : Nat} {v : BitVec 64} {err ext : Bool} {p : PartId} :
    Remembers times (Machine.applySignal a v err ext p s) := by
  unfold Machine.applySignal
  dsimp only
  split
  · exact h.useFence
  · exact .ite (sendUpdates (modFence (.ite h.useFence h.useFence.modPart))) (.ite h.useFence h.useFence.modPart)

theorem writeBackAll (h : Remembers times s) {before : State} : Remembers times (Machine.writeBackAll before s) :=
  h.forAll fun _ _ hu => .ite hu hu.writeThrough

theorem useKey (h : Remembers times s) {k : FenceKey} : Remembers times (Machine.useKey k s) := by
  cases k with
  | record a => exact h.useFence
  | proxy p fid => exact h

theorem applyKey (h : Remembers times s) {k : FenceKey} {v : BitVec 64} {err ext : Bool} {p : PartId} :
    Remembers times (Machine.applyKey k v err ext p s) := by
  unfold Machine.applyKey
  split
  · exact h.applySignal
  · split
    · exact .ite h.sendFence h
    · exact h

theorem signalRefs (h : Remembers times s) {p : PartId} {packet : List Byte} {err : Bool} :
    Remembers times (Machine.signalRefs p packet err s) := by
  refine h.forAll fun x u hu => ?_
  dsimp only
  split
  · exact hu.useKey
  · exact hu.useKey.applyKey

theorem tagEnd (h : Remembers times s) {p : PartId} {tag qid seq : Nat} {fault : Bool} :
    Remembers times (Machine.tagEnd p tag qid seq fault s) := .ite h (h.of_eq rfl)

theorem queueError (h : Remembers times s) {q : HostQueue} {tag va : Nat} : Remembers times (Machine.queueError q tag va s) :=
  h.modQueue.postRecord (by simp)

theorem writeEntry (h : Remembers times s) {qid seq tag : Nat} {c : Completion} : Remembers times (Machine.writeEntry qid seq tag c s) := by
  unfold Machine.writeEntry
  split
  · exact h
  · refine .ite h ?_
    dsimp only
    split
    case h_1 htr => exact (h.of_hostTranslate htr).queueError
    case h_2 htr =>
      split
      case h_1 hw => exact (h.of_hostTranslate htr).of_writeFor hw
      case h_2 hw => exact ((h.of_hostTranslate htr).of_writeFor hw).queueError

theorem jobFinish (h : Remembers times s) {p : PartId} {qid seq : Nat} {packet : List Byte} {started : Bool} {c : Completion} :
    Remembers times (Machine.jobFinish p qid seq packet started c s) :=
  .ite h.tagEnd.writeEntry.signalRefs.setPtInt h.tagEnd.writeEntry.signalRefs

theorem leaveRun (h : Remembers times s) {e : EntryId} {x : EntryState} : Remembers times (Machine.leaveRun e x s) := h.modRun

theorem endIdles (h : Remembers times s) : Remembers times (Machine.endIdles s) := h.forAll fun _ _ hu => .ite hu.leaveRun hu

theorem settleLoop (h : Remembers times s) {n : Nat} : Remembers times (Machine.settleLoop n s) := by
  induction n generalizing s with
  | zero => exact h
  | succ n ih =>
    unfold Machine.settleLoop
    split
    · exact h
    · exact ih (writeBackAll (h.forAll fun _ _ hu => hu.modQueue.jobFinish))

theorem settle (h : Remembers times s) : Remembers times (Machine.settle s) := h.settleLoop.endIdles

end Remembers

end Sys2Proof.Machine
end

section
/-! PROOFS. Engine faults (R311), continued: cycles of a core, the drain of its engines, halts and core resets keep what is remembered. -/
namespace Sys2Proof.Machine
open Sys2Proof

namespace Remembers
variable {times : List Nat} {s t : State}

/-! ### Cycles of a core -/

theorem throttleDue (h : Remembers times s) : Remembers times (Machine.throttleDue s) := by
  unfold Machine.throttleDue
  split
  · exact .ite (.ite (h.of_eq rfl) (h.of_eq rfl)) h
  · exact h

theorem refreshWarn (h : Remembers times s) : Remembers times (Machine.refreshWarn s) := .ite (h.of_eq rfl) (h.of_eq rfl)

theorem coreFault (h : Remembers times s) {c : CoreId} {code sub eng set detail : Nat} :
    Remembers times (Machine.coreFault c code sub eng set detail s) :=
  (h.postFor (by split <;> simp)).raiseHalt

theorem mxOwnHalt (h : Remembers times s) {c : CoreId} {ord : Option Nat} {idx : Nat} {x : HaltCond} :
    Remembers times (Machine.mxOwnHalt c ord idx x s) := h.modMx.raiseHalt

theorem discardGroup (h : Remembers times s) {c : CoreId} {cmd : MxCmd} {first last idx : Nat} {led : Bool} {info : Word} :
    Remembers times (Machine.discardGroup c cmd first last idx led info s) := h.modCore

theorem arrayFaultAt (h : Remembers times s) {c : CoreId} {arrays : BitVec 4} {cause band group : Nat} {site : Nat × Nat × Nat} :
    Remembers times (Machine.arrayFaultAt c arrays cause band group site s) := by
  obtain ⟨ord, idx, row⟩ := site
  unfold Machine.arrayFaultAt
  dsimp only
  split
  · exact h
  · refine .ite h (.ite h.discardGroup.modCore.mxOwnHalt (.ite h.discardGroup.modCore.modMx.mxOwnHalt ?_))
    split
    · exact h.discardGroup.modMx
    · exact h.discardGroup.modMx.modCore

theorem metFault (h : Remembers times s) {c : CoreId} {l : List MxMet} : Remembers times (Machine.metFault c l s) := by
  cases l with
  | nil => exact h
  | cons x l => exact h.arrayFaultAt

theorem loadCheck (h : Remembers times s) {c : CoreId} {before : Option MxLoad} : Remembers times (Machine.loadCheck c before s) := by
  unfold Machine.loadCheck
  split
  · exact h
  · exact .ite h h.metFault

theorem fillLoad (h : Remembers times s) {c : CoreId} : Remembers times (Machine.fillLoad c s) := by
  unfold Machine.fillLoad
  dsimp only
  split
  · exact h
  · split
    · exact h
    · refine .ite h ?_
      split
      · exact h.modMx.raiseHalt
      · exact h.modMx

theorem mxCycle (h : Remembers times s) {c : CoreId} : Remembers times (Machine.mxCycle c s) := by
  have hlatched : Remembers times (latchLevel c (Machine.fillLoad c s)) := .ite h.fillLoad.throttleDue.modCore h.fillLoad
  exact .ite hlatched.modCore hlatched.modCore.progress

theorem mxSettle (h : Remembers times s) {c : CoreId} {n : Nat} :
    Remembers times (Machine.mxSettle c n s).1 ∧ Remembers times (Machine.mxSettle c n s).2 := by
  induction n generalizing s with
  | zero => exact ⟨h, h.mxCycle⟩
  | succ n ih =>
    unfold Machine.mxSettle
    dsimp only
    split
    · exact ⟨h, h.mxCycle⟩
    · exact ih h.metFault

theorem mxOutputReadFault (h : Remembers times s) {c : CoreId} {n : Nat} : Remembers times (Machine.mxOutputReadFault c n s) := by
  unfold Machine.mxOutputReadFault
  split
  · exact h
  · exact h.modCore.coreFault

theorem mxEcc (h : Remembers times s) {c : CoreId} : Remembers times (Machine.mxEcc c s) := by
  unfold Machine.mxEcc
  extract_lets settled before after old k wholeRows fresh checked
  have hchecked : Remembers times checked := h.mxSettle.2.freshWords.freshWords.loadCheck
  split
  · exact hchecked
  · split
    · exact hchecked.mxOutputReadFault
    · exact hchecked

theorem modVec (h : Remembers times s) {c : CoreId} {e : VecEng} {f : Vec → Vec} : Remembers times (Machine.modVec c e f s) := by
  cases e <;> exact h.modCore

theorem vecFault (h : Remembers times s) {c : CoreId} {e : VecEng} {cause : BitVec 2} : Remembers times (Machine.vecFault c e cause s) := by
  unfold Machine.vecFault
  split
  · exact h
  · exact h.modVec.coreFault

theorem vecFresh (h : Remembers times s) {c : CoreId} {e : VecEng} {old : Core} : Remembers times (Machine.vecFresh c e old s) := by
  unfold Machine.vecFresh
  split
  · exact h.freshWords
  · exact h

theorem eccCycle (h : Remembers times s) {c : CoreId} : Remembers times (Machine.eccCycle c s) := by
  unfold Machine.eccCycle
  cases vecMet s c .vx with
  | none =>
    cases vecMet s c .wx with
    | none => exact h.mxEcc.modCore.vecFresh.modCore.vecFresh
    | some cause => exact h.mxEcc.modCore.vecFresh.vecFault
  | some cause =>
    cases vecMet s c .wx with
    | none => exact h.mxEcc.vecFault.modCore.vecFresh
    | some cause' => exact h.mxEcc.vecFault.vecFault

theorem passCycles (h : Remembers times s) {c : CoreId} {n : Nat} : Remembers times (Machine.passCycles c n s) := h.modCore.spend

theorem runCycle (h : Remembers times s) {c : CoreId} : Remembers times (Machine.runCycle c s) :=
  passCycles (.ite h.mxCycle.modCore h.eccCycle)

theorem advance (h : Remembers times s) {c : CoreId} {done : State → Bool} {n : Nat} : Remembers times (Machine.advance c done n s) := by
  induction n generalizing s with
  | zero => exact h
  | succ n ih => exact .ite h (ih h.runCycle)

theorem vecRunPlain (h : Remembers times s) {c : CoreId} {e : VecEng} {n : Nat} : Remembers times (Machine.vecRunPlain c e n s) := by
  unfold Machine.vecRunPlain
  dsimp only
  split
  · exact h.modCore.passCycles
  · exact h.modCore

theorem vecRunRows (h : Remembers times s) {c : CoreId} {e : VecEng} {n : Nat} : Remembers times (Machine.vecRunRows c e n s) := by
  unfold Machine.vecRunRows
  split
  · dsimp only
    split
    · exact .ite h.vecRunPlain.freshWords.vecFault h.vecRunPlain.freshWords
    · exact h.vecRunPlain.freshWords
  · exact h.vecRunPlain

/-! ### The engines of a core run to their stop -/

theorem dxLand (h : Remembers times s) {c : CoreId} {x : DxXfer} : Remembers times (Machine.dxLand c x s) := by
  unfold Machine.dxLand
  extract_lets fresh into fills
  have hfresh : Remembers times fresh := h.forAll fun _ _ hu => hu.freshWords
  cases x.target
  case cast mask => exact hfresh.forAll fun _ _ hu => hu.modCore
  all_goals exact hfresh.of_eq rfl

theorem dxPerform (h : Remembers times s) {c : CoreId} {x : DxXfer} : Remembers times (Machine.dxPerform c x s) :=
  .ite h (.ite (forAll (h.forAll fun _ _ hu => hu.forAll fun _ _ hv => hv.modDxRun) fun _ _ hu => hu.dxLand) h.dxLand)

theorem dualSignAll (h : Remembers times s) {c : CoreId} {ch : ChanId} {job : Nat} {xs : List DxXfer} :
    Remembers times (Machine.dualSignAll c ch job xs s) := by
  refine h.forAll fun x u hu => ?_
  unfold dualSign
  split
  · exact hu
  · refine .ite hu ?_
    split
    · exact hu
    · exact hu.of_eq rfl

theorem dxPostUnits (h : Remembers times s) {c : CoreId} {r : DxRun} {n : Nat} : Remembers times (Machine.dxPostUnits c r n s) :=
  .ite h (h.forAll fun _ _ hu => hu.forAll fun _ _ hv => hv.incTok)

theorem dxRetire (h : Remembers times s) {c : CoreId} {ch : ChanId} {n : Nat} : Remembers times (Machine.dxRetire c ch n s) := by
  induction n generalizing s with
  | zero => exact h
  | succ n ih =>
    unfold Machine.dxRetire
    split
    · exact h
    · split
      · exact h
      · exact ih h.modDxRun.modChan.dualSignAll.dxPostUnits

theorem dxFault (h : Remembers times s) {c : CoreId} {ch : ChanId} {cause run : Nat} : Remembers times (Machine.dxFault c ch cause run s) := by
  unfold Machine.dxFault
  split
  · exact h
  · exact .ite h h.modCore.modDxRun.coreFault

theorem dxTransferAck (h : Remembers times s) {c : CoreId} {ch : ChanId} {k : Nat} : Remembers times (Machine.dxTransferAck c ch k s) := by
  unfold Machine.dxTransferAck
  split
  · exact h
  · split
    · exact h
    · exact .ite h (.ite h.modDxRun.dxFault h.dxPerform.modCore.modDxRun.progress.dxRetire)

theorem ackAll (h : Remembers times s) {c : CoreId} {ch : ChanId} {n : Nat} : Remembers times (Machine.ackAll c ch n s) := by
  induction n generalizing s with
  | zero => exact h
  | succ n ih => exact ih h.dxTransferAck

theorem dxSnuffComplete (h : Remembers times s) {c : CoreId} {ch : ChanId} : Remembers times (Machine.dxSnuffComplete c ch s) := by
  unfold Machine.dxSnuffComplete
  dsimp only
  split
  · exact h.modChan
  · exact .ite h (.ite h.modChan (.ite h.modChan.progress.postTokens h.modChan))

theorem landChannel (h : Remembers times s) {c : CoreId} {ch : ChanId} : Remembers times (Machine.landChannel c ch s) := by
  unfold Machine.landChannel
  split
  · exact h
  · exact h.spend.modDxRun.ackAll.dxSnuffComplete.flushOwed

theorem releaseBelow (h : Remembers times s) {c : CoreId} {n : StreamId} {line : Nat} : Remembers times (Machine.releaseBelow c n line s) :=
  .ite h (h.of_eq rfl)

theorem startRun (h : Remembers times s) {c : CoreId} {cmd : MxCmd} {e : MxEff} {m0 : Nat} : Remembers times (Machine.startRun c cmd e m0 s) :=
  h.modMx.modMx

theorem swapIn (h : Remembers times s) {c : CoreId} : Remembers times (Machine.swapIn c s) := by
  unfold Machine.swapIn
  dsimp only
  split
  · exact h
  · split
    · exact h
    · exact .ite h.modCore.startRun.releaseBelow h.modCore.startRun

theorem formPass (h : Remembers times s) {c : CoreId} {cmd : MxCmd} {e : MxEff} : Remembers times (Machine.formPass c cmd e s) := by
  unfold Machine.formPass
  dsimp only
  split
  · exact h.mxOwnHalt
  · exact .ite h.modMx.fillLoad.loadCheck h.startRun

theorem mxPassFormation (h : Remembers times s) {c : CoreId} : Remembers times (Machine.mxPassFormation c s) := by
  refine .ite ?_ h
  split
  · exact h.formPass
  · exact h

theorem runOut (h : Remembers times s) {c : CoreId} {n : Nat} : Remembers times (Machine.runOut c n s) := by
  induction n generalizing s with
  | zero => exact h
  | succ n ih => exact .ite h (ih (.ite h.mxPassFormation.swapIn h.mxPassFormation.runCycle))

theorem endRelease (h : Remembers times s) {c : CoreId} {cmd : MxCmd} : Remembers times (Machine.endRelease c cmd s) :=
  .ite (.ite (h.of_eq rfl) h.releaseBelow) h

theorem finishAll (h : Remembers times s) {c : CoreId} {n : Nat} : Remembers times (Machine.finishAll c n s) := by
  induction n generalizing s with
  | zero => exact h
  | succ n ih =>
    unfold Machine.finishAll
    split
    · exact ih h.modMx.progress.endRelease.postTokens
    · exact h

theorem mxSnuffComplete (h : Remembers times s) {c : CoreId} : Remembers times (Machine.mxSnuffComplete c s) :=
  .ite h (.ite h.advance.finishAll.modCore.modCore.modMx h)

theorem vecSnuffComplete (h : Remembers times s) {c : CoreId} {e : VecEng} : Remembers times (Machine.vecSnuffComplete c e s) := by
  unfold Machine.vecSnuffComplete
  dsimp only
  split
  · exact h.modVec
  · refine .ite h ?_
    split
    · exact .ite h h.vecRunRows
    · exact modVec (.ite h h.vecRunRows)

theorem fxWrite (h : Remembers times s) {c : CoreId} {n : Nat} : Remembers times (Machine.fxWrite c n s) := by
  unfold Machine.fxWrite
  split
  · exact h
  · exact .ite h h.modCore.freshWords.modFxRun

theorem fxFlush (h : Remembers times s) {c : CoreId} : Remembers times (Machine.fxFlush c s) := by
  unfold Machine.fxFlush
  split
  · exact h
  · exact h.atTime.fxWrite

theorem fxStop (h : Remembers times s) {c : CoreId} : Remembers times (Machine.fxStop c s) := by
  unfold Machine.fxStop
  split
  · exact h
  · exact .ite (postTokens (progress (.ite h.fxFlush.modFx.modCore h.fxFlush.modFx))) h.fxFlush.modFx.modFx

theorem fxFault (h : Remembers times s) {c : CoreId} {cause err : Nat} : Remembers times (Machine.fxFault c cause err s) := by
  unfold Machine.fxFault
  split
  · exact h
  · exact h.modFx.modFx.coreFault

/-! ### Halts, snuffs and core resets -/

theorem haltClass_lt (x : HaltCond) : haltClass x < 4 := by
  unfold haltClass
  split
  · simp
  · split <;> simp

@[simp] theorem coreHaltRec_fc (s : State) (c : CoreId) (x : HaltCond) (fc : Nat) : (coreHaltRec s c x fc).fc = fc := by
  unfold coreHaltRec
  dsimp only
  split <;> rfl

@[simp] theorem lampFailRec_fc (s : State) (c : CoreId) (a detail : Nat) : (lampFailRec s c a detail).fc = 2 := by
  unfold lampFailRec
  dsimp only
  split <;> rfl

theorem haltAddr (h : Remembers times s) {c : CoreId} {x : HaltCond} : Remembers times (Machine.haltAddr x c s).2 := by
  unfold Machine.haltAddr
  dsimp only
  split
  · exact h
  · exact h.of_eq rfl

theorem haltComplete (h : Remembers times s) {c : CoreId} : Remembers times (Machine.haltComplete c s) := by
  unfold Machine.haltComplete
  extract_lets k
  split
  · refine .ite h ?_
    extract_lets x a written failed
    have hfailed : Remembers times failed := .ite (forAll h.haltAddr.modCore fun _ _ hu => hu.modJob) h.haltAddr.modCore
    exact .ite (hfailed.postFor (by simpa using haltClass_lt x)) (.ite (hfailed.postFor (by simp)) hfailed)
  · exact h

theorem snuffNow (h : Remembers times s) {c : CoreId} {cause : Nat} : Remembers times (Machine.snuffNow c cause s) := by
  have hvec : ∀ f ∈ [Machine.vecSnuffComplete c .vx, Machine.vecSnuffComplete c .wx], ∀ u, Remembers times u → Remembers times (f u) :=
    List.forall_mem_cons.mpr ⟨fun _ hu => hu.vecSnuffComplete, List.forall_mem_singleton.mpr fun _ hu => hu.vecSnuffComplete⟩
  unfold Machine.snuffNow drainHalt
  extract_lets rows drained
  have hrows : ∀ u, Remembers times u → Remembers times (rows u) := fun _ hu => hu.runOut.mxSnuffComplete.together hvec
  have hland : ∀ f ∈ (List.finRange 4).map (Machine.landChannel c), ∀ u, Remembers times u → Remembers times (f u) :=
    List.forall_mem_map.mpr fun _ _ _ hu => hu.landChannel
  have hdrained : Remembers times drained := h.raiseHalt.together (List.forall_mem_cons.mpr ⟨hrows, hland⟩)
  exact hdrained.fxStop.haltComplete

theorem hbDisable (h : Remembers times s) {c : CoreId} {k : HaloId} : Remembers times (Machine.hbDisable c k s) := by
  have hoff : Remembers times (modHb c k (fun b => { b with ctrl := b.ctrl &&& ~~~ 1#32, held := 0, part := false }) s) := h.modCore
  unfold Machine.hbDisable hbTell
  dsimp only
  split
  · exact .ite hoff (hoff.of_eq rfl)
  · exact .ite hoff (hoff.of_eq rfl)
  · split
    · exact hoff.of_eq rfl
    · exact hoff
  · exact hoff

theorem haloReset (h : Remembers times s) {c : CoreId} : Remembers times (Machine.haloReset c s) := by
  unfold Machine.haloReset
  extract_lets disabled emptied
  have hdisabled : Remembers times disabled := h.forAll fun _ _ hu => hu.hbDisable
  have hemptied : Remembers times emptied := hdisabled.of_eq rfl
  exact hemptied.modCore

theorem resetBody (h : Remembers times s) {c : CoreId} : Remembers times (Machine.resetBody c s) := by
  have hlanded : Remembers times (landExternal c s) := h.forAll fun _ _ hu => hu.dxPerform
  have hstem : Remembers times (stemReset c (landExternal c s)) := hlanded.forAll fun _ _ hu => hu.of_eq rfl
  exact hstem.modCore.modFx.haloReset.progress.flushOwed

theorem ensureReset (h : Remembers times s) {c : CoreId} : Remembers times (Machine.ensureReset c s) :=
  .ite h (resetBody (h.forAll fun _ _ hu => hu.modJob.modJob))

end Remembers

end Sys2Proof.Machine
end

section
/-! PROOFS. Engine faults (R311), continued: requests, ends of jobs, ticks and a whole warm restart keep what is remembered. -/
namespace Sys2Proof.Machine
open Sys2Proof

namespace Remembers
variable {times : List Nat} {s t : State}

/-! ### Requests and the ends of jobs -/

theorem reply (h : Remembers times s) {m : MboxId} {status detail : Nat} {results : List Byte} :
    Remembers times (Machine.reply m status detail results s) := by
  unfold Machine.reply modMb
  split <;> exact h.of_eq rfl

theorem drain (h : Remembers times s) : Remembers times (Machine.drain s) := by
  have hloop : ∀ n u, Remembers times u → Remembers times (drainLoop n u) := by
    intro n
    induction n with
    | zero => exact fun _ hu => hu
    | succ n ih =>
      intro u hu
      unfold drainLoop
      split
      · exact hu
      · split
        · exact hu
        · have htaken : Remembers times (takeRequest u) := hu.of_eq rfl
          exact ih _ htaken.reply
  exact .ite (hloop 9 s h) h

theorem finishDestroy (h : Remembers times s) {qid : Nat} : Remembers times (Machine.finishDestroy qid s) := by
  have hgone : Remembers times { s with host := { s.host with queues := s.host.queues.filter (fun x => decide (x.qid ≠ qid)) } } := h.of_eq rfl
  unfold Machine.finishDestroy
  split
  · exact h
  · split
    · exact h
    · exact .ite h hgone.reply

theorem unloadSlot (h : Remembers times s) {i : Fin 64} : Remembers times (Machine.unloadSlot i s) := by
  unfold Machine.unloadSlot
  extract_lets handle gone emptied
  have hemptied : Remembers times emptied := h.forAll fun _ _ hu => hu.modCore
  exact hemptied.of_eq rfl

theorem jobOut (h : Remembers times s) {j : Job} {c : Completion} : Remembers times (Machine.jobOut j c s) := by
  have hreleased : Remembers times (releaseCores j s) := h.forAll fun _ _ hu => hu.modCore
  have hleft : Remembers times (leaveDemoted j (releaseCores j s)) := .ite hreleased.modRun hreleased
  unfold Machine.jobOut
  extract_lets illegal c' finished host safety gone
  have hfinished : Remembers times finished := hleft.jobFinish
  have hgone : Remembers times gone := hfinished.of_eq rfl
  exact .ite hgone.unloadSlot hgone

theorem stopJob (h : Remembers times s) {cause fc : Nat} {j : Job} : Remembers times (Machine.stopJob cause fc j s) :=
  forAll (modJob (h.forAll fun _ _ hu => hu.snuffNow)) fun _ _ hu => hu.ensureReset

theorem endJobs (h : Remembers times s) {js : List Job} : Remembers times (Machine.endJobs js s) := by
  unfold Machine.endJobs
  extract_lets sorted out
  have hout : Remembers times out := by
    refine h.forAll fun j u hu => ?_
    split
    · exact hu.jobOut
    · exact hu
  exact hout.writeBackAll.settle.forAll fun _ _ hu => hu.finishDestroy

/-! ### The fabric -/

theorem fxSend (h : Remembers times s) {c : CoreId} : Remembers times (Machine.fxSend c s) := by
  unfold Machine.fxSend
  split
  · exact h
  · exact .ite h h.modFxRun.modRegion

theorem fxRecheck (h : Remembers times s) {c : CoreId} : Remembers times (Machine.fxRecheck c s) := by
  unfold Machine.fxRecheck
  split
  · exact h
  · refine .ite h ?_
    split
    · exact h.modFx.raiseHalt
    · exact h.modFx.fxSend

theorem loadFail (h : Remembers times s) {code frame : Nat} : Remembers times (Machine.loadFail code frame s) := by
  unfold Machine.loadFail
  split
  · exact h
  · extract_lets frame' detail ended failed posted rechecked
    have hposted : Remembers times posted := (h.modFabric.modRegion.postRecord (by simp)).bumpGen.setGint
    have hrechecked : Remembers times rechecked := by
      unfold rechecked
      split
      · exact hposted.fxRecheck
      · exact hposted
    exact .ite hrechecked.reply hrechecked

theorem scanFails (h : Remembers times s) {z : RegionId} {frame : Nat} : Remembers times (Machine.scanFails z frame s) := by
  have hfailed {u : State} (hu : Remembers times u) : Remembers times (failRegion z u) := by
    unfold failRegion fxLoses
    split
    · exact .ite hu.modRegion.bumpGen hu.modRegion.bumpGen.fxFault
    · exact hu.modRegion.bumpGen
  exact hfailed (h.modFabric.postRecord (by simp))

/-! ### A tick -/

theorem overrunHalt (h : Remembers times s) {j : Job} {detail : Nat} : Remembers times (Machine.overrunHalt j detail s) :=
  h.forAll fun _ _ hu => raiseHalt (.ite hu.modJob hu)

theorem overrunPaused (h : Remembers times s) {j : Job} {detail : Nat} : Remembers times (Machine.overrunPaused j detail s) := by
  unfold Machine.overrunPaused
  extract_lets x halted f failed
  have hhalted : Remembers times halted := h.forAll fun _ _ hu => hu.modCore.postFor (by simp)
  have hfailed : Remembers times failed := hhalted.modJob
  exact (hfailed.forAll fun _ _ hu => hu.ensureReset).jobOut.writeBackAll.settle.finishDestroy

theorem gutter (h : Remembers times s) {e : EntryId} : Remembers times (Machine.gutter e s) := by
  unfold Machine.gutter
  extract_lets w d job left tick counted posted
  have hcounted : Remembers times counted := of_eq (h.leaveRun.modRun) rfl
  have hposted : Remembers times posted := hcounted.postRecord (by simp)
  clear_value job
  cases job with
  | none => exact hposted
  | some j => exact .ite (.ite hposted.modJob hposted.modJob.modRun) (.ite hposted.overrunPaused hposted.overrunHalt)

theorem gutterAtTick (h : Remembers times s) {e : EntryId} : Remembers times (Machine.gutterAtTick e s) := by
  unfold Machine.gutterAtTick
  split
  · exact h.gutter
  · exact h.gutter
  · exact .ite h.gutter h
  · exact h

theorem activate (h : Remembers times s) {n : Nat} : Remembers times (Machine.activate n s) := by
  unfold Machine.activate
  split
  · exact .ite (h.of_eq rfl) h
  · exact h

theorem applyTickCfg (h : Remembers times s) {ctrl : Word} {period : BitVec 20} : Remembers times (Machine.applyTickCfg ctrl period s) := by
  unfold Machine.applyTickCfg
  extract_lets bumped
  have hbumped : Remembers times bumped := .ite h h.bumpGen
  exact hbumped.of_eq rfl

theorem gateArrays (h : Remembers times s) : Remembers times (Machine.gateArrays s) :=
  h.forAll fun _ _ hu => hu.forAll fun _ _ hv => .ite hv (hv.of_eq rfl)

theorem retainCores (h : Remembers times s) : Remembers times (Machine.retainCores s) :=
  h.forAll fun _ _ hu => .ite hu (hu.of_eq rfl)

theorem armLamps (h : Remembers times s) {n : Nat} : Remembers times (Machine.armLamps n s) :=
  h.forAll fun _ _ hu => hu.forAll fun _ _ hv => .ite hv (hv.of_eq rfl)

theorem lampsDue (h : Remembers times s) : Remembers times (Machine.lampsDue s) := h.forAll fun _ _ hu => .ite hu hu.modCore

theorem togglePoint (h : Remembers times s) : Remembers times (Machine.togglePoint s) := h.of_eq rfl

theorem takeTick (h : Remembers times s) {n : Nat} : Remembers times (Machine.takeTick n s) := by
  unfold Machine.takeTick
  extract_lets now active tick counted configured
  have hactive : Remembers times active := activate (h.atTime.forAll fun _ _ hu => hu.gutterAtTick)
  have hcounted : Remembers times counted := hactive.of_eq rfl
  have hconfigured : Remembers times configured := by
    unfold configured
    split
    · exact hcounted.applyTickCfg
    · exact hcounted
  have hfresh : Remembers times (freshRuns configured) := hconfigured.of_eq rfl
  exact hfresh.gateArrays.retainCores.armLamps.lampsDue.togglePoint

theorem llBegins (h : Remembers times s) : Remembers times (Machine.llBegins s) := by
  unfold Machine.llBegins
  extract_lets claimed safety begun
  have hclaimed : Remembers times claimed := h.modFabric
  have hbegun : Remembers times begun := hclaimed.of_eq rfl
  have hlocked : Remembers times { begun with tick := { begun.tick with state := .locked, count := 0, raised := [] } } := hbegun.of_eq rfl
  exact .ite hlocked.takeTick hbegun

/-! ### A warm restart (R399) -/

theorem warmStop (h : Remembers times s) : Remembers times (Machine.warmStop s) := by
  unfold Machine.warmStop
  extract_lets boot bnd tick fabric stopped
  have hstopped : Remembers times stopped := h.of_eq rfl
  split
  · exact hstopped.loadFail
  · exact hstopped

theorem warmSnuff (h : Remembers times s) : Remembers times (Machine.warmSnuff s) := by
  unfold Machine.warmSnuff
  extract_lets host kept snuffed
  have hkept : Remembers times kept := h.of_eq rfl
  have hsnuffed : Remembers times snuffed := hkept.forAll fun _ _ hu => hu.snuffNow
  exact hsnuffed.forAll fun _ _ hu => hu.stopJob

theorem vofsStep (h : Remembers times s) : Remembers times (Machine.vofsStep s) := .ite (h.of_eq rfl) (h.of_eq rfl)

/-- What is remembered of FC_ENGINE faults survives (R311), and so do the records that wait. -/
theorem warmState (h : Remembers times s) : Remembers times (Machine.warmState s) := .ite (h.of_eq rfl) (h.of_eq rfl)

theorem warmScan (h : Remembers times s) : Remembers times (Machine.warmScan s) := by
  refine h.atTime.modFabric.forAll fun z u hu => ?_
  split
  · exact hu.scanFails
  · exact hu

theorem warmReplies (h : Remembers times s) {by_ : Option (Fin 9)} : Remembers times (Machine.warmReplies by_ s) := by
  unfold Machine.warmReplies
  extract_lets replied
  have hreplied : Remembers times replied := h.forAll fun _ _ hu => hu.reply
  split
  · exact hreplied.reply
  · exact hreplied

theorem warmRelease (h : Remembers times s) {by_ : Option (Fin 9)} {kind code : Nat} : Remembers times (Machine.warmRelease by_ kind code s) := by
  unfold Machine.warmRelease
  extract_lets island proxies begun
  have hproxies : Remembers times proxies := .ite (h.of_eq rfl) h
  have hbooted : Remembers times (modBoot (fun b => { b with state := 3, cause := warmCause b.cause kind code }) proxies) := hproxies.of_eq rfl
  have hbegun : Remembers times begun := hbooted.endJobs.llBegins
  exact drain (warmReplies (.ite hbegun.sendJoin hbegun))

theorem warmRestart (h : Remembers times s) (hholds : imageHolds (Machine.warmSnuff (Machine.warmStop s)) = true)
    {by_ : Option (Fin 9)} {kind code : Nat} : Remembers times (Machine.warmRestart by_ kind code s) := by
  unfold Machine.warmRestart
  extract_lets snuffed
  rw [if_neg (not_not.mpr hholds)]
  have hstepped : Remembers times { Machine.vofsStep snuffed with time := snuffed.time + us 20 } := of_eq h.warmStop.warmSnuff.vofsStep rfl
  exact (hstepped.forAll fun _ _ hu => hu.resetBody).warmState.refreshWarn.reroute.warmScan.warmRelease

end Remembers
end Sys2Proof.Machine

open Sys2Proof Sys2Proof.Machine

/-- Settles O43: a record remembers the recent FC_ENGINE faults and is FC_FATAL where there are two; every operation of a warm restart posts records
below FC_ENGINE alone, so that it keeps what is remembered; a restart does not begin in the fatal hold. -/
theorem thirdEngineFaultIsFatal : Obligations.ThirdEngineFaultIsFatal := by
  refine ⟨fun r s hevent hfc hfatal => ⟨postRecord_third_engine hevent hfc, postRecord_early_engine hevent hfc hfatal⟩,
    fun by_ kind code s howed hholds => ?_, fun s hfatal => by simp [canRestart, hfatal]⟩
  have hnow : Remembers s.safety.engTimes s := ⟨rfl, howed⟩
  exact (hnow.warmRestart hholds).1

end

section
/-! ## Resets of fabric regions (R405) -/
namespace Sys2Proof.Machine
open Sys2Proof

/-! ### A write of LL_REGION_RESET that names one region -/

/-- The word of one set bit. -/
theorem bitAt_two_pow {n i j : Nat} (hj : j < n) : bitAt (BitVec.ofNat n (2 ^ j)) i = decide (j = i) := by
  rw [bitAt, BitVec.toNat_ofNat, Nat.mod_eq_of_lt (Nat.pow_lt_pow_right Nat.one_lt_two hj), Nat.testBit_two_pow]

theorem regionResetWrite_two_pow (z : RegionId) (s : State) : regionResetWrite (BitVec.ofNat 32 (2 ^ z.val)) s = regionReset z s := by
  have hz : z.val < 32 := z.isLt.trans (by decide)
  have hone : (List.finRange 8).filter (fun y : RegionId => decide (z.val = y.val)) = [z] := by decide +revert
  simp only [regionResetWrite, bitAt_two_pow hz, hone, forAll_cons, forAll_nil]

/-- The register is of the global window's upper half, which always answers: only the world check is left to pass. -/
theorem passes_llRegionReset {acc : Access} {s : State} (h : acc.secure = true) : Passes acc s 0x8028 true :=
  ⟨.inl h, by simp [answers]⟩

theorem exec_llRegionResetWrite_two_pow {acc : Access} (h : acc.secure = true) (z : RegionId) (s : State) :
    exec (.llRegionResetWrite acc (BitVec.ofNat 32 (2 ^ z.val))) s = .next (regionReset z s) := by
  calc exec (.llRegionResetWrite acc (BitVec.ofNat 32 (2 ^ z.val))) s
      = .next (access acc 0x8028 true (regionResetWrite (BitVec.ofNat 32 (2 ^ z.val))) s) := rfl
    _ = .next (regionReset z s) := by rw [access_passes (passes_llRegionReset h), regionResetWrite_two_pow]

/-! ### What the reset of a region does, state by state -/

section
variable {z : RegionId} {s : State}

theorem regionReset_held (hfx : fxHolds s z = true) : regionReset z s = s := if_pos hfx

theorem regionReset_loading (hfx : fxHolds s z = false) (hstate : (s.fabric.regions[z]).state = 3) {l : FbLoad}
    (hload : s.fabric.load = some l) (hz : l.region = z) : regionReset z s = loadFail 10 l.applied.length s := by
  rw [regionReset, hfx, hstate, hload]
  exact if_pos hz

theorem regionReset_configured (hfx : fxHolds s z = false) (hstate : (s.fabric.regions[z]).state = 2) :
    regionReset z s = initialValues z s := by
  rw [regionReset, hfx, hstate]
  rfl

theorem regionReset_empty_or_failed (hfx : fxHolds s z = false) (hstate : (s.fabric.regions[z]).state = 1 ∨ (s.fabric.regions[z]).state = 4) :
    regionReset z s = s := by
  obtain hstate | hstate := hstate <;> rw [regionReset, hfx, hstate] <;> rfl

end

/-! ### What the initial values leave (R370, R378) -/

theorem initialValues_region (z : RegionId) (s : State) :
    (initialValues z s).fabric.regions[z] = regionInitial s.time s.fabric.regions[z] := modRegion_same _ _ _

@[simp] theorem initialValues_kio (z : RegionId) (s : State) : (initialValues z s).fabric.kio = s.fabric.kio := rfl

@[simp] theorem regionInitial_cmdReady (t : Nat) (r : Region) : (regionInitial t r).cmdReady = false := by rw [regionInitial]
@[simp] theorem regionInitial_bram (t : Nat) (r : Region) : (regionInitial t r).bram = r.bram := by rw [regionInitial]
@[simp] theorem regionInitial_extId (t : Nat) (r : Region) : (regionInitial t r).extId = r.extId := by rw [regionInitial]

end Sys2Proof.Machine

open Sys2Proof Sys2Proof.Machine

/-- Settles O59: a write of one bit is the reset of one region, whose effect is chosen by the state of the region and by what its core's FX engine
runs. -/
theorem regionResetByState : Obligations.RegionResetByState := by
  rintro acc z s _ hsecure rfl
  rw [exec_llRegionResetWrite_two_pow hsecure]
  refine ⟨fun hfx => ⟨fun hstate l hload hz => ?loading, fun hstate => ?configured, fun hstate => ?emptyOrFailed⟩, fun hfx => ?held⟩
  case loading => rw [regionReset_loading hfx hstate hload hz]
  case configured =>
    rw [regionReset_configured hfx hstate]
    refine ⟨initialValues z s, rfl, rfl, ?_, ?_, initialValues_kio z s, ?_⟩
    all_goals simp only [initialValues_region, regionInitial_cmdReady, regionInitial_bram, regionInitial_extId]
  case emptyOrFailed => rw [regionReset_empty_or_failed hfx hstate]
  case held => rw [regionReset_held hfx]

end

section
-- One declaration after another: fewer threads, so that the check of the whole text keeps within its memory.
set_option Elab.async false
/-! PROOFS. The machine as a whole: its step, its reset values, the packing of a page. -/
namespace Sys2Proof.Machine
open Sys2Proof

theorem coldCore_mem_wf : Core.cold.mem.wf :=
  ⟨memory_nil_wf, memory_nil_wf, memory_nil_wf, memory_nil_wf, memory_nil_wf, memory_nil_wf, memory_nil_wf⟩

/-- Every command is a step (log 2): its arm gives a next state. -/
theorem exec_next (i : Instr) (s : State) : ∃ t : State, exec i s = .next t := by
  cases i <;> exact ⟨_, rfl⟩

/-! ### Unpacking a page (R182 to R185) -/

/-- The bytes that differ go back to their places: bit 64 - n + i of the mask says whether byte i of the last n does. -/
theorem zcRestore_filter (z : Byte) (mask : Nat) (rest : List Byte) (n : Nat) (hn : n ≤ 64) : ∀ bs : List Byte, bs.length = n →
    (∀ i < n, mask.testBit (64 - n + i) = zcDiffers z bs i) → zcRestore z mask n (bs.filter (fun b => decide (b ≠ z)) ++ rest) = bs := by
  induction n with
  | zero => intro bs hlen _; simp [zcRestore, List.length_eq_zero_iff.mp hlen]
  | succ n ih =>
    intro bs hlen hbits
    obtain ⟨b, tl, rfl⟩ := List.exists_cons_of_length_eq_add_one hlen
    have htail : ∀ i < n, mask.testBit (64 - n + i) = zcDiffers z tl i := fun i hi => by
      have h := hbits (i + 1) (by omega)
      rwa [show 64 - (n + 1) + (i + 1) = 64 - n + i by omega] at h
    have hhead : mask.testBit (63 - n) = decide (b ≠ z) := by
      simpa [zcDiffers, show 64 - (n + 1) = 63 - n by omega] using hbits 0 (by omega)
    have hrec := ih (by omega) tl (by simpa using hlen) htail
    by_cases hb : b = z
    · simpa [zcRestore, hhead, hb] using hrec
    · simpa [zcRestore, hhead, hb] using hrec

/-- A block is restored from its mask and its record's bytes, whatever follows. -/
theorem zcRestore_zcBlock {z : Byte} {bs : List Byte} (rest : List Byte) (hlen : bs.length = 64) :
    zcRestore z (zcMask z bs) 64 ((zcBlock z bs ++ rest).drop 8) = bs := by
  rw [zcBlock_eq, List.append_assoc, List.drop_left' (length_leBytes 8 _)]
  exact zcRestore_filter z _ rest 64 (by omega) bs hlen (fun i hi => by rw [Nat.sub_self, Nat.zero_add, testBit_zcMask z bs hi])

theorem leNat_take_zcBlock_append (z : Byte) (bs rest : List Byte) : leNat ((zcBlock z bs ++ rest).take 8) = zcMask z bs := by
  rw [List.take_append_of_le_length (by rw [zcBlock_eq, List.length_append, length_leBytes]; omega), leNat_take_zcBlock]

/-- The record of a block is followed by what stands behind it. -/
theorem drop_zcBlock {z : Byte} {bs : List Byte} (rest : List Byte) (hlen : bs.length = 64) :
    (zcBlock z bs ++ rest).drop (8 + popcount 64 (zcMask z bs)) = rest := List.drop_left' (length_zcBlock hlen)

/-- The blocks of a page come back from their records. -/
theorem zcBlocks_records (z : Byte) (rest : List Byte) (n : Nat) : ∀ bs : List Byte, bs.length = 64 * n →
    zcBlocks z n ((chunks 64 n bs).flatMap (zcBlock z) ++ rest) = bs := by
  induction n with
  | zero => intro bs hlen; simp [zcBlocks, List.length_eq_zero_iff.mp hlen]
  | succ n ih =>
    intro bs hlen
    have hblock : (bs.take 64).length = 64 := by rw [List.length_take]; omega
    have htail := ih (bs.drop 64) (by rw [List.length_drop]; omega)
    simp only [chunks, List.flatMap_cons, List.append_assoc, zcBlocks, leNat_take_zcBlock_append, zcRestore_zcBlock _ hblock, drop_zcBlock _ hblock,
      htail, List.take_append_drop]

/-- The masks say how many bytes the records take. -/
theorem zcNeeds_records (z : Byte) (rest : List Byte) (n : Nat) : ∀ bs : List Byte, bs.length = 64 * n →
    zcNeeds n ((chunks 64 n bs).flatMap (zcBlock z) ++ rest) = ((chunks 64 n bs).flatMap (zcBlock z)).length := by
  induction n with
  | zero => intro bs _; rfl
  | succ n ih =>
    intro bs hlen
    have hblock : (bs.take 64).length = 64 := by rw [List.length_take]; omega
    have htail := ih (bs.drop 64) (by rw [List.length_drop]; omega)
    simp only [chunks, List.flatMap_cons, List.append_assoc, zcNeeds, leNat_take_zcBlock_append, drop_zcBlock _ hblock, htail, List.length_append,
      length_zcBlock hblock]

end Sys2Proof.Machine
open Sys2Proof Sys2Proof.Machine

/-- Settles O1. -/
theorem stepTakesFrontCommand : Obligations.StepTakesFrontCommand := by
  intro s i rest hpending
  rw [step, hpending]

/-- Settles O3: an empty queue passes a cycle, and each command's arm gives a next state. -/
theorem everyStepAnswersNext : Obligations.EveryStepAnswersNext := by
  intro s
  cases hpending : s.pending with
  | nil => exact ⟨idleStep s, by rw [step, hpending]⟩
  | cons i rest =>
    obtain ⟨t, ht⟩ := exec_next i { s with pending := rest }
    exact ⟨t, by rw [step, hpending]; exact ht⟩

/-- Settles O4. -/
theorem resetHoldsSpecValues : Obligations.ResetHoldsSpecValues := by
  refine ⟨rfl, rfl, rfl, rfl, rfl, rfl, rfl, rfl, rfl, rfl, rfl, rfl, rfl, rfl, ?_, ?_⟩
  · decide
  · decide

/-- Settles O5: every memory is empty, and the pins are low. -/
theorem invariantsHoldAtReset : Obligations.InvariantsHoldAtReset := by
  refine ⟨⟨fun c => ?_, memory_nil_wf, memory_nil_wf, memory_nil_wf, memory_nil_wf, fun z => ?_⟩, fun _ => ⟨rfl, rfl⟩, ?_⟩
  · have hc : State.reset.cores[c] = Core.cold := by simp [State.reset]
    exact hc ▸ coldCore_mem_wf
  · have hz : State.reset.fabric.regions[z] = Region.cold := by simp [State.reset, Fabric.cold]
    exact hz ▸ ⟨memory_nil_wf, memory_nil_wf⟩
  · simp [State.reset, Boundary.reset]

/-- Settles O24: record by record, the mask and the bytes that its bits select give the block back. -/
theorem packedPageIsRestored : Obligations.PackedPageIsRestored :=
  fun z bs rest hlen => ⟨zcBlocks_records z rest 64 bs hlen, zcNeeds_records z rest 64 bs hlen⟩

end

section
-- One declaration after another: fewer threads, so that the check of the whole text keeps within its memory.
set_option Elab.async false
/-! PROOFS. The register window (R11 to R13): which accesses pass, where each register lies, and the commands that write or read and clear one. -/
namespace Sys2Proof.Machine
open Sys2Proof

/-! ### Register writes (R11) -/

section
variable {acc : Access} {off : BitVec 25} {n : Nat} {val : Dword} {s : State}

/-- An aligned write of 32 bits that passes writes the register. -/
theorem exec_registerWrite_b32 (hn : off.toNat = n) (ha : n % 4 = 0) (hp : Passes acc s n true) :
    exec (.registerWrite acc off .b32 val) s = .next (writeReg acc.secure n (val.setWidth 32) s) := by
  have hworld : ¬ (¬ acc.secure = true ∧ secureAt s n true = true) := by
    obtain ⟨h | h, -⟩ := hp <;> simp [h]
  simp only [exec, execRegisterWrite, windowWrite, hn, if_neg hworld, if_pos ha, write32, access_passes hp]

/-- The world check of a 32-bit write is the one of its access. -/
theorem windowWrite_b32 (ha : n % 4 = 0) : windowWrite acc n .b32 val s = write32 acc n (val.setWidth 32) s := by
  unfold windowWrite write32 access
  split
  · rfl
  · simp only [if_true]

/-- A write of 64 bits is two of 32 bits, the lower address first. -/
theorem windowWrite_b64 (hworld : acc.secure = true ∨ secureAt s n true = false) (ha : n % 8 = 0) :
    windowWrite acc n .b64 val s = windowWrite acc (n + 4) .b32 (val >>> 32) (windowWrite acc n .b32 val s) := by
  have hworld' : ¬ (¬ acc.secure = true ∧ secureAt s n true = true) := by
    obtain h | h := hworld <;> simp [h]
  rw [windowWrite_b32 (n := n + 4) (by omega), windowWrite_b32 (n := n) (by omega), windowWrite, if_neg hworld']
  exact if_pos ha

/-- A misaligned write and a narrower one are ignored. -/
theorem windowWrite_ignored {size : AccSize} (hworld : acc.secure = true ∨ secureAt s n true = false)
    (h32 : size = .b32 → n % 4 ≠ 0) (h64 : size = .b64 → n % 8 ≠ 0) : windowWrite acc n size val s = s := by
  have hworld' : ¬ (¬ acc.secure = true ∧ secureAt s n true = true) := by
    obtain h | h := hworld <;> simp [h]
  unfold windowWrite
  rw [if_neg hworld']
  cases size with
  | b8 => rfl
  | b16 => rfl
  | b32 => exact if_neg (h32 rfl)
  | b64 => exact if_neg (h64 rfl)

end

/-- The number of the block of a given size at which an offset lies. -/
theorem block_of_offset {base size i o : Nat} (ho : o < size) : (base + size * i + o - base) / size = i := by
  rw [Nat.add_assoc, Nat.add_sub_cancel_left, Nat.mul_add_div (by omega), Nat.div_eq_of_lt ho, Nat.add_zero]

/-- The place of an offset in its block. -/
theorem place_of_offset {base size i o : Nat} (ho : o < size) : (base + size * i + o - base) % size = o := by
  rw [Nat.add_assoc, Nat.add_sub_cancel_left, Nat.mul_add_mod, Nat.mod_eq_of_lt ho]

theorem fin_block {m : Nat} {hm : 0 < m} (i : Fin m) {base size o : Nat} (ho : o < size) :
    fin m ((base + size * i.val + o - base) / size) hm = i :=
  Fin.ext ((congrArg (· % m) (block_of_offset ho)).trans (Nat.mod_eq_of_lt i.isLt))

theorem ofNat25_toNat {n : Nat} (h : n < 2 ^ 25) : (BitVec.ofNat 25 n).toNat = n := by
  rw [BitVec.toNat_ofNat, Nat.mod_eq_of_lt h]

/-! ### Which accesses pass (R12, R13) -/

/-- Outside stream ports, links, fabric and cores every unit answers. -/
theorem answers_of_plain {s : State} {n : Nat} (h : n < 0x200 ∨ 0x300 ≤ n ∧ n < 0xB0100) : answers s n = true := by
  unfold answers
  rw [if_neg (by omega), if_neg (by omega), if_neg (by omega), if_neg (by omega), if_neg (by omega)]

/-- The lower half of the global window is open to both worlds, but for stream ports and the memory port. -/
theorem secureAt_low {s : State} {n : Nat} {w : Bool} (h : n < 0x200 ∨ 0x300 ≤ n ∧ n < 0x400) : secureAt s n w = false := by
  unfold secureAt
  rw [if_pos (by omega), if_neg (by omega), decide_eq_false (by omega : ¬ 0x400 ≤ n)]
  simp

/-- A partition's page is of the partition's world. -/
theorem secureAt_page {s : State} {p : PartId} {o : Nat} {w : Bool} (ho : o < 0x10000) :
    secureAt s (pageOff p o) w = (s.host.parts[p]).secure := by
  have hp : fin 8 ((pageOff p o - 0x10000) / 0x10000) = p := fin_block p ho
  unfold secureAt
  rw [if_neg (by unfold pageOff; omega), if_neg (by unfold pageOff; omega), if_pos (by unfold pageOff; omega)]
  exact congrArg (fun q : PartId => (s.host.parts[q]).secure) hp

theorem passes_page {acc : Access} {s : State} {p : PartId} {o : Nat} {w : Bool} (ho : o < 0x10000)
    (h : acc.secure = true ∨ (s.host.parts[p]).secure = false) : Passes acc s (pageOff p o) w :=
  ⟨h.imp_right (secureAt_page ho).trans, answers_of_plain (by unfold pageOff; omega)⟩

theorem coreOff_core {c : CoreId} {o : Nat} (ho : o < 0x100000) : fin 6 ((coreOff c o - 0x100000) / 0x100000) = c :=
  fin_block c ho

/-- A core's window is of the core's world, but for DX_CORE_CTRL. -/
theorem secureAt_core {s : State} {c : CoreId} {o : Nat} {w : Bool} (ho : o < 0x100000) (hctrl : o / 4 ≠ 0x4520 / 4) :
    secureAt s (coreOff c o) w = (s.cores[c]).secure := by
  have hmod : (coreOff c o - 0x100000) % 0x100000 = o := place_of_offset ho
  unfold secureAt
  rw [if_neg (by unfold coreOff; omega), if_neg (by unfold coreOff; omega), if_neg (by unfold coreOff; omega),
    if_neg (by unfold coreOff; omega), if_neg (by unfold coreOff; omega), if_neg (by unfold coreOff; omega),
    if_pos (by unfold coreOff; omega), hmod, decide_eq_false hctrl, Bool.and_false, Bool.or_false]
  exact congrArg (fun d : CoreId => (s.cores[d]).secure) (coreOff_core ho)

theorem answers_core {s : State} {c : CoreId} {o : Nat} (ho : o < 0x100000) :
    answers s (coreOff c o) = (corePresent s.grade c && !scrubbing s 0 c.val) := by
  unfold answers
  rw [if_neg (by unfold coreOff; omega), if_neg (by unfold coreOff; omega), if_neg (by unfold coreOff; omega),
    if_neg (by unfold coreOff; omega), if_pos (by unfold coreOff; omega), coreOff_core ho]

theorem passes_core {acc : Access} {s : State} {c : CoreId} {o : Nat} {w : Bool} (ho : o < 0x100000) (hctrl : o / 4 ≠ 0x4520 / 4)
    (h : CoreOpen acc c s) : Passes acc s (coreOff c o) w := by
  obtain ⟨hpresent, hscrub, hworld⟩ := h
  exact ⟨hworld.imp_right (secureAt_core ho hctrl).trans, by rw [answers_core ho, hpresent, hscrub]; rfl⟩

/-! ### Where each register lies (Table 01.1) -/

theorem writeReg_page {secure : Bool} {p : PartId} {o : Nat} {val : Word} {s : State} (ho : o < 0x10000) :
    writeReg secure (pageOff p o) val s = writePage p o val s := by
  have hp : fin 8 ((pageOff p o - 0x10000) / 0x10000) = p := fin_block p ho
  have hmod : (pageOff p o - 0x10000) % 0x10000 = o := place_of_offset ho
  unfold writeReg
  rw [if_neg (by unfold pageOff; omega), if_neg (by unfold pageOff; omega), if_pos (by unfold pageOff; omega), hp, hmod]

theorem writeReg_core {secure : Bool} {c : CoreId} {o : Nat} {val : Word} {s : State} (ho : o < 0x100000) :
    writeReg secure (coreOff c o) val s = writeCore c o val s := by
  have hmod : coreOff c o % 0x100000 = o := by unfold coreOff; omega
  unfold writeReg
  rw [if_neg (by unfold coreOff; omega), if_neg (by unfold coreOff; omega), if_neg (by unfold coreOff; omega),
    if_neg (by unfold coreOff; omega), if_neg (by unfold coreOff; omega), if_pos (by unfold coreOff; omega), coreOff_core ho, hmod]

theorem writeLow_cls {secure : Bool} {n : Fin 4} {val : Word} {s : State} : writeLow secure (0x400 + 4 * n.val) val s =
    { s with sg := { s.sg with cls := updAt s.sg.cls n (fun _ => val &&& 0xFF0F) } } := by
  have hn : fin 4 ((0x400 + 4 * n.val - 0x400) / 4) = n := Fin.ext (by simp only [fin]; omega)
  unfold writeLow
  rw [if_neg (by omega), if_neg (by omega), if_neg (by omega), if_neg (by omega), if_pos (by omega), hn]

theorem writeLow_cap {secure : Bool} {p : PartId} {val : Word} {s : State} : writeLow secure (0x410 + 4 * p.val) val s =
    { s with sg := { s.sg with cap := updAt s.sg.cap p (fun _ => val.setWidth 16) } } := by
  have hp : fin 8 ((0x410 + 4 * p.val - 0x410) / 4) = p := Fin.ext (by simp only [fin]; omega)
  unfold writeLow
  rw [if_neg (by omega), if_neg (by omega), if_neg (by omega), if_neg (by omega), if_neg (by omega), if_pos (by omega), hp]

/-- A descriptor's register of the non-secure table (Table 17.7). -/
theorem writeHigh_mrdNs {k : Fin 16} {r : Nat} {val : Word} {s : State} (hr : r < 16) : writeHigh (0x8100 + r + 16 * k.val) val s =
    modBoot (fun b => { b with mrdNs := updAt b.mrdNs k (writeMrd r val) }) s := by
  have hk : fin 16 ((0x8100 + r + 16 * k.val - 0x8100) / 16) = k := Fin.ext (by simp only [fin]; omega)
  have hmod : (0x8100 + r + 16 * k.val) % 16 = r := by omega
  unfold writeHigh
  rw [if_neg (by omega), if_neg (by omega), if_neg (by omega), if_neg (by omega), if_neg (by omega), if_pos (by omega), hk, hmod]

/-- A descriptor's register of the secure table (Table 17.7). -/
theorem writeHigh_mrdS {k : Fin 16} {r : Nat} {val : Word} {s : State} (hr : r < 16) : writeHigh (0x8200 + r + 16 * k.val) val s =
    modBoot (fun b => { b with mrdS := updAt b.mrdS k (writeMrd r val) }) s := by
  have hk : fin 16 ((0x8200 + r + 16 * k.val - 0x8200) / 16) = k := Fin.ext (by simp only [fin]; omega)
  have hmod : (0x8200 + r + 16 * k.val) % 16 = r := by omega
  unfold writeHigh
  rw [if_neg (by omega), if_neg (by omega), if_neg (by omega), if_neg (by omega), if_neg (by omega), if_neg (by omega), if_pos (by omega),
    hk, hmod]

theorem writeReg_low {secure : Bool} {n : Nat} {val : Word} {s : State} (h : n < 0x8000) :
    writeReg secure n val s = writeLow secure n val s := if_pos h

theorem writeReg_high {secure : Bool} {n : Nat} {val : Word} {s : State} (h : 0x8000 ≤ n ∧ n < 0x10000) :
    writeReg secure n val s = writeHigh n val s := by
  unfold writeReg
  rw [if_neg (by omega), if_pos (by omega)]

/-- A write of a register of a partition's page. -/
theorem exec_pageWrite {acc : Access} {p : PartId} {o : Nat} {val : Dword} {s : State} (ho : o < 0x10000) (ha : o % 4 = 0)
    (h : acc.secure = true ∨ (s.host.parts[p]).secure = false) :
    exec (.registerWrite acc (BitVec.ofNat 25 (pageOff p o)) .b32 val) s = .next (writePage p o (val.setWidth 32) s) := by
  have hoff : (BitVec.ofNat 25 (pageOff p o)).toNat = pageOff p o := ofNat25_toNat (by unfold pageOff; omega)
  rw [exec_registerWrite_b32 hoff (by unfold pageOff; omega) (passes_page ho h), writeReg_page ho]

/-- The thermal threshold: the warning follows, and its rising edge is a cause (R27). -/
theorem refreshWarn_eq (s : State) : refreshWarn s = { s with bnd := { s.bnd with
    warn := decide (s.bnd.warnC.toInt ≤ s.bnd.tempC.toInt)
    gintStatus := if s.bnd.warnC.toInt ≤ s.bnd.tempC.toInt ∧ s.bnd.warn = false then s.bnd.gintStatus ||| 0x100 else s.bnd.gintStatus } } := by
  unfold refreshWarn warmEnough
  by_cases hwarm : s.bnd.warnC.toInt ≤ s.bnd.tempC.toInt <;> cases hold : s.bnd.warn <;> simp [hwarm, setGint]

/-- A command that reads a register and clears it, where its access passes. -/
theorem exec_rcRead {i : Instr} {acc : Access} {off : Nat} {get : State → Word} {clear : State → State} {s : State}
    (he : exec i s = .next (rcRead acc off get clear s)) (hp : Passes acc s off false) :
    exec i s = .next (clear { s with busData := (get s).zeroExtend 64 }) := by
  rw [he, rcRead, access_passes hp]

/-- The set registers lie in the core's window, and DX_CORE_CTRL is none of them. -/
theorem setAt_range {o : Nat} {r : EngId × SetId × Nat} (h : setAt o = some r) : o < 0x100000 ∧ o / 4 ≠ 0x4520 / 4 := by
  unfold setAt at h
  repeat' split at h
  all_goals first | omega | simp at h

/-- CONFIG_SET_WRITE at the offset of a set register writes that register. -/
theorem exec_configSetWrite {acc : Access} {c : CoreId} {o i : Nat} {val : Word} {s : State} {e : EngId} {n : SetId}
    (hset : setAt o = some (e, n, i)) (ha : o % 4 = 0) (hopen : CoreOpen acc c s) :
    exec (.configSetWrite acc (BitVec.ofNat 25 (coreOff c o)) val) s = .next (setWrite c e n i val s) := by
  obtain ⟨ho, hctrl⟩ := setAt_range hset
  have hoff : (BitVec.ofNat 25 (coreOff c o)).toNat = coreOff c o := ofNat25_toNat (by unfold coreOff; omega)
  have hmod : coreOff c o % 0x100000 = o := by unfold coreOff; omega
  have hwindow : 0x100000 ≤ coreOff c o ∧ coreOff c o < 0x700000 ∧ coreOff c o % 4 = 0 := by unfold coreOff; omega
  simp only [exec, execConfigSetWrite, hoff, access_passes (passes_core ho hctrl hopen), if_pos hwindow, coreOff_core ho, hmod, coreSetWrite, hset]

end Sys2Proof.Machine

open Sys2Proof Sys2Proof.Machine

/-- Settles O9: a write is decided by its width and alignment; each register's write is the access of its offset, which the window's decoding takes to
the register's own effect. -/
theorem registersTakeWrites : Obligations.RegistersTakeWrites := by
  refine ⟨fun acc off val s hworld => ⟨fun ha hanswers => ?_, fun ha u hu => ?_, fun ha => ?_, fun ha => ?_, ?_, ?_⟩,
    fun acc val s p c k n => ⟨?_, ?_, fun hsecure => ⟨?_, ?_, ?_, ?_, ?_, ?_⟩, fun hworld => ⟨?_, ?_, ?_, ?_⟩, fun hopen => ?_⟩,
    fun acc val p s => ⟨?_, fun hworld => ?_, fun hsecure => ⟨?_, ?_⟩⟩⟩
  · exact exec_registerWrite_b32 rfl ha ⟨hworld, hanswers⟩
  · cases hu
    have hnext : (off + 4).toNat = off.toNat + 4 := by bv_omega
    simp only [exec, execRegisterWrite, windowWrite_b64 hworld ha, hnext]
  · exact congrArg Host.Outcome.next (windowWrite_ignored hworld (fun _ => ha) (by simp))
  · exact congrArg Host.Outcome.next (windowWrite_ignored hworld (by simp) (fun _ => ha))
  · exact congrArg Host.Outcome.next (windowWrite_ignored hworld (by simp) (by simp))
  · exact congrArg Host.Outcome.next (windowWrite_ignored hworld (by simp) (by simp))
  · rw [exec_registerWrite_b32 (n := 0x108) rfl rfl ⟨.inr (secureAt_low (by omega)), answers_of_plain (by omega)⟩, writeReg_low (by omega)]
    simp [writeLow]
  · rw [exec_registerWrite_b32 (n := 0x304) rfl rfl ⟨.inr (secureAt_low (by omega)), answers_of_plain (by omega)⟩, writeReg_low (by omega)]
    simp [writeLow, refreshWarn_eq]
  · rw [exec_registerWrite_b32 (n := 0xE104) rfl rfl ⟨.inl hsecure, answers_of_plain (by omega)⟩, writeReg_high (by omega)]
    simp [writeHigh]
  · rw [exec_registerWrite_b32 (n := 0xA0054) rfl rfl ⟨.inl hsecure, answers_of_plain (by omega)⟩]
    simp [writeReg, writeSafety]
  · rw [exec_registerWrite_b32 (n := 0x8100 + 0 + 16 * k.val) (ofNat25_toNat (by omega)) (by omega) ⟨.inl hsecure, answers_of_plain (by omega)⟩,
      writeReg_high (by omega), writeHigh_mrdNs (by omega)]
    rfl
  · rw [exec_registerWrite_b32 (n := 0x8200 + 4 + 16 * k.val) (ofNat25_toNat (by omega)) (by omega) ⟨.inl hsecure, answers_of_plain (by omega)⟩,
      writeReg_high (by omega), writeHigh_mrdS (by omega)]
    rfl
  · rw [exec_registerWrite_b32 (ofNat25_toNat (by omega)) (by omega) ⟨.inl hsecure, answers_of_plain (by omega)⟩,
      writeReg_low (by omega), writeLow_cls]
  · rw [exec_registerWrite_b32 (ofNat25_toNat (by omega)) (by omega) ⟨.inl hsecure, answers_of_plain (by omega)⟩,
      writeReg_low (by omega), writeLow_cap, BitVec.setWidth_setWidth_of_le _ (by decide)]
  · rw [exec_pageWrite (by omega) rfl hworld]
    simp [writePage]
  · rw [exec_pageWrite (by omega) rfl hworld]
    simp [writePage]
  · rw [exec_pageWrite (by omega) rfl hworld]
    simp [writePage]
  · rw [exec_pageWrite (by omega) rfl hworld]
    simp [writePage]
  · have hoff : (BitVec.ofNat 25 (coreOff c 0x4840)).toNat = coreOff c 0x4840 := ofNat25_toNat (by unfold coreOff; omega)
    rw [exec_registerWrite_b32 hoff (by unfold coreOff; omega) (passes_core (by omega) (by omega) hopen), writeReg_core (by omega)]
    simp [writeCore]
  · exact congrArg Host.Outcome.next (access_passes ⟨.inr (secureAt_low (by omega)), answers_of_plain (by omega)⟩)
  · exact congrArg Host.Outcome.next (access_passes (passes_page (by omega) hworld))
  · exact congrArg Host.Outcome.next (access_passes ⟨.inl hsecure, answers_of_plain (by omega)⟩)
  · exact congrArg Host.Outcome.next (access_passes ⟨.inl hsecure, answers_of_plain (by omega)⟩)

/-- Settles O10: each of these commands is the read that clears of its register, whose access passes. -/
theorem countersClearOnRead : Obligations.CountersClearOnRead := by
  refine ⟨fun acc c s => ?_, fun acc c s => ?_, fun acc n p k l z s => ?_⟩
  · refine ⟨?_, ?_, ?_, ?_, ?_, ?_, ?_, ?_, ?_, ?_, ?_, ?_, ?_⟩
    all_goals exact fun hpasses => (exec_rcRead rfl hpasses).trans rfl
  · refine ⟨?_, ?_, ?_, ?_, ?_, ?_, fun e => ?_, ?_⟩
    all_goals exact fun hpasses => (exec_rcRead rfl hpasses).trans rfl
  · refine ⟨?_, ?_, ?_, ?_, ?_, ?_, ?_, ?_, ?_, ?_, ?_, ?_, ?_, ?_, ?_, ?_, ?_, ?_, ?_⟩
    all_goals exact fun hpasses => (exec_rcRead rfl hpasses).trans rfl

/-- Settles O13: the access passes, and the write of the register asks whether the core is halted. -/
theorem configSetWriteNeedsHaltedCore : Obligations.ConfigSetWriteNeedsHaltedCore := by
  intro acc c o val s e n i hset ha hopen
  rw [exec_configSetWrite hset ha hopen]
  exact ⟨fun hhalted => congrArg Host.Outcome.next (if_pos hhalted),
    fun hrunning => congrArg Host.Outcome.next (if_neg (Bool.eq_false_iff.mp hrunning))⟩

end

section
-- One declaration after another: fewer threads, so that the check of the whole text keeps within its memory.
set_option Elab.async false
/-! PROOFS. Stream ports (R23 to R25, R121 to R124): what a ring restart and an arriving line change. -/
namespace Sys2Proof.Machine
open Sys2Proof

theorem modCore_self (c : CoreId) (s : State) : modCore c (fun k => k) s = s := by
  simp only [modCore, updAt_self]

theorem modMx_self (c : CoreId) (s : State) : modMx c (fun m => m) s = s := modCore_self c s

@[simp] theorem modPort_same (n : StreamId) (f : StrmPort → StrmPort) (s : State) : (modPort n f s).bnd.strm[n] = f s.bnd.strm[n] :=
  updAt_get_same _ _ _

theorem modPort_self (n : StreamId) (s : State) : modPort n (fun x => x) s = s := by
  simp only [modPort, updAt_self]

theorem releaseSlots_zero (n : StreamId) (s : State) : releaseSlots n 0 s = s := by
  simpa [releaseSlots] using modPort_self n s

/-- The two registers of a stream port answer alike and are of the same world. -/
theorem passes_streamRing {acc : Access} {n : StreamId} {s : State} (h : Passes acc s (0x200 + 0x40 * n.val) true) :
    Passes acc s (0x204 + 0x40 * n.val) true := by
  have hport : (0x204 + 0x40 * n.val - 0x200) / 0x40 = (0x200 + 0x40 * n.val - 0x200) / 0x40 := by omega
  have hctrl : 0x200 ≤ 0x200 + 0x40 * n.val ∧ 0x200 + 0x40 * n.val < 0x300 := by omega
  have hring : 0x200 ≤ 0x204 + 0x40 * n.val ∧ 0x204 + 0x40 * n.val < 0x300 := by omega
  have hworld : secureAt s (0x204 + 0x40 * n.val) true = secureAt s (0x200 + 0x40 * n.val) true := by
    unfold secureAt
    rw [if_pos (by omega), if_pos hring, if_pos (by omega), if_pos hctrl, hport,
      decide_eq_true (by omega : (0x204 + 0x40 * n.val) % 0x40 < 0x10), decide_eq_true (by omega : (0x200 + 0x40 * n.val) % 0x40 < 0x10)]
  have hanswer : answers s (0x204 + 0x40 * n.val) = answers s (0x200 + 0x40 * n.val) := by
    unfold answers
    rw [if_pos hring, if_pos hctrl, hport]
  exact ⟨hworld ▸ h.1, hanswer ▸ h.2⟩

/-! ### Configuration (R24, R25) -/

/-- What R25 refuses of a control word. -/
theorem streamRefused_of {secure : Bool} {n : StreamId} {val : Word} {s : State}
    (h : 6 ≤ fld val 1 3 ∨ (bitAt val 0 = true ∧ (coreCount s.grade ≤ fld val 1 3 ∨
        (secure = false ∧ ∃ k, s.cores[fld val 1 3]? = some k ∧ k.secure = true) ∨
        fld (s.bnd.strm[n]).ring 16 8 = 0 ∨ fld (s.bnd.strm[n]).ring 24 8 = 0 ∨
        2 ^ 23 < slotBase (s.bnd.strm[n]).ring (fld (s.bnd.strm[n]).ring 16 8)))) :
    streamRefused secure n val s = true := by
  unfold streamRefused
  extract_lets ring
  rcases h with h | ⟨hen, h⟩
  · simp [h]
  · rw [hen, Bool.true_and, Bool.or_eq_true]
    refine .inr ?_
    rcases hcore : s.cores[fld val 1 3]? with _ | k
    · rfl
    · simp only [Bool.or_eq_true, decide_eq_true_eq, Bool.not_eq_true', decide_eq_false_iff_not, Bool.and_eq_true]
      rcases h with h | ⟨hsecure, k', hk, hsec⟩ | h | h | h
      · simp [Nat.not_lt.mpr h]
      · rw [hcore, Option.some.injEq] at hk
        simp [hsecure, hk, hsec]
      · exact .inl (.inl (.inr h))
      · exact .inl (.inr h)
      · exact .inr h

/-- A ring restart changes one port and one core's cursor. -/
theorem ringRestart_changes (c : CoreId) (n : StreamId) (s : State) :
    ringRestart c n s = modMx c (fun m => { m with cursor := (if m.cursor.port = n then
      { m.cursor with seeking := true, drain := false, received := 0, released := 0 } else m.cursor) })
      (modPort n (fun x => { x with wpos := 0, credits := BitVec.ofNat 8 (fld x.ring 16 8), held := [] }) s) := rfl

/-- Only the cursor of a core's stem feeder is changed. -/
theorem modCursor_core (c d : CoreId) (f : StemCursor → StemCursor) (s : State) :
    (modCursor c f s).cores[d] = { (s.cores[d]) with mx := { (s.cores[d]).mx with cursor := ((modCursor c f s).cores[d]).mx.cursor } } := by
  by_cases hd : d = c
  · subst hd
    simp only [modCursor, modMx, modCore_same]
  · simp only [modCursor, modMx, modCore_other _ _ _ _ hd]

/-! ### Lines -/

theorem modMx_modMx (c : CoreId) (f g : Mx → Mx) (s : State) : modMx c f (modMx c g s) = modMx c (fun m => f (g m)) s :=
  modCore_modCore _ _ _ _

theorem modCursor_modMx (c : CoreId) (f : StemCursor → StemCursor) (g : Mx → Mx) (s : State) :
    modCursor c f (modMx c g s) = modMx c (fun m => { g m with cursor := f (g m).cursor }) s := modMx_modMx _ _ _ _

/-- A hunt for line 0 releases the lines before it. -/
theorem stemHunt_changes (c : CoreId) (n : StreamId) (s : State) : ∃ (j : Nat) (m : Mx → Mx),
    stemHunt c n s = modMx c m (releaseSlots n j s) := by
  unfold stemHunt
  extract_lets x mem k s'
  cases x.held.drop k with
  | nil => exact ⟨k, _, rfl⟩
  | cons h hs => exact ⟨k, _, modCursor_modMx _ _ _ _⟩

/-- The feeder's part when a line has arrived: it releases the first j lines held, and changes its own registers. -/
theorem stemArrive_changes (c : CoreId) (n : StreamId) (s : State) : ∃ (j : Nat) (m : Mx → Mx),
    stemArrive c n s = modMx c m (releaseSlots n j s) ∧
      ((s.cores[c]).mx.cursor.port ≠ n ∨ (s.cores[c]).mx.cursor.seeking = false → j = 0) := by
  have hkeeps : s = modMx c (fun m => m) (releaseSlots n 0 s) := by rw [modMx_self, releaseSlots_zero]
  have hcursor (f : StemCursor → StemCursor) : modCursor c f s = modMx c (fun m => { m with cursor := f m.cursor }) (releaseSlots n 0 s) := by
    rw [releaseSlots_zero]; rfl
  unfold stemArrive
  extract_lets u x
  by_cases hport : u.port = n
  · by_cases hseek : u.seeking = true
    · have hno (j : Nat) : (s.cores[c]).mx.cursor.port ≠ n ∨ (s.cores[c]).mx.cursor.seeking = false → j = 0 := fun h =>
        (h.elim (fun h => h hport) (fun h => Bool.false_ne_true (h.symm.trans hseek))).elim
      rw [if_neg (not_not.mpr hport), if_neg (not_not.mpr hseek)]
      split
      · obtain ⟨j, m, h⟩ := stemHunt_changes c n s
        exact ⟨j, m, h, hno j⟩
      · split
        · cases x.held with
          | nil => exact ⟨0, _, hkeeps, fun _ => rfl⟩
          | cons h tl =>
            cases tl with
            | nil =>
              dsimp only
              split
              · exact ⟨1, _, rfl, hno 1⟩
              · exact ⟨0, _, hcursor _, fun _ => rfl⟩
            | cons h' tl => exact ⟨0, _, hkeeps, fun _ => rfl⟩
        · exact ⟨0, _, hkeeps, fun _ => rfl⟩
    · rw [if_neg (not_not.mpr hport), if_pos hseek]
      split
      · exact ⟨0, _, hcursor _, fun _ => rfl⟩
      · exact ⟨0, _, hkeeps, fun _ => rfl⟩
  · exact ⟨0, _, (if_pos hport).trans hkeeps, fun _ => rfl⟩

/-- Slots released count as credits again. -/
theorem releaseSlots_count (n : StreamId) (j : Nat) (s : State) :
    ((releaseSlots n j s).bnd.strm[n]).credits + BitVec.ofNat 8 ((releaseSlots n j s).bnd.strm[n]).held.length
      = (s.bnd.strm[n]).credits + BitVec.ofNat 8 (s.bnd.strm[n]).held.length := by
  have hport := modPort_same n (fun x => { x with held := x.held.drop j, credits := x.credits + BitVec.ofNat 8 (min j x.held.length) }) s
  have hlen : min j (s.bnd.strm[n]).held.length + ((s.bnd.strm[n]).held.length - j) = (s.bnd.strm[n]).held.length := by omega
  rw [releaseSlots, hport, List.length_drop, BitVec.add_assoc, ← BitVec.ofNat_add, hlen]

/-- The state once the bytes of an accepted line stand in its slot (R23, R24). -/
def lineStored (n : StreamId) (l : CameraLine) (s : State) : State :=
  let x := s.bnd.strm[n]
  let c := portCore x
  let s := freshWords (.core c) [(slotBase x.ring x.wpos, 16 + l.payload.length)] <|
    modCore c (fun k => useLines (slotBase x.ring x.wpos) l.payload.length { k with mem := { k.mem with
    core := memStore k.mem.core (slotBase x.ring x.wpos) (lineBytes n l) } }) s
  modPort n (fun x => { x with
    credits := x.credits - 1
    wpos := (x.wpos + 1) % fld x.ring 16 8
    lastFrame := l.frame
    inFrame := (l.sof || x.inFrame) && !l.eof
    held := x.held ++ [{ slot := x.wpos, avail := false }] }) s

@[simp] theorem lineStored_port (n : StreamId) (l : CameraLine) (s : State) :
    (lineStored n l s).bnd.strm[n] = { (s.bnd.strm[n]) with
      credits := (s.bnd.strm[n]).credits - 1, wpos := ((s.bnd.strm[n]).wpos + 1) % fld (s.bnd.strm[n]).ring 16 8
      lastFrame := l.frame, inFrame := (l.sof || (s.bnd.strm[n]).inFrame) && !l.eof
      held := (s.bnd.strm[n]).held ++ [⟨(s.bnd.strm[n]).wpos, false⟩] } := modPort_same n _ _

theorem lineStored_core (n : StreamId) (l : CameraLine) (s : State) :
    (lineStored n l s).cores[portCore (s.bnd.strm[n])] = useLines (slotBase (s.bnd.strm[n]).ring (s.bnd.strm[n]).wpos) l.payload.length
      { (s.cores[portCore (s.bnd.strm[n])]) with mem := { (s.cores[portCore (s.bnd.strm[n])]).mem with
        core := memStore (s.cores[portCore (s.bnd.strm[n])]).mem.core (slotBase (s.bnd.strm[n]).ring (s.bnd.strm[n]).wpos) (lineBytes n l) } } :=
  modCore_same _ _ s

theorem lineStored_core_other {n : StreamId} {c : CoreId} (l : CameraLine) (s : State) (h : c ≠ portCore (s.bnd.strm[n])) :
    (lineStored n l s).cores[c] = s.cores[c] := modCore_other _ _ _ s h

theorem acceptLine_eq (n : StreamId) (l : CameraLine) (s : State) :
    acceptLine n l s = if l.sof then raiseTick 2 n.val (stemArrive (portCore (s.bnd.strm[n])) n (lineStored n l s))
      else stemArrive (portCore (s.bnd.strm[n])) n (lineStored n l s) := rfl

theorem execStreamLineArrival_eq {n : StreamId} {at_ : Nat} {l : CameraLine} {s : State} (hpresent : streamPresent s.grade n = true)
    (hwf : (Instr.streamLineArrival n at_ l).wf) :
    exec (.streamLineArrival n at_ l) s = .next (
      if ¬ bitAt (s.bnd.strm[n]).ctrl 0 then dropLine n { s with time := max s.time at_ }
      else if (s.bnd.strm[n]).credits = 0 then { s with time := max s.time at_ }
      else if fld (s.bnd.strm[n]).ring 24 8 * 128 < 16 + l.payload.length then dropLine n { s with time := max s.time at_ }
      else acceptLine n l { s with time := max s.time at_ }) := by
  obtain ⟨hmin, hmax⟩ : 1 ≤ l.payload.length ∧ l.payload.length ≤ 16368 := by simpa [Instr.wf] using hwf
  have hline : ¬ (¬ streamPresent s.grade n ∨ l.payload.length = 0 ∨ 16368 < l.payload.length) := fun h =>
    h.elim (fun h => h hpresent) (fun h => by omega)
  exact congrArg Host.Outcome.next (if_neg hline)

/-- An accepted line: its slot holds the bytes, a credit is taken and a line held, of which the feeder may release the first j. -/
theorem acceptLine_changes (n : StreamId) (l : CameraLine) (s : State) : ∃ (j : Nat) (m : Mx → Mx) (tick : Tick),
    acceptLine n l s = { modMx (portCore (s.bnd.strm[n])) m (releaseSlots n j (lineStored n l s)) with tick := tick } ∧
      (((s.cores[portCore (s.bnd.strm[n])]).mx.cursor.port ≠ n ∨ (s.cores[portCore (s.bnd.strm[n])]).mx.cursor.seeking = false) → j = 0) := by
  obtain ⟨j, m, harrive, hj⟩ := stemArrive_changes (portCore (s.bnd.strm[n])) n (lineStored n l s)
  have hcursor : ((lineStored n l s).cores[portCore (s.bnd.strm[n])]).mx.cursor = (s.cores[portCore (s.bnd.strm[n])]).mx.cursor :=
    (congrArg (fun k : Core => k.mx.cursor) (lineStored_core n l s)).trans rfl
  rw [hcursor] at hj
  rw [acceptLine_eq, harrive]
  split
  · unfold raiseTick
    dsimp only
    split
    · exact ⟨j, m, _, rfl, hj⟩
    · exact ⟨j, m, _, rfl, hj⟩
  · exact ⟨j, m, _, rfl, hj⟩

/-- The oldest held line that is not available becomes so. -/
theorem modNth_findIdx_avail (a b : List HeldLine) (slot : Nat) (h : ∀ x ∈ a, x.avail = true) :
    modNth (fun h : HeldLine => { h with avail := true }) ((a ++ ⟨slot, false⟩ :: b).findIdx (fun h => !h.avail)) (a ++ ⟨slot, false⟩ :: b)
      = a ++ ⟨slot, true⟩ :: b := by
  induction a with
  | nil => rfl
  | cons x a ih =>
    obtain ⟨hx, ha⟩ := List.forall_mem_cons.mp h
    rw [List.cons_append, List.findIdx_cons, hx]
    exact congrArg (x :: ·) (ih ha)

end Sys2Proof.Machine

open Sys2Proof Sys2Proof.Machine

/-- Settles O11: the checks of R25 decide a write; an accepted line is stored, and then the feeder may release the first lines held. -/
theorem streamPortsWork : Obligations.StreamPortsWork := by
  refine ⟨fun acc n val s hpasses => ⟨fun hrefused => ?_, fun hrefused => ?_⟩, fun acc n val s hpasses => ⟨fun haccepted => ⟨fun hsame => ?_, fun hother => ?_⟩,
    fun hoff hfits => ?_⟩, fun n at_ l s hpresent hwf => ⟨fun hoff => ?_, fun hon hnone => ?_, fun hon hcredit hlong => ?_, fun hon hcredit hfits => ?_⟩,
    fun n s a b slot hheld havail => ?_⟩
  · exact congrArg Host.Outcome.next ((access_passes hpasses).trans (if_pos (streamRefused_of hrefused)))
  · exact congrArg Host.Outcome.next ((access_passes (passes_streamRing hpasses)).trans (if_pos hrefused))
  · exact congrArg Host.Outcome.next ((access_passes hpasses).trans ((if_neg (Bool.eq_false_iff.mp haccepted)).trans (if_pos hsame)))
  · exact congrArg Host.Outcome.next ((access_passes hpasses).trans ((if_neg (Bool.eq_false_iff.mp haccepted)).trans (if_neg hother)))
  · have hok : ¬ (bitAt (s.bnd.strm[n]).ctrl 0 ∨ coreBytes < slotBase val (fld val 16 8)) := fun h =>
      h.elim (Bool.eq_false_iff.mp hoff) (Nat.not_lt.mpr hfits)
    have hport : ∀ u : State, u = ringRestart (portCore (s.bnd.strm[n])) n (modPort n (fun x => { x with ring := val }) s) →
        u.bnd.strm = s.bnd.strm.set n { (s.bnd.strm[n]) with ring := val, wpos := 0, credits := BitVec.ofNat 8 (fld val 16 8), held := [] } := by
      rintro u rfl
      simp only [ringRestart, modCursor, modMx_bnd, modPort, updAt_updAt]
      rfl
    refine ⟨_, congrArg Host.Outcome.next ((access_passes (passes_streamRing hpasses)).trans (if_neg hok)), ?_, ?_, fun c => ?_⟩
    · rw [hport _ rfl]; exact Vector.getElem_set_self ..
    · rw [hport _ rfl, show ∀ (v : Vector StrmPort 4) (x : StrmPort), (v.set n x)[n] = x from fun v x => Vector.getElem_set_self .., ← hport _ rfl]; rfl
    · exact modCursor_core _ _ _ _
  · rw [execStreamLineArrival_eq hpresent hwf, if_pos (Bool.eq_false_iff.mp hoff)]; rfl
  · rw [execStreamLineArrival_eq hpresent hwf, if_neg (not_not.mpr hon), if_pos hnone]
  · rw [execStreamLineArrival_eq hpresent hwf, if_neg (not_not.mpr hon), if_neg hcredit, if_pos hlong]; rfl
  · rw [execStreamLineArrival_eq hpresent hwf, if_neg (not_not.mpr hon), if_neg hcredit, if_neg (by omega)]
    obtain ⟨j, m, tick, haccept, hj⟩ := acceptLine_changes n l { s with time := max s.time at_ }
    have hport := lineStored_port n l { s with time := max s.time at_ }
    have hcore := lineStored_core n l { s with time := max s.time at_ }
    have hcount := releaseSlots_count n j (lineStored n l { s with time := max s.time at_ })
    refine ⟨_, congrArg Host.Outcome.next haccept, ?_, fun c hc => ?_, ?_, ?_, ?_, fun hcursor => ?_, rfl⟩
    · exact (congrArg Core.mem ((modCore_same _ _ _).trans (congrArg _ hcore))).trans rfl
    · exact (modCore_other _ _ _ _ hc).trans (lineStored_core_other l _ hc)
    · exact (congrArg StrmPort.wpos (modPort_same n _ _)).trans (congrArg StrmPort.wpos hport)
    · exact (congrArg StrmPort.lastFrame (modPort_same n _ _)).trans (congrArg StrmPort.lastFrame hport)
    · refine hcount.trans ?_
      rw [hport]
      simp only [List.length_append, List.length_singleton]
      bv_omega
    · rw [hj hcursor, releaseSlots_zero]
      exact ⟨congrArg StrmPort.credits hport, congrArg StrmPort.held hport⟩
  · have hport : modNth (fun h : HeldLine => { h with avail := true }) ((s.bnd.strm[n]).held.findIdx (fun h => !h.avail)) (s.bnd.strm[n]).held
        = a ++ ⟨slot, true⟩ :: b := by rw [hheld]; exact modNth_findIdx_avail a b slot havail
    exact congrArg (fun l : List HeldLine => Host.Outcome.next (modPort n (fun x => { x with held := l }) s)) hport

end

section
-- One declaration after another: fewer threads, so that the check of the whole text keeps within its memory.
set_option Elab.async false
/-! PROOFS. Records (R311 to R313): the entry of the secure log that a record becomes, and what it leaves. -/
namespace Sys2Proof.Machine
open Sys2Proof

/-! ### The entry of the log -/

/-- The code of a record stands in bits 8 to 15 of its entry. -/
theorem fld_recordBits_code (r : RecIn) (seq now : Nat) (h : r.code < 256) : fld (recordBits r seq now) 8 8 = r.code := by
  obtain ⟨k, hk⟩ : ∃ k, (recordBits r seq now).toNat = ((if r.event then 2 else 1) + r.code * 256 + 65536 * k) % 2 ^ 256 := by
    refine ⟨r.fc + b2n r.dangerous * 2 ^ 3 + r.part * 2 ^ 4 + b2n r.job.isSome * 2 ^ 7 + r.unit * 2 ^ 8 + r.index % 256 * 2 ^ 16
      + r.sub % 256 * 2 ^ 24 + seq * 2 ^ 32 + (r.job.getD (0, 0)).1 * 2 ^ 48 + r.halt * 2 ^ 64 + (r.job.getD (0, 0)).2 * 2 ^ 72
      + r.detail % 2 ^ 32 * 2 ^ 80 + r.addr % 2 ^ 64 * 2 ^ 112 + now % 2 ^ 64 * 2 ^ 176, ?_⟩
    rw [recordBits, BitVec.toNat_ofNat]
    congr 1
    ring
  have hlow : (if r.event then 2 else 1) < 256 := by split <;> omega
  rw [fld, hk]
  generalize (if r.event then 2 else 1) = a at hlow
  omega

/-- The safety window after a record that is not dangerous. -/
def recorded (r : RecIn) (s : State) : Safety :=
  { s.safety with
    log := updAt s.safety.log (fin 64 s.safety.seq.toNat) (fun _ => recordBits { r with fc := recordedClass r s } s.safety.seq.toNat (nowUs s))
    logHead := s.safety.logHead + 1
    seq := s.safety.seq + 1
    fcCount := if r.event then s.safety.fcCount else updAt s.safety.fcCount (fin 6 (recordedClass r s)) (fun w => satAdd w 1)
    engTimes := if ¬ r.event ∧ r.fc = 4 then nowUs s :: recentEngineFaults s else s.safety.engTimes
    fatal := s.safety.fatal || decide (¬ r.event ∧ recordedClass r s = 5)
    intStatus := s.safety.intStatus ||| recordCauses r (recordedClass r s) }

/-- A record enters the log once its rings are written, and a dangerous one stops KSAFE. -/
theorem postRecord_eq (r : RecIn) (s : State) : postRecord r s =
    if r.dangerous then ksafeStop r.code { afterRings r s with safety := recorded r s } else { afterRings r s with safety := recorded r s } := by
  obtain ⟨hnow, hsafety⟩ := afterRings_safety r s
  have hlogged : { afterRings r s with safety := recorded r s } = setSfInt (recordCauses r (recordedClass r s)) { afterRings r s with
      safety := { (afterRings r s).safety with
        log := updAt (afterRings r s).safety.log (fin 64 (afterRings r s).safety.seq.toNat)
          (fun _ => recordBits { r with fc := recordedClass r s } s.safety.seq.toNat (nowUs s))
        logHead := (afterRings r s).safety.logHead + 1
        seq := (afterRings r s).safety.seq + 1
        fcCount := if r.event then (afterRings r s).safety.fcCount else updAt (afterRings r s).safety.fcCount (fin 6 (recordedClass r s)) (fun w => satAdd w 1)
        engTimes := if ¬ r.event ∧ r.fc = 4 then nowUs (afterRings r s) :: recentEngineFaults (afterRings r s) else (afterRings r s).safety.engTimes
        fatal := (afterRings r s).safety.fatal || decide (¬ r.event ∧ recordedClass r s = 5) } } := by
    simp only [recorded, setSfInt, recentEngineFaults, hnow, hsafety]
  rw [hlogged]
  unfold postRecord afterRings
  cases r.toPart <;> rfl

theorem ksafeStop_keeps (code : Nat) (s : State) : ∃ sf, ksafeStop code s = { s with
    bnd := { s.bnd with ksafeA := false, ksafeB := false }, safety := sf } ∧ sf.log = s.safety.log := by
  unfold ksafeStop
  dsimp only
  split
  · exact ⟨s.safety, rfl, rfl⟩
  · exact ⟨_, rfl, rfl⟩

theorem postRecord_log (r : RecIn) (s : State) : (postRecord r s).safety.log =
    updAt s.safety.log (fin 64 s.safety.seq.toNat) (fun _ => recordBits { r with fc := recordedClass r s } s.safety.seq.toNat (nowUs s)) := by
  rw [postRecord_eq]
  split
  · obtain ⟨sf, h, hlog⟩ := ksafeStop_keeps r.code { afterRings r s with safety := recorded r s }
    rw [h]; exact hlog
  · rfl

/-- A record is posted. -/
theorem posted_postRecord (r : RecIn) (s : State) (h : r.code < 256) : Posted s (postRecord r s) r.code :=
  ⟨postRecord_seq r s, postRecord_logHead r s, by rw [postRecord_log, updAt_get_same]; exact fld_recordBits_code _ _ _ h⟩

/-- Posted speaks of the log alone. -/
theorem Posted.of_eq {s s' t t' : State} {code : Nat} (h : Posted s t code) (hs : s'.safety.seq = s.safety.seq := by rfl)
    (hs' : s'.safety.logHead = s.safety.logHead := by rfl) (ht : t'.safety.seq = t.safety.seq := by rfl)
    (ht' : t'.safety.logHead = t.safety.logHead := by rfl) (hlog : t'.safety.log = t.safety.log := by rfl) : Posted s' t' code := by
  obtain ⟨h1, h2, h3⟩ := h
  exact ⟨by rw [ht, hs, h1], by rw [ht', hs', h2], by simpa only [hlog, hs] using h3⟩

/-! ### What a record that is not dangerous leaves -/

section
variable {r : RecIn} (hd : r.dangerous = false) (s : State)
include hd

theorem postRecord_safety : (postRecord r s).safety = recorded r s := by
  rw [postRecord_eq, if_neg (Bool.eq_false_iff.mp hd)]

theorem postRecord_bnd : (postRecord r s).bnd = s.bnd := by
  obtain ⟨x, hx⟩ := afterRings_changes r s
  rw [postRecord_eq, if_neg (Bool.eq_false_iff.mp hd), hx]

end

/-- Where every ring is off no ring takes a record, so external memory keeps. -/
theorem ringWrite_off {p : PartId} {s : State} (bits : BitVec 256) (h : RingsOff s) : (ringWrite p bits s).dram = s.dram ∧ RingsOff (ringWrite p bits s) := by
  have hlost : ringWrite p bits s = setPtInt p 0b01000 (modPart p (fun x => { x with frLost := satAdd x.frLost 1 }) s) :=
    if_pos (.inl (Bool.eq_false_iff.mp (h p)))
  rw [hlost]
  refine ⟨rfl, fun q => ?_⟩
  by_cases hq : q = p
  · subst hq
    rw [setPtInt, modPart_same, modPart_same]; exact h q
  · rw [setPtInt, modPart_other _ _ _ _ hq, modPart_other _ _ _ _ hq]; exact h q

theorem ringsWrite_off (bits : BitVec 256) (l : List PartId) : ∀ s : State, RingsOff s → (forAll l (fun p => ringWrite p bits) s).dram = s.dram := by
  induction l with
  | nil => intro s _; rfl
  | cons p l ih =>
    intro s h
    obtain ⟨hdram, hoff⟩ := ringWrite_off (p := p) bits h
    rw [forAll_cons, ih _ hoff, hdram]

theorem postRecord_dram_off {r : RecIn} {s : State} (h : RingsOff s) : (postRecord r s).dram = s.dram := by
  have hrings : (afterRings r s).dram = s.dram := by
    unfold afterRings
    dsimp only
    split
    · exact (ringWrite_off _ h).1
    · exact ringsWrite_off _ _ s h
  rw [postRecord_eq]
  split
  · obtain ⟨sf, hstop, -⟩ := ksafeStop_keeps r.code { afterRings r s with safety := recorded r s }
    rw [hstop]; exact hrings
  · exact hrings

end Sys2Proof.Machine
end

section
-- One declaration after another: fewer threads, so that the check of the whole text keeps within its memory.
set_option Elab.async false
/-! PROOFS. Pins of the boundary and the memory port (R26, R27, R30, R190): the steps of the regulator, and the requests that a cap window serves. -/
namespace Sys2Proof.Machine
open Sys2Proof

/-! ### A step of the margin planner (R329) -/

theorem marginStep_eq (code bin drop mon : Nat) (s : State) : ∃ r : RecIn, r.code = 0x01 ∧ r.dangerous = false ∧
    marginStep code bin drop mon s = setGint 0x004 (bumpGen (postRecord r
      { s with safety := { s.safety with forcing := BitVec.ofNat 8 mon, fresh := 2, plannerDue := true } })) := ⟨_, rfl, rfl, rfl⟩

/-- A step is posted as an event, and two fresh windows are to come. -/
theorem marginStep_changes (code bin drop mon : Nat) (s : State) : Posted s (marginStep code bin drop mon s) 0x01 ∧
    (marginStep code bin drop mon s).bnd = { s.bnd with gintStatus := s.bnd.gintStatus ||| 0x004 } ∧
    (marginStep code bin drop mon s).safety.planStep = s.safety.planStep ∧ (marginStep code bin drop mon s).safety.fresh = 2 ∧
    (marginStep code bin drop mon s).safety.forcing = BitVec.ofNat 8 mon := by
  obtain ⟨r, hcode, hd, h⟩ := marginStep_eq code bin drop mon s
  have hpost := posted_postRecord r { s with safety := { s.safety with forcing := BitVec.ofNat 8 mon, fresh := 2, plannerDue := true } } (by omega)
  have hsafety := postRecord_safety hd { s with safety := { s.safety with forcing := BitVec.ofNat 8 mon, fresh := 2, plannerDue := true } }
  have hbnd := postRecord_bnd hd { s with safety := { s.safety with forcing := BitVec.ofNat 8 mon, fresh := 2, plannerDue := true } }
  rw [hcode] at hpost
  rw [h]
  exact ⟨hpost.of_eq, by rw [setGint, bumpGen, hbnd], (congrArg Safety.planStep hsafety).trans rfl, (congrArg Safety.fresh hsafety).trans rfl,
    (congrArg Safety.forcing hsafety).trans rfl⟩

/-! ### The cap window (R190) -/

/-- What the cap of a partition allows. -/
abbrev WithinCaps (s : State) : Prop := ∀ p : PartId, s.sg.cap[p] ≠ 0 → s.sg.window[p] ≤ (s.sg.cap[p]).toNat * 256

/-- What one request of n bytes takes of the window. -/
theorem countIssued_withinCaps {s : State} {p : PartId} {n : Nat} (h : WithinCaps s) : WithinCaps (countIssued p (capGrant s p n) s) := by
  intro q hq
  have hcap : s.sg.cap[q] ≠ 0 := hq
  have hold := h q hcap
  by_cases hpq : q = p
  · subst hpq
    have hgrant : capGrant s q n ≤ (s.sg.cap[q]).toNat * 256 - s.sg.window[q] := by
      simp only [capGrant, capLeft, if_neg hcap]; omega
    have hwindow : (countIssued q (capGrant s q n) s).sg.window[q] = s.sg.window[q] + capGrant s q n := updAt_get_same _ _ _
    rw [hwindow]
    exact (Nat.add_le_add_left hgrant _).trans (Nat.add_sub_of_le hold).le
  · have hwindow : (countIssued p (capGrant s p n) s).sg.window[q] = s.sg.window[q] := updAt_get_other _ _ _ _ hpq
    rw [hwindow]; exact hold

/-- What the service of the requests that wait leaves alone, and that no partition requests more than its cap. -/
structure Serves (s t : State) : Prop where
  time : t.time = s.time
  cap : t.sg.cap = s.sg.cap
  lock : t.sg.lock = s.sg.lock
  host : t.host = s.host
  dram : t.dram = s.dram
  window : WithinCaps s → WithinCaps t

theorem Serves.refl (s : State) : Serves s s := ⟨rfl, rfl, rfl, rfl, rfl, id⟩

theorem Serves.trans {s t u : State} (h : Serves s t) (h' : Serves t u) : Serves s u :=
  ⟨h'.time.trans h.time, h'.cap.trans h.cap, h'.lock.trans h.lock, h'.host.trans h.host, h'.dram.trans h.dram, h'.window ∘ h.window⟩

theorem Serves.forAll {α : Type} {f : α → State → State} (hf : ∀ a s, Serves s (f a s)) (l : List α) (s : State) : Serves s (forAll l f s) :=
  forAll_inv (Serves s) f (fun a t h => h.trans (hf a t)) l s (Serves.refl s)

/-- The requests of transfer i of a channel's command go as far as the cap allows. -/
def serveOne (c : CoreId) (ch : ChanId) (r : DxRun) (i : Nat) (s : State) : State :=
  match r.out[i]? with
  | some x =>
    let now := capGrant s r.cmd.part x.owed
    countIssued r.cmd.part now (modDxRun c ch (fun r => { r with out := modNth (fun x => { x with owed := x.owed - now }) i r.out }) s)
  | none => s

theorem dxServe_eq {c : CoreId} {ch : ChanId} {s : State} {r : DxRun} (h : (dxChan s c ch).run = some r) :
    dxServe c ch s = forAll (List.range r.out.length) (serveOne c ch r) s := by
  rw [dxServe, h]; rfl

theorem serveOne_serves (c : CoreId) (ch : ChanId) (r : DxRun) (i : Nat) (s : State) : Serves s (serveOne c ch r i s) := by
  unfold serveOne
  split
  · exact ⟨rfl, rfl, rfl, rfl, rfl, fun h => countIssued_withinCaps (s := modDxRun c ch _ s) h⟩
  · exact Serves.refl s

theorem dxServe_serves (c : CoreId) (ch : ChanId) (s : State) : Serves s (dxServe c ch s) := by
  cases hrun : (dxChan s c ch).run with
  | none => rw [dxServe, hrun]; exact Serves.refl s
  | some r => rw [dxServe_eq hrun]; exact Serves.forAll (serveOne_serves c ch r) _ s

/-- A state whose channels owe no request: nothing waits for the window. -/
abbrev NothingOwed (s : State) : Prop := ∀ (c : CoreId) (ch : ChanId) (r : DxRun), (dxChan s c ch).run = some r → ∀ x ∈ r.out, x.owed = 0

/-- A window in which nothing has been requested. -/
abbrev FreshWindow (v : Vector Core 6) (s : State) : Prop := s.sg.window = Vector.replicate 8 0 ∧ s.cores = v

theorem capGrant_zero (s : State) (p : PartId) : capGrant s p 0 = 0 := by
  unfold capGrant; split <;> simp

theorem modNth_self {α : Type} {f : α → α} {l : List α} (h : ∀ x ∈ l, f x = x) : ∀ i : Nat, modNth f i l = l := by
  induction l with
  | nil => intro i; cases i <;> rfl
  | cons x l ih =>
    obtain ⟨hx, hl⟩ := List.forall_mem_cons.mp h
    intro i
    cases i with
    | zero => exact congrArg (· :: l) hx
    | succ i => exact congrArg (x :: ·) (ih hl i)

theorem updAt_fixed {α : Type} {n : Nat} {v : Vector α n} {i : Fin n} {f : α → α} (h : f v[i] = v[i]) : updAt v i f = v := by
  rw [updAt, h]; exact updAt_self v i

/-- A change that leaves a channel's command leaves the state. -/
theorem modDxRun_self {c : CoreId} {ch : ChanId} {f : DxRun → DxRun} {s : State} (h : ∀ r, (dxChan s c ch).run = some r → f r = r) :
    modDxRun c ch f s = s := by
  have hrun : (dxChan s c ch).run.map f = (dxChan s c ch).run := by
    cases hr : (dxChan s c ch).run with
    | none => rfl
    | some r => rw [Option.map_some, h r hr]
  have hchan : updAt (s.cores[c]).dx.chans ch (fun x => { x with run := x.run.map f }) = (s.cores[c]).dx.chans :=
    updAt_fixed (congrArg (fun q => { dxChan s c ch with run := q }) hrun)
  have hcore : updAt s.cores c (fun k => { k with dx := { k.dx with chans := updAt k.dx.chans ch (fun x => { x with run := x.run.map f }) } }) = s.cores :=
    updAt_fixed (by dsimp only; rw [hchan])
  exact congrArg (fun v => { s with cores := v }) hcore

theorem serveOne_owed {c : CoreId} {ch : ChanId} {r : DxRun} {i : Nat} {s : State} {v : Vector Core 6} 
    (hr : ∀ x ∈ r.out, x.owed = 0) (h : FreshWindow v s) : FreshWindow v (serveOne c ch r i s) := by
  unfold serveOne
  split
  · rename_i x hx
    have hself : modDxRun c ch (fun r => { r with out := modNth (fun x => { x with owed := x.owed - 0 }) i r.out }) s = s :=
      modDxRun_self (fun r hrun => congrArg (fun l => { r with out := l }) (modNth_self (fun x _ => rfl) i))
    rw [hr x (List.mem_of_getElem? hx), capGrant_zero]
    dsimp only
    rw [hself]
    exact ⟨(updAt_self _ _).trans h.1, h.2⟩
  · exact h

theorem nothingOwed_of_cores {s t : State} (h : t.cores = s.cores) (howed : NothingOwed s) : NothingOwed t := by
  intro c ch r
  rw [dxChan, h]
  exact howed c ch r

theorem dxServe_owed {c : CoreId} {ch : ChanId} {s t : State} (howed : NothingOwed s) (h : FreshWindow s.cores t) :
    FreshWindow s.cores (dxServe c ch t) := by
  have howed' := nothingOwed_of_cores h.2 howed
  cases hrun : (dxChan t c ch).run with
  | none => rw [dxServe, hrun]; exact h
  | some r =>
    rw [dxServe_eq hrun]
    exact forAll_inv (FreshWindow s.cores) _ (fun i u hu => serveOne_owed (howed' c ch r hrun) hu) _ _ h

/-- The state at the start of a cap window. -/
def windowStart (s : State) : State :=
  { atTime ((s.time / us 1 + 1) * us 1) s with sg := { s.sg with window := Vector.replicate 8 0 } }

theorem windowStart_window (s : State) (p : PartId) : (windowStart s).sg.window[p] = 0 := Vector.getElem_replicate _

theorem windowStart_withinCaps (s : State) : WithinCaps (windowStart s) := fun p _ => by
  rw [windowStart_window]; exact Nat.zero_le _

theorem lt_next_multiple (t n : Nat) (h : 0 < n) : t < (t / n + 1) * n := by
  rw [Nat.mul_comm]; exact Nat.lt_mul_div_succ t h

theorem atTime_later {t : Nat} {s : State} (h : s.time < t) : (atTime t s).time = t := max_eq_right h.le

theorem windowStart_time (s : State) : (windowStart s).time = (s.time / us 1 + 1) * us 1 :=
  atTime_later (lt_next_multiple s.time (us 1) (by decide))

theorem windowStart_fresh (s : State) : FreshWindow s.cores (windowStart s) := ⟨rfl, rfl⟩

/-- The channels are served by class. -/
theorem mportCapWindow_eq (s : State) : ∃ (ranks : List Nat) (chans : Nat → State → List (CoreId × ChanId)),
    mportCapWindow s = forAll ranks (fun rank u => forAll (chans rank u) (fun x => dxServe x.1 x.2) u) (windowStart s) := ⟨_, _, rfl⟩

/-- A cap window begins, and the requests that wait are served. -/
theorem mportCapWindow_serves (s : State) : Serves (windowStart s) (mportCapWindow s) ∧
    (NothingOwed s → FreshWindow s.cores (mportCapWindow s)) := by
  obtain ⟨ranks, chans, hwindow⟩ := mportCapWindow_eq s
  have hrank (rank : Nat) (u : State) : Serves u (forAll (chans rank u) (fun x => dxServe x.1 x.2) u) :=
    Serves.forAll (fun (x : CoreId × ChanId) v => dxServe_serves x.1 x.2 v) _ u
  have hfresh (howed : NothingOwed s) (rank : Nat) (u : State) (hu : FreshWindow s.cores u) :
      FreshWindow s.cores (forAll (chans rank u) (fun x => dxServe x.1 x.2) u) :=
    forAll_inv (FreshWindow s.cores) _ (fun x v hv => dxServe_owed howed hv) _ u hu
  rw [hwindow]
  exact ⟨Serves.forAll hrank ranks _, fun howed => forAll_inv (FreshWindow s.cores) _ (hfresh howed) ranks _ (windowStart_fresh s)⟩

end Sys2Proof.Machine

open Sys2Proof Sys2Proof.Machine

/-- Settles O12: what each pin and port does is its command's case; the cap window serves transfer by transfer. -/
theorem boundaryPinsAndPort : Obligations.BoundaryPinsAndPort := by
  refine ⟨fun s => ⟨fun hplan hdone => ?_, fun hplan hmore hreg => ?_, fun mon hplan => ?_, fun hmoves hreg => ?_, fun level hstart => ?_,
    fun level hstart => ?_, fun temp => ?_, fun at_ hpin hlast => ?_, fun at_ hno => ?_⟩, fun s => ⟨?_, fun acc val hpasses => ?_, fun acc n hacc hlock hn => ?_⟩,
    fun c s => ⟨?_, ?_, ?_, fun ch r hrun hheld hlive hsnuff => ?_⟩⟩
  · refine congrArg Host.Outcome.next ?_
    have hsafety : { s.safety with planStep := none } = s.safety := by rw [← hplan]
    rw [hplan, hsafety]
    dsimp only
    split
    · rfl
    · rename_i hreg
      exact if_pos (hdone.resolve_right hreg)
  · refine congrArg Host.Outcome.next ?_
    have hsafety : { s.safety with planStep := none } = s.safety := by rw [← hplan]
    rw [hplan, hsafety]
    exact (if_neg (Bool.eq_false_iff.mp hreg)).trans (if_neg hmore)
  · obtain ⟨hpost, hbnd, hplan', hfresh, hforce⟩ := marginStep_changes s.bnd.vofsCode.toNat s.safety.bin.toNat 0 mon.toNat
      { s with bnd := { s.bnd with vofsAck := s.bnd.vofsCode }, safety := { s.safety with planStep := none } }
    refine ⟨_, congrArg Host.Outcome.next (by rw [hplan]), hpost.of_eq, hbnd, hplan', hfresh, ?_⟩
    rw [hforce]; exact BitVec.ofNat_toNat 8 mon
  · refine congrArg Host.Outcome.next (if_neg fun h => ?_)
    exact h.elim hmoves (Bool.eq_false_iff.mp hreg)
  · refine congrArg Host.Outcome.next ((if_pos hstart).trans ?_)
    unfold applyThrottle
    dsimp only
    split <;> rfl
  · exact congrArg Host.Outcome.next (if_neg (Bool.eq_false_iff.mp hstart))
  · exact congrArg Host.Outcome.next (refreshWarn_eq _)
  · have hnow : ¬ s.bnd.ktickLast.any (fun t => decide (max s.time at_ < t + us 1)) = true := by
      simpa only [Bool.not_eq_true, Option.any_eq_false, decide_eq_false_iff_not, not_lt] using hlast
    exact congrArg Host.Outcome.next ((if_neg (not_not.mpr hpin)).trans (if_neg hnow))
  · refine congrArg Host.Outcome.next ?_
    rcases hno with hpin | ⟨t, hlast, hsoon⟩
    · exact if_pos hpin
    · have hnow : s.bnd.ktickLast.any (fun t => decide (max s.time at_ < t + us 1)) = true := by
        rw [hlast, Option.any_some, decide_eq_true_eq]; exact hsoon
      by_cases hpin : (s.fabric.pins[0]).use ≠ 2
      · exact if_pos hpin
      · exact (if_neg hpin).trans (if_pos hnow)
  · obtain ⟨hserves, hfresh⟩ := mportCapWindow_serves s
    have htime := hserves.time.trans (windowStart_time s)
    have hcaps : ∀ p : PartId, s.sg.cap[p] ≠ 0 → (mportCapWindow s).sg.window[p] ≤ (s.sg.cap[p]).toNat * 256 := by
      have hwithin := hserves.window (windowStart_withinCaps s)
      rwa [WithinCaps, hserves.cap] at hwithin
    exact ⟨mportCapWindow s, rfl, htime, hserves.cap, hserves.lock, hserves.host, hserves.dram, hcaps, hfresh⟩
  · exact congrArg Host.Outcome.next (access_passes hpasses)
  · have hoff : (BitVec.ofNat 25 (0x400 + 4 * n)).toNat = 0x400 + 4 * n := ofNat25_toNat (by omega)
    have hworld : secureAt s (0x400 + 4 * n) true = true := by
      unfold secureAt
      rw [if_pos (by omega), if_neg (by omega), hlock, decide_eq_true (by omega : 0x400 ≤ 0x400 + 4 * n), decide_eq_true (by omega : 0x400 + 4 * n < 0x434)]
      rfl
    refine congrArg Host.Outcome.next ?_
    rw [hoff]
    exact if_pos ⟨Bool.eq_false_iff.mp hacc, hworld⟩
  · rfl
  · rfl
  · rfl
  · refine congrArg Host.Outcome.next ?_
    change dxReadRelease c ch s = _
    unfold dxReadRelease
    rw [hrun]
    exact if_pos ⟨hheld, hlive, Bool.eq_false_iff.mp hsnuff⟩

end

section
-- One declaration after another: fewer threads, so that the check of the whole text keeps within its memory.
set_option Elab.async false
/-! PROOFS. Commands of the matrix engine (R62 to R73, R81, R101, R136, R137, R226, R227): their start, their passes, their end and their posts. -/
namespace Sys2Proof.Machine
open Sys2Proof

/-! ### Events of an engine (log 13) -/

/-- An event runs the engine's cycles up to the first in which its condition holds. -/
theorem advance_cyclesOf {c : CoreId} {cond : State → Bool} {n fuel : Nat} {s : State} (hfuel : n ≤ fuel)
    (hbefore : ∀ m, m < n → cond (cyclesOf c m s) = false) (hat : cond (cyclesOf c n s) = true) : advance c cond fuel s = cyclesOf c n s := by
  induction n generalizing fuel s with
  | zero =>
    cases fuel with
    | zero => rfl
    | succ fuel => exact if_pos hat
  | succ n ih =>
    obtain ⟨fuel, rfl⟩ : ∃ f, fuel = f + 1 := ⟨fuel - 1, by omega⟩
    have hnow : cond s = false := hbefore 0 (by omega)
    rw [advance, if_neg (Bool.eq_false_iff.mp hnow), cyclesOf_succ_first]
    refine ih (by omega) (fun m hm => ?_) ?_
    · rw [← cyclesOf_succ_first]; exact hbefore (m + 1) (by omega)
    · rw [← cyclesOf_succ_first]; exact hat

theorem advance_meets {c : CoreId} {cond : State → Bool} {n : Nat} {s : State} (h : MeetsAfter c cond n s) :
    advance c cond eventFuel s = cyclesOf c n s := by
  obtain ⟨hfuel, hbefore, hat⟩ := h
  exact advance_cyclesOf hfuel hbefore hat

/-! ### Formation of a pass (R64, R66, R80, R137) -/

theorem stemStart_other {c : CoreId} {cfg : Vector Word 64} {s : State} (h : mxAgMode cfg ≠ 3) : stemStart c cfg s = s := if_pos (.inl h)

/-- What a pass that may be formed now finds: the load slot for a load, otherwise the rows before it all entered. -/
theorem mayForm_needs {s : State} {c : CoreId} {cmd : MxCmd} {e : MxEff} (h : mayForm s c cmd e = true) :
    (mxSwaps cmd e = true → (s.cores[c]).mx.load = none) ∧ (mxSwaps cmd e = false → runDone (s.cores[c]).mx = true) := by
  unfold mayForm at h
  extract_lets k at h
  have hneed := (Bool.and_eq_true_iff.mp h).2
  refine ⟨fun hswap => ?_, fun hswap => ?_⟩
  · rw [if_pos hswap] at hneed
    exact Option.isNone_iff_eq_none.mp hneed
  · rw [if_neg (Bool.eq_false_iff.mp hswap)] at hneed
    have hrows := (Bool.and_eq_true_iff.mp hneed).2
    split at hrows
    · exact (Bool.and_eq_true_iff.mp hrows).2
    · exact hrows

theorem mayForm_of_passDue {s : State} {c : CoreId} {cmd : MxCmd} {e : MxEff} (h : passDue s c = some (cmd, e)) : mayForm s c cmd e = true := by
  unfold passDue at h
  extract_lets k at h
  rcases hswap : (nextSwap k.mem.core k.mx.started).filter (fun x => mayForm s c x.1 x.2) with _ | x
  · rw [hswap] at h
    have hfilter := (Option.filter_eq_some_iff.mp h).2
    exact (Bool.and_eq_true_iff.mp hfilter).2
  · rw [hswap] at h
    cases h
    exact (Option.filter_eq_some_iff.mp hswap).2

/-- Where no word of the core's memory is uncorrectable the planes of a load are good. -/
theorem loadCheck_clean {c : CoreId} {before : Option MxLoad} {s : State} (h : ∀ x ∈ s.safety.poison, x.1 ≠ .core c) : loadCheck c before s = s := by
  have hclean : s.safety.poison.any (fun x => decide (x.1 = .core c)) = false := by
    simpa only [List.any_eq_false, decide_eq_true_eq] using h
  unfold loadCheck
  split
  · rfl
  · dsimp only
    rw [hclean]
    exact if_pos (.inr (.inr Bool.false_ne_true))

/-- A load that does not wait for lines is not filled again. -/
theorem fillLoad_loaded {c : CoreId} {s : State} {l : MxLoad} (hload : (s.cores[c]).mx.load = some l) (h : l.waiting = false) : fillLoad c s = s := by
  unfold fillLoad
  dsimp only
  rw [hload]
  dsimp only
  split
  · rfl
  · exact if_pos (.inl (Bool.eq_false_iff.mp h))

theorem fillLoad_safety (c : CoreId) (s : State) : (fillLoad c s).safety = s.safety := by
  unfold fillLoad
  dsimp only
  repeat' split
  all_goals rfl

/-- The pass that begins to enter rows; a plane that is loaded is not reused. -/
abbrev passOf (cmd : MxCmd) (e : MxEff) : MxEff := if mxSwaps cmd e then { e with reuse := false } else e

/-- The checks of a pass at its formation. -/
abbrev passHalt (s : State) (c : CoreId) (cmd : MxCmd) (e : MxEff) : Option HaltCond :=
  (if e.idx = 0 then mxNestChecks s.cores[c] cmd.cmd cmd.cfg else none).orElse (fun _ =>
    mxPassChecks s.grade s.bnd.strm[mxPort cmd.cfg] (stemBound s c cmd.cfg) s.cores[c] cmd.cmd cmd.cfg (passOf cmd e))

/-- The load of a pass, with its planes where they are read now. -/
def loadOf (s : State) (c : CoreId) (cmd : MxCmd) (e : MxEff) (stem : Bool) : MxLoad :=
  { ord := cmd.ord, eff := passOf cmd e, mStart := if e.idx = cmd.next then cmd.mStart else 0, cols := Vector.replicate 8 0
    got := 0, waiting := stem, follows := !(runDone (s.cores[c]).mx)
    need := if stem then [] else loadNeeds s.cores[c] s.bnd.strm[mxPort cmd.cfg] cmd.cfg (passOf cmd e)
    planes := if stem then [] else loadPlanes s.cores[c] s.bnd.strm[mxPort cmd.cfg] cmd.cfg (passOf cmd e) }

theorem formPass_eq (c : CoreId) (cmd : MxCmd) (e : MxEff) (s : State) : formPass c cmd e s =
    match passHalt s c cmd e with
    | some h => mxOwnHalt c (some cmd.ord) e.idx h s
    | none =>
      if mxSwaps cmd e then loadCheck c none (fillLoad c (modMx c (fun m => { m with load := some (loadOf s c cmd e (decide (mxAgMode cmd.cfg = 3))) }) s))
      else startRun c cmd (passOf cmd e) cmd.mStart s := rfl

section
variable {c : CoreId} {cmd : MxCmd} {e : MxEff} {s : State}

theorem formPass_halts {h : HaltCond} (hh : passHalt s c cmd e = some h) : formPass c cmd e s = mxOwnHalt c (some cmd.ord) e.idx h s := by
  rw [formPass_eq, hh]

theorem formPass_runs (hh : passHalt s c cmd e = none) (hswap : mxSwaps cmd e = false) : formPass c cmd e s = startRun c cmd e cmd.mStart s := by
  rw [formPass_eq, hh]
  dsimp only
  rw [if_neg (Bool.eq_false_iff.mp hswap), passOf, if_neg (Bool.eq_false_iff.mp hswap)]

theorem formPass_loads (hh : passHalt s c cmd e = none) (hswap : mxSwaps cmd e = true) (hclean : ∀ x ∈ s.safety.poison, x.1 ≠ .core c) :
    formPass c cmd e s = fillLoad c (modMx c (fun m => { m with load := some (loadOf s c cmd e (decide (mxAgMode cmd.cfg = 3))) }) s) := by
  rw [formPass_eq, hh]
  dsimp only
  rw [if_pos hswap, loadCheck_clean (by rw [fillLoad_safety]; exact hclean)]

theorem formPass_loads_memory (hh : passHalt s c cmd e = none) (hswap : mxSwaps cmd e = true) (hclean : ∀ x ∈ s.safety.poison, x.1 ≠ .core c)
    (hmode : mxAgMode cmd.cfg ≠ 3) : formPass c cmd e s = modMx c (fun m => { m with load := some (loadOf s c cmd e false) }) s := by
  rw [formPass_loads hh hswap hclean, decide_eq_false hmode]
  exact fillLoad_loaded (congrArg (fun k : Core => k.mx.load) (modCore_same c _ s)) rfl

end

/-! ### Completion (R73, R226, R227) -/

theorem mxFinished_some {m : Mx} {cmd : MxCmd} (h : mxFinished m = some cmd) : (mxFinished m).isSome = true := by rw [h]; rfl

/-- A command that starts nothing completes as soon as its wait is satisfied. -/
theorem filter_packet {k : Core} {cmd : EngCmd} {live : Bool} {taken : Option EngCmd} (htaken : taken = some cmd) (hlive : live = true)
    (hstart : cmd.start = false) (hwait : waitDone k cmd = true) : taken.filter (fun cmd => !cmd.start && waitDone k cmd && live) = some cmd := by
  rw [htaken, Option.filter_some, hstart, hwait, hlive]; rfl

/-- A taken packet that would start a command, or that waits, does not complete. -/
theorem filter_packet_none {k : Core} {live : Bool} {taken : Option EngCmd}
    (h : ∀ q, taken = some q → q.start = true ∨ waitDone k q = false) : taken.filter (fun cmd => !cmd.start && waitDone k cmd && live) = none := by
  rw [Option.filter_eq_none_iff]
  intro q hq
  rcases h q hq with h | h <;> simp [h]

/-- A packet that starts nothing completes in VX or WX. -/
theorem vecComplete_packet {c : CoreId} {e : VecEng} {cmd : EngCmd} {s : State} (htaken : (vecOf s.cores[c] e).taken = some cmd)
    (hlive : coreLive s c = true) (hstart : cmd.start = false) (hwait : waitDone s.cores[c] cmd = true) :
    vecComplete c e s = postTokens c (vecNum e) cmd (progress c (modVec c e (fun v => { v with taken := none }) s)) := by
  unfold vecComplete
  extract_lets k v
  have hfilter := filter_packet htaken hlive hstart hwait
  rw [hfilter]

/-! ### Posts (R227, R235) -/

theorem postTokens_one {c : CoreId} {eng : Nat} {cmd : EngCmd} {s : State} {t : TokId} {n : Nat} (h0 : cmd.post0 = some (t, n))
    (h1 : cmd.post1 = none) : postTokens c eng cmd s = incTok c t n eng cmd.part s := by
  rw [postTokens, h0, h1]

theorem postTokens_same {c : CoreId} {eng : Nat} {cmd : EngCmd} {s : State} {t : TokId} {n m : Nat} (h0 : cmd.post0 = some (t, n))
    (h1 : cmd.post1 = some (t, m)) : postTokens c eng cmd s = incTok c t (n + m) eng cmd.part s := by
  rw [postTokens, h0, h1]; exact if_pos rfl

theorem postTokens_two {c : CoreId} {eng : Nat} {cmd : EngCmd} {s : State} {t t' : TokId} {n m : Nat} (h0 : cmd.post0 = some (t, n))
    (h1 : cmd.post1 = some (t', m)) (hne : t' ≠ t) : postTokens c eng cmd s = incTok c t' m eng cmd.part (incTok c t n eng cmd.part s) := by
  rw [postTokens, h0, h1]; exact if_neg hne.symm

/-- A counter that takes an increment within its range holds the sum. -/
theorem incTok_toNat {c : CoreId} {t : TokId} {n eng : Nat} {p : PartId} {s : State} (h : (tok s c t).toNat + n ≤ 65535) :
    (tok (incTok c t n eng p s) c t).toNat = (tok s c t).toNat + n := by
  rw [incTok_adds c t n eng p s h]
  bv_omega

/-- The other counters keep their values. -/
theorem incTok_tok_other {c : CoreId} {t u : TokId} {n eng : Nat} {p : PartId} {s : State} (hne : u ≠ t) (h : (tok s c t).toNat + n ≤ 65535) :
    tok (incTok c t n eng p s) c u = tok s c u := by
  unfold incTok
  rw [if_neg (by omega)]
  split
  · rfl
  · rw [setTok_tok, if_neg hne]

/-- Past its range the counter stays, and the core halts (R235). -/
theorem incTok_overflow {c : CoreId} {t : TokId} {n eng : Nat} {p : PartId} {s : State} (h : 65535 < (tok s c t).toNat + n)
    (hlive : (s.cores[c]).phase = .live) : tok (incTok c t n eng p s) c t = tok s c t ∧
      ∃ cond, ((incTok c t n eng p s).cores[c]).phase = .halting cond none s.time ∧ cond.code = 8 := by
  have hhalt : incTok c t n eng p s = raiseHalt c (tokenHalt eng 1 t.val ((s.cores[c]).allocs[p]).tokCount.toNat) s := if_pos h
  obtain ⟨-, htoks, -⟩ := raiseHalt_keeps c (tokenHalt eng 1 t.val ((s.cores[c]).allocs[p]).tokCount.toNat) s
  rw [hhalt]
  exact ⟨congrArg (fun v : Vector Half 64 => v[t]) htoks, _, raiseHalt_live _ _ _ hlive, rfl⟩

end Sys2Proof.Machine

open Sys2Proof Sys2Proof.Machine

/-- Settles O14: the start rules hold, so the command leaves the taken place; the record's set and the nest checks decide. -/
theorem mxCommandStarts : Obligations.MxCommandStarts := by
  intro c s u v cmd cfg freeze q htaken hcfg hfreeze hu hv hq hlive hstart hwait hstop hstopped hfree hgate
  have hu' : u = stemStart c cfg s := by
    rw [hu]
    split
    · rfl
    · rename_i hmode
      exact (stemStart_other hmode).symm
  have hrules : ¬ (¬ coreLive s c ∨ ¬ cmd.start ∨ ¬ waitDone s.cores[c] cmd ∨ (s.cores[c]).mx.stop ≠ .none ∨ (s.cores[c]).mx.stopped ∨
      ¬ mxFreeToStart s c cfg freeze) := by
    simp only [hlive, hstart, hwait, hstop, hstopped, hfree]; simp
  have hmain : mxCommandStart c s = (
      if (s.cores[c]).mx.resume.valid ∧ (s.cores[c]).mx.resume.set ≠ cmd.set then mxOwnHalt c none 0 (mxHalt 0x11#8 cmd.set 9 1 0) v
      else match mxNestChecks s.cores[c] cmd cfg with
        | some h => mxOwnHalt c none 0 h v
        | none => formPass c q (mxEff (s.cores[c]).mem.core cfg 0) (modMx c (fun m => { m with started := m.started ++ [q], nextOrd := m.nextOrd + 1 }) v)) := by
    subst hfreeze hcfg hq hv hu'
    unfold mxCommandStart
    dsimp only
    rw [htaken]
    exact (if_neg hrules).trans (if_neg (Bool.eq_false_iff.mp hgate))
  refine ⟨fun hresume hnest => ?_, fun hvalid hset => ?_, fun h hresume hnest => ?_⟩
  · have hok : ¬ ((s.cores[c]).mx.resume.valid ∧ (s.cores[c]).mx.resume.set ≠ cmd.set) := fun h =>
      hresume.elim (Bool.eq_false_iff.mp · h.1) (h.2 ·)
    refine congrArg Host.Outcome.next (hmain.trans ?_)
    rw [if_neg hok, hnest]
  · exact congrArg Host.Outcome.next (hmain.trans (if_pos ⟨hvalid, hset⟩))
  · have hok : ¬ ((s.cores[c]).mx.resume.valid ∧ (s.cores[c]).mx.resume.set ≠ cmd.set) := fun h =>
      hresume.elim (Bool.eq_false_iff.mp · h.1) (h.2 ·)
    refine congrArg Host.Outcome.next (hmain.trans ?_)
    rw [if_neg hok, hnest]
    rfl

/-- Settles O15: a pass forms by its checks and by whether it swaps; a loaded one starts in the first cycle in which it may. -/
theorem mxPassFormsAndStarts : Obligations.MxPassFormsAndStarts := by
  refine ⟨fun c s cmd e hforms hdue => ?_, fun c s cmd e e' he' => ⟨fun h hh => ?_, fun hh => ⟨fun hswap => ?_, fun hclean => ⟨fun hswap hmode => ?_, fun hswap hmode => ?_⟩⟩⟩,
    fun c s u n l cmd hforms hload hmeets hu hforms' hready hl hcmd => ?_⟩
  · refine ⟨congrArg Host.Outcome.next ?_, mayForm_needs (mayForm_of_passDue hdue)⟩
    rw [mxPassFormation, if_pos hforms, hdue]
  · subst he'; exact formPass_halts hh
  · subst he'; exact formPass_runs hh hswap
  · subst he'; exact formPass_loads_memory hh hswap hclean hmode
  · subst he'
    rw [formPass_loads hh hswap hclean, decide_eq_true hmode]
    rfl
  · subst hu
    have hwait : ¬ (mxForms s c = false ∨ (s.cores[c]).mx.load.isNone) := fun h =>
      h.elim (Bool.eq_false_iff.mp · hforms) (fun h => by rw [Option.isNone_iff_eq_none.mp h] at hload; exact Bool.false_ne_true hload)
    have hstart : mxPassStart c s = swapIn c (cyclesOf c n s) := by
      unfold mxPassStart
      rw [if_neg hwait]
      dsimp only
      rw [advance_meets hmeets]
      exact if_pos ⟨hready, hforms'⟩
    refine congrArg Host.Outcome.next (hstart.trans ?_)
    unfold swapIn
    dsimp only
    rw [hl]
    dsimp only
    rw [hcmd]

/-- Settles O16: completion runs the cycles to the command's last merge or write; a packet without a start completes at once; posts add to counters one
after the other. -/
theorem mxCommandEndsAndPosts : Obligations.MxCommandEndsAndPosts := by
  refine ⟨fun c s u n cmd hstarted htaken hpass hmeets hu hfinished hrunning => ?_, fun c s cmd hlive hstart hwait => ⟨fun ht => ?_, fun ht => ?_, fun ht => ?_⟩,
    fun c eng cmd s t n h0 => ⟨fun h1 hfit => ?_, fun m h1 hfit => ?_, fun t' m h1 hne hfit hfit' => ?_, fun h1 hover hlive => ?_⟩⟩
  · subst hu
    have hgoes : ¬ ((s.cores[c]).mx.started = [] ∨ (s.cores[c]).mx.started.head?.any (fun q => decide (q.next < mxPasses q.cfg))) := fun h =>
      h.elim hstarted (Bool.eq_false_iff.mp hpass)
    refine congrArg Host.Outcome.next ?_
    unfold mxCommandComplete
    dsimp only
    rw [filter_packet_none htaken]
    dsimp only
    rw [if_neg hgoes, advance_meets hmeets, hfinished]
    exact if_neg (Bool.eq_false_iff.mp hrunning)
  · refine congrArg Host.Outcome.next ?_
    unfold mxCommandComplete
    dsimp only
    rw [filter_packet ht hlive hstart hwait]
  · exact congrArg Host.Outcome.next (vecComplete_packet (e := .vx) ht hlive hstart hwait)
  · exact congrArg Host.Outcome.next (vecComplete_packet (e := .wx) ht hlive hstart hwait)
  · rw [postTokens_one h0 h1, incTok_toNat hfit]
  · rw [postTokens_same h0 h1, incTok_toNat (by omega)]; omega
  · have hother : tok (incTok c t n eng cmd.part s) c t' = tok s c t' := incTok_tok_other hne hfit
    have hfit2 : (tok (incTok c t n eng cmd.part s) c t').toNat + m ≤ 65535 := by rw [hother]; exact hfit'
    rw [postTokens_two h0 h1 hne]
    refine ⟨?_, ?_, fun x hx hx' => ?_⟩
    · rw [incTok_tok_other hne.symm hfit2, incTok_toNat hfit]
    · rw [incTok_toNat hfit2, hother]
    · rw [incTok_tok_other hx' hfit2, incTok_tok_other hx hfit]
  · rw [postTokens_one h0 h1]
    exact incTok_overflow hover hlive

end

section
-- One declaration after another: fewer threads, so that the check of the whole text keeps within its memory.
set_option Elab.async false
/-! PROOFS. Snuffs, faults and replays of the matrix engine (R97 to R108, R138): what each changes of its core. -/
namespace Sys2Proof.Machine
open Sys2Proof

/-! ### Halts and the matrix engine -/

theorem mxSnuff_replay (now : Nat) (m : Mx) : (mxSnuff now m).replay = m.replay := by
  unfold mxSnuff; split_ifs <;> rfl

theorem mxSnuff_load {m : Mx} (now : Nat) (h : m.load = none) : (mxSnuff now m).load = none := by
  unfold mxSnuff; split_ifs <;> first | exact h | rfl

section
variable (c : CoreId) (h : HaltCond) (s : State)

/-- A halt condition leaves what a lamp test and the engine's replay have found. -/
theorem raiseHalt_lampBad : ((raiseHalt c h s).cores[c]).lampBad = (s.cores[c]).lampBad := by
  simp only [raiseHalt, modCore_same]
  split <;> rfl

theorem raiseHalt_replay : ((raiseHalt c h s).cores[c]).mx.replay = (s.cores[c]).mx.replay := by
  simp only [raiseHalt, modCore_same]
  split
  · exact mxSnuff_replay _ _
  all_goals rfl

end

theorem raiseHalt_load {c : CoreId} {s : State} (h : HaltCond) (hl : (s.cores[c]).mx.load = none) : ((raiseHalt c h s).cores[c]).mx.load = none := by
  simp only [raiseHalt, modCore_same]
  split
  · exact mxSnuff_load _ hl
  all_goals exact hl

/-- An engine's own halt changes one core. -/
theorem mxOwnHalt_other {c d : CoreId} (ord : Option Nat) (idx : Nat) (h : HaltCond) (s : State) (hd : d ≠ c) :
    (mxOwnHalt c ord idx h s).cores[d] = s.cores[d] :=
  (raiseHalt_other c d h _ hd).trans (modCore_other c d _ s hd)

/-! ### Arrays -/

section
variable (mask : BitVec 4) (k : Core) (a : ArrId)

theorem dropPlanes_array : (dropPlanes mask k).arrays[a] = if bitAt mask a.val then { (k.arrays[a]) with plane := none } else k.arrays[a] :=
  Vector.getElem_mapFinIdx ..

theorem clearGrids_array : (clearGrids mask k).arrays[a] = if bitAt mask a.val then { (k.arrays[a]) with grid := Grid.reset } else k.arrays[a] :=
  Vector.getElem_mapFinIdx ..

end

/-! ### The end of a snuff (R98, R107, R108) -/

/-- The lamp test of a replay ends with the snuff that cuts it off. -/
def endTest (k : Core) : Core :=
  match k.lamp with
  | .running _ _ false => if k.mx.stopReplay then lampOver k else k
  | _ => k

/-- What the end of a snuff or of a drain makes of a core. -/
def stoppedCore (k : Core) : Core :=
  let k := endTest (clearGrids 0xF (dropPlanes (match k.mx.stop with | .snuff _ => k.mx.stopMask | _ => 0) { k with mx := mxRecord k.mx }))
  { k with mx := { k.mx with
    stop := .none, stopMask := 0, stopReplay := false, stopped := true, run := none, load := none
    replay := if k.mx.stopReplay then none else k.mx.replay } }

theorem mxStopped_eq (c : CoreId) (s : State) : mxStopped c s = modCore c stoppedCore s := by
  unfold mxStopped modMx
  dsimp only
  rw [modCore_modCore, modCore_modCore]
  rfl

/-- A lamp test that ends changes the test alone. -/
theorem lampOver_changes (k : Core) : ∃ l n, lampOver k = { k with lamp := l, lampNext := n } := by
  unfold lampOver
  split
  · exact ⟨_, _, rfl⟩
  · exact ⟨_, k.lampNext, rfl⟩

theorem endTest_changes (k : Core) : ∃ l n, endTest k = { k with lamp := l, lampNext := n } := by
  unfold endTest
  split
  · split
    · exact lampOver_changes k
    · exact ⟨k.lamp, k.lampNext, rfl⟩
  · exact ⟨k.lamp, k.lampNext, rfl⟩

theorem stoppedCore_changes (k : Core) : ∃ l n, stoppedCore k =
    { clearGrids 0xF (dropPlanes (match k.mx.stop with | .snuff _ => k.mx.stopMask | _ => 0) k) with
      lamp := l, lampNext := n
      mx := { mxRecord k.mx with
        stop := .none, stopMask := 0, stopReplay := false, stopped := true, run := none, load := none
        replay := if (mxRecord k.mx).stopReplay then none else (mxRecord k.mx).replay } } := by
  obtain ⟨l, n, h⟩ := endTest_changes
    (clearGrids 0xF (dropPlanes (match k.mx.stop with | .snuff _ => k.mx.stopMask | _ => 0) { k with mx := mxRecord k.mx }))
  refine ⟨l, n, ?_⟩
  unfold stoppedCore
  rw [h] <;> rfl

/-- The record of a snuff, and what it leaves. -/
theorem mxRecord_snuff {m : Mx} {pos : Option (Nat × Nat × Nat)} (h : m.stop = .snuff pos) :
    ∃ res ord, mxRecord m = { m with resume := res, resumed := ord } ∧ (pos = none → res = m.resume) ∧
      ∀ o pass row cmd, pos = some (o, pass, row) → mxCmd m o = some cmd →
        res = ⟨true, m.stopReplay, cmd.cmd.set, mxMask cmd.cfg, if m.stopReplay then 0 else row, pass⟩ ∧ ord = some o := by
  unfold mxRecord
  split
  · rename_i o pass row hstop
    cases h.symm.trans hstop
    split
    · rename_i cmd hcmd
      refine ⟨_, _, rfl, fun hpos => (by cases hpos), fun o' pass' row' cmd' hpos hcmd' => ?_⟩
      cases hpos
      cases hcmd.symm.trans hcmd'
      exact ⟨rfl, rfl⟩
    · rename_i hcmd
      refine ⟨m.resume, m.resumed, rfl, fun hpos => (by cases hpos), fun o' pass' row' cmd' hpos hcmd' => ?_⟩
      cases hpos
      cases hcmd.symm.trans hcmd'
  · rename_i hstop
    cases h.symm.trans hstop
  · rename_i hnot _
    refine ⟨m.resume, m.resumed, rfl, fun _ => rfl, fun o' pass' row' cmd' hpos hcmd' => ?_⟩
    exact absurd (h.trans (congrArg MxStop.snuff hpos)) (hnot o' pass' row')

theorem finishAll_done {c : CoreId} {s : State} (h : mxFinished (s.cores[c]).mx = none) (n : Nat) : finishAll c n s = s := by
  cases n with
  | zero => rfl
  | succ n => rw [finishAll, h]

/-! ### The discard of a group (R103, R138) -/

/-- Whether a row in flight is of the discarded passes of its command. -/
def discards (cmd : MxCmd) (first last slot : Nat) (led : Bool) (r : MxRow) : Bool :=
  decide (r.ord = cmd.ord) && decide (first ≤ r.eff.idx) && decide (r.eff.idx ≤ last) && (led || decide (r.eff.slot = slot))

/-- Whether a row in flight of an earlier command writes the slot of the discarded pass (R105). -/
def discardsEarlier (cmd : MxCmd) (slot : Nat) (led : Bool) (r : MxRow) : Bool :=
  !led && decide (r.ord < cmd.ord) && decide (r.eff.slot = slot) && r.parts.any (fun p => bitAt (mxMask cmd.cfg) p.arr.val)

/-- The run that the discard of a group leaves. -/
def runsOn (cmd : MxCmd) (k : Core) : Mx :=
  if k.mx.run.any (fun r => decide (r.ord ≠ cmd.ord)) then rewindOther k k.mx else { k.mx with run := none }

/-- What the discard of a group makes of a core. -/
def discardCore (cmd : MxCmd) (first last idx : Nat) (led : Bool) (info : Word) (k : Core) : Core :=
  let slot := (mxEff k.mem.core cmd.cfg idx).slot
  let k := markInvalid (mxMask cmd.cfg) ((k.allocs[cmd.cmd.part]).accBase.toNat) (groupLost k cmd first idx led) k
  { k with mx := { runsOn cmd k with
      load := none
      flight := (k.mx.flight.filter (fun r => !(discards cmd first last slot led r) && !(discardsEarlier cmd slot led r))).map (cutRow (runsOn cmd k).run)
      started := rewindTo (some (cmd.ord, first, 0)) (runsOn cmd k).started
      faultInfo := info } }

theorem discardGroup_eq (c : CoreId) (cmd : MxCmd) (first last idx : Nat) (led : Bool) (info : Word) (s : State) :
    discardGroup c cmd first last idx led info s = modCore c (discardCore cmd first last idx led info) s := rfl

theorem rewindOther_changes (k : Core) (m : Mx) : ∃ run pos, rewindOther k m = { m with run := run, started := rewindTo pos m.started } := by
  unfold rewindOther
  split
  · exact ⟨m.run, none, rfl⟩
  · split
    · exact ⟨m.run, none, rfl⟩
    · exact ⟨_, _, rfl⟩

theorem runsOn_changes (cmd : MxCmd) (k : Core) : ∃ run pos, runsOn cmd k = { k.mx with run := run, started := rewindTo pos k.mx.started } := by
  unfold runsOn
  split
  · exact rewindOther_changes k k.mx
  · exact ⟨none, none, rfl⟩

/-- A discard drops the load and the group's rows, takes the finding and rewinds the commands; it marks accumulator rows invalid. -/
theorem discardCore_changes (cmd : MxCmd) (first last idx : Nat) (led : Bool) (info : Word) (k : Core) : ∃ run pos,
    discardCore cmd first last idx led info k =
      { markInvalid (mxMask cmd.cfg) ((k.allocs[cmd.cmd.part]).accBase.toNat) (groupLost k cmd first idx led) k with mx := { k.mx with
        load := none, run := run
        flight := (k.mx.flight.filter (fun r => !(discards cmd first last (mxEff k.mem.core cmd.cfg idx).slot led r) &&
          !(discardsEarlier cmd (mxEff k.mem.core cmd.cfg idx).slot led r))).map (cutRow run)
        started := rewindTo (some (cmd.ord, first, 0)) (rewindTo pos k.mx.started), faultInfo := info } } := by
  obtain ⟨run, pos, h⟩ := runsOn_changes cmd
    (markInvalid (mxMask cmd.cfg) ((k.allocs[cmd.cmd.part]).accBase.toNat) (groupLost k cmd first idx led) k)
  refine ⟨run, pos, ?_⟩
  unfold discardCore
  dsimp only
  rw [h]
  rfl

/-- A row keeps its command, pass, row and parts where it is cut off. -/
theorem cutRow_keeps (run : Option MxRun) (r : MxRow) :
    (cutRow run r).ord = r.ord ∧ (cutRow run r).eff.idx = r.eff.idx ∧ (cutRow run r).eff.slot = r.eff.slot ∧ (cutRow run r).row = r.row ∧
      (cutRow run r).parts = r.parts := by
  unfold cutRow
  split <;> exact ⟨rfl, rfl, rfl, rfl, rfl⟩

/-- A rewound command is the command. -/
theorem mxCmd_rewindTo {l : List MxCmd} {ord : Nat} {cmd : MxCmd} (pos : Option (Nat × Nat × Nat)) (h : l.find? (fun k => decide (k.ord = ord)) = some cmd) :
    ∃ q, (rewindTo pos l).find? (fun k => decide (k.ord = ord)) = some q ∧ q.cmd = cmd.cmd ∧ q.cfg = cmd.cfg := by
  cases pos with
  | none => exact ⟨cmd, h, rfl, rfl⟩
  | some p =>
    obtain ⟨o, idx, row⟩ := p
    have hmap (k : MxCmd) : decide ((if k.ord = o then { k with next := idx, mStart := row, reload := true } else k).ord = ord) = decide (k.ord = ord) := by
      split <;> rfl
    refine ⟨if cmd.ord = o then { cmd with next := idx, mStart := row, reload := true } else cmd, ?_, ?_, ?_⟩
    · simp only [rewindTo, List.find?_map, Function.comp_def, hmap, h, Option.map_some]
    · split <;> rfl
    · split <;> rfl

/-! ### Array faults (R103 to R105) -/

theorem phase_of_coreLive {s : State} {c : CoreId} (h : coreLive s c = true) : (s.cores[c]).phase = .live :=
  of_decide_eq_true (Bool.and_eq_true_iff.mp h).2

section
variable {c : CoreId} {f : ArrayFinding} {s : State} {ord idx row last : Nat} {cmd : MxCmd}

/-- A finding on the row of a started command: what the group's head, the count of its replays and a snuff under way decide. -/
theorem exec_arrayFault {first : Option Nat} (hservice : inService s c = true) (hsite : faultSite (s.cores[c]).mx f.site = some (ord, idx, row))
    (hcmd : mxCmd (s.cores[c]).mx ord = some cmd) (hcause : f.cause ≠ 0) (hlimit : f.cause.toNat ≤ 4) (harr : f.arrays &&& mxMask cmd.cfg ≠ 0)
    (hword : f.word = none) (hgroup : mxGroup (s.cores[c]).mem.core cmd.cfg idx = (first, last)) :
    exec (.arrayFault c f) s = .next (
      let k := s.cores[c]
      let first' := first.getD (if mxOrder cmd.cfg ≤ 1 then idx / mxKCount cmd.cfg * mxKCount cmd.cfg else 0)
      let count := if k.mx.replay.any (fun r => decide (r.ord = ord) && decide (r.first ≤ idx) && decide (idx ≤ r.last)) then k.mx.replays else 0
      let u := discardGroup c cmd first' last idx first.isSome
        (faultInfoWord f.arrays.toNat f.cause.toNat f.band.toNat f.group.toNat row count) s
      if first.isNone then mxOwnHalt c (some ord) first' (mxHalt 0x11#8 cmd.cmd.set 10 1 idx) (modCore c (dropPlanes (mxMask cmd.cfg)) u)
      else if 2 ≤ count then
        mxOwnHalt c (some ord) first' (replayLimitHalt u c f.arrays) (modMx c (fun m => { m with replay := none, replays := 0 })
          (modCore c (fun k => { dropPlanes (mxMask cmd.cfg) k with lampBad := k.lampBad ||| arrayGroups f.arrays }) u))
      else match k.mx.stop with
        | .snuff _ => modMx c (fun m => { m with stop := .snuff (some (ord, first', 0)), stopReplay := true, replays := count + 1 }) u
        | _ => modCore c flushStep (modMx c (fun m => { m with
            replay := some (joinReplay m.replay { ord := ord, first := first', last := last, count := count + 1, phase := 0 })
            replays := count + 1 }) u)) := by
  have hfound : ¬ (¬ inService s c ∨ f.cause.toNat = 0 ∨ 4 < f.cause.toNat ∨ f.arrays &&& mxMask cmd.cfg = 0) := by
    have hzero : f.cause.toNat ≠ 0 := fun h => hcause (BitVec.eq_of_toNat_eq (by simpa using h))
    rintro (h | h | h | h)
    · exact h hservice
    · exact hzero h
    · omega
    · exact harr h
  have hfault : arrayFault c f s = arrayFaultAt c f.arrays f.cause.toNat f.band.toNat f.group.toNat (ord, idx, row) s := by
    rw [arrayFault, hsite]
  refine congrArg Host.Outcome.next ?_
  rw [hword, wordMet, hfault]
  unfold arrayFaultAt
  dsimp only
  rw [hcmd]
  dsimp only
  rw [if_neg hfound, hgroup] <;> rfl

end

/-! ### A drain that has timed out (R99) -/

theorem getLsbD_put (lo v j : Nat) : (put lo v).getLsbD j = (decide (j < 32) && (decide (lo ≤ j) && v.testBit (j - lo))) := by
  simp [put, BitVec.getLsbD_ofNat, Nat.testBit_shiftLeft]

/-- The cause stands in bits 4 to 6 of MX_FAULT_INFO (Table 04.10). -/
theorem fld_faultInfoWord_cause {arrays cause : Nat} (row replays : Nat) (ha : arrays < 16) (hc : cause < 8) :
    fld (faultInfoWord arrays cause 0 0 row replays) 4 3 = cause := by
  refine Nat.eq_of_testBit_eq fun i => ?_
  rw [fld, Nat.testBit_mod_two_pow, Nat.testBit_shiftRight, BitVec.testBit_toNat]
  by_cases hi : i < 3
  · have harr : arrays.testBit (4 + i) = false := Nat.testBit_lt_two_pow (lt_of_lt_of_le ha (Nat.pow_le_pow_right (n := 2) (by omega) (by omega : 4 ≤ 4 + i)))
    simp only [faultInfoWord, BitVec.getLsbD_or, getLsbD_put, Nat.sub_zero, harr, Nat.zero_testBit, Bool.and_false, Bool.or_false, Bool.false_or,
      decide_eq_true hi, Bool.true_and, decide_eq_true (by omega : 4 + i < 32), decide_eq_true (by omega : 4 ≤ 4 + i), Nat.add_sub_cancel_left,
      decide_eq_false (by omega : ¬ 13 ≤ 4 + i), decide_eq_false (by omega : ¬ 23 ≤ 4 + i), Bool.false_and]
  · have hcause : cause.testBit i = false := Nat.testBit_lt_two_pow (lt_of_lt_of_le hc (Nat.pow_le_pow_right (n := 2) (by omega) (by omega : 3 ≤ i)))
    rw [decide_eq_false hi, Bool.false_and, hcause]

theorem b2n_le_one (b : Bool) : b2n b ≤ 1 := by cases b <;> decide

theorem rowArrays_lt (m : Mx) : rowArrays m < 16 := by
  have h (a : ArrId) := b2n_le_one (gridBusy m a)
  have h0 := h 0
  have h1 := h 1
  have h2 := h 2
  have h3 := h (Fin.succ 2)
  simp only [rowArrays, List.finRange_succ, List.finRange_zero, List.map_cons, List.map_nil, List.foldl_cons, List.foldl_nil]
  norm_num
  omega

/-- What the discard of the group in flight makes of a core whose drain has timed out. -/
def abandonCore (cmd : MxCmd) (ord first last idx arrays row replays : Nat) (k : Core) : Core :=
  let k := discardCore cmd first last idx true (faultInfoWord arrays 5 0 0 row replays) k
  { k with mx := { k.mx with
    flight := [], outq := [], run := none, replays := k.mx.replays + 1, stop := .snuff (some (ord, first, 0)), stopReplay := true } }

theorem abandoned_eq (c : CoreId) (cmd : MxCmd) (ord first last idx arrays row replays : Nat) (s : State) :
    modMx c (fun m => { m with
      flight := [], outq := [], run := none, replays := m.replays + 1, stop := .snuff (some (ord, first, 0)), stopReplay := true })
      (discardGroup c cmd first last idx true (faultInfoWord arrays 5 0 0 row replays) s)
    = modCore c (abandonCore cmd ord first last idx arrays row replays) s := by
  rw [discardGroup_eq, modMx, modCore_modCore]
  rfl

theorem abandonCore_changes (cmd : MxCmd) (ord first last idx arrays row replays : Nat) (k : Core) : ∃ back,
    abandonCore cmd ord first last idx arrays row replays k =
      { markInvalid (mxMask cmd.cfg) ((k.allocs[cmd.cmd.part]).accBase.toNat) (groupLost k cmd first idx true) k with mx := { k.mx with
        load := none, run := none, flight := [], outq := [], replays := k.mx.replays + 1, stop := .snuff (some (ord, first, 0)), stopReplay := true
        started := rewindTo (some (cmd.ord, first, 0)) (rewindTo back k.mx.started), faultInfo := faultInfoWord arrays 5 0 0 row replays } } := by
  obtain ⟨run, back, h⟩ := discardCore_changes cmd first last idx true (faultInfoWord arrays 5 0 0 row replays) k
  refine ⟨back, ?_⟩
  rw [abandonCore, h]

/-- Rows in flight are gone, the group's rows are invalid, and the record asks for a replay of the group. -/
theorem stoppedCore_abandonCore {cmd : MxCmd} {ord arrays : Nat} {k : Core} (first last idx row replays : Nat) (ha : arrays < 16)
    (hcmd : mxCmd k.mx ord = some cmd) :
    (stoppedCore (abandonCore cmd ord first last idx arrays row replays k)).mem = k.mem ∧
    (stoppedCore (abandonCore cmd ord first last idx arrays row replays k)).mx.flight = [] ∧
    (stoppedCore (abandonCore cmd ord first last idx arrays row replays k)).mx.outq = [] ∧
    (stoppedCore (abandonCore cmd ord first last idx arrays row replays k)).mx.stopped = true ∧
    fld (stoppedCore (abandonCore cmd ord first last idx arrays row replays k)).mx.faultInfo 4 3 = 5 ∧
    (stoppedCore (abandonCore cmd ord first last idx arrays row replays k)).mx.resume =
      { valid := true, replay := true, set := cmd.cmd.set, mask := mxMask cmd.cfg, mRes := 0, pos := first } ∧
    (∀ a : ArrId, ((stoppedCore (abandonCore cmd ord first last idx arrays row replays k)).arrays[a]).invalid =
      ((markInvalid (mxMask cmd.cfg) (k.allocs[cmd.cmd.part]).accBase.toNat (groupLost k cmd first idx true) k).arrays[a]).invalid) ∧
    (∀ a : ArrId, bitAt k.mx.stopMask a.val = true →
      ((stoppedCore (abandonCore cmd ord first last idx arrays row replays k)).arrays[a]).plane = none) := by
  obtain ⟨back, hab⟩ := abandonCore_changes cmd ord first last idx arrays row replays k
  obtain ⟨l, n, hstopped⟩ := stoppedCore_changes (abandonCore cmd ord first last idx arrays row replays k)
  obtain ⟨q₁, hq₁, hcmd₁, hcfg₁⟩ := mxCmd_rewindTo back hcmd
  obtain ⟨q, hq, hqcmd, hqcfg⟩ := mxCmd_rewindTo (some (cmd.ord, first, 0)) hq₁
  have hq' : mxCmd (abandonCore cmd ord first last idx arrays row replays k).mx ord = some q := by rw [hab]; exact hq
  obtain ⟨res, o, hrecord, -, hsome⟩ := mxRecord_snuff (m := (abandonCore cmd ord first last idx arrays row replays k).mx)
    (pos := some (ord, first, 0)) rfl
  obtain ⟨hres, -⟩ := hsome ord first 0 q rfl hq'
  rw [hstopped, hrecord]
  refine ⟨?_, rfl, rfl, rfl, ?_, ?_, fun a => ?_, fun a ha => ?_⟩
  · rw [hab]; rfl
  · rw [hab]; exact fld_faultInfoWord_cause row replays ha (by decide)
  · rw [hres, hqcmd, hcmd₁, hqcfg, hcfg₁]; rfl
  · dsimp only
    rw [clearGrids_array, dropPlanes_array, hab]
    split_ifs <;> rfl
  · dsimp only
    rw [clearGrids_array, dropPlanes_array, hab]
    dsimp only
    rw [if_pos ha]
    split_ifs <;> rfl

end Sys2Proof.Machine

open Sys2Proof Sys2Proof.Machine

/-- Settles O17: the drain's end discards planes and writes the record of the position; a drain that has timed out first discards the group in flight. -/
theorem mxSnuffEnds : Obligations.MxSnuffEnds := by
  refine ⟨fun c s u n pos hstop hmeets hu hdrained hfinished hsnuff => ?_,
    fun c s u n pos cmd ord idx first last hsnuff hmeets hu hdrained hleft hcmd hgroup => ?_⟩
  · have hend : mxSnuffComplete c s = modCore c stoppedCore u := by
      unfold mxSnuffComplete
      rw [if_neg hstop]
      dsimp only
      rw [advance_meets hmeets, ← hu, if_pos hdrained, finishAll_done hfinished, mxStopped_eq]
    obtain ⟨l, k, hcore⟩ := stoppedCore_changes u.cores[c]
    obtain ⟨res, o, hrecord, hnone, hsome⟩ := mxRecord_snuff hsnuff
    have ht : (modCore c stoppedCore u).cores[c] = _ := (modCore_same c stoppedCore u).trans hcore
    rw [hrecord] at ht
    refine ⟨_, congrArg Host.Outcome.next hend, rfl, fun d hd => modCore_other c d _ u hd, fun ord pass row cmd hpos hcmd => ?_, fun hpos => ?_, ?_, ?_,
      ?_, ?_, ?_, fun a => ?_, ?_, ?_⟩
    · rw [ht]; exact hsome ord pass row cmd hpos hcmd
    · rw [ht]; exact hnone hpos
    all_goals rw [ht]
    · dsimp only
      rw [clearGrids_array, dropPlanes_array, hsnuff]
      split_ifs <;> rfl
    · rfl
    · rfl
  · have hlate : snuffLate u.cores[c] = true := by
      have hcond := hmeets.2.2
      rw [← hu, Bool.or_eq_true] at hcond
      exact hcond.resolve_left (Bool.eq_false_iff.mp hdrained)
    obtain ⟨row, hrow⟩ : ∃ row, abandon c (ord, idx) u =
        discardGroup c cmd first last idx true (faultInfoWord (rowArrays (u.cores[c]).mx) 5 0 0 row (u.cores[c]).mx.replays) u := by
      unfold abandon
      dsimp only
      rw [hcmd]
      dsimp only
      rw [hgroup]
      exact ⟨_, rfl⟩
    have hend : mxSnuffTimeout c s = modCore c stoppedCore (modMx c (fun m => { m with
        flight := [], outq := [], run := none, replays := m.replays + 1, stop := .snuff (some (ord, first, 0)), stopReplay := true })
        (discardGroup c cmd first last idx true (faultInfoWord (rowArrays (u.cores[c]).mx) 5 0 0 row (u.cores[c]).mx.replays) u)) := by
      unfold mxSnuffTimeout
      rw [hsnuff]
      dsimp only
      rw [advance_meets hmeets, ← hu, if_neg (by simp only [hdrained, hlate]; simp), hleft]
      dsimp only
      rw [hcmd, forAll_nil, hrow, mxStopped_eq]
      dsimp only
      rw [hgroup]
      rfl
    rw [abandoned_eq, modCore_modCore] at hend
    refine ⟨_, congrArg Host.Outcome.next hend, rfl, fun d hd => modCore_other c d _ _ hd, ?_⟩
    rw [modCore_same]
    obtain ⟨hmem, hflight, hout, hstopped, hinfo, hresume, hinvalid, hplane⟩ :=
      stoppedCore_abandonCore first last idx row (u.cores[c]).mx.replays (rowArrays_lt (u.cores[c]).mx) hcmd
    exact ⟨hmem, hflight, hout, hstopped, hinfo, hresume, fun a _ => hinvalid a, hplane⟩

/-- Settles O18: a finding discards its group, and the group's head, the replay count and the snuff decide what follows; a replay ends by its merges. -/
theorem arrayFaultsReplay : Obligations.ArrayFaultsReplay := by
  refine ⟨fun c f s u ord idx row first last count cmd hservice hsite hcmd hcause hlimit harr hword hgroup hstop hcount hu => ?_,
    fun c f s ord idx row last cmd hservice hsite hcmd hcause hlimit harr hword hlive hgroup => ?_, fun c cmd first last idx led info s => ?_,
    fun c s u n r hreplay hphase hmeets hu hat => ⟨?_, fun hacked => ?_, ?_, ?_, ?_⟩⟩
  · have hexec := exec_arrayFault hservice hsite hcmd hcause hlimit harr hword hgroup
    dsimp only [Option.getD_some, Option.isSome_some, Option.isNone_some] at hexec
    rw [← hcount, ← hu, if_neg Bool.false_ne_true] at hexec
    refine ⟨fun hfew => ?_, fun hmany => ?_⟩
    · rw [hexec, if_neg (by omega)]
      split
      · rename_i pos hsnuff
        exact absurd hsnuff (hstop pos)
      · rfl
    · rw [hexec, if_pos hmany]
      obtain ⟨info, hinfo⟩ : ∃ info, u = discardGroup c cmd first last idx true info s := ⟨_, hu⟩
      have hcore (g : Mx → Mx) (d : Core → Core) : (modMx c g (modCore c d u)).cores[c] =
          { d (discardCore cmd first last idx true info s.cores[c]) with mx := g (d (discardCore cmd first last idx true info s.cores[c])).mx } := by
        rw [hinfo, discardGroup_eq, modMx, modCore_same, modCore_same, modCore_same]
      have hlimits : replayLimitHalt u c f.arrays = replayLimitHalt s c f.arrays := by rw [hinfo]; rfl
      rw [hlimits]
      refine ⟨_, rfl, fun hlive => ?_, ?_, ?_⟩
      · rw [show s.time = u.time by rw [hinfo]; rfl]
        refine raiseHalt_live _ _ _ ?_
        rw [modMx, modCore_same, hcore]
        exact phase_of_coreLive hlive
      · rw [mxOwnHalt, raiseHalt_lampBad, modMx, modCore_same, hcore]
        rfl
      · rw [mxOwnHalt, raiseHalt_replay, modMx, modCore_same, hcore]
        rfl
  · have hexec := exec_arrayFault hservice hsite hcmd hcause hlimit harr hword hgroup
    dsimp only [Option.isNone_none, Option.isSome_none] at hexec
    rw [if_pos rfl] at hexec
    refine ⟨_, hexec, ?_, ?_, ?_, fun a ha => ?_⟩
    · refine raiseHalt_live _ _ _ ?_
      rw [modMx, modCore_same, modCore_same, discardGroup_eq, modCore_same]
      exact hlive
    · refine raiseHalt_load _ ?_
      rw [modMx, modCore_same, modCore_same, discardGroup_eq, modCore_same]
      rfl
    · obtain ⟨hmem, -⟩ := raiseHalt_keeps c (mxHalt 0x11#8 cmd.cmd.set 10 1 idx) (modMx c (mxDrain (some ord) _) (modCore c (dropPlanes (mxMask cmd.cfg)) (discardGroup c cmd _ last idx false _ s)))
      rw [mxOwnHalt, hmem, modMx, modCore_same, modCore_same, discardGroup_eq, modCore_same]
      rfl
    · obtain ⟨-, -, -, harrays, -⟩ := raiseHalt_keeps c (mxHalt 0x11#8 cmd.cmd.set 10 1 idx) (modMx c (mxDrain (some ord) _) (modCore c (dropPlanes (mxMask cmd.cfg)) (discardGroup c cmd _ last idx false _ s)))
      rw [mxOwnHalt, harrays, modMx, modCore_same, modCore_same]
      dsimp only
      rw [dropPlanes_array, if_pos ha]
  · obtain ⟨run, pos, h⟩ := discardCore_changes cmd first last idx led info s.cores[c]
    have hcore : (discardGroup c cmd first last idx led info s).cores[c] = _ := (discardGroup_eq .. ▸ modCore_same c _ s).trans h
    refine ⟨_, rfl, ?_, ?_, ?_, ?_, ?_, rfl, fun d hd => modCore_other c d _ s hd⟩
    · rw [hcore]
    · rw [hcore]
    · rw [hcore]
      intro r hr
      obtain ⟨q, hq, rfl⟩ := List.mem_map.mp hr
      obtain ⟨hord, hidx, hslot, -⟩ := cutRow_keeps run q
      have hkept := (Bool.and_eq_true_iff.mp (List.mem_filter.mp hq).2).1
      rw [hord, hidx, hslot]
      simp only [discards, Bool.not_eq_true', Bool.and_eq_false_iff, decide_eq_false_iff_not, Bool.or_eq_false_iff] at hkept
      rcases hkept with ((h | h) | h) | h
      · exact .inl h
      · exact .inr (.inl (by omega))
      · exact .inr (.inr (.inl (by omega)))
      · exact .inr (.inr (.inr h))
    · rw [hcore]
      intro r hr
      obtain ⟨q, hq, rfl⟩ := List.mem_map.mp hr
      obtain ⟨hord, hidx, -, hrow, hparts⟩ := cutRow_keeps run q
      exact ⟨q, (List.mem_filter.mp hq).1, hord, hidx, hrow, hparts⟩
    · rw [hcore]
      rfl
  · subst hu
    have hmerged : replayMerged ((cyclesOf c n s).cores[c]).mx r = true := hmeets.2.2
    refine congrArg Host.Outcome.next ?_
    unfold arrayReplayDone
    rw [hreplay]
    dsimp only
    rw [if_neg (not_not.mpr hphase), advance_meets hmeets]
    exact if_pos ⟨hmerged, hat⟩
  · rw [postReplayed, postFor, hacked]
    exact if_neg (fun h => Bool.false_ne_true h.2)
  · unfold replayedRecord; dsimp only; split <;> rfl
  · unfold replayedRecord; dsimp only; split <;> rfl
  · unfold replayedRecord; dsimp only; split <;> rfl

end

section
-- One declaration after another: fewer threads, so that the check of the whole text keeps within its memory.
set_option Elab.async false
/-! PROOFS. Two statements that fail: what an idle cycle leaves of the host (O2) and what an error response of a read does (O19). -/
namespace Sys2Proof.Machine
open Sys2Proof

/-- The reset state with an access that the descriptors have refused and whose record is still to be made. -/
def resetRefused : State := { State.reset with host := { State.reset.host with refused := [(0, 0)] } }

/-- The refused accesses that a step leaves to be recorded. -/
def refusedAfter (s : State) : Option (List (Nat × Nat)) :=
  match step s with
  | .next t => some t.host.refused
  | _ => none

theorem refusedAfter_next {s t : State} (h : step s = .next t) : refusedAfter s = some t.host.refused := by
  rw [refusedAfter, h]

theorem refusedAfter_resetRefused : refusedAfter resetRefused = some [] := by decide +kernel

/-- A read of external memory that has gone to the next core's halo and whose run has landed: no run of it waits on the ring. -/
def landedHaloRead : DxXfer :=
  { ord := 0, run := 0, done := 1, ext := 1, owed := 0, prio := 1, ports := [0], extRead := true, target := .haloNext, writes := [], dvas := []
    err := 0, landed := false, acked := false, held := false, members := 0 }

/-- A command of a channel with that transfer outstanding. -/
def haloReadRun : DxRun :=
  { cmd := { set := 0, part := 0, tag := 0, job := 1, start := true, wait := none, waitLog := 0, post0 := none, post1 := none, chan := 0, since := 0 }
    cfg := Vector.replicate 64 0, run := 0, off := 0, buf := [], entry := 0, unitsTaken := 0, unitsPosted := 0, runsAcked := 0
    out := [landedHaloRead], waiting := false, haloWait := none, held := false, fault := 0 }

/-- The reset state with that command on channel 0 of core 0. -/
def haloReadState : State := modChan 0 0 (fun x => { x with run := some haloReadRun }) State.reset

/-- DX_FAULT_INFO of core 0 after a command. -/
def dxFaultAfter (i : Instr) (s : State) : Option Word :=
  match exec i s with
  | .next t => some (t.cores[(0 : CoreId)]).dx.fault
  | _ => none

theorem dxFaultAfter_next {i : Instr} {s t : State} (h : exec i s = .next t) : dxFaultAfter i s = some (t.cores[(0 : CoreId)]).dx.fault := by
  rw [dxFaultAfter, h]

/-- The error response comes too late: the run has left the ring, and no fault is taken. -/
theorem dxFaultAfter_haloReadState : dxFaultAfter (.memoryErrorResponse (.dx 0 0 0 false 0)) haloReadState = some 0 := by decide +kernel

end Sys2Proof.Machine
open Sys2Proof Sys2Proof.Machine

/-- Refutes O2: an idle cycle records the accesses that the descriptors have refused (R408), so where one waits, the host side is not left alone. -/
theorem not_idleStepPassesOneCycle : ¬ Obligations.IdleStepPassesOneCycle := by
  unfold Obligations.IdleStepPassesOneCycle
  intro h
  obtain ⟨t, hstep, -, -, -, -, hclean⟩ := h resetRefused rfl
  obtain ⟨-, hhost, -⟩ := hclean rfl
  have hnone := (refusedAfter_next hstep).symm.trans refusedAfter_resetRefused
  rw [hhost] at hnone
  cases hnone

/-- Refutes O19: an error response to a read whose halo run has landed changes nothing, so DX_FAULT_INFO does not take it. -/
theorem not_engineFaultsStopCore : ¬ Obligations.EngineFaultsStopCore := by
  unfold Obligations.EngineFaultsStopCore
  intro h
  obtain ⟨-, -, hdx, -⟩ := h
  obtain ⟨-, herr⟩ := hdx 0 0 haloReadState haloReadRun (by decide +kernel) (.inl rfl)
  obtain ⟨hread, -⟩ := herr 0 0 0 landedHaloRead (by decide) rfl
  obtain ⟨t, hexec, -, hfault, -⟩ := hread rfl
  have hnone := (dxFaultAfter_next hexec).symm.trans dxFaultAfter_haloReadState
  rw [hfault] at hnone
  exact absurd hnone (by decide)

end

section
-- One declaration after another: fewer threads, so that the check of the whole text keeps within its memory.
set_option Elab.async false
/-! PROOFS. Commands of the vector and window engines: start, completion and snuff (O20). -/
namespace Sys2Proof.Machine
open Sys2Proof

/-! ### The place of VX or WX in its core -/

/-- Write VX or WX of a core. -/
def setVec (e : VecEng) (v : Vec) (k : Core) : Core := match e with | .vx => { k with vx := v } | .wx => { k with wx := v }

@[simp] theorem vecOf_setVec (e : VecEng) (v : Vec) (k : Core) : vecOf (setVec e v k) e = v := by cases e <;> rfl
theorem setVec_mem (e : VecEng) (v : Vec) (k : Core) : (setVec e v k).mem = k.mem := by cases e <;> rfl
theorem setVec_toks (e : VecEng) (v : Vec) (k : Core) : (setVec e v k).toks = k.toks := by cases e <;> rfl

theorem modVec_eq (c : CoreId) (e : VecEng) (f : Vec → Vec) (s : State) :
    modVec c e f s = modCore c (fun k => setVec e (f (vecOf k e)) k) s := by cases e <;> rfl

theorem modVec_same (c : CoreId) (e : VecEng) (f : Vec → Vec) (s : State) :
    (modVec c e f s).cores[c] = setVec e (f (vecOf s.cores[c] e)) s.cores[c] := by rw [modVec_eq, modCore_same]

theorem modVec_other (c d : CoreId) (e : VecEng) (f : Vec → Vec) (s : State) (h : d ≠ c) : (modVec c e f s).cores[d] = s.cores[d] := by
  rw [modVec_eq, modCore_other c d _ s h]

theorem modVec_frame (c : CoreId) (e : VecEng) (f : Vec → Vec) (s : State) : modVec c e f s = { s with cores := (modVec c e f s).cores } := by
  cases e <;> rfl

/-! ### The start -/

/-- A taken command that starts: the command leaves its place, and the engine makes progress. -/
def vecTaken (c : CoreId) (e : VecEng) (s : State) : State := progress c (modVec c e vecDequeue s)

theorem vecTaken_stall (c d : CoreId) (e : VecEng) (s : State) (h : d ≠ c) : ∃ n, (vecTaken c e s).cores[d] = { s.cores[d] with stall := n } := by
  obtain ⟨n, hn⟩ := progress_cores c d (modVec c e vecDequeue s)
  exact ⟨n, by rw [vecTaken, hn, modVec_other c d e _ s h]⟩

theorem vecTaken_core (c : CoreId) (e : VecEng) (s : State) :
    ((vecTaken c e s).cores[c]).mem = (s.cores[c]).mem ∧ ((vecTaken c e s).cores[c]).toks = (s.cores[c]).toks := by
  obtain ⟨n, hn⟩ := progress_cores c c (modVec c e vecDequeue s)
  rw [vecTaken, hn, modVec_same]
  exact ⟨setVec_mem .., setVec_toks ..⟩

/-- What a start does in its core besides the engine's own part: core memory and the range monitor. -/
theorem vecBegin_keeps (resumed : Bool) (e : VecEng) (k : Core) (cfg : Vector Word 64) :
    (vecBegin resumed e k cfg).1.mem.acc = k.mem.acc ∧ (vecBegin resumed e k cfg).1.toks = k.toks := by
  cases e with
  | wx => exact ⟨rfl, rfl⟩
  | vx =>
    rw [vecBegin]
    split
    · exact ⟨rfl, rfl⟩
    · unfold vxBegin
      dsimp only
      split <;> exact ⟨rfl, rfl⟩

theorem vecBeginFresh_frame (c : CoreId) (e : VecEng) (cfg : Vector Word 64) (s : State) :
    vecBeginFresh c e cfg s = { s with safety := { s.safety with poison := (vecBeginFresh c e cfg s).safety.poison } } := by
  cases e with
  | wx => rfl
  | vx => rw [vecBeginFresh]; split <;> rfl

/-- The command runs from its first row; a resume record is used up (log 81). -/
def vecStarted (c : CoreId) (e : VecEng) (cmd : EngCmd) (v : Vec) (s : State) : State :=
  let cfg := v.sets[cmd.set]
  let x := vecBegin v.resume.valid e s.cores[c] cfg
  modVec c e (fun w => { w with run := some (vecRun0 cmd cfg (vecFirstRow e v cfg) x.2), curSet := cmd.set, resume := Resume.reset })
    (vecBeginFresh c e cfg (modCore c (fun _ => x.1) s))

theorem vecStart_conflict {c : CoreId} {e : VecEng} {s : State} {cmd : EngCmd} {v : Vec} (hv : v = vecOf s.cores[c] e)
    (hnext : vecNext s.cores[c] v = some cmd) (hfree : vecFree s c e v.sets[cmd.set] = true) (hvalid : v.resume.valid = true)
    (hset : v.resume.set ≠ cmd.set) : vecStart c e s = raiseHalt c (vecHalt 0x11 (vecNum e) cmd.set.val 9 2 0) (vecTaken c e s) := by
  subst hv
  rw [vecStart, hnext]
  dsimp only
  rw [if_neg (not_not.mpr hfree), if_pos ⟨hvalid, hset⟩, vecTaken]

theorem vecStart_checked {c : CoreId} {e : VecEng} {s : State} {cmd : EngCmd} {v : Vec} (hv : v = vecOf s.cores[c] e)
    (hnext : vecNext s.cores[c] v = some cmd) (hfree : vecFree s c e v.sets[cmd.set] = true)
    (hset : v.resume.valid = false ∨ v.resume.set = cmd.set) :
    vecStart c e s = match vecChecks (vecTaken c e s) c e cmd v.sets[cmd.set] with
      | some h => raiseHalt c h (vecTaken c e s)
      | none => vecStarted c e cmd v (vecTaken c e s) := by
  subst hv
  have hsame : ¬ ((vecOf s.cores[c] e).resume.valid = true ∧ (vecOf s.cores[c] e).resume.set ≠ cmd.set) := by
    rintro ⟨hvalid, hne⟩
    exact hset.elim (fun h => Bool.false_ne_true (h.symm.trans hvalid)) hne
  rw [vecStart, hnext]
  dsimp only
  rw [if_neg (not_not.mpr hfree), if_neg hsame, vecTaken] <;> rfl

/-- What a start leaves: it changes its core, the stall counts of the others and the words that it makes good. -/
theorem vecStarted_changes (c : CoreId) (e : VecEng) (cmd : EngCmd) (v : Vec) (s : State) :
    vecStarted c e cmd v s = { s with cores := (vecStarted c e cmd v s).cores
                                      safety := { s.safety with poison := (vecStarted c e cmd v s).safety.poison } } ∧
    (∀ d : CoreId, d ≠ c → (vecStarted c e cmd v s).cores[d] = s.cores[d]) := by
  rw [vecStarted]
  refine ⟨?_, fun d hd => ?_⟩
  · rw [modVec_frame, vecBeginFresh_frame]
    rfl
  · rw [modVec_other c d e _ _ hd, vecBeginFresh_frame]
    exact modCore_other c d _ s hd

theorem vecStarted_core (c : CoreId) (e : VecEng) (cmd : EngCmd) (v : Vec) (s : State) : ∃ w : Vec,
    (vecStarted c e cmd v s).cores[c] = setVec e { w with
      run := some (vecRun0 cmd v.sets[cmd.set] (vecFirstRow e v v.sets[cmd.set]) (vecBegin v.resume.valid e s.cores[c] v.sets[cmd.set]).2)
      curSet := cmd.set, resume := Resume.reset } (vecBegin v.resume.valid e s.cores[c] v.sets[cmd.set]).1 := by
  refine ⟨vecOf (vecBegin v.resume.valid e s.cores[c] v.sets[cmd.set]).1 e, ?_⟩
  rw [vecStarted, modVec_same, vecBeginFresh_frame]
  dsimp only
  rw [modCore_same]

/-! ### Completion and snuff -/

theorem vecComplete_run {c : CoreId} {e : VecEng} {s : State} {r r' : VecRun} (hservice : inService s c = true)
    (hrun : (vecOf s.cores[c] e).run = some r) (hsnuff : (vecOf s.cores[c] e).snuff = false)
    (htaken : ∀ q, (vecOf s.cores[c] e).taken = some q → q.start = true ∨ waitDone s.cores[c] q = false)
    (hrun' : (vecOf (vecRunRows c e (vecRows e r.cfg - r.row) s).cores[c] e).run = some r') (hlast : vecRows e r'.cfg ≤ r'.row) :
    vecComplete c e s = vecDone c e r' (vecRunRows c e (vecRows e r.cfg - r.row) s) := by
  have hstays : ¬ ((vecOf s.cores[c] e).snuff = true ∨ ¬ inService s c = true) := by
    rw [hsnuff, hservice]; simp
  rw [vecComplete, filter_packet_none htaken]
  dsimp only
  rw [hrun]
  dsimp only
  rw [if_neg hstays, hrun']
  exact if_pos hlast

theorem vecSnuffComplete_run {c : CoreId} {e : VecEng} {s u : State} {r r' : VecRun} (hrun : (vecOf s.cores[c] e).run = some r)
    (hsnuff : (vecOf s.cores[c] e).snuff = true) (hu : u = if r.cyc = 0 ∨ r.held then s else vecRunRows c e 1 s)
    (hrun' : (vecOf u.cores[c] e).run = some r') :
    vecSnuffComplete c e s = modVec c e (fun v => { v with
      run := none, snuff := false, parked := some { r'.cmd with wait := none }
      resume := { valid := true, replay := false, set := r'.cmd.set, mask := 0, mRes := 0, pos := vecResumesAt e r'.cfg r'.row } }) u := by
  rw [vecSnuffComplete]
  dsimp only
  rw [hrun]
  dsimp only
  rw [if_neg (not_not.mpr hsnuff), ← hu, hrun']

end Sys2Proof.Machine
open Sys2Proof Sys2Proof.Machine

/-- Settles O20: start, completion and snuff of VX and WX, each from its own equation. -/
theorem vectorCommandsRun : Obligations.VectorCommandsRun := by
  unfold Obligations.VectorCommandsRun
  refine ⟨fun c e i s cmd v cfg hi hv hnext hcfg hfree => ?_, fun c s u r r' hservice => ⟨?_, ?_⟩, fun c e s u r r' hrun hsnuff hu hrun' => ?_⟩
  · subst hcfg
    have hexec : exec i s = .next (vecStart c e s) := by subst hi; cases e <;> rfl
    refine ⟨fun hvalid hset => ?_, fun hset => ⟨fun h hcheck => ?_, fun hcheck => ?_⟩⟩
    · rw [hexec, vecStart_conflict hv hnext hfree hvalid hset, vecTaken]
    · rw [hexec, vecStart_checked hv hnext hfree hset, vecTaken, hcheck]
    · have hstart : vecStart c e s = vecStarted c e cmd v (vecTaken c e s) := by
        rw [vecStart_checked hv hnext hfree hset, vecTaken, hcheck]
      obtain ⟨hframe, hothers⟩ := vecStarted_changes c e cmd v (vecTaken c e s)
      obtain ⟨w, hcore⟩ := vecStarted_core c e cmd v (vecTaken c e s)
      obtain ⟨hmem, htoks⟩ := vecTaken_core c e s
      obtain ⟨hacc, hbegun⟩ := vecBegin_keeps v.resume.valid e (vecTaken c e s).cores[c] v.sets[cmd.set]
      refine ⟨_, hstart ▸ hexec, ?_, ?_, ?_, fun d hd => ?_, ?_, ?_, ?_, ?_, ?_⟩
      · rintro rfl; rw [← hstart]; rfl
      · rintro rfl; rw [← hstart]; rfl
      · refine hframe.trans ?_
        rw [vecTaken, modVec_frame]
        rfl
      · obtain ⟨n, hn⟩ := vecTaken_stall c d e s hd
        rw [hothers d hd, hn]
      · rw [hcore, vecOf_setVec]
      · rw [hcore, vecOf_setVec]
      · rw [hcore, vecOf_setVec]
        exact ⟨_, rfl, rfl, rfl, rfl⟩
      · rw [hcore, setVec_mem, hacc, hmem]
      · rw [hcore, setVec_toks, hbegun, htoks]
  · rintro hrun hsnuff rfl htaken hrun' hlast
    refine congrArg Host.Outcome.next ((vecComplete_run (e := .vx) hservice hrun hsnuff htaken hrun' hlast).trans ?_)
    rw [vecDone, modVec, modVx, modCore_modCore]
    rfl
  · rintro hrun hsnuff rfl htaken hrun' hlast
    exact congrArg Host.Outcome.next (vecComplete_run (e := .wx) hservice hrun hsnuff htaken hrun' hlast)
  · exact congrArg Host.Outcome.next (vecSnuffComplete_run hrun hsnuff hu hrun')

end

section
-- One declaration after another: fewer threads, so that the check of the whole text keeps within its memory.
set_option Elab.async false
/-! PROOFS. Commands of the data mover: what fails of an acknowledgement (O21), completion and snuff (O22). -/
namespace Sys2Proof.Machine
open Sys2Proof

/-! ### An acknowledgement of a transfer that a channel's end has performed -/

/-- A copy of one byte to core memory, not yet marked as landed. -/
def byteCopy : DxXfer :=
  { ord := 0, run := 0, done := 1, ext := 0, owed := 0, prio := 1, ports := [], extRead := false, target := .core, writes := [(128, [0x55])], dvas := []
    err := 0, landed := false, acked := false, held := false, members := 0 }

/-- The reset state with that transfer outstanding on channel 0 of core 0, its place in the issue order among those performed. -/
def performedState : State :=
  let s := modChan 0 0 (fun x => { x with run := some { haloReadRun with out := [byteCopy] } }) State.reset
  { s with host := { s.host with performed := [0] } }

/-- The byte of core 0 at an address after a command. -/
def coreByteAfter (i : Instr) (a : Nat) (s : State) : Option Byte :=
  match exec i s with
  | .next t => some (memLoad (t.cores[(0 : CoreId)]).mem.core a)
  | _ => none

theorem coreByteAfter_next {i : Instr} {a : Nat} {s t : State} (h : exec i s = .next t) :
    coreByteAfter i a s = some (memLoad (t.cores[(0 : CoreId)]).mem.core a) := by
  rw [coreByteAfter, h]

theorem coreByteAfter_performedState : coreByteAfter (.dxTransferAck 0 0 0) 128 performedState = some 0 := by decide +kernel

/-! ### Completion and snuff of a channel -/

theorem dxCommandComplete_done {c : CoreId} {ch : ChanId} {s : State} {r : DxRun} (hrun : (dxChan s c ch).run = some r)
    (hdone : dxAllDone r = true) (hsnuff : (dxChan s c ch).snuff = false) : dxCommandComplete c ch s = dxFinish c ch r s := by
  unfold dxCommandComplete
  extract_lets x idle
  rw [hrun]
  exact if_pos ⟨hdone, by rw [hsnuff]; decide⟩

/-- A packet without a start completes beside a command that runs on. -/
theorem dxCommandComplete_packet {c : CoreId} {ch : ChanId} {s : State} {q : EngCmd} (hlive : coreLive s c = true)
    (hruns : ∀ r, (dxChan s c ch).run = some r → dxAllDone r = false) (hwaiting : (dxChan s c ch).waiting = some q) (hstart : q.start = false)
    (hwait : waitDone s.cores[c] q = true) :
    dxCommandComplete c ch s = postTokens c 3 q (progress c (modChan c ch (fun x => { x with waiting := none }) s)) := by
  unfold dxCommandComplete
  extract_lets x idle
  have hidle : idle = postTokens c 3 q (progress c (modChan c ch (fun x => { x with waiting := none }) s)) := by
    unfold idle
    rw [hwaiting]
    exact if_pos ⟨by rw [hstart]; decide, hwait, hlive⟩
  cases hrun : (dxChan s c ch).run with
  | none => exact hidle
  | some r => exact (if_neg (fun h => Bool.false_ne_true ((hruns r hrun).symm.trans h.1))).trans hidle

/-- A snuff of a channel with nothing outstanding ends in one of three ways. -/
theorem dxSnuffComplete_drained {c : CoreId} {ch : ChanId} {s : State} {r : DxRun} (hrun : (dxChan s c ch).run = some r)
    (hsnuff : (dxChan s c ch).snuff = true) (hout : dxOutstanding r = 0) :
    dxSnuffComplete c ch s =
      if r.fault ≠ 0 then modChan c ch (fun x => { x with run := none, snuff := false }) s
      else if dxAllDone r then dxFinish c ch r s
      else modChan c ch (fun x => { x with
        run := none, snuff := false, parked := some { r.cmd with wait := none }
        resume := { valid := true, set := r.cmd.set, credHeld := dxCredHeld r, run := r.runsAcked } }) s := by
  rw [dxSnuffComplete]
  dsimp only
  rw [hrun]
  exact if_neg (by rw [hsnuff, hout]; simp)

theorem dxAllDone_fault {r : DxRun} (h : dxAllDone r = true) : r.fault = 0 := by
  simp only [dxAllDone, Bool.and_eq_true, decide_eq_true_eq] at h
  exact h.2

end Sys2Proof.Machine
open Sys2Proof Sys2Proof.Machine

/-- Refutes O21: a transfer whose place in the issue order stands among those performed does not land again, though its own mark is not set. -/
theorem not_dxCommandRuns : ¬ Obligations.DxCommandRuns := by
  unfold Obligations.DxCommandRuns
  intro h
  obtain ⟨-, -, -, hack, -⟩ := h
  obtain ⟨hland, -⟩ := hack 0 0 0 0 performedState { haloReadRun with out := [byteCopy] } byteCopy (by decide +kernel) (by decide) rfl rfl rfl rfl
  obtain ⟨t, hexec, -, -, -, hcore, -⟩ := hland rfl rfl
  have hbyte := (coreByteAfter_next hexec).symm.trans coreByteAfter_performedState
  rw [hcore rfl] at hbyte
  exact absurd hbyte (by decide +kernel)

/-- Settles O22: completion, the packet without a start, and the three ends of a snuff. -/
theorem dxCommandEnds : Obligations.DxCommandEnds := by
  unfold Obligations.DxCommandEnds
  refine ⟨fun c ch s => ⟨fun r hrun hissued hout hfault hsnuff => ?_, fun q hruns hwaiting hstart hwait hlive => ?_⟩,
    fun c ch s r hrun hsnuff hout => ⟨fun hfault hdone => ?_, fun hfault => ?_, fun hdone => ?_⟩⟩
  · have hdone : dxAllDone r = true := by rw [dxAllDone, hissued, hout, hfault]; rfl
    exact congrArg Host.Outcome.next (dxCommandComplete_done hrun hdone hsnuff)
  · exact congrArg Host.Outcome.next (dxCommandComplete_packet hlive hruns hwaiting hstart hwait)
  · refine congrArg Host.Outcome.next ((dxSnuffComplete_drained hrun hsnuff hout).trans ?_)
    rw [if_neg (not_not.mpr hfault), if_neg (Bool.eq_false_iff.mp hdone)]
  · exact congrArg Host.Outcome.next ((dxSnuffComplete_drained hrun hsnuff hout).trans (if_pos hfault))
  · refine congrArg Host.Outcome.next ((dxSnuffComplete_drained hrun hsnuff hout).trans ?_)
    rw [if_neg (not_not.mpr (dxAllDone_fault hdone)), if_pos hdone, dxFinish]

end

section
-- One declaration after another: fewer threads, so that the check of the whole text keeps within its memory.
set_option Elab.async false
/-! PROOFS. Halo buffers, their credits, arriving runs and halo waits (O25). -/
namespace Sys2Proof.Machine
open Sys2Proof

/-! ### A buffer among its core's -/

theorem hbOf_modHb (c : CoreId) (k : HaloId) (f : HaloBuf → HaloBuf) (s : State) : hbOf (modHb c k f s) c k = f (hbOf s c k) := by
  unfold hbOf modHb
  rw [modCore_same]
  exact updAt_get_same _ _ _

theorem modHb_modHb (c : CoreId) (k : HaloId) (f g : HaloBuf → HaloBuf) (s : State) :
    modHb c k g (modHb c k f s) = modHb c k (fun b => g (f b)) s := by
  unfold modHb
  rw [modCore_modCore]
  dsimp only
  simp only [updAt_updAt]

/-- A change of a buffer leaves who stands in the ring, and so the neighbours. -/
theorem inRing_modHb (c d : CoreId) (k : HaloId) (f : HaloBuf → HaloBuf) (s : State) : inRing (modHb c k f s) d = inRing s d := by
  unfold inRing modHb
  by_cases h : d = c
  · subst h; rw [modCore_same]; rfl
  · rw [modCore_other c d _ s h]; rfl

theorem ringPrev_modHb (c d : CoreId) (k : HaloId) (f : HaloBuf → HaloBuf) (s : State) : ringPrev (modHb c k f s) d = ringPrev s d := by
  simp only [ringPrev, inRing_modHb]

theorem ringNext_modHb (c d : CoreId) (k : HaloId) (f : HaloBuf → HaloBuf) (s : State) : ringNext (modHb c k f s) d = ringNext s d := by
  simp only [ringNext, inRing_modHb]

/-! ### What a buffer tells its source -/

theorem hbTell_cores (c : CoreId) (b : HaloBuf) (g : Option Byte) (s : State) : (hbTell c b g s).cores = s.cores := by
  unfold hbTell
  dsimp only
  split
  · split <;> rfl
  · split <;> rfl
  · split <;> rfl
  · rfl

theorem hbOf_hbTell (c d : CoreId) (k : HaloId) (b : HaloBuf) (g : Option Byte) (s : State) : hbOf (hbTell c b g s) d k = hbOf s d k := by
  unfold hbOf; rw [hbTell_cores]

theorem hbTell_prev {c : CoreId} {b : HaloBuf} {g : Option Byte} {s : State} (hkind : fld b.ctrl 1 2 = 0) (hne : ringPrev s c ≠ c) :
    (hbTell c b g s).haloMsgs = s.haloMsgs ++ [⟨ringPrev s c, .next, g⟩] := by
  unfold hbTell
  rw [hkind]
  dsimp only
  rw [if_neg hne]
  rfl

theorem hbTell_next {c : CoreId} {b : HaloBuf} {g : Option Byte} {s : State} (hkind : fld b.ctrl 1 2 = 1) (hne : ringNext s c ≠ c) :
    (hbTell c b g s).haloMsgs = s.haloMsgs ++ [⟨ringNext s c, .prev, g⟩] := by
  unfold hbTell
  rw [hkind]
  dsimp only
  rw [if_neg hne]
  rfl

theorem hbTell_remote {c : CoreId} {b : HaloBuf} {g : Option Byte} {s : State} {l : LinkId} (hkind : fld b.ctrl 1 2 = 2)
    (hroute : (s.links.routes[fld b.ctrl 3 5]?).join = some l) :
    ((hbTell c b g s).links.ports[l]).haloOut =
      (s.links.ports[l]).haloOut ++ [(BitVec.ofNat 5 (fld b.ctrl 3 5), ⟨c, .remote s.links.addr, g⟩)] := by
  have hsource : (hbSource b).2 = fld b.ctrl 3 5 := if_pos hkind
  unfold hbTell
  rw [hsource, hkind]
  dsimp only
  rw [hroute]
  exact congrArg LinkPort.haloOut (updAt_get_same s.links.ports l _)

/-! ### Writes of DX_HB_CTRL -/

section
variable {c : CoreId} {k : HaloId} {val : Word} {s : State}

theorem and_low31 (h : bitAt val 31 = false) : val &&& (0x7FFFFFFF : Word) = val := by
  have hlt : val.toNat < 2 ^ 31 := by
    have hbit : ¬ val.toNat / 2 ^ 31 % 2 = 1 := by
      rw [bitAt, Nat.testBit_eq_decide_div_mod_eq, decide_eq_false_iff_not] at h
      exact h
    have hword := val.isLt
    omega
  refine BitVec.eq_of_toNat_eq ?_
  rw [BitVec.toNat_and]
  exact (Nat.and_two_pow_sub_one_eq_mod val.toNat 31).trans (Nat.mod_eq_of_lt hlt)

theorem or_one_of_bit0 (h : bitAt val 0 = true) : val ||| 1#32 = val := by
  refine BitVec.eq_of_getLsbD_eq fun i hi => ?_
  rw [BitVec.getLsbD_or, BitVec.getLsbD_one]
  by_cases h0 : i = 0
  · subst h0; rw [show val.getLsbD 0 = true from h]; rfl
  · simp [h0]

theorem bitAt_or_one : bitAt (val ||| 1#32) 0 = true := by
  change (val ||| 1#32).getLsbD 0 = true
  rw [BitVec.getLsbD_or]
  exact Bool.or_true _

theorem bitAt_clear0 : bitAt (val &&& ~~~ 1#32) 0 = false := by
  change (val &&& ~~~ 1#32).getLsbD 0 = false
  rw [BitVec.getLsbD_and]
  exact Bool.and_false _

/-- Clearing bit 0 leaves every field above it. -/
theorem fld_clear0 {lo len : Nat} (h : lo ≠ 0) : fld (val &&& ~~~ 1#32) lo len = fld val lo len := by
  unfold fld
  refine Nat.eq_of_testBit_eq fun i => ?_
  rw [Nat.testBit_mod_two_pow, Nat.testBit_mod_two_pow, Nat.testBit_shiftRight, Nat.testBit_shiftRight]
  congr 1
  change (val &&& ~~~ 1#32).getLsbD (lo + i) = val.getLsbD (lo + i)
  rw [BitVec.getLsbD_and, BitVec.getLsbD_not, BitVec.getLsbD_one]
  by_cases hi : lo + i < 32
  · simp [hi, h]
  · rw [BitVec.getLsbD_of_ge val _ (by omega)]; rfl

/-- The buffer that an accepted enable makes. -/
def hbTakes (val : Word) (b : HaloBuf) : HaloBuf :=
  { b with ctrl := (val &&& ~~~ 1#32) ||| 1#32, nextSeq := b.seqStart, held := 0, part := false, dead := false, lost := false }

/-- The buffer that a disable leaves (R201). -/
def hbOffered (b : HaloBuf) : HaloBuf := { b with ctrl := b.ctrl &&& ~~~ 1#32, held := 0, part := false }

/-- A write of DX_HB_CTRL_k as it takes effect, bit 31 of the word aside. -/
def hbWrite (c : CoreId) (k : HaloId) (val : Word) (s : State) : State :=
  if hbEnabled (hbOf s c k) then
    let t := if val ||| 1#32 = (hbOf s c k).ctrl then s else hbErr c k s
    if bitAt val 0 then t else hbDisable c k t
  else if ¬ bitAt val 0 then modHb c k (fun b => { b with ctrl := val }) s
  else
    match hbTokBad s c val with
    | some t => raiseHalt c (tokenHalt 7 0 t ((s.cores[c]).allocs[fin 8 (fld val 28 3)]).tokCount.toNat) s
    | none =>
      if hbRefused s c k val then hbErr c k (modHb c k (fun b => { b with ctrl := val &&& ~~~ 1#32 }) s)
      else hbEnable c k (modHb c k (fun b => { b with ctrl := val &&& ~~~ 1#32 }) s)

theorem writeHbCtrl_eq (h : bitAt val 31 = false) : writeHbCtrl c k val s = hbWrite c k val s :=
  congrArg (fun v => hbWrite c k v s) (and_low31 h)

theorem writeHbCtrl_badToken {t : Nat} (hoff : hbEnabled (hbOf s c k) = false) (hon : bitAt val 0 = true) (hbit : bitAt val 31 = false)
    (hbad : hbTokBad s c val = some t) : writeHbCtrl c k val s =
      raiseHalt c (tokenHalt 7 0 t ((s.cores[c]).allocs[fin 8 (fld val 28 3)]).tokCount.toNat) s := by
  rw [writeHbCtrl_eq hbit, hbWrite]
  dsimp only
  rw [if_neg (Bool.eq_false_iff.mp hoff), if_neg (not_not.mpr hon), hbad]

theorem writeHbCtrl_refused (hoff : hbEnabled (hbOf s c k) = false) (hon : bitAt val 0 = true) (hbit : bitAt val 31 = false)
    (htok : hbTokBad s c val = none) (href : hbRefused s c k val = true) : writeHbCtrl c k val s =
      modHb c k (fun b => { b with ctrl := val &&& ~~~ 1#32, err := true }) s := by
  rw [writeHbCtrl_eq hbit, hbWrite]
  dsimp only
  rw [if_neg (Bool.eq_false_iff.mp hoff), if_neg (not_not.mpr hon), htok]
  dsimp only
  rw [if_pos href, hbErr, modHb_modHb]

theorem writeHbCtrl_enables (hoff : hbEnabled (hbOf s c k) = false) (hon : bitAt val 0 = true) (hbit : bitAt val 31 = false)
    (htok : hbTokBad s c val = none) (href : hbRefused s c k val = false) : writeHbCtrl c k val s =
      hbTell c { hbOf s c k with ctrl := val &&& ~~~ 1#32 } (some (BitVec.ofNat 8 (fld val 8 8))) (modHb c k (hbTakes val) s) := by
  have hslots : hbSlots { hbOf s c k with ctrl := val &&& ~~~ 1#32 } = fld val 8 8 := fld_clear0 (by decide)
  rw [writeHbCtrl_eq hbit, hbWrite]
  dsimp only
  rw [if_neg (Bool.eq_false_iff.mp hoff), if_neg (not_not.mpr hon), htok]
  dsimp only
  rw [if_neg (Bool.eq_false_iff.mp href), hbEnable, hbOf_modHb]
  rw [hslots, modHb_modHb]
  rfl

theorem writeHbCtrl_disables (hon : hbEnabled (hbOf s c k) = true) (hoff : bitAt val 0 = false) (hbit : bitAt val 31 = false) :
    ∃ err : Bool, writeHbCtrl c k val s =
      hbTell c { hbOf s c k with err := err } (some 0#8) (modHb c k (fun b => hbOffered { b with err := err }) s) := by
  rw [writeHbCtrl_eq hbit, hbWrite]
  dsimp only
  rw [if_pos hon, if_neg (Bool.eq_false_iff.mp hoff)]
  split
  · exact ⟨(hbOf s c k).err, rfl⟩
  · refine ⟨true, ?_⟩
    rw [hbErr, hbDisable, hbOf_modHb, modHb_modHb]
    rfl

theorem writeHbCtrl_stays_on (hon : hbEnabled (hbOf s c k) = true) (hset : bitAt val 0 = true) (hbit : bitAt val 31 = false) :
    writeHbCtrl c k val s = if val = (hbOf s c k).ctrl then s else modHb c k (fun b => { b with err := true }) s := by
  rw [writeHbCtrl_eq hbit, hbWrite]
  dsimp only
  rw [if_pos hon, if_pos hset, or_one_of_bit0 hset, hbErr]

theorem writeHbCtrl_stays_off (hoff : hbEnabled (hbOf s c k) = false) (hclear : bitAt val 0 = false) (hbit : bitAt val 31 = false) :
    writeHbCtrl c k val s = modHb c k (fun b => { b with ctrl := val }) s := by
  rw [writeHbCtrl_eq hbit, hbWrite]
  dsimp only
  rw [if_neg (Bool.eq_false_iff.mp hoff), if_pos (Bool.eq_false_iff.mp hclear)]

end

theorem exec_hbCtrlWrite {acc : Access} {c : CoreId} {s : State} (k : HaloId) (val : Word) (h : CoreOpen acc c s) :
    exec (.hbCtrlWrite acc c k val) s = .next (writeHbWindow c k .ctrl val s) :=
  congrArg Host.Outcome.next (access_passes (passes_core (by omega) (by omega) h))

/-- The running control program writes a halo-buffer register. -/
theorem exec_ctlHaloRegWrite {c : CoreId} {s : State} (k : HaloId) (r : HaloReg) (val : Word) (h : ctlRuns s c = true) :
    exec (.ctlHaloRegWrite c k r val) s = .next (match r with
      | .ctrl => writeHbCtrl c k ((val &&& 0x8FFFFFFF) ||| put 28 (s.cores[c]).ctl.part.val) s
      | .win => writeHbWin c k val s
      | .seq => writeHbSeq c k val s) := by
  simp only [ctlRuns, Bool.and_eq_true, decide_eq_true_eq] at h
  obtain ⟨⟨hlive, hrunning⟩, hwait⟩ := h
  exact congrArg Host.Outcome.next (if_neg (by rw [hlive, hrunning, hwait]; simp))

/-! ### Credits of a path (R201, R203) -/

theorem exec_haloCreditGrant_ring {m : HaloMsg} {w v : Byte} {s : State} (hpath : m.path = .next ∨ m.path = .prev)
    (hmsg : haloMsgAt s m.core m.path = some m) (hgrant : m.grant = some w) :
    exec (.haloCreditGrant m.core m.path v) s = .next (haloMsgDone m.core m.path (takeGrant m.core m.path w s)) := by
  obtain ⟨c, path, grant⟩ := m
  obtain rfl : grant = some w := hgrant
  refine congrArg Host.Outcome.next ?_
  rcases hpath with hpath | hpath <;> obtain rfl := hpath <;> dsimp only at hmsg ⊢ <;> rw [hmsg]

theorem exec_haloCreditReturn_ring {m : HaloMsg} {s : State} (hpath : m.path = .next ∨ m.path = .prev)
    (hmsg : haloMsgAt s m.core m.path = some m) (hgrant : m.grant = none) :
    exec (.haloCreditReturn m.core m.path) s = .next (haloMsgDone m.core m.path (takeReturn m.core m.path s)) := by
  obtain ⟨c, path, grant⟩ := m
  obtain rfl : grant = none := hgrant
  refine congrArg Host.Outcome.next ?_
  rcases hpath with hpath | hpath <;> obtain rfl := hpath <;> dsimp only at hmsg ⊢ <;> rw [hmsg]

theorem haloRelease_takes {c : CoreId} {k : HaloId} {t : TokId} {s : State} (hrel : hbRel s.cores[c] (hbOf s c k) = some t)
    (hon : hbEnabled (hbOf s c k) = true) (hheld : (hbOf s c k).held ≠ 0) (hfirst : releasesBefore s c t k < (tok s c t).toNat) :
    exec (.haloRelease c k) s = .next (hbTell c (hbOf s c k) none
      (modHb c k (fun b => { b with held := b.held - 1 }) (setTok c t (tok s c t - 1) s))) := by
  have hmine : hbReleases s c t k = true := by
    rw [hbReleases]; simp only [hon, hrel, decide_true, Bool.and_true, Bool.true_and]; exact decide_eq_true hheld
  have htok : tok s c t ≠ 0 := by
    intro h0; rw [h0] at hfirst; exact Nat.not_lt_zero _ hfirst
  refine congrArg Host.Outcome.next ?_
  rw [hrel]
  dsimp only
  rw [if_pos ⟨hmine, hfirst⟩, decTok, if_neg htok]

theorem haloRelease_waits {c : CoreId} {k : HaloId} {t : TokId} {s : State} (hrel : hbRel s.cores[c] (hbOf s c k) = some t)
    (hlate : (tok s c t).toNat ≤ releasesBefore s c t k) : exec (.haloRelease c k) s = .next s := by
  refine congrArg Host.Outcome.next ?_
  rw [hrel]
  exact if_neg (fun h => Nat.not_lt.mpr hlate h.2)

theorem takeGrant_remote (c : CoreId) (e : BitVec 5) (w : Byte) (s : State) :
    takeGrant c (.remote e) w s = modCore c (fun k => { k with halo := { k.halo with
      credEng := k.halo.credEng.set e.toNat w (by omega)
      openEng := if w = 0 then k.halo.openEng &&& ~~~ BitVec.ofNat 32 (2 ^ e.toNat) else k.halo.openEng ||| BitVec.ofNat 32 (2 ^ e.toNat) } }) s := by
  unfold takeGrant modCredit
  rw [modCore_modCore]
  refine congrArg (fun f => modCore c f s) (funext fun k => ?_)
  have hcred : updAt k.halo.credEng (fin 32 e.toNat) (fun _ => w) = k.halo.credEng.set e.toNat w (by omega) := by
    have hlt : e.toNat % 32 = e.toNat := Nat.mod_eq_of_lt e.isLt
    simp only [updAt, fin, hlt]
  dsimp only
  rw [hcred]
  by_cases hw : w = 0
  · rw [if_pos hw, decide_eq_false (not_not.mpr hw)]; rfl
  · rw [if_neg hw, decide_eq_true hw]; rfl

theorem takeGrant_next (c : CoreId) (w : Byte) (s : State) : takeGrant c .next w s =
    modCore c (fun k => { k with halo := { k.halo with credNext := w, openNext := decide (w ≠ 0) } }) s := by
  unfold takeGrant modCredit
  rw [modCore_modCore]

theorem takeGrant_prev (c : CoreId) (w : Byte) (s : State) : takeGrant c .prev w s =
    modCore c (fun k => { k with halo := { k.halo with credPrev := w, openPrev := decide (w ≠ 0) } }) s := by
  unfold takeGrant modCredit
  rw [modCore_modCore]

/-! ### Runs that arrive (R202) -/

theorem raiseHalt_halo (c : CoreId) (h : HaltCond) (s : State) : ((raiseHalt c h s).cores[c]).halo = (s.cores[c]).halo := by
  rw [raiseHalt, modCore_same]
  split <;> rfl

theorem setTok_core (c d : CoreId) (t : TokId) (v : Half) (s : State) :
    ((setTok c t v s).cores[d]).mem = (s.cores[d]).mem ∧ ((setTok c t v s).cores[d]).halo = (s.cores[d]).halo := by
  obtain ⟨n, hn⟩ := progress_cores c d (modCore c (fun k => { k with toks := k.toks.set t v }) s)
  rw [setTok, hn]
  by_cases hd : d = c
  · subst hd; rw [modCore_same]; exact ⟨rfl, rfl⟩
  · rw [modCore_other c d _ s hd]; exact ⟨rfl, rfl⟩

/-- A posted token leaves memories and halo buffers. -/
theorem incTok_core (c d : CoreId) (t : TokId) (n eng : Nat) (p : PartId) (s : State) :
    ((incTok c t n eng p s).cores[d]).mem = (s.cores[d]).mem ∧ ((incTok c t n eng p s).cores[d]).halo = (s.cores[d]).halo := by
  unfold incTok
  split
  · by_cases hd : d = c
    · subst hd; exact ⟨(raiseHalt_keeps d _ s).1, raiseHalt_halo d _ s⟩
    · rw [raiseHalt_other c d _ s hd]; exact ⟨rfl, rfl⟩
  · split
    · exact ⟨rfl, rfl⟩
    · exact setTok_core c d t _ s

section
variable {r : HaloRun} {k : HaloId} {s : State}

/-- The run's bytes in its buffer's window. -/
def hbWritten (r : HaloRun) (k : HaloId) (s : State) : State :=
  let at_ := (hbWindow (hbOf s r.core k)).1 + (r.start + r.off).toNat
  freshWords (.core r.core) [(at_, r.data.length)] <| modCore r.core (fun q => useHalos at_ r.data.length { q with mem := { q.mem with
    core := memStore q.mem.core at_ r.data } }) s

theorem hbWritten_core : (hbWritten r k s).cores[r.core] = useHalos ((hbWindow (hbOf s r.core k)).1 + (r.start + r.off).toNat) r.data.length
    { s.cores[r.core] with mem := { (s.cores[r.core]).mem with
      core := memStore (s.cores[r.core]).mem.core ((hbWindow (hbOf s r.core k)).1 + (r.start + r.off).toNat) r.data } } :=
  modCore_same r.core _ s

theorem hbWritten_other (d : CoreId) (h : d ≠ r.core) : (hbWritten r k s).cores[d] = s.cores[d] := modCore_other r.core d _ s h

/-- A unit completes: it is held, the next number is expected, and its arrival is counted. -/
def hbCompletes (r : HaloRun) (k : HaloId) (s : State) : State :=
  modHb r.core k (fun b => { b with part := false, held := b.held + 1, nextSeq := b.nextSeq + 1 }) (hbWritten r k s)

theorem hbAccept_piece (h : r.runLast = false ∨ r.unitLast = false) :
    hbAccept r k s = modHb r.core k (fun b => { b with part := true }) (hbWritten r k s) := by
  rw [hbAccept]
  exact if_pos (fun hlast => h.elim (fun h => Bool.false_ne_true (h.symm.trans hlast.1)) (fun h => Bool.false_ne_true (h.symm.trans hlast.2)))

theorem hbArr_completes : hbArr (hbCompletes r k s).cores[r.core] (hbOf s r.core k) = hbArr s.cores[r.core] (hbOf s r.core k) := by
  rw [hbCompletes, modHb, modCore_same, hbWritten_core]; rfl

theorem hbAccept_unit (hrun : r.runLast = true) (hunit : r.unitLast = true) : hbAccept r k s =
    match hbArr s.cores[r.core] (hbOf s r.core k) with
    | some t => incTok r.core t 1 7 (hbOwner (hbOf s r.core k)) (hbCompletes r k s)
    | none => hbCompletes r k s := by
  rw [← hbArr_completes, hbAccept]
  exact if_neg (not_not.mpr ⟨hrun, hunit⟩)

theorem modHb_mem (c d : CoreId) (k : HaloId) (f : HaloBuf → HaloBuf) (s : State) : ((modHb c k f s).cores[d]).mem = (s.cores[d]).mem := by
  unfold modHb
  by_cases hd : d = c
  · subst hd; rw [modCore_same]
  · rw [modCore_other c d _ s hd]

theorem hbOf_hbWritten : hbOf (hbWritten r k s) r.core k = hbOf s r.core k := by
  unfold hbOf; rw [hbWritten_core]; rfl

theorem hbAccept_mem (d : CoreId) : ((hbAccept r k s).cores[d]).mem = ((hbWritten r k s).cores[d]).mem := by
  by_cases hlast : r.runLast = true ∧ r.unitLast = true
  · rw [hbAccept_unit hlast.1 hlast.2]
    split
    · rw [(incTok_core ..).1, hbCompletes, modHb_mem]
    · rw [hbCompletes, modHb_mem]
  · have hpiece : r.runLast = false ∨ r.unitLast = false := by
      rw [not_and_or] at hlast
      exact hlast.imp Bool.eq_false_iff.mpr Bool.eq_false_iff.mpr
    rw [hbAccept_piece hpiece, modHb_mem]

theorem hbAccept_completed (hrun : r.runLast = true) (hunit : r.unitLast = true) : hbOf (hbAccept r k s) r.core k =
    { hbOf s r.core k with part := false, held := (hbOf s r.core k).held + 1, nextSeq := (hbOf s r.core k).nextSeq + 1 } := by
  have hdone : hbOf (hbCompletes r k s) r.core k =
      { hbOf s r.core k with part := false, held := (hbOf s r.core k).held + 1, nextSeq := (hbOf s r.core k).nextSeq + 1 } := by
    rw [hbCompletes, hbOf_modHb, hbOf_hbWritten]
  rw [hbAccept_unit hrun hunit]
  split
  · rw [← hdone]
    unfold hbOf
    rw [(incTok_core ..).2]
  · exact hdone

theorem hbAccept_counts {t : TokId} (hrun : r.runLast = true) (hunit : r.unitLast = true)
    (harr : hbArr s.cores[r.core] (hbOf s r.core k) = some t) (hfit : (tok s r.core t).toNat < 65535) :
    tok (hbAccept r k s) r.core t = tok s r.core t + 1 := by
  have htok : tok (hbCompletes r k s) r.core t = tok s r.core t := by
    unfold tok; rw [hbCompletes, modHb, modCore_same, hbWritten_core]; rfl
  rw [hbAccept_unit hrun hunit, harr]
  dsimp only
  rw [incTok_adds _ _ _ _ _ _ (by rw [htok]; omega), htok]
  rfl

theorem haloArrive_accepts (hfor : hbFor s r = some k) (hdead : (hbOf s r.core k).dead = false) (hseq : r.seq = (hbOf s r.core k).nextSeq)
    (hin : hbOutside (hbOf s r.core k) r = false) : haloArrive r s = hbAccept r k s := by
  rw [haloArrive, hfor]
  dsimp only
  rw [if_neg (Bool.eq_false_iff.mp hdead), if_neg]
  rintro (h | h)
  · exact h hseq
  · exact Bool.false_ne_true (hin.symm.trans h)

theorem haloArrive_drops (hfor : hbFor s r = some k) (hdead : (hbOf s r.core k).dead = false)
    (hbad : r.seq ≠ (hbOf s r.core k).nextSeq ∨ hbOutside (hbOf s r.core k) r = true) : haloArrive r s =
      raiseHalt r.core (hbHalt k (if r.seq ≠ (hbOf s r.core k).nextSeq then 1 else 2) (hbOf s r.core k).nextSeq.toNat)
        (modHb r.core k (fun b => { b with err := true, dead := true }) s) := by
  rw [haloArrive, hfor]
  dsimp only
  rw [if_neg (Bool.eq_false_iff.mp hdead), if_pos hbad]

end

/-! ### Halo waits (R206, R209) -/

/-- A core that halts because of a lost source since a time. -/
def LostHalt (c : CoreId) (now : Nat) (s : State) : Prop :=
  s.time = now ∧ ∃ h second, (s.cores[c]).phase = .halting h second now ∧ h.code = 0x15#8

theorem haloNote_phase (c : CoreId) (n : Nat) (s : State) : ((haloNote c n s).cores[c]).phase = (s.cores[c]).phase := by
  rw [haloNote, modCore_same]

/-- A further lost source leaves the halt of one. -/
theorem LostHalt.haloLost {c : CoreId} {now : Nat} {s : State} (h : LostHalt c now s) (w : HaloWaiter) (k : HaloId) (e : Nat) :
    LostHalt c now (haloLost c w k e s) := by
  obtain ⟨htime, first, second, hphase, hcode⟩ := h
  have hnote : ((if coreLive s c then haloNote c (haloLastWord false k.val e) s else s).cores[c]).phase = .halting first second now := by
    split
    · rw [haloNote_phase, hphase]
    · exact hphase
  have hnow : (if coreLive s c then haloNote c (haloLastWord false k.val e) s else s).time = now := by
    split <;> exact htime
  refine ⟨hnow, ?_⟩
  rw [Machine.haloLost]
  generalize hu : (if coreLive s c then haloNote c (haloLastWord false k.val e) s else s) = u at *
  rw [raiseHalt, modCore_same, hnote]
  have hsnuff : ∀ h : HaltCond, h.code = 0x15#8 → isSnuff h = false := fun h hc => by rw [isSnuff, hc]; rfl
  dsimp only
  rw [furtherHalt, hsnuff _ rfl, hsnuff _ hcode]
  rw [if_neg Bool.false_ne_true, if_neg Bool.false_ne_true, if_neg (show ¬ (linkLost 1 e 0 (waiterUnit s.cores[c] w).1 (waiterUnit s.cores[c] w).2).code = 0 from (by decide : ¬ (0x15#8 : Byte) = 0))]
  split
  · exact ⟨_, _, rfl, rfl⟩
  · exact ⟨_, _, rfl, hcode⟩

/-- The first lost source halts a core that runs. -/
theorem lostHalt_haloLost {c : CoreId} {s : State} (hlive : coreLive s c = true) (w : HaloWaiter) (k : HaloId) (e : Nat) :
    LostHalt c s.time (haloLost c w k e s) := by
  refine ⟨by rw [haloLost, if_pos hlive]; rfl, linkLost 1 e 0 (waiterUnit s.cores[c] w).1 (waiterUnit s.cores[c] w).2, none, ?_, rfl⟩
  rw [haloLost, if_pos hlive]
  exact raiseHalt_live c _ _ ((haloNote_phase ..).trans (phase_of_coreLive hlive))

/-- The buffer of a waiter whose source is lost. -/
def lostBufferOf (k : Core) (w : HaloWaiter) : Option HaloId :=
  (tokenWait k w).bind (fun x => (hbsOfTok k x.1).find? (fun j => (k.halo.bufs[j]).lost))

/-- What a waiter does where its source is lost. -/
def lostWait (c : CoreId) (w : HaloWaiter) (s : State) : State :=
  match lostBufferOf s.cores[c] w with
  | some j => haloLost c w j (hbSource (s.cores[c]).halo.bufs[j]).2 s
  | none => s

theorem haloLostWaits_eq (c : CoreId) (s : State) : haloLostWaits c s = forAll haloWaiters (lostWait c) s := rfl

theorem LostHalt.lostWait {c : CoreId} {now : Nat} {s : State} (h : LostHalt c now s) (w : HaloWaiter) : LostHalt c now (lostWait c w s) := by
  unfold Machine.lostWait
  split
  · exact h.haloLost ..
  · exact h

theorem lostBufferOf_none {k : Core} {w : HaloWaiter} (h : ∀ j : HaloId, (k.halo.bufs[j]).lost = false) : lostBufferOf k w = none := by
  unfold lostBufferOf
  cases tokenWait k w with
  | none => rfl
  | some x => exact List.find?_eq_none.mpr (fun j _ => Bool.eq_false_iff.mp (h j))

theorem haloLostWaits_none {c : CoreId} {s : State} (h : ∀ k : HaloId, (hbOf s c k).lost = false) : haloLostWaits c s = s := by
  rw [haloLostWaits_eq]
  refine forAll_inv (fun t => t = s) (lostWait c) (fun w t ht => ?_) haloWaiters s rfl
  subst ht
  unfold Machine.lostWait
  rw [lostBufferOf_none h]

theorem haloLostWaits_halts {c : CoreId} {s : State} {t : TokId} {from_ : Nat} {k : HaloId} (hlive : coreLive s c = true)
    (hwait : tokenWait s.cores[c] .control = some (t, from_)) (hk : k ∈ hbsOfTok s.cores[c] t) (hlost : (hbOf s c k).lost = true) :
    LostHalt c s.time (haloLostWaits c s) := by
  have hbuffer : ∃ j, lostBufferOf s.cores[c] .control = some j := by
    unfold lostBufferOf
    rw [hwait]
    exact Option.isSome_iff_exists.mp (List.find?_isSome.mpr ⟨k, hk, hlost⟩)
  obtain ⟨j, hj⟩ := hbuffer
  have hfirst : LostHalt c s.time (lostWait c .control s) := by
    unfold Machine.lostWait
    rw [hj]
    exact lostHalt_haloLost hlive ..
  rw [haloLostWaits_eq, haloWaiters, forAll_cons]
  exact forAll_inv (LostHalt c s.time) (lostWait c) (fun w u hu => hu.lostWait w) _ _ hfirst

/-- A wait for an arrival is the control core's or a taken command's. -/
theorem haloExpire_arrival {c : CoreId} {w : HaloWaiter} {k : Core} {x : HaloId × Nat} (h : arrivalWait k w = some x) (last seq : Nat) (s : State) :
    haloExpire c w last seq s = raiseHalt c (haltCond 0x0A (waiterUnit s.cores[c] w).1 (waiterUnit s.cores[c] w).2 (put 0 last ||| put 16 seq))
      (haloNote c last s) := by
  cases w with
  | chan ch => cases h
  | control => rfl
  | taken e ch => rfl

/-- Only a permission halt logs a security fault as well. -/
theorem raiseLogged_plain {c : CoreId} {h : HaltCond} (s : State) (hcode : h.code ≠ 0x0E#8) : raiseLogged c h s = raiseHalt c h s := by
  rw [raiseLogged, if_neg (fun x => hcode x.1)]

/-- A wait for a credit is a channel's: its command stops with the halt. -/
theorem haloExpire_credit (c : CoreId) (ch : ChanId) (last seq : Nat) (s : State) : ∃ h, h.code = 0x0A#8 ∧ haloExpire c (.chan ch) last seq s =
    raiseHalt c h (modDxRun c ch (fun r => { r with fault := if r.fault = 0 then 6 else r.fault }) (haloNote c last s)) := by
  refine ⟨haltCond 0x0A (waiterUnit s.cores[c] (.chan ch)).1 (waiterUnit s.cores[c] (.chan ch)).2 (put 0 last ||| put 16 seq), rfl, ?_⟩
  exact raiseLogged_plain _ (show ¬ (0x0A#8 : Byte) = 0x0E#8 by decide)

theorem exec_haloTimeout_arrival {c : CoreId} {w : HaloWaiter} {j : HaloId} {from_ : Nat} {s : State} (hlive : coreLive s c = true)
    (hwait : arrivalWait s.cores[c] w = some (j, from_)) : exec (.haloTimeout c w) s = .next
      (haloExpire c w (haloLastWord false j.val (hbSource (hbOf s c j)).2) (hbOf s c j).nextSeq.toNat
        (atTime (from_ + haloLimit s s.cores[c]) s)) := by
  refine congrArg Host.Outcome.next ?_
  dsimp only
  rw [if_neg (not_not.mpr hlive)]
  cases w with
  | chan ch => cases hwait
  | control => dsimp only; rw [hwait]; rfl
  | taken e ch => dsimp only; rw [hwait]; rfl

theorem exec_haloTimeout_credit {c : CoreId} {ch : ChanId} {r : DxRun} {from_ : Nat} {s : State} (hlive : coreLive s c = true)
    (hrun : (dxChan s c ch).run = some r) (hwait : r.haloWait = some from_) (hcred : haloCredit s.cores[c] r.cfg = 0) :
    ∃ last : Nat, exec (.haloTimeout c (.chan ch)) s = .next
      (haloExpire c (.chan ch) last 0 (atTime (from_ + haloLimit s s.cores[c]) s)) := by
  refine ⟨haloLastWord true (dxTarget r.cfg) (if dxTarget r.cfg ≤ 1 then 0 else (dxEngine r.cfg).toNat), congrArg Host.Outcome.next ?_⟩
  have hrun' : ((s.cores[c]).dx.chans[ch]).run = some r := hrun
  dsimp only
  rw [if_neg (not_not.mpr hlive), hrun']
  dsimp only
  rw [hwait]
  dsimp only
  rw [if_neg (not_not.mpr hcred)]

end Sys2Proof.Machine
open Sys2Proof Sys2Proof.Machine

/-- Settles O25: each part from the equations of writes, credits, arrivals and waits above. -/
theorem halosWork : Obligations.HalosWork := by
  unfold Obligations.HalosWork
  refine ⟨fun acc c k val s u => ⟨fun hopen hhalt hu => ?_, fun hopen hhalt => ?_, fun hruns => ⟨?_, fun hoff => ⟨?_, ?_⟩, fun hon => ⟨?_, ?_⟩⟩,
      fun hoff hon hbit => ⟨fun t hbad hlive => ?_, fun htok href => ?_, fun htok href => ?_⟩, fun hon hoff hbit => ?_,
      writeHbCtrl_stays_on, writeHbCtrl_stays_off⟩,
    fun c s => ⟨?_, ?_, fun e v hservice => ⟨?_, ?_⟩, fun w => ⟨takeGrant_next c w s, takeGrant_prev c w s, fun e => takeGrant_remote c e w s⟩,
      fun path => ⟨fun hopen => if_pos hopen, fun hclosed => if_neg (Bool.eq_false_iff.mp hclosed)⟩,
      fun k t hrel hon hheld => ⟨haloRelease_takes hrel hon hheld, haloRelease_waits hrel⟩⟩,
    fun c path s u r hfind hu => ⟨?_, ?_, fun k hfor hdead => ⟨fun hseq hin => ⟨?_, fun d hd => ?_, fun hpiece => ?_, fun hrun hunit => ⟨?_, ?_⟩⟩,
      fun hbad => ?_⟩⟩,
    fun c s => ⟨haloLostWaits_none, fun t from_ k hlive hwait hk hlost => ?_⟩, fun c s hlive => ⟨fun w j from_ hwait => ?_, ?_⟩⟩
  · subst hu
    rw [exec_hbCtrlWrite k val hopen, writeHbWindow, if_neg (not_not.mpr hhalt)]
  · rw [exec_hbCtrlWrite k val hopen, writeHbWindow, if_pos (Bool.eq_false_iff.mp hhalt)]
  · exact exec_ctlHaloRegWrite k .ctrl val hruns
  · exact (exec_ctlHaloRegWrite k .win val hruns).trans (congrArg Host.Outcome.next (if_neg (Bool.eq_false_iff.mp hoff)))
  · exact (exec_ctlHaloRegWrite k .seq val hruns).trans (congrArg Host.Outcome.next (if_neg (Bool.eq_false_iff.mp hoff)))
  · exact (exec_ctlHaloRegWrite k .win val hruns).trans (congrArg Host.Outcome.next (if_pos hon))
  · exact (exec_ctlHaloRegWrite k .seq val hruns).trans (congrArg Host.Outcome.next (if_pos hon))
  · rw [writeHbCtrl_badToken hoff hon hbit hbad]
    exact ⟨_, raiseHalt_live c _ s hlive, rfl⟩
  · rw [writeHbCtrl_refused hoff hon hbit htok href, hbOf_modHb]
    exact ⟨rfl, rfl⟩
  · rw [writeHbCtrl_enables hoff hon hbit htok href]
    have hkind : fld ({ hbOf s c k with ctrl := val &&& ~~~ 1#32 } : HaloBuf).ctrl 1 2 = fld val 1 2 := fld_clear0 (by decide)
    have hengine : fld ({ hbOf s c k with ctrl := val &&& ~~~ 1#32 } : HaloBuf).ctrl 3 5 = fld val 3 5 := fld_clear0 (by decide)
    refine ⟨?_, fun hprev hne => ?_, fun hnext hne => ?_, fun hremote l hroute => ?_⟩
    · rw [hbOf_hbTell, hbOf_modHb]
      rfl
    · rw [← ringPrev_modHb c c k (hbTakes val) s] at hne ⊢
      exact hbTell_prev (hkind.trans hprev) hne
    · rw [← ringNext_modHb c c k (hbTakes val) s] at hne ⊢
      exact hbTell_next (hkind.trans hnext) hne
    · rw [← hengine] at hroute ⊢
      exact hbTell_remote (hkind.trans hremote) hroute
  · obtain ⟨err, hwrite⟩ := writeHbCtrl_disables hon hoff hbit
    rw [hwrite]
    refine ⟨?_, ?_, ?_, fun hprev hne => ?_, fun hnext hne => ?_, fun hremote l hroute => ?_⟩
    · rw [hbOf_hbTell, hbOf_modHb]
      exact bitAt_clear0
    · rw [hbOf_hbTell, hbOf_modHb]
      rfl
    · rw [hbOf_hbTell, hbOf_modHb]
      rfl
    · rw [← ringPrev_modHb c c k (fun b => hbOffered { b with err := err }) s] at hne ⊢
      exact hbTell_prev hprev hne
    · rw [← ringNext_modHb c c k (fun b => hbOffered { b with err := err }) s] at hne ⊢
      exact hbTell_next hnext hne
    · exact hbTell_remote hremote hroute
  · rintro m w v hpath rfl hmsg hgrant
    exact exec_haloCreditGrant_ring hpath hmsg hgrant
  · rintro m hpath rfl hmsg hgrant
    exact exec_haloCreditReturn_ring hpath hmsg hgrant
  · exact congrArg Host.Outcome.next (if_pos hservice)
  · exact congrArg Host.Outcome.next (if_pos hservice)
  · subst hu
    refine congrArg Host.Outcome.next ?_
    rw [hfind]
  · subst hu
    intro hnone
    have hfor : hbFor { s with haloRuns := s.haloRuns.eraseP (fun r => decide (r.core = c) && decide (r.path = path)) } r = none := hnone
    rw [haloArrive, hfor]
    rfl
  · obtain ⟨runs, rfl⟩ : ∃ l, u = { s with haloRuns := l } := ⟨_, hu⟩
    rw [haloArrive_accepts (s := { s with haloRuns := runs }) hfor hdead hseq hin, hbAccept_mem, hbWritten_core]
    rfl
  · obtain ⟨runs, rfl⟩ : ∃ l, u = { s with haloRuns := l } := ⟨_, hu⟩
    rw [haloArrive_accepts (s := { s with haloRuns := runs }) hfor hdead hseq hin, hbAccept_mem, hbWritten_other d hd]
  · obtain ⟨runs, rfl⟩ : ∃ l, u = { s with haloRuns := l } := ⟨_, hu⟩
    rw [haloArrive_accepts (s := { s with haloRuns := runs }) hfor hdead hseq hin, hbAccept_piece hpiece, hbOf_modHb, hbOf_hbWritten]
    rfl
  · obtain ⟨runs, rfl⟩ : ∃ l, u = { s with haloRuns := l } := ⟨_, hu⟩
    rw [haloArrive_accepts (s := { s with haloRuns := runs }) hfor hdead hseq hin, hbAccept_completed hrun hunit]
    rfl
  · obtain ⟨runs, rfl⟩ : ∃ l, u = { s with haloRuns := l } := ⟨_, hu⟩
    intro t harr hfit
    rw [haloArrive_accepts (s := { s with haloRuns := runs }) hfor hdead hseq hin]
    exact hbAccept_counts hrun hunit harr hfit
  · obtain ⟨runs, rfl⟩ : ∃ l, u = { s with haloRuns := l } := ⟨_, hu⟩
    rw [haloArrive_drops (s := { s with haloRuns := runs }) hfor hdead hbad]
    refine ⟨?_, ?_, fun hlive => ⟨_, raiseHalt_live _ _ _ ?_, rfl⟩⟩
    · rw [(raiseHalt_keeps ..).1, modHb_mem]
    · unfold hbOf
      rw [raiseHalt_halo]
      exact congrArg HaloBuf.err (hbOf_modHb r.core k _ _)
    · rw [modHb, modCore_same]
      exact hlive
  · obtain ⟨htime, h, second, hphase, hcode⟩ := haloLostWaits_halts hlive hwait hk hlost
    exact ⟨h, second, hphase, hcode⟩
  · have hexec := exec_haloTimeout_arrival hlive hwait
    rw [haloExpire_arrival (by exact hwait)] at hexec
    refine ⟨_, hexec, rfl, ⟨_, raiseHalt_live _ _ _ ?_, rfl⟩, ?_, rfl, fun d hd => ?_⟩
    · rw [haloNote_phase]
      exact phase_of_coreLive hlive
    · rw [raiseHalt_halo, haloNote, modCore_same, haloLastWord]
      simp [b2n]
    · rw [raiseHalt_other _ _ _ _ hd, haloNote, modCore_other c d _ _ hd]
      rfl
  · intro ch r from_ hrun hwait hcred
    obtain ⟨last, hexec⟩ := exec_haloTimeout_credit hlive hrun hwait hcred
    obtain ⟨h, hcode, hexpire⟩ := haloExpire_credit c ch last 0 (atTime (from_ + haloLimit s s.cores[c]) s)
    rw [hexpire] at hexec
    refine ⟨_, hexec, rfl, ⟨h, raiseHalt_live _ _ _ ?_, hcode⟩, fun d hd => ?_⟩
    · rw [modDxRun, modChan, modCore_same]
      exact (haloNote_phase ..).trans (phase_of_coreLive hlive)
    · rw [raiseHalt_other _ _ _ _ hd]
      refine (modCore_other c d _ _ hd).trans ?_
      rw [haloNote, modCore_other c d _ _ hd]
      rfl

end

section
-- One declaration after another: fewer threads, so that the check of the whole text keeps within its memory.
set_option Elab.async false
/-! PROOFS. The engine queues: pushed words, taken packets and pointer mismatches (O26). -/
namespace Sys2Proof.Machine
open Sys2Proof

/-! ### Fields of a word put together -/

theorem fld_or (a b : Word) (lo len : Nat) : fld (a ||| b) lo len = fld a lo len ||| fld b lo len := by
  unfold fld
  rw [BitVec.toNat_or, Nat.shiftRight_or_distrib, Nat.or_mod_two_pow]

theorem fld_eq_of_testBit {w : Word} {lo len n : Nat} (h : ∀ i, (decide (i < len) && w.getLsbD (lo + i)) = n.testBit i) : fld w lo len = n := by
  refine Nat.eq_of_testBit_eq fun i => ?_
  rw [fld, Nat.testBit_mod_two_pow, Nat.testBit_shiftRight, BitVec.testBit_toNat, h]

theorem testBit_of_lt {v n i : Nat} (hv : v < 2 ^ n) (hi : n ≤ i) : v.testBit i = false :=
  Nat.testBit_lt_two_pow (lt_of_lt_of_le hv (Nat.pow_le_pow_right (by decide) hi))

theorem fld_put_same {lo len v : Nat} (hlen : lo + len ≤ 32) (hv : v < 2 ^ len) : fld (put lo v) lo len = v := by
  refine fld_eq_of_testBit fun i => ?_
  rw [getLsbD_put, Nat.add_sub_cancel_left, decide_eq_true (Nat.le_add_right lo i)]
  by_cases hi : i < len
  · rw [decide_eq_true hi, decide_eq_true (by omega : lo + i < 32)]; rfl
  · rw [decide_eq_false hi, testBit_of_lt hv (by omega)]; rfl

/-- A field below what is put there is empty. -/
theorem fld_put_above {lo lo' len v : Nat} (h : lo + len ≤ lo') : fld (put lo' v) lo len = 0 := by
  refine fld_eq_of_testBit fun i => ?_
  rw [getLsbD_put, Nat.zero_testBit]
  by_cases hi : i < len
  · rw [decide_eq_false (by omega : ¬ lo' ≤ lo + i)]; simp
  · rw [decide_eq_false hi]; rfl

/-- So is one past its end. -/
theorem fld_put_below {lo lo' n len v : Nat} (hv : v < 2 ^ n) (h : lo' + n ≤ lo) : fld (put lo' v) lo len = 0 := by
  refine fld_eq_of_testBit fun i => ?_
  rw [getLsbD_put, Nat.zero_testBit, testBit_of_lt hv (by omega)]
  simp

/-- A change of a core is what it makes of the core as it stands. -/
theorem modCore_congr {c : CoreId} {f g : Core → Core} {s : State} (h : f s.cores[c] = g s.cores[c]) : modCore c f s = modCore c g s := by
  rw [modCore, modCore, updAt, updAt, h]

/-! ### The open packet of a queue -/

theorem rewindOpen_closed (q : EngQueue) : ∀ x ∈ (rewindOpen q).slots, x.order.isSome = true := by
  unfold rewindOpen
  split
  · intro x hx
    exact (List.mem_filter.mp hx).2
  · rename_i hnone
    intro x hx
    by_contra hopen
    exact hnone (List.any_eq_true.mpr ⟨x, hx, by rw [Option.not_isSome_iff_eq_none.mp hopen]; rfl⟩)

theorem rewindOpen_keeps (q : EngQueue) : (rewindOpen q).overrun = q.overrun ∧ (rewindOpen q).ignored = q.ignored ∧
    (rewindOpen q).commits = q.commits := by
  unfold rewindOpen
  split <;> exact ⟨rfl, rfl, rfl⟩

/-- Without an open packet that is whole nothing is committed. -/
theorem commitOpen_none {part : PartId} {tag : BitVec 14} {q : EngQueue} (h : ∀ x ∈ q.slots, x.order.isSome = true ∨ x.words.length ≠ x.len) :
    commitOpen part tag q = q := by
  unfold commitOpen
  extract_lets whole
  rw [if_neg]
  rw [List.any_eq_true]
  rintro ⟨x, hx, hwhole⟩
  rw [Bool.and_eq_true, decide_eq_true_eq, Option.isNone_iff_eq_none] at hwhole
  rcases h x hx with h | h
  · rw [hwhole.1] at h; cases h
  · exact h hwhole.2

theorem pushWord_full {part : PartId} {tag : BitVec 14} {job : Nat} {w : Word} {q : EngQueue} (h : 64 ≤ (rewindOpen q).slots.length) :
    pushWord part tag job true w false q = { rewindOpen q with
      ignoring := true, overrun := q.overrun ||| BitVec.ofNat 8 (2 ^ part.val), ignored := satAdd16 q.ignored 1 } := by
  obtain ⟨hover, hign, -⟩ := rewindOpen_keeps q
  have hopen : openPacket part job w (rewindOpen q) = { rewindOpen q with
      ignoring := true, overrun := q.overrun ||| BitVec.ofNat 8 (2 ^ part.val), ignored := satAdd16 q.ignored 1 } := by
    rw [openPacket, if_pos h, hover, hign]
  exact (commitOpen_none (q := openPacket part job w (rewindOpen q))
    (by rw [hopen]; exact fun x hx => .inl (rewindOpen_closed q x hx))).trans hopen

theorem pushWord_first {part : PartId} {tag : BitVec 14} {job : Nat} {w : Word} {q : EngQueue} (h : (rewindOpen q).slots.length < 64)
    (hlen : fld w 8 5 ≠ 0) : (pushWord part tag job true w false q).slots = (rewindOpen q).slots ++ [⟨[w], fld w 8 5 + 1, none, false, job⟩] := by
  have hopen : (openPacket part job w (rewindOpen q)).slots = (rewindOpen q).slots ++ [⟨[w], fld w 8 5 + 1, none, false, job⟩] := by
    rw [openPacket, if_neg (by omega)]
  refine (congrArg EngQueue.slots (commitOpen_none (q := openPacket part job w (rewindOpen q)) ?_)).trans hopen
  rw [hopen]
  intro x hx
  rcases List.mem_append.mp hx with hx | hx
  · exact .inl (rewindOpen_closed q x hx)
  · obtain rfl := List.mem_singleton.mp hx
    exact .inr (fun he => hlen (Nat.succ_injective he).symm)

/-- The words of a packet with one more, the job's fields in word 0. -/
def packetWords (part : PartId) (tag : BitVec 14) (w : Word) : List Word → List Word
  | v :: vs => insertFields part tag v :: (vs ++ [w])
  | [] => [insertFields part tag w]

theorem map_ite_of_none {α : Type} {p : α → Bool} {f : α → α} {l : List α} (h : ∀ y ∈ l, p y = false) :
    l.map (fun y => if p y then f y else y) = l :=
  (List.map_congr_left fun y hy => if_neg (Bool.eq_false_iff.mp (h y hy))).trans (List.map_id' l)

/-- The last word commits the packet. -/
theorem pushWord_last {part : PartId} {tag : BitVec 14} {job : Nat} {w : Word} {q : EngQueue} {a : List QSlot} {x : QSlot}
    (hslots : q.slots = a ++ [x]) (hclosed : ∀ y ∈ a, y.order.isSome = true) (hopen : x.order = none) (hlen : x.words.length + 1 = x.len) :
    pushWord part tag job false w false q = { q with
      commits := q.commits + 1, slots := a ++ [{ x with order := some q.commits, words := packetWords part tag w x.words }] } := by
  have hq : queueOpen q = true := by
    rw [queueOpen, hslots, List.any_append, List.any_cons, hopen]; simp
  have hsome : ∀ y ∈ a, y.order.isNone = false := fun y hy => by rw [Option.isNone_eq_false_iff]; exact hclosed y hy
  have happend : appendOpen w q = { q with slots := a ++ [{ x with words := x.words ++ [w] }] } := by
    rw [appendOpen, hslots, List.map_append, map_ite_of_none hsome, List.map_singleton, hopen]
    rfl
  have hwhole : ((none : Option Nat).isNone && decide ((x.words ++ [w]).length = x.len)) = true := by
    rw [List.length_append]; exact decide_eq_true hlen
  have hwords : ∀ ws : List Word, (match ws ++ [w] with | v :: vs => insertFields part tag v :: vs | [] => []) = packetWords part tag w ws
    | [] => rfl
    | _ :: _ => rfl
  have hclosed' : ∀ y ∈ a, (y.order.isNone && decide (y.words.length = y.len)) = false := fun y hy => by rw [hsome y hy]; rfl
  change commitOpen part tag (if queueOpen q then appendOpen w q else q) = _
  rw [if_pos hq, happend, commitOpen]
  dsimp only
  rw [List.any_append, List.any_cons, hopen, if_pos (by rw [hwhole]; simp), List.map_append, map_ite_of_none hclosed', List.map_singleton, ← hwords]
  dsimp only
  rw [if_pos hwhole] <;> rfl

/-- A word that comes in corrupt leaves no packet open. -/
theorem pushWord_corrupt (part : PartId) (tag : BitVec 14) (job : Nat) (w : Word) (q : EngQueue) :
    ∀ x ∈ (pushWord part tag job false w true q).slots, x.order.isSome = true := rewindOpen_closed _

/-! ### The push -/

/-- The control core notes that a packet of its program was ignored. -/
def noteOverrun (old new : EngQueue) (ctl : Ctl) : Ctl :=
  if new.overrun = old.overrun ∧ new.ignored = old.ignored then ctl else { ctl with overran := true }

/-- A pushed word as a change of the core. -/
def queueTakes (e : EngId) (old new : EngQueue) (k : Core) : Core :=
  { k with queues := updAt k.queues e (fun _ => new), ctl := noteOverrun old new k.ctl }

theorem exec_queueWordPush {c : CoreId} {e : EngId} {first corrupt : Bool} {w : Word} {s : State} {q new : EngQueue} {ctl : Ctl}
    (hruns : ctlRuns s c = true) (hq : q = (s.cores[c]).queues[e]) (hctl : ctl = (s.cores[c]).ctl)
    (hnew : new = pushWord ctl.part ctl.tag ctl.job first w corrupt q) : exec (.queueWordPush c e first w corrupt) s = .next
      (if new.commits = q.commits then modCore c (queueTakes e q new) s else progress c (modCore c (queueTakes e q new) s)) := by
  have hnoted : (if new.overrun = q.overrun ∧ new.ignored = q.ignored then modQ c e (fun _ => new) s
      else modCore c (fun k => { k with ctl := { k.ctl with overran := true } }) (modQ c e (fun _ => new) s)) = modCore c (queueTakes e q new) s := by
    unfold queueTakes noteOverrun
    split
    · rfl
    · rw [modQ, modCore_modCore]
  subst hq hctl hnew
  rw [← hnoted]
  exact congrArg Host.Outcome.next (if_neg (not_not.mpr hruns))

theorem queue_queueTakes (c : CoreId) (e : EngId) (old new : EngQueue) (s : State) :
    ((modCore c (queueTakes e old new) s).cores[c]).queues[e] = new := by
  rw [modCore_same]
  exact updAt_get_same _ _ _

/-- Progress leaves the queues. -/
theorem queues_progress (c d : CoreId) (s : State) : ((progress c s).cores[d]).queues = (s.cores[d]).queues := by
  obtain ⟨n, hn⟩ := progress_cores c d s
  rw [hn]

theorem queue_pushed (c : CoreId) (e : EngId) (old new : EngQueue) (s : State) : ((if new.commits = old.commits then modCore c (queueTakes e old new) s
    else progress c (modCore c (queueTakes e old new) s)).cores[c]).queues[e] = new := by
  split
  · exact queue_queueTakes ..
  · exact (congrArg (fun v : Vector EngQueue 5 => v[e]) (queues_progress c c _)).trans (queue_queueTakes ..)

theorem inService_queueTakes (c d : CoreId) (e : EngId) (old new : EngQueue) (s : State) :
    inService (modCore c (queueTakes e old new) s) d = inService s d := by
  unfold inService
  by_cases hd : d = c
  · subst hd; rw [modCore_same]; rfl
  · rw [modCore_other c d _ s hd]; rfl

theorem groupCores_queueTakes (c : CoreId) (e : EngId) (old new : EngQueue) (s : State) (g : Nat) :
    groupCores (modCore c (queueTakes e old new) s) g = groupCores s g := by
  unfold groupCores entryCores coresInService
  simp only [inService_queueTakes]
  split <;> rfl

/-- Progress in a core ends the standing of every group with it. -/
theorem stall_progress {c d : CoreId} {s : State} : ∀ y ∈ ((progress c s).cores[d]).stall, c ∉ groupCores s y.1 := by
  intro y hy
  have hcore : (progress c s).cores[d] = { s.cores[d] with
      stall := (s.cores[d]).stall.filter (fun x => !(decide (c ∈ groupCores s x.1))) } := by
    simp only [progress, Fin.getElem_fin, Vector.getElem_map]
  rw [hcore] at hy
  simpa using (List.mem_filter.mp hy).2

/-! ### The take -/

theorem packetTake_checked {c : CoreId} {e : EngId} {ecc : Bool} {s : State} {x : QSlot} {cmd : EngCmd}
    (hnext : nextPacket (s.cores[c]).queues[e] = some x)
    (hcmd : cmd = packetCmd s c e x ((physSet ((s.cores[c]).allocs[fin 8 (fld (x.words.headD 0) 13 3)]) (fld (x.words.headD 0) 3 2)).getD 0))
    (hlive : coreLive s c = true) (hpark : engineParked s.cores[c] e = false) (hholds : holdsTaken s.cores[c] e cmd.chan = false)
    (huse : (physSet ((s.cores[c]).allocs[fin 8 (fld (x.words.headD 0) 13 3)]) (fld (x.words.headD 0) 3 2)).any (setInUse s.cores[c] e) = false) :
    (∀ h, packetChecks s c e (s.cores[c]).queues[e] x ecc = some h → packetTake c e ecc s = raiseHalt c h s) ∧
    (packetChecks s c e (s.cores[c]).queues[e] x ecc = none → packetTake c e ecc s =
      haloLostWaits c (progress c (modCore c (fun k => setTaken e cmd (modSet e cmd.set (applyRuns e (packetRuns 32 (x.words.drop 3))) { k with
        queues := updAt k.queues e (fun q => freeTaken { q with
          slots := q.slots.map (fun y => if y = x then { y with taken := true } else y) }) })) s))) := by
  have hfree : ¬ (¬ coreLive s c = true ∨ engineParked s.cores[c] e = true ∨ holdsTaken s.cores[c] e cmd.chan = true ∨
      (physSet ((s.cores[c]).allocs[fin 8 (fld (x.words.headD 0) 13 3)]) (fld (x.words.headD 0) 3 2)).any (setInUse s.cores[c] e) = true) := by
    rw [hlive, hpark, hholds, huse]; simp
  subst hcmd
  unfold packetTake
  dsimp only
  rw [hnext]
  dsimp only
  rw [if_neg hfree]
  refine ⟨fun h hcheck => ?_, fun hcheck => ?_⟩
  · rw [hcheck]
  · rw [hcheck]
    dsimp only
    rw [modQ, modCore_modCore]

/-! ### The pointer mismatch (R228) -/

/-- The queue and the taken commands of an engine are discarded. -/
def emptiedQueue (e : EngId) (k : Core) : Core := dropTaken e { k with queues := updAt k.queues e emptyQueue }

theorem emptiedQueue_keeps (e : EngId) (k : Core) : (emptiedQueue e k).phase = k.phase ∧ (emptiedQueue e k).mem = k.mem ∧
    (emptiedQueue e k).queues = updAt k.queues e emptyQueue := by
  unfold emptiedQueue dropTaken
  split <;> exact ⟨rfl, rfl, rfl⟩

theorem holdsTaken_emptiedQueue (e : EngId) (k : Core) (ch : ChanId) : holdsTaken (emptiedQueue e k) e ch = false := by
  unfold holdsTaken emptiedQueue takenOf dropTaken
  fin_cases e <;> simp

/-- A halt leaves what the engines have taken, and an empty queue. -/
theorem raiseHalt_queues (c : CoreId) (h : HaltCond) (s : State) (e : EngId) (hempty : ((s.cores[c]).queues[e]).slots = []) :
    (((raiseHalt c h s).cores[c]).queues[e]).slots = [] := by
  rw [raiseHalt, modCore_same]
  split
  · have hrewind : (rewindOpen (s.cores[c]).queues[e]).slots = [] := by rw [rewindOpen, hempty]; exact hempty
    simpa only [snuffEngines, Fin.getElem_fin, Vector.getElem_map] using hrewind
  · exact hempty
  · exact hempty
  · exact hempty

theorem mxSnuff_taken (now : Nat) (m : Mx) : (mxSnuff now m).taken = m.taken := by
  unfold mxSnuff
  split
  · rfl
  · split <;> rfl

theorem takenOf_snuffEngines (now : Nat) (k : Core) (e : EngId) (ch : ChanId) : takenOf (snuffEngines now k) e ch = takenOf k e ch := by
  have hfx : (snuffEngines now k).fx.taken = k.fx.taken := by unfold snuffEngines; dsimp only; split <;> rfl
  have hdx : ((snuffEngines now k).dx.chans[ch]).waiting = (k.dx.chans[ch]).waiting := by
    simp only [snuffEngines, Fin.getElem_fin, Vector.getElem_map]
  unfold takenOf
  split
  · exact mxSnuff_taken ..
  · rfl
  · rfl
  · exact hdx
  · exact hfx

theorem takenOf_raiseHalt (c : CoreId) (h : HaltCond) (s : State) (e : EngId) (ch : ChanId) :
    takenOf ((raiseHalt c h s).cores[c]) e ch = takenOf s.cores[c] e ch := by
  rw [raiseHalt, modCore_same]
  split
  · exact takenOf_snuffEngines ..
  · rfl
  · rfl
  · rfl

/-- The detail of HALT_QUEUE_RESET names the queue and the copies (Table 10.7). -/
theorem fld_mismatchDetail (e : EngId) (free : Bool) (a b : BitVec 6) (n : Nat) :
    let w := put 0 e.val ||| put 3 (b2n free) ||| put 4 a.toNat ||| put 10 b.toNat ||| put 16 n
    fld w 0 3 = e.val ∧ fld w 4 6 = a.toNat ∧ fld w 10 6 = b.toNat := by
  have he : e.val < 2 ^ 3 := by omega
  have hfree : b2n free < 2 ^ 1 := Nat.lt_of_le_of_lt (b2n_le_one free) (by decide)
  have ha := a.isLt
  have hb := b.isLt
  simp only [fld_or]
  refine ⟨?_, ?_, ?_⟩
  · rw [fld_put_same (by decide) he, fld_put_above (by decide), fld_put_above (by decide), fld_put_above (by decide), fld_put_above (by decide)]
    simp
  · rw [fld_put_below he (by decide), fld_put_below hfree (by decide), fld_put_same (by decide) ha, fld_put_above (by decide),
      fld_put_above (by decide)]
    simp
  · rw [fld_put_below he (by decide), fld_put_below hfree (by decide), fld_put_below ha (by decide), fld_put_same (by decide) hb,
      fld_put_above (by decide)]
    simp

theorem exec_queuePointerMismatch {c : CoreId} {e : EngId} {free : Bool} {a b : BitVec 6} {s : State} (hservice : inService s c = true) (hab : a ≠ b)
    (hlive : (s.cores[c]).phase = .live) : ∃ n, exec (.queuePointerMismatch c e free a b) s = .next
      (raiseHalt c (haltCond 0x13 6 0 (put 0 e.val ||| put 3 (b2n free) ||| put 4 a.toNat ||| put 10 b.toNat ||| put 16 n))
        (modCore c (emptiedQueue e) s)) := by
  have hacts : ¬ (¬ inService s c = true ∨ a = b ∨ inReset s.cores[c] = true) := by
    rw [inReset, hlive, hservice]; simp [hab]
  have hmod : modCore c (emptiedQueue e) s = modCore c (dropTaken e) (modQ c e emptyQueue s) := by rw [modQ, modCore_modCore]; rfl
  rw [hmod]
  exact ⟨_, congrArg Host.Outcome.next (if_neg hacts)⟩

end Sys2Proof.Machine
open Sys2Proof Sys2Proof.Machine

/-- Settles O26: pushes by the equations of `pushWord`, the take by its checks, and the mismatch by what it discards. -/
theorem engineQueuesWork : Obligations.EngineQueuesWork := by
  unfold Obligations.EngineQueuesWork
  refine ⟨fun c e s q ctl hruns hq hctl => ⟨fun w hfull => ?_, fun w hroom hlen => ?_, fun w a x hslots hclosed hopen hlen => ?_, fun w => ?_, ?_⟩,
    fun c e ecc s x cmd hnext hcmd hlive hpark hholds huse => ?_, fun c e free a b s hservice hab hlive => ?_⟩
  · rw [exec_queueWordPush hruns hq hctl rfl, pushWord_full hfull, if_pos (rewindOpen_keeps q).2.2]
    subst hctl
    exact congrArg Host.Outcome.next (modCore_congr rfl)
  · refine ⟨_, exec_queueWordPush hruns hq hctl rfl, ?_⟩
    rw [queue_pushed, pushWord_first hroom hlen]
  · have hpush := pushWord_last (part := ctl.part) (tag := ctl.tag) (job := ctl.job) (w := w) hslots hclosed hopen hlen
    refine ⟨_, (exec_queueWordPush hruns hq hctl rfl).trans (congrArg Host.Outcome.next (if_neg ?_)), ?_, fun y hy => ?_⟩
    · rw [hpush]
      exact Nat.succ_ne_self _
    · rw [queues_progress, queue_queueTakes, hpush]
      rfl
    · rw [← groupCores_queueTakes c e q _ s y.1]
      exact stall_progress y hy
  · refine ⟨_, exec_queueWordPush hruns hq hctl rfl, ?_⟩
    rw [queue_pushed]
    exact pushWord_corrupt ctl.part ctl.tag ctl.job w q
  · exact congrArg Host.Outcome.next (if_pos hruns)
  · obtain ⟨hbad, hgood⟩ := packetTake_checked (ecc := ecc) hnext hcmd hlive hpark hholds huse
    exact ⟨fun h hcheck => congrArg Host.Outcome.next (hbad h hcheck), fun hcheck => congrArg Host.Outcome.next (hgood hcheck)⟩
  · obtain ⟨n, hexec⟩ := exec_queuePointerMismatch (free := free) (e := e) hservice hab hlive
    obtain ⟨hphase, hmem, hqueues⟩ := emptiedQueue_keeps e s.cores[c]
    obtain ⟨he, ha, hb⟩ := fld_mismatchDetail e free a b n
    refine ⟨_, hexec, rfl, fun d hd => ?_, raiseHalt_queues _ _ _ _ ?_, ?_, fun ch => ?_, _, raiseHalt_live _ _ _ ?_, rfl, he, ha, hb⟩
    · rw [raiseHalt_other _ _ _ _ hd, modCore_other c d _ s hd]
    · rw [modCore_same, hqueues]
      exact congrArg EngQueue.slots (updAt_get_same _ _ _)
    · rw [(raiseHalt_keeps ..).1, modCore_same, hmem]
    · rw [holdsTaken, takenOf_raiseHalt, modCore_same]
      exact holdsTaken_emptiedQueue e s.cores[c] ch
    · rw [modCore_same, hphase, hlive]

end

section
-- One declaration after another: fewer threads, so that the check of the whole text keeps within its memory.
set_option Elab.async false
/-! PROOFS. The control core: accesses, waits, ends and its instruction banks (O27). -/
namespace Sys2Proof.Machine
open Sys2Proof

/-! ### Accesses of the control program -/

section
variable {c : CoreId} {s : State} {t : BitVec 6}

theorem ctlValue_sc (r : BitVec 4) : ctlValue s c (.sc r) = .ok ((s.cores[c]).sc[r.toNat]'(by omega)) := by
  have hlt : r.toNat < 16 := r.isLt
  simp only [ctlValue, Fin.getElem_fin, Vector.getElem?_eq_getElem hlt, Option.getD_some]

theorem exec_ctlRead_ok {src : CtlSrc} {v : Word} (h : ctlRuns s c = true) (hv : ctlValue s c src = .ok v) :
    exec (.ctlRead c src) s = .next { s with busData := v.setWidth 64 } := by
  refine congrArg Host.Outcome.next ?_
  rw [if_neg (not_not.mpr h), hv]

theorem exec_ctlBranch_ok {src : CtlSrc} {v : Word} (h : ctlRuns s c = true) (hv : ctlValue s c src = .ok v) :
    exec (.ctlBranch c src) s = .next { s with busData := v.setWidth 64 } := by
  refine congrArg Host.Outcome.next ?_
  rw [if_neg (not_not.mpr h), hv]

theorem exec_ctlRead_halts {src : CtlSrc} {e : HaltCond} (h : ctlRuns s c = true) (hv : ctlValue s c src = .error e) :
    exec (.ctlRead c src) s = .next (raiseHalt c e s) := by
  refine congrArg Host.Outcome.next ?_
  rw [if_neg (not_not.mpr h), hv]

theorem exec_ctlBranch_halts {src : CtlSrc} {e : HaltCond} (h : ctlRuns s c = true) (hv : ctlValue s c src = .error e) :
    exec (.ctlBranch c src) s = .next (raiseHalt c e s) := by
  refine congrArg Host.Outcome.next ?_
  rw [if_neg (not_not.mpr h), hv]

theorem ctlValue_tok {p : TokId} (h : ctlTok s c t = .ok p) : ctlValue s c (.tok t) = .ok ((tok s c p).setWidth 32) := by rw [ctlValue, h]

theorem ctlValue_tok_bad {e : HaltCond} (h : ctlTok s c t = .error e) : ctlValue s c (.tok t) = .error e := by rw [ctlValue, h]

/-- The data of a read of a counter, which is 16 bits wide. -/
theorem setWidth_counter (v : Half) : (v.setWidth 32).setWidth 64 = v.setWidth 64 := by
  refine BitVec.eq_of_toNat_eq ?_
  have hv := v.isLt
  simp only [BitVec.toNat_setWidth]
  omega

theorem ctlTok_bad {e : HaltCond} (h : ctlTok s c t = .error e) : e.code = 8 := by
  unfold ctlTok at h
  dsimp only at h
  split at h
  · cases h
  · cases h; rfl

theorem exec_ctlTokenWrite_ok {p : TokId} {v : Half} (h : ctlRuns s c = true) (hp : ctlTok s c t = .ok p) :
    exec (.ctlTokenWrite c t v) s = .next (if tok s c p = v then s else setTok c p v s) := by
  refine congrArg Host.Outcome.next ?_
  rw [if_neg (not_not.mpr h), hp]

theorem setTok_frame (c : CoreId) (p : TokId) (v : Half) (s : State) : setTok c p v s = { s with cores := (setTok c p v s).cores } := rfl

end

/-! ### Instruction banks (R242, R243, R258) -/

section
variable {c : CoreId} {s : State}

theorem bankMem_modBank (b b' : Bool) (f : Memory → Memory) :
    bankMem ((modBank c b f s).cores[c]) b' = if b' = b then f (bankMem s.cores[c] b) else bankMem s.cores[c] b' := by
  rw [modBank, modCore_same]
  cases b <;> cases b' <;> rfl

theorem bankMem_tagBank (b b' : Bool) (x : Option (Nat × Nat)) : bankMem ((tagBank c b x s).cores[c]) b' = bankMem s.cores[c] b' := by
  rw [tagBank, modCore_same]; rfl

theorem bankTag_tagBank (b : Bool) (x : Option (Nat × Nat)) : bankTag ((tagBank c b x s).cores[c]) b = x := by
  rw [tagBank, modCore_same]
  exact updAt_get_same _ _ _

/-- A word that a write makes good lies whole within it. -/
theorem freshWords_lost {m : MemName} {a n : Nat} {x : MemName × Nat} (hx : x ∈ s.safety.poison) (hlost : x ∉ (freshWords m [(a, n)] s).safety.poison) :
    x.1 = m ∧ a ≤ x.2 ∧ x.2 + 8 ≤ a + n := by
  have hgone : ¬ (!(decide (x.1 = m) && (List.range 8).all (fun i => [(a, n)].any (fun r => decide (r.1 ≤ x.2 + i) && decide (x.2 + i < r.1 + r.2))))) = true :=
    fun h => hlost (List.mem_filter.mpr ⟨hx, h⟩)
  simp only [Bool.not_eq_true', Bool.not_eq_false, Bool.and_eq_true, decide_eq_true_eq, List.all_eq_true, List.mem_range, List.any_cons, List.any_nil,
    Bool.or_false] at hgone
  obtain ⟨hm, hin⟩ := hgone
  have h0 := hin 0 (by decide)
  have h7 := hin 7 (by decide)
  exact ⟨hm, by omega, by omega⟩

/-- The inactive bank takes a write: it holds no segment any more. -/
def bankTakes (bank : Bool) (off : Nat) (data : List Byte) (k : Core) : Core :=
  { k with
    mem := if bank then { k.mem with bank1 := memStore k.mem.bank1 off data } else { k.mem with bank0 := memStore k.mem.bank0 off data }
    ctl := { k.ctl with ready := false, seen := false }
    bankSeg := updAt k.bankSeg (fin 2 (b2n bank)) (fun _ => none) }

theorem exec_imemWrite_active {bank : Bool} {off : Nat} {data : List Byte} (hservice : inService s c = true) (hroom : off + data.length ≤ 0x20000)
    (hactive : (s.cores[c]).ctl.active = bank) :
    exec (.imemWrite c bank off data) s = .next (modCtl c (fun x => { x with actWr := satAdd16 x.actWr 1 }) s) := by
  refine congrArg Host.Outcome.next ?_
  rw [if_neg (by rw [hservice]; simp; omega), if_pos hactive]

theorem exec_imemWrite_inactive {bank : Bool} {off : Nat} {data : List Byte} (hservice : inService s c = true) (hroom : off + data.length ≤ 0x20000)
    (hactive : (s.cores[c]).ctl.active ≠ bank) : exec (.imemWrite c bank off data) s = .next
      (freshWords (.bank c bank) [(off, data.length)] (modCore c (bankTakes bank off data) s)) := by
  refine congrArg Host.Outcome.next ?_
  rw [if_neg (by rw [hservice]; simp; omega), if_neg hactive]
  have hmod : modCore c (bankTakes bank off data) s = tagBank c bank none (modCtl c (fun x => { x with ready := false, seen := false })
      (modBank c bank (fun m => memStore m off data) s)) := by
    rw [tagBank, modCtl, modBank, modCore_modCore, modCore_modCore]
    cases bank <;> rfl
  rw [hmod]
  rfl

/-- What a bank's copy from the program store does. -/
theorem fillBank_spec {bank ok : Bool} {handle j : Nat} {p : ProgSlot} {u : State} (h : (ok, u) = fillBank c bank handle p j s) :
    (ok = true ↔ meetsPoison s .staging (p.store + storeOff p.package j) (sect p.package j).len = false ∧
      (crc32c (memBytes s.staging (p.store + storeOff p.package j) (sect p.package j).len)).toNat = (sect p.package j).crc) ∧
    bankMem u.cores[c] bank = memStore (bankMem s.cores[c] bank) 0 (memBytes s.staging (p.store + storeOff p.package j) (sect p.package j).len) ∧
    bankMem u.cores[c] (!bank) = bankMem s.cores[c] (!bank) := by
  have hlen : (memBytes s.staging (p.store + storeOff p.package j) (sect p.package j).len).length = (sect p.package j).len := by
    simp [memBytes]
  have hmem (b : Bool) (x : Option (Nat × Nat)) (v : State) (hv : v.cores = (modBank c bank (fun m => memStore m 0
      (memBytes s.staging (p.store + storeOff p.package j) (sect p.package j).len)) s).cores) :
      bankMem ((tagBank c bank x v).cores[c]) b = if b = bank then
        memStore (bankMem s.cores[c] bank) 0 (memBytes s.staging (p.store + storeOff p.package j) (sect p.package j).len) else bankMem s.cores[c] b := by
    rw [bankMem_tagBank, hv, bankMem_modBank]
  unfold fillBank at h
  dsimp only at h
  rw [hlen] at h
  split at h
  · rename_i hgood
    cases h
    refine ⟨⟨fun _ => ⟨Bool.eq_false_iff.mpr hgood.1, hgood.2⟩, fun _ => rfl⟩, ?_, ?_⟩
    · exact (hmem bank _ _ rfl).trans (if_pos rfl)
    · exact (hmem (!bank) _ _ rfl).trans (if_neg (Bool.not_ne_self bank))
  · rename_i hbad
    cases h
    refine ⟨⟨fun hf => absurd hf Bool.false_ne_true, fun hgood => absurd ⟨Bool.eq_false_iff.mp hgood.1, hgood.2⟩ hbad⟩, ?_, ?_⟩
    · exact (hmem bank _ _ rfl).trans (if_pos rfl)
    · exact (hmem (!bank) _ _ rfl).trans (if_neg (Bool.not_ne_self bank))

section
variable {n : Nat × Nat} {p : ProgSlot} (hservice : inService s c = true)
include hservice

theorem exec_bankReady_last (hnext : nextSection s c = none) : exec (.bankReady c) s = .next (modCtl c (fun x => { x with ready := true }) s) := by
  refine congrArg Host.Outcome.next ?_
  rw [if_neg (not_not.mpr hservice), bankReady, hnext]
  rfl

theorem exec_bankReady_written (hnext : nextSection s c = some n) (hprog : progOf s n.1 = some p)
    (hwritten : memBytes (bankMem s.cores[c] (!(s.cores[c]).ctl.active)) 0 (sect p.package n.2).len = sectBytes p.package n.2) :
    exec (.bankReady c) s = .next (modCtl c (fun x => { x with ready := true }) (tagBank c (!(s.cores[c]).ctl.active) (some n) s)) := by
  refine congrArg Host.Outcome.next ?_
  rw [if_neg (not_not.mpr hservice), bankReady, hnext, Option.bind_some, hprog]
  exact if_pos hwritten

theorem exec_bankReady_copied {ok : Bool} {u : State} (hnext : nextSection s c = some n) (hprog : progOf s n.1 = some p)
    (hother : memBytes (bankMem s.cores[c] (!(s.cores[c]).ctl.active)) 0 (sect p.package n.2).len ≠ sectBytes p.package n.2)
    (hfill : (ok, u) = fillBank c (!(s.cores[c]).ctl.active) n.1 p n.2 (modCtl c (fun x => { x with ready := false }) s)) :
    exec (.bankReady c) s = .next (if ok then modCtl c (fun x => { x with ready := true }) u else failJob (s.cores[c]).ctl.job ⟨0, 1, 0⟩ u) := by
  refine congrArg Host.Outcome.next ?_
  rw [if_neg (not_not.mpr hservice), bankReady, hnext, Option.bind_some, hprog]
  dsimp only [Option.map_some]
  rw [if_neg hother, ← hfill]
  cases ok <;> rfl

end
end

end Sys2Proof.Machine
open Sys2Proof Sys2Proof.Machine

/-- Settles O27: each action of the control program and of its loader by its equation. -/
theorem controlCoreRuns : Obligations.ControlCoreRuns := by
  unfold Obligations.ControlCoreRuns
  refine ⟨fun c s hruns => ⟨fun t p hp => ⟨fun v => ?_, ?_, ?_, fun v => ?_⟩, fun r => ⟨exec_ctlRead_ok hruns (ctlValue_sc r),
      exec_ctlBranch_ok hruns (ctlValue_sc r)⟩, fun e k => ?_, fun t v h hbad => ⟨ctlTok_bad hbad, ?_, ?_, ?_, ?_⟩⟩,
    fun c s => ⟨fun hlive hrunning hholds => ?_, fun hruns => ⟨?_, fun addr w => ?_⟩, fun cmp hservice hpower hretained => ?_⟩,
    fun c s => ⟨fun bank off data hservice hwf => ⟨fun hactive => ?_, fun hactive => ?_⟩, fun hservice => ⟨exec_bankReady_last hservice,
      fun n p hnext hprog => ⟨exec_bankReady_written hservice hnext hprog, fun ok u hother hfill => ?_⟩⟩,
      fun at_ word target hruns => ⟨fun next hnext => ?_, fun hnext => ?_⟩, fun hlive hwait hready => ?_⟩⟩
  · refine ⟨_, exec_ctlTokenWrite_ok hruns hp, ?_⟩
    split
    · rename_i hsame
      exact ⟨hsame, fun x _ => rfl, rfl⟩
    · refine ⟨?_, fun x hx => ?_, setTok_frame ..⟩
      · rw [setTok_tok, if_pos rfl]
      · rw [setTok_tok, if_neg hx]
  · rw [exec_ctlRead_ok hruns (ctlValue_tok hp), setWidth_counter]
  · rw [exec_ctlBranch_ok hruns (ctlValue_tok hp), setWidth_counter]
  · refine congrArg Host.Outcome.next ?_
    dsimp only
    rw [if_neg (not_not.mpr hruns), hp]
  · exact congrArg Host.Outcome.next (if_neg (not_not.mpr hruns))
  · refine congrArg Host.Outcome.next ?_
    rw [if_neg (not_not.mpr hruns), hbad]
  · exact exec_ctlRead_halts hruns (ctlValue_tok_bad hbad)
  · exact exec_ctlBranch_halts hruns (ctlValue_tok_bad hbad)
  · refine congrArg Host.Outcome.next ?_
    dsimp only
    rw [if_neg (not_not.mpr hruns), hbad]
  · exact congrArg Host.Outcome.next (if_pos ⟨hlive, hrunning, hholds⟩)
  · exact congrArg Host.Outcome.next (if_neg (not_not.mpr hruns))
  · exact congrArg Host.Outcome.next (if_neg (not_not.mpr hruns))
  · exact congrArg Host.Outcome.next (if_pos ⟨hservice, hpower, Bool.eq_false_iff.mp hretained⟩)
  · exact exec_imemWrite_active hservice (of_decide_eq_true hwf) hactive
  · refine ⟨_, exec_imemWrite_inactive hservice (of_decide_eq_true hwf) hactive, ?_, fun x hx hlost => ?_, ?_, ?_, ?_, ?_⟩
    · rw [freshWords_cores, modCore_same]
      rfl
    · exact freshWords_lost (s := modCore c (bankTakes bank off data) s) hx hlost
    · rw [freshWords_cores, modCore_same]
      rfl
    · rw [freshWords_cores, modCore_same]
      cases bank <;> rfl
    · rw [freshWords_cores, modCore_same]
      cases bank <;> rfl
    · rw [freshWords_cores, modCore_same]
      exact updAt_get_same _ _ _
  · obtain ⟨hok, hmem, hother'⟩ := fillBank_spec hfill
    have hexec := exec_bankReady_copied hservice hnext hprog hother hfill
    have hcore (b : Bool) : bankMem ((modCtl c (fun x => { x with ready := false }) s).cores[c]) b = bankMem s.cores[c] b := by
      rw [modCtl, modCore_same]; rfl
    rw [hcore] at hmem hother'
    rw [Bool.not_not] at hother'
    exact ⟨hok, hmem, hother', fun h => by rw [hexec, if_pos h], fun h => by rw [hexec, if_neg (Bool.eq_false_iff.mp h)]⟩
  · refine congrArg Host.Outcome.next ?_
    rw [if_neg (not_not.mpr hruns), hnext]
    rfl
  · refine congrArg Host.Outcome.next ?_
    rw [if_neg (not_not.mpr hruns), hnext]
  · refine congrArg Host.Outcome.next ?_
    rw [if_pos ⟨hlive, hwait, hready⟩]
    refine modCore_congr ?_
    dsimp only
    cases (s.cores[c]).ctl.active <;> rfl

end

section
-- One declaration after another: fewer threads, so that the check of the whole text keeps within its memory.
set_option Elab.async false
/-! PROOFS. Three statements about halts, restarts and recoveries that fail: O28, O29 and O30. -/
namespace Sys2Proof.Machine
open Sys2Proof

/-! ### A core outside the group that stands still (O28) -/

/-- A job of candle entry 0, on core 0 alone. -/
def firstEntryJob : Job :=
  { id := 1, qid := 3, seq := 0, part := 0, asid := 1, secure := false, tag := 0, irq := false, packet := [], slot := 0, variant := 0, entry := some 0
    cores := [⟨0, false, false⟩], twins := [], fail := none, phase := .running, start := 0, buffers := [], written := [], saved := [] }

/-- A channel's command with credits that waits for one. -/
def creditRun : DxRun := { haloReadRun with cfg := (Vector.replicate 64 0).set 24 0x40, out := [], waiting := true }

/-- Entry 0, whose only core is core 0, stands still in a token wait, while a channel of core 1 waits for a credit. -/
def standingState : State :=
  let s := { State.reset with
    host := { State.reset.host with jobs := [firstEntryJob] }
    tick := { State.reset.tick with active := State.reset.tick.active.set 0 0x10 } }
  modChan 1 0 (fun x => { x with run := some creditRun })
    (modCore 1 (fun k => { k with allocs := k.allocs.set 0 { k.allocs[0] with tokCount := 1 } })
      (modCore 0 (fun k => { k with powered := true, ctl := { k.ctl with running := true, job := 1, wait := .tok 0 1 } }) s))

/-- DX_CREDIT_WAIT of core 1 after a command. -/
def creditWaitAfter (i : Instr) (s : State) : Option Word :=
  match exec i s with
  | .next t => some (t.cores[(1 : CoreId)]).dx.credWait
  | _ => none

theorem creditWaitAfter_next {i : Instr} {s t : State} (h : exec i s = .next t) : creditWaitAfter i s = some (t.cores[(1 : CoreId)]).dx.credWait := by
  rw [creditWaitAfter, h]

/-- The channel of core 1 counts the cycles that pass until the halt. -/
theorem creditWaitAfter_standingState : creditWaitAfter (.stallMonitorExpiry 0) standingState = some 65536 := by decide +kernel

/-! ### A core that its own lamp test has halted (O29) -/

/-- Core 0 halted by a snuff of cause 5, with the mark of its own lamp test. -/
def lampHaltState : State := modCore 0 (fun k => { k with phase := .halted (haltCond 0x0F 6 0 (put 0 5)), lampOwn := true }) State.reset

/-- The mark of core 0 after a command. -/
def lampOwnAfter (i : Instr) (s : State) : Option Bool :=
  match exec i s with
  | .next t => some (t.cores[(0 : CoreId)]).lampOwn
  | _ => none

theorem lampOwnAfter_next {i : Instr} {s t : State} (h : exec i s = .next t) : lampOwnAfter i s = some (t.cores[(0 : CoreId)]).lampOwn := by
  rw [lampOwnAfter, h]

theorem lampOwnAfter_lampHaltState : lampOwnAfter (.coreRestart ⟨true, 0xFF⟩ 0) lampHaltState = some false := by decide +kernel

/-! ### A core that waits for its diagnosis (O30) -/

/-- Core 0 halted by a snuff of cause 5 with a failing column group, and its job failed. -/
def diagnosisState : State :=
  modCore 0 (fun k => { k with phase := .halted (haltCond 0x0F 6 0 (put 0 5)), lampBad := 1 })
    { State.reset with host := { State.reset.host with jobs := [{ firstEntryJob with fail := some ⟨0x14, 2, 0⟩ }] } }

/-- The recovery leaves such a core to the diagnosis. -/
theorem coreRecovery_diagnosisState : coreRecovery 0 true diagnosisState = diagnosisState := by rfl

theorem inReset_coreReset_diagnosisState : inReset (coreReset 0 (stopOthers 0 diagnosisState)).cores[(0 : CoreId)] = true := by decide +kernel

end Sys2Proof.Machine
open Sys2Proof Sys2Proof.Machine

/-- Refutes O28: the cycles that pass until HALT_DEADLOCK count in DX_CREDIT_WAIT of a core outside the group as well. -/
theorem not_haltsAreRecorded : ¬ Obligations.HaltsAreRecorded := by
  unfold Obligations.HaltsAreRecorded
  intro h
  obtain ⟨hstall, -⟩ := h
  have honly : ∀ x ∈ stallGroups standingState, (0 : CoreId) ∈ groupCores standingState x → standsStill standingState x = true →
      x = 0 ∨ groupStall standingState x < groupStall standingState 0 := by
    intro x hx _ _
    have hgroups : stallGroups standingState = [0] := by decide +kernel
    rw [hgroups] at hx
    exact .inl (List.mem_singleton.mp hx)
  obtain ⟨t, hexec, -, -, -, -, hothers⟩ := hstall 0 0 standingState (by decide +kernel) (by decide +kernel) (by decide +kernel) (by decide +kernel) honly
  have hcount := (creditWaitAfter_next hexec).symm.trans creditWaitAfter_standingState
  rw [hothers 1 (by decide +kernel)] at hcount
  exact absurd hcount (by decide +kernel)

/-- Refutes O29: a restart also clears the mark that the core's own lamp test had halted it. -/
theorem not_coreControlActs : ¬ Obligations.CoreControlActs := by
  unfold Obligations.CoreControlActs
  intro h
  obtain ⟨-, -, hrestart⟩ := h ⟨true, 0xFF⟩ 0 lampHaltState rfl (by decide +kernel)
  have hexec := hrestart (haltCond 0x0F 6 0 (put 0 5)) (by decide +kernel) rfl (.inr (by decide)) (by decide +kernel)
  have hown := (lampOwnAfter_next hexec).symm.trans lampOwnAfter_lampHaltState
  exact absurd hown (by decide +kernel)

/-- Refutes O30: with a failing column group still to be diagnosed, a snuffed core whose job has failed is not reset yet. -/
theorem not_failedCoreComesBack : ¬ Obligations.FailedCoreComesBack := by
  unfold Obligations.FailedCoreComesBack
  intro h
  obtain ⟨hhalted, -⟩ := h
  obtain ⟨hreset, -⟩ := hhalted 0 true diagnosisState (haltCond 0x0F 6 0 (put 0 5)) (by decide +kernel) (.inl (by decide +kernel))
  have hexec := hreset (by decide) (by decide) (by decide)
  have hsame : diagnosisState = coreReset 0 (stopOthers 0 diagnosisState) := Host.Outcome.next.inj (coreRecovery_diagnosisState ▸ hexec)
  have hin := inReset_coreReset_diagnosisState
  rw [← hsame] at hin
  exact absurd hin (by decide +kernel)

end

section
-- One declaration after another: fewer threads, so that the check of the whole text keeps within its memory.
set_option Elab.async false
/-! PROOFS. Mailboxes: SEND and ACK (O31). -/
namespace Sys2Proof.Machine
open Sys2Proof

/-! ### The registers of a mailbox -/

theorem mbOff_page {m : MboxId} (hm : m.val < 8) (o : Nat) : mbOff m o = pageOff (fin 8 m.val) o := if_pos hm

theorem mbOff_secure {m : MboxId} (hm : ¬ m.val < 8) (o : Nat) : mbOff m o = 0xE000 + o := if_neg hm

theorem secureAt_secureMb {s : State} {o : Nat} {w : Bool} (ho : o < 0x1000) : secureAt s (0xE000 + o) w = true := by
  unfold secureAt
  rw [if_neg (by omega), if_pos (by omega)]

/-- The registers of a mailbox are open to the same accesses. -/
theorem passes_mbox {acc : Access} {s : State} {m : MboxId} {o o' : Nat} {w : Bool} (ho : o < 0x1000) (ho' : o' < 0x1000)
    (h : Passes acc s (mbOff m o) w) : Passes acc s (mbOff m o') w := by
  obtain ⟨hworld, -⟩ := h
  by_cases hm : m.val < 8
  · rw [mbOff_page hm] at hworld ⊢
    exact passes_page (by omega) (hworld.imp_right (secureAt_page (by omega)).symm.trans)
  · rw [mbOff_secure hm] at hworld ⊢
    rw [secureAt_secureMb ho] at hworld
    exact ⟨.inl (hworld.resolve_right (by decide)), answers_of_plain (by omega)⟩

theorem mbOf_modMb (m : MboxId) (f : Mailbox → Mailbox) (s : State) : mbOf (modMb m f s) m = f (mbOf s m) := by
  by_cases hm : m.val < 8
  · simp only [mbOf, modMb, if_pos hm, modPart_same]
  · simp only [mbOf, modMb, if_neg hm]

/-- A change of a mailbox leaves the rest of the host's part but the pages and the secure mailbox. -/
theorem modMb_frame (m : MboxId) (f : Mailbox → Mailbox) (s : State) :
    modMb m f s = { s with host := { s.host with parts := (modMb m f s).host.parts, smBox := (modMb m f s).host.smBox } } := by
  by_cases hm : m.val < 8
  · rw [modMb, if_pos hm]; rfl
  · rw [modMb, if_neg hm]

theorem modMb_part (m : MboxId) (f : Mailbox → Mailbox) (s : State) (p : PartId) :
    ∃ x, (modMb m f s).host.parts[p] = { s.host.parts[p] with mbox := x } := by
  by_cases hm : m.val < 8
  · rw [modMb, if_pos hm]
    by_cases hp : p = fin 8 m.val
    · subst hp; exact ⟨_, modPart_same _ _ _⟩
    · exact ⟨_, updAt_get_other _ _ _ _ hp⟩
  · exact ⟨_, by rw [modMb, if_neg hm]⟩

/-! ### The checks of a frame see no mailbox -/

theorem argsOk_congr {s s' : State} (hsg : s'.sg = s.sg) (hgrade : s'.grade = s.grade) (op : Nat) (b : List Byte) : argsOk s' op b = argsOk s op b := by
  unfold argsOk coreWordOk
  rw [hsg, hgrade]

theorem frameStatus_congr {s s' : State} (hparts : ∀ p : PartId, (s'.host.parts[p]).enabled = (s.host.parts[p]).enabled)
    (hasids : s'.host.asids = s.host.asids) (hsg : s'.sg = s.sg) (hgrade : s'.grade = s.grade) (m : MboxId) (b : List Byte) :
    frameStatus s' m b = frameStatus s m b := by
  unfold frameStatus asidOf
  dsimp only
  rw [hparts, hasids, argsOk_congr hsg hgrade]

/-- The request stands sent. -/
def mbSent (m : MboxId) (s : State) : State :=
  let t := modMb m (fun x => { x with busy := true }) s
  { t with host := { t.host with sent := t.host.sent ++ [m] } }

section
variable {m : MboxId} {s : State} (hsent : s.host.sent = [])

theorem mbSent_frame : mbSent m s = { s with host := { s.host with
    sent := s.host.sent ++ [m], parts := (mbSent m s).host.parts, smBox := (mbSent m s).host.smBox } } := by
  unfold mbSent
  dsimp only
  rw [modMb_frame]

theorem mbSent_part (p : PartId) : ∃ x, (mbSent m s).host.parts[p] = { s.host.parts[p] with mbox := x } :=
  modMb_part m (fun x => { x with busy := true }) s p

theorem mbOf_mbSent : mbOf (mbSent m s) m = { mbOf s m with busy := true } := mbOf_modMb m _ s

theorem frameStatus_mbSent (b : List Byte) : frameStatus (mbSent m s) m b = frameStatus s m b := by
  have hasids : (mbSent m s).host.asids = s.host.asids := by rw [mbSent_frame]
  have hsg : (mbSent m s).sg = s.sg := by rw [mbSent_frame]
  have hgrade : (mbSent m s).grade = s.grade := by rw [mbSent_frame]
  refine frameStatus_congr (fun p => ?_) hasids hsg hgrade m b
  obtain ⟨x, hx⟩ := mbSent_part (m := m) (s := s) p
  rw [hx]

theorem llServes_mbSent : llServes (mbSent m s) = llServes s := by rw [mbSent_frame]; rfl

include hsent

theorem mbSent_sent : (mbSent m s).host.sent = [m] := by rw [mbSent_frame]; dsimp only; rw [hsent]; rfl

theorem oldest_mbSent : oldest (mbSent m s) = some (m, reqBytes (mbOf s m).req) := by
  rw [oldest, mbSent_sent hsent, List.head?_cons, Option.map_some, mbOf_mbSent]

/-- A request waits where the Lamplighter does not serve, or where its opcode decides. -/
theorem drain_mbSent_waits (h : llServes s = false ∨ frameStatus s m (reqBytes (mbOf s m).req) = none) : drain (mbSent m s) = mbSent m s := by
  rcases h with h | h
  · rw [drain, llServes_mbSent, h]; rfl
  · exact drain_of_oldest (oldest_mbSent hsent) ((frameStatus_mbSent _).trans h)

theorem takeRequest_mbSent : ∃ P B, takeRequest (mbSent m s) = { s with host := { s.host with parts := P, smBox := B } } := by
  have htail : (s.host.sent ++ [m]).tail = s.host.sent := by rw [hsent]; rfl
  refine ⟨(mbSent m s).host.parts, (mbSent m s).host.smBox, ?_⟩
  rw [takeRequest, mbSent_frame]
  dsimp only
  rw [htail]

/-- One whose frame fails is answered at once. -/
theorem drain_mbSent_answers {st : Nat} (hserves : llServes s = true) (h : frameStatus s m (reqBytes (mbOf s m).req) = some st) :
    drain (mbSent m s) = reply m st 0 [] (takeRequest (mbSent m s)) := by
  have htaken : (takeRequest (mbSent m s)).host.sent = [] := by rw [takeRequest]; dsimp only; rw [mbSent_sent hsent]; rfl
  have hnone : oldest (reply m st 0 [] (takeRequest (mbSent m s))) = none := by rw [oldest, reply_sent, htaken]; rfl
  rw [drain, llServes_mbSent, if_pos hserves, drainLoop, oldest_mbSent hsent]
  dsimp only
  rw [frameStatus_mbSent, h]
  dsimp only
  rw [drainLoop, hnone]

end

/-! ### Replies -/

/-- A reply changes its mailbox and sets its cause. -/
theorem reply_frame (m : MboxId) (st detail : Nat) (results : List Byte) (s : State) : reply m st detail results s =
    { s with host := { s.host with
      parts := (reply m st detail results s).host.parts, smBox := (reply m st detail results s).host.smBox
      smIntStatus := (reply m st detail results s).host.smIntStatus } } := by
  by_cases hm : m.val < 8
  · simp only [reply, modMb, if_pos hm]; rfl
  · simp only [reply, modMb, if_neg hm, setSmInt]

theorem reply_partCause {m : MboxId} {st detail : Nat} {results : List Byte} {s : State} {p : PartId} (hp : p.val = m.val) :
    ((reply m st detail results s).host.parts[p]).intStatus = (s.host.parts[p]).intStatus ||| 1 := by
  have hm : m.val < 8 := hp ▸ p.isLt
  have hfin : fin 8 m.val = p := Fin.ext (by simp only [fin]; omega)
  rw [reply, if_pos hm, hfin, setPtInt_same, modMb, if_pos hm, hfin, modPart_same]

theorem reply_secureCause {m : MboxId} {st detail : Nat} {results : List Byte} {s : State} (hm : m.val = 8) :
    (reply m st detail results s).host.smIntStatus = s.host.smIntStatus ||| 1 := by
  have hsec : ¬ m.val < 8 := by omega
  rw [reply, if_neg hsec, modMb, if_neg hsec]
  rfl

/-! ### A write of SEND -/

theorem exec_mbSend {acc : Access} {m : MboxId} {val : Word} {s : State} (h : Passes acc s (mbOff m 0x40) true) :
    exec (.mbSend acc m val) s = .next (mbSendWrite m val s) :=
  congrArg Host.Outcome.next (access_passes h)

theorem mbSendWrite_free {m : MboxId} {val : Word} {s : State} (hval : bitAt val 0 = true) (hbusy : (mbOf s m).busy = false)
    (hvalid : (mbOf s m).replyValid = false) : mbSendWrite m val s = drain (mbSent m s) := by
  rw [mbSendWrite]
  dsimp only
  rw [if_neg (not_not.mpr hval), if_neg (by rw [hbusy, hvalid]; simp)]
  rfl

end Sys2Proof.Machine
open Sys2Proof Sys2Proof.Machine

/-- Settles O31: a request waits, or is answered as the drain finds it. -/
theorem mailboxSendAndAck : Obligations.MailboxSendAndAck := by
  unfold Obligations.MailboxSendAndAck
  intro acc m val s hpass
  refine ⟨congrArg Host.Outcome.next (access_passes (passes_mbox (by decide) (by decide) hpass)), fun hval => ?_, fun hval hstands => ?_,
    fun hval hbusy hvalid hsent => ⟨fun hwaits => ?_, fun st hserves hst => ?_⟩⟩
  · rw [exec_mbSend hpass, mbSendWrite, if_pos (Bool.eq_false_iff.mp hval)]
  · rw [exec_mbSend hpass, mbSendWrite]
    dsimp only
    rw [if_neg (not_not.mpr hval), if_pos hstands]
  · refine ⟨mbSent m s, ?_, mbSent_sent hsent, mbOf_mbSent, ?_⟩
    · rw [exec_mbSend hpass, mbSendWrite_free hval hbusy hvalid, drain_mbSent_waits hsent hwaits]
    · refine mbSent_frame.trans ?_
      rw [hsent]
      rfl
  · refine ⟨reply m st 0 [] (takeRequest (mbSent m s)), ?_, ?_, ?_, ?_, fun p hp => ?_, fun hm => ?_⟩
    · rw [exec_mbSend hpass, mbSendWrite_free hval hbusy hvalid, drain_mbSent_answers hsent hserves hst]
    · rw [reply_sent, takeRequest]
      dsimp only
      rw [mbSent_sent hsent]
      rfl
    · rw [mbOf_reply]
      have hmb : mbOf (takeRequest (mbSent m s)) m = { mbOf s m with busy := true } := mbOf_mbSent
      rw [hmb]
    · obtain ⟨P, B, htake⟩ := takeRequest_mbSent (m := m) hsent
      refine (reply_frame ..).trans ?_
      rw [htake]
    · obtain ⟨x, hx⟩ := mbSent_part (m := m) (s := s) p
      have hcause : ((takeRequest (mbSent m s)).host.parts[p]).intStatus = (s.host.parts[p]).intStatus := by
        change ((mbSent m s).host.parts[p]).intStatus = _
        rw [hx]
      rw [reply_partCause hp, hcause]
    · obtain ⟨P, B, htake⟩ := takeRequest_mbSent (m := m) hsent
      rw [reply_secureCause hm, htake]

end

section
-- One declaration after another: fewer threads, so that the check of the whole text keeps within its memory.
set_option Elab.async false
/-! PROOFS. The capability table behind an earlier write of its granules (O32). -/
namespace Sys2Proof.Machine
open Sys2Proof

/-- The 64 bytes of a request, from numbers with their offsets and lengths. -/
def requestBytes (l : List (Nat × Nat × Nat)) : List Byte := memBytes (l.foldl (fun m x => memStore m x.1 (leBytes x.2.1 x.2.2)) []) 0 64

/-- An external write of one byte at 0x8000, issued and not yet performed. -/
def pageWrite : DxXfer := { byteCopy with target := .ext, ext := 1, ports := [0], writes := [(0x8000, [0x55])], dvas := [0] }

/-- Partition 0 asks for the capability table at address 0 of its ASID 1, which lies at 0x8000, while that write is under way. -/
def capsRequest : State :=
  let s := modChan 0 0 (fun x => { x with run := some { haloReadRun with out := [pageWrite] } }) State.reset
  let s := modMb 0 (fun x => { x with req := frameWords (requestBytes [(0, 2, 1), (4, 1, 1)]), busy := true }) s
  { s with
    boot := { s.boot with state := 3 }
    sg := { s.sg with issued := 1 }
    dram := [(0x1000, 0x2001), (0x2000, 0x3001), (0x3000, 0x4001), (0x4000, 0x8007)].foldl (fun m x => memStore m x.1 (leBytes 8 x.2)) []
    host := { s.host with sent := [0], asids := [⟨1, 0, false, 0x1000⟩] } }

/-- The transfers performed early after a command. -/
def performedAfter (i : Instr) (s : State) : Option (List Nat) :=
  match exec i s with
  | .next t => some t.host.performed
  | _ => none

theorem performedAfter_next {i : Instr} {s t : State} (h : exec i s = .next t) : performedAfter i s = some t.host.performed := by
  rw [performedAfter, h]

/-- The write is performed before the table is stored. -/
theorem performedAfter_capsRequest : performedAfter .mbCapsRead capsRequest = some [0] := by decide +kernel

/-- The request as taken, its address translated. -/
def capsTranslated : Option Nat × State :=
  hostTranslate 0 false (argAsid (requestBytes [(0, 2, 1), (4, 1, 1)])) (arg (requestBytes [(0, 2, 1), (4, 1, 1)]) 8 8) true
    { capsRequest with host := { capsRequest.host with sent := [] } }

theorem reqBytes_capsRequest : reqBytes (mbOf capsRequest 0).req = requestBytes [(0, 2, 1), (4, 1, 1)] := by decide +kernel

theorem reply_performed (m : MboxId) (st detail : Nat) (results : List Byte) (s : State) :
    (reply m st detail results s).host.performed = s.host.performed := by rw [reply_frame]

end Sys2Proof.Machine
open Sys2Proof Sys2Proof.Machine

/-- Refutes O32: the table is stored behind an earlier write of its granules, which is performed first (R20). -/
theorem not_capsReadAndPartitionConfig : ¬ Obligations.CapsReadAndPartitionConfig := by
  unfold Obligations.CapsReadAndPartitionConfig
  intro h
  obtain ⟨hcaps, -⟩ := h 0 0 (requestBytes [(0, 2, 1), (4, 1, 1)]) capsRequest { capsRequest with host := { capsRequest.host with sent := [] } }
  have hasked : Requested 0x01 none 0 0 (requestBytes [(0, 2, 1), (4, 1, 1)]) capsRequest
      { capsRequest with host := { capsRequest.host with sent := [] } } :=
    ⟨by decide +kernel, by decide +kernel, reqBytes_capsRequest.symm, by decide +kernel, by decide +kernel, .inl rfl, by decide +kernel, rfl⟩
  have hspa : capsTranslated.1 = some 0x8000 := by decide +kernel
  have hexec := hcaps hasked 0x8000 capsTranslated.2 (Prod.ext hspa rfl)
  have hperformed := (performedAfter_next hexec).symm.trans performedAfter_capsRequest
  rw [reply_performed] at hperformed
  exact absurd hperformed (by decide +kernel)

end

section
-- One declaration after another: fewer threads, so that the check of the whole text keeps within its memory.
set_option Elab.async false
/-! PROOFS. The invariants of every step: what a change must leave for the memories to stay canonical and the KSAFE pins safe (R28, R318), and the
updates and shared operations that do. -/
namespace Sys2Proof.Machine
open Sys2Proof

/-! ### What a change keeps -/

/-- A change from s to t keeps both invariants, each for itself. -/
structure KeepsSound (s t : State) : Prop where
  mem : s.memWf → t.memWf
  pins : s.pinsSafe → t.pinsSafe

/-- Such a change brings no mailbox request either where none waits (only SEND does). -/
structure Keeps (s t : State) : Prop extends KeepsSound s t where
  idle : s.host.sent = [] → t.host.sent = []

/-- All that these look at. -/
abbrev State.guarded (s : State) :
    Vector Core 6 × Memory × Memory × Memory × Memory × Vector Region 8 × Bool × Bool × Bool × List MboxId :=
  (s.cores, s.dram, s.staging, s.boot.llImem, s.boot.llDmem, s.fabric.regions, s.bnd.ksafeA, s.bnd.ksafeB, s.safety.stopped, s.host.sent)

/-- The memories of a region are in canonical form. -/
abbrev Region.wf (r : Region) : Prop := Memory.wf r.bram ∧ Memory.wf r.config

namespace Keeps
variable {s₀ s t : State}

theorem refl (s : State) : Keeps s s := ⟨⟨id, id⟩, id⟩

theorem of_eq (h : Keeps s₀ s) (e : t.guarded = s.guarded) : Keeps s₀ t := by
  simp only [State.guarded, Prod.mk.injEq] at e
  obtain ⟨hcores, hdram, hstaging, himem, hdmem, hregions, ha, hb, hstop, hsent⟩ := e
  refine ⟨⟨fun hs => ?_, fun hs => ?_⟩, fun hs => hsent.trans (h.idle hs)⟩
  · simpa only [State.memWf, hcores, hdram, hstaging, himem, hdmem, hregions] using h.mem hs
  · simpa only [State.pinsSafe, State.safeLow, ha, hb, hstop] using h.pins hs

/-- The state that comes with an answer. -/
theorem of_snd {α : Type} {x : α × State} {a : α} (h : Keeps s₀ x.2) (e : x = (a, t)) : Keeps s₀ t := by
  subst e
  exact h

theorem ite {c : Prop} [Decidable c] (hs : Keeps s₀ s) (ht : Keeps s₀ t) : Keeps s₀ (if c then s else t) := by
  split
  · exact hs
  · exact ht

theorem forAll {α : Type} {f : α → State → State} {l : List α} (h : Keeps s₀ s)
    (hf : ∀ a u, Keeps s₀ u → Keeps s₀ (f a u)) : Keeps s₀ (Machine.forAll l f s) :=
  forAll_inv (Keeps s₀) f hf l s h

/-! ### Changes of one memory -/

theorem setCores (h : Keeps s₀ s) {v : Vector Core 6} (hv : ∀ c : CoreId, (s.cores[c]).mem.wf → (v[c]).mem.wf) :
    Keeps s₀ { s with cores := v } :=
  ⟨⟨fun hs => ⟨fun c => hv c ((h.mem hs).1 c), (h.mem hs).2⟩, h.pins⟩, h.idle⟩

theorem mapCores (h : Keeps s₀ s) {f : Core → Core} (hf : ∀ k : Core, k.mem.wf → (f k).mem.wf := by exact fun _ hk => hk) :
    Keeps s₀ { s with cores := s.cores.map f } :=
  h.setCores fun c hc => by simpa using hf _ hc

theorem setDram (h : Keeps s₀ s) {m : Memory} (hm : Memory.wf s.dram → Memory.wf m) : Keeps s₀ { s with dram := m } := by
  refine ⟨⟨fun hs => ?_, h.pins⟩, h.idle⟩
  obtain ⟨hcores, hdram, hrest⟩ := h.mem hs
  exact ⟨hcores, hm hdram, hrest⟩

theorem setStaging (h : Keeps s₀ s) {m : Memory} (hm : Memory.wf s.staging → Memory.wf m) : Keeps s₀ { s with staging := m } := by
  refine ⟨⟨fun hs => ?_, h.pins⟩, h.idle⟩
  obtain ⟨hcores, hdram, hstaging, hrest⟩ := h.mem hs
  exact ⟨hcores, hdram, hm hstaging, hrest⟩

theorem setFabric (h : Keeps s₀ s) {f : Fabric} (hf : ∀ z : RegionId, (s.fabric.regions[z]).wf → (f.regions[z]).wf) :
    Keeps s₀ { s with fabric := f } := by
  refine ⟨⟨fun hs => ?_, h.pins⟩, h.idle⟩
  obtain ⟨hcores, hdram, hstaging, himem, hdmem, hregions⟩ := h.mem hs
  exact ⟨hcores, hdram, hstaging, himem, hdmem, fun z => hf z (hregions z)⟩

/-! ### Changes of a part that holds no memory -/

theorem setHost (h : Keeps s₀ s) {x : HostSide} (hx : x.sent = s.host.sent := by rfl) : Keeps s₀ { s with host := x } :=
  h.of_eq (by simp only [State.guarded, hx])
theorem setTick (h : Keeps s₀ s) {x : Tick} : Keeps s₀ { s with tick := x } := h.of_eq rfl
theorem setLinks (h : Keeps s₀ s) {x : Links} : Keeps s₀ { s with links := x } := h.of_eq rfl
theorem setSg (h : Keeps s₀ s) {x : Sg} : Keeps s₀ { s with sg := x } := h.of_eq rfl
theorem setTime (h : Keeps s₀ s) {n : Nat} : Keeps s₀ { s with time := n } := h.of_eq rfl
theorem setBusData (h : Keeps s₀ s) {d : Dword} : Keeps s₀ { s with busData := d } := h.of_eq rfl
theorem setBnd (h : Keeps s₀ s) {x : Boundary} (ha : x.ksafeA = s.bnd.ksafeA := by rfl) (hb : x.ksafeB = s.bnd.ksafeB := by rfl) :
    Keeps s₀ { s with bnd := x } := h.of_eq (by simp only [State.guarded, ha, hb])
theorem setSafety (h : Keeps s₀ s) {x : Safety} (hx : x.stopped = s.safety.stopped := by rfl) : Keeps s₀ { s with safety := x } :=
  h.of_eq (by simp only [State.guarded, hx])

/-- The pins go low. -/
theorem lowPins (h : Keeps s₀ s) (e : t.guarded = State.guarded { s with
    bnd := { s.bnd with ksafeA := false, ksafeB := false }, safety := t.safety }) : Keeps s₀ t := by
  simp only [State.guarded, Prod.mk.injEq] at e
  obtain ⟨hcores, hdram, hstaging, himem, hdmem, hregions, ha, hb, -, hsent⟩ := e
  refine ⟨⟨fun hs => ?_, fun _ => ?_⟩, fun hs => hsent.trans (h.idle hs)⟩
  · simpa only [State.memWf, hcores, hdram, hstaging, himem, hdmem, hregions] using h.mem hs
  · simp [State.pinsSafe, State.safeLow, ha, hb]

/-! ### Updates of one unit -/

theorem modCore (h : Keeps s₀ s) {c : CoreId} {f : Core → Core}
    (hf : ∀ k : Core, k.mem.wf → (f k).mem.wf := by exact fun _ hk => hk) : Keeps s₀ (Machine.modCore c f s) := by
  refine h.setCores fun d hd => ?_
  by_cases hdc : d = c
  · subst hdc; rw [updAt_get_same]; exact hf _ hd
  · rwa [updAt_get_other _ _ _ _ hdc]

theorem modRegion (h : Keeps s₀ s) {z : RegionId} {f : Region → Region}
    (hf : ∀ r : Region, r.wf → (f r).wf := by exact fun _ hr => hr) : Keeps s₀ (Machine.modRegion z f s) := by
  refine h.setFabric fun y hy => ?_
  by_cases hyz : y = z
  · subst hyz; rw [updAt_get_same]; exact hf _ hy
  · rwa [updAt_get_other _ _ _ _ hyz]

theorem modMx (h : Keeps s₀ s) {c : CoreId} {f : Mx → Mx} : Keeps s₀ (Machine.modMx c f s) := h.modCore
theorem modChan (h : Keeps s₀ s) {c : CoreId} {ch : ChanId} {f : DxChan → DxChan} : Keeps s₀ (Machine.modChan c ch f s) := h.modCore
theorem modPart (h : Keeps s₀ s) {p : PartId} {f : Partition → Partition} : Keeps s₀ (Machine.modPart p f s) := h.of_eq rfl
theorem modPort (h : Keeps s₀ s) {n : StreamId} {f : StrmPort → StrmPort} : Keeps s₀ (Machine.modPort n f s) := h.of_eq rfl
theorem modLink (h : Keeps s₀ s) {l : LinkId} {f : LinkPort → LinkPort} : Keeps s₀ (Machine.modLink l f s) := h.of_eq rfl
theorem modJob (h : Keeps s₀ s) {id : Nat} {f : Job → Job} : Keeps s₀ (Machine.modJob id f s) := h.of_eq rfl
theorem modQueue (h : Keeps s₀ s) {q : Nat} {f : HostQueue → HostQueue} : Keeps s₀ (Machine.modQueue q f s) := h.of_eq rfl
theorem setGint (h : Keeps s₀ s) {m : BitVec 12} : Keeps s₀ (Machine.setGint m s) := h.of_eq rfl
theorem setPtInt (h : Keeps s₀ s) {p : PartId} {m : BitVec 5} : Keeps s₀ (Machine.setPtInt p m s) := h.of_eq rfl
theorem setSmInt (h : Keeps s₀ s) {m : BitVec 2} : Keeps s₀ (Machine.setSmInt m s) := h.of_eq rfl
theorem setSfInt (h : Keeps s₀ s) {m : BitVec 5} : Keeps s₀ (Machine.setSfInt m s) := h.of_eq rfl
theorem finishScrub (h : Keeps s₀ s) {m : MemName} : Keeps s₀ (Machine.finishScrub m s) := h.of_eq rfl
theorem freshWords (h : Keeps s₀ s) {m : MemName} {r : List (Nat × Nat)} : Keeps s₀ (Machine.freshWords m r s) := h.of_eq rfl
theorem bumpGen (h : Keeps s₀ s) : Keeps s₀ (Machine.bumpGen s) := h.of_eq rfl
theorem atTime (h : Keeps s₀ s) {n : Nat} : Keeps s₀ (Machine.atTime n s) := h.of_eq rfl
theorem spend (h : Keeps s₀ s) {c : CoreId} {d : Nat} : Keeps s₀ (Machine.spend c d s) := h.of_eq rfl
theorem vofsStep (h : Keeps s₀ s) : Keeps s₀ (Machine.vofsStep s) := .ite (h.of_eq rfl) (h.of_eq rfl)
theorem noteRefused (h : Keeps s₀ s) {asid va : Nat} : Keeps s₀ (Machine.noteRefused asid va s) := h.of_eq rfl
theorem progress (h : Keeps s₀ s) {c : CoreId} : Keeps s₀ (Machine.progress c s) := h.mapCores

theorem setTok (h : Keeps s₀ s) {c : CoreId} {k : TokId} {v : Half} : Keeps s₀ (Machine.setTok c k v s) := h.modCore.progress
theorem decTok (h : Keeps s₀ s) {c : CoreId} {k : TokId} : Keeps s₀ (Machine.decTok c k s) := .ite h h.setTok

theorem storeSpa (h : Keeps s₀ s) {spa : Nat} {bs : List Byte} : Keeps s₀ (Machine.storeSpa spa bs s) := h.setDram (memStore_wf _ _)

theorem together (h : Keeps s₀ s) {c : CoreId} {fs : List (State → State)}
    (hfs : ∀ f ∈ fs, ∀ u, Keeps s₀ u → Keeps s₀ (f u)) : Keeps s₀ (Machine.together c fs s) := by
  have hfold : ∀ (g : State → State), (∀ u, Keeps s₀ u → Keeps s₀ (g u)) → ∀ x : State × Nat, Keeps s₀ x.1 →
      Keeps s₀ (fs.foldl (fun (x : State × Nat) f => let t := f (g x.1); (t, max x.2 t.ahead.used[c])) x).1 := by
    intro g hg
    induction fs with
    | nil => exact fun _ hx => hx
    | cons f fs ih =>
      exact fun x hx => ih (fun f' hf' => hfs f' (List.mem_cons_of_mem _ hf')) _ (hfs f List.mem_cons_self _ (hg _ hx))
  let from_ := (Machine.spend c 0 s).ahead.used[c]
  have hrun := hfold (fun u => { u with ahead := { u.ahead with used := u.ahead.used.set c from_ } })
    (fun _ hu => hu.of_eq rfl) (Machine.spend c 0 s, from_) h.spend
  exact hrun.of_eq rfl

/-! ### Accesses of external memory -/

theorem withRead (h : Keeps s₀ s) {tlb : List TlbEntry} {e : Bool} {l : List (Nat × Nat)} : Keeps s₀ (s.withRead tlb e l) := h.of_eq rfl

theorem translate (h : Keeps s₀ s) {secure : Bool} {asid va : Nat} {write : Bool} : Keeps s₀ (Machine.translate s secure asid va write).2 := by
  obtain ⟨_, _, hs⟩ := translate_changes s secure asid va write
  exact h.of_eq (by rw [hs])

theorem meetsErr (h : Keeps s₀ s) {x : MemSite} : Keeps s₀ (Machine.meetsErr x s).2 := by
  unfold Machine.meetsErr
  split <;> exact h.of_eq rfl

theorem readBytes (h : Keeps s₀ s) {secure : Bool} {asid va n : Nat} : Keeps s₀ (Machine.readBytes s secure asid va n).2 := by
  obtain ⟨_, _, _, hs⟩ := readBytes_changes s secure asid va n
  rw [hs]
  exact h.withRead

theorem readFor (h : Keeps s₀ s) {x : MemSite} {secure : Bool} {asid va n : Nat} : Keeps s₀ (Machine.readFor x s secure asid va n).2 := by
  have hmet : Keeps s₀ (Machine.meetsErr x s).2 := h.meetsErr
  unfold Machine.readFor
  split
  case h_1 e => rw [e] at hmet; exact hmet
  case h_2 e => rw [e] at hmet; exact hmet.readBytes

/-- A part of the state that a ring's write may change, with external memory canonical. -/
theorem withRing (h : Keeps s₀ s) {r : RingPart} (hr : Memory.wf s.dram → Memory.wf r.dram) : Keeps s₀ (s.withRing r) :=
  (h.setDram hr).of_eq rfl

theorem performBefore (h : Keeps s₀ s) {spa : Nat} {bs : List Byte} : Keeps s₀ (Machine.performBefore spa bs s) := by
  obtain ⟨_, _, hs, hwf⟩ := performBefore_changes spa bs s
  rw [hs]
  exact h.withRing hwf

theorem storeAfter (h : Keeps s₀ s) {spa : Nat} {bs : List Byte} : Keeps s₀ (Machine.storeAfter spa bs s) := h.performBefore.storeSpa

theorem takeFree (h : Keeps s₀ s) {n : Nat} : Keeps s₀ (Machine.takeFree n s).2 := h.of_eq rfl

theorem spoilSpa (h : Keeps s₀ s) {spa : Nat} : Keeps s₀ (Machine.spoilSpa spa s) := h.takeFree.storeSpa

theorem writeFor (h : Keeps s₀ s) {x : MemSite} {spa : Nat} {bs : List Byte} : Keeps s₀ (Machine.writeFor x spa bs s).2 := by
  obtain ⟨_, _, _, _, hs, hwf⟩ := writeFor_changes x spa bs s
  rw [hs]
  exact h.withRing hwf

/-! ### Records -/

theorem ksafeStop (h : Keeps s₀ s) {code : Nat} : Keeps s₀ (Machine.ksafeStop code s) := by
  obtain ⟨_, hs, -⟩ := ksafeStop_changes code s
  exact h.lowPins (by rw [hs])

theorem postRecord (h : Keeps s₀ s) {r : RecIn} : Keeps s₀ (Machine.postRecord r s) := by
  obtain ⟨x, a, b, sf, hs, hwf, -, -, hkeep, hstop, -⟩ := postRecord_changes r s
  rw [hs]
  cases hd : r.dangerous with
  | false =>
    obtain ⟨rfl, rfl, hstopped⟩ := hkeep hd
    exact (h.withRing hwf).of_eq (by simp [State.guarded, hstopped])
  | true =>
    obtain ⟨rfl, rfl, -⟩ := hstop hd
    exact (h.withRing hwf).lowPins rfl

theorem securityFault (h : Keeps s₀ s) {unit index addr : Nat} : Keeps s₀ (Machine.securityFault unit index addr s) := h.postRecord.setSmInt

theorem refuseAccess (h : Keeps s₀ s) {acc : Access} {off : Nat} : Keeps s₀ (Machine.refuseAccess acc off s) :=
  h.setBusData.securityFault

theorem flushRefused (h : Keeps s₀ s) : Keeps s₀ (Machine.flushRefused s) :=
  setHost (h.setHost.forAll fun _ _ hu => hu.securityFault)

theorem hostRead (h : Keeps s₀ s) {secure : Bool} {asid va n : Nat} : Keeps s₀ (Machine.hostRead s secure asid va n).2 :=
  h.readBytes.flushRefused

theorem hostReadFor (h : Keeps s₀ s) {x : MemSite} {secure : Bool} {asid va n : Nat} :
    Keeps s₀ (Machine.hostReadFor x s secure asid va n).2 := h.readFor.flushRefused

theorem postFor (h : Keeps s₀ s) {id : Nat} {r : RecIn} : Keeps s₀ (Machine.postFor id r s) :=
  .ite (.ite h.setHost.ksafeStop h.setHost) h.postRecord

theorem flushOwed (h : Keeps s₀ s) : Keeps s₀ (Machine.flushOwed s) :=
  h.setHost.forAll fun _ _ hu => hu.postRecord

/-! ### Halts and tokens -/

theorem raiseHalt (h : Keeps s₀ s) {c : CoreId} {x : HaltCond} : Keeps s₀ (Machine.raiseHalt c x s) :=
  h.modCore fun k hk => by split <;> exact hk

theorem haltSecurity (h : Keeps s₀ s) {c : CoreId} {addr : Nat} : Keeps s₀ (Machine.haltSecurity c addr s) := h.securityFault

theorem raiseLogged (h : Keeps s₀ s) {c : CoreId} {x : HaltCond} : Keeps s₀ (Machine.raiseLogged c x s) :=
  raiseHalt (.ite h.haltSecurity h)

theorem incTok (h : Keeps s₀ s) {c : CoreId} {k : TokId} {n eng : Nat} {p : PartId} : Keeps s₀ (Machine.incTok c k n eng p s) :=
  .ite h.raiseHalt (.ite h h.setTok)

theorem postTokens (h : Keeps s₀ s) {c : CoreId} {eng : Nat} {cmd : EngCmd} : Keeps s₀ (Machine.postTokens c eng cmd s) := by
  unfold Machine.postTokens
  split
  · exact .ite h.incTok h.incTok.incTok
  · exact h.incTok
  · exact h.incTok
  · exact h

end Keeps

end Sys2Proof.Machine
end

section
-- One declaration after another: fewer threads, so that the check of the whole text keeps within its memory.
set_option Elab.async false
/-! PROOFS. The invariants of every step, continued: links, fences, candle entries, accesses of the window and the boundary. -/
namespace Sys2Proof.Machine
open Sys2Proof

namespace Keeps
variable {s₀ s t : State}

/-! ### Links -/

theorem pump (h : Keeps s₀ s) {l : LinkId} : Keeps s₀ (Machine.pump l s) := .ite h.modLink h
theorem queueOn (h : Keeps s₀ s) {l : LinkId} {fs : List Flit} : Keeps s₀ (Machine.queueOn l fs s) := h.modLink
theorem sendOn (h : Keeps s₀ s) {l : LinkId} {fs : List Flit} : Keeps s₀ (Machine.sendOn l fs s) := h.queueOn.pump
theorem sendControl (h : Keeps s₀ s) {tick : Option Word} {l : LinkId} : Keeps s₀ (Machine.sendControl tick l s) := h.modLink
theorem sendOver (h : Keeps s₀ s) {l : LinkId} {fs : List Flit} : Keeps s₀ (Machine.sendOver l fs s) := h.sendOn

theorem sendTo (h : Keeps s₀ s) {dst : Nat} {fs : List Flit} : Keeps s₀ (Machine.sendTo dst fs s) := by
  unfold Machine.sendTo
  split
  · exact h.sendOver
  · exact h

theorem sendMsg (h : Keeps s₀ s) {cls : Fin 4} {type dst addr : Nat} {body : List Byte} :
    Keeps s₀ (Machine.sendMsg cls type dst addr body s) := h.sendTo

theorem sendFence (h : Keeps s₀ s) {p : PartId} {type dst fid : Nat} {body : List Byte} :
    Keeps s₀ (Machine.sendFence p type dst fid body s) := .ite h.sendMsg h

theorem sendNext (h : Keeps s₀ s) {l : LinkId} {type : Nat} {body : List Byte} : Keeps s₀ (Machine.sendNext l type body s) := h.sendOn

theorem sendJoin (h : Keeps s₀ s) : Keeps s₀ (Machine.sendJoin s) := setLinks (h.forAll fun _ _ hu => hu.sendNext)

theorem sendVia (h : Keeps s₀ s) {port : Option LinkId} {dst : Nat} {fs : List Flit} : Keeps s₀ (Machine.sendVia port dst fs s) := by
  unfold Machine.sendVia
  split
  · exact h.sendOver
  · exact h

theorem queueVia (h : Keeps s₀ s) {port : Option LinkId} {dst : Nat} {fs : List Flit} : Keeps s₀ (Machine.queueVia port dst fs s) := by
  unfold Machine.queueVia
  split
  · exact h.queueOn
  · exact h

theorem sendRun (h : Keeps s₀ s) {port : Option LinkId} {dst : Nat} {x : RunOut} {reads : Bool} {owner : Option (CoreId × ChanId × Nat)} :
    Keeps s₀ (Machine.sendRun port dst x reads owner s) := by
  unfold Machine.sendRun
  extract_lets d fs links kept
  have hkept : Keeps s₀ kept := h.setLinks
  exact .ite hkept.queueVia hkept.sendVia

theorem takeBack (h : Keeps s₀ s) {r : SentRun} : Keeps s₀ (Machine.takeBack r s) := h.of_eq rfl

theorem modDxRun (h : Keeps s₀ s) {c : CoreId} {ch : ChanId} {f : DxRun → DxRun} : Keeps s₀ (Machine.modDxRun c ch f s) := h.modChan

theorem memberAck (h : Keeps s₀ s) {e : Nat} {r : SentRun} : Keeps s₀ (Machine.memberAck e r s) := by
  unfold Machine.memberAck
  split
  · exact h.modDxRun
  · exact h

theorem dxOwnHalt (h : Keeps s₀ s) {c : CoreId} {ch : ChanId} {x : HaltCond} : Keeps s₀ (Machine.dxOwnHalt c ch x s) :=
  h.modDxRun.raiseLogged

theorem denyRun (h : Keeps s₀ s) {kind : Nat} {r : SentRun} : Keeps s₀ (Machine.denyRun kind r s) := by
  unfold Machine.denyRun
  extract_lets links acked
  have hacked : Keeps s₀ acked := memberAck h.setLinks
  split
  · split
    · exact hacked.dxOwnHalt
    · exact hacked
  · exact hacked

theorem moveDest (h : Keeps s₀ s) {d : Nat} : Keeps s₀ (Machine.moveDest d s) := by
  unfold Machine.moveDest
  extract_lets denied runs own goes others links cleared sent
  have hdenied : Keeps s₀ denied := h.forAll fun _ _ hu => hu.denyRun
  have hcleared : Keeps s₀ cleared := hdenied.setLinks
  have hsent : Keeps s₀ sent := sendTo (hcleared.forAll fun _ _ hu => hu.sendVia)
  exact .ite hsent.sendMsg hsent

theorem rerouteFor (h : Keeps s₀ s) {also : Nat → Bool} : Keeps s₀ (Machine.rerouteFor also s) :=
  h.setLinks.forAll fun _ _ hu => hu.moveDest

theorem reroute (h : Keeps s₀ s) : Keeps s₀ (Machine.reroute s) := h.rerouteFor

theorem learnPorts (h : Keeps s₀ s) : Keeps s₀ (Machine.learnPorts s) := .ite h h.setLinks.reroute

theorem portChange (h : Keeps s₀ s) {l : LinkId} {f : LinkPort → LinkPort} : Keeps s₀ (Machine.portChange l f s) :=
  h.modLink.postRecord.rerouteFor

theorem retrainStart (h : Keeps s₀ s) {l : LinkId} {fails : Nat} : Keeps s₀ (Machine.retrainStart l fails s) := h.portChange

/-! ### Fences, completion entries and waiting heads -/

theorem hostTranslate (h : Keeps s₀ s) {p : PartId} {secure : Bool} {asid va : Nat} {write : Bool} :
    Keeps s₀ (Machine.hostTranslate p secure asid va write s).2 := by
  unfold Machine.hostTranslate
  split
  case h_1 htr => exact h.translate.of_snd htr
  case h_2 htr => exact .ite (h.translate.of_snd htr).securityFault (h.translate.of_snd htr)

theorem modFence (h : Keeps s₀ s) {a : Nat} {f : Fence → Fence} : Keeps s₀ (Machine.modFence a f s) := h.of_eq rfl

theorem sendUpdates (h : Keeps s₀ s) {a : Nat} : Keeps s₀ (Machine.sendUpdates a s) := by
  unfold Machine.sendUpdates
  split
  · exact h
  · exact h.forAll fun _ _ hu => hu.sendFence

theorem fenceFail (h : Keeps s₀ s) {f : Fence} : Keeps s₀ (Machine.fenceFail f s) := h.modFence.sendUpdates.postRecord

theorem fenceUnread (h : Keeps s₀ s) {f : Fence} : Keeps s₀ (Machine.fenceUnread f s) := h.modFence.fenceFail

theorem useFence (h : Keeps s₀ s) {a : Nat} : Keeps s₀ (Machine.useFence a s) := by
  unfold Machine.useFence
  split
  · exact h
  · exact .ite h (.ite h.securityFault.fenceUnread (.ite h.modFence h.modFence.sendUpdates))

theorem discardFences (h : Keeps s₀ s) {gone : Fence → Bool} : Keeps s₀ (Machine.discardFences gone s) := h.of_eq rfl

theorem writeThrough (h : Keeps s₀ s) {a : Nat} : Keeps s₀ (Machine.writeThrough a s) := by
  unfold Machine.writeThrough
  split
  · exact h
  · exact .ite h.securityFault.fenceFail h.storeAfter

theorem fenceChanged (h : Keeps s₀ s) {a : Nat} : Keeps s₀ (Machine.fenceChanged a s) := h.sendUpdates.writeThrough

theorem applySignal (h : Keeps s₀ s) {a : Nat} {v : BitVec 64} {err ext : Bool} {p : PartId} :
    Keeps s₀ (Machine.applySignal a v err ext p s) := by
  unfold Machine.applySignal
  extract_lets used
  have hused : Keeps s₀ used := h.useFence
  split
  · exact hused
  · extract_lets moves counted
    have hcounted : Keeps s₀ counted := .ite hused hused.modPart
    exact .ite hcounted.modFence.sendUpdates hcounted

theorem writeBack (h : Keeps s₀ s) {before : State} {l : List Nat} : Keeps s₀ (Machine.writeBack before l s) :=
  h.forAll fun _ _ hu => .ite hu hu.writeThrough

theorem writeBackAll (h : Keeps s₀ s) {before : State} : Keeps s₀ (Machine.writeBackAll before s) := h.writeBack

theorem signalRecord (h : Keeps s₀ s) {a : Nat} {v : BitVec 64} {err ext : Bool} {p : PartId} :
    Keeps s₀ (Machine.signalRecord a v err ext p s) := h.applySignal.writeBack

theorem useKey (h : Keeps s₀ s) {k : FenceKey} : Keeps s₀ (Machine.useKey k s) := by
  cases k with
  | record a => exact h.useFence
  | proxy p fid => exact h

theorem applyKey (h : Keeps s₀ s) {k : FenceKey} {v : BitVec 64} {err ext : Bool} {p : PartId} :
    Keeps s₀ (Machine.applyKey k v err ext p s) := by
  unfold Machine.applyKey
  split
  · exact h.applySignal
  · split
    · exact .ite h.sendFence h
    · exact h

theorem signalKey (h : Keeps s₀ s) {k : FenceKey} {v : BitVec 64} {err ext : Bool} {p : PartId} :
    Keeps s₀ (Machine.signalKey k v err ext p s) := h.applyKey.writeBack

theorem signalRefs (h : Keeps s₀ s) {p : PartId} {packet : List Byte} {err : Bool} : Keeps s₀ (Machine.signalRefs p packet err s) := by
  refine h.forAll fun x u hu => ?_
  dsimp only
  split
  · exact hu.useKey
  · exact hu.useKey.applyKey

theorem tagEnd (h : Keeps s₀ s) {p : PartId} {tag qid seq : Nat} {fault : Bool} : Keeps s₀ (Machine.tagEnd p tag qid seq fault s) :=
  .ite h (h.of_eq rfl)

theorem queueError (h : Keeps s₀ s) {q : HostQueue} {tag va : Nat} : Keeps s₀ (Machine.queueError q tag va s) := h.modQueue.postRecord

theorem writeEntry (h : Keeps s₀ s) {qid seq tag : Nat} {c : Completion} : Keeps s₀ (Machine.writeEntry qid seq tag c s) := by
  unfold Machine.writeEntry
  split
  · exact h
  · refine .ite h ?_
    dsimp only
    split
    case h_1 htr => exact (h.hostTranslate.of_snd htr).queueError
    case h_2 htr =>
      split
      case h_1 hw => exact (h.hostTranslate.of_snd htr).writeFor.of_snd hw
      case h_2 hw => exact ((h.hostTranslate.of_snd htr).writeFor.of_snd hw).queueError

theorem jobFinish (h : Keeps s₀ s) {p : PartId} {qid seq : Nat} {packet : List Byte} {started : Bool} {c : Completion} :
    Keeps s₀ (Machine.jobFinish p qid seq packet started c s) :=
  .ite h.tagEnd.writeEntry.signalRefs.setPtInt h.tagEnd.writeEntry.signalRefs

theorem headFinish (h : Keeps s₀ s) {q : HostQueue} {packet : List Byte} {c : Completion} : Keeps s₀ (Machine.headFinish q packet c s) :=
  h.modQueue.jobFinish

theorem headEnd (h : Keeps s₀ s) {q : HostQueue} {packet : List Byte} {c : Completion} : Keeps s₀ (Machine.headEnd q packet c s) :=
  h.headFinish.writeBackAll

theorem settleLoop (h : Keeps s₀ s) {n : Nat} : Keeps s₀ (Machine.settleLoop n s) := by
  induction n generalizing s with
  | zero => exact h
  | succ n ih =>
    unfold Machine.settleLoop
    split
    · exact h
    · exact ih (writeBackAll (h.forAll fun _ _ hu => hu.headFinish))

theorem modRun (h : Keeps s₀ s) {e : EntryId} {f : EntryRun → EntryRun} : Keeps s₀ (Machine.modRun e f s) := by
  unfold Machine.modRun
  split <;> exact h.of_eq rfl

theorem leaveRun (h : Keeps s₀ s) {e : EntryId} {x : EntryState} : Keeps s₀ (Machine.leaveRun e x s) := h.modRun
theorem endIdles (h : Keeps s₀ s) : Keeps s₀ (Machine.endIdles s) := h.forAll fun _ _ hu => .ite hu.leaveRun hu
theorem settle (h : Keeps s₀ s) : Keeps s₀ (Machine.settle s) := h.settleLoop.endIdles

/-! ### Accesses of the window -/

theorem access (h : Keeps s₀ s) {acc : Access} {off : Nat} {write : Bool} {f : State → State} (hf : Keeps s₀ (f s)) :
    Keeps s₀ (Machine.access acc off write f s) := .ite h.refuseAccess (.ite hf (.ite h h.setBusData))

theorem rcRead (h : Keeps s₀ s) {acc : Access} {off : Nat} {get : State → Word} {clear : State → State}
    (hclear : ∀ d, Keeps s₀ (clear { s with busData := d })) : Keeps s₀ (Machine.rcRead acc off get clear s) := h.access (hclear _)

theorem coreRc (h : Keeps s₀ s) {acc : Access} {c : CoreId} {o : Nat} {get : Core → Word} {clear : Core → Core}
    (hclear : ∀ k : Core, k.mem.wf → (clear k).mem.wf := by exact fun _ hk => hk) : Keeps s₀ (Machine.coreRc acc c o get clear s) :=
  h.rcRead fun _ => h.setBusData.modCore hclear

theorem pageRc (h : Keeps s₀ s) {acc : Access} {p : PartId} {o : Nat} {get : Partition → Word} {clear : Partition → Partition} :
    Keeps s₀ (Machine.pageRc acc p o get clear s) := h.rcRead fun _ => h.setBusData.modPart

theorem linkRc (h : Keeps s₀ s) {acc : Access} {l : LinkId} {o : Nat} {get : LinkPort → Word} {clear : LinkPort → LinkPort} :
    Keeps s₀ (Machine.linkRc acc l o get clear s) := h.rcRead fun _ => h.setBusData.modLink

theorem regionRc (h : Keeps s₀ s) {acc : Access} {z : RegionId} {o : Nat} {get : Region → Word} {clear : Region → Region}
    (hclear : ∀ r : Region, r.wf → (clear r).wf := by exact fun _ hr => hr) : Keeps s₀ (Machine.regionRc acc z o get clear s) :=
  h.rcRead fun _ => h.setBusData.modRegion hclear

/-! ### Stream ports and the boundary -/

theorem releaseSlots (h : Keeps s₀ s) {n : StreamId} {k : Nat} : Keeps s₀ (Machine.releaseSlots n k s) := h.modPort
theorem modCursor (h : Keeps s₀ s) {c : CoreId} {f : StemCursor → StemCursor} : Keeps s₀ (Machine.modCursor c f s) := h.modMx

theorem stemHunt (h : Keeps s₀ s) {c : CoreId} {n : StreamId} : Keeps s₀ (Machine.stemHunt c n s) := by
  unfold Machine.stemHunt
  dsimp only
  split
  · exact h.releaseSlots.modMx
  · exact h.releaseSlots.modMx.modCursor

theorem stemArrive (h : Keeps s₀ s) {c : CoreId} {n : StreamId} : Keeps s₀ (Machine.stemArrive c n s) := by
  refine .ite h (.ite (.ite h.modCursor h) (.ite h.stemHunt (.ite ?_ h)))
  dsimp only
  split
  · exact .ite h.releaseSlots.modMx h.modCursor
  · exact h

theorem ringRestart (h : Keeps s₀ s) {c : CoreId} {n : StreamId} : Keeps s₀ (Machine.ringRestart c n s) := h.modPort.modCursor
theorem streamRefuse (h : Keeps s₀ s) {n : StreamId} : Keeps s₀ (Machine.streamRefuse n s) := h.modPort.setGint

theorem writeStreamCtrl (h : Keeps s₀ s) {secure : Bool} {n : StreamId} {val : Word} : Keeps s₀ (Machine.writeStreamCtrl secure n val s) :=
  .ite h.streamRefuse (.ite h.modPort h.modPort.ringRestart)

theorem writeStreamRing (h : Keeps s₀ s) {n : StreamId} {val : Word} : Keeps s₀ (Machine.writeStreamRing n val s) :=
  .ite h.streamRefuse h.modPort.ringRestart

theorem raiseTick (h : Keeps s₀ s) {src port : Nat} : Keeps s₀ (Machine.raiseTick src port s) := .ite (h.of_eq rfl) h
theorem dropLine (h : Keeps s₀ s) {n : StreamId} : Keeps s₀ (Machine.dropLine n s) := h.modPort.setGint

theorem acceptLine (h : Keeps s₀ s) {n : StreamId} {l : CameraLine} : Keeps s₀ (Machine.acceptLine n l s) := by
  unfold Machine.acceptLine
  extract_lets x c stored held arrived
  have hstored : Keeps s₀ stored := by
    refine freshWords (h.modCore ?_)
    exact fun k hk => ⟨memStore_wf _ _ hk.1, hk.2⟩
  have harrived : Keeps s₀ arrived := hstored.modPort.stemArrive
  exact .ite harrived.raiseTick harrived

theorem streamLineArrival (h : Keeps s₀ s) {n : StreamId} {at_ : Nat} {line : CameraLine}
    (e : execStreamLineArrival n at_ line s = .next t) : Keeps s₀ t := by
  cases e
  exact .ite h.atTime (.ite h.atTime.dropLine (.ite h.atTime (.ite h.atTime.dropLine h.atTime.acceptLine)))

theorem applyThrottle (h : Keeps s₀ s) {level : BitVec 3} : Keeps s₀ (Machine.applyThrottle level s) := .ite (h.of_eq rfl) (h.of_eq rfl)

theorem throttleDue (h : Keeps s₀ s) : Keeps s₀ (Machine.throttleDue s) := by
  unfold Machine.throttleDue
  split
  · exact .ite h.applyThrottle h
  · exact h

theorem refreshWarn (h : Keeps s₀ s) : Keeps s₀ (Machine.refreshWarn s) := .ite (h.of_eq rfl) (h.of_eq rfl)

theorem ktickEdge (h : Keeps s₀ s) {at_ : Nat} (e : execKtickEdge at_ s = .next t) : Keeps s₀ t := by
  cases e
  exact .ite h.atTime (.ite h.atTime h.atTime.setBnd.raiseTick)

end Keeps

end Sys2Proof.Machine
end

section
-- One declaration after another: fewer threads, so that the check of the whole text keeps within its memory.
set_option Elab.async false
/-! PROOFS. The invariants of every step, continued: the cycles of a core, whose engines write core memory, accumulators and curve tables. -/
namespace Sys2Proof.Machine
open Sys2Proof

/-! ### What a core's own functions leave of its memories -/

/-- Writes into core memory. -/
theorem CoreMem.wf.setCore {x : CoreMem} (h : CoreMem.wf x) {m : Memory} (hm : Memory.wf x.core → Memory.wf m) : CoreMem.wf { x with core := m } :=
  ⟨hm h.1, h.2⟩

/-- Writes into the accumulators. -/
theorem CoreMem.wf.setAcc {x : CoreMem} (h : CoreMem.wf x) {m : Memory} (hm : Memory.wf x.acc → Memory.wf m) : CoreMem.wf { x with acc := m } :=
  ⟨h.1, hm h.2.1, h.2.2⟩

/-- A list of cores that a fold steps through stays canonical. -/
theorem foldl_mem_wf {α : Type} {l : List α} {f : Core → α → Core} (hf : ∀ k x, k.mem.wf → (f k x).mem.wf) {k : Core} (h : k.mem.wf) :
    (l.foldl f k).mem.wf := by
  induction l generalizing k with
  | nil => exact h
  | cons x l ih => exact ih (hf k x h)

theorem mergeParts_mem_wf {p : PartId} {r : MxRow} {sel : MxPart → Byte} {k : Core} (h : k.mem.wf) : (mergeParts p r sel k).2.mem.wf := by
  unfold mergeParts
  dsimp only
  generalize hacc : (r, k) = acc
  have hk : acc.2.mem.wf := by subst hacc; exact h
  clear hacc h
  generalize r.parts = l
  induction l generalizing acc with
  | nil => exact hk
  | cons x l ih =>
    refine ih _ ?_
    dsimp only
    split
    · exact hk
    · exact hk.setAcc (memStore_wf _ _)

theorem leaveRow_mem_wf {r : MxRow} {k : Core} (h : k.mem.wf) : (leaveRow r k).mem.wf := by
  unfold leaveRow
  split <;> exact h

theorem mergeRows_mem_wf {grids : Vector Grid 4} {only : ArrId → Byte} {l : List MxRow} {ahead : Vector Byte 4} {kept : List MxRow} {k : Core}
    (h : k.mem.wf) : (mergeRows grids only l ahead kept k).mem.wf := by
  induction l generalizing ahead kept k with
  | nil => exact h
  | cons r rest ih =>
    unfold mergeRows
    split
    · exact ih h
    · dsimp only
      split
      · exact ih (leaveRow_mem_wf (mergeParts_mem_wf h))
      · exact ih (mergeParts_mem_wf h)

theorem enterOn_mem_wf {a : ArrId} {n : Nat} {k : Core} (h : k.mem.wf) : (enterOn a n k).mem.wf := by
  unfold enterOn
  split
  · exact h
  · split <;> exact h

theorem zeroRow_mem_wf {k : Core} (h : k.mem.wf) : (zeroRow k).mem.wf := by
  unfold zeroRow
  split
  · exact h
  · split
    · exact h
    · dsimp only
      split
      · exact h
      · exact leaveRow_mem_wf (mergeParts_mem_wf h)

theorem fetchStep_mem_wf {k : Core} (h : k.mem.wf) : (fetchStep k).mem.wf := by
  unfold fetchStep
  split <;> exact h

theorem outStep_mem_wf {k : Core} (h : k.mem.wf) : (outStep k).mem.wf := by
  unfold outStep
  split
  · exact h
  · split
    · exact h
    · split
      · exact h.setCore (memStores_wf _ _)
      · exact h

theorem frozenStep_mem_wf {st : Stalls} {k : Core} (h : k.mem.wf) : (frozenStep st k).mem.wf := by
  unfold frozenStep
  dsimp only
  refine mergeRows_mem_wf ?_
  split
  · exact fetchStep_mem_wf h
  · exact h

theorem flowStep_mem_wf {st : Stalls} {k : Core} (h : k.mem.wf) : (flowStep st k).mem.wf := by
  unfold flowStep
  extract_lets grids zero moved idle merged
  have hmoved : moved.mem.wf := by
    refine foldl_mem_wf (fun j x hj => ?_) h
    dsimp only
    split
    · exact enterOn_mem_wf hj
    · exact hj
  have hmerged : merged.mem.wf := mergeRows_mem_wf (k := idle) hmoved
  refine fetchStep_mem_wf ?_
  split
  · exact zeroRow_mem_wf hmerged
  · exact hmerged

theorem flushStep_mem_wf {k : Core} (h : k.mem.wf) : (flushStep k).mem.wf := by
  unfold flushStep
  split
  · split <;> exact h
  · exact h

theorem mxCycleCore_mem_wf {n : Nat} {fills : List (Nat × Nat)} {k : Core} (h : k.mem.wf) : (mxCycleCore n fills k).mem.wf := by
  unfold mxCycleCore
  extract_lets en st out flowed
  have hout : out.mem.wf := outStep_mem_wf h
  have hflowed : flowed.mem.wf := by
    unfold flowed
    split
    · exact hout
    · split
      · exact frozenStep_mem_wf hout
      · exact flowStep_mem_wf hout
  exact flushStep_mem_wf hflowed

theorem vxRow_mem_wf {old k : Core} {r : VecRun} (h : k.mem.wf) : (vxRow old k r).1.mem.wf := h.setCore (memStores_wf _ _)
theorem wxRow_mem_wf {old k : Core} {r : VecRun} (h : k.mem.wf) : (wxRow old k r).1.mem.wf := h.setCore (memStore_wf _ _)

theorem vxCycle_mem_wf {old k : Core} (h : k.mem.wf) : (vxCycle old k).mem.wf := by
  unfold vxCycle
  split
  · exact h
  · repeat' split
    any_goals exact h
    exact vxRow_mem_wf h

theorem wxCycle_mem_wf {old k : Core} (h : k.mem.wf) : (wxCycle old k).mem.wf := by
  unfold wxCycle
  split
  · exact h
  · repeat' split
    any_goals exact h
    exact wxRow_mem_wf h

theorem vxFinish_mem_wf {n : Nat} {k : Core} (h : k.mem.wf) : (vxFinish n k).mem.wf := by
  induction n generalizing k with
  | zero => exact h
  | succ n ih =>
    unfold vxFinish
    split
    · exact h
    · repeat' split
      any_goals exact h
      exact ih (vxRow_mem_wf h)

theorem wxFinish_mem_wf {n : Nat} {k : Core} (h : k.mem.wf) : (wxFinish n k).mem.wf := by
  induction n generalizing k with
  | zero => exact h
  | succ n ih =>
    unfold wxFinish
    split
    · exact h
    · repeat' split
      any_goals exact h
      exact ih (wxRow_mem_wf h)

theorem vxBegin_mem_wf {k : Core} {cfg : Vector Word 64} (h : k.mem.wf) : (vxBegin k cfg).1.mem.wf := by
  unfold vxBegin
  dsimp only
  split
  · exact CoreMem.wf.setCore h (memStore_wf _ _)
  · exact h

namespace Keeps
variable {s₀ s t : State}

/-! ### Cycles of a core -/

theorem fillLoad (h : Keeps s₀ s) {c : CoreId} : Keeps s₀ (Machine.fillLoad c s) := by
  unfold Machine.fillLoad
  dsimp only
  split
  · exact h
  · split
    · exact h
    · refine .ite h ?_
      split
      · exact h.modMx.raiseHalt
      · exact h.modMx

theorem latchLevel (h : Keeps s₀ s) {c : CoreId} : Keeps s₀ (Machine.latchLevel c s) := .ite h.throttleDue.modCore h

theorem mxCycle (h : Keeps s₀ s) {c : CoreId} : Keeps s₀ (Machine.mxCycle c s) := by
  unfold Machine.mxCycle
  extract_lets latched k waits n cycled
  have hcycled : Keeps s₀ cycled := h.fillLoad.latchLevel.modCore fun _ hk => mxCycleCore_mem_wf hk
  exact .ite hcycled hcycled.progress

theorem coreFault (h : Keeps s₀ s) {c : CoreId} {code sub eng set detail : Nat} : Keeps s₀ (Machine.coreFault c code sub eng set detail s) :=
  h.postFor.raiseHalt

theorem modVec (h : Keeps s₀ s) {c : CoreId} {e : VecEng} {f : Vec → Vec} : Keeps s₀ (Machine.modVec c e f s) := by
  cases e <;> exact h.modCore

theorem vecFault (h : Keeps s₀ s) {c : CoreId} {e : VecEng} {cause : BitVec 2} : Keeps s₀ (Machine.vecFault c e cause s) := by
  unfold Machine.vecFault
  split
  · exact h
  · exact h.modVec.coreFault

theorem mxOwnHalt (h : Keeps s₀ s) {c : CoreId} {ord : Option Nat} {idx : Nat} {x : HaltCond} : Keeps s₀ (Machine.mxOwnHalt c ord idx x s) :=
  h.modMx.raiseHalt

theorem discardGroup (h : Keeps s₀ s) {c : CoreId} {cmd : MxCmd} {first last idx : Nat} {led : Bool} {info : Word} :
    Keeps s₀ (Machine.discardGroup c cmd first last idx led info s) := h.modCore

theorem arrayFaultAt (h : Keeps s₀ s) {c : CoreId} {arrays : BitVec 4} {cause band group : Nat} {site : Nat × Nat × Nat} :
    Keeps s₀ (Machine.arrayFaultAt c arrays cause band group site s) := by
  obtain ⟨ord, idx, row⟩ := site
  unfold Machine.arrayFaultAt
  dsimp only
  split
  · exact h
  · refine .ite h (.ite h.discardGroup.modCore.mxOwnHalt (.ite h.discardGroup.modCore.modMx.mxOwnHalt ?_))
    split
    · exact h.discardGroup.modMx
    · exact h.discardGroup.modMx.modCore fun _ hk => flushStep_mem_wf hk

theorem arrayFault (h : Keeps s₀ s) {c : CoreId} {f : ArrayFinding} : Keeps s₀ (Machine.arrayFault c f s) := by
  unfold Machine.arrayFault
  split
  · exact h.arrayFaultAt
  · exact h

theorem metFault (h : Keeps s₀ s) {c : CoreId} {l : List MxMet} : Keeps s₀ (Machine.metFault c l s) := by
  cases l with
  | nil => exact h
  | cons x l => exact h.arrayFaultAt

theorem loadCheck (h : Keeps s₀ s) {c : CoreId} {before : Option MxLoad} : Keeps s₀ (Machine.loadCheck c before s) := by
  unfold Machine.loadCheck
  split
  · exact h
  · exact .ite h h.metFault

theorem mxSettle (h : Keeps s₀ s) {c : CoreId} {n : Nat} : Keeps s₀ (Machine.mxSettle c n s).1 ∧ Keeps s₀ (Machine.mxSettle c n s).2 := by
  induction n generalizing s with
  | zero => exact ⟨h, h.mxCycle⟩
  | succ n ih =>
    unfold Machine.mxSettle
    dsimp only
    split
    · exact ⟨h, h.mxCycle⟩
    · exact ih h.metFault

theorem mxOutputReadFault (h : Keeps s₀ s) {c : CoreId} {n : Nat} : Keeps s₀ (Machine.mxOutputReadFault c n s) := by
  unfold Machine.mxOutputReadFault
  split
  · exact h
  · exact h.modCore.coreFault

theorem mxEcc (h : Keeps s₀ s) {c : CoreId} : Keeps s₀ (Machine.mxEcc c s) := by
  unfold Machine.mxEcc
  extract_lets settled before after old k wholeRows fresh checked
  have hchecked : Keeps s₀ checked := h.mxSettle.2.freshWords.freshWords.loadCheck
  split
  · exact hchecked
  · split
    · exact hchecked.mxOutputReadFault
    · exact hchecked

theorem vecFresh (h : Keeps s₀ s) {c : CoreId} {e : VecEng} {old : Core} : Keeps s₀ (Machine.vecFresh c e old s) := by
  unfold Machine.vecFresh
  split
  · exact h.freshWords
  · exact h

theorem vxCycles (h : Keeps s₀ s) {c : CoreId} {old : Core} : Keeps s₀ (Machine.modCore c (vxCycle old) s) := h.modCore fun _ hk => vxCycle_mem_wf hk
theorem wxCycles (h : Keeps s₀ s) {c : CoreId} {old : Core} : Keeps s₀ (Machine.modCore c (wxCycle old) s) := h.modCore fun _ hk => wxCycle_mem_wf hk

theorem plainCycle (h : Keeps s₀ s) {c : CoreId} : Keeps s₀ (Machine.plainCycle c s) :=
  h.mxCycle.modCore fun _ hk => wxCycle_mem_wf (vxCycle_mem_wf hk)

theorem eccCycle (h : Keeps s₀ s) {c : CoreId} : Keeps s₀ (Machine.eccCycle c s) := by
  unfold Machine.eccCycle
  cases vecMet s c .vx with
  | none =>
    cases vecMet s c .wx with
    | none => exact h.mxEcc.vxCycles.vecFresh.wxCycles.vecFresh
    | some cause => exact h.mxEcc.vxCycles.vecFresh.vecFault
  | some cause =>
    cases vecMet s c .wx with
    | none => exact h.mxEcc.vecFault.wxCycles.vecFresh
    | some cause' => exact h.mxEcc.vecFault.vecFault

theorem coreCycle (h : Keeps s₀ s) {c : CoreId} : Keeps s₀ (Machine.coreCycle c s) := .ite h.plainCycle h.eccCycle
theorem countCredit (h : Keeps s₀ s) {c : CoreId} {n : Nat} : Keeps s₀ (Machine.countCredit c n s) := h.modCore
theorem passCycles (h : Keeps s₀ s) {c : CoreId} {n : Nat} : Keeps s₀ (Machine.passCycles c n s) := h.countCredit.spend
theorem runCycle (h : Keeps s₀ s) {c : CoreId} : Keeps s₀ (Machine.runCycle c s) := h.coreCycle.passCycles

theorem advance (h : Keeps s₀ s) {c : CoreId} {done : State → Bool} {n : Nat} : Keeps s₀ (Machine.advance c done n s) := by
  induction n generalizing s with
  | zero => exact h
  | succ n ih => exact .ite h (ih h.runCycle)

theorem vecFinished (h : Keeps s₀ s) {c : CoreId} {e : VecEng} {n : Nat} :
    Keeps s₀ (Machine.modCore c (match e with | .vx => vxFinish n | .wx => wxFinish n) s) := by
  cases e
  · exact h.modCore fun _ hk => vxFinish_mem_wf hk
  · exact h.modCore fun _ hk => wxFinish_mem_wf hk

theorem vecRunPlain (h : Keeps s₀ s) {c : CoreId} {e : VecEng} {n : Nat} : Keeps s₀ (Machine.vecRunPlain c e n s) := by
  unfold Machine.vecRunPlain
  extract_lets t
  have hfinished : Keeps s₀ t := h.vecFinished
  split
  · exact hfinished.passCycles
  · exact hfinished

theorem vecRunRows (h : Keeps s₀ s) {c : CoreId} {e : VecEng} {n : Nat} : Keeps s₀ (Machine.vecRunRows c e n s) := by
  unfold Machine.vecRunRows
  split
  · dsimp only
    split
    · exact .ite h.vecRunPlain.freshWords.vecFault h.vecRunPlain.freshWords
    · exact h.vecRunPlain.freshWords
  · exact h.vecRunPlain

end Keeps

end Sys2Proof.Machine
end

section
-- One declaration after another: fewer threads, so that the check of the whole text keeps within its memory.
set_option Elab.async false
/-! PROOFS. The invariants of every step, continued: the data mover and the halo buffers. -/
namespace Sys2Proof.Machine
open Sys2Proof

/-- Uses of bank ports leave the memories. -/
theorem foldl_useAcc_mem_wf {l : List (Nat × List Byte)} {k : Core} (h : k.mem.wf) :
    (l.foldl (fun k w => useAcc w.1 w.2.length k) k).mem.wf :=
  foldl_mem_wf (f := fun k (w : Nat × List Byte) => useAcc w.1 w.2.length k) (fun _ _ hk => by unfold useAcc; exact hk) h

theorem foldl_useWeights_mem_wf {l : List (Nat × List Byte)} {k : Core} (h : k.mem.wf) :
    (l.foldl (fun k w => useWeights w.1 w.2.length k) k).mem.wf :=
  foldl_mem_wf (f := fun k (w : Nat × List Byte) => useWeights w.1 w.2.length k) (fun _ _ hk => by unfold useWeights; exact hk) h

/-- What a formed transfer or a refusal leaves, where it changes the state. -/
def DxForm.keeps (s₀ : State) : DxForm → Prop
  | .ok _ _ s => Keeps s₀ s
  | .halt _ s => Keeps s₀ s
  | .hold => True
  | .later => True

namespace Keeps
variable {s₀ s t : State}

/-! ### Reads and writes at virtual addresses -/

theorem xsegs (h : Keeps s₀ s) {secure : Bool} {asid : Nat} {write : Bool} {fuel va n : Nat} :
    Keeps s₀ (Machine.xsegs s secure asid write fuel va n).2 := by
  induction fuel generalizing s va n with
  | zero => cases n <;> exact h
  | succ fuel ih =>
    cases n with
    | zero => exact h
    | succ n =>
      simp only [Machine.xsegs]
      split
      next heq => exact h.translate.of_snd heq
      next heq =>
        have hrest := ih (h.translate.of_snd heq) (va := va + min (n + 1) (4096 - va % 4096)) (n := n + 1 - min (n + 1) (4096 - va % 4096))
        split
        next heq' => exact hrest.of_snd heq'
        next heq' => exact hrest.of_snd heq'

theorem xread (h : Keeps s₀ s) {secure : Bool} {asid va n : Nat} : Keeps s₀ (Machine.xread s secure asid va n).2 := by
  unfold Machine.xread
  split
  next heq => exact h.xsegs.of_snd heq
  next heq => exact h.xsegs.of_snd heq

theorem xwrite (h : Keeps s₀ s) {secure : Bool} {asid va : Nat} {bs : List Byte} : Keeps s₀ (Machine.xwrite s secure asid va bs).2 := by
  unfold Machine.xwrite
  split
  next heq => exact h.xsegs.of_snd heq
  next heq => exact h.xsegs.of_snd heq

/-! ### Start and credits -/

theorem dxCommandStart (h : Keeps s₀ s) {c : CoreId} {ch : ChanId} : Keeps s₀ (Machine.dxCommandStart c ch s) := by
  unfold Machine.dxCommandStart
  extract_lets k x
  split
  · exact h
  · refine .ite h ?_
    dsimp only
    split
    · exact h.modChan.progress.raiseLogged
    · exact h.modChan.progress.modChan

theorem takeHaloCredit (h : Keeps s₀ s) {c : CoreId} {cfg : Vector Word 64} : Keeps s₀ (Machine.modCore c (Machine.takeHaloCredit cfg) s) := h.modCore

theorem dxTakeUnit (h : Keeps s₀ s) {c : CoreId} {ch : ChanId} {cmd : EngCmd} {cfg : Vector Word 64} :
    Keeps s₀ (Machine.dxTakeUnit c ch cmd cfg s) := by
  have htok : Keeps s₀ (if dxCrEn cfg then Machine.forAll (dxCounters s c cmd cfg (dxCrTok cfg)) (fun x => Machine.decTok x.1 x.2) s else s) :=
    .ite (h.forAll fun _ _ hu => hu.decTok) h
  exact modDxRun (.ite htok.takeHaloCredit htok)

theorem dxTakeUnits (h : Keeps s₀ s) {c : CoreId} {ch : ChanId} {cmd : EngCmd} {cfg : Vector Word 64} {n : Nat} :
    Keeps s₀ (Machine.dxTakeUnits c ch cmd cfg n s).2 := by
  induction n generalizing s with
  | zero => exact h
  | succ n ih =>
    unfold Machine.dxTakeUnits
    split
    · exact ih h.dxTakeUnit
    · exact h.modDxRun

/-! ### Forming a transfer -/

theorem countIssued (h : Keeps s₀ s) {p : PartId} {n : Nat} : Keeps s₀ (Machine.countIssued p n s) := h.setSg

theorem dxTransFail (h : Keeps s₀ s) {c : CoreId} {cmd : EngCmd} {ch : ChanId} {e : TransErr} {va : Nat} :
    (Machine.dxTransFail c cmd ch e va s).keeps s₀ := .ite h.haltSecurity h

theorem dxUseSource (h : Keeps s₀ s) {c : CoreId} {cmd : EngCmd} {cfg : Vector Word 64} {src : Int} {n : Nat} :
    Keeps s₀ (Machine.dxUseSource c cmd cfg src n s) := .ite h.modCore h

theorem dxSource (h : Keeps s₀ s) {c : CoreId} {cmd : EngCmd} {cfg : Vector Word 64} {src : Int} {n : Nat} :
    Keeps s₀ (Machine.dxSource s c cmd cfg src n).2 := by
  unfold Machine.dxSource
  split
  · exact h
  · split
    · exact h.xread
    · exact h.dxUseSource

theorem dxDest (h : Keeps s₀ s) {c : CoreId} {cmd : EngCmd} {cfg : Vector Word 64} {dst : Int} {bs : List Byte} :
    Keeps s₀ (Machine.dxDest s c cmd cfg dst bs).2 := by
  unfold Machine.dxDest
  split
  · exact h.xwrite
  · exact h

theorem dxSend (h : Keeps s₀ s) {c : CoreId} {ch : ChanId} {r : DxRun} {off n : Nat} {dst : Int} {bs : List Byte} {reads : Bool} :
    Keeps s₀ (Machine.dxSend s c ch r off n dst bs reads).2 := by
  unfold Machine.dxSend
  dsimp only
  split
  · exact h.of_eq rfl
  · exact h.of_eq rfl
  · exact h.sendRun
  · exact h.forAll fun _ _ hu => hu.sendRun
  · split
    next heq => exact h.dxDest.of_snd heq
    next heq => exact h.dxDest.of_snd heq

theorem dxFormPiece (h : Keeps s₀ s) {c : CoreId} {ch : ChanId} {r : DxRun} : (Machine.dxFormPiece s c ch r).keeps s₀ := by
  unfold Machine.dxFormPiece
  extract_lets k cfg cmd entry src dst act b n at_ dstAt ext last next
  split
  · exact h
  · split
    · exact h
    · split
      · exact h
      · split
        · trivial
        · split
          · trivial
          · split
            next heq => exact (h.dxSource.of_snd heq).dxTransFail
            next heq =>
              split
              next heq' => exact ((h.dxSource.of_snd heq).dxSend.of_snd heq').dxTransFail
              next heq' => exact (h.dxSource.of_snd heq).dxSend.of_snd heq'

theorem dxRows (h : Keeps s₀ s) {c : CoreId} {cmd : EngCmd} {cfg : Vector Word 64} {first n : Nat} :
    Keeps s₀ (Machine.dxRows c cmd cfg first n s).2 := by
  induction n generalizing s first with
  | zero => exact h
  | succ n ih =>
    unfold Machine.dxRows
    dsimp only
    split
    next heq => exact h.dxSource.of_snd heq
    next heq =>
      split
      next heq' => exact (ih (h.dxSource.of_snd heq)).of_snd heq'
      next heq' => exact (ih (h.dxSource.of_snd heq)).of_snd heq'

theorem dxBlockStop (h : Keeps s₀ s) {c : CoreId} {ch : ChanId} {cmd : EngCmd} {cfg : Vector Word 64} {first n : Nat} {f : DxForm}
    (e : Machine.dxBlockStop s c ch cmd cfg first n = some f) : f.keeps s₀ := by
  unfold Machine.dxBlockStop at e
  dsimp only at e
  split at e
  · cases e; exact h
  · split at e
    · cases e; trivial
    · cases e

theorem dxFormBlock (h : Keeps s₀ s) {c : CoreId} {ch : ChanId} {r : DxRun} : (Machine.dxFormBlock s c ch r).keeps s₀ := by
  unfold Machine.dxFormBlock
  extract_lets cfg cmd n first dst b got ext last next
  split
  next f heq =>
    by_cases hbuf : r.buf = []
    · rw [if_pos hbuf] at heq
      exact h.dxBlockStop heq
    · rw [if_neg hbuf] at heq
      cases heq
  · split
    · exact h
    · split
      · trivial
      · have hrows : Keeps s₀ (if r.buf = [] then Machine.dxRows c cmd cfg first n s else (.ok (r.buf, []), s)).2 := by
          split
          · exact h.dxRows
          · exact h
        split
        next heq => exact (hrows.of_snd heq).dxTransFail
        next heq =>
          dsimp only
          split
          next heq' => exact ((hrows.of_snd heq).dxSend.of_snd heq').dxTransFail
          next heq' => exact (hrows.of_snd heq).dxSend.of_snd heq'

theorem dxFormHeader (h : Keeps s₀ s) {c : CoreId} {ch : ChanId} {r : DxRun} {hd : List Byte} : (Machine.dxFormHeader s c ch r hd).keeps s₀ := by
  unfold Machine.dxFormHeader
  dsimp only
  split
  · trivial
  · split
    next heq => exact (h.xwrite.of_snd heq).dxTransFail
    next heq => exact h.xwrite.of_snd heq

theorem dxFormPack (h : Keeps s₀ s) {c : CoreId} {ch : ChanId} {r : DxRun} : (Machine.dxFormPack s c ch r).keeps s₀ := by
  unfold Machine.dxFormPack
  dsimp only
  split
  · exact h.dxFormHeader
  · split
    · exact h
    · split
      · trivial
      · split
        · trivial
        · have hused : ∀ f : Nat × Nat × Nat → State → State, (∀ x u, Keeps s₀ u → Keeps s₀ (f x u)) →
              Keeps s₀ (Machine.forAll (dxPagePieces r.cfg r.off) f s) := fun f hf => h.forAll hf
          have hread := hused _ fun x u hu => hu.dxUseSource (c := c) (cmd := r.cmd) (cfg := r.cfg) (src := dxRunSrc r.cfg 0 x.1 + (x.2.1 : Int)) (n := x.2.2)
          split
          · exact hread.dxFormHeader
          · split
            next heq => exact (hread.xwrite.of_snd heq).dxTransFail
            next heq => exact hread.xwrite.of_snd heq

theorem zcUnpack (h : Keeps s₀ s) {z : Byte} {page n : Nat} {data : List Byte} : Keeps s₀ (Machine.zcUnpack z page n data s).2 := by
  unfold Machine.zcUnpack
  split
  · exact h
  · exact h.takeFree

theorem dxFormRestored (h : Keeps s₀ s) {c : CoreId} {r : DxRun} {n : Nat} {data : List Byte} {ext : Nat} {spas : List Nat} :
    (Machine.dxFormRestored s c r n data ext spas).keeps s₀ := by
  unfold Machine.dxFormRestored
  dsimp only
  split
  · exact h.zcUnpack
  · exact h.zcUnpack

theorem dxFormUnpack (h : Keeps s₀ s) {c : CoreId} {ch : ChanId} {r : DxRun} : (Machine.dxFormUnpack s c ch r).keeps s₀ := by
  unfold Machine.dxFormUnpack
  dsimp only
  split
  · exact h
  · split
    · trivial
    · split
      · split
        next heq => exact (h.xread.of_snd heq).dxTransFail
        next heq => exact (h.xread.of_snd heq).dxFormRestored
      · split
        next heq => exact (h.xread.of_snd heq).dxTransFail
        next heq =>
          split
          · exact h.xread.of_snd heq
          · exact (h.xread.of_snd heq).dxFormRestored

theorem dxForm (h : Keeps s₀ s) {c : CoreId} {ch : ChanId} {r : DxRun} : (Machine.dxForm s c ch r).keeps s₀ := by
  unfold Machine.dxForm
  split
  · exact h.dxFormBlock
  · exact h.dxFormPack
  · exact h.dxFormUnpack
  · exact h.dxFormPiece

theorem dxFault (h : Keeps s₀ s) {c : CoreId} {ch : ChanId} {cause run : Nat} : Keeps s₀ (Machine.dxFault c ch cause run s) := by
  unfold Machine.dxFault
  split
  · exact h
  · exact .ite h h.modCore.modDxRun.coreFault

theorem dxIssueNow (h : Keeps s₀ s) {c : CoreId} {ch : ChanId} {r : DxRun} : Keeps s₀ (Machine.dxIssueNow c ch r s) := by
  unfold Machine.dxIssueNow
  refine .ite h.dxFault ?_
  have hform : (Machine.dxForm s c ch r).keeps s₀ := h.dxForm
  generalize Machine.dxForm s c ch r = form at hform
  cases form with
  | later => exact h
  | hold => exact h.modDxRun
  | halt x u => exact dxOwnHalt hform
  | ok x r' u => exact .ite h.dxFault (setSg hform).countIssued.modDxRun.progress

theorem dxTransferIssue (h : Keeps s₀ s) {c : CoreId} {ch : ChanId} : Keeps s₀ (Machine.dxTransferIssue c ch s) := by
  unfold Machine.dxTransferIssue
  dsimp only
  split
  · exact h
  · refine .ite h ?_
    split
    next heq => exact h.dxTakeUnits.of_snd heq
    next heq =>
      split
      · exact (h.dxTakeUnits.of_snd heq).dxIssueNow
      · exact h.dxTakeUnits.of_snd heq

/-! ### Acknowledgement -/

theorem dxLand (h : Keeps s₀ s) {c : CoreId} {x : DxXfer} : Keeps s₀ (Machine.dxLand c x s) := by
  unfold Machine.dxLand
  extract_lets fresh into fills
  have hfresh : Keeps s₀ fresh := h.forAll fun _ _ hu => hu.freshWords
  have hinto : ∀ m : Memory, Memory.wf m → Memory.wf (into m) := memStores_wf _
  have hfills : ∀ k : Core, k.mem.wf → (fills k).mem.wf := by
    rintro k ⟨hcore, hacc, hwbuf, hrest⟩
    exact foldl_useWeights_mem_wf (k := { k with mem := { k.mem with wbuf := into k.mem.wbuf } }) ⟨hcore, hacc, hinto _ hwbuf, hrest⟩
  cases x.target with
  | ext => exact hfresh.setDram (hinto _)
  | staging => exact hfresh.setStaging (hinto _)
  | core => exact hfresh.modCore fun k hk => hk.setCore (hinto _)
  | acc => exact hfresh.modCore fun k hk =>
      foldl_useAcc_mem_wf (k := { k with mem := { k.mem with acc := into k.mem.acc } }) (hk.setAcc (hinto _))
  | wbuf => exact hfresh.modCore hfills
  | curve =>
    refine hfresh.modCore ?_
    rintro k ⟨hcore, hacc, hwbuf, hcurve, hrest⟩
    exact ⟨hcore, hacc, hwbuf, hinto _ hcurve, hrest⟩
  | cast mask => exact hfresh.forAll fun _ _ hu => hu.modCore hfills
  | group g => exact hfresh
  | haloNext => exact hfresh
  | haloPrev => exact hfresh
  | haloLink l e => exact hfresh

theorem markLanded (h : Keeps s₀ s) {l : List DxXfer} : Keeps s₀ (Machine.markLanded l s) :=
  h.forAll fun _ _ hu => hu.forAll fun _ _ hv => hv.modDxRun

theorem dxPerform (h : Keeps s₀ s) {c : CoreId} {x : DxXfer} : Keeps s₀ (Machine.dxPerform c x s) :=
  .ite h (.ite (h.markLanded.forAll fun _ _ hu => hu.dxLand) h.dxLand)

theorem dualSign (h : Keeps s₀ s) {c : CoreId} {ch : ChanId} {job va : Nat} {bs : List Byte} :
    Keeps s₀ (Machine.dualSign c ch job va bs s) := by
  unfold Machine.dualSign
  split
  · exact h
  · refine .ite h ?_
    split
    · exact h
    · exact h.setSafety

theorem dualSignAll (h : Keeps s₀ s) {c : CoreId} {ch : ChanId} {job : Nat} {xs : List DxXfer} :
    Keeps s₀ (Machine.dualSignAll c ch job xs s) := h.forAll fun _ _ hu => hu.dualSign

theorem dxPostUnits (h : Keeps s₀ s) {c : CoreId} {r : DxRun} {n : Nat} : Keeps s₀ (Machine.dxPostUnits c r n s) :=
  .ite h (h.forAll fun _ _ hu => hu.forAll fun _ _ hv => hv.incTok)

theorem dxRetire (h : Keeps s₀ s) {c : CoreId} {ch : ChanId} {n : Nat} : Keeps s₀ (Machine.dxRetire c ch n s) := by
  induction n generalizing s with
  | zero => exact h
  | succ n ih =>
    unfold Machine.dxRetire
    split
    · exact h
    · split
      · exact h
      · exact ih h.modDxRun.modChan.dualSignAll.dxPostUnits

theorem dxTransferAck (h : Keeps s₀ s) {c : CoreId} {ch : ChanId} {k : Nat} : Keeps s₀ (Machine.dxTransferAck c ch k s) := by
  unfold Machine.dxTransferAck
  split
  · exact h
  · split
    · exact h
    · exact .ite h (.ite h.modDxRun.dxFault h.dxPerform.modCore.modDxRun.progress.dxRetire)

theorem dxFinish (h : Keeps s₀ s) {c : CoreId} {ch : ChanId} {r : DxRun} : Keeps s₀ (Machine.dxFinish c ch r s) :=
  h.modChan.progress.postTokens

theorem dxCommandComplete (h : Keeps s₀ s) {c : CoreId} {ch : ChanId} : Keeps s₀ (Machine.dxCommandComplete c ch s) := by
  unfold Machine.dxCommandComplete
  extract_lets x idle
  have hidle : Keeps s₀ idle := by
    unfold idle
    split
    · exact .ite h.modChan.progress.postTokens h
    · exact h
  split
  · exact .ite h.dxFinish hidle
  · exact hidle

theorem dxSnuffComplete (h : Keeps s₀ s) {c : CoreId} {ch : ChanId} : Keeps s₀ (Machine.dxSnuffComplete c ch s) := by
  unfold Machine.dxSnuffComplete
  dsimp only
  split
  · exact h.modChan
  · exact .ite h (.ite h.modChan (.ite h.dxFinish h.modChan))

theorem dxFaultFound (h : Keeps s₀ s) {c : CoreId} {ch : ChanId} {cause : Nat} : Keeps s₀ (Machine.dxFaultFound c ch cause s) := by
  unfold Machine.dxFaultFound
  split
  · exact .ite h h.dxFault
  · exact h

theorem dxRecall (h : Keeps s₀ s) {c : CoreId} {ch : ChanId} {x : DxXfer} (e : Machine.dxRecall c ch x s = some t) : Keeps s₀ t := by
  unfold Machine.dxRecall at e
  dsimp only at e
  split at e
  · split at e
    · cases e; exact h.of_eq rfl
    · cases e
  · split at e
    · cases e; exact h.of_eq rfl
    · cases e
  · split at e
    · cases e; exact h.forAll fun _ _ hu => hu.takeBack
    · cases e
  · split at e
    · cases e; exact h.forAll fun _ _ hu => hu.takeBack
    · cases e
  · cases e; exact h

theorem dxPortError (h : Keeps s₀ s) {c : CoreId} {ch : ChanId} {k : Nat} {write : Bool} {g : Nat} :
    Keeps s₀ (Machine.dxPortError c ch k write g s) := by
  unfold Machine.dxPortError
  split
  · exact h
  · split
    · exact h
    · dsimp only
      split
      · split
        · exact h
        · exact h.dxPerform.takeFree.storeSpa.modDxRun.dxFault
      · split
        · split
          next heq => exact (h.dxRecall heq).modDxRun.dxFault
          · exact h
        · exact h

theorem curveWriteRelease (h : Keeps s₀ s) {c : CoreId} : Keeps s₀ (Machine.curveWriteRelease c s) := h.forAll fun _ _ hu => hu.modDxRun

theorem dxReadRelease (h : Keeps s₀ s) {c : CoreId} {ch : ChanId} : Keeps s₀ (Machine.dxReadRelease c ch s) := by
  unfold Machine.dxReadRelease
  split
  · exact .ite h.dxIssueNow h
  · exact h

theorem dxServe (h : Keeps s₀ s) {c : CoreId} {ch : ChanId} : Keeps s₀ (Machine.dxServe c ch s) := by
  unfold Machine.dxServe
  split
  · exact h
  next r hr =>
    clear hr
    generalize List.range r.out.length = l
    induction l generalizing s with
    | nil => exact h
    | cons i l ih =>
      refine ih ?_
      dsimp only
      split
      · exact h.modDxRun.countIssued
      · exact h

theorem mportCapWindow (h : Keeps s₀ s) : Keeps s₀ (Machine.mportCapWindow s) :=
  h.atTime.setSg.forAll fun _ _ hu => hu.forAll fun _ _ hv => hv.dxServe

theorem writeMpqLock (h : Keeps s₀ s) {secure : Bool} {val : Word} : Keeps s₀ (Machine.writeMpqLock secure val s) := .ite h.setSg h

/-! ### Halo buffers -/

theorem modHb (h : Keeps s₀ s) {c : CoreId} {k : HaloId} {f : HaloBuf → HaloBuf} : Keeps s₀ (Machine.modHb c k f s) := h.modCore

theorem hbTell (h : Keeps s₀ s) {c : CoreId} {b : HaloBuf} {grant : Option Byte} : Keeps s₀ (Machine.hbTell c b grant s) := by
  unfold Machine.hbTell
  dsimp only
  split
  · exact .ite h (h.of_eq rfl)
  · exact .ite h (h.of_eq rfl)
  · split
    · exact h.modLink
    · exact h
  · exact h

theorem hbEnable (h : Keeps s₀ s) {c : CoreId} {k : HaloId} : Keeps s₀ (Machine.hbEnable c k s) := h.modHb.hbTell
theorem hbDisable (h : Keeps s₀ s) {c : CoreId} {k : HaloId} : Keeps s₀ (Machine.hbDisable c k s) := h.modHb.hbTell
theorem hbErr (h : Keeps s₀ s) {c : CoreId} {k : HaloId} : Keeps s₀ (Machine.hbErr c k s) := h.modHb

theorem writeHbCtrl (h : Keeps s₀ s) {c : CoreId} {k : HaloId} {val : Word} : Keeps s₀ (Machine.writeHbCtrl c k val s) := by
  unfold Machine.writeHbCtrl
  extract_lets old v on marked
  have hmarked : Keeps s₀ marked := .ite h h.hbErr
  split
  · exact .ite hmarked hmarked.hbDisable
  · refine .ite h.modHb ?_
    split
    · exact h.raiseHalt
    · exact .ite h.modHb.hbErr h.modHb.hbEnable

theorem writeHbWin (h : Keeps s₀ s) {c : CoreId} {k : HaloId} {val : Word} : Keeps s₀ (Machine.writeHbWin c k val s) := .ite h.hbErr h.modHb
theorem writeHbSeq (h : Keeps s₀ s) {c : CoreId} {k : HaloId} {val : Word} : Keeps s₀ (Machine.writeHbSeq c k val s) := .ite h.hbErr h.modHb

theorem writeHbWindow (h : Keeps s₀ s) {c : CoreId} {k : HaloId} {r : HaloReg} {val : Word} : Keeps s₀ (Machine.writeHbWindow c k r val s) := by
  refine .ite h ?_
  cases r
  · exact h.writeHbCtrl
  · exact h.writeHbWin
  · exact h.writeHbSeq

theorem modCredit (h : Keeps s₀ s) {c : CoreId} {path : HaloPath} {f : Byte → Byte} : Keeps s₀ (Machine.modCredit c path f s) := h.modCore
theorem takeGrant (h : Keeps s₀ s) {c : CoreId} {path : HaloPath} {v : Byte} : Keeps s₀ (Machine.takeGrant c path v s) := by
  unfold Machine.takeGrant
  exact modCredit h.modCore
theorem takeReturn (h : Keeps s₀ s) {c : CoreId} {path : HaloPath} : Keeps s₀ (Machine.takeReturn c path s) := .ite h.modCredit h
theorem haloMsgDone (h : Keeps s₀ s) {c : CoreId} {path : HaloPath} : Keeps s₀ (Machine.haloMsgDone c path s) := h.of_eq rfl

theorem haloAck (h : Keeps s₀ s) {r : HaloRun} : Keeps s₀ (Machine.haloAck r s) := by
  unfold Machine.haloAck
  extract_lets told
  have htold : Keeps s₀ told := by
    unfold told
    split
    · exact h.modDxRun
    · exact h
  split
  · exact htold.sendMsg
  · exact htold

theorem hbAccept (h : Keeps s₀ s) {r : HaloRun} {k : HaloId} : Keeps s₀ (Machine.hbAccept r k s) := by
  unfold Machine.hbAccept
  extract_lets b at_ written done
  have hwritten : Keeps s₀ written := by
    refine freshWords (h.modCore fun k hk => ?_)
    exact CoreMem.wf.setCore hk (memStore_wf _ _)
  have hdone : Keeps s₀ done := hwritten.modHb
  refine .ite hwritten.modHb ?_
  split
  · exact hdone.incTok
  · exact hdone

theorem haloArrive (h : Keeps s₀ s) {r : HaloRun} : Keeps s₀ (Machine.haloArrive r s) := by
  unfold Machine.haloArrive
  split
  · exact h.modCore
  · exact .ite h (.ite h.modHb.raiseHalt h.hbAccept)

theorem haloNote (h : Keeps s₀ s) {c : CoreId} {last : Nat} : Keeps s₀ (Machine.haloNote c last s) := h.modCore

theorem haloExpire (h : Keeps s₀ s) {c : CoreId} {w : HaloWaiter} {last seq : Nat} : Keeps s₀ (Machine.haloExpire c w last seq s) := by
  cases w
  · exact h.haloNote.raiseHalt
  · exact h.haloNote.raiseHalt
  · exact h.haloNote.dxOwnHalt

theorem haloReset (h : Keeps s₀ s) {c : CoreId} : Keeps s₀ (Machine.haloReset c s) := by
  unfold Machine.haloReset
  extract_lets disabled emptied
  have hdisabled : Keeps s₀ disabled := h.forAll fun _ _ hu => hu.hbDisable
  have hemptied : Keeps s₀ emptied := hdisabled.of_eq rfl
  exact hemptied.modCore

theorem haloLost (h : Keeps s₀ s) {c : CoreId} {w : HaloWaiter} {k : HaloId} {e : Nat} : Keeps s₀ (Machine.haloLost c w k e s) :=
  raiseHalt (.ite h.haloNote h)

theorem haloLostWaits (h : Keeps s₀ s) {c : CoreId} : Keeps s₀ (Machine.haloLostWaits c s) := by
  refine h.forAll fun w u hu => ?_
  dsimp only
  split
  · exact hu.haloLost
  · exact hu

end Keeps

end Sys2Proof.Machine
end

section
-- One declaration after another: fewer threads, so that the check of the whole text keeps within its memory.
set_option Elab.async false
/-! PROOFS. The invariants of every step, continued: queues, the control core, the fabric's logic, and the commands of MX, VX, WX and FX. -/
namespace Sys2Proof.Machine
open Sys2Proof

namespace Keeps
variable {s₀ s t : State}

/-! ### Queues and the control core -/

theorem modQ (h : Keeps s₀ s) {c : CoreId} {e : EngId} {f : EngQueue → EngQueue} : Keeps s₀ (Machine.modQ c e f s) := h.modCore
theorem modCtl (h : Keeps s₀ s) {c : CoreId} {f : Ctl → Ctl} : Keeps s₀ (Machine.modCtl c f s) := h.modCore

theorem queueWordPush (h : Keeps s₀ s) {c : CoreId} {q : EngId} {first : Bool} {w : Word} {corrupt : Bool}
    (e : execQueueWordPush c q first w corrupt s = .next t) : Keeps s₀ t := by
  cases e
  refine .ite h ?_
  have hmarked : ∀ p : Prop, [Decidable p] → ∀ v, Keeps s₀ (if p then Machine.modQ c q v s
      else Machine.modCore c (fun k => { k with ctl := { k.ctl with overran := true } }) (Machine.modQ c q v s)) :=
    fun p _ v => .ite h.modQ h.modQ.modCore
  exact .ite (hmarked _ _) (hmarked _ _).progress

theorem setTaken_mem {e : EngId} {cmd : EngCmd} {k : Core} : (Machine.setTaken e cmd k).mem = k.mem := by
  unfold Machine.setTaken
  split <;> rfl

theorem modSet_mem {e : EngId} {n : SetId} {f : Vector Word 64 → Vector Word 64} {k : Core} : (Machine.modSet e n f k).mem = k.mem := by
  unfold Machine.modSet
  split <;> rfl

theorem dropTaken_mem {e : EngId} {k : Core} : (Machine.dropTaken e k).mem = k.mem := by
  unfold Machine.dropTaken
  split <;> rfl

theorem packetTake (h : Keeps s₀ s) {c : CoreId} {e : EngId} {ecc : Bool} : Keeps s₀ (Machine.packetTake c e ecc s) := by
  unfold Machine.packetTake
  dsimp only
  split
  · exact h
  · refine .ite h ?_
    split
    · exact h.raiseHalt
    · refine (h.modQ.modCore fun k hk => ?_).progress.haloLostWaits
      rwa [setTaken_mem, modSet_mem]

theorem queuePointerMismatch (h : Keeps s₀ s) {c : CoreId} {q : EngId} {free : Bool} {a b : BitVec 6}
    (e : execQueuePointerMismatch c q free a b s = .next t) : Keeps s₀ t := by
  cases e
  refine .ite h (h.modQ.modCore fun k hk => ?_).raiseHalt
  rwa [dropTaken_mem]

theorem ctlTokenWrite (h : Keeps s₀ s) {c : CoreId} {n : BitVec 6} {v : Half} (e : execCtlTokenWrite c n v s = .next t) : Keeps s₀ t := by
  cases e
  refine .ite h ?_
  split
  · exact h.raiseHalt
  · exact .ite h h.setTok

theorem ctlRead (h : Keeps s₀ s) {c : CoreId} {src : CtlSrc} (e : execCtlRead c src s = .next t) : Keeps s₀ t := by
  cases e
  refine .ite h ?_
  split
  · exact h.raiseHalt
  · exact h.setBusData

theorem ctlBranch (h : Keeps s₀ s) {c : CoreId} {src : CtlSrc} (e : execCtlBranch c src s = .next t) : Keeps s₀ t := h.ctlRead e

theorem ctlWait (h : Keeps s₀ s) {c : CoreId} {req : WaitReq} (e : execCtlWait c req s = .next t) : Keeps s₀ t := by
  cases e
  refine .ite h ?_
  split
  · split
    · exact h.raiseHalt
    · exact h.modCtl.haloLostWaits
  · exact h.modCtl

theorem ctlWaitSatisfied (h : Keeps s₀ s) {c : CoreId} (e : execCtlWaitSatisfied c s = .next t) : Keeps s₀ t := by
  cases e
  exact .ite h.modCtl h

theorem ctlProgramEnd (h : Keeps s₀ s) {c : CoreId} {how : ProgramEnd} (e : execCtlProgramEnd c how s = .next t) : Keeps s₀ t := by
  cases e
  refine .ite h ?_
  cases how
  · exact h.modCtl
  · exact h.modCtl.raiseHalt

theorem ctlLockstepMismatch (h : Keeps s₀ s) {c : CoreId} {x : BitVec 16} (e : execCtlLockstepMismatch c x s = .next t) : Keeps s₀ t := by
  cases e
  exact .ite h.raiseHalt h

theorem modBank (h : Keeps s₀ s) {c : CoreId} {bank : Bool} {f : Memory → Memory} (hf : ∀ m, Memory.wf m → Memory.wf (f m)) :
    Keeps s₀ (Machine.modBank c bank f s) := by
  refine h.modCore ?_
  rintro k ⟨hcore, hacc, hwbuf, hcurve, hdmem, hbank0, hbank1⟩
  cases bank
  · exact ⟨hcore, hacc, hwbuf, hcurve, hdmem, hf _ hbank0, hbank1⟩
  · exact ⟨hcore, hacc, hwbuf, hcurve, hdmem, hbank0, hf _ hbank1⟩

theorem tagBank (h : Keeps s₀ s) {c : CoreId} {bank : Bool} {seg : Option (Nat × Nat)} : Keeps s₀ (Machine.tagBank c bank seg s) := h.modCore
theorem switchPoint (h : Keeps s₀ s) {c : CoreId} {next : Nat × Nat} {target : BitVec 17} : Keeps s₀ (Machine.switchPoint c next target s) :=
  h.modCore

theorem bankSwitch (h : Keeps s₀ s) {c : CoreId} (e : execBankSwitch c s = .next t) : Keeps s₀ t := by
  cases e
  exact .ite h.modCtl h

theorem imemWrite (h : Keeps s₀ s) {c : CoreId} {bank : Bool} {off : Nat} {data : List Byte} (e : execImemWrite c bank off data s = .next t) :
    Keeps s₀ t := by
  cases e
  exact .ite h (.ite h.modCtl (h.modBank fun _ hm => memStore_wf _ _ hm).modCtl.freshWords.tagBank)

/-! ### The fabric's logic -/

theorem ramWrite (h : Keeps s₀ s) {v : FabricView} {port : Fin 96} : Keeps s₀ (Machine.ramWrite v port s) :=
  .ite (freshWords (by
    refine h.modRegion fun r hr => ?_
    obtain ⟨hbram, hconfig⟩ := hr
    exact ⟨memStore_wf _ _ hbram, hconfig⟩)) h

theorem ramUncorr (h : Keeps s₀ s) {z : RegionId} {port : Fin 96} {off : Nat} : Keeps s₀ (Machine.ramUncorr z port off s) :=
  h.modRegion.postRecord

theorem regionEdge (h : Keeps s₀ s) {u : State} {n : Nat} {z : RegionId} : Keeps s₀ (Machine.regionEdge u n z s) :=
  ((h.forAll fun _ _ hu => hu.ramUncorr).forAll fun _ _ hu => hu.ramWrite).modRegion

theorem initialValues (h : Keeps s₀ s) {z : RegionId} : Keeps s₀ (Machine.initialValues z s) := by
  unfold Machine.initialValues
  exact h.modRegion fun r hr => by unfold regionInitial; exact hr

theorem scanOn (h : Keeps s₀ s) {dt : Nat} : Keeps s₀ (Machine.scanOn dt s) := .ite h (h.setFabric fun _ hz => hz)

/-! ### FX -/

theorem modFx (h : Keeps s₀ s) {c : CoreId} {f : Fx → Fx} : Keeps s₀ (Machine.modFx c f s) := h.modCore
theorem modFxRun (h : Keeps s₀ s) {c : CoreId} {f : FxRun → FxRun} : Keeps s₀ (Machine.modFxRun c f s) := h.modFx

theorem fxWrite (h : Keeps s₀ s) {c : CoreId} {n : Nat} : Keeps s₀ (Machine.fxWrite c n s) := by
  unfold Machine.fxWrite
  split
  · exact h
  · refine .ite h (freshWords (h.modCore fun k hk => ?_)).modFxRun
    exact CoreMem.wf.setCore hk (memStore_wf _ _)

theorem fxFlush (h : Keeps s₀ s) {c : CoreId} : Keeps s₀ (Machine.fxFlush c s) := by
  unfold Machine.fxFlush
  split
  · exact h
  · exact h.atTime.fxWrite

theorem fxEnd (h : Keeps s₀ s) {c : CoreId} : Keeps s₀ (Machine.fxEnd c s) := h.modFx

theorem fxFault (h : Keeps s₀ s) {c : CoreId} {cause err : Nat} : Keeps s₀ (Machine.fxFault c cause err s) := by
  unfold Machine.fxFault
  split
  · exact h
  · exact h.fxEnd.modFx.coreFault

theorem fxFinish (h : Keeps s₀ s) {c : CoreId} {r : FxRun} : Keeps s₀ (Machine.fxFinish c r s) :=
  postTokens (progress (.ite h.fxFlush.fxEnd.modCore h.fxFlush.fxEnd))

theorem fxSnuffed (h : Keeps s₀ s) {c : CoreId} {r : FxRun} : Keeps s₀ (Machine.fxSnuffed c r s) := h.fxFlush.fxEnd.modFx

theorem fxStop (h : Keeps s₀ s) {c : CoreId} : Keeps s₀ (Machine.fxStop c s) := by
  unfold Machine.fxStop
  split
  · exact h
  · exact .ite h.fxFinish h.fxSnuffed

theorem fxFeed (h : Keeps s₀ s) {c : CoreId} : Keeps s₀ (Machine.fxFeed c s) := by
  unfold Machine.fxFeed
  split
  · exact h
  · exact .ite h.fxWrite (.ite h.fxWrite.fxFault h.fxWrite.modFxRun)

theorem fxBeats (h : Keeps s₀ s) {v : FabricView} {c : CoreId} : Keeps s₀ (Machine.fxBeats v c s) := by
  unfold Machine.fxBeats
  extract_lets out taken
  have htaken : Keeps s₀ taken := .ite h.modFxRun h
  split
  · exact h
  · refine .ite h ?_
    exact .ite htaken (.ite htaken.fxWrite.fxFault htaken.modFxRun)

theorem fxEdge (h : Keeps s₀ s) {u : State} {n : Nat} {c : CoreId} : Keeps s₀ (Machine.fxEdge u n c s) := h.fxBeats.fxFeed

/-! ### MX -/

theorem stemStart (h : Keeps s₀ s) {c : CoreId} {cfg : Vector Word 64} : Keeps s₀ (Machine.stemStart c cfg s) :=
  .ite h (.ite h.modCursor.modCursor.stemHunt h.modCursor)

theorem lampOver_mem {k : Core} : (lampOver k).mem = k.mem := by
  unfold lampOver
  split <;> rfl

theorem modStarted (h : Keeps s₀ s) {c : CoreId} {ord : Nat} {f : MxCmd → MxCmd} : Keeps s₀ (Machine.modStarted c ord f s) := h.modMx

theorem startRun (h : Keeps s₀ s) {c : CoreId} {cmd : MxCmd} {e : MxEff} {m0 : Nat} : Keeps s₀ (Machine.startRun c cmd e m0 s) :=
  h.modStarted.modMx

theorem formPass (h : Keeps s₀ s) {c : CoreId} {cmd : MxCmd} {e : MxEff} : Keeps s₀ (Machine.formPass c cmd e s) := by
  unfold Machine.formPass
  dsimp only
  split
  · exact h.mxOwnHalt
  · exact .ite h.modMx.fillLoad.loadCheck h.startRun

theorem mxPassFormation (h : Keeps s₀ s) {c : CoreId} : Keeps s₀ (Machine.mxPassFormation c s) := by
  refine .ite ?_ h
  split
  · exact h.formPass
  · exact h

theorem mxCommandStart (h : Keeps s₀ s) {c : CoreId} : Keeps s₀ (Machine.mxCommandStart c s) := by
  unfold Machine.mxCommandStart
  dsimp only
  split
  · exact h
  · refine .ite h (.ite h.stemStart ?_)
    refine .ite h.stemStart.modMx.progress.mxOwnHalt ?_
    split
    · exact h.stemStart.modMx.progress.mxOwnHalt
    · exact h.stemStart.modMx.progress.modMx.formPass

theorem releaseBelow (h : Keeps s₀ s) {c : CoreId} {n : StreamId} {line : Nat} : Keeps s₀ (Machine.releaseBelow c n line s) :=
  .ite h h.releaseSlots.modCursor

theorem releaseFrame (h : Keeps s₀ s) {c : CoreId} {n : StreamId} : Keeps s₀ (Machine.releaseFrame c n s) := h.releaseSlots.modCursor

theorem swapRelease (h : Keeps s₀ s) {c : CoreId} {cmd : MxCmd} {e : MxEff} : Keeps s₀ (Machine.swapRelease c cmd e s) := .ite h.releaseBelow h
theorem endRelease (h : Keeps s₀ s) {c : CoreId} {cmd : MxCmd} : Keeps s₀ (Machine.endRelease c cmd s) :=
  .ite (.ite h.releaseFrame h.releaseBelow) h

theorem swapIn (h : Keeps s₀ s) {c : CoreId} : Keeps s₀ (Machine.swapIn c s) := by
  unfold Machine.swapIn
  dsimp only
  split
  · exact h
  · split
    · exact h
    · exact h.modCore.startRun.swapRelease

theorem mxPassStart (h : Keeps s₀ s) {c : CoreId} : Keeps s₀ (Machine.mxPassStart c s) := .ite h (.ite h.advance.swapIn h)

theorem finishMx (h : Keeps s₀ s) {c : CoreId} {cmd : MxCmd} : Keeps s₀ (Machine.finishMx c cmd s) := h.modMx.progress.endRelease.postTokens

theorem mxCommandComplete (h : Keeps s₀ s) {c : CoreId} : Keeps s₀ (Machine.mxCommandComplete c s) := by
  unfold Machine.mxCommandComplete
  dsimp only
  split
  · exact h.modMx.progress.postTokens
  · refine .ite h ?_
    split
    · exact .ite h h.advance.finishMx
    · exact h

theorem finishAll (h : Keeps s₀ s) {c : CoreId} {n : Nat} : Keeps s₀ (Machine.finishAll c n s) := by
  induction n generalizing s with
  | zero => exact h
  | succ n ih =>
    unfold Machine.finishAll
    split
    · exact ih h.finishMx
    · exact h

theorem mxStopped (h : Keeps s₀ s) {c : CoreId} : Keeps s₀ (Machine.mxStopped c s) := by
  have hlamp : ∀ u, Keeps s₀ u → Keeps s₀ (Machine.modCore c (fun k => match k.lamp with
      | .running _ _ false => if k.mx.stopReplay then lampOver k else k
      | _ => k) u) := by
    refine fun u hu => hu.modCore fun k hk => ?_
    split
    · split
      · rwa [lampOver_mem]
      · exact hk
    · exact hk
  unfold Machine.mxStopped
  exact (hlamp _ h.modCore).modMx

theorem mxSnuffComplete (h : Keeps s₀ s) {c : CoreId} : Keeps s₀ (Machine.mxSnuffComplete c s) :=
  .ite h (.ite h.advance.finishAll.mxStopped h)

theorem postReplayed {u : State} (h : Keeps s₀ s) {c : CoreId} {m : Mx} {r : MxReplay} : Keeps s₀ (Machine.postReplayed u c m r s) := h.postFor

theorem arrayReplayDone (h : Keeps s₀ s) {c : CoreId} : Keeps s₀ (Machine.arrayReplayDone c s) := by
  unfold Machine.arrayReplayDone
  split
  · exact h
  · exact .ite h (.ite h.advance.postReplayed.modMx h)

theorem abandon (h : Keeps s₀ s) {c : CoreId} {x : Nat × Nat} : Keeps s₀ (Machine.abandon c x s) := by
  unfold Machine.abandon
  dsimp only
  split
  · exact h
  · exact h.discardGroup

theorem mxSnuffTimeout (h : Keeps s₀ s) {c : CoreId} : Keeps s₀ (Machine.mxSnuffTimeout c s) := by
  unfold Machine.mxSnuffTimeout
  split
  · refine .ite h ?_
    split
    · exact h
    · exact (h.advance.forAll fun _ _ hu => hu.abandon).abandon.modMx.mxStopped
  · exact h

/-! ### VX and WX -/

theorem vecBegin_mem_wf {resumed : Bool} {e : VecEng} {k : Core} {cfg : Vector Word 64} (h : k.mem.wf) :
    (Machine.vecBegin resumed e k cfg).1.mem.wf := by
  cases e
  · unfold Machine.vecBegin
    dsimp only
    split
    · exact h
    · exact vxBegin_mem_wf h
  · exact h

theorem vecBeginFresh (h : Keeps s₀ s) {c : CoreId} {e : VecEng} {cfg : Vector Word 64} : Keeps s₀ (Machine.vecBeginFresh c e cfg s) := by
  cases e
  · exact .ite h.freshWords h
  · exact h

/-- The core that a VX start leaves. -/
theorem begun (h : Keeps s₀ s) {c : CoreId} {resumed : Bool} {e : VecEng} {cfg : Vector Word 64} :
    Keeps s₀ (Machine.modCore c (fun _ => (Machine.vecBegin resumed e s.cores[c] cfg).1) s) := by
  refine h.setCores fun d hd => ?_
  by_cases hdc : d = c
  · subst hdc
    rw [updAt_get_same]
    exact vecBegin_mem_wf hd
  · rwa [updAt_get_other _ _ _ _ hdc]

theorem vecStart (h : Keeps s₀ s) {c : CoreId} {e : VecEng} : Keeps s₀ (Machine.vecStart c e s) := by
  unfold Machine.vecStart
  dsimp only
  split
  · exact h
  · refine .ite h (.ite h.modVec.progress.raiseHalt ?_)
    split
    · exact h.modVec.progress.raiseHalt
    · exact h.modVec.progress.begun.vecBeginFresh.modVec

theorem vecDone (h : Keeps s₀ s) {c : CoreId} {e : VecEng} {r : VecRun} : Keeps s₀ (Machine.vecDone c e r s) := by
  cases e
  · exact h.modVec.modCore.progress.postTokens
  · exact h.modVec.progress.postTokens

theorem vecComplete (h : Keeps s₀ s) {c : CoreId} {e : VecEng} : Keeps s₀ (Machine.vecComplete c e s) := by
  unfold Machine.vecComplete
  dsimp only
  split
  · exact h.modVec.progress.postTokens
  · split
    · refine .ite h ?_
      split
      · exact .ite h.vecRunRows.vecDone h.vecRunRows
      · exact h.vecRunRows
    · exact h

theorem vecSnuffComplete (h : Keeps s₀ s) {c : CoreId} {e : VecEng} : Keeps s₀ (Machine.vecSnuffComplete c e s) := by
  unfold Machine.vecSnuffComplete
  dsimp only
  split
  · exact h.modVec
  · refine .ite h ?_
    split
    · exact .ite h h.vecRunRows
    · exact modVec (.ite h h.vecRunRows)

theorem engineFault (h : Keeps s₀ s) {c : CoreId} {f : EngineFinding} : Keeps s₀ (Machine.engineFault c f s) := by
  refine .ite h ?_
  cases f
  · exact .ite h h.vecFault
  · exact .ite h.coreFault h
  · exact .ite h h.modCore.raiseHalt

end Keeps

end Sys2Proof.Machine
end

section
-- One declaration after another: fewer threads, so that the check of the whole text keeps within its memory.
set_option Elab.async false
/-! PROOFS. The invariants of every step, continued: halts, resets, FX commands, mailboxes, jobs and the host's objects. -/
namespace Sys2Proof.Machine
open Sys2Proof

theorem lampDue_mem {t d : Nat} {k : Core} : (lampDue t d k).mem = k.mem := by
  unfold lampDue
  split <;> rfl

theorem flushStep_mem {k : Core} : (flushStep k).mem = k.mem := by
  unfold flushStep
  split
  · split <;> rfl
  · rfl

theorem mxRestart_mem {k : Core} : (mxRestart k).mem = k.mem := by
  unfold mxRestart
  dsimp only
  split
  · split
    · exact flushStep_mem
    · rfl
  · rfl

namespace Keeps
variable {s₀ s t : State}

theorem lampDue (h : Keeps s₀ s) {c : CoreId} {n d : Nat} : Keeps s₀ (Machine.modCore c (Machine.lampDue n d) s) :=
  h.modCore fun k hk => by rwa [lampDue_mem]

/-! ### Halts and resets -/

theorem failJob (h : Keeps s₀ s) {id : Nat} {f : JobFail} : Keeps s₀ (Machine.failJob id f s) := h.modJob
theorem endPart (h : Keeps s₀ s) {id : Nat} {c : CoreId} : Keeps s₀ (Machine.endPart id c s) := h.modJob

theorem haltAddr (h : Keeps s₀ s) {c : CoreId} {x : HaltCond} : Keeps s₀ (Machine.haltAddr x c s).2 := by
  unfold Machine.haltAddr
  dsimp only
  split
  · exact h
  · exact h.takeFree

theorem haltComplete (h : Keeps s₀ s) {c : CoreId} : Keeps s₀ (Machine.haltComplete c s) := by
  unfold Machine.haltComplete
  extract_lets k
  split
  · refine .ite h ?_
    extract_lets x a written failed
    have hfailed : Keeps s₀ failed := .ite (forAll h.haltAddr.modCore fun _ _ hu => hu.failJob) h.haltAddr.modCore
    exact .ite hfailed.postFor (.ite hfailed.postFor hfailed)
  · exact h

theorem mxRedo (h : Keeps s₀ s) {c : CoreId} : Keeps s₀ (Machine.mxRedo c s) := by
  unfold Machine.mxRedo
  dsimp only
  split
  · exact h
  · exact h.modMx.modStarted.stemStart

theorem restartCore (h : Keeps s₀ s) {c : CoreId} : Keeps s₀ (Machine.restartCore c s) := by
  unfold Machine.restartCore
  split
  · refine .ite (mxRedo (h.modCore fun k hk => ?_)) h
    rwa [mxRestart_mem]
  · exact h

theorem landExternal (h : Keeps s₀ s) {c : CoreId} : Keeps s₀ (Machine.landExternal c s) := h.forAll fun _ _ hu => hu.dxPerform
theorem stemReset (h : Keeps s₀ s) {c : CoreId} : Keeps s₀ (Machine.stemReset c s) := h.forAll fun _ _ hu => hu.releaseSlots
theorem holdAbort (h : Keeps s₀ s) {c : CoreId} : Keeps s₀ (Machine.holdAbort c s) := h.modFx

theorem resetBody (h : Keeps s₀ s) {c : CoreId} : Keeps s₀ (Machine.resetBody c s) :=
  h.landExternal.stemReset.modCore.holdAbort.haloReset.progress.flushOwed

theorem coreReset (h : Keeps s₀ s) {c : CoreId} : Keeps s₀ (Machine.coreReset c s) :=
  resetBody (h.forAll fun _ _ hu => hu.failJob.endPart)

theorem ensureReset (h : Keeps s₀ s) {c : CoreId} : Keeps s₀ (Machine.ensureReset c s) := .ite h h.coreReset

theorem coreResetDone (h : Keeps s₀ s) {c : CoreId} : Keeps s₀ (Machine.coreResetDone c s) := by
  unfold Machine.coreResetDone
  split
  · exact .ite h h.atTime.modCore
  · exact h

theorem coreRequested (h : Keeps s₀ s) {c : CoreId} {bits : BitVec 3} : Keeps s₀ (Machine.coreRequested c bits s) := h.modCore
theorem snuffCore (h : Keeps s₀ s) {c : CoreId} {cause : Nat} : Keeps s₀ (Machine.snuffCore c cause s) := h.raiseHalt

theorem writeCoreCtrl (h : Keeps s₀ s) {c : CoreId} {val : Word} : Keeps s₀ (Machine.writeCoreCtrl c val s) :=
  .ite h (.ite h.coreRequested.ensureReset (.ite h.coreRequested.snuffCore (.ite h.coreRequested.restartCore h)))

theorem ackAll (h : Keeps s₀ s) {c : CoreId} {ch : ChanId} {n : Nat} : Keeps s₀ (Machine.ackAll c ch n s) := by
  induction n generalizing s with
  | zero => exact h
  | succ n ih => exact ih h.dxTransferAck

theorem landChannel (h : Keeps s₀ s) {c : CoreId} {ch : ChanId} : Keeps s₀ (Machine.landChannel c ch s) := by
  unfold Machine.landChannel
  split
  · exact h
  · exact h.spend.modDxRun.ackAll.dxSnuffComplete.flushOwed

theorem runOut (h : Keeps s₀ s) {c : CoreId} {n : Nat} : Keeps s₀ (Machine.runOut c n s) := by
  induction n generalizing s with
  | zero => exact h
  | succ n ih => exact .ite h (ih (.ite h.mxPassFormation.swapIn h.mxPassFormation.runCycle))

theorem drainHalt (h : Keeps s₀ s) {c : CoreId} : Keeps s₀ (Machine.drainHalt c s) := by
  have hvec : ∀ f ∈ [Machine.vecSnuffComplete c .vx, Machine.vecSnuffComplete c .wx], ∀ u, Keeps s₀ u → Keeps s₀ (f u) :=
    List.forall_mem_cons.mpr ⟨fun _ hu => hu.vecSnuffComplete, List.forall_mem_singleton.mpr fun _ hu => hu.vecSnuffComplete⟩
  unfold Machine.drainHalt
  extract_lets rows drained
  have hrows : ∀ u, Keeps s₀ u → Keeps s₀ (rows u) := fun _ hu => hu.runOut.mxSnuffComplete.together hvec
  have hland : ∀ f ∈ (List.finRange 4).map (Machine.landChannel c), ∀ u, Keeps s₀ u → Keeps s₀ (f u) :=
    List.forall_mem_map.mpr fun _ _ _ hu => hu.landChannel
  have hdrained : Keeps s₀ drained := h.together (List.forall_mem_cons.mpr ⟨hrows, hland⟩)
  exact hdrained.fxStop.haltComplete

theorem snuffNow (h : Keeps s₀ s) {c : CoreId} {cause : Nat} : Keeps s₀ (Machine.snuffNow c cause s) := h.snuffCore.drainHalt

theorem setStall (h : Keeps s₀ s) {g n : Nat} : Keeps s₀ (Machine.setStall g n s) := h.forAll fun _ _ hu => hu.modCore

theorem stallCycle (h : Keeps s₀ s) : Keeps s₀ (Machine.stallCycle s) := h.forAll fun _ _ hu => hu.setStall

theorem stallHalt (h : Keeps s₀ s) {g : Nat} : Keeps s₀ (Machine.stallHalt g s) :=
  forAll (setStall (h.setTime.forAll fun _ _ hu => hu.countCredit)) fun _ _ hu => hu.raiseHalt

theorem stallExpiry (h : Keeps s₀ s) {c : CoreId} : Keeps s₀ (Machine.stallExpiry c s) := by
  unfold Machine.stallExpiry
  dsimp only
  split
  · exact h.stallHalt
  · exact h

/-! ### FX commands -/

theorem fxSend (h : Keeps s₀ s) {c : CoreId} : Keeps s₀ (Machine.fxSend c s) := by
  unfold Machine.fxSend
  split
  · exact h
  · exact .ite h h.modFxRun.modRegion

theorem fxStart (h : Keeps s₀ s) {c : CoreId} : Keeps s₀ (Machine.fxStart c s) := by
  unfold Machine.fxStart
  dsimp only
  split
  · exact h
  · refine .ite h (.ite h.modFx.progress.raiseHalt ?_)
    split
    · exact h.modFx.progress.raiseHalt
    · exact h.modFx.progress.modFx.fxSend

theorem fxSpurious (h : Keeps s₀ s) {c : CoreId} : Keeps s₀ (Machine.fxSpurious c s) := h.modFx
theorem fxAnswer (h : Keeps s₀ s) {c : CoreId} {r : FxRun} {n : Nat} {beats : List (BitVec 256)} : Keeps s₀ (Machine.fxAnswer c r n beats s) :=
  h.modFxRun.fxWrite

theorem fxDone (h : Keeps s₀ s) {c : CoreId} {n : Nat} {beats : List (BitVec 256)} : Keeps s₀ (Machine.fxDone c n beats s) := by
  unfold Machine.fxDone
  split
  · exact .ite h h.fxSpurious
  · exact .ite h.fxFault (.ite h.fxAnswer.modFxRun.fxFlush.fxFault h.fxAnswer.modFxRun)

theorem fxErr (h : Keeps s₀ s) {c : CoreId} {code : Byte} {n : Nat} {beats : List (BitVec 256)} : Keeps s₀ (Machine.fxErr c code n beats s) := by
  unfold Machine.fxErr
  split
  · exact h.fxSpurious
  · exact .ite h.fxFault (.ite h.fxAnswer.fxFlush.modFx.fxFault h.fxAnswer.fxFlush.modFx.fxFault)

theorem fxComplete (h : Keeps s₀ s) {c : CoreId} : Keeps s₀ (Machine.fxComplete c s) := by
  unfold Machine.fxComplete
  dsimp only
  split
  · exact h.modFx.progress.postTokens
  · split
    · exact .ite h h.fxFinish
    · exact h

theorem fxFaultFound (h : Keeps s₀ s) {c : CoreId} {f : FxFinding} : Keeps s₀ (Machine.fxFaultFound c f s) := by
  unfold Machine.fxFaultFound
  split
  · exact h
  · exact .ite h h.fxFault

theorem fxSnuffComplete (h : Keeps s₀ s) {c : CoreId} : Keeps s₀ (Machine.fxSnuffComplete c s) := by
  unfold Machine.fxSnuffComplete
  split
  · exact h.modFx
  · exact .ite h.fxSnuffed h

theorem fxSnuffTimeout (h : Keeps s₀ s) {c : CoreId} : Keeps s₀ (Machine.fxSnuffTimeout c s) := by
  unfold Machine.fxSnuffTimeout
  dsimp only
  split
  · exact h
  · exact .ite h h.atTime.initialValues.postRecord.fxSnuffed

theorem fxRecheck (h : Keeps s₀ s) {c : CoreId} : Keeps s₀ (Machine.fxRecheck c s) := by
  unfold Machine.fxRecheck
  split
  · exact h
  · refine .ite h ?_
    split
    · exact h.modFx.raiseHalt
    · exact h.modFx.fxSend

theorem cmdReady (h : Keeps s₀ s) {z : RegionId} (e : execCmdReady z s = .next t) : Keeps s₀ t := by
  cases e
  refine .ite h ?_
  dsimp only
  split
  · exact h.modRegion.fxSend
  · exact h.modRegion

/-! ### Mailboxes -/

theorem modMb (h : Keeps s₀ s) {m : MboxId} {f : Mailbox → Mailbox} : Keeps s₀ (Machine.modMb m f s) := .ite h.modPart h.setHost

theorem reply (h : Keeps s₀ s) {m : MboxId} {st d : Nat} {r : List Byte} : Keeps s₀ (Machine.reply m st d r s) :=
  .ite h.modMb.setPtInt h.modMb.setSmInt

theorem takeRequest (h : Keeps s₀ s) : Keeps s₀ (Machine.takeRequest s) :=
  { mem := h.mem, pins := h.pins, idle := fun hs => by
      unfold Machine.takeRequest
      rw [h.idle hs, List.tail_nil] }

theorem drainLoop (h : Keeps s₀ s) {n : Nat} : Keeps s₀ (Machine.drainLoop n s) := by
  induction n generalizing s with
  | zero => exact h
  | succ n ih =>
    unfold Machine.drainLoop
    split
    · exact h
    · split
      · exact h
      · exact ih h.takeRequest.reply

theorem drain (h : Keeps s₀ s) : Keeps s₀ (Machine.drain s) := .ite h.drainLoop h

theorem serve (h : Keeps s₀ s) {op : Nat} {sub : Option Nat} {act : MboxId → PartId → List Byte → State → State}
    (hact : ∀ m p b u, Keeps s₀ u → Keeps s₀ (act m p b u)) : Keeps s₀ (Machine.serve op sub act s) := by
  unfold Machine.serve
  dsimp only
  split
  · exact h.drain
  · exact .ite (hact _ _ _ _ h.drain.takeRequest).drain h.drain

theorem mbAckWrite (h : Keeps s₀ s) {m : MboxId} : Keeps s₀ (Machine.mbAckWrite m s) := h.modMb

/-! ### Jobs -/

theorem clearTagFault (h : Keeps s₀ s) {tag : Nat} : Keeps s₀ (Machine.clearTagFault tag s) := h.setHost
theorem useWaits (h : Keeps s₀ s) {p : PartId} {b : List Byte} : Keeps s₀ (Machine.useWaits p b s) := h.forAll fun _ _ hu => hu.useKey

theorem readPacket (h : Keeps s₀ s) {q : HostQueue} {k : Nat} : Keeps s₀ (Machine.readPacket q k s).2 := by
  unfold Machine.readPacket
  split
  next heq => exact h.hostTranslate.of_snd heq
  next heq =>
    split
    next heq' => exact (h.hostTranslate.of_snd heq).meetsErr.of_snd heq'
    next heq' => exact (h.hostTranslate.of_snd heq).meetsErr.of_snd heq'

theorem jobAdmission (h : Keeps s₀ s) {qid : Nat} : Keeps s₀ (Machine.jobAdmission qid s) := by
  unfold Machine.jobAdmission
  split
  · exact h
  · refine .ite h ?_
    split
    next heq => exact (h.readPacket.of_snd heq).queueError.settle
    next heq =>
      have hread := h.readPacket.of_snd heq
      split
      · exact hread.headEnd.settle
      · exact settle (modQueue (useWaits (.ite hread.clearTagFault hread)))

theorem saveCore (h : Keeps s₀ s) {c : CoreId} : Keeps s₀ (Machine.saveCore c s) := .ite h h.modJob.modCore

theorem fillBank (h : Keeps s₀ s) {c : CoreId} {bank : Bool} {handle j : Nat} {prog : ProgSlot} :
    Keeps s₀ (Machine.fillBank c bank handle prog j s).2 := by
  unfold Machine.fillBank
  extract_lets bs bad filled
  have hfilled : Keeps s₀ filled := (h.modBank fun _ hm => memStore_wf _ _ hm).freshWords.spend
  split
  · exact hfilled.tagBank
  · exact hfilled.tagBank

theorem flipBank (h : Keeps s₀ s) {c : CoreId} : Keeps s₀ (Machine.flipBank c s) := h.modCtl

theorem placeSegment (h : Keeps s₀ s) {c : CoreId} {handle j : Nat} {prog : ProgSlot} :
    Keeps s₀ (Machine.placeSegment c handle prog j s).2 := by
  unfold Machine.placeSegment
  dsimp only
  split
  · exact h
  · split
    · exact h.flipBank
    · split
      next heq => exact (h.modCtl.fillBank.of_snd heq).flipBank
      next heq => exact h.modCtl.fillBank.of_snd heq

theorem startOn (h : Keeps s₀ s) {j : Job} {prog : ProgSlot} {c src : CoreId} : Keeps s₀ (Machine.startOn j prog c src s) := by
  unfold Machine.startOn
  dsimp only
  split
  · exact h.saveCore.modCtl.raiseHalt
  · have hready : ∀ f : Core → Core, (∀ k : Core, k.mem.wf → (f k).mem.wf) → Keeps s₀ (Machine.freshWords (.dmem c) [(pkShapeOff prog.package, 16)]
        (Machine.freshWords (.dmem c) [(pkBaseOff prog.package, 8)] (Machine.progress c (Machine.modCore c f
          (Machine.modCtl c (fun x => { x with
            running := false, job := j.id, part := j.part, tag := j.tag, wait := .none, ended := false, overran := false, seen := false, seg := none })
            (Machine.saveCore c s)))))) :=
      fun f hf => (h.saveCore.modCtl.modCore hf).progress.freshWords.freshWords
    have hwritten := hready (fun k => { k with
      toks := clearRange k.allocs[j.part] k.toks
      sc := Vector.replicate 16 0
      queues := k.queues.map (fun q => { q with overrun := q.overrun &&& ~~~ (BitVec.ofNat 8 (2 ^ j.part.val)) })
      mem := { k.mem with dmem := memStore (memStore k.mem.dmem (pkShapeOff prog.package)
        (shapeRecord (pktShape j.packet) j.variant)) (pkBaseOff prog.package) (leBytes 8 prog.va) } }) (by
      rintro k ⟨hcore, hacc, hwbuf, hcurve, hdmem, hbanks⟩
      exact ⟨hcore, hacc, hwbuf, hcurve, memStore_wf _ _ (memStore_wf _ _ hdmem), hbanks⟩)
    split
    · exact hwritten
    · split
      next heq => exact (hwritten.placeSegment.of_snd heq).modCtl
      next heq => exact (hwritten.placeSegment.of_snd heq).failJob

theorem bufferTable (h : Keeps s₀ s) {q : HostQueue} {b : List Byte} : Keeps s₀ (Machine.bufferTable q b s).2 := by
  unfold Machine.bufferTable
  split
  next heq => exact h.hostReadFor.of_snd heq
  next heq => exact h.hostReadFor.of_snd heq

theorem startJob (h : Keeps s₀ s) {e : EntryId} {q : HostQueue} {b : List Byte} {plan : StartPlan} : Keeps s₀ (Machine.startJob e q b plan s) := by
  unfold Machine.startJob
  exact h.bufferTable.setHost.modQueue.forAll fun _ _ hu => hu.startOn

theorem jobPull (h : Keeps s₀ s) {c : CoreId} {qid : Nat} : Keeps s₀ (Machine.jobPull c qid s) := by
  unfold Machine.jobPull
  split
  · exact h
  · split
    · exact h
    · refine .ite h ?_
      split
      · exact h.setHost.headEnd.settle
      · exact .ite h.startJob.endIdles h

theorem bankSwitchPoint (h : Keeps s₀ s) {c : CoreId} {x : SwitchPoint} {target : BitVec 17} (e : execBankSwitchPoint c x target s = .next t) :
    Keeps s₀ t := by
  cases e
  refine .ite h ?_
  split
  · exact h.switchPoint
  · exact h.modCtl.raiseHalt

theorem bankReady (h : Keeps s₀ s) {c : CoreId} : Keeps s₀ (Machine.bankReady c s) := by
  unfold Machine.bankReady
  dsimp only
  split
  · exact h.modCtl
  · refine .ite h.tagBank.modCtl ?_
    split
    next heq => exact (h.modCtl.fillBank.of_snd heq).modCtl
    next heq => exact (h.modCtl.fillBank.of_snd heq).failJob

theorem releaseCores (h : Keeps s₀ s) {j : Job} : Keeps s₀ (Machine.releaseCores j s) :=
  h.forAll fun _ _ hu => hu.modCore fun k hk => by split <;> exact hk

theorem unloadSlot (h : Keeps s₀ s) {i : Fin 64} : Keeps s₀ (Machine.unloadSlot i s) := by
  unfold Machine.unloadSlot
  exact (h.forAll fun _ _ hu => hu.modCore).setHost

theorem finishDestroy (h : Keeps s₀ s) {qid : Nat} : Keeps s₀ (Machine.finishDestroy qid s) := by
  unfold Machine.finishDestroy
  split
  · exact h
  · split
    · exact h
    · exact .ite h h.setHost.reply

theorem leaveDemoted (h : Keeps s₀ s) {j : Job} : Keeps s₀ (Machine.leaveDemoted j s) := .ite h.modRun h

theorem jobOut (h : Keeps s₀ s) {j : Job} {c : Completion} : Keeps s₀ (Machine.jobOut j c s) := by
  unfold Machine.jobOut
  extract_lets illegal c' finished host safety removed
  have hremoved : Keeps s₀ removed := by
    have hfinished : Keeps s₀ finished := h.releaseCores.leaveDemoted.jobFinish
    exact hfinished.of_eq rfl
  exact .ite hremoved.unloadSlot hremoved

theorem jobComplete (h : Keeps s₀ s) {j : Job} {c : Completion} : Keeps s₀ (Machine.jobComplete j c s) :=
  h.jobOut.writeBackAll.settle.finishDestroy

theorem dualFailed (h : Keeps s₀ s) {j : Job} {d : Nat} : Keeps s₀ (Machine.dualFailed j d s) := by
  unfold Machine.dualFailed
  exact h.postFor.setSafety.forAll fun _ _ hu => hu.lampDue

theorem jobEnd (h : Keeps s₀ s) {id : Nat} : Keeps s₀ (Machine.jobEnd id s) := by
  unfold Machine.jobEnd
  split
  · exact h
  · refine .ite h (.ite h.jobComplete ?_)
    split
    · exact h.dualFailed.jobComplete
    · exact h.dualFailed.jobComplete
    · exact h.jobComplete

theorem stopJob (h : Keeps s₀ s) {cause fc : Nat} {j : Job} : Keeps s₀ (Machine.stopJob cause fc j s) :=
  forAll (modJob (h.forAll fun _ _ hu => hu.snuffNow)) fun _ _ hu => hu.ensureReset

theorem endJobs (h : Keeps s₀ s) {js : List Job} : Keeps s₀ (Machine.endJobs js s) := by
  refine forAll (settle (writeBackAll (h.forAll fun j u hu => ?_))) fun _ _ hu => hu.finishDestroy
  split
  · exact hu.jobOut
  · exact hu

theorem killJobs (h : Keeps s₀ s) {js : List Job} {cause fc : Nat} : Keeps s₀ (Machine.killJobs js cause fc s) :=
  endJobs (h.forAll fun _ _ hu => hu.stopJob)

theorem discardPacket (h : Keeps s₀ s) {q : HostQueue} {k : Nat} : Keeps s₀ (Machine.discardPacket q k s) := by
  unfold Machine.discardPacket
  split
  · exact h.signalRefs
  next heq => exact (h.readPacket.of_snd heq).signalRefs
  next heq => exact h.readPacket.of_snd heq

theorem discardQueues (h : Keeps s₀ s) {qs : List HostQueue} : Keeps s₀ (Machine.discardQueues qs s) :=
  writeBackAll (h.forAll fun _ _ hu => modQueue (hu.forAll fun _ _ hv => hv.discardPacket))

theorem discardQueue (h : Keeps s₀ s) {q : HostQueue} : Keeps s₀ (Machine.discardQueue q s) := h.discardQueues
theorem disableQueue (h : Keeps s₀ s) {qid : Nat} : Keeps s₀ (Machine.disableQueue qid s) := h.modQueue

/-! ### The host's objects -/

theorem mbCapsRead (h : Keeps s₀ s) {m : MboxId} {p : PartId} {b : List Byte} : Keeps s₀ (Machine.mbCapsRead m p b s) := by
  unfold Machine.mbCapsRead
  dsimp only
  split
  · exact h.hostTranslate.reply
  · exact h.hostTranslate.storeAfter.reply

theorem mbQueueCreate (h : Keeps s₀ s) {m : MboxId} {p : PartId} {b : List Byte} : Keeps s₀ (Machine.mbQueueCreate m p b s) := by
  unfold Machine.mbQueueCreate
  dsimp only
  split
  · exact h.reply
  · exact .ite h.reply h.setHost.reply

theorem mbQueueDestroy (h : Keeps s₀ s) {m : MboxId} {p : PartId} {b : List Byte} : Keeps s₀ (Machine.mbQueueDestroy m p b s) := by
  unfold Machine.mbQueueDestroy
  split
  · exact h.reply
  · exact .ite h.reply (.ite h.reply h.disableQueue.discardQueue.settle.modQueue.finishDestroy)

theorem doorbellWrite (h : Keeps s₀ s) {p : PartId} {val : Word} : Keeps s₀ (Machine.doorbellWrite p val s) := by
  unfold Machine.doorbellWrite
  dsimp only
  split
  · exact h.modPart.setPtInt
  · exact .ite h (.ite h.modPart.setPtInt h.modQueue)

theorem mbAsidAttach (h : Keeps s₀ s) {m : MboxId} {p : PartId} {b : List Byte} : Keeps s₀ (Machine.mbAsidAttach m p b s) :=
  .ite h.reply h.setHost.reply

theorem orphanFence (h : Keeps s₀ s) {asid : Nat} {p : PartId} {addr : Nat} : Keeps s₀ (Machine.orphanFence asid p addr s) := by
  unfold Machine.orphanFence
  dsimp only
  split
  · exact h.useFence
  · exact .ite (.ite h.useFence h.useFence.modFence.fenceChanged) h.useFence

theorem passFence (h : Keeps s₀ s) {addr : Nat} : Keeps s₀ (Machine.passFence addr s) := by
  unfold Machine.passFence
  split
  · exact h
  · refine .ite h ?_
    split
    · exact h.setHost
    · exact h.useFence.modFence.writeThrough

theorem dropProxy (h : Keeps s₀ s) {p : PartId} {fid : Nat} : Keeps s₀ (Machine.dropProxy p fid s) := by
  unfold Machine.dropProxy
  split
  · exact h
  · exact setHost (.ite h.sendFence h)

theorem dropRegs (h : Keeps s₀ s) {gone : FenceReg → Bool} : Keeps s₀ (Machine.dropRegs gone s) :=
  h.setHost.forAll fun _ _ hu => .ite hu.dropProxy hu.passFence

theorem cancelProxies (h : Keeps s₀ s) {gone : Proxy → Bool} {st : Nat} : Keeps s₀ (Machine.cancelProxies gone st s) := by
  refine h.setHost.forAll fun x u hu => ?_
  split
  · exact hu.reply
  · exact hu

theorem flushAsid (h : Keeps s₀ s) {asid : Nat} : Keeps s₀ (Machine.flushAsid asid s) := h.setHost

theorem revokeAsid (h : Keeps s₀ s) {p : PartId} {asid : Nat} : Keeps s₀ (Machine.revokeAsid p asid s) := by
  unfold Machine.revokeAsid
  extract_lets mine host verified disabled killed discarded orphaned dropped unloaded ringed
  have hverified : Keeps s₀ verified := by
    unfold verified
    split
    · exact .ite h.setHost.reply h
    · exact h
  have hdisabled : Keeps s₀ disabled := hverified.forAll fun _ _ hu => hu.disableQueue
  have hkilled : Keeps s₀ killed := hdisabled.killJobs
  have hdiscarded : Keeps s₀ discarded := hkilled.discardQueues.settle
  have horphaned : Keeps s₀ orphaned := settle (hdiscarded.forAll fun _ _ hu => hu.orphanFence)
  have hdropped : Keeps s₀ dropped := horphaned.cancelProxies.dropRegs
  have hunloaded : Keeps s₀ unloaded := hdropped.forAll fun _ _ hu => hu.unloadSlot
  have hringed : Keeps s₀ ringed := hunloaded.modPart
  exact hringed.setHost.flushAsid

theorem mbAsidRevoke (h : Keeps s₀ s) {m : MboxId} {p : PartId} {b : List Byte} : Keeps s₀ (Machine.mbAsidRevoke m p b s) := h.revokeAsid.reply

theorem tlbInvWrite (h : Keeps s₀ s) {p : PartId} {val : Word} : Keeps s₀ (Machine.tlbInvWrite p val s) := .ite h h.setHost

theorem loadBytes (h : Keeps s₀ s) {p : PartId} {asid va limit : Nat} : Keeps s₀ (Machine.loadBytes p asid va limit s).2 := by
  unfold Machine.loadBytes
  dsimp only
  split
  · exact h
  · split
    next heq => exact h.hostReadFor.of_snd heq
    next heq =>
      have hhead := h.hostReadFor.of_snd heq
      split
      · exact hhead
      · split
        next heq' => exact hhead.hostRead.of_snd heq'
        next heq' =>
          split
          · exact (hhead.hostRead.of_snd heq').hostRead
          · exact hhead.hostRead.of_snd heq'

theorem mbProgramLoad (h : Keeps s₀ s) {m : MboxId} {p : PartId} {b : List Byte} : Keeps s₀ (Machine.mbProgramLoad m p b s) := by
  refine .ite h.reply ?_
  split
  next heq => exact (h.loadBytes.of_snd heq).reply
  next heq => exact (h.loadBytes.of_snd heq).setHost

theorem admitPackage (h : Keeps s₀ s) {v : Verify} : Keeps s₀ (Machine.admitPackage v s) := by
  unfold Machine.admitPackage
  split
  next i a _ _ =>
    refine reply (freshWords ?_)
    exact (h.setStaging (memStore_wf a (storeBytes v.bytes))).of_eq rfl
  · exact h.reply

theorem packageVerifyEnd (h : Keeps s₀ s) (e : execPackageVerifyEnd s = .next t) : Keeps s₀ t := by
  cases e
  split
  · exact h
  · dsimp only
    split
    · exact h.setHost.reply
    · exact h.setHost.admitPackage

theorem mbProgramUnload (h : Keeps s₀ s) {m : MboxId} {p : PartId} {b : List Byte} : Keeps s₀ (Machine.mbProgramUnload m p b s) := by
  unfold Machine.mbProgramUnload
  dsimp only
  split
  · exact h.reply
  · exact .ite h.reply (.ite h.reply h.unloadSlot.reply)

theorem addReg (h : Keeps s₀ s) {p : PartId} {fid asid addr : Nat} : Keeps s₀ (Machine.addReg p fid asid addr s) := h.setHost

theorem fenceRegister (h : Keeps s₀ s) {m : MboxId} {p : PartId} {b : List Byte} : Keeps s₀ (Machine.fenceRegister m p b s) := by
  unfold Machine.fenceRegister
  dsimp only
  split
  next heq => exact (h.hostTranslate.of_snd heq).reply
  next heq =>
    have htrans := h.hostTranslate.of_snd heq
    split
    · exact htrans.reply
    · refine .ite htrans.reply ?_
      split
      · exact htrans.reply
      · split
        · exact htrans.addReg.reply
        · exact htrans.setHost.writeThrough.addReg.reply

theorem fenceRelease (h : Keeps s₀ s) {m : MboxId} {p : PartId} {b : List Byte} : Keeps s₀ (Machine.fenceRelease m p b s) :=
  .ite h.reply (.ite h.reply h.dropRegs.reply)

theorem fenceClearError (h : Keeps s₀ s) {m : MboxId} {p : PartId} {b : List Byte} : Keeps s₀ (Machine.fenceClearError m p b s) := by
  unfold Machine.fenceClearError
  split
  · exact h.reply
  · dsimp only
    split
    · exact h.useFence.reply
    · exact .ite h.useFence.reply (.ite h.useFence.reply h.useFence.modFence.fenceChanged.settle.reply)

theorem fenceRegisterProxy (h : Keeps s₀ s) {m : MboxId} {p : PartId} {b : List Byte} : Keeps s₀ (Machine.fenceRegisterProxy m p b s) := by
  refine .ite h.reply (.ite h.reply (.ite h.reply ?_))
  split
  · exact h.reply
  · exact h.setHost.sendFence

theorem fencePortSignal (h : Keeps s₀ s) {p : PartId} {hi : Word} : Keeps s₀ (Machine.fencePortSignal p hi s) := by
  unfold Machine.fencePortSignal
  dsimp only
  split
  · exact h.modPart
  · exact h.signalKey.settle

theorem fenceIoError (h : Keeps s₀ s) {x : FenceAccess} (e : execFenceIoError x s = .next t) : Keeps s₀ t := by
  cases e
  split
  · exact h
  · exact settle (.ite h.fenceUnread h.fenceFail)

theorem frCtrlWrite (h : Keeps s₀ s) {p : PartId} {val : Word} : Keeps s₀ (Machine.frCtrlWrite p val s) :=
  .ite h.modPart (.ite h h.modPart)

theorem frTailWrite (h : Keeps s₀ s) {p : PartId} {val : Word} : Keeps s₀ (Machine.frTailWrite p val s) := .ite h h.modPart

end Keeps

end Sys2Proof.Machine
end

section
-- One declaration after another: fewer threads, so that the check of the whole text keeps within its memory.
set_option Elab.async false
/-! PROOFS. Requests of the mailboxes that make and destroy queues, address spaces, packages and fences (R255, R256, R269, R270, R274, R282, R283,
R290, R291, R346, R413). -/
namespace Sys2Proof.Machine
open Sys2Proof

section
variable {op : Nat} {sub : Option Nat} {m : MboxId} {p : PartId} {b : List Byte} {s u : State}

/-- Behind the one request sent nothing waits, where its meaning brings none. -/
theorem serve_idle (h : Requested op sub m p b s u) {act : MboxId → PartId → List Byte → State → State} (hact : Keeps u (act m p b u)) :
    serve op sub act s = act m p b u := by
  rw [serve_requested h]
  obtain ⟨-, -, -, -, -, -, -, hu⟩ := h
  exact drain_of_sent_nil (hact.idle (by rw [hu]))

/-- Taking a request changes nothing but the list of those that wait. -/
theorem Requested.taken (h : Requested op sub m p b s u) : u = { s with host := { s.host with sent := [] } } := h.2.2.2.2.2.2.2

/-! ### Queues (R270, R291) -/

theorem mbQueueCreate_free {qid : Nat} (hfree : lowestFree (u.host.queues.map (fun q => q.qid)) 256 = some qid)
    (hquota : u.host.queues.countP (fun q => decide (q.part = p)) < (u.host.parts[p]).queueQuota) :
    mbQueueCreate m p b u = reply m 0 0 (leBytes 1 qid) { u with host := { u.host with queues := u.host.queues ++
      [⟨qid, p, argAsid b, (u.host.parts[p]).secure, arg b 8 8, arg b 16 8, arg b 24 1, .enabled, 0, 0, none, none⟩] } } := by
  unfold mbQueueCreate
  simp only [hfree, if_neg (Nat.not_le.mpr hquota)]
  rfl

theorem mbQueueCreate_full (hquota : (u.host.parts[p]).queueQuota ≤ u.host.queues.countP (fun q => decide (q.part = p))) :
    mbQueueCreate m p b u = reply m 4 0 [] u := by
  unfold mbQueueCreate
  dsimp only
  split
  · rfl
  · exact if_pos hquota

theorem mbQueueDestroy_foreign {q : HostQueue} (hq : findQueue u (arg b 8 1) = some q) (hp : q.part ≠ p) :
    mbQueueDestroy m p b u = reply m 2 0 [] u := by
  unfold mbQueueDestroy
  rw [hq]
  exact if_pos hp

theorem mbQueueDestroy_own {q : HostQueue} (hq : findQueue u (arg b 8 1) = some q) (hp : q.part = p) (hd : q.destroy = none) :
    mbQueueDestroy m p b u = finishDestroy q.qid (modQueue q.qid (fun q => { q with destroy := some m })
      (settle (discardQueue q (disableQueue q.qid u)))) := by
  unfold mbQueueDestroy
  rw [hq]
  exact (if_neg (not_not.mpr hp)).trans (if_neg (by simp [hd]))

/-! ### Address spaces (R274, R290) -/

theorem mbAsidAttach_free (h : ∀ a ∈ u.host.asids, a.asid ≠ argAsid b) : mbAsidAttach m p b u = reply m 0 0 []
    { u with host := { u.host with asids := u.host.asids ++ [⟨argAsid b, p, (u.host.parts[p]).secure, arg b 8 8⟩] } } :=
  if_neg (by simpa using h)

theorem mbAsidAttach_used (h : ∃ a ∈ u.host.asids, a.asid = argAsid b) : mbAsidAttach m p b u = reply m 5 0 [] u :=
  if_pos (by simpa using h)

/-- A revoked ASID is attached to nobody. -/
theorem revokeAsid_asids {asid : Nat} : ∀ a ∈ (revokeAsid p asid u).host.asids, a.asid ≠ asid := by
  intro a ha
  unfold revokeAsid flushAsid at ha
  exact of_decide_eq_true (List.mem_filter.mp ha).2

/-- A revoked ASID is in no translation cache. -/
theorem revokeAsid_tlb {asid : Nat} : ∀ e ∈ (revokeAsid p asid u).host.tlb, e.asid ≠ asid := by
  intro e he
  unfold revokeAsid flushAsid at he
  exact of_decide_eq_true (List.mem_filter.mp he).2

theorem reply_asids {st d : Nat} {r : List Byte} : (reply m st d r u).host.asids = u.host.asids := by
  unfold reply modMb
  by_cases hm : m.val < 8
  · simp only [hm, if_true]; rfl
  · simp only [hm, if_false]; rfl

theorem reply_tlb {st d : Nat} {r : List Byte} : (reply m st d r u).host.tlb = u.host.tlb := by
  unfold reply modMb
  by_cases hm : m.val < 8
  · simp only [hm, if_true]; rfl
  · simp only [hm, if_false]; rfl

end

end Sys2Proof.Machine

open Sys2Proof Sys2Proof.Machine

/-- Settles O34: each request is its meaning at once, since nothing that it does sends another. -/
theorem queueAndAsidRequests : Obligations.QueueAndAsidRequests := by
  intro m p b s u
  refine ⟨fun h qid hfree hquota => ?_, fun h hquota => ?_, fun h q hq => ⟨fun hp => ?_, fun hp hd => ?_⟩, fun h hasid => ?_, fun h hasid => ?_,
    fun h => ?_⟩
  · obtain rfl := h.taken
    exact congrArg Host.Outcome.next ((serve_idle h (Keeps.refl _).mbQueueCreate).trans (mbQueueCreate_free hfree hquota))
  · obtain rfl := h.taken
    exact congrArg Host.Outcome.next ((serve_idle h (Keeps.refl _).mbQueueCreate).trans (mbQueueCreate_full hquota))
  · exact congrArg Host.Outcome.next ((serve_idle h (Keeps.refl _).mbQueueDestroy).trans (mbQueueDestroy_foreign hq hp))
  · exact congrArg Host.Outcome.next ((serve_idle h (Keeps.refl _).mbQueueDestroy).trans (mbQueueDestroy_own hq hp hd))
  · obtain rfl := h.taken
    exact congrArg Host.Outcome.next ((serve_idle h (Keeps.refl _).mbAsidAttach).trans (mbAsidAttach_free hasid))
  · obtain rfl := h.taken
    exact congrArg Host.Outcome.next ((serve_idle h (Keeps.refl _).mbAsidAttach).trans (mbAsidAttach_used hasid))
  · refine ⟨_, congrArg Host.Outcome.next (serve_idle h (Keeps.refl _).mbAsidRevoke), rfl, ?_, ?_, ?_⟩
    · intro a ha
      exact revokeAsid_asids a (reply_asids ▸ ha)
    · intro e he
      exact revokeAsid_tlb e (reply_tlb ▸ he)
    · exact congrArg (fun x => x.replyValid) (mbOf_reply ..)
end

section
-- One declaration after another: fewer threads, so that the check of the whole text keeps within its memory.
set_option Elab.async false
/-! PROOFS. Requests of the mailboxes, continued: packages are loaded, verified and unloaded (R255, R256, R269). -/
namespace Sys2Proof.Machine
open Sys2Proof

section
variable {m : MboxId} {p : PartId} {b : List Byte} {u : State}

theorem mbProgramLoad_busy (h : u.host.verify.isSome = true) : mbProgramLoad m p b u = reply m 1 0 [] u := if_pos h

theorem mbProgramLoad_read {bs : List Byte} {v : State} (hidle : u.host.verify = none)
    (hread : loadBytes p (argAsid b) (arg b 8 8) (arg b 16 4) u = (some bs, v)) :
    mbProgramLoad m p b u = { v with host := { v.host with verify := some ⟨m, (mbOf v m).req, p, argAsid b, bs⟩ } } := by
  unfold mbProgramLoad
  rw [if_neg (by simp [hidle]), hread]

theorem admitPackage_placed {v : Verify} {i : Fin 64} {a : Nat}
    (hslot : (List.finRange 64).find? (fun i : Fin 64 => (u.host.slots[i]).part.isNone) = some i)
    (hplace : storePlace u (storeBytes v.bytes).length = some a) :
    admitPackage v u = reply v.mbox 0 0 (leBytes 4 (((u.host.slots[i]).count + 1) % 2 ^ 26 * 64 + i.val))
      (freshWords .staging [(a, (storeBytes v.bytes).length)] { u with
        staging := memStore u.staging a (storeBytes v.bytes)
        host := { u.host with slots := u.host.slots.set i ⟨((u.host.slots[i]).count + 1) % 2 ^ 26, v.asid, some v.part, v.bytes,
          arg (reqBytes v.req) 8 8, a⟩ } }) := by
  unfold admitPackage
  simp only [hslot, hplace]
  rfl

theorem mbProgramUnload_used {x : ProgSlot} (hx : progOf u (arg b 8 4) = some x) (hp : x.part = some p)
    (hused : slotInUse u (arg b 8 4 % 64) = true) : mbProgramUnload m p b u = reply m 5 0 [] u := by
  unfold mbProgramUnload
  simp only [hx]
  exact (if_neg (not_not.mpr hp)).trans (if_pos hused)

theorem mbProgramUnload_free {x : ProgSlot} (hx : progOf u (arg b 8 4) = some x) (hp : x.part = some p)
    (hfree : slotInUse u (arg b 8 4 % 64) = false) : mbProgramUnload m p b u = reply m 0 0 [] (unloadSlot (fin 64 (arg b 8 4)) u) := by
  unfold mbProgramUnload
  simp only [hx]
  exact (if_neg (not_not.mpr hp)).trans (if_neg (Bool.eq_false_iff.mp hfree))

theorem mbProgramUnload_unknown (hx : progOf u (arg b 8 4) = none) : mbProgramUnload m p b u = reply m 3 0 [] u := by
  unfold mbProgramUnload
  simp only [hx]
  rfl

/-- The state in which a verification has ended. -/
abbrev verified (u : State) : State := { u with host := { u.host with verify := none } }

theorem exec_packageVerifyEnd_failed {v : Verify} {d : Nat} (h : u.host.verify = some v)
    (hd : verifyPackage (verified u) v.part (arg (reqBytes v.req) 16 4) v.bytes = some d) :
    exec .packageVerifyEnd u = .next (reply v.mbox 8 d [] (verified u)) := by
  change execPackageVerifyEnd u = _
  unfold execPackageVerifyEnd
  simp only [h, hd]
  rfl

theorem exec_packageVerifyEnd_passed {v : Verify} (h : u.host.verify = some v)
    (hd : verifyPackage (verified u) v.part (arg (reqBytes v.req) 16 4) v.bytes = none) :
    exec .packageVerifyEnd u = .next (admitPackage v (verified u)) := by
  change execPackageVerifyEnd u = _
  unfold execPackageVerifyEnd
  simp only [h, hd]

end

end Sys2Proof.Machine

open Sys2Proof Sys2Proof.Machine

/-- Settles O35: the requests are their meanings at once, and the end of a verification goes by the check that failed or the slot that was free. -/
theorem packageRequests : Obligations.PackageRequests := by
  intro m p b s u
  refine ⟨fun h hbusy => ?_, fun h hidle bs v hread => ?_, ?_, fun h x hx hp => ⟨fun hused => ?_, fun hfree => ?_⟩, fun h hx => ?_⟩
  · obtain rfl := h.taken
    exact congrArg Host.Outcome.next ((serve_idle h (Keeps.refl _).mbProgramLoad).trans (mbProgramLoad_busy hbusy))
  · obtain rfl := h.taken
    exact congrArg Host.Outcome.next ((serve_idle h (Keeps.refl _).mbProgramLoad).trans (mbProgramLoad_read hidle hread))
  · rintro v w hv rfl
    refine ⟨fun d hd => ?_, fun i a hpass hslot hplace => ?_⟩
    · exact exec_packageVerifyEnd_failed hv hd
    · exact (exec_packageVerifyEnd_passed hv hpass).trans (congrArg Host.Outcome.next (admitPackage_placed (u := verified s) hslot hplace))
  · exact congrArg Host.Outcome.next ((serve_idle h (Keeps.refl _).mbProgramUnload).trans (mbProgramUnload_used hx hp hused))
  · exact congrArg Host.Outcome.next ((serve_idle h (Keeps.refl _).mbProgramUnload).trans (mbProgramUnload_free hx hp hfree))
  · exact congrArg Host.Outcome.next ((serve_idle h (Keeps.refl _).mbProgramUnload).trans (mbProgramUnload_unknown hx))
end

section
-- One declaration after another: fewer threads, so that the check of the whole text keeps within its memory.
set_option Elab.async false
/-! PROOFS. Requests of the mailboxes, continued: fences (R282, R283, R346, R413). -/
namespace Sys2Proof.Machine
open Sys2Proof

section
variable {m : MboxId} {p : PartId} {b : List Byte} {u v : State}

/-- With no registration of its own, a record's registration goes on to the record. -/
theorem ownReg_none {addr asid : Nat} (h : ∀ r ∈ u.host.regs, r.addr = addr → r.home = none → ¬ (r.part = p ∧ r.asid = asid)) :
    (u.host.regs.filter (fun r => decide (r.addr = addr) && r.home.isNone)).find? (fun r => decide (r.part = p ∧ r.asid = asid)) = none := by
  rw [List.find?_eq_none]
  intro r hr
  obtain ⟨hmem, hthis⟩ := List.mem_filter.mp hr
  simp only [Bool.and_eq_true, decide_eq_true_eq, Option.isNone_iff_eq_none] at hthis
  simpa using h r hmem hthis.1 hthis.2

theorem fenceRegister_known {addr fid : Nat} {f : Fence}
    (hread : hostTranslate p (u.host.parts[p]).secure (argAsid b) (arg b 16 8) true u = (some addr, v))
    (hown : ∀ r ∈ v.host.regs, r.addr = addr → r.home = none → ¬ (r.part = p ∧ r.asid = argAsid b)) (hfid : freeFid v p = some fid)
    (hf : findFence v addr = some f) : fenceRegister m p b u = reply m 0 0 (leBytes 2 fid ++ [1]) (addReg p fid (argAsid b) addr v) := by
  have hnone := ownReg_none hown
  unfold fenceRegister
  simp only [hread, hnone, hfid, hf]
  rfl

theorem fenceRegister_new {addr fid : Nat}
    (hread : hostTranslate p (u.host.parts[p]).secure (argAsid b) (arg b 16 8) true u = (some addr, v))
    (hown : ∀ r ∈ v.host.regs, r.addr = addr → r.home = none → ¬ (r.part = p ∧ r.asid = argAsid b)) (hfid : freeFid v p = some fid)
    (hf : findFence v addr = none) (hlow : memNat v.dram addr 16 / 2 ^ 66 % 2 ^ 14 = 0) (hhigh : memNat v.dram addr 16 / 2 ^ 95 = 0) :
    fenceRegister m p b u = reply m 0 0 (leBytes 2 fid ++ [0]) (addReg p fid (argAsid b) addr
      (writeThrough addr { v with host := { v.host with
      fences := v.host.fences ++ [⟨addr, BitVec.ofNat 64 (memNat v.dram addr 16), (memNat v.dram addr 16).testBit 64,
        (memNat v.dram addr 16).testBit 65, argAsid b, p, (v.host.parts[p]).secure, v.links.addr.toNat, [], true⟩] } })) := by
  have hnone := ownReg_none hown
  unfold fenceRegister
  simp only [hread, hnone, hfid, hf, hlow, hhigh]
  rfl

theorem fenceRelease_named (hreg : (findReg u p (arg b 10 2)).isSome = true) (hnamed : fidNamed u p (arg b 10 2) = true) :
    fenceRelease m p b u = reply m 5 0 [] u := by
  unfold fenceRelease
  exact (if_neg (by simpa using Option.isSome_iff_ne_none.mp hreg)).trans (if_pos hnamed)

theorem fenceRelease_free (hreg : (findReg u p (arg b 10 2)).isSome = true) (hnamed : fidNamed u p (arg b 10 2) = false) :
    fenceRelease m p b u = reply m 0 0 [] (dropRegs (fun r => decide (r.part = p ∧ r.fid = arg b 10 2)) u) := by
  unfold fenceRelease
  exact (if_neg (by simpa using Option.isSome_iff_ne_none.mp hreg)).trans (if_neg (Bool.eq_false_iff.mp hnamed))

theorem fenceClearError_own {r : FenceReg} {f : Fence} (hreg : findReg u p (arg b 10 2) = some r) (hhome : r.home = none)
    (hf : findFence (useFence r.addr u) r.addr = some f) (hasid : f.ownAsid = argAsid b) (hpart : f.ownPart = p) (herr : f.err = true) :
    fenceClearError m p b u = reply m 0 0 []
      (settle (fenceChanged r.addr (modFence r.addr (fun x => { x with err := false, ext := true }) (useFence r.addr u)))) := by
  unfold fenceClearError
  simp only [hreg, hhome, Option.isSome_none, Bool.false_eq_true, if_false, hf]
  exact (if_neg (by simp [hasid, hpart])).trans (if_neg (not_not.mpr herr))

theorem fenceClearError_foreign {r : FenceReg} {f : Fence} (hreg : findReg u p (arg b 10 2) = some r) (hhome : r.home = none)
    (hf : findFence (useFence r.addr u) r.addr = some f) (hown : f.ownAsid ≠ argAsid b ∨ f.ownPart ≠ p) :
    fenceClearError m p b u = reply m 2 0 [] (useFence r.addr u) := by
  unfold fenceClearError
  simp only [hreg, hhome, Option.isSome_none, Bool.false_eq_true, if_false, hf]
  exact if_pos hown

theorem fenceRegisterProxy_asks {fid : Nat} (hhome : arg b 9 1 ≠ u.links.addr.toNat) (hmember : bitAt u.links.members (arg b 9 1) = true)
    (hisland : islanded u = false) (hroute : routeCarries u (arg b 9 1) p = true) (hfid : freeFid u p = some fid) :
    fenceRegisterProxy m p b u = sendMsg 2 3 (arg b 9 1) (arg b 12 2) [BitVec.ofNat 8 p.val, BitVec.ofNat 8 (b2n (u.host.parts[p]).secure)]
      { u with host := { u.host with proxies := u.host.proxies ++ [⟨p, fid, argAsid b, arg b 9 1, arg b 12 2, 0, false, some (m, 0)⟩] } } := by
  unfold fenceRegisterProxy
  refine (if_neg hhome).trans ((if_neg (by simp [hmember, hisland])).trans ((if_neg (not_not.mpr hroute)).trans ?_))
  simp only [hfid]
  exact if_pos hroute

theorem fenceRegisterProxy_barred (hhome : arg b 9 1 ≠ u.links.addr.toNat) (hmember : bitAt u.links.members (arg b 9 1) = true)
    (hisland : islanded u = false) (hroute : routeCarries u (arg b 9 1) p = false) : fenceRegisterProxy m p b u = reply m 2 0 [] u := by
  unfold fenceRegisterProxy
  exact (if_neg hhome).trans ((if_neg (by simp [hmember, hisland])).trans (if_pos (Bool.eq_false_iff.mp hroute)))

end

end Sys2Proof.Machine

open Sys2Proof Sys2Proof.Machine

/-- Settles O36: each request is its meaning at once, by the record, the registration or the route that it meets. -/
theorem fenceRequests : Obligations.FenceRequests := by
  intro m p b s u
  refine ⟨fun h addr fid v hread hown hfid => ⟨fun f hf => ?_, fun hf hlow hhigh => ?_⟩, fun h hreg => ⟨fun hnamed => ?_, fun hnamed => ?_⟩, ?_,
    fun h fid hhome hmember hisland => ?_⟩
  · exact congrArg Host.Outcome.next ((serve_idle h (Keeps.refl _).fenceRegister).trans (fenceRegister_known hread hown hfid hf))
  · exact congrArg Host.Outcome.next ((serve_idle h (Keeps.refl _).fenceRegister).trans (fenceRegister_new hread hown hfid hf hlow hhigh))
  · exact congrArg Host.Outcome.next ((serve_idle h (Keeps.refl _).fenceRelease).trans (fenceRelease_named hreg hnamed))
  · exact congrArg Host.Outcome.next ((serve_idle h (Keeps.refl _).fenceRelease).trans (fenceRelease_free hreg hnamed))
  · rintro h r f v hreg hhome rfl hf
    refine ⟨fun hasid hpart herr => ?_, fun hown => ?_⟩
    · exact congrArg Host.Outcome.next ((serve_idle h (Keeps.refl _).fenceClearError).trans (fenceClearError_own hreg hhome hf hasid hpart herr))
    · exact congrArg Host.Outcome.next ((serve_idle h (Keeps.refl _).fenceClearError).trans (fenceClearError_foreign hreg hhome hf hown))
  · obtain rfl := h.taken
    refine ⟨fun hroute hfid => ?_, fun hroute => ?_⟩
    · exact congrArg Host.Outcome.next ((serve_idle h (Keeps.refl _).fenceRegisterProxy).trans
        (fenceRegisterProxy_asks hhome hmember hisland hroute hfid))
    · exact congrArg Host.Outcome.next ((serve_idle h (Keeps.refl _).fenceRegisterProxy).trans
        (fenceRegisterProxy_barred hhome hmember hisland hroute))
end

section
-- One declaration after another: fewer threads, so that the check of the whole text keeps within its memory.
set_option Elab.async false
/-! PROOFS. The invariants of every step, continued: the fabric. -/
namespace Sys2Proof.Machine
open Sys2Proof

namespace Keeps
variable {s₀ s t : State}

theorem modFabric (h : Keeps s₀ s) {f : Fabric → Fabric}
    (hf : ∀ x : Fabric, (f x).regions = x.regions := by exact fun _ => rfl) : Keeps s₀ (Machine.modFabric f s) :=
  h.setFabric fun z hz => by rwa [hf]

/-- What happens to a core beside a region, where the region has one. -/
theorem beside (h : Keeps s₀ s) {z : RegionId} {f : CoreId → State → State} (hf : ∀ c, Keeps s₀ (f c s)) :
    Keeps s₀ (if hz : z.val < 6 then f ⟨z.val, hz⟩ s else s) := by
  split
  · exact hf _
  · exact h

theorem loadFail (h : Keeps s₀ s) {code frame : Nat} : Keeps s₀ (Machine.loadFail code frame s) := by
  unfold Machine.loadFail
  split
  · exact h
  next l _ =>
    extract_lets frame' detail ended region posted checked
    have hended : Keeps s₀ ended := h.modFabric
    have hregion : Keeps s₀ region := hended.modRegion
    have hposted : Keeps s₀ posted := hregion.postRecord.bumpGen.setGint
    have hchecked : Keeps s₀ checked := hposted.beside (f := Machine.fxRecheck) fun _ => hposted.fxRecheck
    exact .ite hchecked.reply hchecked

theorem takeHeader (h : Keeps s₀ s) {bs : List Byte} : Keeps s₀ (Machine.takeHeader bs s) := by
  unfold Machine.takeHeader
  split
  · exact h
  · extract_lets taken
    have htaken : Keeps s₀ taken := h.modFabric
    split
    · exact htaken.loadFail
    · exact htaken

theorem enterLoad (h : Keeps s₀ s) {l : FbLoad} : Keeps s₀ (Machine.enterLoad l s) := by
  unfold Machine.enterLoad
  refine bumpGen (modFabric (h.atTime.modRegion fun r _ => ?_))
  exact ⟨memory_nil_wf, memory_nil_wf⟩

theorem fabricLoad (h : Keeps s₀ s) {m : MboxId} {p : PartId} {b : List Byte} : Keeps s₀ (Machine.fabricLoad m p b s) := by
  unfold Machine.fabricLoad
  dsimp only
  split
  · exact h.reply
  · split
    next heq => exact (h.enterLoad.hostRead.of_snd heq).loadFail
    next heq => exact (h.enterLoad.hostRead.of_snd heq).takeHeader

theorem fabricUnload (h : Keeps s₀ s) {m : MboxId} {p : PartId} {b : List Byte} : Keeps s₀ (Machine.fabricUnload m p b s) := by
  unfold Machine.fabricUnload
  dsimp only
  split
  · exact h.reply
  · refine reply (bumpGen (h.modRegion fun r _ => ?_))
    exact ⟨memory_nil_wf, memory_nil_wf⟩

theorem fabricAbort (h : Keeps s₀ s) {m : MboxId} {p : PartId} {b : List Byte} : Keeps s₀ (Machine.fabricAbort m p b s) := by
  unfold Machine.fabricAbort
  split
  · exact .ite h.loadFail.reply h.reply
  · exact h.reply

theorem cfgCmdWrite (h : Keeps s₀ s) {val : Word} : Keeps s₀ (Machine.cfgCmdWrite val s) := by
  unfold Machine.cfgCmdWrite
  extract_lets commanded
  have hcommanded : Keeps s₀ commanded := h.modFabric
  split
  · exact .ite hcommanded hcommanded.enterLoad
  · exact .ite hcommanded.loadFail hcommanded

theorem cfgDataPush (h : Keeps s₀ s) {hi : Word} : Keeps s₀ (Machine.cfgDataPush hi s) := by
  unfold Machine.cfgDataPush
  split
  · split
    · exact .ite h.loadFail h
    · exact h
  · extract_lets pushed
    have hpushed : Keeps s₀ pushed := h.modFabric
    split
    · exact .ite hpushed.modFabric.takeHeader hpushed
    · exact hpushed

theorem nextFrame (h : Keeps s₀ s) {l : FbLoad} : Keeps s₀ (Machine.nextFrame l s).2 := by
  unfold Machine.nextFrame
  split
  · split
    · exact h
    · split
      next heq => exact h.hostRead.of_snd heq
      next heq => exact h.hostRead.of_snd heq
  · split
    · exact h
    · dsimp only
      exact h.modFabric

theorem fabricFrame (h : Keeps s₀ s) {found : FrameFinding} : Keeps s₀ (Machine.fabricFrame found s) := by
  unfold Machine.fabricFrame
  split
  · exact h
  · split
    · exact h
    · refine .ite h ?_
      split
      next heq => exact h.nextFrame.of_snd heq
      next heq => exact (h.nextFrame.of_snd heq).loadFail
      next heq =>
        dsimp only
        split
        · exact (h.nextFrame.of_snd heq).loadFail
        · exact (modFabric (h.nextFrame.of_snd heq)).modRegion fun r hr => ⟨hr.1, memStore_wf _ _ hr.2⟩

theorem fabricRelease (h : Keeps s₀ s) : Keeps s₀ (Machine.fabricRelease s) := by
  unfold Machine.fabricRelease
  split
  · exact h
  · split
    · exact h
    next l _ x _ =>
      refine .ite h ?_
      extract_lets configured released checked
      have hconfigured : Keeps s₀ configured := by
        refine h.modRegion fun r hr => ?_
        unfold regionInitial
        exact ⟨memory_nil_wf, hr.2⟩
      have hreleased : Keeps s₀ released := hconfigured.finishScrub.modFabric.bumpGen.setGint
      have hchecked : Keeps s₀ checked := hreleased.beside (f := Machine.fxRecheck) fun _ => hreleased.fxRecheck
      exact .ite hchecked.reply hchecked

theorem fxLoses (h : Keeps s₀ s) {z : RegionId} {cause : Nat} : Keeps s₀ (Machine.fxLoses z cause s) := by
  unfold Machine.fxLoses
  split
  · exact .ite h h.fxFault
  · exact h

theorem failRegion (h : Keeps s₀ s) {z : RegionId} : Keeps s₀ (Machine.failRegion z s) := h.modRegion.bumpGen.fxLoses

theorem scanFails (h : Keeps s₀ s) {z : RegionId} {frame : Nat} : Keeps s₀ (Machine.scanFails z frame s) :=
  h.modFabric.postRecord.failRegion

theorem configScanMismatch (h : Keeps s₀ s) {z : RegionId} {frame : BitVec 12} (e : execConfigScanMismatch z frame s = .next t) : Keeps s₀ t := by
  cases e
  exact .ite h h.scanFails

theorem uclkWrite (h : Keeps s₀ s) {n : Fin 16} {val : Word} : Keeps s₀ (Machine.uclkWrite n val s) := .ite h.modFabric (.ite h h.modFabric)

theorem uclkLock (h : Keeps s₀ s) {n : Fin 16} (e : execUclkLock n s = .next t) : Keeps s₀ t := by
  cases e
  exact .ite h.modFabric h

theorem kioWrite (h : Keeps s₀ s) {secure : Bool} {n : Fin 64} {val : Word} : Keeps s₀ (Machine.kioWrite secure n val s) := .ite h h.modFabric
theorem modTimer (h : Keeps s₀ s) {k : Fin 4} {f : FbTimer → FbTimer} : Keeps s₀ (Machine.modTimer k f s) := h.modFabric
theorem timerWrite (h : Keeps s₀ s) {k : Fin 4} {val : Word} : Keeps s₀ (Machine.timerWrite k val s) := .ite h h.modTimer
theorem expire (h : Keeps s₀ s) {k : Fin 4} : Keeps s₀ (Machine.expire k s) := h.atTime.modTimer

theorem timerPeriodicExpiry (h : Keeps s₀ s) {k : Fin 4} (e : execTimerPeriodicExpiry k s = .next t) : Keeps s₀ t := by
  cases e
  exact .ite h.expire.modTimer h

theorem resetUserLogic (h : Keeps s₀ s) {z : RegionId} : Keeps s₀ (Machine.resetUserLogic z s) :=
  h.initialValues.beside (f := fun c => Machine.fxFault c 6 0) fun _ => h.initialValues.fxFault

theorem userWatchdogExpiry (h : Keeps s₀ s) {k : Fin 4} (e : execUserWatchdogExpiry k s = .next t) : Keeps s₀ t := by
  cases e
  exact .ite h h.expire.postRecord.resetUserLogic

theorem watchdogService (h : Keeps s₀ s) {k : Fin 4} (e : execWatchdogService k s = .next t) : Keeps s₀ t := by
  cases e
  exact .ite h.modTimer h

theorem bramUncorr (h : Keeps s₀ s) {z : RegionId} {port : Fin 96} {off : Nat} (e : execBramUncorr z port off s = .next t) : Keeps s₀ t := by
  cases e
  exact .ite h h.modRegion.ramUncorr

theorem giveStaging (h : Keeps s₀ s) {r : Fin 16} {p : PartId} : Keeps s₀ (Machine.giveStaging r p s) :=
  setSg (.ite h (h.setStaging (memZero_wf _ _)).freshWords)

theorem grant (h : Keeps s₀ s) {p : PartId} {kind i use : Nat} {z : RegionId} : Keeps s₀ (Machine.grant p kind i use z s) := by
  unfold Machine.grant
  dsimp only
  split
  · exact h.modFabric
  · exact h.modTimer
  · exact h.giveStaging

theorem resourceClaim (h : Keeps s₀ s) {m : MboxId} {p : PartId} {b : List Byte} : Keeps s₀ (Machine.resourceClaim m p b s) := by
  unfold Machine.resourceClaim
  dsimp only
  split
  · exact h.reply
  · exact h.grant.reply

theorem freeResource (h : Keeps s₀ s) {kind i : Nat} : Keeps s₀ (Machine.freeResource kind i s) := by
  unfold Machine.freeResource
  split
  · exact h.modFabric
  · exact h.modTimer
  · exact h.setSg

theorem resourceRelease (h : Keeps s₀ s) {m : MboxId} {p : PartId} {b : List Byte} : Keeps s₀ (Machine.resourceRelease m p b s) := by
  unfold Machine.resourceRelease
  dsimp only
  split
  · exact .ite h.reply (.ite h.reply h.freeResource.reply)
  · exact h.reply

theorem resourceQuery (h : Keeps s₀ s) {m : MboxId} {p : PartId} {b : List Byte} : Keeps s₀ (Machine.resourceQuery m p b s) := h.reply

theorem dropClaims (h : Keeps s₀ s) {p : PartId} : Keeps s₀ (Machine.dropClaims p s) :=
  (h.forAll fun _ _ hu => hu.freeResource).forAll fun _ _ hu => hu.freeResource

theorem claimSubTimer (h : Keeps s₀ s) : Keeps s₀ (Machine.claimSubTimer s) := h.modTimer

end Keeps

end Sys2Proof.Machine
end

section
-- One declaration after another: fewer threads, so that the check of the whole text keeps within its memory.
set_option Elab.async false
/-! PROOFS. Requests of the mailboxes, continued: loads of fabric regions and fabric resources (R371, R376 to R379). -/
namespace Sys2Proof.Machine
open Sys2Proof

section
variable {m : MboxId} {p : PartId} {b : List Byte} {s u v : State}

/-! ### The fabric beside a read of memory -/

/-- A read for the host side leaves the fabric. -/
theorem hostRead_fabric {secure : Bool} {asid va n : Nat} : (hostRead s secure asid va n).2.fabric = s.fabric := by
  obtain ⟨_, _, _, h⟩ := readBytes_changes s secure asid va n
  have hread : (readBytes s secure asid va n).2.fabric = s.fabric := by rw [h]
  exact forAll_inv (fun w : State => w.fabric = s.fabric) _ (fun _ _ hw => (securityFault_fabric ..).trans hw) _ _ hread

/-! ### Loads (R371) -/

theorem fabricLoad_refused {st : Nat} (h : fabricRefusal u p (argRegion b) = some st) : fabricLoad m p b u = reply m st 0 [] u := by
  unfold fabricLoad
  simp only [h]

theorem fabricLoad_header {bs : List Byte} (h : fabricRefusal u p (argRegion b) = none)
    (hread : hostRead (enterLoad ⟨1, argRegion b, m, p, argAsid b, arg b 16 8, arg b 24 4, none, 0, []⟩ u)
      ((enterLoad ⟨1, argRegion b, m, p, argAsid b, arg b 16 8, arg b 24 4, none, 0, []⟩ u).host.parts[p]).secure (argAsid b) (arg b 16 8) 64
        = (some bs, v)) : fabricLoad m p b u = takeHeader bs v := by
  unfold fabricLoad
  simp only [h, hread]

theorem takeHeader_good {bs : List Byte} {l : FbLoad} (hl : v.fabric.load = some l)
    (hgood : headerCheck { v.fabric with load := some { l with header := some bs, got := 64 } } bs l.region = none) :
    takeHeader bs v = modFabric (fun f => { f with load := some { l with header := some bs, got := 64 } }) v := by
  have hcheck : headerCheck (modFabric (fun f => { f with load := some { l with header := some bs, got := 64 } }) v).fabric bs l.region = none := hgood
  unfold takeHeader
  simp only [hl, hcheck]

theorem enterLoad_state (l : FbLoad) : ((enterLoad l u).fabric.regions[l.region]).state = 3 := by
  unfold enterLoad bumpGen modFabric
  dsimp only
  exact congrArg Region.state (updAt_get_same ..)

theorem fabricUnload_taken (h : fabricRefusal u p (argRegion b) = none) : fabricUnload m p b u = reply m 0 0 []
    (bumpGen (modRegion (argRegion b) (fun r => { r with
      state := 1, powered := false, cmdReady := false, extId := 0, bram := [], config := [], crcs := [], logic := Logic.cold }) u)) := by
  unfold fabricUnload
  simp only [h]
  rfl

theorem fabricAbort_running {l : FbLoad} (hl : u.fabric.load = some l) (hz : l.region = argRegion b) :
    fabricAbort m p b u = reply m 0 0 [] (loadFail 10 l.applied.length u) := by
  unfold fabricAbort
  simp only [hl, hz, if_true]
  rfl

theorem fabricAbort_none (hl : u.fabric.load = none) : fabricAbort m p b u = reply m 3 0 [] u := by
  unfold fabricAbort
  simp only [hl]
  rfl

/-! ### Resources (R376 to R379) -/

theorem resourceClaim_refused {st : Nat}
    (h : claimRefusal u m p (arg b 9 1) (arg b 10 1) (arg b 11 1) (fin 8 (arg b 12 1)) = some st) : resourceClaim m p b u = reply m st 0 [] u := by
  unfold resourceClaim
  simp only [h]

theorem resourceClaim_granted (h : claimRefusal u m p (arg b 9 1) (arg b 10 1) (arg b 11 1) (fin 8 (arg b 12 1)) = none) :
    resourceClaim m p b u = reply m 0 0 [] (grant p (arg b 9 1) (arg b 10 1) (arg b 11 1) (fin 8 (arg b 12 1)) u) := by
  unfold resourceClaim
  simp only [h]
  rfl

/-- A pin that is granted for use 0 or 1 names its use, its partition and, for use 0, the region. -/
theorem holderOf_grant_pin {i use : Nat} {z : RegionId} (huse : use < 2) :
    holderOf (grant p 1 i use z u) 1 i = some (use + 1, p.val, if use = 0 then z.val else 0) := by
  have hpin : (grant p 1 i use z u).fabric.pins[(fin 64 i : Fin 64)]
      = { use := BitVec.ofNat 2 (use + 1), region := if use = 0 then z else 0, part := p, secure := (u.host.parts[p]).secure } :=
    updAt_get_same ..
  unfold holderOf
  simp only [hpin]
  obtain rfl | rfl : use = 0 ∨ use = 1 := by omega
  · rfl
  · rfl

/-- The number of a claim's use, as the frame check leaves it. -/
theorem claimUse_lt {sub : Option Nat} (h : Requested 0xA0 sub m p b s u) (hkind : arg b 9 1 = 1) : arg b 11 1 < 2 := by
  obtain ⟨-, -, rfl, rfl, hop, -, hok, -⟩ := h
  have hargs := frameStatus_none_argsOk hok
  rw [hop] at hargs
  have hkind' : frameNum (reqBytes (mbOf s m).req) 9 1 = 1 := hkind
  simp only [argsOk, hkind', Bool.and_eq_true, decide_eq_true_eq] at hargs
  exact hargs.1.2.2

theorem resourceRelease_foreign {use owner region : Nat} (h : holderOf u (arg b 9 1) (arg b 10 1) = some (use, owner, region))
    (howner : owner ≠ p.val) : resourceRelease m p b u = reply m 2 0 [] u := by
  unfold resourceRelease
  simp only [h]
  exact if_pos howner

theorem resourceRelease_busy {use owner region : Nat} (h : holderOf u (arg b 9 1) (arg b 10 1) = some (use, owner, region))
    (howner : owner = p.val) (hbusy : releaseBusy u p (arg b 9 1) (arg b 10 1) = true) : resourceRelease m p b u = reply m 5 0 [] u := by
  unfold resourceRelease
  simp only [h]
  exact (if_neg (not_not.mpr howner)).trans (if_pos hbusy)

theorem resourceRelease_free {use owner region : Nat} (h : holderOf u (arg b 9 1) (arg b 10 1) = some (use, owner, region))
    (howner : owner = p.val) (hfree : releaseBusy u p (arg b 9 1) (arg b 10 1) = false) :
    resourceRelease m p b u = reply m 0 0 [] (freeResource (arg b 9 1) (arg b 10 1) u) := by
  unfold resourceRelease
  simp only [h]
  exact (if_neg (not_not.mpr howner)).trans (if_neg (Bool.eq_false_iff.mp hfree))

/-- A resource that is freed has no holder. -/
theorem holderOf_freeResource {kind i : Nat} : holderOf (freeResource kind i u) kind i = none := by
  unfold holderOf freeResource
  split
  · have hpin : (modFabric (fun f => { f with pins := updAt f.pins (fin 64 i) (fun _ =>
        { use := 0, region := 0, part := 0, secure := false }) }) u).fabric.pins[(fin 64 i : Fin 64)]
          = { use := 0, region := 0, part := 0, secure := false } := updAt_get_same ..
    simp only [hpin]
    rfl
  · have htimer := updAt_get_same u.fabric.timers (fin 4 i) (fun t : FbTimer => { t with
      use := 0, region := 0, part := 0, ll := false, secure := false, enable := false })
    simp only [modTimer, modFabric, htimer]
    rfl
  · simp only [updAt_get_same]
    rfl

theorem resourceQuery_held {use owner region : Nat} (h : holderOf u (arg b 9 1) (arg b 10 1) = some (use, owner, region)) :
    resourceQuery m p b u = reply m 0 0 (leBytes 1 use ++ leBytes 1 owner ++ leBytes 1 region) u := by
  unfold resourceQuery
  rw [h]
  rfl

theorem resourceQuery_free (h : holderOf u (arg b 9 1) (arg b 10 1) = none) : resourceQuery m p b u = reply m 0 0 [0, 0xFF, 0] u := by
  unfold resourceQuery
  rw [h]
  rfl

end

end Sys2Proof.Machine

open Sys2Proof Sys2Proof.Machine

/-- The fabric half of O38. -/
theorem fabricRequests (m : MboxId) (p : PartId) (b : List Byte) (s u : State) :
    (Requested 0x70 (some 0) m p b s u → ∀ st, fabricRefusal u p (argRegion b) = some st → exec .fabricLoad s = .next (reply m st 0 [] u)) ∧
    (Requested 0x70 (some 0) m p b s u → fabricRefusal u p (argRegion b) = none → ∀ (w v : State) (h : List Byte),
      w = enterLoad ⟨1, argRegion b, m, p, argAsid b, arg b 16 8, arg b 24 4, none, 0, []⟩ u →
      hostRead w (w.host.parts[p]).secure (argAsid b) (arg b 16 8) 64 = (some h, v) →
      exec .fabricLoad s = .next (takeHeader h v) ∧ (v.fabric.regions[argRegion b]).state = 3 ∧
      (∀ l, v.fabric.load = some l → headerCheck { v.fabric with load := some { l with header := some h, got := 64 } } h l.region = none →
        takeHeader h v = modFabric (fun f => { f with load := some { l with header := some h, got := 64 } }) v)) ∧
    (Requested 0x70 (some 1) m p b s u → fabricRefusal u p (argRegion b) = none → exec .fabricUnload s = .next (reply m 0 0 []
      (bumpGen (modRegion (argRegion b) (fun r => { r with
        state := 1, powered := false, cmdReady := false, extId := 0, bram := [], config := [], crcs := [], logic := Logic.cold }) u)))) ∧
    (Requested 0x70 (some 2) m p b s u → ∀ l, s.fabric.load = some l → l.region = argRegion b →
      exec .fabricLoadAbort s = .next (reply m 0 0 [] (loadFail 10 l.applied.length u))) ∧
    (Requested 0x70 (some 2) m p b s u → s.fabric.load = none → exec .fabricLoadAbort s = .next (reply m 3 0 [] u)) := by
  refine ⟨fun h st hst => ?_, ?_, fun h hfree => ?_, fun h l hl hz => ?_, fun h hl => ?_⟩
  · exact congrArg Host.Outcome.next ((serve_idle h (Keeps.refl _).fabricLoad).trans (fabricLoad_refused hst))
  · rintro h hfree w v bs rfl hread
    refine ⟨congrArg Host.Outcome.next ((serve_idle h (Keeps.refl _).fabricLoad).trans (fabricLoad_header hfree hread)), ?_,
      fun l hl hgood => takeHeader_good hl hgood⟩
    have hv : v.fabric = _ := (congrArg (fun x => x.2.fabric) hread).symm.trans hostRead_fabric
    rw [hv]
    exact enterLoad_state _
  · exact congrArg Host.Outcome.next ((serve_idle h (Keeps.refl _).fabricUnload).trans (fabricUnload_taken hfree))
  · obtain rfl := h.taken
    exact congrArg Host.Outcome.next ((serve_idle h (Keeps.refl _).fabricAbort).trans (fabricAbort_running hl hz))
  · obtain rfl := h.taken
    exact congrArg Host.Outcome.next ((serve_idle h (Keeps.refl _).fabricAbort).trans (fabricAbort_none hl))

/-- Settles O38: each request is its meaning at once; the frame check leaves a claim's use below 2, so that the pin's field holds it. -/
theorem fabricAndResourceRequests : Obligations.FabricAndResourceRequests := by
  refine ⟨fabricRequests, fun m p b s u => ⟨fun h => ⟨fun st hst => ?_, fun hfree => ⟨?_, fun hkind => ?_⟩⟩, fun h use owner region hheld =>
    ⟨fun howner => ?_, fun howner hbusy => ?_, fun howner hfree => ⟨?_, holderOf_freeResource⟩⟩, fun h => ?_⟩⟩
  · exact congrArg Host.Outcome.next ((serve_idle h (Keeps.refl _).resourceClaim).trans (resourceClaim_refused hst))
  · exact congrArg Host.Outcome.next ((serve_idle h (Keeps.refl _).resourceClaim).trans (resourceClaim_granted hfree))
  · exact holderOf_grant_pin (claimUse_lt h hkind)
  · exact congrArg Host.Outcome.next ((serve_idle h (Keeps.refl _).resourceRelease).trans (resourceRelease_foreign hheld howner))
  · exact congrArg Host.Outcome.next ((serve_idle h (Keeps.refl _).resourceRelease).trans (resourceRelease_busy hheld howner hbusy))
  · exact congrArg Host.Outcome.next ((serve_idle h (Keeps.refl _).resourceRelease).trans (resourceRelease_free hheld howner hfree))
  · refine (congrArg Host.Outcome.next (serve_idle h (Keeps.refl _).resourceQuery)).trans ?_
    split
    next heq => exact congrArg Host.Outcome.next (resourceQuery_held heq)
    next heq => exact congrArg Host.Outcome.next (resourceQuery_free heq)
end

section
-- One declaration after another: fewer threads, so that the check of the whole text keeps within its memory.
set_option Elab.async false
/-! PROOFS. Commands of the partition pages: doorbells, the fault ring and invalidations (R273, R275, R292). -/
namespace Sys2Proof.Machine
open Sys2Proof

section
variable {acc : Access} {p : PartId} {val : Word} {s : State}

/-! ### Doorbells (R275) -/

/-- A doorbell that is not taken. -/
abbrev doorbellRejected (p : PartId) (s : State) : State :=
  setPtInt p 0b10000 (modPart p (fun x => { x with dbReject := satAdd x.dbReject 1 }) s)

theorem doorbellWrite_unknown (h : findQueue s (fld val 0 8) = none) : doorbellWrite p val s = doorbellRejected p s := by
  unfold doorbellWrite
  simp only [h]

section
variable {q : HostQueue} {d : Nat} (hq : findQueue s (fld val 0 8) = some q) (hd : d = (fld val 16 16 + 65536 - q.submitted % 65536) % 65536)
include hq hd

theorem doorbellWrite_nothing (hzero : d = 0) : doorbellWrite p val s = s := by
  unfold doorbellWrite
  simp only [hq, ← hd]
  exact if_pos hzero

theorem doorbellWrite_taken (hsome : d ≠ 0) (hp : q.part = p) (hon : q.state = .enabled) (hroom : q.submitted + d ≤ q.pulled + 2 ^ q.log2n) :
    doorbellWrite p val s = modQueue q.qid (fun x => { x with submitted := x.submitted + d }) s := by
  unfold doorbellWrite
  simp only [hq, ← hd]
  refine (if_neg hsome).trans (if_neg ?_)
  have hpos := Nat.two_pow_pos q.log2n
  simp only [hp, hon, ne_eq, not_true_eq_false, false_or, not_lt]
  omega

theorem doorbellWrite_rejected (hsome : d ≠ 0) (h : q.part ≠ p ∨ q.state ≠ .enabled ∨ q.pulled + 2 ^ q.log2n < q.submitted + d) :
    doorbellWrite p val s = doorbellRejected p s := by
  unfold doorbellWrite
  simp only [hq, ← hd]
  refine (if_neg hsome).trans (if_pos ?_)
  obtain h | h | h := h
  · exact .inr (.inl h)
  · exact .inl h
  · have hpos := Nat.two_pow_pos q.log2n
    exact .inr (.inr (by omega))

end

/-! ### The fault ring (R292) -/

/-- A field that a mask leaves whole is the field of the word. -/
theorem fld_setWidth_and {n : Nat} {mask : BitVec n} {lo len : Nat} (h : ∀ i < len, mask.getLsbD (lo + i) = true) :
    fld (val.setWidth n &&& mask) lo len = fld val lo len := by
  refine Nat.eq_of_testBit_eq fun i => ?_
  simp only [fld, Nat.testBit_mod_two_pow, Nat.testBit_shiftRight, BitVec.testBit_toNat, BitVec.getLsbD_and, BitVec.getLsbD_setWidth]
  by_cases hi : i < len
  · have hn : lo + i < n := by
      by_contra hlarge
      exact absurd (BitVec.getLsbD_of_ge mask (lo + i) (by omega)) (by simp [h i hi])
    rw [h i hi, decide_eq_true hn, Bool.true_and, Bool.and_true]
  · simp [hi]

theorem bitAt_frWord : bitAt (val.setWidth 12 &&& (0xF7F : BitVec 12)) 0 = bitAt val 0 := by
  simp only [bitAt, BitVec.testBit_toNat, BitVec.getLsbD_and, BitVec.getLsbD_setWidth]
  simp

theorem fld_frWord_asid : fld (val.setWidth 12 &&& (0xF7F : BitVec 12)) 1 6 = fld val 1 6 := fld_setWidth_and (by decide)
theorem fld_frWord_size : fld (val.setWidth 12 &&& (0xF7F : BitVec 12)) 8 4 = fld val 8 4 := fld_setWidth_and (by decide)

/-- A change of a partition depends on what it makes of the partition as it stands. -/
theorem modPart_congr {f g : Partition → Partition} (h : f s.host.parts[p] = g s.host.parts[p]) : modPart p f s = modPart p g s := by
  unfold modPart updAt
  rw [h]

section
variable (hoff : bitAt (s.host.parts[p]).frCtrl 0 = false) (hon : bitAt val 0 = true)
include hoff hon

theorem frCtrlWrite_enable (hasid : asidOf s p (fld val 1 6) = true) (hlow : 7 ≤ fld val 8 4) (hhigh : fld val 8 4 ≤ 12) :
    frCtrlWrite p val s = modPart p (fun x => { x with frCtrl := val.setWidth 12 &&& 0xF7F, frHead := 0, frTail := 0 }) s := by
  unfold frCtrlWrite
  simp only [hoff, Bool.false_eq_true, if_false, bitAt_frWord, fld_frWord_asid, fld_frWord_size]
  exact (if_neg (not_not.mpr hon)).trans (if_neg fun h => h.elim (fun h => h hasid) (by omega))

theorem frCtrlWrite_ignored (hbad : asidOf s p (fld val 1 6) = false ∨ fld val 8 4 < 7 ∨ 12 < fld val 8 4) : frCtrlWrite p val s = s := by
  unfold frCtrlWrite
  simp only [hoff, Bool.false_eq_true, if_false, bitAt_frWord, fld_frWord_asid, fld_frWord_size]
  exact (if_neg (not_not.mpr hon)).trans (if_pos (hbad.imp_left Bool.eq_false_iff.mp))

end

/-- A ring that is switched off keeps its size. -/
theorem frCtrlWrite_disable (hon : bitAt (s.host.parts[p]).frCtrl 0 = true) (hoff : bitAt val 0 = false) :
    frCtrlWrite p val s = modPart p (fun x => { x with frCtrl := (val.setWidth 12 &&& 0x07F) ||| (x.frCtrl &&& 0xF00) }) s := by
  have hbit : bitAt (((val.setWidth 12 &&& (0xF7F : BitVec 12)) &&& (0x0FF : BitVec 12)) ||| ((s.host.parts[p]).frCtrl &&& (0xF00 : BitVec 12))) 0 = false := by
    have h0 : val.getLsbD 0 = false := hoff
    simp only [bitAt, BitVec.testBit_toNat, BitVec.getLsbD_or, BitVec.getLsbD_and, BitVec.getLsbD_setWidth, h0]
    simp
  have hmask : (0xF7F : BitVec 12) &&& (0x0FF : BitVec 12) = (0x07F : BitVec 12) := by decide
  unfold frCtrlWrite
  simp only [hon, if_true]
  refine (if_pos (Bool.eq_false_iff.mp hbit)).trans (modPart_congr ?_)
  rw [BitVec.and_assoc, hmask]

theorem frTailWrite_taken (h : (val - (s.host.parts[p]).frTail).toNat ≤ ((s.host.parts[p]).frHead - (s.host.parts[p]).frTail).toNat) :
    frTailWrite p val s = modPart p (fun x => { x with frTail := val }) s := if_neg (Nat.not_lt.mpr h)

theorem frTailWrite_ignored (h : ((s.host.parts[p]).frHead - (s.host.parts[p]).frTail).toNat < (val - (s.host.parts[p]).frTail).toNat) :
    frTailWrite p val s = s := if_pos h

/-! ### Invalidations (R273) -/

theorem tlbInvWrite_own (h : asidOf s p (fld val 0 6) = true) : tlbInvWrite p val s = { s with host := { s.host with
    tlbInv := s.host.tlbInv ++ [⟨p, fld val 0 6, bitAt val 6, (s.host.parts[p]).tlbVa.toNat / 4096⟩] } } := if_neg (not_not.mpr h)

theorem tlbInvWrite_foreign (h : asidOf s p (fld val 0 6) = false) : tlbInvWrite p val s = s := if_pos (by simp [h])

/-- The oldest invalidation of a page ends. -/
theorem exec_tlbInvalidateDone {a b : List TlbInv} {t : TlbInv} (hlist : s.host.tlbInv = a ++ t :: b) (ht : t.part = p) (ha : ∀ x ∈ a, x.part ≠ p) :
    exec (.tlbInvalidateDone p) s = .next { s with host := { s.host with
      tlbInv := a ++ b, tlb := s.host.tlb.filter (fun e => !(invalidated t e)) } } := by
  have hfind : s.host.tlbInv.find? (fun t => decide (t.part = p)) = some t := by
    rw [hlist, List.find?_append, List.find?_eq_none.mpr (by simpa using ha), List.find?_cons_of_pos (by simpa using ht)]
    rfl
  have hmem : t ∉ a := fun hmem => ha t hmem ht
  change execTlbInvalidateDone p s = _
  unfold execTlbInvalidateDone
  simp only [hfind]
  rw [hlist, List.erase_append_right _ hmem, List.erase_cons_head]

theorem not_invalidated_iff {t : TlbInv} {e : TlbEntry} :
    (!(invalidated t e)) = true ↔ ¬ (e.asid = t.asid ∧ (t.all = true ∨ e.index = t.page / 512 ^ e.below)) := by
  simp only [invalidated, Bool.not_eq_true', Bool.eq_false_iff, ne_eq, Bool.and_eq_true, Bool.or_eq_true, decide_eq_true_eq]

end

end Sys2Proof.Machine

open Sys2Proof Sys2Proof.Machine

/-- Settles O39: behind the world check each write is its function, whose branches are the cases of the statement. -/
theorem partitionPageCommands : Obligations.PartitionPageCommands := by
  refine ⟨fun acc p val s => ⟨fun h => ⟨fun hq => ?_, fun q d hq hd => ⟨fun hzero => ?_, fun hsome hp hon hroom => ?_, fun hsome hbad => ?_⟩⟩,
    fun h hoff => ⟨fun hon hasid hlow hhigh => ?_, fun hon hbad => ?_⟩, fun h hon hoff => ?_, fun h => ⟨fun hin => ?_, fun hout => ?_⟩⟩,
    fun acc p val s => ⟨fun h => ⟨fun hasid => ?_, fun hasid => ?_⟩, fun a b t hlist ht ha => ?_⟩⟩
  · exact congrArg Host.Outcome.next ((access_passes h).trans (doorbellWrite_unknown hq))
  · exact congrArg Host.Outcome.next ((access_passes h).trans (doorbellWrite_nothing hq hd hzero))
  · exact congrArg Host.Outcome.next ((access_passes h).trans (doorbellWrite_taken hq hd hsome hp hon hroom))
  · exact congrArg Host.Outcome.next ((access_passes h).trans (doorbellWrite_rejected hq hd hsome hbad))
  · exact congrArg Host.Outcome.next ((access_passes h).trans (frCtrlWrite_enable hoff hon hasid hlow hhigh))
  · exact congrArg Host.Outcome.next ((access_passes h).trans (frCtrlWrite_ignored hoff hon hbad))
  · exact congrArg Host.Outcome.next ((access_passes h).trans (frCtrlWrite_disable hon hoff))
  · exact congrArg Host.Outcome.next ((access_passes h).trans (frTailWrite_taken hin))
  · exact congrArg Host.Outcome.next ((access_passes h).trans (frTailWrite_ignored hout))
  · exact congrArg Host.Outcome.next ((access_passes h).trans (tlbInvWrite_own hasid))
  · exact congrArg Host.Outcome.next ((access_passes h).trans (tlbInvWrite_foreign hasid))
  · refine ⟨_, exec_tlbInvalidateDone hlist ht ha, rfl, fun e => ?_⟩
    exact List.mem_filter.trans (and_congr_right fun _ => not_invalidated_iff)
end

section
-- One declaration after another: fewer threads, so that the check of the whole text keeps within its memory.
set_option Elab.async false
/-! PROOFS. A fence's write-through behind an earlier write of its granules (O40). -/
namespace Sys2Proof.Machine
open Sys2Proof

/-- A cached fence of the record at 0x8000, of partition 0 and its ASID 1. -/
def plainFence : Fence := ⟨0x8000, 5, false, false, 1, 0, false, 0, [], true⟩

/-- Partition 0 has registered that fence as fid 0, and an earlier write of the record's granule is under way. -/
def signalledFence : State :=
  { modChan 0 0 (fun x => { x with run := some { haloReadRun with out := [pageWrite] } }) State.reset with
    sg := { State.reset.sg with issued := 1 }
    host := { State.reset.host with fences := [plainFence], regs := [⟨0, 0, 1, 0x8000, none⟩] } }

/-- The write is performed before the fence is written through. -/
theorem performedAfter_signalledFence : performedAfter (.fencePortSignal ⟨false, 0⟩ 0 6) signalledFence = some [0] := by decide +kernel

end Sys2Proof.Machine
open Sys2Proof Sys2Proof.Machine

/-- Refutes O40: the fence is written through behind an earlier write of its granules, which is performed first (R20). -/
theorem not_signalReachesFence : ¬ Obligations.SignalReachesFence := by
  unfold Obligations.SignalReachesFence
  rintro ⟨h, -⟩
  obtain ⟨-, -, hcached, -⟩ := h ⟨false, 0⟩ 0 6 signalledFence 0x600000000 (by decide +kernel) (by decide +kernel) (by decide +kernel)
  obtain ⟨hadvances, -⟩ := hcached 0x8000 plainFence (by decide +kernel) (by decide +kernel) rfl rfl
  have hexec := hadvances (by decide +kernel) (by decide +kernel)
  exact absurd ((performedAfter_next hexec).symm.trans performedAfter_signalledFence) (by decide +kernel)

end

section
-- One declaration after another: fewer threads, so that the check of the whole text keeps within its memory.
set_option Elab.async false
/-! PROOFS. A pull beside a running entry that has nothing to pull (O41). -/
namespace Sys2Proof.Machine
open Sys2Proof

/-- A package of one variant that covers every shape 0 and uses no core. -/
def coreless : List Byte := memBytes ([(21, [1]), (32, [128]), (136, List.replicate 6 0xFF)].foldl (fun m x => memStore m x.1 x.2) ([] : List (Nat × Byte))) 0 176

/-- The packet of queue 3's head: program handle 64, no ref. -/
def corelessPacket : List Byte := List.replicate 8 0 ++ [64] ++ List.replicate 11 0 ++ List.replicate 44 0xFF

/-- Queue 3 of partition 0 with that head. -/
def corelessQueue : HostQueue := ⟨3, 0, 1, false, 0, 0, 4, .enabled, 1, 0, some ⟨corelessPacket, []⟩, none⟩

/-- Entries 0 of partition 0 and 1 of partition 1 run on cores 0 and 1; only entry 0 has something to pull. -/
def twoEntries : State :=
  { modCore 0 (fun k => { k with powered := true }) State.reset with
    host := { State.reset.host with
      queues := [corelessQueue]
      slots := State.reset.host.slots.set 0 { ProgSlot.reset with count := 1, part := some 0, package := coreless } }
    tick := { State.reset.tick with
      active := (State.reset.tick.active.set 0 0x10000000000000011).set 1 0x10000000000000023
      runs := Vector.replicate 64 { EntryRun.reset with state := .running } } }

/-- The state of entry 1 after a command. -/
def entry1After (i : Instr) (s : State) : Option EntryState :=
  match exec i s with
  | .next t => some (runOf t 1).state
  | _ => none

theorem entry1After_next {i : Instr} {s t : State} (h : exec i s = .next t) : entry1After i s = some (runOf t 1).state := by
  rw [entry1After, h]

theorem entry1After_jobPull : entry1After (.jobPull 0 3) twoEntries = some .ended := by decide +kernel

/-- What entry 0 starts. -/
def corelessPlan : StartPlan := { prog := { ProgSlot.reset with count := 1, part := some 0, package := coreless }, variant := 0, cores := [], twins := [] }

theorem pullPlan_twoEntries : pullPlan twoEntries 0 corelessPacket = .ok corelessPlan := by rfl

end Sys2Proof.Machine
open Sys2Proof Sys2Proof.Machine

/-- Refutes O41: with the pull, another running entry that has nothing left to pull ends (R302). -/
theorem not_jobsFromAdmissionToEnd : ¬ Obligations.JobsFromAdmissionToEnd := by
  unfold Obligations.JobsFromAdmissionToEnd
  intro h
  obtain ⟨-, hpull, -⟩ := h twoEntries
  obtain ⟨hstarts, -⟩ := hpull 0 3 0 corelessQueue ⟨corelessPacket, []⟩ (by decide +kernel) (by decide +kernel) rfl rfl (by decide +kernel)
  obtain ⟨t, hexec, hstarted, -⟩ := hstarts corelessPlan pullPlan_twoEntries (fun d hd => absurd hd List.not_mem_nil)
  rw [hstarted] at hexec
  exact absurd ((entry1After_next hexec).symm.trans entry1After_jobPull) (by decide +kernel)

end

section
-- One declaration after another: fewer threads, so that the check of the whole text keeps within its memory.
set_option Elab.async false
/-! PROOFS. The tick (O44). -/
namespace Sys2Proof.Machine
open Sys2Proof

/-- What the end of a tick leaves: all but the gated arrays, the cores, the lamp monitor and the KSAFE pins. -/
structure TickEnds (s t : State) : Prop where
  time : t.time = s.time
  tick : t.tick = { s.tick with gated := t.tick.gated }
  log : t.safety.seq = s.safety.seq ∧ t.safety.logHead = s.safety.logHead ∧ t.safety.log = s.safety.log
  gint : t.bnd.gintStatus = s.bnd.gintStatus

namespace TickEnds
variable {s₀ s : State}

theorem refl (s : State) : TickEnds s s := ⟨rfl, rfl, ⟨rfl, rfl, rfl⟩, rfl⟩

theorem trans {t : State} (h : TickEnds s₀ s) (h' : TickEnds s t) : TickEnds s₀ t where
  time := h'.time.trans h.time
  tick := by rw [h'.tick, h.tick]
  log := ⟨h'.log.1.trans h.log.1, h'.log.2.1.trans h.log.2.1, h'.log.2.2.trans h.log.2.2⟩
  gint := h'.gint.trans h.gint

theorem gateArrays (s : State) : TickEnds s (gateArrays s) := by
  refine forAll_inv (TickEnds s) _ (fun c u hu => forAll_inv (TickEnds s) _ (fun a v hv => ?_) _ u hu) _ s (refl s)
  dsimp only
  split
  · exact hv
  · exact hv.trans ⟨rfl, rfl, ⟨rfl, rfl, rfl⟩, rfl⟩

theorem retainCores (s : State) : TickEnds s (retainCores s) := by
  refine forAll_inv (TickEnds s) _ (fun c u hu => ?_) _ s (refl s)
  dsimp only
  split
  · exact hu
  · exact hu.trans ⟨rfl, rfl, ⟨rfl, rfl, rfl⟩, rfl⟩

theorem armLamps (t : Nat) (s : State) : TickEnds s (armLamps t s) := by
  refine forAll_inv (TickEnds s) _ (fun c u hu => forAll_inv (TickEnds s) _ (fun a v hv => ?_) _ u hu) _ s (refl s)
  dsimp only
  split
  · exact hv
  · exact hv.trans ⟨rfl, rfl, ⟨rfl, rfl, rfl⟩, rfl⟩

theorem lampsDue (s : State) : TickEnds s (lampsDue s) := by
  refine forAll_inv (TickEnds s) _ (fun c u hu => ?_) _ s (refl s)
  split
  · exact hu
  · exact hu.trans ⟨rfl, rfl, ⟨rfl, rfl, rfl⟩, rfl⟩

theorem togglePoint (s : State) : TickEnds s (togglePoint s) := by
  refine ⟨rfl, rfl, ⟨rfl, rfl, rfl⟩, ?_⟩
  unfold Machine.togglePoint
  dsimp only
  split <;> rfl

/-- What a tick does after its entries begin anew. -/
theorem afterFresh (t : Nat) (s : State) :
    TickEnds (freshRuns s) (Machine.togglePoint (Machine.lampsDue (Machine.armLamps t (Machine.retainCores (Machine.gateArrays (freshRuns s)))))) :=
  (((gateArrays _).trans (retainCores _)).trans (armLamps t _)).trans ((lampsDue _).trans (togglePoint _))

end TickEnds

/-- The state of a tick at t as its entries begin anew. -/
def tickBegun (t : Nat) (s : State) : State :=
  let s := atTime t s
  let s := activate t (forAll (validEntries s) gutterAtTick s)
  let s := { s with tick := { s.tick with last := t, subAt := t, count := s.tick.count + 1, binDue := s.tick.binPend.isSome } }
  match s.tick.pendCfg with | some (w, p) => applyTickCfg w p s | none => s

theorem takeTick_ends (t : Nat) (s : State) : TickEnds (freshRuns (tickBegun t s)) (takeTick t s) := TickEnds.afterFresh t (tickBegun t s)

theorem applyTickCfg_last (w : Word) (p : BitVec 20) (s : State) :
    (applyTickCfg w p s).tick.last = s.tick.last ∧ (applyTickCfg w p s).tick.subAt = s.tick.subAt := by
  unfold applyTickCfg
  dsimp only
  split <;> exact ⟨rfl, rfl⟩

theorem tickBegun_last (t : Nat) (s : State) : (tickBegun t s).tick.last = t ∧ (tickBegun t s).tick.subAt = t := by
  unfold tickBegun
  dsimp only
  split
  · exact applyTickCfg_last _ _ _
  · exact ⟨rfl, rfl⟩

/-- The time of a tick is its last. -/
theorem takeTick_last (t : Nat) (s : State) : (takeTick t s).tick.last = t ∧ (takeTick t s).tick.subAt = t := by
  rw [(takeTick_ends t s).tick]
  exact tickBegun_last t s

/-- The state of a quiet tick at t as its entries begin anew. -/
def quietBegun (t : Nat) (s : State) : State :=
  { s with time := max s.time t, tick := { s.tick with last := t, subAt := t, count := s.tick.count + 1, binDue := s.tick.binPend.isSome } }

theorem gutterAtTick_quiet {e : EntryId} {s : State} (h : (runOf s e).state ≠ .pending ∧ (runOf s e).state ≠ .paused ∧ (runOf s e).state ≠ .running) :
    gutterAtTick e s = s := by
  obtain ⟨hpending, hpaused, hrunning⟩ := h
  unfold gutterAtTick
  split
  · exact absurd ‹_› hpending
  · exact absurd ‹_› hpaused
  · exact absurd ‹_› hrunning
  · rfl

theorem tickBegun_quiet (t : Nat) {s : State} (h : QuietTick s) : tickBegun t s = quietBegun t s := by
  obtain ⟨hruns, hcommit, hcfg⟩ := h
  have hnone : ∀ l, forAll l gutterAtTick (atTime t s) = atTime t s := fun l =>
    forAll_inv (· = atTime t s) gutterAtTick (fun e u hu => by subst hu; exact gutterAtTick_quiet (hruns e)) l _ rfl
  have hactivate : activate t (atTime t s) = atTime t s := by
    unfold activate
    rw [atTime_tick, hcommit]
  unfold tickBegun
  dsimp only
  rw [hnone, hactivate, atTime_tick]
  split
  · exact absurd (hcfg.symm.trans ‹_›) (by simp)
  · rfl

/-- A quiet tick: what it changes of the tick, its time, and that it posts nothing. -/
theorem takeTick_quiet (t : Nat) {s : State} (h : QuietTick s) : TickEnds (freshRuns (quietBegun t s)) (takeTick t s) :=
  tickBegun_quiet t h ▸ takeTick_ends t s

theorem freshRuns_state (s : State) (i : Fin 64) :
    ((freshRuns s).tick.runs[i]).state = if bitAt (s.tick.active[i]) 0 then .pending else .invalid := by
  have hmap : (freshRuns s).tick.runs[i] = { EntryRun.reset with state := if bitAt (s.tick.active[i]) 0 then .pending else .invalid } :=
    Vector.getElem_map ..
  rw [hmap]

/-! ### Ticks that are synthesised -/

theorem sendControl_frame (w : Option Word) (l : LinkId) (s : State) : ∃ p, sendControl w l s = { s with links := { s.links with ports := p } } := ⟨_, rfl⟩

/-- Control flits leave everything but the ports. -/
theorem sendControls_frame (w : Option Word) (l : List LinkId) (s : State) :
    ∃ p, forAll l (sendControl w) s = { s with links := { s.links with ports := p } } :=
  forAll_inv (fun t => ∃ p, t = { s with links := { s.links with ports := p } }) _ (fun i _ ⟨_, hp⟩ => hp ▸ sendControl_frame w i _) l s ⟨_, rfl⟩

theorem sendMarkers_ends (s : State) : TickEnds s (sendMarkers s) := by
  obtain ⟨p, hp⟩ := sendControls_frame (some (s.links.tickFwd + 1)) (markerPorts s) { s with links := { s.links with tickFwd := s.links.tickFwd + 1 } }
  have h : sendMarkers s = _ := hp
  rw [h]
  exact ⟨rfl, rfl, ⟨rfl, rfl, rfl⟩, rfl⟩

/-- A synthesised tick where nothing gutters. -/
theorem synthesise_quiet (t : Nat) {s : State} (h : QuietTick s) :
    TickEnds (freshRuns (quietBegun t (setGint 0x10 { s with tick := { s.tick with synth := satAdd s.tick.synth 1 } }))) (synthesise t s) := by
  have htick := takeTick_quiet t (s := setGint 0x10 { s with tick := { s.tick with synth := satAdd s.tick.synth 1 } }) h
  unfold synthesise
  dsimp only
  split
  · exact htick.trans (sendMarkers_ends _)
  · exact htick

/-- Such a tick posts nothing itself. -/
theorem synthesise_posted (t : Nat) {s w : State} {code : Nat} (h : QuietTick w) (hw : Posted s w code) : Posted s (synthesise t w) code := by
  obtain ⟨hseq, hhead, hlog⟩ := (synthesise_quiet t h).log
  exact hw.of_eq rfl rfl hseq hhead hlog

theorem bitAt_setGint4 (s : State) : bitAt (setGint 0x10 s).bnd.gintStatus 4 = true := by
  show ((s.bnd.gintStatus ||| 0x10).toNat.testBit 4) = true
  rw [BitVec.toNat_or, Nat.testBit_or]
  exact Bool.or_true _

/-- What a synthesised tick gives where nothing gutters. -/
theorem synthesise_quiet_tick (t : Nat) {s : State} (h : QuietTick s) :
    (synthesise t s).tick.state = s.tick.state ∧ (synthesise t s).tick.synth = satAdd s.tick.synth 1 ∧ (synthesise t s).tick.last = t ∧
    (synthesise t s).time = max s.time t ∧ bitAt (synthesise t s).bnd.gintStatus 4 = true := by
  have hends := synthesise_quiet t h
  have hgint : (synthesise t s).bnd.gintStatus = (setGint 0x10 s).bnd.gintStatus := hends.gint
  refine ⟨by rw [hends.tick]; rfl, by rw [hends.tick]; rfl, by rw [hends.tick]; rfl, hends.time, ?_⟩
  rw [hgint]
  exact bitAt_setGint4 s

/-! ### Source events -/

/-- A source event is taken, with its list shortened. -/
theorem tickSourceEvent_eq {s : State} {t : Nat} {rest : List Nat} (h : s.tick.raised = t :: rest) :
    tickSourceEvent s =
      (let s := { s with tick := { s.tick with raised := rest } }
      if s.tick.state = .stopped ∨ holdoverRoot s then s
      else if ¬ notEarly s t then { s with tick := { s.tick with early := satAdd s.tick.early 1 } }
      else if tickRoot s ∧ fld s.tick.ctrl 1 2 ≠ 3 then
        sendMarkers { s with links := { s.links with markerDue := some (t + nsec s.links.tickSys.toNat), markerAt := t } }
      else lockTick t s) := by
  unfold tickSourceEvent
  split
  · exact absurd (h.symm.trans ‹_›) (List.cons_ne_nil _ _)
  · obtain ⟨rfl, rfl⟩ := List.cons.inj (h.symm.trans ‹_›)
    rfl

theorem lockTick_locked (t : Nat) {s : State} (h : s.tick.state = .locked) : lockTick t s = takeTick t s := by
  have hself : { s.tick with state := TickState.locked } = s.tick := by rw [← h]
  unfold lockTick
  dsimp only
  rw [if_neg (by rw [h]; decide), hself]

theorem lockTick_holdover (t : Nat) {s : State} (h : s.tick.state = .holdover) : lockTick t s =
    takeTick t { postRecord { event := true, code := 0x04, detail := fld s.tick.ctrl 1 2 } s with tick := { s.tick with state := .locked } } := by
  unfold lockTick
  dsimp only
  rw [if_pos h, postRecord_tick]

/-- A source event that is not early, of an engine that is not the root, is the tick. -/
theorem tickSourceEvent_locks {s : State} {t : Nat} {rest : List Nat} (h : s.tick.raised = t :: rest) (hruns : s.tick.state ≠ .stopped)
    (hroot : holdoverRoot s = false) (hearly : s.tick.last + us s.tick.period.toNat / 2 ≤ t) (hfirst : tickRoot s = false) :
    tickSourceEvent s = lockTick t { s with tick := { s.tick with raised := rest } } := by
  exact (tickSourceEvent_eq h).trans ((if_neg (not_or.mpr ⟨hruns, Bool.eq_false_iff.mp hroot⟩)).trans
    ((if_neg (not_not.mpr (decide_eq_true hearly))).trans (if_neg (fun hr => absurd hr.1 (Bool.eq_false_iff.mp hfirst)))))

/-- The state in which the watchdog at t finds a tick missing: TICK_HOLDOVER is posted. -/
def heldOver (t : Nat) (s : State) : State :=
  { postRecord { event := true, code := 0x03, detail := fld s.tick.ctrl 1 2 } (atTime t s) with tick := { s.tick with state := .holdover } }

theorem posted_heldOver (t : Nat) (s : State) : Posted s (heldOver t s) 0x03 :=
  (posted_postRecord { event := true, code := 0x03, detail := fld s.tick.ctrl 1 2 } (atTime t s) (by norm_num)).of_eq

theorem heldOver_time (t : Nat) (s : State) : (heldOver t s).time = max s.time t := postRecord_time _ _

theorem execTickWatchdogExpiry_eq {s : State} {t : Nat} (hdue : s.tick.last + us s.tick.period.toNat * 3 / 2 = t) (hlocked : s.tick.state = .locked)
    (hsource : sourceArrived s t = false) : execTickWatchdogExpiry s = .next (synthesise t (heldOver t s)) := by
  subst hdue
  refine congrArg Host.Outcome.next ((if_neg (not_or.mpr ⟨not_not.mpr hlocked, Bool.eq_false_iff.mp hsource⟩)).trans ?_)
  dsimp only
  rw [postRecord_tick]
  rfl

/-! ### Markers -/

/-- What a marker that is forwarded changes. -/
theorem linkTickMarker_eq {s : State} {l : LinkId} (at_ : Nat) {count : Word} (hl : receives s l = true) (hsys : s.links.sys = 2)
    (hcount : count ≠ s.links.tickFwd) : ∃ p : Vector LinkPort 4, execLinkTickMarker l at_ count s = .next (
      let u := { s with time := max s.time at_, links := { s.links with tickFwd := count, ports := p } }
      if fld s.tick.ctrl 1 2 ≠ 3 then u
      else modLinks (fun k => { k with markerDue := some (u.time + nsec s.tick.linkComp.toNat), markerAt := u.time }) u) := by
  obtain ⟨p, hp⟩ := sendControls_frame (some count) (markerPorts (atTime at_ s)) (modLinks (fun k => { k with tickFwd := count }) (atTime at_ s))
  refine ⟨p, ?_⟩
  unfold execLinkTickMarker
  rw [if_neg (not_or.mpr ⟨not_not.mpr hl, not_or.mpr ⟨not_not.mpr hsys, hcount⟩⟩)]
  dsimp only
  rw [hp]
  rfl

theorem execLinkTickDue_eq {s : State} {t : Nat} (h : s.links.markerDue = some t) : execLinkTickDue s = .next (
    let s := { s with time := max s.time t, links := { s.links with markerDue := none } }
    if s.tick.state = .stopped then s
    else if ¬ notEarly s t then { s with tick := { s.tick with early := satAdd s.tick.early 1 } }
    else lockTick t s) := by
  unfold execLinkTickDue
  split
  · exact absurd (h.symm.trans ‹_›) (by simp)
  · cases h.symm.trans ‹_›
    rfl

end Sys2Proof.Machine
open Sys2Proof Sys2Proof.Machine

/-- Settles O44: the source events, the synthesised ticks and the link's ticks each by their one equation, and a tick on which nothing gutters
by what its end leaves. -/
theorem ticksComeAndAreKeptUp : Obligations.TicksComeAndAreKeptUp := by
  unfold Obligations.TicksComeAndAreKeptUp
  refine ⟨?source, ?synthesised, ?link⟩
  case source =>
    rintro s t rest v hraised rfl
    have heq : exec .tickSourceEvent s = .next _ := congrArg Host.Outcome.next (tickSourceEvent_eq hraised)
    refine ⟨fun hstopped => heq.trans (congrArg _ (if_pos (.inl hstopped))), fun hroot => heq.trans (congrArg _ (if_pos (.inr hroot))),
      fun hruns hroot hearly => ?early, fun hlocked hroot hdue hfirst => ?locked, fun hholdover hroot hdue hfirst => ?holdover,
      fun hruns hdue hfirst hctrl => ?first⟩
    case early =>
      exact heq.trans (congrArg _ ((if_neg (not_or.mpr ⟨hruns, Bool.eq_false_iff.mp hroot⟩)).trans
        (if_pos (fun hn => absurd (of_decide_eq_true hn) (Nat.not_le.mpr hearly)))))
    case locked =>
      have hruns : s.tick.state ≠ .stopped := by simp [hlocked]
      refine ⟨takeTick t { s with tick := { s.tick with raised := rest } }, congrArg Host.Outcome.next ?_, (takeTick_last t _).1, (takeTick_last t _).2, fun hquiet => ?_⟩
      · exact (tickSourceEvent_locks hraised hruns hroot hdue hfirst).trans (lockTick_locked t hlocked)
      · have hends := takeTick_quiet t (s := { s with tick := { s.tick with raised := rest } }) hquiet
        refine ⟨hends.time, by rw [hends.tick]; exact hlocked, by rw [hends.tick]; rfl, by rw [hends.tick]; rfl, by rw [hends.tick]; rfl, fun i => ?_⟩
        rw [hends.tick]
        exact freshRuns_state (quietBegun t { s with tick := { s.tick with raised := rest } }) i
    case holdover =>
      have hruns : s.tick.state ≠ .stopped := by simp [hholdover]
      exact congrArg Host.Outcome.next ((tickSourceEvent_locks hraised hruns hroot hdue hfirst).trans (lockTick_holdover t hholdover))
    case first =>
      have haddr : holdoverRoot s = false := by
        unfold tickRoot at hfirst
        unfold holdoverRoot
        simp only [Bool.and_eq_true, decide_eq_true_eq] at hfirst
        simp [hfirst.1.2]
      exact heq.trans (congrArg _ ((if_neg (not_or.mpr ⟨hruns, Bool.eq_false_iff.mp haddr⟩)).trans
        ((if_neg (not_not.mpr (decide_eq_true hdue))).trans (if_pos ⟨hfirst, hctrl⟩))))
  case synthesised =>
    intro s
    refine ⟨fun hruns hsource hraised => ?timer, fun t ht hlocked hsource hquiet => ?watchdog, fun t ht hholdover hsource hquiet => ?held⟩
    case timer =>
      refine congrArg Host.Outcome.next ((if_neg (not_or.mpr ⟨hruns, not_or.mpr ⟨not_not.mpr hsource, not_not.mpr hraised⟩⟩)).trans ?_)
      refine (if_pos ⟨hruns, hsource, .inl (by decide)⟩).trans ?_
      rw [atTime_tick, hraised]
      rfl
    case watchdog =>
      subst ht
      generalize hdue : s.tick.last + us s.tick.period.toNat * 3 / 2 = t at hsource
      have hheld : QuietTick (heldOver t s) := hquiet
      obtain ⟨hstate, hsynth, hlast, htime, hgint⟩ := synthesise_quiet_tick t hheld
      refine ⟨_, execTickWatchdogExpiry_eq hdue hlocked hsource, synthesise_posted t hheld (posted_heldOver t s), hstate, hsynth, hlast, ?_, hgint⟩
      rw [htime, heldOver_time, max_assoc, max_self]
    case held =>
      subst ht
      obtain ⟨hstate, hsynth, hlast, htime, hgint⟩ := synthesise_quiet_tick (s.tick.last + us s.tick.period.toNat) hquiet
      exact ⟨_, congrArg Host.Outcome.next (if_neg (not_or.mpr ⟨not_not.mpr hholdover, Bool.eq_false_iff.mp hsource⟩)), hstate.trans hholdover, hsynth, hlast,
        htime, hgint⟩
  case link =>
    refine fun s => ⟨fun l at_ count hl hsys hcount => ?forwarded, fun l at_ => congrArg _ (if_pos (.inr (.inr rfl))), ?due⟩
    case forwarded =>
      obtain ⟨p, hp⟩ := linkTickMarker_eq at_ hl hsys hcount
      by_cases hsource : fld s.tick.ctrl 1 2 = 3
      · exact ⟨_, hp.trans (congrArg _ (if_neg (not_not.mpr hsource))), rfl, rfl, rfl, rfl, (if_pos hsource).symm, fun _ => rfl⟩
      · exact ⟨_, hp.trans (congrArg _ (if_pos hsource)), rfl, rfl, rfl, rfl, (if_neg hsource).symm, fun h => absurd h hsource⟩
    case due =>
      rintro t v hdue rfl
      have heq := execLinkTickDue_eq hdue
      refine ⟨fun hstopped => heq.trans (congrArg _ (if_pos hstopped)), fun hruns hearly => heq.trans (congrArg _ ((if_neg hruns).trans
        (if_pos (fun hn => absurd (of_decide_eq_true hn) (Nat.not_le.mpr hearly))))), fun hlocked hdue => heq.trans (congrArg _ ?_)⟩
      have hruns : s.tick.state ≠ .stopped := by simp [hlocked]
      exact (if_neg hruns).trans ((if_neg (not_not.mpr (decide_eq_true hdue))).trans (lockTick_locked t hlocked))

end

section
-- One declaration after another: fewer threads, so that the check of the whole text keeps within its memory.
set_option Elab.async false
/-! PROOFS. Candle-table entries that run (O45). -/
namespace Sys2Proof.Machine
open Sys2Proof

/-! ### The runs of entries -/

theorem runOf_modRun_same (e : EntryId) (f : EntryRun → EntryRun) (s : State) : runOf (modRun e f s) e = f (runOf s e) := by
  unfold runOf modRun
  by_cases h : e.val < 64
  · rw [dif_pos h, if_pos h, if_pos h, Vector.getElem?_eq_getElem h, Vector.getElem?_eq_getElem h]
    exact updAt_get_same s.tick.runs ⟨e.val, h⟩ f
  · rw [dif_neg h, if_neg h, if_neg h]

theorem runOf_modRun_other {e e' : EntryId} (h : e' ≠ e) (f : EntryRun → EntryRun) (s : State) : runOf (modRun e f s) e' = runOf s e' := by
  have hval : e'.val ≠ e.val := fun hv => h (Fin.ext hv)
  unfold runOf modRun
  by_cases he : e.val < 64
  · rw [dif_pos he]
    split
    case isTrue he' =>
      rw [Vector.getElem?_eq_getElem he', Vector.getElem?_eq_getElem he']
      exact updAt_get_other s.tick.runs ⟨e.val, he⟩ ⟨e'.val, he'⟩ f (fun hv => hval (congrArg (fun x : Fin 64 => x.val) hv))
    case isFalse => rfl
  · rw [dif_neg he, if_pos (by omega), if_pos (by omega)]

theorem runOf_congr {s t : State} (h : t.tick = s.tick) (e : EntryId) : runOf t e = runOf s e := by
  unfold runOf
  rw [h]

/-- What a change of an entry's run leaves. -/
theorem modRun_frame (e : EntryId) (f : EntryRun → EntryRun) (s : State) :
    ∃ r i, modRun e f s = { s with tick := { s.tick with runs := r, implicit := i } } := by
  unfold modRun
  split
  · exact ⟨_, _, rfl⟩
  · exact ⟨_, _, rfl⟩

theorem entryBits_modRun (e e' : EntryId) (f : EntryRun → EntryRun) (s : State) : entryBits (modRun e f s) e' = entryBits s e' := by
  obtain ⟨r, i, h⟩ := modRun_frame e f s
  rw [h]
  rfl

theorem modRun_modRun (e : EntryId) (f g : EntryRun → EntryRun) (s : State) : modRun e f (modRun e g s) = modRun e (fun r => f (g r)) s := by
  unfold modRun
  split
  · exact congrArg (fun r => { s with tick := { s.tick with runs := r } }) (updAt_updAt _ _ _ _)
  · rfl

/-- A running entry with hold runs on when those with nothing left to pull end. -/
theorem endIdles_hold {e : EntryId} {s : State} (hhold : enHold (entryBits s e) = true) (hruns : (runOf s e).state = .running) :
    (runOf (endIdles s) e).state = .running := by
  refine (forAll_inv (fun t => enHold (entryBits t e) = true ∧ (runOf t e).state = .running) endIdle (fun f t ht => ?_) (validEntries s) s
    ⟨hhold, hruns⟩).2
  obtain ⟨hhold, hruns⟩ := ht
  unfold endIdle
  split
  case isFalse => exact ⟨hhold, hruns⟩
  case isTrue hends =>
    have hother : e ≠ f := by
      rintro rfl
      exact hends.2.1 hhold
    unfold leaveRun
    rw [entryBits_modRun, runOf_modRun_other hother]
    exact ⟨hhold, hruns⟩

theorem atTime_add (s : State) (d : Nat) : atTime (s.time + d) s = { s with time := s.time + d } := by
  unfold atTime
  rw [max_eq_right (Nat.le_add_right _ _)]

/-! ### Entries that start or go on -/

theorem adopt_none {e : EntryId} {s : State} (h : demotedOf s e = none) : adopt e s = s := by
  unfold adopt
  rw [h]

theorem demotedOf_beginRun (e : EntryId) (s : State) : demotedOf (beginRun e s) e = demotedOf s e := by
  obtain ⟨r, i, h⟩ := modRun_frame e (fun r => { r with state := .running, since := s.time }) s
  unfold demotedOf beginRun
  rw [entryBits_modRun, h]

/-- A pending entry starts when nothing goes first and no demoted job is in its place. -/
theorem candleStart_runs {e : EntryId} {s v : State} (hv : v = atTime (startTime s e) s) (hvalid : entryValid s e = true) (hruns : s.tick.state ≠ .stopped)
    (hrelock : s.tick.relock = none) (hbin : s.tick.binDue = false) (hpending : (runOf s e).state = .pending) (hfirst : outranked v e = false)
    (hheld : ∀ f ∈ holders v e, enPrio (entryBits s f) < enPrio (entryBits s e))
    (hdemoted : demotedOn (forAll (holders v e) preempt v) (enCores (forAll (holders v e) preempt v) e) = [])
    (hown : demotedOf (forAll (holders v e) preempt v) e = none) :
    candleStart e s = endIdles (beginRun e (forAll (holders v e) preempt v)) := by
  subst hv
  unfold candleStart
  refine (if_neg ?_).trans ?_
  rotate_left
  · dsimp only
    rw [hdemoted, List.filter_nil, forAll_nil, adopt_none ((demotedOf_beginRun e _).trans hown)]
  · rintro (h | h | h | h | h | h | h)
    · exact h hvalid
    · exact hruns h
    · exact absurd hrelock (Option.isSome_iff_ne_none.mp h)
    · exact Bool.eq_false_iff.mp hbin h
    · exact h (.inl hpending)
    · exact Bool.eq_false_iff.mp hfirst h
    · obtain ⟨f, hf, hle⟩ := List.any_eq_true.mp h
      exact absurd (of_decide_eq_true hle) (Nat.not_le.mpr (hheld f hf))

/-- An entry waits for a holder of equal or higher prio. -/
theorem candleStart_held {e : EntryId} {s : State} (h : ∃ f ∈ holders (atTime (startTime s e) s) e, enPrio (entryBits s e) ≤ enPrio (entryBits s f)) :
    candleStart e s = s := by
  obtain ⟨f, hf, hle⟩ := h
  exact if_pos (.inr (.inr (.inr (.inr (.inr (.inr (List.any_eq_true.mpr ⟨f, hf, decide_eq_true hle⟩)))))))

/-- A paused job runs on when no running entry and no demoted job is on its entry's cores. -/
theorem preemptRestart_paused {s : State} {j : Job} (hjob : findJob s j.id = some j) (hphase : j.phase = .paused)
    (hpaused : (runOf s (entryOf j)).state = .paused) (hrelock : s.tick.relock = none) (hbin : s.tick.binDue = false)
    (hheld : holders s (entryOf j) = []) (hdemoted : demotedOn s (enCores s (entryOf j)) = []) :
    preemptRestart j.id s = beginRun (entryOf j) (modJob j.id (fun x => { x with phase := .running }) (resumeJob j s)) := by
  unfold preemptRestart
  split
  · exact absurd (hjob.symm.trans ‹_›) (by simp)
  · cases hjob.symm.trans ‹_›
    rw [if_neg, if_pos ⟨hphase, hpaused, hheld⟩]
    · dsimp only
      rw [hdemoted, forAll_nil]
    rintro (h | h)
    · exact absurd hrelock (Option.isSome_iff_ne_none.mp h)
    · exact Bool.eq_false_iff.mp hbin h

/-! ### Entries whose budget is spent -/

/-- The elapsed time of a running entry when its budget is spent. -/
theorem elapsedOf_spent {e : EntryId} {s : State} {d : Nat} (hruns : (runOf s e).state = .running) (hsince : (runOf s e).since ≤ s.time)
    (hd : d = us (enBudget (entryBits s e)) - elapsedOf s e) :
    elapsedOf { s with time := s.time + d } e = max (us (enBudget (entryBits s e))) (elapsedOf s e) := by
  have hnow : elapsedOf s e = (runOf s e).elapsed + (s.time - (runOf s e).since) := by
    unfold elapsedOf
    dsimp only
    rw [if_pos hruns]
  have hthen : elapsedOf { s with time := s.time + d } e = (runOf s e).elapsed + (s.time + d - (runOf s e).since) := by
    have hsame : runOf { s with time := s.time + d } e = runOf s e := rfl
    unfold elapsedOf
    dsimp only
    rw [hsame, if_pos hruns]
  omega

theorem candleEnded_eq {e : EntryId} {s : State} {d : Nat} (hvalid : entryValid s e = true) (hruns : (runOf s e).state = .running)
    (hsince : (runOf s e).since ≤ s.time) (hd : d = us (enBudget (entryBits s e)) - elapsedOf s e) (hjob : entryJob s e = none) :
    execCandleEnded e s = .next (modRun e (fun r => { r with
      state := .ended, full := true, elapsed := max (us (enBudget (entryBits s e))) (elapsedOf s e) }) { s with time := s.time + d }) := by
  unfold execCandleEnded
  rw [if_neg (by simp [hvalid, hruns, hjob])]
  dsimp only
  rw [← hd, atTime_add, ← elapsedOf_spent hruns hsince hd]
  exact congrArg _ (modRun_modRun e _ _ _)

/-- The state in which an entry has guttered at its present time, before its job is looked at. -/
def guttered (e : EntryId) (s : State) : State :=
  let u := modRun e (fun r => { r with full := true }) (leaveRun e .guttered s)
  postRecord { event := true, code := 0x06, toPart := some (enPart (entryBits s e)), part := (enPart (entryBits s e)).val, detail := gutterDetail s e }
    { u with tick := { u.tick with gutters := satAdd u.tick.gutters 1 } }

theorem leaveRun_frame (e : EntryId) (x : EntryState) (s : State) :
    ∃ r i, leaveRun e x s = { s with tick := { s.tick with runs := r, implicit := i } } := modRun_frame e _ s

/-- What guttering has done by then. -/
theorem guttered_spec (e : EntryId) (s : State) : (guttered e s).time = s.time ∧ (guttered e s).cores = s.cores ∧ (guttered e s).host.jobs = s.host.jobs ∧
    (guttered e s).tick.gutters = satAdd s.tick.gutters 1 ∧ (runOf (guttered e s) e).state = .guttered ∧ (runOf (guttered e s) e).full = true ∧
    Posted s (guttered e s) 0x06 := by
  unfold guttered
  extract_lets u
  have hrun : runOf u e = { runOf s e with state := .guttered, elapsed := elapsedOf s e, full := true } := by
    rw [runOf_modRun_same]
    exact congrArg (fun r : EntryRun => { r with full := true }) (runOf_modRun_same e _ s)
  obtain ⟨r, i, hu⟩ : ∃ r i, u = { s with tick := { s.tick with runs := r, implicit := i } } := by
    obtain ⟨r, i, h⟩ := leaveRun_frame e .guttered s
    obtain ⟨r', i', h'⟩ := modRun_frame e (fun r => { r with full := true }) (leaveRun e .guttered s)
    exact ⟨r', i', h'.trans (by rw [h])⟩
  have hsame : runOf { u with tick := { u.tick with gutters := satAdd u.tick.gutters 1 } } e = runOf u e := rfl
  clear_value u
  have hposted : ∀ r v, r.code = 0x06 → v.safety = s.safety → Posted s (postRecord r v) 0x06 := by
    intro r v hr hv
    rw [← hr]
    exact (posted_postRecord r v (by rw [hr]; norm_num)).of_eq (by rw [hv]) (by rw [hv])
  rw [runOf_congr (postRecord_tick _ _), hsame, hrun, postRecord_time, postRecord_cores, postRecord_jobs, postRecord_tick]
  subst hu
  exact ⟨rfl, rfl, rfl, rfl, rfl, rfl, hposted _ _ rfl rfl⟩

/-- Guttering an entry whose job runs. -/
theorem gutter_eq {e : EntryId} {s : State} {j : Job} (hjob : entryJob s e = some j) (hphase : j.phase = .running) : gutter e s =
    if enContinue (entryBits s e) then modRun e (fun r => { r with state := .demoted }) (modJob j.id (fun j => { j with phase := .demoted }) (guttered e s))
    else overrunHalt j (gutterDetail s e) (guttered e s) := by
  have hp : j.phase ≠ .paused := by simp [hphase]
  unfold gutter
  dsimp only
  split
  · exact absurd (hjob.symm.trans ‹_›) (by simp)
  · cases hjob.symm.trans ‹_›
    rw [if_neg hp, if_neg hp]
    rfl

theorem candleGutter_eq {e : EntryId} {s : State} {j : Job} (hvalid : entryValid s e = true) (hruns : (runOf s e).state = .running)
    (hjob : entryJob s e = some j) : candleGutter e s =
    if jobOver s j then s else gutter e { s with time := s.time + (us (enBudget (entryBits s e)) - elapsedOf s e) } := by
  unfold candleGutter
  rw [if_neg (by simp [hvalid, hruns])]
  split
  · exact absurd (hjob.symm.trans ‹_›) (by simp)
  · cases hjob.symm.trans ‹_›
    rw [atTime_add]

/-! ### The stop policy -/

/-- One of a list of steps establishes Q from P, which the steps before it keep; the steps after it keep Q. -/
theorem forAll_reaches {α : Type} {P Q : State → Prop} {f : α → State → State} {a : α} {l : List α} (ha : a ∈ l) (hkeep : ∀ b s, P s → P (f b s) ∨ Q (f b s))
    (hreach : ∀ s, P s → Q (f a s)) (hstay : ∀ b s, Q s → Q (f b s)) {s : State} (hs : P s) : Q (forAll l f s) := by
  induction l generalizing s with
  | nil => exact absurd ha List.not_mem_nil
  | cons b l ih =>
    rw [forAll_cons]
    rcases List.mem_cons.mp ha with rfl | hl
    · exact forAll_inv Q f hstay l _ (hreach s hs)
    · rcases hkeep b s hs with hp | hq
      · exact ih hl hp
      · exact forAll_inv Q f hstay l _ hq

/-- HALT_OVERRUN with its detail. -/
def overrunCond (detail : Nat) : HaltCond := haltCond 0x10 6 0 (BitVec.ofNat 32 detail)

/-- The stop policy on one core of a job. -/
def overrunStep (j : Job) (detail : Nat) (c : CoreId) (s : State) : State :=
  raiseHalt c (overrunCond detail) (if coreHalted s.cores[c] then failJob j.id { halt := 0x10, fc := 1, detail := detail } s else s)

theorem overrunHalt_eq (j : Job) (detail : Nat) (s : State) : overrunHalt j detail s = forAll (jobOnCores s j) (overrunStep j detail) s := rfl

/-- What the stop policy leaves on each core. -/
theorem overrunStep_frame (j : Job) (detail : Nat) (c : CoreId) (s : State) : (overrunStep j detail c s).time = s.time ∧
    (overrunStep j detail c s).tick = s.tick ∧ (overrunStep j detail c s).safety = s.safety ∧
    (overrunStep j detail c s).cores = (raiseHalt c (overrunCond detail) s).cores := by
  unfold overrunStep
  split <;> exact ⟨rfl, rfl, rfl, rfl⟩

theorem overrunHalt_frame (j : Job) (detail : Nat) (s : State) : (overrunHalt j detail s).time = s.time ∧ (overrunHalt j detail s).tick = s.tick ∧
    (overrunHalt j detail s).safety = s.safety := by
  refine forAll_inv (fun t => t.time = s.time ∧ t.tick = s.tick ∧ t.safety = s.safety) (overrunStep j detail) (fun c t ht => ?_) _ s ⟨rfl, rfl, rfl⟩
  obtain ⟨htime, htick, hsafety, -⟩ := overrunStep_frame j detail c t
  rw [htime, htick, hsafety]
  exact ht

theorem jobHolds_sub {j : Job} {c : CoreId} (h : c ∈ jobHolds j) (s : State) : c ∈ jobOnCores s j := by
  obtain ⟨x, hx, rfl⟩ := List.mem_map.mp h
  obtain ⟨hmem, hkeeps⟩ := List.mem_filter.mp hx
  obtain ⟨hactive, hhanded⟩ := Bool.and_eq_true_iff.mp hkeeps
  refine List.mem_map.mpr ⟨x, List.mem_filter.mpr ⟨hmem, ?_⟩, rfl⟩
  rw [hactive, (Bool.not_eq_true' _).mp hhanded]
  rfl

/-- A core that halts with HALT_OVERRUN keeps it beside another one. -/
theorem furtherHalt_overrun (now detail : Nat) (second : Option HaltCond) (since : Nat) :
    ∃ x, furtherHalt now (overrunCond detail) (overrunCond detail) second since = .halting (overrunCond detail) x since := by
  refine ⟨second.orElse (fun _ => some (overrunCond detail)), ?_⟩
  have hsnuff : isSnuff (overrunCond detail) ≠ true := by
    show ¬ decide ((0x10 : Byte) = 0x0F) = true
    decide
  have hcode : (overrunCond detail).code ≠ 0 := by
    show (0x10 : Byte) ≠ 0
    decide
  unfold furtherHalt
  rw [if_neg hsnuff, if_neg hsnuff, if_neg hcode, if_neg (fun h => lt_irrefl _ h.2.2)]

/-- The stop policy halts the job's running cores. -/
theorem overrunHalt_live {j : Job} {c : CoreId} {s : State} (detail : Nat) (hc : c ∈ jobHolds j) (hlive : (s.cores[c]).phase = .live) :
    ∃ second, ((overrunHalt j detail s).cores[c]).phase = .halting (overrunCond detail) second s.time := by
  have hstep : ∀ (b : CoreId) (t : State), ((overrunStep j detail b t).cores[c]).phase = ((raiseHalt b (overrunCond detail) t).cores[c]).phase :=
    fun b t => by rw [(overrunStep_frame j detail b t).2.2.2]
  have hreach : ∀ t, t.time = s.time ∧ (t.cores[c]).phase = .live → (overrunStep j detail c t).time = s.time ∧
      ∃ second, ((overrunStep j detail c t).cores[c]).phase = .halting (overrunCond detail) second s.time := by
    rintro t ⟨htime, hl⟩
    exact ⟨(overrunStep_frame j detail c t).1.trans htime, none, by rw [hstep, raiseHalt_live c _ t hl, htime]⟩
  refine (forAll_reaches (P := fun t => t.time = s.time ∧ (t.cores[c]).phase = .live)
    (Q := fun t => t.time = s.time ∧ ∃ second, (t.cores[c]).phase = .halting (overrunCond detail) second s.time)
    (jobHolds_sub hc s) (fun b t ht => ?_) hreach (fun b t ht => ?_) ⟨rfl, hlive⟩).2
  · by_cases hb : c = b
    · subst hb
      exact .inr (hreach t ht)
    · refine .inl ⟨(overrunStep_frame j detail b t).1.trans ht.1, ?_⟩
      rw [hstep, raiseHalt_other b c _ t hb]
      exact ht.2
  · obtain ⟨htime, second, hphase⟩ := ht
    refine ⟨(overrunStep_frame j detail b t).1.trans htime, ?_⟩
    by_cases hb : c = b
    · subst hb
      obtain ⟨x, hx⟩ := furtherHalt_overrun t.time detail second s.time
      refine ⟨x, (hstep c t).trans ?_⟩
      unfold raiseHalt
      rw [modCore_same]
      simp only [hphase]
      exact hx
    · exact ⟨second, by rw [hstep, raiseHalt_other b c _ t hb]; exact hphase⟩

theorem failJob_mem {id : Nat} {f : JobFail} {j : Job} {s : State} (hid : j.id = id) (hj : j ∈ s.host.jobs) :
    { j with fail := j.fail.orElse (fun _ => some f) } ∈ (failJob id f s).host.jobs :=
  List.mem_map.mpr ⟨j, hj, if_pos hid⟩

/-- The stop policy fails a job that a snuff has stopped on some core. -/
theorem overrunHalt_fails {j : Job} {c : CoreId} {s : State} (detail : Nat) (hc : c ∈ jobHolds j) (hhalted : coreHalted s.cores[c] = true)
    (hj : j ∈ s.host.jobs) (hfail : j.fail = none) : { j with fail := some ⟨0x10, 1, detail⟩ } ∈ (overrunHalt j detail s).host.jobs := by
  have hfails : ∀ t, j ∈ t.host.jobs → { j with fail := some ⟨0x10, 1, detail⟩ } ∈ (failJob j.id ⟨0x10, 1, detail⟩ t).host.jobs := by
    intro t ht
    have hmem := failJob_mem (f := ⟨0x10, 1, detail⟩) rfl ht
    rw [hfail] at hmem
    exact hmem
  have hhost : ∀ b t, (overrunStep j detail b t).host = (if coreHalted t.cores[b] then failJob j.id ⟨0x10, 1, detail⟩ t else t).host := fun b t => rfl
  have hstay : ∀ b t, { j with fail := some ⟨0x10, 1, detail⟩ } ∈ t.host.jobs →
      { j with fail := some ⟨0x10, 1, detail⟩ } ∈ (overrunStep j detail b t).host.jobs := by
    intro b t ht
    rw [hhost]
    split
    · exact failJob_mem (f := ⟨0x10, 1, detail⟩) (j := { j with fail := some ⟨0x10, 1, detail⟩ }) rfl ht
    · exact ht
  refine forAll_reaches (P := fun t => coreHalted t.cores[c] = true ∧ j ∈ t.host.jobs)
    (Q := fun t => { j with fail := some ⟨0x10, 1, detail⟩ } ∈ t.host.jobs) (jobHolds_sub hc s) (fun b t ht => ?_) (fun t ht => ?_) hstay ⟨hhalted, hj⟩
  · obtain ⟨hhalted, hj⟩ := ht
    by_cases hb : coreHalted t.cores[b] = true
    · refine .inr ?_
      rw [hhost, if_pos hb]
      exact hfails t hj
    · refine .inl ⟨?_, by rw [hhost, if_neg hb]; exact hj⟩
      have hother : c ≠ b := by
        rintro rfl
        exact hb hhalted
      rw [(overrunStep_frame j detail b t).2.2.2, raiseHalt_other b c _ t hother]
      exact hhalted
  · rw [hhost, if_pos ht.1]
    exact hfails t ht.2

theorem execHandover_eq {c : CoreId} {s : State} {j : Job} (hjob : findJob s (s.cores[c]).ctl.job = some j) (hlive : coreLive s c = true)
    (hactive : partActive j c = true) (hdrains : drainsOnly s.cores[c] j.id = true) (hfits : (s.cores[c]).ctl.overran = false)
    (hnext : ∃ f : EntryId, entryValid s f = true ∧ ((runOf s f).state = .pending ∨ (runOf s f).state = .running) ∧ f ≠ entryOf j ∧
      enCore (entryBits s f) c = true ∧ enPart (entryBits s f) ≠ j.part) :
    execHandover c s = .next (modJob j.id (fun x => { x with
      cores := x.cores.map (fun y => if y.core = c then { y with handed := true } else y) }) s) := by
  obtain ⟨f, hvalid, hstate, hne, hcore, hpart⟩ := hnext
  have hany : ((validEntries s).any (fun e => decide ((runOf s e).state = .pending ∨ (runOf s e).state = .running ∨ (runOf s e).state = .paused)
      && decide (e ≠ entryOf j) && enCore (entryBits s e) c && decide (enPart (entryBits s e) ≠ j.part))) = true := by
    refine List.any_eq_true.mpr ⟨f, List.mem_filter.mpr ⟨List.mem_finRange f, hvalid⟩, ?_⟩
    have hwaits : (runOf s f).state = .pending ∨ (runOf s f).state = .running ∨ (runOf s f).state = .paused := hstate.imp_right .inl
    rw [decide_eq_true hwaits, decide_eq_true hne, hcore, decide_eq_true hpart]
    rfl
  unfold execHandover
  dsimp only
  split
  · exact absurd (hjob.symm.trans ‹_›) (by simp)
  · cases hjob.symm.trans ‹_›
    rw [if_neg (not_or.mpr ⟨not_not.mpr hlive, not_or.mpr ⟨not_not.mpr hactive, not_or.mpr ⟨not_not.mpr hdrains, not_not.mpr hany⟩⟩⟩),
      if_neg (Bool.eq_false_iff.mp hfits)]

/-- The job that an entry holds is a started job. -/
theorem entryJob_mem {s : State} {e : EntryId} {j : Job} (h : entryJob s e = some j) : j ∈ s.host.jobs := List.mem_of_find?_eq_some h

end Sys2Proof.Machine
open Sys2Proof Sys2Proof.Machine

/-- Settles O45: each command by the equation of its case, and the stop policy by what one core's step establishes and the others keep. -/
theorem candlesRun : Obligations.CandlesRun := by
  unfold Obligations.CandlesRun
  refine ⟨?starts, fun e s d hvalid hruns hsince hd => ⟨?ended, ?gutters, ?done, ?handover⟩⟩
  case starts =>
    rintro e s v w rfl hvalid hrelock hbin rfl
    refine ⟨fun hruns hpending hfirst hheld hdemoted hown => ⟨?_, fun hhold => ?_⟩, fun _ _ hheld => congrArg Host.Outcome.next (candleStart_held hheld),
      fun j hjob hentry hphase hpaused hheld hdemoted => ?_⟩
    · exact congrArg Host.Outcome.next (candleStart_runs rfl hvalid hruns hrelock hbin hpending hfirst hheld hdemoted hown)
    · exact endIdles_hold (by rw [entryBits_modRun]; exact hhold) (by rw [runOf_modRun_same])
    · subst hentry
      exact ⟨_, _, rfl, congrArg Host.Outcome.next (preemptRestart_paused hjob hphase hpaused hrelock hbin hheld hdemoted), rfl⟩
  case ended => exact fun hjob => candleEnded_eq hvalid hruns hsince hd hjob
  case gutters =>
    intro j hjob hover hphase
    have heq : candleGutter e s = gutter e { s with time := s.time + d } := by
      rw [candleGutter_eq hvalid hruns hjob, if_neg (Bool.eq_false_iff.mp hover), hd]
    obtain ⟨htime, hcores, hjobs, hcount, hstate, hfull, hposted⟩ := guttered_spec e { s with time := s.time + d }
    have hgutter := gutter_eq (s := { s with time := s.time + d }) hjob hphase
    by_cases hcontinue : enContinue (entryBits s e) = true
    · refine ⟨_, congrArg Host.Outcome.next (heq.trans (hgutter.trans (if_pos hcontinue))), ?_⟩
      obtain ⟨r, i, hframe⟩ := modRun_frame e (fun r => { r with state := .demoted })
        (modJob j.id (fun j => { j with phase := .demoted }) (guttered e { s with time := s.time + d }))
      have hrun := runOf_modRun_same e (fun r => { r with state := .demoted })
        (modJob j.id (fun j => { j with phase := .demoted }) (guttered e { s with time := s.time + d }))
      refine ⟨?_, ?_, fun _ => ⟨?_, ?_, ?_, ?_, ?_⟩, fun hstop => absurd hcontinue (Bool.eq_false_iff.mp hstop)⟩
      · rw [hframe]
        exact htime
      · rw [hframe]
        exact hcount
      · rw [hframe]
        exact hposted
      · rw [hrun]
      · rw [hrun]
        exact hfull
      · intro x hx hid
        rw [hframe] at hx
        obtain ⟨y, -, rfl⟩ := List.mem_map.mp hx
        split at hid
        case isTrue hy => rw [if_pos hy]
        case isFalse hy => exact absurd hid hy
      · rw [hframe]
        exact hcores
    · refine ⟨_, congrArg Host.Outcome.next (heq.trans (hgutter.trans (if_neg hcontinue))), ?_⟩
      obtain ⟨hfinal, htick, hsafety⟩ := overrunHalt_frame j (gutterDetail { s with time := s.time + d } e) (guttered e { s with time := s.time + d })
      refine ⟨hfinal.trans htime, by rw [htick]; exact hcount, fun h => absurd h hcontinue, fun _ => ⟨?_, ?_, fun c hc hlive => ?_, ?_⟩⟩
      · exact hposted.of_eq rfl rfl (by rw [hsafety]) (by rw [hsafety]) (by rw [hsafety])
      · rw [runOf_congr htick]
        exact hstate
      · have hl : ((guttered e { s with time := s.time + d }).cores[c]).phase = .live := by rw [hcores]; exact hlive
        obtain ⟨second, hhalting⟩ := overrunHalt_live (gutterDetail { s with time := s.time + d } e) hc hl
        exact ⟨_, second, by rw [hhalting, hfinal], rfl⟩
      · rintro ⟨c, hc, hhalted⟩ hfail
        refine overrunHalt_fails _ hc (by rw [hcores]; exact hhalted) ?_ hfail
        rw [hjobs]
        exact entryJob_mem hjob
  case done => exact fun j hjob hover => congrArg Host.Outcome.next ((candleGutter_eq hvalid hruns hjob).trans (if_pos hover))
  case handover => exact fun c j hjob hlive hactive hdrains hfits hnext => execHandover_eq hjob hlive hactive hdrains hfits hnext

end

section
-- One declaration after another: fewer threads, so that the check of the whole text keeps within its memory.
set_option Elab.async false
/-! PROOFS. Lamp tests and wakes (O46). -/
namespace Sys2Proof.Machine
open Sys2Proof

/-! ### The beginning of a test -/

theorem lampTestStart_due {c : CoreId} {s : State} {since d : Nat} (h : (s.cores[c]).lamp = .due since d) : lampTestStart c s =
    if s.tick.binDue ∨ inReset s.cores[c] ∨ ¬ mxQuiet s.cores[c] then s else beginLamp c (decide (d ≠ 0)) s := by
  unfold lampTestStart
  dsimp only
  split
  · cases h.symm.trans ‹_›
    rfl
  · exact absurd h (by simp_all)

theorem execLampDeferExpiry_due {c : CoreId} {s : State} {since d : Nat} (h : (s.cores[c]).lamp = .due since d) : execLampDeferExpiry c s = .next (
    if d = 0 ∨ s.tick.binDue ∨ inReset s.cores[c] ∨ mxQuiet s.cores[c] then s
    else beginLamp c true (modCore c (fun x => { x with lampOwn := decide ((s.cores[c]).phase = .live) }) (snuffNow c 1 (atTime (since + us d) s)))) := by
  unfold execLampDeferExpiry
  dsimp only
  split
  · cases h.symm.trans ‹_›
    rfl
  · exact absurd h (by simp_all)

/-! ### The verdict -/

/-- The arrays whose signatures a verdict sets. -/
def testedArrays (s : State) (c : CoreId) (mask : BitVec 4) : List ArrId :=
  (List.finRange 4).filter (fun a : ArrId => bitAt mask a.val && arrayInService s c a)

/-- The state of a verdict with its signatures and the arrays that pass. -/
def verdictRead (c : CoreId) (mask : BitVec 4) (failing : BitVec 32) (s : State) : State :=
  forAll ((testedArrays s c mask).filter (fun a => decide (a ∉ failedArrays mask failing))) (lampPassed c)
    (forAll (testedArrays s c mask) (fun a => setSignature c a (decide (a ∈ failedArrays mask failing))) s)

/-- The records of the failing arrays. -/
def postLampFails (c : CoreId) (detail : Nat) (bad : List ArrId) (s : State) : State :=
  forAll bad (fun a s => postFor (s.cores[c]).ctl.job (lampFailRec s c a.val detail) s) s

/-- The column groups of the failing arrays. -/
def failedGroups (mask : BitVec 4) (failing : BitVec 32) : BitVec 32 :=
  failing &&& arrayGroups (BitVec.ofNat 4 (((failedArrays mask failing).map (fun a : ArrId => 2 ^ a.val)).foldl (· + ·) 0))

/-- The halt condition of a failed verdict. -/
def verdictHalt (c : CoreId) (mask : BitVec 4) (failing : BitVec 32) (tick : Bool) (s : State) : HaltCond :=
  lampHalt (modCore c lampOver (verdictRead c mask failing s)) c (failedArrays mask failing) tick

/-- A verdict whose cycle has come. -/
theorem lampVerdict_eq {c : CoreId} {s : State} {since : Nat} {mask : BitVec 4} {tick : Bool} (failing : BitVec 32)
    (hlamp : (s.cores[c]).lamp = .running since mask tick) (hcycles : 511 ≤ (s.cores[c]).enabled - since) : lampVerdict c failing s =
    (let v := modCore c lampOver (verdictRead c mask failing s)
    if failedArrays mask failing = [] then
      lampRestart c (modMx c replayGoes { v with safety := { v.safety with lampPass := v.safety.lampPass || tick } })
    else
      haltLamp c (verdictHalt c mask failing tick s) (postLampFails c (verdictHalt c mask failing tick s).detail.toNat (failedArrays mask failing)
        (modCore c (fun k => { k with lampBad := k.lampBad ||| failedGroups mask failing }) v))) := by
  have hadvance : ∀ done : State → Bool, done s = true → advance c done eventFuel s = s := fun done hdone =>
    advance_cyclesOf (n := 0) (Nat.zero_le _) (fun m hm => absurd hm (Nat.not_lt_zero m)) hdone
  unfold lampVerdict
  rw [hadvance _ (by rw [hlamp]; exact decide_eq_true hcycles)]
  dsimp only
  rw [hlamp]
  rfl

/-- What the readings of a verdict leave: all but the free values, the signatures and the lamp monitor. -/
theorem verdictRead_frame (c : CoreId) (mask : BitVec 4) (failing : BitVec 32) (s : State) : ∃ n sig armed ok,
    verdictRead c mask failing s = { s with freeCtr := n, safety := { s.safety with lampSig := sig, lampArmed := armed, lampOk := ok } } := by
  refine forAll_inv (fun t => ∃ n sig armed ok, t = { s with
    freeCtr := n
    safety := { s.safety with lampSig := sig, lampArmed := armed, lampOk := ok } }) (lampPassed c) ?_ _ _ ?_
  · rintro a _ ⟨n, sig, armed, ok, rfl⟩
    exact ⟨_, _, _, _, rfl⟩
  · refine forAll_inv (fun t => ∃ n sig armed ok, t = { s with
      freeCtr := n
      safety := { s.safety with lampSig := sig, lampArmed := armed, lampOk := ok } }) _ ?_ _ _ ⟨_, _, _, _, rfl⟩
    rintro a _ ⟨n, sig, armed, ok, rfl⟩
    unfold setSignature takeFree
    dsimp only
    split <;> exact ⟨_, _, _, _, rfl⟩

theorem lampPassed_lampOk (c : CoreId) (a : ArrId) (s : State) (i : Fin 24) :
    (lampPassed c a s).safety.lampOk[i] = if i = fin 24 (4 * c.val + a.val) then s.time else s.safety.lampOk[i] := by
  split
  case isTrue h =>
    subst h
    exact updAt_get_same s.safety.lampOk _ _
  case isFalse h => exact updAt_get_other s.safety.lampOk _ _ _ h

/-- The lamp monitor of an array that passes counts from now. -/
theorem verdictRead_lampOk {c : CoreId} {mask : BitVec 4} {failing : BitVec 32} {s : State} (hpass : failedArrays mask failing = []) {a : ArrId}
    (ha : bitAt mask a.val = true) (hserves : arrayInService s c a = true) :
    (verdictRead c mask failing s).safety.lampOk[(fin 24 (4 * c.val + a.val) : Fin 24)] = s.time := by
  have hread : (forAll (testedArrays s c mask) (fun a => setSignature c a (decide (a ∈ failedArrays mask failing))) s).time = s.time :=
    forAll_keeps (·.time) _ (fun b t => by unfold setSignature takeFree; dsimp only; split <;> rfl) _ s
  have hmem : a ∈ (testedArrays s c mask).filter (fun a => decide (a ∉ failedArrays mask failing)) := by
    refine List.mem_filter.mpr ⟨List.mem_filter.mpr ⟨List.mem_finRange a, Bool.and_eq_true_iff.mpr ⟨ha, hserves⟩⟩, decide_eq_true ?_⟩
    rw [hpass]
    exact List.not_mem_nil
  refine (forAll_reaches (f := lampPassed c) (P := fun t => t.time = s.time)
    (Q := fun t => t.time = s.time ∧ t.safety.lampOk[(fin 24 (4 * c.val + a.val) : Fin 24)] = s.time) hmem (fun b t ht => .inl ht)
    (fun t ht => ⟨ht, ?_⟩) (fun b t ht => ⟨ht.1, ?_⟩) hread).2
  · rw [lampPassed_lampOk, if_pos rfl, ht]
  · rw [lampPassed_lampOk, ht.1, ht.2, ite_self]

theorem lampRestart_live {c : CoreId} {s : State} (h : (s.cores[c]).phase = .live) : lampRestart c s = s := by
  unfold lampRestart
  dsimp only
  split
  · exact absurd (h.symm.trans ‹_›) (by simp)
  · rfl

theorem haltLamp_live {c : CoreId} {h : HaltCond} {s : State} (hlive : (s.cores[c]).phase = .live) : haltLamp c h s = raiseHalt c h s := by
  unfold haltLamp
  dsimp only
  split
  · exact absurd (hlive.symm.trans ‹_›) (by simp)
  · rfl

/-! ### The arrays that fail -/

/-- The number that some of the arrays make, a bit for each. -/
theorem testBit_arrays : ∀ (f : ArrId → Bool) (a : ArrId),
    ((((List.finRange 4).filter f).map (fun a : ArrId => 2 ^ a.val)).foldl (· + ·) 0).testBit a.val = f a := by decide +kernel

theorem arrays_lt : ∀ f : ArrId → Bool, (((List.finRange 4).filter f).map (fun a : ArrId => 2 ^ a.val)).foldl (· + ·) 0 < 2 ^ 4 := by decide +kernel

theorem getLsbD_arrayGroups : ∀ (m : BitVec 4) (g : Fin 32), (arrayGroups m).getLsbD g.val = m.getLsbD (g.val / 8) := by decide +kernel

theorem mem_failedArrays {mask : BitVec 4} {failing : BitVec 32} {a : ArrId} :
    a ∈ failedArrays mask failing ↔ bitAt mask a.val = true ∧ fld failing (8 * a.val) 8 ≠ 0 := by
  unfold failedArrays
  rw [List.mem_filter, Bool.and_eq_true_iff, decide_eq_true_iff]
  exact and_iff_right (List.mem_finRange a)

theorem testBit_failedArrays (mask : BitVec 4) (failing : BitVec 32) (a : ArrId) :
    (((failedArrays mask failing).map (fun a : ArrId => 2 ^ a.val)).foldl (· + ·) 0).testBit a.val = decide (a ∈ failedArrays mask failing) := by
  refine (testBit_arrays _ a).trans (Bool.eq_iff_iff.mpr ?_)
  rw [decide_eq_true_iff, mem_failedArrays, Bool.and_eq_true_iff, decide_eq_true_iff]

/-- A failing group of a tested array is one of a failing array. -/
theorem failedGroups_bit {mask : BitVec 4} {failing : BitVec 32} {g : Fin 32} (hmask : bitAt mask (g.val / 8) = true) (hfails : bitAt failing g.val = true) :
    (failedGroups mask failing).getLsbD g.val = true := by
  have ha : g.val / 8 < 4 := by omega
  have hfield : fld failing (8 * (g.val / 8)) 8 ≠ 0 := by
    intro h0
    have hbit : (fld failing (8 * (g.val / 8)) 8).testBit (g.val % 8) = true := by
      rw [fld, Nat.testBit_mod_two_pow, Nat.testBit_shiftRight, Nat.div_add_mod, decide_eq_true (Nat.mod_lt _ (by decide))]
      exact hfails
    rw [h0, Nat.zero_testBit] at hbit
    exact Bool.false_ne_true hbit
  have hmem : (⟨g.val / 8, ha⟩ : ArrId) ∈ failedArrays mask failing := mem_failedArrays.mpr ⟨hmask, hfield⟩
  have htest := testBit_failedArrays mask failing ⟨g.val / 8, ha⟩
  rw [failedGroups, BitVec.getLsbD_and, getLsbD_arrayGroups, BitVec.getLsbD_ofNat, decide_eq_true ha, htest, decide_eq_true hmem, ← BitVec.testBit_toNat]
  exact Bool.and_eq_true_iff.mpr ⟨hfails, rfl⟩

/-- The detail of HALT_LAMP_FAIL names the failing arrays and whether the test was a tick's. -/
theorem lampHalt_detail (s : State) (c : CoreId) (mask : BitVec 4) (failing : BitVec 32) (tick : Bool) :
    let h := lampHalt s c (failedArrays mask failing) tick
    fld h.detail 4 1 = b2n tick ∧ ∀ a : ArrId, bitAt h.detail a.val = decide (a ∈ failedArrays mask failing) := by
  have hlt : ((failedArrays mask failing).map (fun a : ArrId => 2 ^ a.val)).foldl (· + ·) 0 < 2 ^ 4 := arrays_lt _
  have hbits : ∀ i, (lampHalt s c (failedArrays mask failing) tick).detail.getLsbD i = (
      ((put 0 (((failedArrays mask failing).map (fun a : ArrId => 2 ^ a.val)).foldl (· + ·) 0)).getLsbD i || (put 4 (b2n tick)).getLsbD i) ||
        (put 16 (fld ((s.safety.lampSig[4 * c.val + ((failedArrays mask failing).headD 0).val]?).getD 0) 0 16)).getLsbD i) := fun i => by
    unfold lampHalt haltCond
    dsimp only
    rw [BitVec.getLsbD_or, BitVec.getLsbD_or]
  refine ⟨fld_eq_of_testBit fun i => ?_, fun a => ?_⟩
  · rw [hbits, getLsbD_put, getLsbD_put, getLsbD_put, testBit_of_lt hlt (by omega)]
    by_cases hi : i < 1
    · obtain rfl : i = 0 := by omega
      cases tick <;> rfl
    · have hflag : (b2n tick).testBit i = false := testBit_of_lt (lt_of_le_of_lt (b2n_le_one tick) (by decide) : b2n tick < 2 ^ 1) (by omega)
      rw [decide_eq_false hi, hflag, Bool.false_and]
  · have ha := a.isLt
    rw [bitAt, BitVec.testBit_toNat, hbits, getLsbD_put, getLsbD_put, getLsbD_put, Nat.sub_zero, testBit_failedArrays,
      decide_eq_false (by omega : ¬ 4 ≤ a.val), decide_eq_false (by omega : ¬ 16 ≤ a.val), decide_eq_true (by omega : a.val < 32),
      decide_eq_true (Nat.zero_le a.val)]
    simp

/-! ### The records of the failing arrays -/

theorem lampFailRec_calm (s : State) (c : CoreId) (a detail : Nat) : (lampFailRec s c a detail).dangerous = false := by
  unfold lampFailRec
  dsimp only
  split <;> rfl

theorem jobUnacked_congr {s t : State} (h : t.cores = s.cores) (id : Nat) : jobUnacked t id = jobUnacked s id := by
  unfold jobUnacked
  rw [h]

/-- The jobs with writes outstanding are the data mover's alone. -/
theorem jobUnacked_modCore {c : CoreId} {f : Core → Core} {s : State} (hf : (f s.cores[c]).dx = (s.cores[c]).dx) (id : Nat) :
    jobUnacked (modCore c f s) id = jobUnacked s id := by
  have hdx : ∀ t : State, jobUnacked t id = (t.cores.map Core.dx).toList.any (fun d => d.chans.toList.any (fun x => x.run.any (fun r =>
      decide (r.cmd.job = id) && r.out.any (fun t => decide (t.target = .ext) && !t.acked)))) := fun t => by
    rw [Vector.toList_map, List.any_map]
    rfl
  have hsame : (modCore c f s).cores.map Core.dx = s.cores.map Core.dx := by
    refine Vector.ext fun i hi => ?_
    rw [Vector.getElem_map, Vector.getElem_map]
    by_cases h : (⟨i, hi⟩ : CoreId) = c
    · subst h
      exact (congrArg Core.dx (modCore_same ⟨i, hi⟩ f s)).trans hf
    · exact congrArg Core.dx (modCore_other c ⟨i, hi⟩ f s h)
  rw [hdx, hdx, hsame]

theorem postFor_frame {r : RecIn} (hr : r.dangerous = false) (id : Nat) (s : State) : (postFor id r s).cores = s.cores ∧ (postFor id r s).time = s.time ∧
    (postFor id r s).safety.lampPass = s.safety.lampPass := by
  unfold postFor
  split
  · dsimp only
    rw [if_neg (Bool.eq_false_iff.mp hr)]
    exact ⟨rfl, rfl, rfl⟩
  · refine ⟨postRecord_cores _ _, postRecord_time _ _, ?_⟩
    rw [postRecord_safety hr]
    rfl

theorem postLampFails_frame (c : CoreId) (detail : Nat) (bad : List ArrId) (s : State) : (postLampFails c detail bad s).cores = s.cores ∧
    (postLampFails c detail bad s).time = s.time ∧ (postLampFails c detail bad s).safety.lampPass = s.safety.lampPass := by
  refine forAll_inv (fun t => t.cores = s.cores ∧ t.time = s.time ∧ t.safety.lampPass = s.safety.lampPass) _ ?_ bad s ⟨rfl, rfl, rfl⟩
  rintro a t ⟨hcores, htime, hpass⟩
  obtain ⟨hcores', htime', hpass'⟩ := postFor_frame (lampFailRec_calm t c a.val detail) (t.cores[c]).ctl.job t
  exact ⟨hcores'.trans hcores, htime'.trans htime, hpass'.trans hpass⟩

/-- With no write of the job outstanding each failing array is posted. -/
theorem postLampFails_seq (c : CoreId) (detail : Nat) (bad : List ArrId) {s : State} (h : jobUnacked s (s.cores[c]).ctl.job = false) :
    (postLampFails c detail bad s).safety.seq = s.safety.seq + BitVec.ofNat 16 bad.length := by
  induction bad generalizing s with
  | nil => exact (BitVec.add_zero _).symm
  | cons a bad ih =>
    have hpost : postFor (s.cores[c]).ctl.job (lampFailRec s c a.val detail) s = postRecord (lampFailRec s c a.val detail) s :=
      if_neg (fun hj => Bool.eq_false_iff.mp h hj.2)
    have hnext : jobUnacked (postRecord (lampFailRec s c a.val detail) s) ((postRecord (lampFailRec s c a.val detail) s).cores[c]).ctl.job = false := by
      rw [postRecord_cores, jobUnacked_congr (postRecord_cores _ _), h]
    unfold postLampFails
    rw [forAll_cons, hpost]
    refine (ih hnext).trans ?_
    rw [postRecord_seq, List.length_cons, BitVec.add_assoc, BitVec.add_comm 1, BitVec.ofNat_add]
    rfl

theorem raiseHalt_lamp (c : CoreId) (h : HaltCond) (s : State) : ((raiseHalt c h s).cores[c]).lamp = (s.cores[c]).lamp ∧
    ((raiseHalt c h s).cores[c]).lampBad = (s.cores[c]).lampBad := by
  unfold raiseHalt
  rw [modCore_same]
  split <;> exact ⟨rfl, rfl⟩

theorem lampOver_frame (k : Core) : (lampOver k).lamp = (match k.lampNext with | some x => .due x.1 x.2 | none => .idle) ∧ (lampOver k).phase = k.phase ∧
    (lampOver k).mem = k.mem ∧ (lampOver k).ctl = k.ctl ∧ (lampOver k).dx = k.dx := by
  unfold lampOver
  split <;> rename_i h <;> rw [h] <;> exact ⟨rfl, rfl, rfl, rfl, rfl⟩

/-! ### Wakes -/

theorem arrayWake_awake {c : CoreId} {a : ArrId} {s : State} (hserves : arrayInService s c a = true) (hpower : (s.cores[c]).powered = true)
    (hret : (s.cores[c]).retained = false) (hgated : bitAt s.tick.gated (4 * c.val + a.val) = true) (hcmd : wakingCmd s c a = none) : arrayWake c a s =
    if wakeNeeded s c a then powerArrays c (BitVec.ofNat 4 (2 ^ a.val)) { s with time := s.time + us 2 } else s := by
  unfold arrayWake
  dsimp only
  rw [if_neg (not_or.mpr ⟨not_not.mpr hserves, not_or.mpr ⟨not_not.mpr hpower, not_or.mpr ⟨Bool.eq_false_iff.mp hret, not_not.mpr hgated⟩⟩⟩), hcmd,
    atTime_add]

theorem powerArrays_lamp (c : CoreId) (mask : BitVec 4) (s : State) : ((powerArrays c mask s).cores[c]).lamp = (s.cores[c]).lamp ∧
    ((powerArrays c mask s).cores[c]).enabled = (s.cores[c]).enabled := by
  unfold powerArrays
  dsimp only
  rw [modCore_same]
  exact ⟨rfl, rfl⟩

/-- The records of a command's wake. -/
def postWakes (c : CoreId) (p : PartId) (l : List ArrId) (s : State) : State :=
  forAll l (fun b => postRecord { event := true, code := 0x07, toPart := some p, part := p.val, unit := 2, index := c.val, sub := b.val }) s

theorem postWakes_frame (c : CoreId) (p : PartId) (l : List ArrId) (s : State) : (postWakes c p l s).cores = s.cores ∧ (postWakes c p l s).time = s.time ∧
    (postWakes c p l s).tick = s.tick ∧ (postWakes c p l s).safety.seq = s.safety.seq + BitVec.ofNat 16 l.length := by
  induction l generalizing s with
  | nil => exact ⟨rfl, rfl, rfl, (BitVec.add_zero _).symm⟩
  | cons b l ih =>
    unfold postWakes
    rw [forAll_cons]
    obtain ⟨hcores, htime, htick, hseq⟩ := ih (postRecord
      { event := true, code := 0x07, toPart := some p, part := p.val, unit := 2, index := c.val, sub := b.val } s)
    refine ⟨hcores.trans (postRecord_cores _ _), htime.trans (postRecord_time _ _), htick.trans (postRecord_tick _ _), hseq.trans ?_⟩
    rw [postRecord_seq, List.length_cons, BitVec.add_assoc, BitVec.add_comm 1, BitVec.ofNat_add]
    rfl

/-- A command wakes the gated arrays it names, which take their lamp test. -/
theorem arrayWake_command {c : CoreId} {a : ArrId} {s : State} {x : EngCmd} {mask : BitVec 4} (hserves : arrayInService s c a = true)
    (hpower : (s.cores[c]).powered = true) (hret : (s.cores[c]).retained = false) (hgated : bitAt s.tick.gated (4 * c.val + a.val) = true)
    (hcmd : wakingCmd s c a = some (x, mask)) (hidle : (s.cores[c]).lamp = .idle) : arrayWake c a s =
    modCore c (fun k => { k with lamp := .running k.enabled (gatedOf s c mask) false })
      (postWakes c x.part ((List.finRange 4).filter (fun b : ArrId => bitAt (gatedOf s c mask) b.val))
        (powerArrays c (gatedOf s c mask) { s with time := s.time + us 2 })) := by
  have hkeep : ∀ l (u : State), ((postWakes c x.part l (powerArrays c (gatedOf s c mask) u)).cores[c]).lamp = (u.cores[c]).lamp := by
    intro l u
    rw [(postWakes_frame c x.part l _).1]
    exact (powerArrays_lamp c _ u).1
  unfold arrayWake
  dsimp only
  rw [if_neg (not_or.mpr ⟨not_not.mpr hserves, not_or.mpr ⟨not_not.mpr hpower, not_or.mpr ⟨Bool.eq_false_iff.mp hret, not_not.mpr hgated⟩⟩⟩), hcmd]
  dsimp only
  rw [hidle, if_neg Bool.false_ne_true, atTime_add]
  refine modCore_congr ?_
  have hlamp := hkeep ((List.finRange 4).filter (fun b : ArrId => bitAt (gatedOf s c mask) b.val)) { s with time := s.time + us 2 }
  unfold postWakes at hlamp
  rw [hlamp, hidle]

/-- The bits of some arrays of a core in the engine's mask. -/
theorem getLsbD_coreBits : ∀ (c : CoreId) (m : BitVec 4) (b : ArrId),
    (BitVec.ofNat 24 (m.toNat * 2 ^ (4 * c.val))).getLsbD (4 * c.val + b.val) = m.getLsbD b.val := by decide +kernel

theorem powerArrays_spec (c : CoreId) (mask : BitVec 4) (s : State) : (powerArrays c mask s).time = s.time ∧
    (powerArrays c mask s).safety.seq = s.safety.seq ∧ ((powerArrays c mask s).cores[c]).mem = (s.cores[c]).mem ∧
    (∀ b : ArrId, bitAt mask b.val = true → (((powerArrays c mask s).cores[c]).arrays[b]).powered = true ∧
      bitAt (powerArrays c mask s).tick.gated (4 * c.val + b.val) = false) ∧
    (∀ b : ArrId, bitAt mask b.val = false → ((powerArrays c mask s).cores[c]).arrays[b] = (s.cores[c]).arrays[b]) := by
  have harrays : ∀ b : ArrId, ((powerArrays c mask s).cores[c]).arrays[b] =
      if bitAt mask b.val then { (s.cores[c]).arrays[b] with powered := true } else (s.cores[c]).arrays[b] := by
    intro b
    unfold powerArrays
    dsimp only
    rw [modCore_same]
    exact Vector.getElem_mapFinIdx ..
  refine ⟨rfl, rfl, ?_, fun b hb => ⟨?_, ?_⟩, fun b hb => ?_⟩
  · unfold powerArrays
    dsimp only
    rw [modCore_same]
  · rw [harrays, if_pos hb]
  · have hbit := getLsbD_coreBits c mask b
    unfold bitAt at hb
    rw [BitVec.testBit_toNat] at hb
    show (s.tick.gated &&& ~~~ BitVec.ofNat 24 (mask.toNat * 2 ^ (4 * c.val))).toNat.testBit (4 * c.val + b.val) = false
    rw [BitVec.testBit_toNat, BitVec.getLsbD_and, BitVec.getLsbD_not, hbit, hb]
    simp
  · rw [harrays, if_neg (Bool.eq_false_iff.mp hb)]

theorem bitAt_one : ∀ a b : ArrId, bitAt (BitVec.ofNat 4 (2 ^ a.val)) b.val = decide (b = a) := by decide +kernel

theorem popcount_arrays : ∀ m : BitVec 4, ((List.finRange 4).filter (fun b : ArrId => bitAt m b.val)).length = popcount 4 m.toNat := by decide +kernel

end Sys2Proof.Machine
open Sys2Proof Sys2Proof.Machine

/-- Settles O46: the verdict by what its readings, its records and its halt each leave, the wakes by what power-up does to the arrays. -/
theorem lampTestsAndWakes : Obligations.LampTestsAndWakes := by
  unfold Obligations.LampTestsAndWakes
  refine ⟨fun c s => ⟨fun since d hlamp hbin hreset => ?due, fun failing since mask tick hlamp hcycles hlive => ?verdict, fun hruns hperiod => ?subtimer⟩,
    fun c a s hserves hpower hret hgated => ?wakes⟩
  case due =>
    have hstart := lampTestStart_due hlamp
    have hgoes : ¬ s.tick.binDue = true := Bool.eq_false_iff.mp hbin
    have hup : ¬ inReset s.cores[c] = true := Bool.eq_false_iff.mp hreset
    refine ⟨fun hquiet => ?_, fun hbusy => ?_, fun hbusy hd => ?_⟩
    · exact congrArg Host.Outcome.next (hstart.trans (if_neg (not_or.mpr ⟨hgoes, not_or.mpr ⟨hup, not_not.mpr hquiet⟩⟩)))
    · exact congrArg Host.Outcome.next (hstart.trans (if_pos (.inr (.inr (Bool.eq_false_iff.mp hbusy)))))
    · exact (execLampDeferExpiry_due hlamp).trans (congrArg Host.Outcome.next
        (if_neg (not_or.mpr ⟨hd, not_or.mpr ⟨hgoes, not_or.mpr ⟨hup, Bool.eq_false_iff.mp hbusy⟩⟩⟩)))
  case verdict =>
    have heq : exec (.lampVerdict c failing) s = .next _ := congrArg Host.Outcome.next (lampVerdict_eq failing hlamp hcycles)
    obtain ⟨n, sig, armed, ok, hread⟩ := verdictRead_frame c mask failing s
    obtain ⟨hover, hphase, hmem, hctl, hdx⟩ := lampOver_frame s.cores[c]
    refine ⟨fun hpass => ?_, fun hfails => ?_⟩
    · have hok := fun a => verdictRead_lampOk (c := c) (s := s) hpass (a := a)
      have hv : ∀ v : State, (v.cores[c]).phase = .live → ((modMx c replayGoes v).cores[c]).phase = .live := by
        intro v h
        unfold modMx
        rw [modCore_same]
        exact h
      have hl : ((modCore c lampOver (verdictRead c mask failing s)).cores[c]).phase = .live := by
        rw [hread, modCore_same]
        exact hphase.trans hlive
      refine ⟨_, heq.trans (congrArg _ ((if_pos hpass).trans (lampRestart_live (hv _ hl)))), ?_, ?_, hv _ hl, ?_, hok, fun d hd => ?_, ?_⟩
      · unfold modMx
        rw [hread, modCore_same]
        dsimp only
        rw [modCore_same]
        exact hover
      · rw [hread]
        rfl
      · rw [hread]
        rfl
      · unfold modMx
        rw [hread, modCore_other _ _ _ _ hd]
        exact modCore_other _ _ _ _ hd
      · unfold modMx
        rw [hread, modCore_same]
        dsimp only
        rw [modCore_same]
        exact hmem
    · have hl : ∀ (g : BitVec 32) (d : Nat), ((postLampFails c d (failedArrays mask failing) (modCore c (fun k => { k with lampBad := k.lampBad ||| g })
          (modCore c lampOver (verdictRead c mask failing s)))).cores[c])
            = { lampOver s.cores[c] with lampBad := (lampOver s.cores[c]).lampBad ||| g } := by
        intro g d
        rw [(postLampFails_frame c d _ _).1, modCore_same, modCore_same, hread]
      obtain ⟨htick, harrays⟩ := lampHalt_detail (modCore c lampOver (verdictRead c mask failing s)) c mask failing tick
      have hcode : (verdictHalt c mask failing tick s).code = 0x14 := rfl
      generalize hh : verdictHalt c mask failing tick s = h at heq hcode
      rw [verdictHalt] at hh
      rw [hh] at htick harrays
      have hhalts := haltLamp_live (c := c) (h := h) (by rw [hl (failedGroups mask failing) h.detail.toNat]; exact hphase.trans hlive)
      refine ⟨_, h, heq.trans (congrArg _ ((if_neg hfails).trans hhalts)), ?_, hcode, htick, harrays, ?_, fun g hmask hgroup => ?_, ?_, fun hacked => ?_⟩
      · rw [raiseHalt_live c h _ (by rw [hl]; exact hphase.trans hlive), (postLampFails_frame c _ _ _).2.1, hread]
        rfl
      · rw [(raiseHalt_lamp c h _).1, hl]
        exact hover
      · rw [(raiseHalt_lamp c h _).2, hl, bitAt, BitVec.testBit_toNat, BitVec.getLsbD_or, failedGroups_bit hmask hgroup, Bool.or_true]
      · refine (postLampFails_frame c _ _ _).2.2.trans ?_
        rw [hread]
        rfl
      · refine (postLampFails_seq c _ _ ?_).trans ?_
        · rw [modCore_same, modCore_same, jobUnacked_modCore rfl, jobUnacked_modCore (lampOver_frame _).2.2.2.2, hread]
          dsimp only
          rw [hctl]
          exact hacked
        · rw [hread]
          rfl
  case subtimer =>
    exact congrArg Host.Outcome.next (if_neg (not_not.mpr (Bool.and_eq_true_iff.mpr ⟨decide_eq_true hruns, decide_eq_true hperiod⟩)))
  case wakes =>
    refine ⟨fun hcmd hneeded => ?_, fun hcmd hneeded => ?_, fun x mask hcmd hidle => ?_⟩
    · have heq := (arrayWake_awake hserves hpower hret hgated hcmd).trans (if_pos hneeded)
      obtain ⟨htime, hseq, hmem, hon, hother⟩ := powerArrays_spec c (BitVec.ofNat 4 (2 ^ a.val)) { s with time := s.time + us 2 }
      obtain ⟨hpowered, hungated⟩ := hon a (by rw [bitAt_one]; exact decide_eq_true rfl)
      exact ⟨_, congrArg Host.Outcome.next heq, htime, hpowered, hungated, hseq, fun b hb => hother b (by rw [bitAt_one]; exact decide_eq_false hb), hmem⟩
    · exact congrArg Host.Outcome.next ((arrayWake_awake hserves hpower hret hgated hcmd).trans (if_neg (Bool.eq_false_iff.mp hneeded)))
    · have heq := arrayWake_command hserves hpower hret hgated hcmd hidle
      obtain ⟨htime, hseq, -, hon, -⟩ := powerArrays_spec c (gatedOf s c mask) { s with time := s.time + us 2 }
      obtain ⟨hcores, htime', htick, hseq'⟩ := postWakes_frame c x.part ((List.finRange 4).filter (fun b : ArrId => bitAt (gatedOf s c mask) b.val))
        (powerArrays c (gatedOf s c mask) { s with time := s.time + us 2 })
      refine ⟨_, congrArg Host.Outcome.next heq, htime'.trans htime, ?_, fun b hb => ⟨?_, ?_⟩, ?_⟩
      · rw [modCore_same, hcores]
        exact congrArg (fun e => Lamp.running e _ _) (powerArrays_lamp c _ _).2
      · rw [modCore_same, hcores]
        exact (hon b hb).1
      · show bitAt (postWakes c x.part _ _).tick.gated _ = false
        rw [htick]
        exact (hon b hb).2
      · refine hseq'.trans ?_
        rw [hseq, popcount_arrays]

end

section
-- One declaration after another: fewer threads, so that the check of the whole text keeps within its memory.
set_option Elab.async false
/-! PROOFS. What stands of the units of a core when it is reset or retired (R324). -/
namespace Sys2Proof.Machine
open Sys2Proof

/-- Which units of a core are retired: the core, and each of its arrays. -/
def unitsOf (k : Core) : Bool × Vector Bool 4 := (k.retired, k.arrays.map ArrayUnit.retired)

/-- What a core reset leaves before the records that waited for it: time, boot state, records, monitors of the control cores and KSAFE. -/
structure Calm where
  time : Nat
  grade : Grade
  boot : Boot
  owed : List (Nat × RecIn)
  cwdg : BitVec 6
  aliveAt : Vector (Option Nat) 6
  stopped : Bool
  seq : BitVec 16
  logHead : Word
  log : Vector (BitVec 256) 64
  ksafeA : Bool
  ksafeB : Bool

/-- Those parts of a state. -/
def calmOf (s : State) : Calm :=
  ⟨s.time, s.grade, s.boot, s.host.owed, s.safety.cwdg, s.safety.aliveAt, s.safety.stopped, s.safety.seq, s.safety.logHead, s.safety.log,
    s.bnd.ksafeA, s.bnd.ksafeB⟩

/-- The same units are retired, no core leaves its reset, and no record is written. -/
structure Unposted (s t : State) : Prop where
  units : ∀ c : CoreId, unitsOf t.cores[c] = unitsOf s.cores[c]
  resets : ∀ c : CoreId, inReset s.cores[c] = true → inReset t.cores[c] = true
  calm : calmOf t = calmOf s

/-- The pins of KSAFE are low, and stay so. -/
def KsafeDown (s : State) : Prop := s.safety.stopped = true ∧ s.bnd.ksafeA = false ∧ s.bnd.ksafeB = false

/-- The same units are retired and no core leaves its reset; records may be written. -/
structure SameUnits (s t : State) : Prop where
  units : ∀ c : CoreId, unitsOf t.cores[c] = unitsOf s.cores[c]
  resets : ∀ c : CoreId, inReset s.cores[c] = true → inReset t.cores[c] = true
  time : t.time = s.time
  grade : t.grade = s.grade
  boot : t.boot = s.boot
  alive : t.safety.cwdg = s.safety.cwdg ∧ t.safety.aliveAt = s.safety.aliveAt
  down : KsafeDown s → KsafeDown t

theorem unitsOf_array (k : Core) (a : ArrId) : (unitsOf k).2[a] = (k.arrays[a]).retired := by
  unfold unitsOf
  simp only [Fin.getElem_fin, Vector.getElem_map]

namespace Unposted
variable {s₀ s t : State}

theorem refl (s : State) : Unposted s s := ⟨fun _ => rfl, fun _ h => h, rfl⟩

theorem of_eq (h : Unposted s₀ s) (hc : t.cores = s.cores) (hk : calmOf t = calmOf s) : Unposted s₀ t :=
  ⟨fun c => by rw [hc]; exact h.units c, fun c hr => by rw [hc]; exact h.resets c hr, hk.trans h.calm⟩

theorem ite {p : Prop} [Decidable p] {u : State} (ht : Unposted s t) (hu : Unposted s u) : Unposted s (if p then t else u) := by
  split
  · exact ht
  · exact hu

theorem forAll {α : Type} {f : α → State → State} {l : List α} (h : Unposted s₀ s) (hf : ∀ a u, Unposted s₀ u → Unposted s₀ (f a u)) :
    Unposted s₀ (Machine.forAll l f s) := forAll_inv (Unposted s₀) f hf l s h

theorem modCore (h : Unposted s₀ s) {c : CoreId} {f : Core → Core} (hf : ∀ k, unitsOf (f k) = unitsOf k := by exact fun _ => rfl)
    (hr : ∀ k, inReset k = true → inReset (f k) = true := by exact fun _ h => h) : Unposted s₀ (Machine.modCore c f s) := by
  refine ⟨fun d => ?_, fun d hd => ?_, h.calm⟩
  · by_cases hdc : d = c
    · subst hdc
      rw [modCore_same, hf]
      exact h.units d
    · rw [modCore_other _ _ _ _ hdc]
      exact h.units d
  · by_cases hdc : d = c
    · subst hdc
      rw [modCore_same]
      exact hr _ (h.resets d hd)
    · rw [modCore_other _ _ _ _ hdc]
      exact h.resets d hd

/-! ### A core reset -/

theorem useWeights_units (a n : Nat) (k : Core) : unitsOf (useWeights a n k) = unitsOf k ∧ (useWeights a n k).phase = k.phase := by
  unfold useWeights unitsOf
  dsimp only
  exact ⟨rfl, rfl⟩

theorem useAcc_units (a n : Nat) (k : Core) : unitsOf (useAcc a n k) = unitsOf k ∧ (useAcc a n k).phase = k.phase := by
  unfold useAcc unitsOf
  dsimp only
  exact ⟨rfl, rfl⟩

theorem foldl_useWeights_units (l : List (Nat × List Byte)) (k : Core) : unitsOf (l.foldl (fun k w => useWeights w.1 w.2.length k) k) = unitsOf k ∧
    (l.foldl (fun k w => useWeights w.1 w.2.length k) k).phase = k.phase := by
  induction l generalizing k with
  | nil => exact ⟨rfl, rfl⟩
  | cons x l ih => rw [List.foldl_cons, (ih _).1, (ih _).2, (useWeights_units _ _ k).1, (useWeights_units _ _ k).2]; exact ⟨rfl, rfl⟩

theorem foldl_useAcc_units (l : List (Nat × List Byte)) (k : Core) : unitsOf (l.foldl (fun k w => useAcc w.1 w.2.length k) k) = unitsOf k ∧
    (l.foldl (fun k w => useAcc w.1 w.2.length k) k).phase = k.phase := by
  induction l generalizing k with
  | nil => exact ⟨rfl, rfl⟩
  | cons x l ih => rw [List.foldl_cons, (ih _).1, (ih _).2, (useAcc_units _ _ k).1, (useAcc_units _ _ k).2]; exact ⟨rfl, rfl⟩

theorem inReset_of_phase {k k' : Core} (h : k'.phase = k.phase) (hk : inReset k = true) : inReset k' = true := by
  unfold inReset at hk ⊢
  rw [h]
  exact hk

theorem freshWords (h : Unposted s₀ s) {m : MemName} {r : List (Nat × Nat)} : Unposted s₀ (Machine.freshWords m r s) := h.of_eq rfl rfl
theorem failJob (h : Unposted s₀ s) {id : Nat} {f : JobFail} : Unposted s₀ (Machine.failJob id f s) := h.of_eq rfl rfl
theorem endPart (h : Unposted s₀ s) {id : Nat} {c : CoreId} : Unposted s₀ (Machine.endPart id c s) := h.of_eq rfl rfl

theorem raiseHalt (h : Unposted s₀ s) {c : CoreId} {x : HaltCond} : Unposted s₀ (Machine.raiseHalt c x s) := by
  refine h.modCore (fun k => by split <;> rfl) (fun k hk => ?_)
  split
  case h_4 => exact hk
  all_goals
    unfold inReset at hk
    simp_all

theorem stopOthers (h : Unposted s₀ s) {c : CoreId} : Unposted s₀ (Machine.stopOthers c s) := h.forAll fun _ _ hu => hu.raiseHalt

theorem failDegraded (h : Unposted s₀ s) {c : CoreId} : Unposted s₀ (Machine.failDegraded c s) := h.forAll fun _ _ hu => hu.failJob

theorem unbindPorts (h : Unposted s₀ s) {c : CoreId} : Unposted s₀ (Machine.unbindPorts c s) := h.forAll fun _ _ hu => hu.of_eq rfl rfl

theorem dxLand (h : Unposted s₀ s) {c : CoreId} {x : DxXfer} : Unposted s₀ (Machine.dxLand c x s) := by
  unfold Machine.dxLand
  extract_lets fresh into fills
  have hfresh : Unposted s₀ fresh := h.forAll fun _ _ hu => hu.freshWords
  have hfills : ∀ k, unitsOf (fills k) = unitsOf k := fun k =>
    (foldl_useWeights_units x.writes { k with mem := { k.mem with wbuf := into k.mem.wbuf } }).1
  have hresets : ∀ k, inReset k = true → inReset (fills k) = true := fun k hk =>
    inReset_of_phase (foldl_useWeights_units x.writes { k with mem := { k.mem with wbuf := into k.mem.wbuf } }).2 hk
  cases x.target with
  | ext => exact hfresh.of_eq rfl rfl
  | staging => exact hfresh.of_eq rfl rfl
  | core => exact hfresh.modCore
  | acc =>
    refine hfresh.modCore (fun k => ?_) (fun k hk => ?_)
    · exact (foldl_useAcc_units x.writes { k with mem := { k.mem with acc := into k.mem.acc } }).1
    · exact inReset_of_phase (foldl_useAcc_units x.writes { k with mem := { k.mem with acc := into k.mem.acc } }).2 hk
  | wbuf => exact hfresh.modCore hfills hresets
  | curve => exact hfresh.modCore
  | cast mask => exact hfresh.forAll fun _ _ hu => hu.modCore hfills hresets
  | group g => exact hfresh
  | haloNext => exact hfresh
  | haloPrev => exact hfresh
  | haloLink l e => exact hfresh

theorem markLanded (h : Unposted s₀ s) {l : List DxXfer} : Unposted s₀ (Machine.markLanded l s) :=
  h.forAll fun _ _ hu => hu.forAll fun _ _ hv => hv.modCore

theorem dxPerform (h : Unposted s₀ s) {c : CoreId} {x : DxXfer} : Unposted s₀ (Machine.dxPerform c x s) :=
  .ite h (.ite (h.markLanded.forAll fun _ _ hu => hu.dxLand) h.dxLand)

theorem hbTell (h : Unposted s₀ s) {c : CoreId} {b : HaloBuf} {grant : Option Byte} : Unposted s₀ (Machine.hbTell c b grant s) := by
  unfold Machine.hbTell
  dsimp only
  split
  · exact .ite h (h.of_eq rfl rfl)
  · exact .ite h (h.of_eq rfl rfl)
  · split
    · exact h.of_eq rfl rfl
    · exact h
  · exact h

theorem haloReset (h : Unposted s₀ s) {c : CoreId} : Unposted s₀ (Machine.haloReset c s) := by
  unfold Machine.haloReset
  extract_lets disabled emptied
  have hdisabled : Unposted s₀ disabled := h.forAll fun _ _ hu => hu.modCore.hbTell
  have hemptied : Unposted s₀ emptied := hdisabled.of_eq rfl rfl
  exact hemptied.modCore

theorem progress (h : Unposted s₀ s) {c : CoreId} : Unposted s₀ (Machine.progress c s) := by
  have hcore : ∀ d : CoreId, ∃ l, (Machine.progress c s).cores[d] = { s.cores[d] with stall := l } := fun d =>
    ⟨_, Vector.getElem_map (xs := s.cores) (i := d.val) _ d.isLt⟩
  refine ⟨fun d => ?_, fun d hd => ?_, h.calm⟩
  · obtain ⟨l, hl⟩ := hcore d
    rw [hl]
    exact h.units d
  · obtain ⟨l, hl⟩ := hcore d
    rw [hl]
    exact h.resets d hd

/-- Changes of arrays that keep their retirement. -/
theorem map_retired {f : ℕ → ArrayUnit → ArrayUnit} (hf : ∀ i u, (f i u).retired = u.retired) (v : Vector ArrayUnit 4) :
    (v.mapFinIdx (fun i u _ => f i u)).map ArrayUnit.retired = v.map ArrayUnit.retired := by
  refine Vector.ext fun i hi => ?_
  rw [Vector.getElem_map, Vector.getElem_map, Vector.getElem_mapFinIdx]
  exact hf i v[i]

theorem resetUnits (now : Nat) (k : Core) : unitsOf (Machine.resetUnits now k) = unitsOf k := by
  have hgrids := map_retired (f := fun i u => if bitAt (0xF : BitVec 4) i then { u with grid := Grid.reset } else u) (fun i u => by split <;> rfl)
    (dropPlanes 0xF k).arrays
  have hplanes := map_retired (f := fun i u => if bitAt (0xF : BitVec 4) i then { u with plane := none } else u) (fun i u => by split <;> rfl) k.arrays
  exact congrArg (Prod.mk k.retired) (hgrids.trans hplanes)

theorem unitsReset (h : Unposted s₀ s) {c : CoreId} {now : Nat} :
    Unposted s₀ (Machine.modCore c (Machine.resetUnits now) (stemReset c (landExternal c s))) := by
  have hlanded : Unposted s₀ (landExternal c s) := h.forAll fun _ _ hu => hu.dxPerform
  have hstem : Unposted s₀ (stemReset c (landExternal c s)) := hlanded.forAll fun _ _ hu => hu.of_eq rfl rfl
  exact hstem.modCore (Unposted.resetUnits _) (fun _ _ => rfl)

theorem holdAbort (h : Unposted s₀ s) {c : CoreId} : Unposted s₀ (Machine.holdAbort c s) := h.modCore

end Unposted

/-- A core reset before the records that waited for it. -/
def unflushed (c : CoreId) (s : State) : State :=
  progress c (haloReset c (holdAbort c (modCore c (resetUnits s.time) (stemReset c (landExternal c s)))))

theorem resetBody_eq (c : CoreId) (s : State) : resetBody c s = flushOwed (unflushed c s) := rfl

theorem Unposted.unflushed {s₀ s : State} (h : Unposted s₀ s) {c : CoreId} : Unposted s₀ (unflushed c s) := h.unitsReset.holdAbort.haloReset.progress

/-- A core that is reset is in reset. -/
theorem inReset_unflushed (c : CoreId) (s : State) : inReset ((unflushed c s).cores[c]) = true := by
  have hrest : Unposted (modCore c (resetUnits s.time) (stemReset c (landExternal c s))) (unflushed c s) := (Unposted.refl _).holdAbort.haloReset.progress
  refine hrest.resets c ?_
  rw [modCore_same]
  rfl

/-- The state in which a core's jobs have failed with its reset. -/
def jobsFailed (c : CoreId) (s : State) : State :=
  forAll (activeOn s c) (fun j s => endPart j.id c (failJob j.id { halt := 0, fc := 1, detail := 0 } s)) s

theorem coreReset_eq (c : CoreId) (s : State) : coreReset c s = flushOwed (unflushed c (jobsFailed c s)) := rfl

theorem Unposted.jobsFailed {s₀ s : State} (h : Unposted s₀ s) {c : CoreId} : Unposted s₀ (jobsFailed c s) := h.forAll fun _ _ hu => hu.failJob.endPart

namespace SameUnits
variable {s₀ s t : State}

theorem of_unposted (h : Unposted s t) : SameUnits s t where
  units := h.units
  resets := h.resets
  time := congrArg Calm.time h.calm
  grade := congrArg Calm.grade h.calm
  boot := congrArg Calm.boot h.calm
  alive := ⟨congrArg Calm.cwdg h.calm, congrArg Calm.aliveAt h.calm⟩
  down := fun ⟨hs, ha, hb⟩ => ⟨(congrArg Calm.stopped h.calm).trans hs, (congrArg Calm.ksafeA h.calm).trans ha, (congrArg Calm.ksafeB h.calm).trans hb⟩

theorem refl (s : State) : SameUnits s s := of_unposted (Unposted.refl s)

theorem trans (h : SameUnits s₀ s) (h' : SameUnits s t) : SameUnits s₀ t where
  units := fun c => (h'.units c).trans (h.units c)
  resets := fun c hc => h'.resets c (h.resets c hc)
  time := h'.time.trans h.time
  grade := h'.grade.trans h.grade
  boot := h'.boot.trans h.boot
  alive := ⟨h'.alive.1.trans h.alive.1, h'.alive.2.trans h.alive.2⟩
  down := fun hs => h'.down (h.down hs)

theorem unposted (h : SameUnits s₀ s) (h' : Unposted s t) : SameUnits s₀ t := h.trans (of_unposted h')

theorem retired (h : SameUnits s t) (c : CoreId) : (t.cores[c]).retired = (s.cores[c]).retired := congrArg Prod.fst (h.units c)

theorem array (h : SameUnits s t) (c : CoreId) (a : ArrId) : ((t.cores[c]).arrays[a]).retired = ((s.cores[c]).arrays[a]).retired := by
  rw [← unitsOf_array, ← unitsOf_array, h.units c]

theorem ite {p : Prop} [Decidable p] {u : State} (ht : SameUnits s t) (hu : SameUnits s u) : SameUnits s (if p then t else u) := by
  split
  · exact ht
  · exact hu

theorem forAll {α : Type} {f : α → State → State} {l : List α} (h : SameUnits s₀ s) (hf : ∀ a u, SameUnits s₀ u → SameUnits s₀ (f a u)) :
    SameUnits s₀ (Machine.forAll l f s) := forAll_inv (SameUnits s₀) f hf l s h

theorem setTick (h : SameUnits s₀ s) {x : Tick} : SameUnits s₀ { s with tick := x } := h.unposted ⟨fun _ => rfl, fun _ hc => hc, rfl⟩

theorem postRecord_alive (r : RecIn) (s : State) : (Machine.postRecord r s).safety.cwdg = s.safety.cwdg ∧
    (Machine.postRecord r s).safety.aliveAt = s.safety.aliveAt := by
  rw [postRecord_eq]
  unfold ksafeStop
  dsimp only
  split
  · split <;> exact ⟨rfl, rfl⟩
  · exact ⟨rfl, rfl⟩

theorem postRecord_down (r : RecIn) (hs : KsafeDown s) : KsafeDown (Machine.postRecord r s) := by
  obtain ⟨hstop, ha, hb⟩ := hs
  obtain ⟨x, a, b, sf, h, -, -, -, hcalm, hdown, -⟩ := postRecord_changes r s
  rw [h]
  cases hr : r.dangerous with
  | false =>
    obtain ⟨ha', hb', hstop'⟩ := hcalm hr
    exact ⟨hstop'.trans hstop, ha'.trans ha, hb'.trans hb⟩
  | true =>
    obtain ⟨ha', hb', hstop'⟩ := hdown hr
    exact ⟨hstop', ha', hb'⟩

theorem postRecord (h : SameUnits s₀ s) {r : RecIn} : SameUnits s₀ (Machine.postRecord r s) :=
  h.trans ⟨fun c => by rw [postRecord_cores], fun c hc => by rw [postRecord_cores]; exact hc, postRecord_time _ _, postRecord_grade _ _,
    postRecord_boot _ _, postRecord_alive r s, postRecord_down r⟩

theorem flushOwed (h : SameUnits s₀ s) : SameUnits s₀ (Machine.flushOwed s) := by
  have hkept : SameUnits s₀ { s with host := { s.host with owed := s.host.owed.filter (fun x => jobUnacked s x.1) } } :=
    h.trans ⟨fun _ => rfl, fun _ hc => hc, rfl, rfl, rfl, ⟨rfl, rfl⟩, fun hs => hs⟩
  exact hkept.forAll fun _ _ hu => hu.postRecord

theorem coreReset (h : SameUnits s₀ s) {c : CoreId} : SameUnits s₀ (Machine.coreReset c s) :=
  (h.unposted (Unposted.refl s).jobsFailed.unflushed).flushOwed

theorem ensureReset (h : SameUnits s₀ s) {c : CoreId} : SameUnits s₀ (Machine.ensureReset c s) := .ite h h.coreReset

/-! ### Retirement -/

theorem recheckEntry (h : SameUnits s₀ s) {i : Nat} {w : BitVec 128} : SameUnits s₀ (Machine.recheckEntry i w s) := by
  unfold Machine.recheckEntry
  dsimp only
  refine .ite h ?_
  split
  · exact h.setTick
  · exact .ite h.setTick.postRecord.postRecord h.setTick.postRecord

theorem recheck (h : SameUnits s₀ s) : SameUnits s₀ (Machine.recheck s) := h.forAll fun _ _ hu => hu.recheckEntry

end SameUnits

/-- A core is in reset after its reset. -/
theorem inReset_ensureReset (c : CoreId) (s : State) : inReset ((ensureReset c s).cores[c]) = true := by
  unfold ensureReset
  split
  case isTrue h => exact h
  case isFalse => exact (SameUnits.refl _).flushOwed.resets c (inReset_unflushed c (jobsFailed c s))

/-- The state of a retirement when the core's jobs are stopped. -/
def retiring (c : CoreId) (s : State) : State := ensureReset c (unbindPorts c (failDegraded c (stopOthers c s)))

theorem retiring_same (c : CoreId) (s : State) : SameUnits s (retiring c s) :=
  (SameUnits.of_unposted (Unposted.refl s).stopOthers.failDegraded.unbindPorts).ensureReset

/-- A core that is there is retired. -/
theorem retireCore_retired {c : CoreId} {s : State} (cause : Nat) (h : corePresent s.grade c = true) : ((retireCore c cause s).cores[c]).retired = true := by
  unfold retireCore
  by_cases hr : (s.cores[c]).retired = true
  · rw [if_pos (.inl hr)]
    exact hr
  · rw [if_neg (not_or.mpr ⟨hr, not_not.mpr h⟩)]
    dsimp only
    refine ((SameUnits.refl _).postRecord.recheck.retired c).trans ?_
    exact congrArg Core.retired (modCore_same c _ _)

/-- Retirement of a core leaves which of its arrays are retired. -/
theorem retireCore_array (c : CoreId) (cause : Nat) (s : State) (a : ArrId) :
    (((retireCore c cause s).cores[c]).arrays[a]).retired = ((s.cores[c]).arrays[a]).retired := by
  unfold retireCore
  split
  · rfl
  · dsimp only
    refine ((SameUnits.refl _).postRecord.recheck.array c a).trans ?_
    refine (congrArg (fun k : Core => (k.arrays[a]).retired) (modCore_same c _ _)).trans (Eq.trans ?_ ((retiring_same c s).array c a))
    unfold retiring
    simp only [Fin.getElem_fin, Vector.getElem_map]

end Sys2Proof.Machine

end

section
-- One declaration after another: fewer threads, so that the check of the whole text keeps within its memory.
set_option Elab.async false
/-! PROOFS. Diagnosis and scrub (O47). -/
namespace Sys2Proof.Machine
open Sys2Proof

/-! ### Diagnosis -/

/-- A diagnosis without a column retires the array of a failing group of a halted core. -/
theorem columnDiagnosis_none {c : CoreId} {a : ArrId} {s : State} {h : HaltCond} (hserves : arrayInService s c a = true)
    (hphase : (s.cores[c]).phase = .halted h) (hfails : fld (s.cores[c]).lampBad (8 * a.val) 8 ≠ 0) :
    columnDiagnosis c a none s = diagnosed c (retireArray c a 0x07 s) := by
  unfold columnDiagnosis
  dsimp only
  rw [hphase, if_neg (not_or.mpr ⟨not_not.mpr hserves, not_or.mpr ⟨not_not.mpr rfl, hfails⟩⟩)]

/-- A diagnosis that names a column of such a group. -/
theorem columnDiagnosis_some {c : CoreId} {a : ArrId} {s : State} {h : HaltCond} (hserves : arrayInService s c a = true)
    (hphase : (s.cores[c]).phase = .halted h) (hfails : fld (s.cores[c]).lampBad (8 * a.val) 8 ≠ 0) {j : Fin 128}
    (hlimit : replayLimited s.cores[c] = false) (hgroup : bitAt (s.cores[c]).lampBad (8 * a.val + j.val / 16) = true)
    (hstaged : bitAt ((s.cores[c]).arrays[a]).staged j.val = false) : columnDiagnosis c a (some j) s =
      if 8 ≤ popcount 128 ((s.cores[c]).arrays[a]).staged.toNat then diagnosed c (retireArray c a 0x07 s) else diagnosed c (bypassColumn c a j s) := by
  unfold columnDiagnosis
  dsimp only
  rw [hphase, if_neg (not_or.mpr ⟨not_not.mpr hserves, not_or.mpr ⟨not_not.mpr rfl, hfails⟩⟩)]
  rw [if_neg (Bool.eq_false_iff.mp hlimit), if_neg (not_or.mpr ⟨not_not.mpr hgroup, Bool.eq_false_iff.mp hstaged⟩)]

theorem arrayInService_parts {s : State} {c : CoreId} {a : ArrId} (h : arrayInService s c a = true) :
    corePresent s.grade c = true ∧ (s.cores[c]).retired = false ∧ ((s.cores[c]).arrays[a]).retired = false := by
  obtain ⟨hcore, harray⟩ := Bool.and_eq_true_iff.mp h
  obtain ⟨hserves, -⟩ := Bool.and_eq_true_iff.mp hcore
  obtain ⟨hpresent, -⟩ := Bool.and_eq_true_iff.mp hserves
  obtain ⟨hthere, hon⟩ := Bool.and_eq_true_iff.mp hpresent
  exact ⟨hthere, (Bool.not_eq_true' _).mp hon, (Bool.not_eq_true' _).mp harray⟩

theorem postRecord_genCount (r : RecIn) (s : State) : (postRecord r s).host.genCount = s.host.genCount := by
  obtain ⟨x, a, b, sf, h, -⟩ := postRecord_changes r s
  rw [h]

theorem recheck_grade (s : State) : (recheck s).grade = s.grade := by
  refine forAll_keeps (·.grade) _ (fun x u => ?_) _ s
  unfold recheckEntry safetyShort
  dsimp only
  split
  · rfl
  · split
    · rfl
    · split
      · rw [postRecord_grade, postRecord_grade]
      · rw [postRecord_grade]

/-- The column that joins the staged map, posted. -/
theorem bypassColumn_spec (c : CoreId) (a : ArrId) (j : Fin 128) (s : State) : Posted s (bypassColumn c a j s) 0x08 ∧
    (bypassColumn c a j s).host.genCount = s.host.genCount + 1 ∧
    (((bypassColumn c a j s).cores[c]).arrays[a]).staged = ((s.cores[c]).arrays[a]).staged ||| BitVec.ofNat 128 (2 ^ j.val) ∧
    ((bypassColumn c a j s).cores[c]).lampBad = (s.cores[c]).lampBad &&& ~~~ BitVec.ofNat 32 (2 ^ (8 * a.val + j.val / 16)) ∧
    ((bypassColumn c a j s).cores[c]).phase = (s.cores[c]).phase ∧ ∀ d : CoreId, d ≠ c → (bypassColumn c a j s).cores[d] = s.cores[d] := by
  unfold bypassColumn
  extract_lets map group u
  have hcores : (bumpGen (postRecord { event := true, code := 0x08, unit := 2, index := c.val, sub := j.val, detail := cEff map } u)).cores = u.cores :=
    postRecord_cores _ _
  have hcore : u.cores[c] = _ := modCore_same c _ s
  have hposted : Posted u (postRecord { event := true, code := 0x08, unit := 2, index := c.val, sub := j.val, detail := cEff map } u) 0x08 :=
    posted_postRecord _ u (by norm_num)
  refine ⟨hposted, ?_, ?_, ?_, ?_, fun d hd => ?_⟩
  · exact congrArg (· + 1) (postRecord_genCount _ u)
  · rw [hcores, hcore]
    exact congrArg ArrayUnit.staged (updAt_get_same (s.cores[c]).arrays a _)
  · rw [hcores, hcore]
  · rw [hcores, hcore]
  · rw [hcores]
    exact modCore_other c d _ s hd

/-- The group of a column is not among what is left of the failing ones. -/
theorem bitAt_cleared (w : BitVec 32) {i : Nat} (hi : i < 32) : bitAt (w &&& ~~~ BitVec.ofNat 32 (2 ^ i)) i = false := by
  rw [bitAt, BitVec.testBit_toNat, BitVec.getLsbD_and, BitVec.getLsbD_not, BitVec.getLsbD_ofNat, Nat.testBit_two_pow_self, decide_eq_true hi]
  simp

/-- A retired array, and what becomes of a core with fewer than two left. -/
theorem retireArray_retired {c : CoreId} {a : ArrId} {s : State} (cause : Nat) (h : arrayInService s c a = true) :
    (((retireArray c a cause s).cores[c]).arrays[a]).retired = true ∧
      (arraysLeft (retireArray c a cause s) c < 2 → ((retireArray c a cause s).cores[c]).retired = true) := by
  obtain ⟨hpresent, -, hon⟩ := arrayInService_parts h
  have hunits : ∀ v : State, ((v.cores[c]).arrays[a]).retired = true → v.grade = s.grade →
      ∀ r, (((recheck (postRecord r v)).cores[c]).arrays[a]).retired = true ∧ (recheck (postRecord r v)).grade = s.grade := fun v hv hgrade r =>
    ⟨((SameUnits.refl v).postRecord.recheck.array c a).trans hv, (recheck_grade _).trans ((postRecord_grade _ _).trans hgrade)⟩
  unfold retireArray
  dsimp only
  rw [if_neg (Bool.eq_false_iff.mp hon)]
  generalize hx : recheck _ = x
  obtain ⟨harray, hgrade⟩ : ((x.cores[c]).arrays[a]).retired = true ∧ x.grade = s.grade := by
    rw [← hx]
    refine hunits _ ?_ (by rfl) _
    refine (congrArg (fun k : Core => (k.arrays[a]).retired) (modCore_same c _ s)).trans ?_
    exact congrArg ArrayUnit.retired (updAt_get_same (s.cores[c]).arrays a _)
  by_cases hleft : arraysLeft x c < 2
  · rw [if_pos hleft]
    exact ⟨(retireCore_array c cause x a).trans harray, fun _ => retireCore_retired cause (hgrade ▸ hpresent)⟩
  · rw [if_neg hleft]
    exact ⟨harray, fun hlt => absurd hlt hleft⟩

/-! ### Scrub -/

section
variable {m : MemName} {off : Nat} {s : State} (hthere : wordThere s m off = true) (hlast : off + 8 = memSize m → (memUnit m).1 = 9)
include hthere hlast

/-- A visit of a poisoned word finds it uncorrectable. -/
theorem scrubVisit_poisoned (found : EccFinding) (hp : (m, off) ∈ s.safety.poison) : scrubVisit m off found s = scrubUncorr m off s := by
  unfold scrubVisit
  rw [if_neg (not_not.mpr hthere), if_neg (fun h => h.2 (hlast h.1))]
  dsimp only
  rw [if_pos hp]

theorem scrubVisit_clean (hp : (m, off) ∉ s.safety.poison) : scrubVisit m off .clean s = setCorrected m off false s := by
  unfold scrubVisit
  rw [if_neg (not_not.mpr hthere), if_neg (fun h => h.2 (hlast h.1))]
  dsimp only
  rw [if_neg hp]

theorem scrubVisit_corrected (hp : (m, off) ∉ s.safety.poison) : scrubVisit m off .corrected s = countCorr (setCorrected m off true s) := by
  unfold scrubVisit
  rw [if_neg (not_not.mpr hthere), if_neg (fun h => h.2 (hlast h.1))]
  dsimp only
  rw [if_neg hp]

theorem scrubVisit_uncorrectable : scrubVisit m off .uncorrectable s = scrubUncorr m off s := by
  unfold scrubVisit
  rw [if_neg (not_not.mpr hthere), if_neg (fun h => h.2 (hlast h.1))]
  dsimp only
  rw [ite_self]

end

/-- The state in which scrub has poisoned and recorded a word. -/
def poisoned (m : MemName) (off : Nat) (s : State) : State := postRecord (memRec 0x02 m off) (setPoison m off (setCorrected m off false s))

theorem scrubUncorr_eq {m : MemName} (off : Nat) (s : State) (hm : ∀ p, m ≠ .part p) : scrubUncorr m off s =
    uncorrFurther m off (if decide ((m, off) ∉ s.safety.poison) then uncorrUnit 0x02 m off (poisoned m off s) else poisoned m off s) := by
  unfold scrubUncorr
  split
  · exact absurd rfl (hm _)
  · rfl

theorem poisoned_spec (m : MemName) (off : Nat) (s : State) : Posted s (poisoned m off s) 0x02 ∧ (m, off) ∈ (poisoned m off s).safety.poison ∧
    (poisoned m off s).cores = s.cores ∧ (poisoned m off s).staging = s.staging ∧ (poisoned m off s).fabric = s.fabric ∧
    (poisoned m off s).links = s.links ∧ (poisoned m off s).safety.uncorrAt = s.safety.uncorrAt ∧ (poisoned m off s).grade = s.grade := by
  have hsafety : (poisoned m off s).safety = _ := postRecord_safety (r := memRec 0x02 m off) rfl _
  have hposted : Posted (setPoison m off (setCorrected m off false s)) (poisoned m off s) 0x02 :=
    posted_postRecord (memRec 0x02 m off) (setPoison m off (setCorrected m off false s)) (Nat.lt_of_sub_eq_succ rfl : 0x02 < 256)
  refine ⟨hposted, ?_, postRecord_cores _ _, postRecord_staging _ _, postRecord_fabric _ _, postRecord_links _ _, ?_,
    postRecord_grade _ _⟩
  · rw [hsafety]
    exact List.mem_cons_self
  · rw [hsafety]
    rfl

theorem setCorrected_mem (m : MemName) (off : Nat) (s : State) : (m, off) ∈ (setCorrected m off true s).safety.corrected :=
  List.mem_append_left _ (List.mem_singleton.mpr rfl)

theorem setCorrected_not_mem (m : MemName) (off : Nat) (s : State) : (m, off) ∉ (setCorrected m off false s).safety.corrected := by
  intro h
  have hne := of_decide_eq_true (List.mem_filter.mp h).2
  exact hne rfl

theorem noteUncorr_eq (c : CoreId) (m : MemName) (off cause : Nat) (s : State) : noteUncorr c m off cause s =
    if (m, off) ∈ s.safety.uncorrAt then retireCore c cause s
    else { s with safety := { s.safety with uncorrAt := (m, off) :: s.safety.uncorrAt } } := rfl

/-- A poisoned bank is to be loaded anew. -/
theorem bankFurther_spec (c : CoreId) (b : Bool) (off : Nat) (s : State) : bankTag ((uncorrFurther (.bank c b) off s).cores[c]) b = none ∧
    ((s.cores[c]).ctl.active ≠ b → ((uncorrFurther (.bank c b) off s).cores[c]).ctl.ready = false) ∧
    ((uncorrFurther (.bank c b) off s).cores[c]).retired = (s.cores[c]).retired ∧ (uncorrFurther (.bank c b) off s).safety = s.safety ∧
    ∀ d : CoreId, d ≠ c → (uncorrFurther (.bank c b) off s).cores[d] = s.cores[d] := by
  have htag : (tagBank c b none s).cores[c] = _ := modCore_same c _ s
  have hactive : ((tagBank c b none s).cores[c]).ctl.active = (s.cores[c]).ctl.active := by rw [htag]
  have hnone : bankTag ((tagBank c b none s).cores[c]) b = none := by
    rw [htag]
    exact updAt_get_same (s.cores[c]).bankSeg (fin 2 (b2n b)) _
  unfold uncorrFurther
  dsimp only
  rw [hactive]
  split
  case isTrue h =>
    exact ⟨hnone, fun hne => absurd h hne, by rw [htag], rfl, fun d hd => modCore_other c d _ s hd⟩
  case isFalse h =>
    refine ⟨?_, fun _ => ?_, ?_, rfl, fun d hd => (modCore_other c d _ _ hd).trans (modCore_other c d _ s hd)⟩
    · exact (congrArg (fun k => bankTag k b) (modCore_same c _ _)).trans hnone
    · exact congrArg (fun k : Core => k.ctl.ready) (modCore_same c _ _)
    · exact (congrArg Core.retired (modCore_same c _ _)).trans (by rw [htag])

/-- A word is whole in a written range where the range holds its eight bytes. -/
theorem freshWords_mem (m : MemName) (a n : Nat) (s : State) (x : MemName × Nat) :
    x ∈ (freshWords m [(a, n)] s).safety.poison ↔ x ∈ s.safety.poison ∧ ¬ (x.1 = m ∧ a ≤ x.2 ∧ x.2 + 8 ≤ a + n) := by
  have hwhole : ((List.range 8).all (fun i => [(a, n)].any (fun r => decide (r.1 ≤ x.2 + i) && decide (x.2 + i < r.1 + r.2)))) = true ↔
      a ≤ x.2 ∧ x.2 + 8 ≤ a + n := by
    simp only [List.all_eq_true, List.mem_range, List.any_cons, List.any_nil, Bool.or_false, Bool.and_eq_true, decide_eq_true_eq]
    constructor
    · intro h
      have h0 := h 0 (by omega)
      have h7 := h 7 (by omega)
      omega
    · intro h i hi
      omega
  unfold freshWords
  dsimp only
  rw [List.mem_filter, Bool.not_eq_true', Bool.and_eq_false_iff, ← hwhole]
  refine and_congr_right fun _ => ?_
  rw [not_and_or, decide_eq_false_iff_not, Bool.not_eq_true]

/-- A word of an instruction bank is there only on a core in service. -/
theorem wordThere_bank {s : State} {c : CoreId} {b : Bool} {off : Nat} (h : wordThere s (.bank c b) off = true) : corePresent s.grade c = true := by
  obtain ⟨hmem, -⟩ := Bool.and_eq_true_iff.mp h
  obtain ⟨hthere, -⟩ := Bool.and_eq_true_iff.mp hmem
  obtain ⟨hon, -⟩ := Bool.and_eq_true_iff.mp hthere
  obtain ⟨hserves, -⟩ := Bool.and_eq_true_iff.mp hon
  obtain ⟨hpresent, -⟩ := Bool.and_eq_true_iff.mp hserves
  exact (Bool.and_eq_true_iff.mp hpresent).1

/-- What becomes of an uncorrectable word of an instruction bank. -/
theorem scrubUncorr_bank {c : CoreId} {b : Bool} {off : Nat} {s : State} (hthere : wordThere s (.bank c b) off = true) :
    bankTag ((scrubUncorr (.bank c b) off s).cores[c]) b = none ∧
    ((MemName.bank c b, off) ∈ s.safety.poison ∨ (MemName.bank c b, off) ∉ s.safety.uncorrAt → Posted s (scrubUncorr (.bank c b) off s) 0x02 ∧
      (MemName.bank c b, off) ∈ (scrubUncorr (.bank c b) off s).safety.poison ∧
      ((s.cores[c]).ctl.active ≠ b → ((scrubUncorr (.bank c b) off s).cores[c]).ctl.ready = false) ∧
      ∀ d : CoreId, d ≠ c → (scrubUncorr (.bank c b) off s).cores[d] = s.cores[d]) ∧
    ((MemName.bank c b, off) ∉ s.safety.poison → (MemName.bank c b, off) ∈ s.safety.uncorrAt →
      ((scrubUncorr (.bank c b) off s).cores[c]).retired = true) := by
  obtain ⟨hposted, hpoison, hcores, -, -, -, huncorr, hgrade⟩ := poisoned_spec (.bank c b) off s
  rw [scrubUncorr_eq off s (fun p => by simp)]
  refine ⟨(bankFurther_spec c b off _).1, fun hknown => ?_, fun hfresh hagain => ?_⟩
  · obtain ⟨v, hv, hvcores, hvlog, hvpoison⟩ : ∃ v, (if decide ((MemName.bank c b, off) ∉ s.safety.poison) then
        uncorrUnit 0x02 (.bank c b) off (poisoned (.bank c b) off s) else poisoned (.bank c b) off s) = v ∧ v.cores = s.cores ∧ Posted s v 0x02 ∧
        (MemName.bank c b, off) ∈ v.safety.poison := by
      refine ⟨_, rfl, ?_⟩
      by_cases hp : (MemName.bank c b, off) ∈ s.safety.poison
      · rw [if_neg (fun h => absurd hp (of_decide_eq_true h))]
        exact ⟨hcores, hposted, hpoison⟩
      · have hnote : uncorrUnit 0x02 (.bank c b) off (poisoned (.bank c b) off s) = noteUncorr c (.bank c b) off 0x02 (poisoned (.bank c b) off s) := rfl
        rw [if_pos (decide_eq_true hp), hnote, noteUncorr_eq, huncorr, if_neg (hknown.resolve_left hp)]
        exact ⟨hcores, hposted, hpoison⟩
    obtain ⟨-, hready, -, hsafety, hother⟩ := bankFurther_spec c b off v
    rw [hv]
    refine ⟨hvlog.of_eq rfl rfl (by rw [hsafety]) (by rw [hsafety]) (by rw [hsafety]), by rw [hsafety]; exact hvpoison, fun hne => hready ?_, fun d hd => ?_⟩
    · rw [hvcores]
      exact hne
    · rw [hother d hd, hvcores]
  · have hnote : uncorrUnit 0x02 (.bank c b) off (poisoned (.bank c b) off s) = noteUncorr c (.bank c b) off 0x02 (poisoned (.bank c b) off s) := rfl
    rw [(bankFurther_spec c b off _).2.2.1, if_pos (decide_eq_true hfresh), hnote, noteUncorr_eq, huncorr, if_pos hagain]
    exact retireCore_retired 0x02 (hgrade ▸ wordThere_bank hthere)

/-- A memory for which nothing further is done. -/
def plainMem (m : MemName) : Prop := ∀ off s, uncorrUnit 0x02 m off s = s ∧ uncorrFurther m off s = s

theorem scrubUncorr_plain {m : MemName} (off : Nat) (s : State) (hm : ∀ p, m ≠ .part p) (hplain : plainMem m) : scrubUncorr m off s = poisoned m off s := by
  rw [scrubUncorr_eq off s hm, (hplain off _).1, ite_self, (hplain off _).2]

/-- A first correction, and one before the next visit, which is posted. -/
theorem scrubWriteback_eq {m : MemName} {off : Nat} {s : State} (hthere : wordThere s m off = true) (hp : (m, off) ∉ s.safety.poison) :
    scrubWriteback m off s = if (m, off) ∈ s.safety.corrected then postRecord (memRec 0x01 m off) (countCorr (setCorrected m off true s))
      else countCorr (setCorrected m off true s) := by
  unfold scrubWriteback
  rw [if_neg (not_or.mpr ⟨not_not.mpr hthere, hp⟩)]
  dsimp only
  simp only [decide_eq_true_eq]

theorem postRecord_corr {r : RecIn} (hr : r.dangerous = false) (s : State) : (postRecord r s).safety.corr = s.safety.corr := by
  rw [postRecord_safety hr]
  rfl

end Sys2Proof.Machine
open Sys2Proof Sys2Proof.Machine

/-- Settles O47: each outcome of a diagnosis and of a visit by its equation, and retirement by what a core reset leaves of the units. -/
theorem diagnosisAndScrub : Obligations.DiagnosisAndScrub := by
  unfold Obligations.DiagnosisAndScrub
  refine ⟨fun c a s h hserves hphase hfails => ⟨fun j hlimit hgroup hstaged hfew => ?bypass, fun j hlimit hgroup hstaged hmany => ?full, ?none, ?retires⟩,
    fun m off s hthere hlast => ?scrub, fun p s hthere => ?part, freshWords_mem⟩
  case bypass =>
    obtain ⟨hposted, hgen, hmap, hbad, hkept, hother⟩ := bypassColumn_spec c a j s
    have ha := a.isLt
    have hj := j.isLt
    refine ⟨_, bypassColumn c a j s, congrArg Host.Outcome.next ((columnDiagnosis_some hserves hphase hfails hlimit hgroup hstaged).trans
      (if_neg (Nat.not_le.mpr hfew))), rfl, hposted, hgen, hmap, ?_, hkept.trans hphase, hother⟩
    rw [hbad]
    exact bitAt_cleared _ (by omega)
  case full => exact congrArg Host.Outcome.next ((columnDiagnosis_some hserves hphase hfails hlimit hgroup hstaged).trans (if_pos hmany))
  case none => exact congrArg Host.Outcome.next (columnDiagnosis_none hserves hphase hfails)
  case retires => exact ⟨_, rfl, retireArray_retired 0x07 hserves⟩
  case scrub =>
    have hmid : off + 8 = memSize m → (memUnit m).1 = 9 := fun h => absurd h hlast
    have huncorrectable : exec (.scrubVisit m off .uncorrectable) s = .next (scrubUncorr m off s) :=
      congrArg Host.Outcome.next (scrubVisit_uncorrectable hthere hmid)
    obtain ⟨hposted, hpoison, hcores, hstaging, hfabric, hlinks, huncorr, -⟩ := poisoned_spec m off s
    refine ⟨fun hp => ⟨_, congrArg Host.Outcome.next (scrubVisit_clean hthere hmid hp), setCorrected_not_mem m off s, rfl⟩,
      fun hp => ⟨_, congrArg Host.Outcome.next (scrubVisit_corrected hthere hmid hp), setCorrected_mem m off s, rfl⟩,
      fun found hp => (congrArg Host.Outcome.next (scrubVisit_poisoned hthere hmid found hp)).trans huncorrectable.symm,
      ?staging, ?others, ?acc, ?bank, ?lamplighter, ?counted, ?corrected, ?repeated⟩
    case staging =>
      rintro rfl
      exact ⟨_, huncorrectable.trans (congrArg _ (scrubUncorr_plain off s (fun p => by simp) (fun _ _ => ⟨rfl, rfl⟩))), hposted, hpoison, hcores, hstaging⟩
    case others =>
      intro c z l hm
      have hplain : (∀ p, m ≠ .part p) ∧ plainMem m := by
        rcases hm with rfl | rfl | rfl | rfl <;> exact ⟨fun p => by simp, fun _ _ => ⟨rfl, rfl⟩⟩
      exact ⟨_, huncorrectable.trans (congrArg _ (scrubUncorr_plain off s hplain.1 hplain.2)), hposted, hpoison, hcores, hstaging, hfabric, hlinks⟩
    case acc =>
      rintro c rfl hp
      refine ⟨poisoned (.acc c) off s, _, hposted, hpoison, hcores, rfl, huncorrectable.trans (congrArg _ ?_)⟩
      rw [scrubUncorr_eq off s (fun p => by simp), if_pos (decide_eq_true hp)]
      show (if (MemName.acc c, off) ∈ (poisoned (.acc c) off s).safety.uncorrAt then _ else _) = _
      rw [huncorr, ite_not]
    case bank =>
      rintro c b rfl
      exact ⟨_, huncorrectable, scrubUncorr_bank hthere⟩
    case lamplighter =>
      rintro (rfl | rfl)
      · exact ⟨poisoned .llImem off s, hposted, hpoison, hcores, huncorrectable.trans (congrArg _ ((scrubUncorr_eq off s (fun p => by simp)).trans
          (congrArg (uncorrFurther .llImem off) (ite_self _))))⟩
      · exact ⟨poisoned .llDmem off s, hposted, hpoison, hcores, huncorrectable.trans (congrArg _ ((scrubUncorr_eq off s (fun p => by simp)).trans
          (congrArg (uncorrFurther .llDmem off) (ite_self _))))⟩
    case counted =>
      rintro c hm hp
      refine ⟨poisoned m off s, hposted, hpoison, hcores, huncorrectable.trans (congrArg _ ?_)⟩
      have hnote : uncorrFurther m off (uncorrUnit 0x02 m off (poisoned m off s)) = noteUncorr c m off 0x02 (poisoned m off s) := by
        rcases hm with rfl | rfl <;> rfl
      have hnot : ∀ p, m ≠ .part p := by rcases hm with rfl | rfl <;> exact fun p => by simp
      rw [scrubUncorr_eq off s hnot, if_pos (decide_eq_true hp), hnote, noteUncorr_eq, huncorr]
    case corrected =>
      intro hfirst hp
      exact ⟨_, congrArg Host.Outcome.next ((scrubWriteback_eq hthere hp).trans (if_neg hfirst)), setCorrected_mem m off s, rfl⟩
    case repeated =>
      intro hagain hp
      have hrecord : Posted (countCorr (setCorrected m off true s)) (postRecord (memRec 0x01 m off) (countCorr (setCorrected m off true s))) 0x01 :=
        posted_postRecord (memRec 0x01 m off) _ (Nat.lt_of_sub_eq_succ rfl : 0x01 < 256)
      exact ⟨_, congrArg Host.Outcome.next ((scrubWriteback_eq hthere hp).trans (if_pos hagain)), hrecord, postRecord_corr rfl _⟩
  case part =>
    have hrecord : Posted s (postRecord { memRec 0x0B (.part p) 0 with fc := 3, part := p.val } s) 0x0B :=
      posted_postRecord { memRec 0x0B (.part p) 0 with fc := 3, part := p.val } s (Nat.lt_of_sub_eq_succ rfl : 0x0B < 256)
    refine ⟨_, hrecord, ?_, postRecord_cores _ _, congrArg Host.Outcome.next (scrubVisit_uncorrectable hthere (fun _ => rfl))⟩
    obtain ⟨x, a, b, sf, heq, -, -, -, hcalm, -⟩ := postRecord_changes { memRec 0x0B (.part p) 0 with fc := 3, part := p.val } s
    rw [heq]
    exact (hcalm rfl).2.2

end

section
-- One declaration after another: fewer threads, so that the check of the whole text keeps within its memory.
set_option Elab.async false
/-! PROOFS. Monitors and faults of the engine (O48). -/
namespace Sys2Proof.Machine
open Sys2Proof

/-! ### A control core without a pulse -/

theorem retireCore_steady (c : CoreId) (cause : Nat) (s : State) : (retireCore c cause s).time = s.time ∧
    (retireCore c cause s).safety.cwdg = s.safety.cwdg ∧ (retireCore c cause s).safety.aliveAt = s.safety.aliveAt := by
  have hrest : ∀ (f : Core → Core) (r : RecIn), SameUnits (bumpGen (modCore c f (retiring c s)))
      (recheck (postRecord r (bumpGen (modCore c f (retiring c s))))) := fun f r => (SameUnits.refl _).postRecord.recheck
  have hsame := retiring_same c s
  unfold retireCore
  split
  · exact ⟨rfl, rfl, rfl⟩
  · exact ⟨(hrest _ _).time.trans hsame.time, (hrest _ _).alive.1.trans hsame.alive.1, (hrest _ _).alive.2.trans hsame.alive.2⟩

theorem coreRec_calm (s : State) (c : CoreId) {r : RecIn} (hr : r.dangerous = false) : (coreRec s c r).dangerous = false ∧ (coreRec s c r).code = r.code := by
  unfold coreRec
  split
  · exact ⟨hr, rfl⟩
  · exact ⟨hr, rfl⟩

theorem postFor_same {r : RecIn} (hr : r.dangerous = false) (id : Nat) (s : State) : SameUnits s (postFor id r s) := by
  unfold postFor
  split
  · dsimp only
    rw [if_neg (Bool.eq_false_iff.mp hr)]
    exact ⟨fun _ => rfl, fun _ h => h, rfl, rfl, rfl, ⟨rfl, rfl⟩, fun h => h⟩
  · exact (SameUnits.refl s).postRecord

/-- The state in which a control core's missing pulse is noted. -/
def aliveNoted (c : CoreId) (s : State) : State :=
  { s with
    time := s.time + us 100
    safety := { s.safety with
      aliveAt := s.safety.aliveAt.set c (some (s.time + us 100)), cwdg := s.safety.cwdg ||| BitVec.ofNat 6 (2 ^ c.val) } }

/-- Whether it is the second time within an hour. -/
def aliveAgain (c : CoreId) (s : State) : Bool := (s.safety.aliveAt[c]).any (fun t => decide (s.time + us 100 ≤ t + us 3600000000))

/-- CORE_ALIVE's record. -/
def aliveRec (c : CoreId) (s : State) : RecIn :=
  coreRec (aliveNoted c s) c { code := 0x08, fc := if aliveAgain c s then 2 else 1, unit := 1, index := c.val }

theorem alivePosted_same (c : CoreId) (s : State) :
    SameUnits (aliveNoted c s) (postFor (s.cores[c]).ctl.job (aliveRec c s) (aliveNoted c s)) :=
  postFor_same (coreRec_calm (aliveNoted c s) c (r := { code := 0x08, fc := if aliveAgain c s then 2 else 1, unit := 1, index := c.val }) rfl).1 _ _

theorem coreAlive_eq {c : CoreId} {s : State} (h : coreOn s c true = true) : coreAlive c s =
    if aliveAgain c s then retireCore c 0x08 (postFor (s.cores[c]).ctl.job (aliveRec c s) (aliveNoted c s))
    else ensureReset c (stopOthers c (postFor (s.cores[c]).ctl.job (aliveRec c s) (aliveNoted c s))) := by
  unfold coreAlive
  rw [if_neg (not_not.mpr h)]
  rfl

theorem bitAt_or_two_pow (w : BitVec 6) (c : CoreId) : bitAt (w ||| BitVec.ofNat 6 (2 ^ c.val)) c.val = true := by
  have hone : ∀ c : CoreId, (BitVec.ofNat 6 (2 ^ c.val)).getLsbD c.val = true := by decide
  rw [bitAt, BitVec.testBit_toNat, BitVec.getLsbD_or, hone, Bool.or_true]

theorem coreOn_present {s : State} {c : CoreId} {ctl : Bool} (h : coreOn s c ctl = true) : corePresent s.grade c = true := by
  obtain ⟨hon, -⟩ := Bool.and_eq_true_iff.mp h
  obtain ⟨hserves, -⟩ := Bool.and_eq_true_iff.mp hon
  obtain ⟨hpresent, -⟩ := Bool.and_eq_true_iff.mp hserves
  exact (Bool.and_eq_true_iff.mp hpresent).1

/-- What stands once a missing pulse has been dealt with. -/
theorem coreAlive_steady {c : CoreId} {s : State} (h : coreOn s c true = true) : (coreAlive c s).time = s.time + us 100 ∧
    bitAt (coreAlive c s).safety.cwdg c.val = true ∧ (coreAlive c s).safety.aliveAt[c] = some (s.time + us 100) := by
  have hposted := alivePosted_same c s
  have hkey : (coreAlive c s).time = (aliveNoted c s).time ∧ (coreAlive c s).safety.cwdg = (aliveNoted c s).safety.cwdg ∧
      (coreAlive c s).safety.aliveAt = (aliveNoted c s).safety.aliveAt := by
    rw [coreAlive_eq h]
    split
    · obtain ⟨htime, hcwdg, halive⟩ := retireCore_steady c 0x08 (postFor (s.cores[c]).ctl.job (aliveRec c s) (aliveNoted c s))
      exact ⟨htime.trans hposted.time, hcwdg.trans hposted.alive.1, halive.trans hposted.alive.2⟩
    · have hreset := (hposted.unposted (Unposted.refl _).stopOthers (t := stopOthers c _)).ensureReset (c := c)
      exact ⟨hreset.time, hreset.alive⟩
  obtain ⟨htime, hcwdg, halive⟩ := hkey
  refine ⟨htime, ?_, ?_⟩
  · rw [hcwdg]
    exact bitAt_or_two_pow _ c
  · rw [halive]
    exact Vector.getElem_set_self ..

/-- With no record that waits none is written. -/
theorem flushOwed_none {s : State} (h : s.host.owed = []) : (flushOwed s).safety = s.safety := by
  unfold flushOwed
  dsimp only
  rw [h]
  rfl

/-- A core reset writes no record where none waits. -/
theorem ensureReset_log {c : CoreId} {s : State} (h : s.host.owed = []) : (ensureReset c s).safety.seq = s.safety.seq ∧
    (ensureReset c s).safety.logHead = s.safety.logHead ∧ (ensureReset c s).safety.log = s.safety.log := by
  unfold ensureReset
  split
  · exact ⟨rfl, rfl, rfl⟩
  · have hun : Unposted s (unflushed c (jobsFailed c s)) := (Unposted.refl s).jobsFailed.unflushed
    have howed : (unflushed c (jobsFailed c s)).host.owed = [] := (congrArg Calm.owed hun.calm).trans h
    rw [coreReset_eq, flushOwed_none howed]
    exact ⟨congrArg Calm.seq hun.calm, congrArg Calm.logHead hun.calm, congrArg Calm.log hun.calm⟩

/-- A first missing pulse is posted, where nothing waits for writes of a job. -/
theorem coreAlive_posted {c : CoreId} {s : State} (h : coreOn s c true = true) (hfirst : aliveAgain c s = false) (howed : s.host.owed = [])
    (hacked : jobUnacked s (s.cores[c]).ctl.job = false) : Posted s (coreAlive c s) 0x08 := by
  obtain ⟨-, hcode⟩ := coreRec_calm (aliveNoted c s) c (r := { code := 0x08, fc := if aliveAgain c s then 2 else 1, unit := 1, index := c.val }) rfl
  have hpost : postFor (s.cores[c]).ctl.job (aliveRec c s) (aliveNoted c s) = postRecord (aliveRec c s) (aliveNoted c s) :=
    if_neg (fun hj => Bool.eq_false_iff.mp hacked hj.2)
  have hposted : Posted (aliveNoted c s) (postRecord (aliveRec c s) (aliveNoted c s)) 0x08 := by
    have hrec := posted_postRecord (aliveRec c s) (aliveNoted c s) (by rw [aliveRec, hcode]; norm_num)
    rwa [aliveRec, hcode] at hrec
  have hnone : (postRecord (aliveRec c s) (aliveNoted c s)).host.owed = [] := (postRecord_owed _ _).trans howed
  have hun : Unposted (postRecord (aliveRec c s) (aliveNoted c s)) (stopOthers c (postRecord (aliveRec c s) (aliveNoted c s))) := (Unposted.refl _).stopOthers
  obtain ⟨hseq, hhead, hlog⟩ := ensureReset_log (c := c) ((congrArg Calm.owed hun.calm).trans hnone)
  rw [coreAlive_eq h, if_neg (Bool.eq_false_iff.mp hfirst), hpost]
  exact hposted.of_eq rfl rfl (hseq.trans (congrArg Calm.seq hun.calm)) (hhead.trans (congrArg Calm.logHead hun.calm))
    (hlog.trans (congrArg Calm.log hun.calm))

/-! ### Faults of the engine -/

theorem engineClass_eq {r : RecIn} {s : State} (hheld : s.boot.held = false) (hfatal : s.safety.fatal = false) : engineClass r s =
    if (postRecord r s).safety.fatal then fatalHold r.code (postRecord r s)
    else if canRestart (postRecord r s) then warmRestart none 3 r.code (postRecord r s) else postRecord r s := by
  unfold engineClass
  rw [if_neg (Bool.eq_false_iff.mp hheld)]
  dsimp only
  rw [if_neg (Bool.eq_false_iff.mp hfatal)]

theorem ksafeStop_down (code : Nat) (s : State) : KsafeDown (ksafeStop code s) ∧ (ksafeStop code s).boot = s.boot ∧ (ksafeStop code s).cores = s.cores := by
  unfold ksafeStop
  dsimp only
  split
  case isTrue h => exact ⟨⟨h, rfl, rfl⟩, rfl, rfl⟩
  case isFalse => exact ⟨⟨rfl, rfl, rfl⟩, rfl, rfl⟩

/-- The fatal hold: KSAFE is low, the state is 5, and every core in service with power is in reset. -/
theorem fatalHold_spec (code : Nat) (s : State) : KsafeDown (fatalHold code s) ∧ (fatalHold code s).boot.state = 5 ∧
    ∀ c : CoreId, inService s c = true → (s.cores[c]).powered = true → inReset (fatalHold code s).cores[c] = true := by
  obtain ⟨hdown, hboot, hcores⟩ := ksafeStop_down code (modBoot (fun b => { b with state := 5 }) s)
  have hgrade : (ksafeStop code (modBoot (fun b => { b with state := 5 }) s)).grade = s.grade := by
    unfold ksafeStop
    dsimp only
    split <;> rfl
  have hall : SameUnits (ksafeStop code (modBoot (fun b => { b with state := 5 }) s)) (fatalHold code s) :=
    (SameUnits.refl _).forAll fun _ _ hu => hu.ensureReset
  refine ⟨hall.down hdown, by rw [hall.boot, hboot]; rfl, fun c hserves hpowered => ?_⟩
  have hmem : c ∈ (List.finRange 6).filter (fun c => inService (ksafeStop code (modBoot (fun b => { b with state := 5 }) s)) c &&
      ((ksafeStop code (modBoot (fun b => { b with state := 5 }) s)).cores[c]).powered) := by
    refine List.mem_filter.mpr ⟨List.mem_finRange c, Bool.and_eq_true_iff.mpr ⟨?_, ?_⟩⟩
    · unfold inService scrubbing
      rw [hgrade, hcores, hboot]
      exact hserves
    · rw [hcores]
      exact hpowered
  exact forAll_reaches (P := fun _ => True) (Q := fun t => inReset t.cores[c] = true) hmem (fun _ _ _ => .inl trivial)
    (fun t _ => inReset_ensureReset c t) (fun d t ht => (SameUnits.refl t).ensureReset.resets c ht) trivial

/-- The registers of the safety window answer a secure access. -/
theorem passes_safety {acc : Access} {s : State} {off : Nat} {w : Bool} (hacc : acc.secure = true) (h : 0x90000 ≤ off ∧ off < 0xB0000) : Passes acc s off w :=
  ⟨.inl hacc, answers_of_plain (by omega)⟩

end Sys2Proof.Machine
open Sys2Proof Sys2Proof.Machine

/-- Settles O48: each monitor by its equation; a missing pulse and the fatal hold by what core resets leave. -/
theorem monitorsRaiseFaults : Obligations.MonitorsRaiseFaults := by
  unfold Obligations.MonitorsRaiseFaults
  refine ⟨fun s => ⟨fun hruns => ⟨?_, ?_, fun t ht => ?pacing, fun c a hlamp harmed => ?lamp⟩, fun hup => ⟨fun n => ?clock, ?supply⟩, fun c hon => ?alive⟩, ?engine⟩
  · exact congrArg Host.Outcome.next (if_pos hruns)
  · exact congrArg Host.Outcome.next (if_pos hruns)
  case pacing =>
    refine congrArg Host.Outcome.next ?_
    rw [ht]
    exact if_neg (not_not.mpr hruns)
  case lamp =>
    exact congrArg Host.Outcome.next (if_neg (not_or.mpr ⟨not_not.mpr hruns, not_or.mpr ⟨not_not.mpr hlamp, not_not.mpr harmed⟩⟩))
  case clock => exact congrArg Host.Outcome.next (if_neg (Bool.eq_false_iff.mp hup))
  case supply =>
    rintro rail high pins v rfl
    have hheld : ¬ s.boot.held = true := Bool.eq_false_iff.mp hup
    refine ⟨fun hpin => congrArg Host.Outcome.next ((if_neg hheld).trans ((if_neg (not_not.mpr hpin)).trans ?_)),
      fun hpin => congrArg Host.Outcome.next ((if_neg hheld).trans (if_pos (Bool.eq_false_iff.mp hpin)))⟩
    by_cases hrail : rail = 2
    · subst hrail
      rfl
    · rw [if_neg hrail, if_neg hrail, if_neg hrail]
      rfl
  case alive =>
    obtain ⟨htime, hcwdg, halive⟩ := coreAlive_steady hon
    refine ⟨_, rfl, htime, hcwdg, halive, fun hfirst => ?_, fun u hu hsoon => ?_⟩
    · have hnot : aliveAgain c s = false := by
        unfold aliveAgain
        rw [hfirst]
        rfl
      refine ⟨?_, coreAlive_posted hon hnot⟩
      rw [coreAlive_eq hon, if_neg (Bool.eq_false_iff.mp hnot)]
      exact inReset_ensureReset c _
    · have hagain : aliveAgain c s = true := by
        unfold aliveAgain
        rw [hu, Option.any_some]
        exact decide_eq_true hsoon
      rw [coreAlive_eq hon, if_pos hagain]
      refine retireCore_retired 0x08 ?_
      rw [(alivePosted_same c s).grade]
      exact coreOn_present hon
  case engine =>
    rintro r s t rfl hup hfatal
    have heq := engineClass_eq (r := r) hup hfatal
    refine ⟨fun hcalm hstate => ?_, fun hthird => ?_, fun acc val hacc => ⟨fun hbit => ?_, fun hbit => ?_, fun hruns hmap => ?_, fun hrefused => ?_⟩⟩
    · have hrestart : canRestart (postRecord r s) = true := by
        unfold canRestart
        rw [postRecord_boot, hup, hcalm, decide_eq_true hstate]
        rfl
      rw [heq, if_neg (Bool.eq_false_iff.mp hcalm), if_pos hrestart]
    · obtain ⟨⟨hstop, ha, hb⟩, hstate, hcores⟩ := fatalHold_spec r.code (postRecord r s)
      refine ⟨_, rfl, ?_⟩
      rw [heq, if_pos hthird]
      refine ⟨hstate, hstop, ha, hb, fun c hserves hpowered => hcores c ?_ ?_⟩
      · unfold inService scrubbing
        rw [postRecord_grade, postRecord_cores, postRecord_boot]
        exact hserves
      · rw [postRecord_cores]
        exact hpowered
    · exact congrArg Host.Outcome.next ((access_passes (passes_safety hacc (by omega))).trans (if_pos hbit))
    · exact congrArg Host.Outcome.next ((access_passes (passes_safety hacc (by omega))).trans (if_neg (Bool.eq_false_iff.mp hbit)))
    · exact congrArg Host.Outcome.next ((access_passes (passes_safety hacc (by omega))).trans
        (if_neg (not_or.mpr ⟨Bool.eq_false_iff.mp hruns, not_not.mpr hmap⟩)))
    · exact congrArg Host.Outcome.next ((access_passes (passes_safety hacc (by omega))).trans
        (if_pos (hrefused.imp_right (fun h => Bool.eq_false_iff.mp h))))

end

section
-- One declaration after another: fewer threads, so that the check of the whole text keeps within its memory.
set_option Elab.async false
/-! PROOFS. Slack readings, the margin planner and clock-bin changes (O49). -/
namespace Sys2Proof.Machine
open Sys2Proof

/-! ### A window of one reading (R328) -/

/-- One reading joins the minima of its monitor. -/
theorem takeReading_on {n : Fin 44} (b : Byte) (ring : Half) {s : State} (hon : monitorOn s n.val = true) : takeReading ⟨n, b, ring⟩ s =
    { s with safety := { s.safety with slack := updAt s.safety.slack n (fun x =>
      { now := b, low := if x.low ≤ b then x.low else b, ring := ring, sinceRun := if x.sinceRun ≤ b then x.sinceRun else b }) } } :=
  if_neg (not_not.mpr hon)

/-- A monitor's domain does not depend on the clock or on the windows that are to come. -/
theorem monitorOn_congr {s t : State} (n : Nat) (hcores : t.cores = s.cores) (hgrade : t.grade = s.grade) (hfabric : t.fabric = s.fabric)
    (hboot : t.boot = s.boot) : monitorOn t n = monitorOn s n := by
  simp only [monitorOn, arrayInService, coreOn, inService, scrubbing, hcores, hgrade, hfabric, hboot]

/-! ### The planner (R329) -/

theorem plannerRun_due {s : State} (hstate : s.boot.state = 3) (hpending : offsetPending s = false) (hbin : s.tick.binPend = none)
    (hrelock : s.tick.relock = none) (hfresh : s.safety.fresh = 0) (hdue : s.safety.plannerDue = true) : plannerRun s = plannerRound s := by
  unfold plannerRun
  rw [if_neg (by simp [hstate, hpending, hbin, hrelock, hfresh]), if_pos hdue]

/-- A posted step leaves the code of the regulator and the pending bin. -/
theorem marginStep_keeps (code bin drop mon : Nat) (s : State) : (marginStep code bin drop mon s).bnd.vofsCode = s.bnd.vofsCode ∧
    (marginStep code bin drop mon s).tick = s.tick := by
  refine ⟨?_, ?_⟩
  · rw [(marginStep_changes code bin drop mon s).2.1]
  · obtain ⟨r, -, -, h⟩ := marginStep_eq code bin drop mon s
    rw [h]
    exact postRecord_tick r _

/-- The step that drops a bin is posted, and the new bin is pending. -/
theorem binDropped_spec (b : BitVec 3) (code bin drop mon : Nat) (s : State) :
    (marginStep code bin drop mon { s with tick := { s.tick with binPend := some b } }).tick.binPend = some b ∧
    (marginStep code bin drop mon { s with tick := { s.tick with binPend := some b } }).bnd.vofsCode = s.bnd.vofsCode ∧
    Posted s (marginStep code bin drop mon { s with tick := { s.tick with binPend := some b } }) 0x01 := by
  obtain ⟨hcode, htick⟩ := marginStep_keeps code bin drop mon { s with tick := { s.tick with binPend := some b } }
  have hpost := (marginStep_changes code bin drop mon { s with tick := { s.tick with binPend := some b } }).1
  rw [htick]
  exact ⟨rfl, hcode, hpost.of_eq⟩

/-- A code that has reached 12, or that the regulator's fault freezes, does not step. -/
theorem frozen {code : Nat} {timedOut : Bool} (h : 12 ≤ code ∨ timedOut = true) : ¬ (code < 12 ∧ ¬ timedOut = true) :=
  fun ⟨hcode, htime⟩ => h.elim (fun h => absurd hcode (by omega)) htime

/-- Exhaustion is posted as an event, and the run of the planner ends. -/
theorem exhausted_spec (r : RecIn) (hr : r.code = 0x02) (hd : r.dangerous = false) (s : State) :
    (plannerEnd (setGint 0x008 (bumpGen (postRecord r { s with safety := { s.safety with exhausted := true } })))).safety.exhausted = true ∧
    (plannerEnd (setGint 0x008 (bumpGen (postRecord r { s with safety := { s.safety with exhausted := true } })))).safety.bin = s.safety.bin ∧
    (plannerEnd (setGint 0x008 (bumpGen (postRecord r { s with safety := { s.safety with exhausted := true } })))).bnd.vofsCode = s.bnd.vofsCode ∧
    Posted s (plannerEnd (setGint 0x008 (bumpGen (postRecord r { s with safety := { s.safety with exhausted := true } })))) 0x02 ∧
    (plannerEnd (setGint 0x008 (bumpGen (postRecord r { s with safety := { s.safety with exhausted := true } })))).safety.plannerDue = false := by
  have hsafety := postRecord_safety hd { s with safety := { s.safety with exhausted := true } }
  have hbnd := postRecord_bnd hd { s with safety := { s.safety with exhausted := true } }
  have hpost := posted_postRecord r { s with safety := { s.safety with exhausted := true } } (by omega)
  rw [hr] at hpost
  exact ⟨(congrArg Safety.exhausted hsafety).trans rfl, (congrArg Safety.bin hsafety).trans rfl,
    (congrArg Boundary.vofsCode hbnd).trans rfl, hpost.of_eq, rfl⟩

/-! ### The restart of the cores after a clock change -/

/-- What a step that concerns the matrix engine of a core leaves: clock, tick, host, the other cores, and of the core all but MX. -/
structure MxOnly (c : CoreId) (s t : State) : Prop where
  time : t.time = s.time
  tick : t.tick = s.tick
  host : t.host = s.host
  others : ∀ d : CoreId, d ≠ c → t.cores[d] = s.cores[d]
  phase : (t.cores[c]).phase = (s.cores[c]).phase
  halt : (t.cores[c]).halt = (s.cores[c]).halt
  ctl : (t.cores[c]).ctl = (s.cores[c]).ctl
  mem : (t.cores[c]).mem = (s.cores[c]).mem

namespace MxOnly
variable {c : CoreId} {s t : State}

theorem refl (c : CoreId) (s : State) : MxOnly c s s := ⟨rfl, rfl, rfl, fun _ _ => rfl, rfl, rfl, rfl, rfl⟩

theorem modMx (h : MxOnly c s t) (f : Mx → Mx) : MxOnly c s (modMx c f t) := by
  refine ⟨h.time, h.tick, h.host, fun d hd => (modCore_other c d _ _ hd).trans (h.others d hd), ?_, ?_, ?_, ?_⟩ <;>
    unfold Machine.modMx <;> rw [modCore_same]
  · exact h.phase
  · exact h.halt
  · exact h.ctl
  · exact h.mem

theorem releaseSlots (h : MxOnly c s t) (n : StreamId) (j : Nat) : MxOnly c s (releaseSlots n j t) :=
  ⟨h.time, h.tick, h.host, h.others, h.phase, h.halt, h.ctl, h.mem⟩

theorem stemStart (h : MxOnly c s t) (cfg : Vector Word 64) : MxOnly c s (stemStart c cfg t) := by
  unfold Machine.stemStart
  split
  · exact h
  · dsimp only
    split
    · obtain ⟨j, m, heq⟩ := stemHunt_changes c (mxPort cfg) (modCursor c (fun u => { u with hunt := true })
        (modCursor c (fun u => if u.port = mxPort cfg then u else
          { u with port := mxPort cfg, seeking := true, hunt := false, drain := false, received := 0, released := 0 }) t))
      rw [heq]
      exact (((h.modMx _).modMx _).releaseSlots _ _).modMx _
    · exact h.modMx _

theorem mxRedo (h : MxOnly c s t) : MxOnly c s (mxRedo c t) := by
  unfold Machine.mxRedo
  dsimp only
  split
  · exact h
  · exact ((h.modMx _).modMx _).stemStart _

end MxOnly

/-- The end of a replay's flush leaves the core's phase, halt record, program and memories. -/
theorem flushStep_frame (k : Core) : (flushStep k).phase = k.phase ∧ (flushStep k).halt = k.halt ∧ (flushStep k).ctl = k.ctl ∧
    (flushStep k).mem = k.mem := by
  unfold flushStep
  split
  · split <;> exact ⟨rfl, rfl, rfl, rfl⟩
  · exact ⟨rfl, rfl, rfl, rfl⟩

/-- MX's restart leaves the core's phase, halt record, program and memories. -/
theorem mxRestart_frame (k : Core) : (mxRestart k).phase = k.phase ∧ (mxRestart k).halt = k.halt ∧ (mxRestart k).ctl = k.ctl ∧
    (mxRestart k).mem = k.mem := by
  unfold mxRestart
  dsimp only
  split
  · split
    · exact flushStep_frame _
    · exact ⟨rfl, rfl, rfl, rfl⟩
  · exact ⟨rfl, rfl, rfl, rfl⟩

/-- What a core that runs on looks like, from the core before. -/
structure RunsOn (k k' : Core) : Prop where
  phase : k'.phase = .live
  info : k'.halt.info = k.halt.info &&& 0x7FFFFFFF
  mem : k'.mem = k.mem

/-- What restarts leave: clock, tick, jobs, and every core's program. -/
structure SameJobs (s t : State) : Prop where
  time : t.time = s.time
  tick : t.tick = s.tick
  host : t.host = s.host
  ctl : ∀ d : CoreId, (t.cores[d]).ctl = (s.cores[d]).ctl

theorem SameJobs.waits {s t : State} (h : SameJobs s t) (c : CoreId) : jobWaits t c = jobWaits s c := by
  unfold jobWaits findJob
  rw [h.host, h.ctl]

theorem restartCore_frame (c : CoreId) (s : State) : SameJobs s (restartCore c s) ∧
    ∀ d : CoreId, d ≠ c → (restartCore c s).cores[d] = s.cores[d] := by
  unfold restartCore
  split
  case h_2 => exact ⟨⟨rfl, rfl, rfl, fun _ => rfl⟩, fun _ _ => rfl⟩
  case h_1 =>
    split
    · have hmx := MxOnly.mxRedo (MxOnly.refl c (modCore c (fun k => mxRestart { k with phase := .live, lampOwn := false, halt := { k.halt with
          info := k.halt.info &&& 0x7FFFFFFF } }) s))
      have hothers : ∀ d : CoreId, d ≠ c → _ := fun d hd => (hmx.others d hd).trans (modCore_other c d _ _ hd)
      refine ⟨⟨hmx.time, hmx.tick, hmx.host, fun d => ?_⟩, hothers⟩
      by_cases hd : d = c
      · subst hd
        rw [hmx.ctl, modCore_same]
        exact (mxRestart_frame _).2.2.1
      · rw [hothers d hd]
    · exact ⟨⟨rfl, rfl, rfl, fun _ => rfl⟩, fun _ _ => rfl⟩

/-- A restart of a core that a snuff of cause 1 or 5 halted. -/
theorem restartCore_halted {c : CoreId} {s : State} {h : HaltCond} (hphase : (s.cores[c]).phase = .halted h)
    (hcode : h.code = 0x0F) (hfails : haltFails h = false) : RunsOn s.cores[c] (restartCore c s).cores[c] := by
  have hmx := MxOnly.mxRedo (MxOnly.refl c (modCore c (fun k => mxRestart { k with phase := .live, lampOwn := false, halt := { k.halt with
      info := k.halt.info &&& 0x7FFFFFFF } }) s))
  have heq : restartCore c s = mxRedo c (modCore c (fun k => mxRestart { k with phase := .live, lampOwn := false, halt := { k.halt with
      info := k.halt.info &&& 0x7FFFFFFF } }) s) := by
    unfold restartCore
    rw [hphase]
    exact if_pos ⟨hcode, Bool.eq_false_iff.mp hfails⟩
  rw [heq]
  have hk := mxRestart_frame { s.cores[c] with phase := .live, lampOwn := false, halt := { (s.cores[c]).halt with
      info := (s.cores[c]).halt.info &&& 0x7FFFFFFF } }
  refine ⟨?_, ?_, ?_⟩
  · rw [hmx.phase, modCore_same]
    exact hk.1
  · rw [hmx.halt, modCore_same]
    exact congrArg HaltRec.info hk.2.1
  · rw [hmx.mem, modCore_same]
    exact hk.2.2.2

theorem bit31_cleared (w : Word) : bitAt (w &&& 0x7FFFFFFF) 31 = false := by
  unfold bitAt
  rw [BitVec.toNat_and, Nat.testBit_and]
  exact Bool.and_false _

/-- A restart of a core that runs does nothing. -/
theorem restartCore_live {c : CoreId} {s : State} (h : (s.cores[c]).phase = .live) : restartCore c s = s := by
  unfold restartCore
  rw [h]

/-- One core's part of the end of a relock. -/
def relockStep (c : CoreId) (s : State) : State := if jobWaits s c then s else restartCore c s

theorem relockDone_eq {s : State} {t : Nat} {l : List CoreId} (h : s.tick.relock = some (t, l)) :
    relockDone s = forAll l relockStep (atTime (t + us 20) { s with tick := { s.tick with relock := none } }) := by
  unfold relockDone
  rw [h]
  rfl

theorem relockStep_frame (c : CoreId) (s : State) : SameJobs s (relockStep c s) ∧
    ∀ d : CoreId, d ≠ c → (relockStep c s).cores[d] = s.cores[d] := by
  unfold relockStep
  split
  · exact ⟨⟨rfl, rfl, rfl, fun _ => rfl⟩, fun _ _ => rfl⟩
  · exact restartCore_frame c s

theorem SameJobs.trans {s t u : State} (h : SameJobs s t) (h' : SameJobs t u) : SameJobs s u :=
  ⟨h'.time.trans h.time, h'.tick.trans h.tick, h'.host.trans h.host, fun d => (h'.ctl d).trans (h.ctl d)⟩

theorem relockSteps_frame (l : List CoreId) (s : State) : SameJobs s (forAll l relockStep s) :=
  forAll_inv (SameJobs s) relockStep (fun c _ h => h.trans (relockStep_frame c _).1) l s ⟨rfl, rfl, rfl, fun _ => rfl⟩

/-- A core that no step of the list is about stays. -/
theorem relockSteps_other {c : CoreId} (l : List CoreId) (h : c ∉ l) (s : State) : (forAll l relockStep s).cores[c] = s.cores[c] := by
  induction l generalizing s with
  | nil => rfl
  | cons d l ih =>
    obtain ⟨hd, hl⟩ := not_or.mp (fun hc => h (List.mem_cons.mpr hc))
    rw [forAll_cons, ih hl, (relockStep_frame d s).2 c hd]

/-- A core whose job waits to be resumed stays. -/
theorem relockSteps_waits {c : CoreId} (l : List CoreId) {s : State} (h : jobWaits s c = true) : (forAll l relockStep s).cores[c] = s.cores[c] := by
  refine (forAll_inv (fun t => jobWaits t c = true ∧ t.cores[c] = s.cores[c]) relockStep (fun d t ⟨hwaits, hcore⟩ => ?_) l s ⟨h, rfl⟩).2
  obtain ⟨hsame, hothers⟩ := relockStep_frame d t
  refine ⟨(hsame.waits c).trans hwaits, ?_⟩
  by_cases hd : c = d
  · subst hd
    rw [relockStep, if_pos hwaits, hcore]
  · rw [hothers c hd, hcore]

/-- A core of the list that a snuff of cause 1 or 5 has halted runs on. -/
theorem relockSteps_runsOn {c : CoreId} {l : List CoreId} {s : State} {h : HaltCond} (hc : c ∈ l) (hwaits : jobWaits s c = false)
    (hphase : (s.cores[c]).phase = .halted h) (hcode : h.code = 0x0F) (hfails : haltFails h = false) :
    RunsOn s.cores[c] (forAll l relockStep s).cores[c] := by
  have hstep : ∀ t : State, jobWaits t c = false ∧ t.cores[c] = s.cores[c] → jobWaits (relockStep c t) c = false ∧
      RunsOn s.cores[c] (relockStep c t).cores[c] := by
    rintro t ⟨hw, hcore⟩
    refine ⟨((relockStep_frame c t).1.waits c).trans hw, ?_⟩
    rw [relockStep, if_neg (Bool.eq_false_iff.mp hw), ← hcore]
    exact restartCore_halted (by rw [hcore, hphase]) hcode hfails
  refine (forAll_reaches (P := fun t => jobWaits t c = false ∧ t.cores[c] = s.cores[c])
    (Q := fun t => jobWaits t c = false ∧ RunsOn s.cores[c] t.cores[c]) hc (fun d t hp => ?_) hstep (fun d t ⟨hw, hrun⟩ => ?_) ⟨hwaits, rfl⟩).2
  · by_cases hd : c = d
    · exact .inr (hd ▸ hstep t hp)
    · obtain ⟨hsame, hothers⟩ := relockStep_frame d t
      exact .inl ⟨(hsame.waits c).trans hp.1, by rw [hothers c hd, hp.2]⟩
  · obtain ⟨hsame, hothers⟩ := relockStep_frame d t
    refine ⟨(hsame.waits c).trans hw, ?_⟩
    by_cases hd : c = d
    · subst hd
      rw [relockStep, if_neg (Bool.eq_false_iff.mp hw), restartCore_live hrun.phase]
      exact hrun
    · rw [hothers c hd]
      exact hrun

end Sys2Proof.Machine
open Sys2Proof Sys2Proof.Machine

/-- Settles O49: a window's readings are kept with their minima, a round of the planner is one of four, and a clock-bin change snuffs the cores with
started jobs, which run on when the clocks have relocked. -/
theorem marginsAreKept : Obligations.MarginsAreKept := by
  unfold Obligations.MarginsAreKept
  refine fun s => ⟨fun n b ring v hheld hon hv => ?_, fun g sc sf hg hsc hsf hstate hpending hbin hrelock hfresh hdue => ?_,
    fun b u hpend htick hpending hu => ?_, fun t ht => ?_, fun t l ht => ?_⟩
  · have hon' : monitorOn (atTime ((s.time / us 1000 + 1) * us 1000) s) n.val = true := (monitorOn_congr _ rfl rfl rfl rfl).trans hon
    have hread : forAll [(⟨n, b, ring⟩ : SlackReading)] takeReading
        { atTime ((s.time / us 1000 + 1) * us 1000) s with safety := { s.safety with fresh := s.safety.fresh - 1 } } = v := by
      rw [hv]
      exact takeReading_on b ring ((monitorOn_congr _ rfl rfl rfl rfl).trans hon)
    have hexec : slackWindow [⟨n, b, ring⟩] s = forAll ([(⟨n, b, ring⟩ : SlackReading)].filter (fun r =>
        monitorOn (atTime ((s.time / us 1000 + 1) * us 1000) s) r.mon.val && decide (r.slack.toNat < marginFloor s)))
        (fun r => engineClass { code := 0x18, fc := 5, dangerous := true, unit := 11, index := r.mon.val }) v := by
      rw [← hread]
      exact if_neg (Bool.eq_false_iff.mp hheld)
    refine ⟨fun hfloor => congrArg Host.Outcome.next (hexec.trans ?_), fun hfloor => congrArg Host.Outcome.next (hexec.trans ?_)⟩
    · rw [List.filter_cons_of_neg (by simp [hfloor])]
      rfl
    · rw [List.filter_cons_of_pos (by simp [hfloor, hon'])]
      rfl
  · have hexec : exec .marginPlannerRun s = .next (plannerRound s) :=
      congrArg Host.Outcome.next (plannerRun_due hstate hpending hbin hrelock hfresh hdue)
    rw [hexec]
    subst hg hsc hsf
    unfold plannerRound
    dsimp only
    refine ⟨fun hc hf => congrArg Host.Outcome.next (if_pos ⟨hc, hf⟩), fun hlow hcode htime => ⟨_, rfl, ?_⟩,
      fun hc hcode hbin => ⟨_, rfl, ?_⟩, fun hlow hcode hbin => ⟨_, rfl, ?_⟩⟩
    · rw [if_neg (by rw [not_and_or, BitVec.not_le, BitVec.not_le]; exact hlow), if_pos ⟨hcode, Bool.eq_false_iff.mp htime⟩]
      exact ⟨rfl, rfl, rfl, rfl⟩
    · rw [if_neg (by rw [not_and_or, BitVec.not_le, BitVec.not_le]; exact .inl hc), if_neg (frozen hcode), if_pos ⟨hc, hbin⟩]
      exact binDropped_spec _ _ _ _ _ s
    · rw [if_neg (by rw [not_and_or, BitVec.not_le, BitVec.not_le]; exact hlow), if_neg (frozen hcode), if_neg (fun h => by have := hbin h.1; omega)]
      exact exhausted_spec _ rfl rfl s
  · refine congrArg Host.Outcome.next ?_
    unfold binChange
    rw [hpend]
    dsimp only
    rw [if_neg (by simp [htick, hpending]), hu]
  · exact congrArg Host.Outcome.next (relockDone_eq ht)
  · have hframe := relockSteps_frame l (atTime (t + us 20) { s with tick := { s.tick with relock := none } })
    refine ⟨_, congrArg Host.Outcome.next (relockDone_eq ht), hframe.time, congrArg Tick.relock hframe.tick, fun c hc => relockSteps_other l hc _, fun c _ hw => ?_,
      fun c h hc hw hphase hcode hfails => ?_⟩
    · exact relockSteps_waits (s := atTime (t + us 20) { s with tick := { s.tick with relock := none } }) l hw
    · obtain ⟨hlive, hinfo, hmem⟩ := relockSteps_runsOn
        (s := atTime (t + us 20) { s with tick := { s.tick with relock := none } }) hc hw hphase hcode hfails
      refine ⟨hlive, ?_, hmem⟩
      rw [hinfo]
      exact bit31_cleared _

end

section
-- One declaration after another: fewer threads, so that the check of the whole text keeps within its memory.
set_option Elab.async false
/-! PROOFS. What link traffic leaves: flits that wait or leave at ports, and routes that are recomputed (R336, R340, R341). -/
namespace Sys2Proof.Machine
open Sys2Proof

theorem postRecord_ringsOff {r : RecIn} {s : State} (h : RingsOff s) : RingsOff (postRecord r s) := by
  have hrings : RingsOff (afterRings r s) := by
    unfold afterRings
    dsimp only
    split
    · exact (ringWrite_off _ h).2
    · exact forAll_inv RingsOff _ (fun _ _ hu => (ringWrite_off _ hu).2) _ s h
  rw [postRecord_eq]
  split
  · obtain ⟨sf, hstop, -⟩ := ksafeStop_keeps r.code { afterRings r s with safety := recorded r s }
    rw [hstop]
    exact hrings
  · exact hrings

/-! ### Flits that wait or leave -/

/-- The training of a port: what no data flit and no record of a heartbeat changes. -/
abbrev trainingOf (p : LinkPort) : BitVec 2 × Byte × Byte × BitVec 4 × Bool × Bool × Nat × Word × Nat × Nat :=
  (p.state, p.laneMask, p.trainedLanes, p.lanes, p.heard, p.hears, p.fails, p.retrain, p.retrainAt, p.goodAt)

/-- Only flits and records that wait at ports, or leave by them, have changed. -/
structure Sends (s t : State) : Prop where
  rest : t = { s with links := { s.links with ports := t.links.ports } }
  training : ∀ l : LinkId, trainingOf t.links.ports[l] = trainingOf s.links.ports[l]

/-- Sending what may be sent is no training. -/
theorem pumpPort_training (n : Nat) (p : LinkPort) : trainingOf (pumpPort n p) = trainingOf p := by
  induction n generalizing p with
  | zero => rfl
  | succ n ih =>
    unfold pumpPort
    split
    · rfl
    · exact (ih _).trans rfl

namespace Sends
variable {s₀ s t : State}

theorem refl (s : State) : Sends s s := ⟨rfl, fun _ => rfl⟩

theorem trans (h : Sends s₀ s) (h' : Sends s t) : Sends s₀ t :=
  ⟨by rw [h'.rest, h.rest], fun l => (h'.training l).trans (h.training l)⟩

theorem modLink (h : Sends s₀ s) {l : LinkId} {f : LinkPort → LinkPort} (hf : trainingOf (f s.links.ports[l]) = trainingOf s.links.ports[l]) :
    Sends s₀ (modLink l f s) := by
  refine h.trans ⟨rfl, fun k => ?_⟩
  by_cases hk : l = k
  · subst hk
    exact (congrArg trainingOf (updAt_get_same _ _ _)).trans hf
  · exact congrArg trainingOf (updAt_get_other _ _ _ _ (Ne.symm hk))

theorem forAll {α : Type} {f : α → State → State} {l : List α} (h : Sends s₀ s) (hf : ∀ a u, Sends s₀ u → Sends s₀ (f a u)) :
    Sends s₀ (Machine.forAll l f s) := forAll_inv (Sends s₀) f hf l s h

theorem pump (h : Sends s₀ s) {l : LinkId} : Sends s₀ (pump l s) := by
  unfold Machine.pump
  split
  · exact h.modLink (pumpPort_training _ _)
  · exact h

theorem queueOn (h : Sends s₀ s) {l : LinkId} {fs : List Flit} : Sends s₀ (queueOn l fs s) := h.modLink rfl
theorem sendOn (h : Sends s₀ s) {l : LinkId} {fs : List Flit} : Sends s₀ (sendOn l fs s) := h.queueOn.pump
theorem sendOver (h : Sends s₀ s) {l : LinkId} {fs : List Flit} : Sends s₀ (sendOver l fs s) := h.sendOn
theorem sendTo (h : Sends s₀ s) {dst : Nat} {fs : List Flit} : Sends s₀ (sendTo dst fs s) := by
  unfold Machine.sendTo
  split
  · exact h.sendOver
  · exact h
theorem sendVia (h : Sends s₀ s) {port : Option LinkId} {dst : Nat} {fs : List Flit} : Sends s₀ (sendVia port dst fs s) := by
  unfold Machine.sendVia
  split
  · exact h.sendOver
  · exact h
theorem sendMsg (h : Sends s₀ s) {cls : Fin 4} {type dst addr : Nat} {body : List Byte} : Sends s₀ (sendMsg cls type dst addr body s) := h.sendTo
theorem sendNext (h : Sends s₀ s) {l : LinkId} {type : Nat} {body : List Byte} : Sends s₀ (sendNext l type body s) := h.sendOn
theorem sendFence (h : Sends s₀ s) {p : PartId} {type dst fid : Nat} {body : List Byte} : Sends s₀ (sendFence p type dst fid body s) := by
  unfold Machine.sendFence
  split
  · exact h.sendMsg
  · exact h
theorem freeBuffer (h : Sends s₀ s) {l : LinkId} {cls : Fin 4} : Sends s₀ (freeBuffer l cls s) := h.modLink rfl

end Sends

/-! ### Routes that are recomputed -/

/-- What an engine knows of its system. -/
abbrev systemOf (k : Links) : BitVec 2 × BitVec 5 × Half × Word × Word × Vector Word 16 × Option Nat × Word × List (Nat × BitVec 5 × Word) ×
    Option EnumRun :=
  (k.sys, k.addr, k.epoch, k.members, k.config, k.groups, k.settle, k.lost, k.joins, k.enum)

/-- The boot sequencer, the regions of staging, and whether a run of the planner is asked for. -/
abbrev standing (s : State) : Boot × Vector SgRegion 16 × Bool := (s.boot, s.sg.regions, s.safety.plannerDue)

theorem postRecord_standing (r : RecIn) (s : State) : standing (postRecord r s) = standing s := by
  obtain ⟨x, hx⟩ := afterRings_changes r s
  rw [postRecord_eq, hx, ksafeStop]
  dsimp only
  split
  · split <;> rfl
  · rfl

/-- Time, the capability table's number, the general interrupt causes, the membership, and what stands of boot, staging and planner stay. -/
structure Carried (s t : State) : Prop where
  time : t.time = s.time
  gen : t.host.genCount = s.host.genCount
  gint : t.bnd.gintStatus = s.bnd.gintStatus
  system : systemOf t.links = systemOf s.links
  stand : standing t = standing s

/-- What recomputed routes leave, whatever they send anew or bar. -/
structure Routed (s t : State) : Prop extends Carried s t where
  fabric : t.fabric = s.fabric
  result : t.links.enumResult = s.links.enumResult
  training : ∀ l : LinkId, trainingOf t.links.ports[l] = trainingOf s.links.ports[l]
  rings : RingsOff s → RingsOff t ∧ t.dram = s.dram

namespace Carried
variable {s₀ s t : State}

theorem refl (s : State) : Carried s s := ⟨rfl, rfl, rfl, rfl, rfl⟩

theorem trans (h : Carried s₀ s) (h' : Carried s t) : Carried s₀ t :=
  ⟨h'.time.trans h.time, h'.gen.trans h.gen, h'.gint.trans h.gint, h'.system.trans h.system, h'.stand.trans h.stand⟩

theorem of_eq (h : Carried s₀ s) (htime : t.time = s.time := by rfl) (hgen : t.host.genCount = s.host.genCount := by rfl)
    (hgint : t.bnd.gintStatus = s.bnd.gintStatus := by rfl) (hsystem : systemOf t.links = systemOf s.links := by rfl)
    (hstand : standing t = standing s := by rfl) : Carried s₀ t :=
  h.trans ⟨htime, hgen, hgint, hsystem, hstand⟩

theorem sends (h : Carried s₀ s) (h' : Sends s t) : Carried s₀ t := by
  rw [h'.rest]
  exact h.of_eq

theorem postRecord (h : Carried s₀ s) {r : RecIn} (hr : r.dangerous = false) : Carried s₀ (postRecord r s) :=
  h.of_eq (postRecord_time r s) (postRecord_genCount r s) (congrArg Boundary.gintStatus (postRecord_bnd hr s))
    (congrArg systemOf (postRecord_links r s)) (postRecord_standing r s)

end Carried

namespace Routed
variable {s₀ s t : State}

theorem refl (s : State) : Routed s s := ⟨.refl s, rfl, rfl, fun _ => rfl, fun h => ⟨h, rfl⟩⟩

theorem trans (h : Routed s₀ s) (h' : Routed s t) : Routed s₀ t :=
  ⟨h.toCarried.trans h'.toCarried, h'.fabric.trans h.fabric, h'.result.trans h.result, fun l => (h'.training l).trans (h.training l),
    fun hoff => ⟨(h'.rings (h.rings hoff).1).1, ((h'.rings (h.rings hoff).1).2).trans (h.rings hoff).2⟩⟩

theorem sends (h : Routed s₀ s) (h' : Sends s t) : Routed s₀ t := by
  refine h.trans ⟨(Carried.refl s).sends h', ?_, ?_, h'.training, ?_⟩
  · rw [h'.rest]
  · rw [h'.rest]
  · rw [h'.rest]
    exact fun hoff => ⟨hoff, rfl⟩

theorem postRecord (h : Routed s₀ s) {r : RecIn} (hr : r.dangerous = false) : Routed s₀ (postRecord r s) :=
  h.trans ⟨(Carried.refl s).postRecord hr, postRecord_fabric r s, by rw [postRecord_links], fun _ => by rw [postRecord_links],
    fun hoff => ⟨postRecord_ringsOff hoff, postRecord_dram_off hoff⟩⟩

theorem forAll {α : Type} {f : α → State → State} {l : List α} (h : Routed s₀ s) (hf : ∀ a u, Routed s₀ u → Routed s₀ (f a u)) :
    Routed s₀ (Machine.forAll l f s) := forAll_inv (Routed s₀) f hf l s h

theorem securityFault (h : Routed s₀ s) {unit index addr : Nat} : Routed s₀ (securityFault unit index addr s) :=
  (h.postRecord rfl).trans ⟨⟨rfl, rfl, rfl, rfl, rfl⟩, rfl, rfl, fun _ => rfl, fun hoff => ⟨hoff, rfl⟩⟩

theorem modCore (h : Routed s₀ s) {c : CoreId} {f : Core → Core} : Routed s₀ (modCore c f s) :=
  h.trans ⟨⟨rfl, rfl, rfl, rfl, rfl⟩, rfl, rfl, fun _ => rfl, fun hoff => ⟨hoff, rfl⟩⟩

theorem raiseLogged (h : Routed s₀ s) {c : CoreId} {x : HaltCond} : Routed s₀ (raiseLogged c x s) := by
  unfold Machine.raiseLogged
  dsimp only
  split
  · exact h.securityFault.modCore
  · exact h.modCore

theorem dxOwnHalt (h : Routed s₀ s) {c : CoreId} {ch : ChanId} {x : HaltCond} : Routed s₀ (dxOwnHalt c ch x s) :=
  raiseLogged (modCore h)

theorem memberAck (h : Routed s₀ s) {e : Nat} {r : SentRun} : Routed s₀ (memberAck e r s) := by
  unfold Machine.memberAck
  split
  · exact modCore h
  · exact h

/-- The links change in what no engine knows of its system, and not in their training. -/
theorem setLinks (h : Routed s₀ s) {k : Links} (hsystem : systemOf k = systemOf s.links := by rfl)
    (hresult : k.enumResult = s.links.enumResult := by rfl)
    (htraining : ∀ l : LinkId, trainingOf k.ports[l] = trainingOf s.links.ports[l] := by exact fun _ => rfl) : Routed s₀ { s with links := k } :=
  h.trans ⟨⟨rfl, rfl, rfl, hsystem, rfl⟩, rfl, hresult, htraining, fun hoff => ⟨hoff, rfl⟩⟩

theorem denyRun (h : Routed s₀ s) {kind : Nat} {r : SentRun} : Routed s₀ (denyRun kind r s) := by
  unfold Machine.denyRun
  extract_lets links acked
  have hacked : Routed s₀ acked := memberAck h.setLinks
  split
  · split
    · exact hacked.dxOwnHalt
    · exact hacked
  · exact hacked

theorem moveDest (h : Routed s₀ s) {d : Nat} : Routed s₀ (moveDest d s) := by
  unfold Machine.moveDest
  extract_lets denied runs own goes others links cleared sent
  have hdenied : Routed s₀ denied := h.forAll fun _ _ hu => hu.denyRun
  have hcleared : Routed s₀ cleared := by
    change Routed s₀ { denied with links := _ }
    refine hdenied.setLinks rfl rfl fun l => ?_
    dsimp only
    rw [Fin.getElem_fin, Vector.getElem_map]
    rfl
  have hsent : Routed s₀ sent := hcleared.sends (((Sends.refl _).forAll fun _ _ hu => hu.sendVia).sendTo)
  split
  · exact hsent.sends (Sends.refl _).sendMsg
  · exact hsent

theorem rerouteFor (h : Routed s₀ s) {also : Nat → Bool} : Routed s₀ (rerouteFor also s) := h.setLinks.forAll fun _ _ hu => hu.moveDest

theorem reroute (h : Routed s₀ s) : Routed s₀ (reroute s) := h.rerouteFor

end Routed

/-- Without a run that waits for its acknowledgement no core is concerned by a change of routes. -/
def Unbarred (s t : State) : Prop := t.links.sent = [] ∧ t.cores = s.cores

theorem Unbarred.sends {s₀ s t : State} (h : Unbarred s₀ s) (h' : Sends s t) : Unbarred s₀ t := by
  rw [h'.rest]
  exact h

theorem moveDest_unbarred {s₀ s : State} (h : Unbarred s₀ s) (d : Nat) : Unbarred s₀ (moveDest d s) := by
  obtain ⟨hsent, hcores⟩ := h
  unfold moveDest
  extract_lets denied runs own goes others links cleared sent
  have hdenied : denied = s := by
    show forAll (s.links.sent.filter _) _ s = s
    rw [hsent]
    rfl
  have hcleared : Unbarred s₀ cleared := ⟨(congrArg (·.links.sent) hdenied).trans hsent, (congrArg State.cores hdenied).trans hcores⟩
  have hdone : Unbarred s₀ sent := hcleared.sends (((Sends.refl _).forAll fun _ _ hu => hu.sendVia).sendTo)
  split
  · exact hdone.sends (Sends.refl _).sendMsg
  · exact hdone

theorem rerouteFor_unbarred {s₀ s : State} (h : Unbarred s₀ s) (also : Nat → Bool) : Unbarred s₀ (rerouteFor also s) := by
  unfold rerouteFor
  exact forAll_inv (Unbarred s₀) moveDest (fun d _ hu => moveDest_unbarred hu d) _ _ ⟨h.1, h.2⟩

end Sys2Proof.Machine
open Sys2Proof Sys2Proof.Machine

end

section
-- One declaration after another: fewer threads, so that the check of the whole text keeps within its memory.
set_option Elab.async false
/-! PROOFS. Link ports: flits that arrive, training and retraining (O50). -/
namespace Sys2Proof.Machine
open Sys2Proof

theorem modLink_port (l : LinkId) (f : LinkPort → LinkPort) (s : State) : (modLink l f s).links.ports[l] = f s.links.ports[l] :=
  updAt_get_same _ _ _

/-! ### Data flits -/

/-- A good data flit: the port hears its neighbour. -/
theorem dataFlit_good {l : LinkId} {raw : List Byte} {s : State} (hreceives : receives s l = true) (hgood : flitGood raw = true)
    (htype : leNat (raw.take 1) % 16 = 1) : dataFlit l raw s =
    if (flitOf raw).lseq = (s.links.ports[l]).rxSeq + 1 then acceptFlit l (flitOf raw) (modLink l (fun p => { p with goodAt := s.time, hears := true }) s)
    else discardFlit l (modLink l (fun p => { p with goodAt := s.time, hears := true }) s) := by
  unfold dataFlit
  rw [if_neg (not_not.mpr hreceives), if_neg (not_not.mpr hgood), if_neg (not_not.mpr htype)]
  dsimp only
  rw [modLink_port]

/-- The state of a port that has accepted a flit. -/
abbrev acceptedAt (l : LinkId) (f : Flit) (s : State) : State :=
  modLink l (fun p => { p with goodAt := s.time, hears := true, rxSeq := f.lseq, discarding := false }) s

/-- An accepted flit, by where it goes. -/
theorem acceptFlit_heard (l : LinkId) (f : Flit) (s : State) : acceptFlit l f (modLink l (fun p => { p with goodAt := s.time, hears := true }) s) =
    if islanded s ∧ f.cls.val ≤ 2 then freeBuffer l f.cls (acceptedAt l f s)
    else if f.cls.val ≤ 1 ∧ f.dst.toNat = ownAddr s then takeRunFlit l f (acceptedAt l f s)
    else if hopwise f ∨ f.dst.toNat = ownAddr s then modLinks (fun k => { k with rx := k.rx ++ [(l, f)] }) (acceptedAt l f s)
    else passOn l f (freeBuffer l f.cls (acceptedAt l f s)) := by
  unfold acceptFlit
  rw [modLink_modLink]
  rfl

/-! ### Control flits -/

theorem takeHeartbeat_routed {s₀ s : State} (h : Routed s₀ s) (l : LinkId) (r : HbRec) : Routed s₀ (takeHeartbeat l r s) := by
  unfold takeHeartbeat
  split
  · exact h
  · extract_lets e first restart seen
    have hseen : Routed s₀ seen := h.setLinks
    split
    · exact hseen
    · exact hseen.sends ((Sends.refl _).forAll fun o _ hu => hu.modLink rfl)

theorem takeHeartbeat_unbarred {s₀ s : State} (h : Unbarred s₀ s) (l : LinkId) (r : HbRec) : Unbarred s₀ (takeHeartbeat l r s) := by
  unfold takeHeartbeat
  split
  · exact h
  · extract_lets e first restart seen
    have hseen : Unbarred s₀ seen := ⟨h.1, h.2⟩
    split
    · exact hseen
    · exact hseen.sends ((Sends.refl _).forAll fun o _ hu => hu.modLink rfl)

/-- The port after its part of a control flit. -/
abbrev controlledPort (l : LinkId) (raw : List Byte) (now : Nat) (p : LinkPort) : LinkPort :=
  { addCredits raw (takeNak ((leNat ((raw.drop 18).take 1)).testBit 0) (BitVec.ofNat 16 (leNat ((raw.drop 16).take 2)))
      (ackFlits (BitVec.ofNat 16 (leNat ((raw.drop 16).take 2))) p)) with
    goodAt := now, hears := true, heard := (leNat ((raw.drop 18).take 1)).testBit 1, neighbour := neighbourOf l raw }

/-- Acknowledgements, credits and naks leave the lanes of a port. -/
theorem controlledPort_trained (l : LinkId) (raw : List Byte) (now : Nat) (p : LinkPort) : trained (controlledPort l raw now p) = trained p := by
  unfold controlledPort addCredits takeNak ackFlits trained
  dsimp only
  split <;> split <;> rfl

/-- The state once a control flit has been taken but for its heartbeats. -/
def controlled (l : LinkId) (raw : List Byte) (s : State) : State :=
  if upAfter (controlledPort l raw s.time s.links.ports[l]) = (controlledPort l raw s.time s.links.ports[l]).state
  then modLink l (controlledPort l raw s.time) s
  else portChange l (fun p => { p with state := upAfter (controlledPort l raw s.time s.links.ports[l]) }) (modLink l (controlledPort l raw s.time) s)

theorem takeControl_eq (l : LinkId) (raw : List Byte) (s : State) :
    takeControl l raw s = pump l (forAll ((List.range 28).filterMap (hbRecOf raw)) (takeHeartbeat l) (controlled l raw s)) := by
  unfold controlled
  rw [← modLink_port l (controlledPort l raw s.time) s]
  rfl

theorem portRecord_routed (l : LinkId) (s : State) : Routed s (portRecord l s) := by
  unfold portRecord
  exact (Routed.refl s).postRecord rfl

theorem portRecord_posted (l : LinkId) (s : State) : Posted s (portRecord l s) 0x20 := by
  unfold portRecord
  exact posted_postRecord _ s (by norm_num)

/-- A change of a port: its record, and routes recomputed. -/
theorem portChange_spec (l : LinkId) (f : LinkPort → LinkPort) (s : State) : PortPosted s (portChange l f s) ∧
    Routed (modLink l f s) (portChange l f s) ∧ (s.links.sent = [] → (portChange l f s).links.sent = [] ∧ (portChange l f s).cores = s.cores) := by
  refine ⟨⟨_, _, ?_, rfl⟩, (portRecord_routed l _).rerouteFor, fun hsent => rerouteFor_unbarred ?_ _⟩
  · exact Posted.of_eq (s := modLink l f s) (portRecord_posted l (modLink l f s))
  · exact ⟨(congrArg Links.sent (postRecord_links _ _)).trans hsent, postRecord_cores _ _⟩

/-- What a port has become after a change that it made of its training. -/
theorem portChange_training {l : LinkId} {f : LinkPort → LinkPort} {s : State} :
    trainingOf (portChange l f s).links.ports[l] = trainingOf (f s.links.ports[l]) :=
  ((portChange_spec l f s).2.1.training l).trans (congrArg trainingOf (modLink_port l f s))

/-- The state of a trained port after a control flit: up where both ends hear each other. -/
def heardState (raw : List Byte) : BitVec 2 := if (leNat ((raw.drop 18).take 1)).testBit 1 = true then 3 else 2

/-- The port after a control flit. -/
def heardPort (l : LinkId) (raw : List Byte) (now : Nat) (p : LinkPort) : LinkPort := { controlledPort l raw now p with state := heardState raw }

/-- A port takes a state. -/
def withState (x : BitVec 2) (p : LinkPort) : LinkPort := { p with state := x }

theorem modLink_heard (l : LinkId) (raw : List Byte) (s : State) :
    modLink l (heardPort l raw s.time) s = modLink l (withState (heardState raw)) (modLink l (controlledPort l raw s.time) s) := by
  rw [modLink_modLink]
  rfl

theorem upAfter_controlled {l : LinkId} {raw : List Byte} {s : State} (hreceives : receives s l = true) :
    upAfter (controlledPort l raw s.time s.links.ports[l]) = heardState raw := by
  have htrained : trained (controlledPort l raw s.time s.links.ports[l]) = true := by
    rw [controlledPort_trained]
    exact (Bool.and_eq_true_iff.mp hreceives).1
  unfold upAfter heardState
  rw [htrained]
  simp

/-- What a good control flit has done: the port's training, and what the rest leaves. -/
theorem controlled_spec (l : LinkId) (raw : List Byte) {s : State} (hreceives : receives s l = true) :
    Routed (modLink l (heardPort l raw s.time) s) (controlled l raw s) ∧ (s.links.sent = [] → Unbarred s (controlled l raw s)) := by
  have hup := upAfter_controlled (raw := raw) hreceives
  by_cases hsame : heardState raw = (controlledPort l raw s.time s.links.ports[l]).state
  · have hctl : controlled l raw s = modLink l (controlledPort l raw s.time) s := if_pos (hup.trans hsame)
    have hfixed : modLink l (withState (heardState raw)) (modLink l (controlledPort l raw s.time) s) = modLink l (controlledPort l raw s.time) s := by
      have hport : withState (heardState raw) (modLink l (controlledPort l raw s.time) s).links.ports[l]
          = (modLink l (controlledPort l raw s.time) s).links.ports[l] := by
        rw [modLink_port, hsame]
        rfl
      exact congrArg (fun p => { modLink l (controlledPort l raw s.time) s with links := { s.links with ports := p } }) (updAt_fixed hport)
    rw [modLink_heard, hfixed, hctl]
    exact ⟨Routed.refl _, fun hsent => ⟨hsent, rfl⟩⟩
  · have hctl : controlled l raw s = portChange l (withState (heardState raw)) (modLink l (controlledPort l raw s.time) s) := by
      refine (if_neg (fun h => hsame (hup.symm.trans h))).trans ?_
      rw [hup]
      rfl
    obtain ⟨-, hrouted, hquiet⟩ := portChange_spec l (withState (heardState raw)) (modLink l (controlledPort l raw s.time) s)
    rw [modLink_heard, hctl]
    exact ⟨hrouted, hquiet⟩

/-- A good control flit leaves the port heard as it says, in the state that follows. -/
theorem takeControl_spec (l : LinkId) (raw : List Byte) {s : State} (hreceives : receives s l = true) :
    Routed (modLink l (heardPort l raw s.time) s) (takeControl l raw s) ∧
    (s.links.sent = [] → Unbarred s (takeControl l raw s)) := by
  obtain ⟨hrouted, hquiet⟩ := controlled_spec l raw hreceives
  rw [takeControl_eq]
  exact ⟨(hrouted.forAll fun r _ hu => takeHeartbeat_routed hu l r).sends (Sends.refl _).pump,
    fun hsent => (forAll_inv (Unbarred s) _ (fun r _ hu => takeHeartbeat_unbarred hu l r) _ _ (hquiet hsent)).sends (Sends.refl _).pump⟩

/-! ### Retraining -/

/-- A retrain that begins: its record and routes, and what the port has become. -/
theorem retrainStart_spec (l : LinkId) (fails : Nat) (s : State) : PortPosted s (retrainStart l fails s) ∧ (retrainStart l fails s).time = s.time ∧
    trainingOf (retrainStart l fails s).links.ports[l]
      = (2, 0, 0, 0, false, false, fails, satAdd (s.links.ports[l]).retrain 1, s.time, (s.links.ports[l]).goodAt) :=
  ⟨(portChange_spec l _ s).1, (portChange_spec l _ s).2.1.time, portChange_training⟩

/-- A port in state 2 whose lanes have not trained. -/
theorem untrained_ready {p : LinkPort} (hstate : p.state = 2) (hmask : p.laneMask = 0) : ¬ (p.state ≠ 2 ∨ trained p = true) := by
  simp [trained, hstate, hmask]

/-- PortPosted speaks of the log before alone. -/
theorem PortPosted.of_log {s s' t : State} (h : PortPosted s t) (hsafety : s'.safety = s.safety) : PortPosted s' t := by
  obtain ⟨also, v, hposted, ht⟩ := h
  exact ⟨also, v, hposted.of_eq (by rw [hsafety]) (by rw [hsafety]), ht⟩

end Sys2Proof.Machine
open Sys2Proof Sys2Proof.Machine

/-- Settles O50: ports take or discard flits in sequence, and retrain, go down and come back with a record and new routes. -/
theorem linkPortsCarryFlits : Obligations.LinkPortsCarryFlits := by
  unfold Obligations.LinkPortsCarryFlits
  refine ⟨fun l raw s v f hf hv => ⟨fun hno => ⟨congrArg Host.Outcome.next (if_pos (Bool.eq_false_iff.mp hno)),
      congrArg Host.Outcome.next (if_pos (Bool.eq_false_iff.mp hno))⟩, fun hreceives hbad => ?_, rfl, fun hreceives hgood htype => ?_,
    fun hreceives hgood htype => ?_⟩, fun l s => ⟨fun hreceives => ?_, fun lanes hstate hmask => ⟨fun hlanes => ?_, fun hlanes hfails => ?_,
    fun hlanes hfails => ?_⟩, fun hstate => ?_⟩⟩
  · exact ⟨congrArg Host.Outcome.next ((if_neg (not_not.mpr hreceives)).trans (if_pos (Bool.eq_false_iff.mp hbad))),
      congrArg Host.Outcome.next ((if_neg (not_not.mpr hreceives)).trans (if_pos (Bool.eq_false_iff.mp hbad)))⟩
  · have hflit := dataFlit_good hreceives hgood htype
    rw [← hf] at hflit
    refine ⟨fun hseq => congrArg Host.Outcome.next (hflit.trans (if_neg hseq)), fun hseq => ?_⟩
    have haccept := (hflit.trans (if_pos hseq)).trans (acceptFlit_heard l f s)
    rw [show acceptedAt l f s = v from hv.symm] at haccept
    refine ⟨fun hisland hcls => congrArg Host.Outcome.next (haccept.trans (if_pos ⟨hisland, hcls⟩)), fun hcls hfor => ?_,
      fun hisland hcls hdst hpseq => ?_, fun hisland hcls hdst hpseq hahead => ?_⟩
    · refine congrArg Host.Outcome.next (haccept.trans ((if_neg ?_).trans ((if_neg (fun h => by omega)).trans (if_pos hfor))))
      rintro ⟨hisland, hlow⟩
      rcases hcls with hcls | ⟨-, hno⟩
      · omega
      · rw [hno] at hisland
        exact absurd hisland Bool.false_ne_true
    · refine congrArg Host.Outcome.next (haccept.trans ((if_neg (fun h => by simp [hisland] at h)).trans ((if_pos ⟨by omega, hdst⟩).trans ?_)))
      subst hv
      unfold takeRunFlit
      dsimp only
      exact (if_pos hpseq).trans (if_neg (fun h => by rw [h.1] at hcls; exact absurd hcls (by decide)))
    · refine congrArg Host.Outcome.next (haccept.trans ((if_neg (fun h => by simp [hisland] at h)).trans ((if_pos ⟨hcls, hdst⟩).trans ?_)))
      subst hv
      unfold takeRunFlit
      dsimp only
      exact (if_neg hpseq).trans (if_neg (by show ¬ (s.links.pseqFrom[(f.src.toFin : Fin 32)] - f.pseq).toNat < 2048; omega))
  · obtain ⟨hrouted, hquiet⟩ := takeControl_spec l raw hreceives
    have htraining := hrouted.training l
    rw [modLink_port] at htraining
    refine ⟨takeControl l raw s, congrArg Host.Outcome.next ((if_neg (not_not.mpr hreceives)).trans ((if_neg (not_not.mpr hgood)).trans
      (if_neg (not_not.mpr htype)))), ?_, ?_, ?_, ?_, fun hsent => (hquiet hsent).2, hrouted.fabric, hrouted.time, fun hoff => (hrouted.rings hoff).2⟩
    · exact congrArg (fun x => x.2.2.2.2.2.2.2.2.2) htraining
    · exact congrArg (fun x => x.2.2.2.2.2.1) htraining
    · exact congrArg (fun x => x.2.2.2.2.1) htraining
    · exact congrArg (fun x => x.1) htraining
  · by_cases hnak : 16 ≤ (s.links.ports[l]).nakCount
    · obtain ⟨hposted, htime, htraining⟩ := retrainStart_spec l 0 s
      refine ⟨_, congrArg Host.Outcome.next ((if_neg (not_not.mpr hreceives)).trans (if_pos hnak)), hposted, ?_⟩
      simp only [trainingOf, Prod.mk.injEq] at htraining
      obtain ⟨hstate, hmask, hlanes, -, hheard, -, hfails, hretrain, hat, -⟩ := htraining
      rw [if_pos hnak]
      exact ⟨hstate, hmask, hlanes, hheard, hfails, hretrain, hat.trans htime.symm, htime⟩
    · obtain ⟨hposted, htime, htraining⟩ := retrainStart_spec l 0 (atTime ((s.links.ports[l]).goodAt + us 50) s)
      refine ⟨_, congrArg Host.Outcome.next ((if_neg (not_not.mpr hreceives)).trans (if_neg hnak)), hposted.of_log rfl, ?_⟩
      simp only [trainingOf, Prod.mk.injEq] at htraining
      obtain ⟨hstate, hmask, hlanes, -, hheard, -, hfails, hretrain, hat, -⟩ := htraining
      rw [if_neg hnak]
      exact ⟨hstate, hmask, hlanes, hheard, hfails, hretrain, hat.trans htime.symm, htime⟩
  · have htrained : ¬ ((s.links.ports[l]).state ≠ 2 ∨ trained s.links.ports[l] = true) := untrained_ready hstate hmask
    obtain ⟨hposted, hrouted, -⟩ := portChange_spec l (fun p => { p with
      laneMask := usedLanes lanes, trainedLanes := lanes, lanes := if usedLanes lanes = 0xFF then 8 else 4, fails := 0, goodAt := s.time
      replay := satAdd p.replay p.buffer.length }) s
    have htraining := hrouted.training l
    rw [modLink_port] at htraining
    simp only [trainingOf, Prod.mk.injEq] at htraining
    obtain ⟨hstate', hmask', hlanes', hwidth, -, -, hfails, -, -, hgood⟩ := htraining
    exact ⟨_, congrArg Host.Outcome.next ((if_neg htrained).trans (if_pos hlanes)), hposted, hstate'.trans hstate, hmask', hlanes', hwidth, hfails,
      hgood, hrouted.time⟩
  · have htrained : ¬ ((s.links.ports[l]).state ≠ 2 ∨ trained s.links.ports[l] = true) := untrained_ready hstate hmask
    obtain ⟨hposted, htime, htraining⟩ := retrainStart_spec l ((s.links.ports[l]).fails + 1) (atTime ((s.links.ports[l]).retrainAt + us 100) s)
    simp only [trainingOf, Prod.mk.injEq] at htraining
    exact ⟨_, congrArg Host.Outcome.next ((if_neg htrained).trans ((if_neg (not_not.mpr hlanes)).trans (if_neg (by omega)))), hposted.of_log rfl,
      htraining.1, htraining.2.2.2.2.2.2.1, htime⟩
  · have htrained : ¬ ((s.links.ports[l]).state ≠ 2 ∨ trained s.links.ports[l] = true) := untrained_ready hstate hmask
    obtain ⟨hposted, hrouted, -⟩ := portChange_spec l (fun p => { p with
      state := 1, fails := 3, retrainAt := (atTime ((s.links.ports[l]).retrainAt + us 100) s).time }) (atTime ((s.links.ports[l]).retrainAt + us 100) s)
    have htraining := hrouted.training l
    rw [modLink_port] at htraining
    exact ⟨_, congrArg Host.Outcome.next ((if_neg htrained).trans ((if_neg (not_not.mpr hlanes)).trans (if_pos hfails))), hposted.of_log rfl,
      congrArg (fun x => x.1) htraining, hrouted.time⟩
  · obtain ⟨hposted, htime, htraining⟩ := retrainStart_spec l 2 (atTime ((s.links.ports[l]).retrainAt + us 10000) s)
    simp only [trainingOf, Prod.mk.injEq] at htraining
    exact ⟨_, congrArg Host.Outcome.next (if_neg (not_not.mpr hstate)), hposted.of_log rfl, htraining.1, htraining.2.2.2.2.2.2.1, htime⟩

end

section
-- One declaration after another: fewer threads, so that the check of the whole text keeps within its memory.
set_option Elab.async false
/-! PROOFS. What changes of fences, heads and members leave: time, the capability table's number, interrupt causes, and the membership (R283, R285,
R347, R350). -/
namespace Sys2Proof.Machine
open Sys2Proof

namespace Carried
variable {s₀ s t : State}

theorem ite {c : Prop} [Decidable c] (hs : Carried s₀ s) (ht : Carried s₀ t) : Carried s₀ (if c then s else t) := by
  split
  · exact hs
  · exact ht

theorem forAll {α : Type} {f : α → State → State} {l : List α} (h : Carried s₀ s) (hf : ∀ a u, Carried s₀ u → Carried s₀ (f a u)) :
    Carried s₀ (Machine.forAll l f s) := forAll_inv (Carried s₀) f hf l s h

/-! ### Updates of one unit, records and host accesses -/

theorem modCore (h : Carried s₀ s) {c : CoreId} {f : Core → Core} : Carried s₀ (modCore c f s) := h.of_eq
theorem raiseHalt (h : Carried s₀ s) {c : CoreId} {x : HaltCond} : Carried s₀ (raiseHalt c x s) := h.of_eq
theorem modFence (h : Carried s₀ s) {a : Nat} {f : Fence → Fence} : Carried s₀ (modFence a f s) := h.of_eq
theorem modQueue (h : Carried s₀ s) {q : Nat} {f : HostQueue → HostQueue} : Carried s₀ (modQueue q f s) := h.of_eq
theorem modPart (h : Carried s₀ s) {p : PartId} {f : Partition → Partition} : Carried s₀ (modPart p f s) := h.of_eq
theorem setPtInt (h : Carried s₀ s) {p : PartId} {x : BitVec 5} : Carried s₀ (setPtInt p x s) := h.of_eq
theorem securityFault (h : Carried s₀ s) {unit index addr : Nat} : Carried s₀ (securityFault unit index addr s) := (h.postRecord rfl).of_eq
theorem sendFence (h : Carried s₀ s) {p : PartId} {type dst fid : Nat} {body : List Byte} : Carried s₀ (sendFence p type dst fid body s) :=
  h.sends (Sends.refl _).sendFence

theorem storeAfter (h : Carried s₀ s) {spa : Nat} {bs : List Byte} : Carried s₀ (storeAfter spa bs s) := by
  obtain ⟨d, l, hs, -⟩ := performBefore_changes spa bs s
  unfold Machine.storeAfter storeSpa
  rw [hs]
  exact h.of_eq

theorem hostTranslate (h : Carried s₀ s) {p : PartId} {secure : Bool} {asid va : Nat} {write : Bool} :
    Carried s₀ (hostTranslate p secure asid va write s).2 := by
  obtain ⟨tlb, e, hs⟩ := translate_changes s secure asid va write
  have htranslated : Carried s₀ (translate s secure asid va write).2 := by
    rw [hs]
    exact h.of_eq
  unfold Machine.hostTranslate
  split
  case h_1 htr => rwa [htr] at htranslated
  case h_2 htr =>
    rw [htr] at htranslated
    exact ite htranslated.securityFault htranslated

theorem writeFor (h : Carried s₀ s) {x : MemSite} {spa : Nat} {bs : List Byte} : Carried s₀ (writeFor x spa bs s).2 := by
  obtain ⟨d, pe, n, l, hs, -⟩ := writeFor_changes x spa bs s
  rw [hs]
  exact h.of_eq

/-- The state of a pair that has been computed. -/
theorem of_snd {α : Type} {x : α × State} {a : α} (h : Carried s₀ x.2) (e : x = (a, t)) : Carried s₀ t := by
  rwa [e] at h

/-! ### Fences, completion entries and waiting heads -/

theorem sendUpdates (h : Carried s₀ s) {a : Nat} : Carried s₀ (sendUpdates a s) := by
  unfold Machine.sendUpdates
  split
  · exact h
  · exact h.forAll fun _ _ hu => hu.sendFence

theorem fenceFail (h : Carried s₀ s) {f : Fence} : Carried s₀ (fenceFail f s) := h.modFence.sendUpdates.postRecord rfl

theorem useFence (h : Carried s₀ s) {a : Nat} : Carried s₀ (useFence a s) := by
  unfold Machine.useFence
  split
  · exact h
  · exact ite h (ite h.securityFault.modFence.fenceFail (ite h.modFence h.modFence.sendUpdates))

theorem writeThrough (h : Carried s₀ s) {a : Nat} : Carried s₀ (writeThrough a s) := by
  unfold Machine.writeThrough
  split
  · exact h
  · exact ite h.securityFault.fenceFail h.storeAfter

theorem applySignal (h : Carried s₀ s) {a : Nat} {v : BitVec 64} {err ext : Bool} {p : PartId} : Carried s₀ (applySignal a v err ext p s) := by
  unfold Machine.applySignal
  extract_lets used
  have hused : Carried s₀ used := h.useFence
  split
  · exact hused
  · extract_lets moves counted
    have hcounted : Carried s₀ counted := ite hused hused.modPart
    exact ite hcounted.modFence.sendUpdates hcounted

theorem writeBackAll (h : Carried s₀ s) {before : State} : Carried s₀ (writeBackAll before s) := h.forAll fun _ _ hu => ite hu hu.writeThrough

theorem applyKey (h : Carried s₀ s) {k : FenceKey} {v : BitVec 64} {err ext : Bool} {p : PartId} : Carried s₀ (applyKey k v err ext p s) := by
  unfold Machine.applyKey
  split
  · exact h.applySignal
  · split
    · exact ite h.sendFence h
    · exact h

theorem signalRefs (h : Carried s₀ s) {p : PartId} {packet : List Byte} {err : Bool} : Carried s₀ (signalRefs p packet err s) := by
  have huse : ∀ (k : FenceKey) {u : State}, Carried s₀ u → Carried s₀ (useKey k u) := fun k u hu => by
    cases k
    · exact hu.useFence
    · exact hu
  refine h.forAll fun x u hu => ?_
  dsimp only
  split
  · exact huse _ hu
  · exact (huse _ hu).applyKey

theorem queueError (h : Carried s₀ s) {q : HostQueue} {tag va : Nat} : Carried s₀ (queueError q tag va s) := h.modQueue.postRecord rfl

theorem writeEntry (h : Carried s₀ s) {qid seq tag : Nat} {c : Completion} : Carried s₀ (writeEntry qid seq tag c s) := by
  unfold Machine.writeEntry
  split
  · exact h
  · refine ite h ?_
    dsimp only
    split
    case h_1 htr => exact (h.hostTranslate.of_snd htr).queueError
    case h_2 htr =>
      split
      case h_1 hw => exact (h.hostTranslate.of_snd htr).writeFor.of_snd hw
      case h_2 hw => exact ((h.hostTranslate.of_snd htr).writeFor.of_snd hw).queueError

theorem tagEnd (h : Carried s₀ s) {p : PartId} {tag qid seq : Nat} {fault : Bool} : Carried s₀ (tagEnd p tag qid seq fault s) := ite h h.of_eq

theorem jobFinish (h : Carried s₀ s) {p : PartId} {qid seq : Nat} {packet : List Byte} {started : Bool} {c : Completion} :
    Carried s₀ (jobFinish p qid seq packet started c s) :=
  ite h.tagEnd.writeEntry.signalRefs.setPtInt h.tagEnd.writeEntry.signalRefs

theorem settleLoop (h : Carried s₀ s) {n : Nat} : Carried s₀ (settleLoop n s) := by
  induction n generalizing s with
  | zero => exact h
  | succ n ih =>
    unfold Machine.settleLoop
    split
    · exact h
    · exact ih (writeBackAll (h.forAll fun _ _ hu => hu.modQueue.jobFinish))

theorem leaveRun (h : Carried s₀ s) {e : EntryId} {x : EntryState} : Carried s₀ (leaveRun e x s) := by
  unfold Machine.leaveRun modRun
  dsimp only
  split <;> exact h.of_eq

theorem settle (h : Carried s₀ s) : Carried s₀ (settle s) := h.settleLoop.forAll fun _ _ hu => ite hu.leaveRun hu

/-! ### Mailboxes and subscriptions -/

theorem reply (h : Carried s₀ s) {m : MboxId} {st detail : Nat} {results : List Byte} : Carried s₀ (reply m st detail results s) := by
  rw [reply_frame]
  exact h.of_eq

theorem cancelProxies (h : Carried s₀ s) {gone : Proxy → Bool} {st : Nat} : Carried s₀ (cancelProxies gone st s) := by
  unfold Machine.cancelProxies
  dsimp only
  refine forAll h.of_eq fun x u hu => ?_
  split
  · exact hu.reply
  · exact hu

theorem passFence (h : Carried s₀ s) {a : Nat} : Carried s₀ (passFence a s) := by
  unfold Machine.passFence
  split
  · exact h
  · refine ite h ?_
    split
    · exact h.of_eq
    · exact h.useFence.modFence.writeThrough

theorem dropSubs (h : Carried s₀ s) {gone : Subscriber → Bool} : Carried s₀ (dropSubs gone s) := h.forAll fun _ _ hu => hu.modFence.passFence

theorem groupAck (h : Carried s₀ s) {waits : Word} : Carried s₀ (groupAck waits s) := by
  unfold Machine.groupAck
  split
  · exact h
  · dsimp only
    split
    · exact reply h.of_eq
    · exact h.of_eq

/-! ### Engines that leave the membership -/

theorem modLinks (h : Carried s₀ s) {f : Links → Links} (hf : systemOf (f s.links) = systemOf s.links := by rfl) : Carried s₀ (modLinks f s) :=
  h.of_eq rfl rfl rfl hf


theorem dropRx (h : Carried s₀ s) {l : List (LinkId × Flit)} : Carried s₀ (dropRx l s) := by
  unfold Machine.dropRx
  exact forAll h.of_eq fun x _ hu => hu.sends (Sends.refl _).freeBuffer

theorem raiseLogged (h : Carried s₀ s) {c : CoreId} {x : HaltCond} : Carried s₀ (raiseLogged c x s) := raiseHalt (ite h.securityFault h)

theorem dxOwnHalt (h : Carried s₀ s) {c : CoreId} {ch : ChanId} {x : HaltCond} : Carried s₀ (dxOwnHalt c ch x s) := raiseLogged h.modCore

theorem haloLostWaits (h : Carried s₀ s) {c : CoreId} : Carried s₀ (haloLostWaits c s) := by
  refine h.forAll fun w u hu => ?_
  dsimp only
  split
  · exact raiseHalt (ite hu.modCore hu)
  · exact hu

theorem loseChan (h : Carried s₀ s) {lost : Word} {c : CoreId} {ch : ChanId} : Carried s₀ (loseChan lost c ch s) := by
  unfold Machine.loseChan
  split
  · exact h
  · split
    · exact h
    · exact dxOwnHalt (modCore (ite h.modCore h))

theorem loseCore (h : Carried s₀ s) {lost : Word} {c : CoreId} : Carried s₀ (loseCore lost c s) :=
  h.modCore.haloLostWaits.forAll fun _ _ hu => hu.loseChan

theorem loseEngines (h : Carried s₀ s) {lost : Word} : Carried s₀ (loseEngines lost s) := by
  unfold Machine.loseEngines
  extract_lets halted gone forgotten cancelled host marked
  have hhalted : Carried s₀ halted := h.forAll fun _ _ hu => hu.loseCore
  clear_value halted
  have hforgotten : Carried s₀ forgotten := hhalted.modLinks
  have hcancelled : Carried s₀ cancelled := cancelProxies (hforgotten.forAll fun _ _ hu => hu.dropRx)
  have hmarked : Carried s₀ marked := hcancelled.of_eq
  exact hmarked.dropSubs.settle.groupAck

end Carried

end Sys2Proof.Machine
open Sys2Proof Sys2Proof.Machine

end

section
-- One declaration after another: fewer threads, so that the check of the whole text keeps within its memory.
set_option Elab.async false
/-! PROOFS. Enumeration, its token and probes, groups (O51), and membership (O52). -/
namespace Sys2Proof.Machine
open Sys2Proof

/-! ### Messages at a port -/

/-- A message that leaves its receive buffer: the engine's knowledge stays. -/
theorem waiting_carried {l : LinkId} {cls : Fin 4} {type : Nat} {f : Flit} {s u : State} (h : Waiting l cls type f s u) : Carried s u :=
  h.2 ▸ (Carried.refl s).dropRx

/-- A message that leaves its receive buffer changes nothing but the links, and of them the buffer and its credit. -/
theorem waiting_links {l : LinkId} {cls : Fin 4} {type : Nat} {f : Flit} {s u : State} (h : Waiting l cls type f s u) :
    u = { s with links := { s.links with ports := u.links.ports, rx := u.links.rx } } := by
  rw [h.2]
  rfl

theorem reply_links (m : MboxId) (st detail : Nat) (results : List Byte) (s : State) : (reply m st detail results s).links = s.links := by
  rw [reply_frame]

theorem reply_time (m : MboxId) (st detail : Nat) (results : List Byte) (s : State) : (reply m st detail results s).time = s.time := by
  rw [reply_frame]

/-! ### A membership that is adopted (R350) -/

/-- The links that know a membership, before anything follows from it. -/
def knowing (m : Membership) (s : State) : State :=
  modLinks (fun k => { k with
    sys := 2, primary := true, joinFail := false, joinAt := none, addr := BitVec.ofNat 5 (ownAddr s), epoch := m.epoch, members := m.mask
    topo := BitVec.ofNat 2 m.topo, xm1 := BitVec.ofNat 3 (m.x - 1), ym1 := BitVec.ofNat 2 (m.y - 1), count := BitVec.ofNat 6 m.count
    config := m.config, groups := m.groups, tickSys := BitVec.ofNat 24 m.tickSys, enum := none
    pseqTo := setWhere (m.mask &&& ~~~ (if s.links.sys = 2 then s.links.members else 0) &&& ~~~ BitVec.ofNat 32 (2 ^ ownAddr s)) 0 k.pseqTo
    pseqFrom := setWhere (m.mask &&& ~~~ (if s.links.sys = 2 then s.links.members else 0) &&& ~~~ BitVec.ofNat 32 (2 ^ ownAddr s)) 0 k.pseqFrom
    lossFrom := setWhere (~~~ m.mask) none
      (setWhere (m.mask &&& ~~~ (if s.links.sys = 2 then s.links.members else 0) &&& ~~~ BitVec.ofNat 32 (2 ^ ownAddr s)) (some s.time) k.lossFrom)
    lost := k.lost &&& m.mask
    settle := if k.lost &&& m.mask = 0 then none else k.settle }) s

/-- The general interrupt and the capability table's number of an adopted membership. -/
def announced (s : State) : State := setGint 0x020 (bumpGen s)

theorem Carried.announced {s t : State} (h : Carried s t) : Carried (announced s) (announced t) :=
  ⟨h.time, congrArg (· + 1) h.gen, congrArg (· ||| 0x020) h.gint, h.system, h.stand⟩

/-- What an adopted membership leaves, beyond the knowledge of it. -/
theorem adoptMembers_carried (m : Membership) (s : State) : Carried (announced (knowing m s)) (adoptMembers m s) := by
  unfold adoptMembers
  extract_lets own old joined addr known found routed late tick ticked
  have hfound : Carried (knowing m s) found := (Carried.refl (knowing m s)).of_eq
  have hrouted : Carried (knowing m s) routed := hfound.loseEngines.trans (Routed.refl _).reroute.toCarried
  have hticked : Carried (knowing m s) ticked := hrouted.of_eq
  exact hticked.announced.postRecord rfl

theorem sendMembers_sends (ports : List LinkId) (m : Membership) (s : State) : Sends s (sendMembers ports m s) :=
  (Sends.refl s).forAll fun _ _ hu => hu.sendNext

/-! ### Enumeration (R342, R343) -/

theorem sendToken_sends (l : LinkId) (next phase engine port : Nat) (s : State) : Sends s (sendToken l next phase engine port s) :=
  (Sends.refl s).sendNext

namespace Keeps
variable {s₀ s : State}

theorem modLinks (h : Keeps s₀ s) {f : Links → Links} : Keeps s₀ (modLinks f s) := h.setLinks

theorem sendToken (h : Keeps s₀ s) {l : LinkId} {next phase engine port : Nat} : Keeps s₀ (sendToken l next phase engine port s) := h.sendNext

theorem sendMembers (h : Keeps s₀ s) {ports : List LinkId} {m : Membership} : Keeps s₀ (sendMembers ports m s) := h.forAll fun _ _ hu => hu.sendNext

theorem groupAck (h : Keeps s₀ s) {waits : Word} : Keeps s₀ (groupAck waits s) := by
  unfold Machine.groupAck
  split
  · exact h
  · exact .ite h.modLinks.reply h.modLinks

theorem linkEnumerate (h : Keeps s₀ s) {m : MboxId} {p : PartId} {b : List Byte} : Keeps s₀ (linkEnumerate m p b s) :=
  .ite h.reply (.ite h.reply (.ite h.modLinks.reply h.modLinks.sendToken))

theorem linkSetGroup (h : Keeps s₀ s) {m : MboxId} {p : PartId} {b : List Byte} : Keeps s₀ (linkSetGroup m p b s) :=
  .ite h.reply (.ite h.reply (.ite h.modLinks.reply h.modLinks.sendMembers.groupAck))

end Keeps

/-- An enumeration that ends without a system: the engine is what it was before. -/
theorem enumFail_spec {e : EnumRun} {s : State} (h : s.links.enum = some e) (result engine port reached : Nat) :
    (enumFail result engine port reached s).links.enum = none ∧ (enumFail result engine port reached s).links.sys = e.before ∧
    (enumFail result engine port reached s).time = s.time ∧ (∀ m, e.mbox = some m →
      (enumFail result engine port reached s).links.enumResult = BitVec.ofNat 32 (enumDetail result engine port) ∧
      (mbOf (enumFail result engine port reached s) m).replyValid = true) := by
  have hrouted : Routed (modLinks (fun k => { k with
      enum := none, sys := e.before
      enumResult := if e.mbox.isSome then BitVec.ofNat 32 (enumDetail result engine port) else k.enumResult }) s) (reroute (modLinks (fun k => { k with
      enum := none, sys := e.before
      enumResult := if e.mbox.isSome then BitVec.ofNat 32 (enumDetail result engine port) else k.enumResult }) s)) := (Routed.refl _).reroute
  have hsystem := hrouted.system
  simp only [systemOf, Prod.mk.injEq] at hsystem
  obtain ⟨hsys, -, -, -, -, -, -, -, -, henum⟩ := hsystem
  unfold enumFail
  rw [h]
  dsimp only
  cases hm : e.mbox with
  | none =>
    rw [hm] at hsys henum hrouted
    exact ⟨henum, hsys, hrouted.time, fun m hm' => absurd hm' (by simp)⟩
  | some m =>
    rw [hm] at hsys henum hrouted
    dsimp only
    rw [reply_links, reply_time]
    refine ⟨henum, hsys, hrouted.time, fun m' hm' => ?_⟩
    cases hm'
    rw [mbOf_reply]
    exact ⟨hrouted.result.trans rfl, rfl⟩

/-- A reply outside an enumeration is a latency, of a neighbour that no member measures. -/
theorem probeReply_member {f : Flit} {s : State} (henum : s.links.enum = none) (hsys : s.links.sys ≠ 2) : probeReply f s =
    { s with links := { s.links with
      lat := updAt s.links.lat (f.src.toFin : Fin 32) (fun _ => BitVec.ofNat 16 (min 0xFFFF ((nowNs s - msgNum f 0 8) / 2))) } } := by
  unfold probeReply
  extract_lets n measured tick ticked
  have hticked : ticked = measured := if_neg (fun h => hsys h.1)
  rw [hticked]
  split
  · exact absurd (henum.symm.trans ‹_›) (by simp)
  · rfl

/-- The last reply of an enumeration. -/
theorem probeReply_last {f : Flit} {s : State} {e : EnumRun} (henum : s.links.enum = some e) (hphase : e.phase = 2) (hsys : s.links.sys = 1)
    (hleft : e.probes &&& ~~~ BitVec.ofNat 32 (2 ^ f.src.toNat) = 0) : ∃ v : State,
    probeReply f s = enumDone { e with probes := e.probes &&& ~~~ BitVec.ofNat 32 (2 ^ f.src.toNat) } v := by
  unfold probeReply
  extract_lets n measured tick ticked
  have hticked : ticked = measured := if_neg (fun h => absurd (hsys.symm.trans h.1) (by decide))
  rw [hticked]
  split
  · next e' he' =>
    cases henum.symm.trans he'
    rw [if_neg (not_not.mpr hphase)]
    exact ⟨_, if_pos hleft⟩
  · exact absurd (henum.symm.trans ‹_›) (by simp)

/-- Every member has been measured: the engine is a member of the system of its enumeration. -/
theorem enumDone_system (e : EnumRun) (s : State) : systemOf (enumDone e s).links = systemOf (knowing (newSystem e) s).links := by
  have hsent : Carried (announced (knowing (newSystem e) s))
      (sendMembers (upPorts s) (newSystem e) (adoptMembers (newSystem e) s)) :=
    (adoptMembers_carried (newSystem e) s).sends (sendMembers_sends _ _ _)
  unfold enumDone
  dsimp only
  generalize sendMembers (upPorts s) (newSystem e) (adoptMembers (newSystem e) s) = t at hsent ⊢
  split
  · exact (Carried.reply (hsent.modLinks (f := fun k => { k with enumResult := 0 }))).system
  · exact hsent.system

end Sys2Proof.Machine
open Sys2Proof Sys2Proof.Machine

/-- Settles O51: an enumeration begins, addresses and measures engines, forms the system or fails; a change of a group waits for the members. -/
theorem enumerationFormsSystem : Obligations.EnumerationFormsSystem := by
  unfold Obligations.EnumerationFormsSystem
  refine fun s => ⟨fun m p b u => ⟨fun h => ?_, fun h => ?_⟩, fun l f u => ⟨fun h henum hsys hl hphase => ?_, fun h hsys => ?_, fun h henum hsys => ?_,
    fun e h henum hphase hsys hleft => ?_⟩, fun e henum => ?_⟩
  · have hserve := serve_idle h (Keeps.refl u).linkEnumerate (p := p) (b := b) (m := m)
    obtain rfl := h.taken
    refine ⟨fun hkroot => ?_, fun hkroot hsys => ?_, fun hkroot h1 h2 hargs => ?_⟩
    · exact congrArg Host.Outcome.next (hserve.trans (if_pos (Bool.eq_false_iff.mp hkroot)))
    · exact congrArg Host.Outcome.next (hserve.trans ((if_neg (not_not.mpr hkroot)).trans (if_pos hsys.symm)))
    · exact congrArg Host.Outcome.next (hserve.trans ((if_neg (not_not.mpr hkroot)).trans ((if_neg (not_or.mpr ⟨h2, h1⟩)).trans
        (if_neg (not_not.mpr hargs)))))
  · have hserve := serve_idle h (Keeps.refl u).linkSetGroup (p := p) (b := b) (m := m)
    obtain rfl := h.taken
    refine ⟨fun hno => congrArg Host.Outcome.next (hserve.trans (if_pos hno)), fun w haddr hsys hfree hgroup hmask hw => ?_⟩
    refine congrArg Host.Outcome.next (hserve.trans ((if_neg (by simp [haddr, hsys])).trans ?_))
    by_cases huse : groupInUse s (arg b 12 1) = true
    · exact (if_pos (Or.inl huse)).trans (if_pos huse).symm
    · rw [if_neg huse, hw]
      refine (if_neg (not_or.mpr ⟨huse, ?_⟩)).trans (if_neg (not_or.mpr ⟨by omega, not_not.mpr hmask⟩))
      show ¬ s.links.groupSet.isSome = true
      rw [hfree]
      exact Bool.false_ne_true
  · refine congrArg Host.Outcome.next ((takeMsg_waiting h).trans ?_)
    obtain rfl := h.2
    show takeToken l f (dropRx [(l, f)] s) = _
    unfold takeToken tokenOther takeAddress
    simp only [show (dropRx [(l, f)] s).links.enum = none from henum]
    rw [if_neg (by omega), if_neg (by rintro (h | h); exacts [hsys h, h hphase])]
    rcases hl with hl | hl
    · obtain rfl : l = 1 := Fin.ext hl
      rfl
    · obtain rfl : l = 3 := Fin.ext hl
      rfl
  · exact congrArg Host.Outcome.next ((takeMsg_waiting h).trans (if_neg (by rw [h.2]; exact hsys)))
  · refine congrArg Host.Outcome.next ((takeMsg_waiting h).trans ?_)
    obtain rfl := h.2
    exact probeReply_member henum hsys
  · obtain ⟨v, hv⟩ := probeReply_last (s := u) (f := f) (e := e) (by rw [h.2]; exact henum) hphase (by rw [h.2]; exact hsys) hleft
    have hsystem := enumDone_system { e with probes := e.probes &&& ~~~ BitVec.ofNat 32 (2 ^ f.src.toNat) } v
    simp only [systemOf, Prod.mk.injEq] at hsystem
    obtain ⟨hsys', -, hepoch, hmembers, hconfig, -, -, -, -, henum'⟩ := hsystem
    exact ⟨_, congrArg Host.Outcome.next ((takeMsg_waiting h).trans hv), hsys', henum', hepoch, hmembers, hconfig⟩
  · obtain ⟨hnone, hsys, htime, hmbox⟩ := enumFail_spec (s := atTime (e.since + us 10000) s) (e := e) henum 4 0 0 e.reached
    refine ⟨enumFail 4 0 0 e.reached (atTime (e.since + us 10000) s), ?_, hnone, hsys, htime, hmbox⟩
    refine congrArg Host.Outcome.next ?_
    rw [henum]

end

section
-- One declaration after another: fewer threads, so that the check of the whole text keeps within its memory.
set_option Elab.async false
/-! PROOFS. Membership: adopted, joined, watched by heartbeats and decided after a loss (O52). -/
namespace Sys2Proof.Machine
open Sys2Proof

/-! ### A MEMBERSHIP message -/

/-- The membership and what is announced with it: all but the joins that wait. -/
abbrev membershipOf (s : State) : Word × BitVec 12 × BitVec 2 × BitVec 5 × Half × Word × Word × Vector Word 16 × Option Nat :=
  (s.host.genCount, s.bnd.gintStatus, s.links.sys, s.links.addr, s.links.epoch, s.links.members, s.links.config, s.links.groups, s.links.settle)

theorem Carried.membership {s t : State} (h : Carried s t) : membershipOf t = membershipOf s := by
  obtain ⟨-, hgen, hgint, hsystem⟩ := h
  simp only [systemOf, Prod.mk.injEq] at hsystem
  obtain ⟨hsys, haddr, hepoch, hmembers, hconfig, hgroups, hsettle, -, -, -⟩ := hsystem
  simp only [membershipOf, hgen, hgint, hsys, haddr, hepoch, hmembers, hconfig, hgroups, hsettle]

theorem passJoins_membership (low : Nat) (s : State) : membershipOf (passJoins low s) = membershipOf s := by
  unfold passJoins
  split
  · rfl
  · have hsent : Sends (modLinks (fun k => { k with joins := [] }) s) (forAll s.links.joins
        (fun j => sendMsg 3 3 low 0 (leBytes 4 j.2.1.toNat ++ leBytes 4 j.2.2.toNat)) (modLinks (fun k => { k with joins := [] }) s)) :=
      (Sends.refl _).forAll fun _ _ hu => hu.sendMsg
    exact ((Carried.refl _).sends hsent).membership

/-- A membership that is taken: it is held and announced. -/
theorem takeMembers_new {l : LinkId} {f : Flit} {s : State} (h : newMembers s (memberOf f) = true) :
    membershipOf (takeMembers l f s) = membershipOf (announced (knowing (memberOf f) s)) := by
  unfold takeMembers
  extract_lets m groupsOnly sent passed
  rw [if_neg (not_not.mpr h)]
  have hsent : Carried (announced (knowing m s)) sent := (adoptMembers_carried m s).sends (sendMembers_sends _ _ _)
  have hpassed : membershipOf passed = membershipOf (announced (knowing m s)) := (passJoins_membership _ _).trans hsent.membership
  split
  · exact ((Carried.refl passed).sends (Sends.refl _).sendMsg).membership.trans hpassed
  · exact hpassed

theorem bitAt_setGint5 (w : BitVec 12) : bitAt (w ||| 0x020) 5 = true := by
  unfold bitAt
  rw [BitVec.toNat_or, Nat.testBit_or]
  exact Bool.or_true _

/-! ### Joins (R352) -/

/-- The state once a JOIN has taken its place. -/
def joinHeld (f : Flit) (s : State) : State :=
  modLinks (fun k => { k with
    joins := queueJoin (s.time, BitVec.ofNat 5 (msgNum f 0 1), BitVec.ofNat 32 (msgNum f 4 4)) k.joins }) s

/-- A settle window holds the joins. -/
theorem admitJoins_settling {n : Nat} {s : State} (h : s.links.settle.isSome = true) : admitJoins n s = s := by
  cases n with
  | zero => rfl
  | succ n =>
    unfold admitJoins
    split
    · rfl
    · exact if_pos h

/-- The oldest join that waits, alone, is admitted with the next epoch. -/
theorem admitJoins_admits {s : State} {at_ : Nat} {a : BitVec 5} {config : Word} (hjoins : s.links.joins = [(at_, a, config)])
    (hsettle : s.links.settle = none) (hconfig : config = s.links.config) (hnamed : bitAt s.links.config a.toNat = true)
    (hnew : bitAt s.links.members a.toNat = false) : systemOf (admitJoins 1 s).links =
      systemOf (knowing { heldMembers s with mask := s.links.members ||| BitVec.ofNat 32 (2 ^ a.toNat), epoch := s.links.epoch + 1 }
        (modLinks (fun k => { k with joins := [] }) s)).links := by
  unfold admitJoins
  rw [hjoins]
  dsimp only
  rw [if_neg (by simp [hsettle])]
  rw [if_neg (by simp [modLinks, hnamed, hnew, hconfig])]
  exact ((adoptMembers_carried _ _).sends (sendMembers_sends _ _ _)).system

/-! ### Heartbeats (R348) -/

/-- A change of each port of a list. -/
theorem forAll_modLink_port {f : LinkPort → LinkPort} {ports : List LinkId} (hnodup : ports.Nodup) (l : LinkId) (s : State) :
    (forAll ports (fun o => modLink o f) s).links.ports[l] = if l ∈ ports then f s.links.ports[l] else s.links.ports[l] := by
  induction ports generalizing s with
  | nil => rfl
  | cons o ports ih =>
    obtain ⟨ho, hrest⟩ := List.nodup_cons.mp hnodup
    rw [forAll_cons, ih hrest]
    by_cases hl : l = o
    · subst hl
      rw [if_neg ho, if_pos List.mem_cons_self]
      exact updAt_get_same _ _ _
    · rw [show (modLink o f s).links.ports[l] = s.links.ports[l] from updAt_get_other _ _ _ _ hl]
      simp only [List.mem_cons, hl, false_or]

theorem forAll_modLink_rest {f : LinkPort → LinkPort} (ports : List LinkId) (s : State) : ∃ p, forAll ports (fun o => modLink o f) s =
    { s with links := { s.links with ports := p } } :=
  forAll_inv (fun t => ∃ p, t = { s with links := { s.links with ports := p } }) _ (fun o t ⟨p, h⟩ => ⟨(modLink o f t).links.ports, by subst h; rfl⟩) ports s ⟨_, rfl⟩

/-! ### The decision after a loss (R349) -/

theorem and_and_not_self (x y : Word) : x &&& (y &&& ~~~ x) = 0 := by
  ext i hi
  simp +contextual

/-- The lowest engine of a primary decides: the membership without the lost. -/
theorem settleEnd_primary {s v : State} {t : Nat} (hsettle : s.links.settle = some t) (hsys : s.links.sys = 2)
    (hv : v = { s with time := max s.time (t + us 250), links := { s.links with settle := none } }) (hprimary : isPrimary s = true)
    (hlow : lowest (remaining s) = s.links.addr.toNat) (hjoins : s.links.joins = []) : systemOf (settleEnd s).links =
      systemOf (knowing { heldMembers v with mask := remaining v, epoch := v.links.epoch + 1 } v).links := by
  have hsent : Carried (announced (knowing { heldMembers v with mask := remaining v, epoch := v.links.epoch + 1 } v))
      (sendMembers (upPorts v) { heldMembers v with mask := remaining v, epoch := v.links.epoch + 1 }
        (adoptMembers { heldMembers v with mask := remaining v, epoch := v.links.epoch + 1 } v)) :=
    (adoptMembers_carried _ _).sends (sendMembers_sends _ _ _)
  have heq : settleEnd s = admitJoins (sendMembers (upPorts v) { heldMembers v with mask := remaining v, epoch := v.links.epoch + 1 }
        (adoptMembers { heldMembers v with mask := remaining v, epoch := v.links.epoch + 1 } v)).links.joins.length
      (sendMembers (upPorts v) { heldMembers v with mask := remaining v, epoch := v.links.epoch + 1 }
        (adoptMembers { heldMembers v with mask := remaining v, epoch := v.links.epoch + 1 } v)) := by
    subst hv
    unfold settleEnd
    rw [hsettle]
    dsimp only
    exact (if_neg (not_not.mpr hsys)).trans ((if_neg (not_not.mpr hprimary)).trans (if_neg (not_not.mpr hlow)))
  rw [heq]
  generalize sendMembers _ _ _ = w at hsent
  have hsystem := hsent.system
  have hnone : w.links.joins = [] := by
    simp only [systemOf, Prod.mk.injEq] at hsystem
    obtain ⟨-, -, -, -, -, -, -, -, hw, -⟩ := hsystem
    rw [hw]
    subst hv
    exact hjoins
  rw [hnone]
  exact hsystem

end Sys2Proof.Machine
open Sys2Proof Sys2Proof.Machine

/-- Settles O52: a newer membership is adopted, joins are passed on, held or admitted, heartbeats watch the members, and a loss is decided at the end
of its settle window. -/
theorem membershipChanges : Obligations.MembershipChanges := by
  unfold Obligations.MembershipChanges
  refine fun s => ⟨fun l f u h => ⟨fun hnew => ?_, fun hold => ?_⟩, fun l f u h => ⟨fun hisland hother => ?_, fun hsys hown => ?_, fun hsys hsettle => ?_,
    fun hsys hsettle => ⟨fun hlow => ?_, fun hlow hjoins hconfig hnamed hnew => ?_⟩⟩, fun t ht => ?_, ?_, fun e t ht hsys hmember => ?_,
    fun t v hsettle hsys hv => ⟨fun hno => ?_, fun hprimary hlow => ?_, fun hprimary hlow hjoins => ?_⟩⟩
  · have hmembership := takeMembers_new (l := l) (f := f) (s := u) (by rw [h.2]; exact hnew)
    simp only [membershipOf, Prod.mk.injEq] at hmembership
    obtain ⟨hgen, hgint, hsys, haddr, hepoch, hmembers, hconfig, hgroups, hsettle⟩ := hmembership
    refine ⟨takeMembers l f u, congrArg Host.Outcome.next (takeMsg_waiting h), hmembers, hepoch, hconfig, hgroups, hsys, ?_, ?_, ?_, ?_⟩
    · rw [haddr, h.2]
      exact BitVec.toNat_ofNat _ _
    · rw [hsettle, h.2]
      rfl
    · rw [hgen, h.2]
      rfl
    · rw [hgint]
      exact bitAt_setGint5 _
  · exact congrArg Host.Outcome.next ((takeMsg_waiting h).trans (if_pos (by rw [h.2]; exact Bool.eq_false_iff.mp hold)))
  · obtain rfl := h.2
    exact congrArg Host.Outcome.next ((takeMsg_waiting h).trans (if_pos ⟨hisland, hother⟩))
  · obtain rfl := h.2
    exact congrArg Host.Outcome.next ((takeMsg_waiting h).trans ((if_neg (fun hno => hno.2 (hown hno.1))).trans (if_pos hsys)))
  · obtain rfl := h.2
    refine congrArg Host.Outcome.next ((takeMsg_waiting h).trans ((if_neg (fun hno => absurd (hsys.symm.trans hno.1) (by decide))).trans
      ((if_neg (not_not.mpr hsys)).trans ((if_neg (fun hno => ?_)).trans (admitJoins_settling hsettle)))))
    have hnone : s.links.settle.isNone = true := hno.2
    rw [Option.isNone_iff_eq_none.mp hnone] at hsettle
    exact absurd hsettle Bool.false_ne_true
  · obtain rfl := h.2
    exact congrArg Host.Outcome.next ((takeMsg_waiting h).trans ((if_neg (fun hno => absurd (hsys.symm.trans hno.1) (by decide))).trans
      ((if_neg (not_not.mpr hsys)).trans (if_pos ⟨hlow, Option.isNone_iff_eq_none.mpr hsettle⟩))))
  · obtain rfl := h.2
    have hqueued : (joinHeld f (dropRx [(l, f)] s)).links.joins = [(s.time, BitVec.ofNat 5 (msgNum f 0 1), BitVec.ofNat 32 (msgNum f 4 4))] :=
      congrArg (queueJoin _) hjoins
    have hadmits := admitJoins_admits hqueued hsettle hconfig (by rw [BitVec.toNat_ofNat]; exact hnamed) (by rw [BitVec.toNat_ofNat]; exact hnew)
    simp only [systemOf, Prod.mk.injEq] at hadmits
    obtain ⟨-, -, hepoch, hmembers, -, -, -, -, hnone, -⟩ := hadmits
    refine ⟨admitJoins 1 (joinHeld f (dropRx [(l, f)] s)), congrArg Host.Outcome.next ((takeMsg_waiting h).trans ((if_neg (fun hno => absurd (hsys.symm.trans hno.1) (by decide))).trans
      ((if_neg (not_not.mpr hsys)).trans ((if_neg (fun hno => hno.1 hlow)).trans
        (congrArg (fun j => admitJoins (List.length j) _) hqueued))))), hnone, hepoch, ?_⟩
    rw [hmembers, BitVec.toNat_ofNat]
    rfl
  · refine congrArg Host.Outcome.next ?_
    rw [ht]
    rfl
  · obtain ⟨p, hp⟩ := forAll_modLink_rest (f := fun p => { p with hbWait := p.hbWait ++
      [⟨s.links.addr, decide (s.links.sys = 2), decide (s.links.sys = 3), s.links.hbSeq + 1, s.links.epoch⟩] }) (upPorts s)
      { s with time := max s.time (s.links.hbAt + us 100), links := { s.links with
        hbSeq := s.links.hbSeq + 1, hbAt := max s.time (s.links.hbAt + us 100) } }
    have hports := fun l : LinkId => forAll_modLink_port (f := fun p => { p with hbWait := p.hbWait ++
      [⟨s.links.addr, decide (s.links.sys = 2), decide (s.links.sys = 3), s.links.hbSeq + 1, s.links.epoch⟩] }) (ports := upPorts s)
      ((List.nodup_finRange 4).filter _) l { s with time := max s.time (s.links.hbAt + us 100), links := { s.links with
        hbSeq := s.links.hbSeq + 1, hbAt := max s.time (s.links.hbAt + us 100) } }
    rw [hp] at hports
    refine ⟨_, congrArg Host.Outcome.next hp, rfl, rfl, rfl, rfl, fun l => ?_⟩
    refine (hports l).trans ?_
    by_cases hup : linkUp s l = true
    · rw [if_pos hup]
      exact if_pos (List.mem_filter.mpr ⟨List.mem_finRange l, hup⟩)
    · rw [if_neg hup]
      exact if_neg (fun hl => hup (List.mem_filter.mp hl).2)
  · refine congrArg Host.Outcome.next ?_
    rw [ht]
    exact if_neg (by simp [hsys, hmember])
  · have heq : settleEnd s = engineClass { code := 0x21, fc := 4, unit := 5, detail := s.links.members.toNat } v := by
      unfold settleEnd
      rw [hsettle, hv]
      exact (if_neg (not_not.mpr hsys)).trans (if_pos (Bool.eq_false_iff.mp hno))
    exact congrArg Host.Outcome.next heq
  · have heq : settleEnd s = passJoins (lowest (remaining s)) v := by
      unfold settleEnd
      rw [hsettle, hv]
      exact (if_neg (not_not.mpr hsys)).trans ((if_neg (not_not.mpr hprimary)).trans (if_pos hlow))
    exact congrArg Host.Outcome.next heq
  · have hsystem := settleEnd_primary hsettle hsys hv hprimary hlow hjoins
    subst hv
    simp only [systemOf, Prod.mk.injEq] at hsystem
    obtain ⟨-, -, hepoch, hmembers, -, -, -, hlost, -, -⟩ := hsystem
    exact ⟨_, rfl, hmembers, hepoch, hlost.trans (and_and_not_self _ _)⟩

end

section
-- One declaration after another: fewer threads, so that the check of the whole text keeps within its memory.
set_option Elab.async false
/-! PROOFS. Runs and their acknowledgements, and the fence messages between engines (O53). -/
namespace Sys2Proof.Machine
open Sys2Proof

/-! ### Subscriptions that end (R346) -/

/-- Cores and queues stay, and no fence gains a subscriber. -/
structure FewerSubs (s t : State) : Prop where
  cores : t.cores = s.cores
  queues : t.host.queues = s.host.queues
  fences : ∀ g ∈ t.host.fences, ∃ g₀ ∈ s.host.fences, g₀.addr = g.addr ∧ ∀ y ∈ g.subs, y ∈ g₀.subs

namespace FewerSubs
variable {s₀ s t : State}

theorem refl (s : State) : FewerSubs s s := ⟨rfl, rfl, fun g hg => ⟨g, hg, rfl, fun _ hy => hy⟩⟩

theorem trans (h : FewerSubs s₀ s) (h' : FewerSubs s t) : FewerSubs s₀ t := by
  refine ⟨h'.cores.trans h.cores, h'.queues.trans h.queues, fun g hg => ?_⟩
  obtain ⟨g₁, hg₁, haddr₁, hsubs₁⟩ := h'.fences g hg
  obtain ⟨g₀, hg₀, haddr₀, hsubs₀⟩ := h.fences g₁ hg₁
  exact ⟨g₀, hg₀, haddr₀.trans haddr₁, fun y hy => hsubs₀ y (hsubs₁ y hy)⟩

theorem of_eq (h : FewerSubs s₀ s) (hcores : t.cores = s.cores := by rfl) (hqueues : t.host.queues = s.host.queues := by rfl)
    (hfences : t.host.fences = s.host.fences := by rfl) : FewerSubs s₀ t :=
  h.trans ⟨hcores, hqueues, fun g hg => ⟨g, hfences ▸ hg, rfl, fun _ hy => hy⟩⟩

theorem forAll {α : Type} {f : α → State → State} {l : List α} (h : FewerSubs s₀ s) (hf : ∀ a u, FewerSubs s₀ u → FewerSubs s₀ (f a u)) :
    FewerSubs s₀ (Machine.forAll l f s) := forAll_inv (FewerSubs s₀) f hf l s h

theorem modFence (h : FewerSubs s₀ s) {a : Nat} {f : Fence → Fence} (haddr : ∀ x, (f x).addr = x.addr := by exact fun _ => rfl)
    (hsubs : ∀ x, ∀ y ∈ (f x).subs, y ∈ x.subs := by exact fun _ _ hy => hy) : FewerSubs s₀ (modFence a f s) := by
  refine h.trans ⟨rfl, rfl, fun g hg => ?_⟩
  obtain ⟨x, hx, rfl⟩ := List.mem_map.mp hg
  refine ⟨x, hx, ?_, ?_⟩
  · split
    · exact (haddr x).symm
    · rfl
  · split
    · exact hsubs x
    · exact fun _ hy => hy

theorem postRecord (h : FewerSubs s₀ s) {r : RecIn} : FewerSubs s₀ (postRecord r s) :=
  h.of_eq (postRecord_cores r s) (postRecord_queues r s) (postRecord_fences r s)

theorem securityFault (h : FewerSubs s₀ s) {unit index addr : Nat} : FewerSubs s₀ (securityFault unit index addr s) := h.postRecord.of_eq

theorem sends (h : FewerSubs s₀ s) (h' : Sends s t) : FewerSubs s₀ t := by
  rw [h'.rest]
  exact h.of_eq

theorem sendUpdates (h : FewerSubs s₀ s) {a : Nat} : FewerSubs s₀ (sendUpdates a s) := by
  unfold Machine.sendUpdates
  split
  · exact h
  · exact h.sends ((Sends.refl s).forAll fun _ _ hu => hu.sendFence)

theorem fenceFail (h : FewerSubs s₀ s) {f : Fence} : FewerSubs s₀ (fenceFail f s) := h.modFence.sendUpdates.postRecord

theorem useFence (h : FewerSubs s₀ s) {a : Nat} : FewerSubs s₀ (useFence a s) := by
  unfold Machine.useFence
  split
  · exact h
  · split
    · exact h
    · split
      · exact h.securityFault.modFence.fenceFail
      · dsimp only
        split
        · exact h.modFence
        · exact h.modFence.sendUpdates

theorem writeThrough (h : FewerSubs s₀ s) {a : Nat} : FewerSubs s₀ (writeThrough a s) := by
  unfold Machine.writeThrough
  split
  · exact h
  · split
    · exact h.securityFault.fenceFail
    · obtain ⟨d, l, hs, -⟩ := performBefore_changes a (fenceBytes ‹Fence›) s
      unfold storeAfter storeSpa
      rw [hs]
      exact h.of_eq

theorem passFence (h : FewerSubs s₀ s) {a : Nat} : FewerSubs s₀ (passFence a s) := by
  unfold Machine.passFence
  split
  · exact h
  · dsimp only
    split
    · exact h
    · split
      · exact h.trans ⟨rfl, rfl, fun g hg => ⟨g, (List.mem_filter.mp hg).1, rfl, fun _ hy => hy⟩⟩
      · exact h.useFence.modFence.writeThrough

end FewerSubs

/-- One record's part of the end of subscriptions. -/
def dropSubsOf (gone : Subscriber → Bool) (a : Nat) (s : State) : State :=
  passFence a (modFence a (fun x => { x with subs := x.subs.filter (fun u => !(gone u)) }) s)

theorem dropSubsOf_fewer (gone : Subscriber → Bool) (a : Nat) (s : State) : FewerSubs s (dropSubsOf gone a s) :=
  ((FewerSubs.refl s).modFence (f := fun x => { x with subs := x.subs.filter (fun u => !(gone u)) }) (fun _ => rfl)
    fun _ _ hy => (List.mem_filter.mp hy).1).passFence

/-- No fence of a record has a subscriber that is gone. -/
def NoneLeft (gone : Subscriber → Bool) (a : Nat) (s : State) : Prop := ∀ g ∈ s.host.fences, g.addr = a → ∀ y ∈ g.subs, gone y = false

theorem NoneLeft.fewer {gone : Subscriber → Bool} {a : Nat} {s t : State} (h : NoneLeft gone a s) (h' : FewerSubs s t) : NoneLeft gone a t := by
  intro g hg ha y hy
  obtain ⟨g₀, hg₀, haddr, hsubs⟩ := h'.fences g hg
  exact h g₀ hg₀ (haddr.trans ha) y (hsubs y hy)

theorem dropSubsOf_noneLeft (gone : Subscriber → Bool) (a : Nat) (s : State) : NoneLeft gone a (dropSubsOf gone a s) := by
  have hfiltered : NoneLeft gone a (modFence a (fun x => { x with subs := x.subs.filter (fun u => !(gone u)) }) s) := by
    intro g hg ha y hy
    obtain ⟨x, hx, rfl⟩ := List.mem_map.mp hg
    split at hy
    · simpa using (List.mem_filter.mp hy).2
    · next hne =>
      rw [if_neg hne] at ha
      exact absurd ha hne
  exact hfiltered.fewer (FewerSubs.refl _).passFence

/-- Subscriptions end: no subscriber that is gone is left, and cores and queues stay. -/
theorem dropSubs_spec (gone : Subscriber → Bool) (s : State) : FewerSubs s (dropSubs gone s) ∧
    ∀ g ∈ (dropSubs gone s).host.fences, ∀ y ∈ g.subs, gone y = false := by
  have hfewer : FewerSubs s (dropSubs gone s) := (FewerSubs.refl s).forAll fun a u hu => hu.trans (dropSubsOf_fewer gone a u)
  refine ⟨hfewer, fun g hg y hy => ?_⟩
  by_contra hgone
  obtain ⟨g₀, hg₀, haddr, hsubs⟩ := hfewer.fences g hg
  have hhit : g.addr ∈ (s.host.fences.filter (fun x => x.subs.any gone)).map (fun x => x.addr) :=
    List.mem_map.mpr ⟨g₀, List.mem_filter.mpr ⟨hg₀, List.any_eq_true.mpr ⟨y, hsubs y hy, by simpa using hgone⟩⟩, haddr⟩
  have hnone : NoneLeft gone g.addr (dropSubs gone s) :=
    forAll_reaches (P := fun _ => True) (Q := NoneLeft gone g.addr) (f := dropSubsOf gone) hhit (fun _ _ _ => .inl trivial)
      (fun u _ => dropSubsOf_noneLeft gone g.addr u) (fun a u hu => hu.fewer (dropSubsOf_fewer gone a u)) trivial
  exact hgone (hnone g hg rfl y hy)

/-! ### Runs (R341, R345) -/

theorem runAck_sent {f : Flit} {s : State} {r : SentRun} (h : sentRun s f.src (msgNum f 0 2) = some r) :
    runAck f s = memberAck f.src.toNat r { s with links := { s.links with sent := s.links.sent.erase r } } := by
  unfold runAck
  rw [h]
  rfl

theorem runAck_unsent {f : Flit} {s : State} (h : sentRun s f.src (msgNum f 0 2) = none) (hgroup : s.links.groupSet = none) : runAck f s = s := by
  unfold runAck groupAck
  rw [h, hgroup]
  exact ite_self _

/-- A refused run: its engine is the one that refuses it, and its core halts. -/
theorem runRefuse_sent {f : Flit} {s v : State} {r : SentRun} {c : CoreId} {ch : ChanId} {n : Nat} {x : DxRun}
    (h : sentRun s f.src (msgNum f 0 2) = some r) (howner : r.owner = some (c, ch, n))
    (hv : v = memberAck f.src.toNat r { s with links := { s.links with sent := s.links.sent.erase r } }) (hrun : (dxChan v c ch).run = some x) :
    runRefuse f s = dxOwnHalt c ch (dxHalt 0x0E x.cmd.set ch 0 0 1) v := by
  have hdst : r.dst = f.src := by
    have hfound := List.find?_some h
    simp only [Bool.and_eq_true, decide_eq_true_eq] at hfound
    exact hfound.1
  unfold runRefuse
  rw [h]
  dsimp only
  unfold denyRun
  dsimp only
  rw [hdst, ← hv, howner]
  dsimp only
  rw [hrun]

/-- Flits that leave the receive buffers change nothing but the links. -/
theorem dropRx_rest (l : List (LinkId × Flit)) (s : State) : dropRx l s = { s with links := (dropRx l s).links } := by
  have hinv : (fun t => t = { s with links := t.links }) (dropRx l s) :=
    forAll_inv (fun t => t = { s with links := t.links }) _ (fun x t ht => by rw [ht]; rfl) l _ rfl
  exact hinv

/-- The oldest whole multicast run of a port. -/
theorem multicastRun_of {l : LinkId} {f g last : Flit} {s v : State} {xs : List (LinkId × Flit)} {data : List Byte}
    (hfind : s.links.rx.find? (fun x => decide (x.1 = l) && decide (x.2.cls = 1)) = some (l, f)) (hxs : runOfRx s 1 f.src = xs)
    (hg : (xs.head?).map (fun x => x.2) = some g) (hdata : data = runData (xs.map (fun y => y.2)))
    (hlast : (xs.getLast?).map (fun x => x.2) = some last) (hv : v = dropRx xs s) : multicastRun l s =
      if stagingOwned s (fld g.info 4 3) g.addr.toNat data.length then
        sendMsg 3 6 g.src.toNat 0 (leBytes 2 last.pseq.toNat) (freshWords .staging [(g.addr.toNat, data.length)] { v with
          staging := memStore s.staging g.addr.toNat data })
      else sendMsg 3 7 g.src.toNat 0 (leBytes 2 last.pseq.toNat ++ [1]) v := by
  cases xs with
  | nil => exact absurd hg (by simp)
  | cons x xs =>
    obtain rfl : x.2 = g := by simpa using hg
    have htail : ((x :: xs).map (fun y => y.2)).getLastD x.2 = last := by
      rw [List.getLastD_eq_getLast?, List.getLast?_map, hlast]
      rfl
    unfold multicastRun
    rw [hfind]
    dsimp only
    rw [hxs]
    dsimp only
    rw [htail, ← hdata, ← hv]
    have hstaging : v.staging = s.staging := by rw [hv, dropRx_rest]
    have howned : stagingOwned v (fld x.2.info 4 3) x.2.addr.toNat data.length = stagingOwned s (fld x.2.info 4 3) x.2.addr.toNat data.length := by
      rw [hv, dropRx_rest]
      rfl
    rw [howned, hstaging]
    rfl

/-! ### Fence messages (R346) -/

/-- A SIGNAL reaches the fences to which its engine subscribes. -/
theorem msgSignal_hits {f : Flit} {s : State} {hits : List (Nat × Nat)} (h : s.host.fences.flatMap (fun x => (x.subs.filter (fun y =>
    decide (y.engine = f.src.toNat ∧ y.fid = msgFid f))).map (fun y => (x.addr, y.part))) = hits) : msgSignal f s =
    settle (forAll hits (fun h => signalRecord h.1 (BitVec.ofNat 64 (msgNum f 0 8)) ((msgNum f 8 1).testBit 0) true (fin 8 h.2)) s) := by
  unfold msgSignal
  rw [← h]

theorem msgSubscribe_unknown {f : Flit} {s : State} (h : findReg s (fin 8 (msgNum f 0 1)) (msgFid f) = none) :
    msgSubscribe f s = sendFence (fin 8 (msgNum f 0 1)) 4 f.src.toNat (msgFid f) [1] s := by
  unfold msgSubscribe
  dsimp only
  rw [h]
  rfl

theorem msgSubscribe_known {f : Flit} {s : State} {r : FenceReg} (h : findReg s (fin 8 (msgNum f 0 1)) (msgFid f) = some r) (hhome : r.home = none) :
    msgSubscribe f s = if (s.host.parts[(fin 8 (msgNum f 0 1) : PartId)]).secure ≠ (msgNum f 1 1).testBit 0
      then sendFence (fin 8 (msgNum f 0 1)) 4 f.src.toNat (msgFid f) [2] s
      else sendFence (fin 8 (msgNum f 0 1)) 4 f.src.toNat (msgFid f) [0] (modFence r.addr (fun x => { x with
        subs := if ⟨f.src.toNat, (fin 8 (msgNum f 0 1) : PartId).val, msgFid f⟩ ∈ x.subs then x.subs
          else x.subs ++ [⟨f.src.toNat, (fin 8 (msgNum f 0 1) : PartId).val, msgFid f⟩] }) s) := by
  unfold msgSubscribe
  dsimp only
  rw [h, Option.filter_some, if_pos (by rw [hhome]; rfl)]
  rfl

theorem msgSubReply_refused {f : Flit} {s : State} {x : Proxy} {m : MboxId} {n : Word}
    (hx : s.host.proxies.find? (fun x => proxyOf f x && x.pending.isSome) = some x) (hpending : x.pending = some (m, n)) (hno : msgNum f 0 1 ≠ 0) :
    msgSubReply f s = reply m 2 0 [] { s with host := { s.host with proxies := s.host.proxies.erase x } } := by
  unfold msgSubReply
  rw [hx]
  dsimp only
  rw [hpending]
  exact if_neg hno

/-- A proxy that its home grants, with a value that is free until the home sends one. -/
theorem msgSubReply_granted {f : Flit} {s : State} {x : Proxy} {m : MboxId} {n : Word}
    (hx : s.host.proxies.find? (fun x => proxyOf f x && x.pending.isSome) = some x) (hpending : x.pending = some (m, n)) (hyes : msgNum f 0 1 = 0) :
    msgSubReply f s = reply m stOk 0 (fenceResult x.fid true) { (takeFree 8 s).2 with host := { s.host with
      proxies := s.host.proxies.map (fun z => if z = x then { x with pending := none, value := BitVec.ofNat 64 (leNat (takeFree 8 s).1) } else z)
      regs := s.host.regs ++ [⟨x.part, x.fid, x.asid, 0, some (x.engine, x.homeFid)⟩] } } := by
  unfold msgSubReply
  rw [hx]
  dsimp only
  rw [hpending]
  exact if_pos hyes

end Sys2Proof.Machine
open Sys2Proof Sys2Proof.Machine

/-- Settles O53: runs end with their acknowledgement or halt their sender, and fence messages reach fences, proxies and subscriptions. -/
theorem runsAndFenceMessages : Obligations.RunsAndFenceMessages := by
  unfold Obligations.RunsAndFenceMessages
  refine fun l f s u => ⟨fun h => ⟨fun r hr => ?_, fun hno hgroup => ?_⟩, fun h r v c ch n x hr howner hv hrun => ?_,
    fun xs g hfind hxs hg data last v hdata hlast hv => ?_, fun h hits hhits => ⟨fun hnil hheads => ?_, fun a n hone => ?_⟩, fun h => ?_,
    fun h p hp => ⟨fun hreg => ?_, fun r hreg hhome => ⟨fun hworld => ?_, fun hworld => ?_⟩⟩, fun h x m n hx hpending => ⟨fun hno => ?_, fun hyes => ?_⟩,
    fun h => ?_⟩
  · obtain rfl := h.2
    exact congrArg Host.Outcome.next ((takeMsg_waiting h).trans (runAck_sent hr))
  · obtain rfl := h.2
    exact congrArg Host.Outcome.next ((takeMsg_waiting h).trans (runAck_unsent hno hgroup))
  · obtain rfl := h.2
    exact congrArg Host.Outcome.next ((takeMsg_waiting h).trans (runRefuse_sent hr howner hv hrun))
  · have hrun := multicastRun_of hfind hxs hg hdata hlast hv
    exact ⟨fun howned => congrArg Host.Outcome.next (hrun.trans (if_pos howned)),
      fun hforeign => congrArg Host.Outcome.next (hrun.trans (if_neg (Bool.eq_false_iff.mp hforeign)))⟩
  · obtain rfl := h.2
    refine congrArg Host.Outcome.next ((takeMsg_waiting h).trans ?_)
    rw [msgSignal_hits (s := dropRx [(l, f)] s) hhits.symm, hnil]
    exact settle_id _ hheads
  · obtain rfl := h.2
    refine congrArg Host.Outcome.next ((takeMsg_waiting h).trans ?_)
    rw [msgSignal_hits (s := dropRx [(l, f)] s) hhits.symm, hone]
    rfl
  · refine congrArg Host.Outcome.next ((takeMsg_waiting h).trans (congrArg settle ?_))
    refine congrArg (fun x => { u with host := { u.host with proxies := x } }) (List.map_congr_left fun x _ => ?_)
    simp [proxyOf, and_assoc]
  · obtain rfl := h.2
    refine congrArg Host.Outcome.next ((takeMsg_waiting h).trans ?_)
    subst hp
    exact msgSubscribe_unknown hreg
  · obtain rfl := h.2
    subst hp
    exact congrArg Host.Outcome.next ((takeMsg_waiting h).trans ((msgSubscribe_known (s := dropRx [(l, f)] s) hreg hhome).trans (if_pos hworld)))
  · obtain rfl := h.2
    subst hp
    exact congrArg Host.Outcome.next ((takeMsg_waiting h).trans ((msgSubscribe_known (s := dropRx [(l, f)] s) hreg hhome).trans (if_neg (not_not.mpr hworld))))
  · obtain rfl := h.2
    exact congrArg Host.Outcome.next ((takeMsg_waiting h).trans (msgSubReply_refused hx hpending hno))
  · obtain rfl := h.2
    refine ⟨_, congrArg Host.Outcome.next ((takeMsg_waiting h).trans (msgSubReply_granted hx hpending hyes)), ?_, ?_, ?_, fun y hy hnew => ?_⟩
    · rw [reply_frame]
      rfl
    · rw [mbOf_reply]
    · rw [reply_frame]
      rfl
    · rw [reply_frame] at hy
      obtain ⟨z, hz, rfl⟩ := List.mem_map.mp hy
      split at hnew
      · next heq =>
        rw [if_pos heq]
        exact ⟨rfl, rfl, rfl⟩
      · exact absurd hz hnew
  · obtain rfl := h.2
    obtain ⟨hfewer, hnone⟩ := dropSubs_spec (fun u => decide (u.engine = f.src.toNat ∧ u.fid = msgFid f)) (dropRx [(l, f)] s)
    exact ⟨_, congrArg Host.Outcome.next (takeMsg_waiting h), fun g hg y hy => of_decide_eq_false (hnone g hg y hy), hfewer.cores, hfewer.queues⟩

end

section
-- One declaration after another: fewer threads, so that the check of the whole text keeps within its memory.
set_option Elab.async false
/-! PROOFS. FX commands that lose their region, and commands that waited for a load (R382, R384). -/
namespace Sys2Proof.Machine
open Sys2Proof

/-! ### Records of a job -/

/-- A record of a job, whether it waits or not: what it leaves, and the log. -/
theorem postFor_log {r : RecIn} (hd : r.dangerous = false) (hcode : r.code < 256) (id : Nat) (s : State) : (postFor id r s).fabric = s.fabric ∧
    (jobUnacked s id = false → Posted s (postFor id r s) r.code) ∧
    ∀ i : Fin 64, i ≠ fin 64 s.safety.seq.toNat → (postFor id r s).safety.log[i] = s.safety.log[i] := by
  unfold postFor
  split
  · next h =>
    dsimp only
    rw [if_neg (Bool.eq_false_iff.mp hd)]
    exact ⟨rfl, fun hno => absurd (h.2.symm.trans hno) (by decide), fun _ _ => rfl⟩
  · refine ⟨postRecord_fabric r s, fun _ => posted_postRecord r s hcode, fun i hi => ?_⟩
    exact (congrArg (fun v : Vector (BitVec 256) 64 => v[i]) (postRecord_log r s)).trans (updAt_get_other _ _ _ _ hi)

/-! ### Halts of the extension engine -/

/-- A halt condition leaves an FX engine without a command as it is. -/
theorem raiseHalt_fx {c : CoreId} {h : HaltCond} {s : State} (hrun : (s.cores[c]).fx.run = none) :
    ((raiseHalt c h s).cores[c]).fx = (s.cores[c]).fx := by
  rw [raiseHalt, modCore_same]
  cases hphase : (s.cores[c]).phase with
  | live =>
    dsimp only [snuffEngines]
    rw [hrun]
    rfl
  | halting first second since => rfl
  | halted x => rfl
  | reset since => rfl

/-- What a core of the extension engine looks like once its command has ended in a fault. -/
theorem fxFault_some {c : CoreId} {cause err : Nat} {s : State} {r : FxRun} (hrun : (s.cores[c]).fx.run = some r) :
    ((fxFault c cause err s).cores[c]).fx.run = none ∧ ((fxFault c cause err s).cores[c]).fx.faultInfo = BitVec.ofNat 11 (cause + err * 8) ∧
    (∀ d : CoreId, d ≠ c → (fxFault c cause err s).cores[d] = s.cores[d]) ∧ (fxFault c cause err s).fabric = s.fabric ∧
    (fxFault c cause err s).time = s.time ∧ (jobUnacked s (s.cores[c]).ctl.job = false → Posted s (fxFault c cause err s) 0x35) ∧
    ∀ i : Fin 64, i ≠ fin 64 s.safety.seq.toNat → (fxFault c cause err s).safety.log[i] = s.safety.log[i] := by
  obtain ⟨u, hu⟩ : ∃ u, u = modFx c (fun f => { f with faultInfo := BitVec.ofNat 11 (cause + err * 8) }) (fxEnd c s) := ⟨_, rfl⟩
  obtain ⟨x, q, hq, hd, heq⟩ : ∃ (x : HaltCond) (q : RecIn), q.code = 0x35 ∧ q.dangerous = false ∧
      fxFault c cause err s = raiseHalt c x (postFor (s.cores[c]).ctl.job q u) := by
    have hjob : (u.cores[c]).ctl.job = (s.cores[c]).ctl.job := by
      rw [hu, modFx, modCore_same, fxEnd, modFx, modCore_same]
    unfold fxFault
    rw [hrun]
    dsimp only
    rw [← hu]
    unfold coreFault
    dsimp only
    rw [hjob]
    cases findJob u (s.cores[c]).ctl.job with
    | none => exact ⟨_, _, rfl, rfl, rfl⟩
    | some j => exact ⟨_, _, rfl, rfl, rfl⟩
  have hufx : (u.cores[c]).fx.run = none ∧ (u.cores[c]).fx.faultInfo = BitVec.ofNat 11 (cause + err * 8) := by
    rw [hu, modFx, modCore_same, fxEnd, modFx, modCore_same, hrun]
    exact ⟨rfl, rfl⟩
  have huothers : ∀ d : CoreId, d ≠ c → u.cores[d] = s.cores[d] := fun d hne => by
    rw [hu, modFx, modCore_other _ _ _ _ hne, fxEnd, modFx, modCore_other _ _ _ _ hne]
  have hacked : jobUnacked u (s.cores[c]).ctl.job = jobUnacked s (s.cores[c]).ctl.job := by
    rw [hu]
    exact (jobUnacked_modCore rfl _).trans (jobUnacked_modCore rfl _)
  have husame : u.fabric = s.fabric ∧ u.time = s.time ∧ u.safety = s.safety := by
    rw [hu]
    exact ⟨rfl, rfl, rfl⟩
  obtain ⟨hfabric, htime, hsafety⟩ := husame
  obtain ⟨hcores, hposttime, -⟩ := postFor_frame hd (s.cores[c]).ctl.job u
  obtain ⟨hpostfabric, hposted, hlog⟩ := postFor_log hd (by omega) (s.cores[c]).ctl.job u
  rw [heq]
  have hfx := raiseHalt_fx (h := x) (s := postFor (s.cores[c]).ctl.job q u) (c := c) (by rw [hcores]; exact hufx.1)
  rw [hcores] at hfx
  refine ⟨by rw [hfx]; exact hufx.1, by rw [hfx]; exact hufx.2, fun d hne => ?_, hpostfabric.trans hfabric, hposttime.trans htime, fun hno => ?_,
    fun i hi => ?_⟩
  · rw [raiseHalt_other _ _ _ _ hne, hcores, huothers d hne]
  · have hp := hposted (hacked.trans hno)
    rw [hq] at hp
    exact hp.of_eq (by rw [hsafety]) (by rw [hsafety])
  · rw [hsafety] at hlog
    exact hlog i hi

theorem fxFault_none {c : CoreId} {cause err : Nat} {s : State} (hrun : (s.cores[c]).fx.run = none) : fxFault c cause err s = s := by
  unfold fxFault
  rw [hrun]

/-! ### A command that waited for a load -/

/-- A command is not sent to a region whose extension is not ready. -/
theorem fxSend_unready {c : CoreId} {s : State} (h : (s.fabric.regions[fxRegion c]).state ≠ 2 ∨ (s.fabric.regions[fxRegion c]).cmdReady = false) :
    fxSend c s = s := by
  unfold fxSend
  split
  · rfl
  · refine if_pos ?_
    rcases h with h | h
    · exact .inr (.inr (.inr (.inl h)))
    · exact .inr (.inr (.inr (.inr (Bool.eq_false_iff.mp h))))

theorem fxRecheck_none {c : CoreId} {s : State} (hrun : (s.cores[c]).fx.run = none) : fxRecheck c s = s := by
  unfold fxRecheck
  rw [hrun]

/-- Where the extension is not ready, the test of a waiting command concerns its core alone. -/
theorem fxRecheck_core {c : CoreId} {s : State} (h : (s.fabric.regions[fxRegion c]).state ≠ 2 ∨ (s.fabric.regions[fxRegion c]).cmdReady = false) :
    ∃ f, fxRecheck c s = modCore c f s := by
  have hself : s = modCore c (fun k => k) s := by simp [modCore]
  unfold fxRecheck
  split
  · exact ⟨_, hself⟩
  · split
    · exact ⟨_, hself⟩
    · split
      · exact ⟨_, modCore_modCore _ _ _ _⟩
      · exact ⟨_, fxSend_unready (by exact h)⟩

/-- A command that waited for a load goes on waiting for its extension, or halts its core. -/
theorem fxRecheck_waits {c : CoreId} {s : State} {r : FxRun} (hrun : (s.cores[c]).fx.run = some r) (hwaits : r.waitLoad = true)
    (hstate : (s.fabric.regions[fxRegion c]).state ≠ 3)
    (hready : (s.fabric.regions[fxRegion c]).state ≠ 2 ∨ (s.fabric.regions[fxRegion c]).cmdReady = false) :
    ((fxRecheck c s).cores[c]).fx.run = some { r with waitLoad := false } ∨
    (((fxRecheck c s).cores[c]).fx.run = none ∧ ((s.cores[c]).phase = .live → ∃ x, ((fxRecheck c s).cores[c]).phase = .halting x none s.time)) := by
  unfold fxRecheck
  rw [hrun]
  dsimp only
  rw [if_neg (not_or.mpr ⟨not_not.mpr hwaits, hstate⟩)]
  split
  · next x hx =>
    have hnone : ((modFx c (fun f => { f with run := none }) s).cores[c]).fx.run = none := by rw [modFx, modCore_same]
    refine .inr ⟨?_, fun hlive => ⟨x, raiseHalt_live _ _ _ ?_⟩⟩
    · rw [raiseHalt_fx hnone]
      exact hnone
    · rw [modFx, modCore_same]
      exact hlive
  · rw [fxSend_unready (by exact hready)]
    refine .inl ?_
    rw [modFx, modCore_same]

end Sys2Proof.Machine
open Sys2Proof Sys2Proof.Machine

end

section
-- One declaration after another: fewer threads, so that the check of the whole text keeps within its memory.
set_option Elab.async false
/-! PROOFS. The fabric window, pins and the frames of a load (O54). -/
namespace Sys2Proof.Machine
open Sys2Proof

/-! ### The fabric window -/

/-- The fabric window of a grade with a fabric answers, but for the region pages. -/
theorem answers_fabric {s : State} {off : Nat} (hgrade : s.grade ≠ .s92) (hoff : 0xC0000 ≤ off ∧ off < 0x100000)
    (hpage : ¬ (0xC1000 ≤ off ∧ off < 0xC1800)) : answers s off = true := by
  unfold answers
  rw [if_neg (by omega), if_neg (by omega), if_neg hpage, if_pos hoff]
  unfold fabricThere
  rw [decide_eq_true hgrade, Bool.true_or]

/-- The world of a pin's options is that of its owner. -/
theorem fabricSecure_kio (f : Fabric) {o : Nat} {n : Fin 64} (h : 0x2000 ≤ o ∧ o < 0x2100) (hn : fin 64 ((o - 0x2000) / 4) = n) :
    fabricSecure f o = ((f.pins[n]).secure || decide ((f.pins[n]).use = 0)) := by
  subst hn
  unfold fabricSecure
  rw [if_neg (by omega), if_neg (by omega), if_pos h]

/-- A pin's options are open to the world of its owner, or to the secure world where it is unclaimed. -/
theorem passes_kio {acc : Access} {s : State} {n : Fin 64} (hgrade : s.grade ≠ .s92)
    (h : acc.secure = ((s.fabric.pins[n]).secure || decide ((s.fabric.pins[n]).use = 0))) : Passes acc s (0xC2000 + 4 * n.val) true := by
  have hlt := n.isLt
  refine ⟨?_, answers_fabric hgrade (by omega) (by omega)⟩
  cases hacc : acc.secure with
  | true => exact .inl rfl
  | false =>
    refine .inr ?_
    have hoff : 0xC2000 + 4 * n.val - 0xC0000 = 0x2000 + 4 * n.val := by omega
    have hpin : fabricSecure s.fabric (0x2000 + 4 * n.val) = ((s.fabric.pins[n]).secure || decide ((s.fabric.pins[n]).use = 0)) :=
      fabricSecure_kio _ ⟨by omega, by omega⟩ (Fin.ext (show _ % 64 = _ by omega))
    unfold secureAt
    rw [if_neg (by omega), if_neg (by omega), if_neg (by omega), if_neg (by omega), if_neg (by omega), if_pos (by omega)]
    rw [hoff, hpin, ← h, hacc, Bool.and_false]

/-- FB_CFG_CMD while no load runs. -/
theorem cfgCmdWrite_start {val : Word} {s v : State} (hv : v = { s with fabric := { s.fabric with cmd := s.fabric.cmd ||| val.setWidth 2 } })
    {z : RegionId} (hz : z = s.fabric.cfgRegion.toFin) (hload : s.fabric.load = none) (hbit : bitAt val 0 = true)
    (hpresent : regionPresent s.grade z = true) (hfree : fxHolds s z = false) (hscrub : scrubbing s 1 z.val = false) :
    cfgCmdWrite val s = enterLoad ⟨2, z, secureMb, 0, 0, 0, 0, none, 0, []⟩ v := by
  subst hv hz
  unfold cfgCmdWrite
  simp only [modFabric, hload]
  refine if_neg ?_
  rw [not_or, not_or, not_or]
  exact ⟨not_not.mpr hbit, not_not.mpr hpresent, Bool.eq_false_iff.mp hfree, Bool.eq_false_iff.mp hscrub⟩

/-- FB_CFG_CMD while a host-path load runs. -/
theorem cfgCmdWrite_abort {val : Word} {s v : State} (hv : v = { s with fabric := { s.fabric with cmd := s.fabric.cmd ||| val.setWidth 2 } })
    {l : FbLoad} (hload : s.fabric.load = some l) (hbit : bitAt val 1 = true) (hpath : l.path = 2) :
    cfgCmdWrite val s = loadFail 10 l.applied.length v := by
  subst hv
  unfold cfgCmdWrite
  simp only [modFabric, hload]
  exact if_pos ⟨hbit, hpath⟩

theorem cfgDataPush_stores {hi : Word} {s : State} (hspace : s.fabric.fifo.length < 512)
    (hload : ∀ l, s.fabric.load = some l → l.path = 1 ∨ l.header.isSome = true ∨ s.fabric.fifo.length < 7) :
    cfgDataPush hi s = { s with fabric := { s.fabric with fifo := s.fabric.fifo ++ [hi ++ s.fabric.dataLo] } } := by
  unfold cfgDataPush
  rw [if_neg (by unfold fifoSpace; omega)]
  dsimp only [modFabric]
  cases hl : s.fabric.load with
  | none => rfl
  | some l =>
    refine if_neg ?_
    rintro ⟨hpath, hnone, hlen⟩
    rw [List.length_append] at hlen
    rcases hload l hl with h | h | h
    · omega
    · rw [Option.isNone_iff_eq_none.mp hnone] at h
      exact absurd h Bool.false_ne_true
    · exact absurd hlen (by rw [List.length_singleton]; omega)

/-- The eighth word of a host-path load makes its header. -/
theorem cfgDataPush_header {hi : Word} {s : State} {l : FbLoad} (hload : s.fabric.load = some l) (hpath : l.path = 2) (hheader : l.header = none)
    (hseven : s.fabric.fifo.length = 7) : cfgDataPush hi s =
      takeHeader (wordBytes (s.fabric.fifo ++ [hi ++ s.fabric.dataLo])) { s with fabric := { s.fabric with fifo := [] } } := by
  have hlen : (s.fabric.fifo ++ [hi ++ s.fabric.dataLo]).length = 8 := by rw [List.length_append, hseven, List.length_singleton]
  unfold cfgDataPush
  rw [if_neg (by unfold fifoSpace; omega)]
  simp only [modFabric, hload]
  rw [if_pos ⟨hpath, by rw [hheader]; rfl, hlen.ge⟩, List.take_of_length_le hlen.le, List.drop_of_length_le hlen.le]

theorem cfgDataPush_full {hi : Word} {s : State} {l : FbLoad} (hload : s.fabric.load = some l) (hpath : l.path = 2)
    (hfull : 512 ≤ s.fabric.fifo.length) : cfgDataPush hi s = loadFail 13 0 s := by
  unfold cfgDataPush
  rw [if_pos (by unfold fifoSpace; omega)]
  simp only [hload]
  exact if_pos hpath

/-! ### Pins (R374) -/

/-- A pin that serves nothing is in high impedance. -/
theorem pinCondition_idle {s : State} {n : Fin 64}
    (h : (s.fabric.pins[n]).use = 0 ∨ ((s.fabric.pins[n]).use = 1 ∧ (s.fabric.regions[(s.fabric.pins[n]).region]).state ≠ 2)) :
    pinCondition s n = highZ := by
  have hserves : pinServes s (s.fabric.pins[n]).region n = false := by
    unfold pinServes
    dsimp only
    rcases h with h | ⟨-, hstate⟩
    · rw [decide_eq_false (p := (s.fabric.pins[n]).use = 1) (by rw [h]; decide)]
      simp only [Bool.false_and]
    · rw [decide_eq_false hstate]
      simp only [Bool.and_false, Bool.false_and]
  unfold pinCondition
  dsimp only
  rw [hserves]
  split
  · rfl
  · refine (if_neg ?_).trans (if_neg Bool.false_ne_true)
    rintro ⟨h2, -⟩
    rcases h with h | ⟨h, -⟩ <;> exact absurd (h.symm.trans h2) (by decide)

/-! ### The end of a load -/

theorem fxRegion_of {z : RegionId} (h : z.val < 6) : fxRegion ⟨z.val, h⟩ = z := Fin.ext (Nat.mod_eq_of_lt z.isLt)

/-- The core of a region with an extension tests its waiting command again. -/
def rechecked (z : RegionId) (s : State) : State := if h : z.val < 6 then fxRecheck ⟨z.val, h⟩ s else s

/-- Where the extension is not ready, the test concerns the core alone. -/
theorem rechecked_frame {z : RegionId} {s : State} (h : (s.fabric.regions[z]).state ≠ 2 ∨ (s.fabric.regions[z]).cmdReady = false) :
    ∃ k, rechecked z s = { s with cores := k } := by
  unfold rechecked
  split
  · next hz =>
    have hregion : ∀ y : RegionId, y = z → (s.fabric.regions[y]).state ≠ 2 ∨ (s.fabric.regions[y]).cmdReady = false := by
      rintro y rfl
      exact h
    obtain ⟨f, hf⟩ := fxRecheck_core (c := ⟨z.val, hz⟩) (s := s) (hregion _ (fxRegion_of hz))
    exact ⟨_, hf⟩
  · exact ⟨s.cores, rfl⟩

/-- The state in which a load has failed, before the commands that wait for it test their region. -/
def loadFailed (code frame : Nat) (l : FbLoad) (s : State) : State :=
  setGint 0x40 (bumpGen (postRecord { code := 0x30, unit := 6, index := l.region.val, detail := code + frame * 2 ^ 8 }
    (modRegion l.region (fun r => { r with
      state := 4, cmdReady := false, lastCode := BitVec.ofNat 8 code, failFrame := BitVec.ofNat 12 frame, extId := 0 })
      (modFabric (fun f => { f with load := none, lastCode := BitVec.ofNat 4 code, fifo := [] }) s))))

theorem loadFail_eq {code frame : Nat} {l : FbLoad} {s : State} (h : s.fabric.load = some l) : ∃ n results, loadFail code frame s =
    if l.path = 1 then reply l.mbox stBadArg n results (rechecked l.region (loadFailed code (if 3 ≤ code ∧ code ≤ 10 then frame % 4096 else 0) l s))
    else rechecked l.region (loadFailed code (if 3 ≤ code ∧ code ≤ 10 then frame % 4096 else 0) l s) := by
  unfold loadFail
  rw [h]
  exact ⟨_, _, rfl⟩

theorem loadFailed_fabric (code frame : Nat) (l : FbLoad) (s : State) : (loadFailed code frame l s).fabric.load = none ∧
    (loadFailed code frame l s).fabric.regions[l.region] = { s.fabric.regions[l.region] with
      state := 4, cmdReady := false, lastCode := BitVec.ofNat 8 code, failFrame := BitVec.ofNat 12 frame, extId := 0 } := by
  have hfabric := postRecord_fabric { code := 0x30, unit := 6, index := l.region.val, detail := code + frame * 2 ^ 8 }
    (modRegion l.region (fun r => { r with
      state := 4, cmdReady := false, lastCode := BitVec.ofNat 8 code, failFrame := BitVec.ofNat 12 frame, extId := 0 })
      (modFabric (fun f => { f with load := none, lastCode := BitVec.ofNat 4 code, fifo := [] }) s))
  refine ⟨(congrArg Fabric.load hfabric).trans rfl, (congrArg (fun f : Fabric => f.regions[l.region]) hfabric).trans ?_⟩
  rw [modRegion_same]
  rfl

theorem loadFailed_posted (code frame : Nat) (l : FbLoad) (s : State) : Posted s (loadFailed code frame l s) 0x30 :=
  (posted_postRecord { code := 0x30, unit := 6, index := l.region.val, detail := code + frame * 2 ^ 8 }
    (modRegion l.region (fun r => { r with
      state := 4, cmdReady := false, lastCode := BitVec.ofNat 8 code, failFrame := BitVec.ofNat 12 frame, extId := 0 })
      (modFabric (fun f => { f with load := none, lastCode := BitVec.ofNat 4 code, fifo := [] }) s)) (by norm_num)).of_eq

theorem reply_fabric (m : MboxId) (st detail : Nat) (results : List Byte) (s : State) : (reply m st detail results s).fabric = s.fabric := by
  rw [reply_frame]

theorem reply_safety (m : MboxId) (st detail : Nat) (results : List Byte) (s : State) : (reply m st detail results s).safety = s.safety := by
  rw [reply_frame]

/-- A load that fails. -/
theorem loadFail_spec (code frame : Nat) {l : FbLoad} {s : State} (h : s.fabric.load = some l) : (loadFail code frame s).fabric.load = none ∧
    ((loadFail code frame s).fabric.regions[l.region]).state = 4 ∧
    ((loadFail code frame s).fabric.regions[l.region]).lastCode = BitVec.ofNat 8 code ∧
    ((loadFail code frame s).fabric.regions[l.region]).extId = 0 ∧ Posted s (loadFail code frame s) 0x30 := by
  obtain ⟨n, results, heq⟩ := loadFail_eq (code := code) (frame := frame) h
  generalize (if 3 ≤ code ∧ code ≤ 10 then frame % 4096 else 0) = at_ at heq
  obtain ⟨hload, hregion⟩ := loadFailed_fabric code at_ l s
  obtain ⟨k, hk⟩ := rechecked_frame (z := l.region) (s := loadFailed code at_ l s) (.inr (by rw [hregion]))
  have hposted := loadFailed_posted code at_ l s
  have hfabric : (loadFail code frame s).fabric = (loadFailed code at_ l s).fabric := by
    rw [heq, hk]
    split
    · exact reply_fabric _ _ _ _ _
    · rfl
  have hsafety : (loadFail code frame s).safety = (loadFailed code at_ l s).safety := by
    rw [heq, hk]
    split
    · exact reply_safety _ _ _ _ _
    · rfl
  rw [hfabric, hregion]
  exact ⟨hload, rfl, rfl, rfl, hposted.of_eq rfl rfl (by rw [hsafety]) (by rw [hsafety]) (by rw [hsafety])⟩

/-- The region that a release configures, from its container's header. -/
def configuredBy (t : Nat) (h : List Byte) (r : Region) : Region :=
  { regionInitial t r with
    state := 2
    async := #v[(hd h 99 1 == 1), (hd h 98 1 == 1)]
    bram := []
    lastCode := 0
    failFrame := 0
    extId := BitVec.ofNat 16 (hd h 64 16)
    clk := BitVec.ofNat 32 (hd h 192 32)
    loads := satAdd r.loads 1
    pinMask := BitVec.ofNat 64 (hd h 128 64)
    fxLine := BitVec.ofNat 2 (hd h 288 2) }

/-- The state of a release before the command that waits for it tests its region. -/
def released (l : FbLoad) (h : List Byte) (s : State) : State :=
  setGint 0x40 (bumpGen (modFabric (fun f => { f with load := none, lastCode := 0, fifo := [] })
    (finishScrub (.bram l.region) (modRegion l.region (configuredBy s.time h) s))))

theorem fabricRelease_full {l : FbLoad} {h : List Byte} {s : State} (hload : s.fabric.load = some l) (hheader : l.header = some h)
    (hfull : 2560 ≤ l.applied.length) : fabricRelease s =
      if l.path = 1 then reply l.mbox stOk 0 (leBytes 2 (hd h 64 16)) (rechecked l.region (released l h s)) else rechecked l.region (released l h s) := by
  unfold fabricRelease
  rw [hload]
  dsimp only
  rw [hheader]
  exact if_neg (by omega)

/-- The next frame of a load fails a check. -/
theorem fabricFrame_fails {found : FrameFinding} {l : FbLoad} {h b : List Byte} {s v : State} {code : Nat} (hload : s.fabric.load = some l)
    (hheader : l.header = some h) (happlied : l.applied.length < 2560) (hnext : nextFrame l s = (some (.ok b), v))
    (hcheck : frameCheck l (hdReloc h) b found = some code) : fabricFrame found s = loadFail code (leNat (b.take 4) / 16 % 4096) v := by
  unfold fabricFrame
  rw [hload]
  dsimp only
  rw [hheader]
  dsimp only
  rw [if_neg (by omega), hnext]
  dsimp only
  rw [hcheck]

/-- The next frame of a load is applied. -/
theorem fabricFrame_applied {found : FrameFinding} {l : FbLoad} {h b : List Byte} {s v : State} (hload : s.fabric.load = some l)
    (hheader : l.header = some h) (happlied : l.applied.length < 2560) (hnext : nextFrame l s = (some (.ok b), v))
    (hcheck : frameCheck l (hdReloc h) b found = none) : fabricFrame found s =
      modRegion l.region (fun r => { r with
          config := memStore r.config (256 * (leNat (b.take 4) / 16 % 4096)) (b.drop 16)
          crcs := frameCrc (leNat (b.take 4) / 16 % 4096) b :: r.crcs })
        (modFabric (fun f => { f with
          load := some { l with
            got := l.got + 272
            applied := leNat (b.take 4) / 16 % 4096 :: l.applied }
          frames := f.frames + 1 }) v) := by
  unfold fabricFrame
  rw [hload]
  dsimp only
  rw [hheader]
  dsimp only
  rw [if_neg (by omega), hnext]
  dsimp only
  rw [hcheck]

theorem configuredBy_port (t : Nat) (h : List Byte) (r : Region) : (configuredBy t h r).state = 2 ∧ (configuredBy t h r).cmdReady = false := ⟨rfl, rfl⟩

theorem configuredBy_fields (t : Nat) (h : List Byte) (r : Region) : (configuredBy t h r).extId = BitVec.ofNat 16 (hd h 64 16) ∧
    (configuredBy t h r).bram = [] ∧ (configuredBy t h r).config = r.config ∧ (configuredBy t h r).loads = satAdd r.loads 1 := by
  simp only [configuredBy, regionInitial, and_self]

theorem released_region (l : FbLoad) (h : List Byte) (s : State) :
    (released l h s).fabric.regions[l.region] = configuredBy s.time h s.fabric.regions[l.region] := updAt_get_same _ _ _

theorem released_other (l : FbLoad) (h : List Byte) (s : State) {z : RegionId} (hz : z ≠ l.region) :
    (released l h s).fabric.regions[z] = s.fabric.regions[z] := updAt_get_other _ _ _ _ hz

theorem bitAt_gint6 (w : BitVec 12) : bitAt (w ||| 0x40) 6 = true := by
  unfold bitAt
  rw [BitVec.toNat_or, Nat.testBit_or]
  exact Bool.or_true _

theorem hd_lt (h : List Byte) (lo len : Nat) : hd h lo len < 2 ^ len := Nat.mod_lt _ (Nat.two_pow_pos len)

theorem extId_toNat (h : List Byte) : (BitVec.ofNat 16 (hd h 64 16)).toNat = hd h 64 16 := by
  rw [BitVec.toNat_ofNat]
  exact Nat.mod_eq_of_lt (hd_lt h 64 16)

/-- A reply reaches its own mailbox alone. -/
theorem reply_cores (m : MboxId) (st detail : Nat) (results : List Byte) (s : State) : (reply m st detail results s).cores = s.cores := by
  rw [reply_frame]

theorem reply_genCount (m : MboxId) (st detail : Nat) (results : List Byte) (s : State) :
    (reply m st detail results s).host.genCount = s.host.genCount := by
  rw [reply_frame]

theorem reply_bnd (m : MboxId) (st detail : Nat) (results : List Byte) (s : State) : (reply m st detail results s).bnd = s.bnd := by
  rw [reply_frame]

/-- What a release leaves and what it configures, before its answer. -/
theorem rechecked_released (l : FbLoad) (h : List Byte) (s : State) : ∃ k, rechecked l.region (released l h s) = { released l h s with cores := k } :=
  rechecked_frame (.inr (by rw [released_region]; rfl))

/-- The answer of a release: what is outside the mailboxes is the state before it. -/
theorem fabricRelease_frame {l : FbLoad} {h : List Byte} {s : State} (hload : s.fabric.load = some l) (hheader : l.header = some h)
    (hfull : 2560 ≤ l.applied.length) : (fabricRelease s).fabric = (released l h s).fabric ∧ (fabricRelease s).bnd = (released l h s).bnd ∧
      (fabricRelease s).host.genCount = (released l h s).host.genCount ∧ (fabricRelease s).cores = (rechecked l.region (released l h s)).cores := by
  obtain ⟨k, hk⟩ := rechecked_released l h s
  rw [fabricRelease_full hload hheader hfull, hk]
  split
  · exact ⟨reply_fabric _ _ _ _ _, reply_bnd _ _ _ _ _, reply_genCount _ _ _ _ _, reply_cores _ _ _ _ _⟩
  · exact ⟨rfl, rfl, rfl, rfl⟩

/-- The command of the core of a region that has been configured: it waits no longer for the load. -/
theorem rechecked_waits {z : RegionId} {s : State} {c : CoreId} {r : FxRun} (hc : c.val = z.val) (hrun : (s.cores[c]).fx.run = some r)
    (hwaits : r.waitLoad = true) (hstate : (s.fabric.regions[z]).state ≠ 3) (hready : (s.fabric.regions[z]).cmdReady = false) :
    ((rechecked z s).cores[c]).fx.run = some { r with waitLoad := false } ∨
    (((rechecked z s).cores[c]).fx.run = none ∧ ((s.cores[c]).phase = .live → ∃ x, ((rechecked z s).cores[c]).phase = .halting x none s.time)) := by
  have hz : z.val < 6 := by omega
  obtain rfl : c = ⟨z.val, hz⟩ := Fin.ext hc
  have hregion : ∀ y : RegionId, y = z → (s.fabric.regions[y]).state ≠ 3 ∧ (s.fabric.regions[y]).cmdReady = false := by
    rintro y rfl
    exact ⟨hstate, hready⟩
  obtain ⟨hstate', hready'⟩ := hregion _ (fxRegion_of hz)
  unfold rechecked
  rw [dif_pos hz]
  exact fxRecheck_waits hrun hwaits hstate' (.inr hready')

theorem rechecked_none {z : RegionId} {s : State} (h : ∀ hz : z.val < 6, (s.cores[(⟨z.val, hz⟩ : CoreId)]).fx.run = none) : rechecked z s = s := by
  unfold rechecked
  split
  · next hz => exact fxRecheck_none (h hz)
  · rfl

theorem mbOf_congr {s t : State} {m : MboxId} (hparts : t.host.parts = s.host.parts) (hbox : t.host.smBox = s.host.smBox) : mbOf t m = mbOf s m := by
  unfold mbOf
  rw [hparts, hbox]

theorem released_frame (l : FbLoad) (h : List Byte) (s : State) : (released l h s).cores = s.cores ∧ (released l h s).time = s.time ∧
    (∀ m : MboxId, mbOf (released l h s) m = mbOf s m) ∧ (released l h s).host.genCount = s.host.genCount + 1 ∧
    bitAt (released l h s).bnd.gintStatus 6 = true := by
  refine ⟨?_, ?_, fun _ => mbOf_congr rfl rfl, rfl, bitAt_gint6 s.bnd.gintStatus⟩
  · simp only [released, setGint, bumpGen, modFabric, finishScrub, modRegion]
  · simp only [released, setGint, bumpGen, modFabric, finishScrub, modRegion]

/-! ### The configuration scan -/

/-- A region that loses its configuration, before a command on it ends. -/
def unconfigured (z : RegionId) (frame : Nat) (s : State) : State :=
  bumpGen (modRegion z (fun r => { r with state := 4, cmdReady := false, extId := 0 })
    (postRecord { code := 0x31, fc := 1, unit := 6, index := z.val, detail := frame }
      (modFabric (fun f => { f with scanRegion := BitVec.ofNat 3 z.val }) s)))

theorem scanFails_eq (z : RegionId) (frame : Nat) (s : State) : scanFails z frame s = fxLoses z 5 (unconfigured z frame s) := rfl

theorem unconfigured_region (z : RegionId) (frame : Nat) (s : State) : (unconfigured z frame s).fabric.regions[z] =
    { s.fabric.regions[z] with state := 4, cmdReady := false, extId := 0 } := by
  have hregion := modRegion_same z (fun r => { r with state := 4, cmdReady := false, extId := 0 })
    (postRecord { code := 0x31, fc := 1, unit := 6, index := z.val, detail := frame } (modFabric (fun f => { f with scanRegion := BitVec.ofNat 3 z.val }) s))
  rw [postRecord_fabric] at hregion
  exact hregion

theorem unconfigured_posted (z : RegionId) (frame : Nat) (s : State) : Posted s (unconfigured z frame s) 0x31 :=
  (posted_postRecord { code := 0x31, fc := 1, unit := 6, index := z.val, detail := frame }
    (modFabric (fun f => { f with scanRegion := BitVec.ofNat 3 z.val }) s) (by norm_num)).of_eq

theorem unconfigured_cores (z : RegionId) (frame : Nat) (s : State) : (unconfigured z frame s).cores = s.cores :=
  (postRecord_cores _ _).trans rfl

theorem fxFault_fabric (c : CoreId) (cause err : Nat) (s : State) : (fxFault c cause err s).fabric = s.fabric := by
  cases hrun : (s.cores[c]).fx.run with
  | none => rw [fxFault_none hrun]
  | some r => exact (fxFault_some hrun).2.2.2.1

theorem fxLoses_fabric (z : RegionId) (cause : Nat) (s : State) : (fxLoses z cause s).fabric = s.fabric := by
  unfold fxLoses
  split
  · split
    · rfl
    · exact fxFault_fabric _ _ _ _
  · rfl

theorem scanFails_region (z : RegionId) (frame : Nat) (s : State) : (scanFails z frame s).fabric.regions[z] =
    { s.fabric.regions[z] with state := 4, cmdReady := false, extId := 0 } :=
  (congrArg (fun f : Fabric => f.regions[z]) (fxLoses_fabric z 5 (unconfigured z frame s))).trans (unconfigured_region z frame s)

theorem configScanMismatch_fails {z : RegionId} {frame : BitVec 12} {s : State} (hstate : (s.fabric.regions[z]).state = 2)
    (hload : s.fabric.load = none) (hframe : frame.toNat < 2560) : exec (.configScanMismatch z frame) s = .next (scanFails z frame.toNat s) := by
  refine congrArg Host.Outcome.next (if_neg ?_)
  rw [not_or, not_or]
  exact ⟨not_not.mpr hstate, by rw [hload]; exact Bool.false_ne_true, by omega⟩

end Sys2Proof.Machine
open Sys2Proof Sys2Proof.Machine

/-- Settles O54: the fabric window takes loads, clocks, pin options and timers; frames are applied, a release configures its region, and a failed load
or a mismatch of the scan leaves it in state 4. -/
theorem fabricTakesLoads : Obligations.FabricTakesLoads := by
  unfold Obligations.FabricTakesLoads
  refine ⟨fun acc val s v hgrade hv => ⟨fun hsecure => ⟨fun z hz hload hbit hpresent hfree hscrub => ?_, fun l hload hbit hpath => ?_,
      fun hspace hload => ?_, fun l hload hpath hheader hseven => ?_, fun l hload hpath hfull => ?_, fun n => ⟨fun hused => ?_, fun hfree hlo hhi => ?_⟩⟩,
    fun n hworld => ⟨fun hpull => ?_, fun hpull => ?_⟩, fun k hpasses => ?_, fun n hstate => ⟨fun hidle => ?_, fun huse hn => ?_,
      fun r hr huse hrstate hmask => ?_⟩⟩,
    fun s l h hload hheader => ⟨fun found b v i happlied hnext hi => ⟨fun hcheck => ?_, fun code hcheck => ?_⟩, fun happlied => ?_, fun hfull => ?_,
      fun code => ?_⟩, fun z frame s hstate hload hframe => ?_⟩
  · exact congrArg Host.Outcome.next ((access_passes ⟨.inl hsecure, answers_fabric hgrade (by omega) (by omega)⟩).trans
      (cfgCmdWrite_start hv hz hload hbit hpresent hfree hscrub))
  · exact congrArg Host.Outcome.next ((access_passes ⟨.inl hsecure, answers_fabric hgrade (by omega) (by omega)⟩).trans
      (cfgCmdWrite_abort hv hload hbit hpath))
  · exact congrArg Host.Outcome.next ((access_passes ⟨.inl hsecure, answers_fabric hgrade (by omega) (by omega)⟩).trans
      (cfgDataPush_stores hspace hload))
  · exact congrArg Host.Outcome.next ((access_passes ⟨.inl hsecure, answers_fabric hgrade (by omega) (by omega)⟩).trans
      (cfgDataPush_header hload hpath hheader hseven))
  · exact congrArg Host.Outcome.next ((access_passes ⟨.inl hsecure, answers_fabric hgrade (by omega) (by omega)⟩).trans
      (cfgDataPush_full hload hpath hfull))
  · have hlt := n.isLt
    exact congrArg Host.Outcome.next ((access_passes ⟨.inl hsecure, answers_fabric hgrade (by omega) (by omega)⟩).trans (if_pos hused))
  · have hlt := n.isLt
    exact congrArg Host.Outcome.next ((access_passes ⟨.inl hsecure, answers_fabric hgrade (by omega) (by omega)⟩).trans
      ((if_neg (Bool.eq_false_iff.mp hfree)).trans (if_neg (by omega))))
  · exact congrArg Host.Outcome.next ((access_passes (passes_kio hgrade hworld)).trans (if_neg (not_or.mpr ⟨hpull, not_not.mpr hworld⟩)))
  · exact congrArg Host.Outcome.next ((access_passes (passes_kio hgrade hworld)).trans (if_pos (Or.inl hpull)))
  · exact congrArg Host.Outcome.next (access_passes hpasses)
  · exact pinCondition_idle hidle
  · subst hn
    unfold pinCondition
    dsimp only
    exact (if_neg (not_or.mpr ⟨hstate, hgrade⟩)).trans (if_pos ⟨huse, rfl⟩)
  · subst hr
    have hserves : pinServes s (s.fabric.pins[n]).region n = true := by
      unfold pinServes
      dsimp only
      rw [decide_eq_true huse, decide_eq_true hrstate, hmask, decide_eq_true rfl]
      rfl
    have hcond : pinCondition s n = ⟨imageDrives s (s.fabric.pins[n]).region n, true, false, kioOptions s.fabric.kio[n]⟩ := by
      unfold pinCondition
      dsimp only
      exact (if_neg (not_or.mpr ⟨hstate, hgrade⟩)).trans ((if_neg (fun h => absurd (huse.symm.trans h.1) (by decide))).trans (if_pos hserves))
    rw [hcond]
    exact ⟨rfl, rfl, rfl, rfl⟩
  · subst hi
    exact congrArg Host.Outcome.next (fabricFrame_applied hload hheader happlied hnext hcheck)
  · subst hi
    exact congrArg Host.Outcome.next (fabricFrame_fails hload hheader happlied hnext hcheck)
  · refine congrArg Host.Outcome.next ?_
    unfold fabricRelease
    rw [hload]
    dsimp only
    rw [hheader]
    exact if_pos happlied
  · obtain ⟨hfabric, hbnd, hgen, hcores⟩ := fabricRelease_frame hload hheader hfull
    obtain ⟨hkept, htime, hmbox, hcount, hcause⟩ := released_frame l h s
    obtain ⟨hext, hbram, hconfig, hloads⟩ := configuredBy_fields s.time h s.fabric.regions[l.region]
    obtain ⟨k, hk⟩ := rechecked_released l h s
    have hbox : ∀ m : MboxId, mbOf { released l h s with cores := k } m = mbOf s m := fun m =>
      (mbOf_congr (s := released l h s) rfl rfl).trans (hmbox m)
    have hfull' := fabricRelease_full hload hheader hfull
    have hregion := released_region l h s
    refine ⟨fabricRelease s, rfl, ?_⟩
    rw [hfabric, hbnd, hgen, hcores, hregion, hext, hbram, hconfig, hloads, (configuredBy_port _ _ _).1]
    refine ⟨rfl, rfl, extId_toNat h, rfl, rfl, rfl, hcount, hcause,
      fun z hz => released_other l h s hz, fun hpath => ?_, fun hpath m => ?_, fun hnone => ?_, fun c r hc hrun hwaits => ?_⟩
    · rw [hfull', if_pos hpath, hk, mbOf_reply, hbox]
      exact ⟨rfl, rfl, rfl⟩
    · rw [hfull', if_neg hpath, hk]
      exact hbox m
    · rw [rechecked_none (s := released l h s) (fun hz => by rw [hkept]; exact hnone hz)]
      exact hkept
    · have hwaited := rechecked_waits (s := released l h s) hc (by rw [hkept]; exact hrun) hwaits
        (by rw [hregion, (configuredBy_port _ _ _).1]; decide) (by rw [hregion, (configuredBy_port _ _ _).2])
      rw [hkept, htime] at hwaited
      exact hwaited
  · exact ⟨_, rfl, loadFail_spec code 0 hload⟩
  · refine ⟨configScanMismatch_fails hstate hload hframe, ?_⟩
    rw [scanFails_region]
    exact ⟨rfl, rfl, rfl⟩

end

section
-- One declaration after another: fewer threads, so that the check of the whole text keeps within its memory.
set_option Elab.async false
/-! PROOFS. Events of configured regions (O55). -/
namespace Sys2Proof.Machine
open Sys2Proof

/-! ### A region that loses its configuration under a command (R384, R385) -/

/-- The second of two records, whose first stands in another place of the log. -/
theorem slot_next_ne (n : Half) : fin 64 n.toNat ≠ fin 64 (n + 1).toNat := by
  intro h
  have hval := congrArg Fin.val h
  have hadd : (n + 1).toNat = (n.toNat + 1) % 65536 := BitVec.toNat_add n 1
  simp only [fin] at hval
  omega

/-- A command that no fault ends leaves the region's loss as it is. -/
theorem fxLoses_spared {z : RegionId} {cause : Nat} {s : State} (h : ∀ hz : z.val < 6, ∀ r, (s.cores[(⟨z.val, hz⟩ : CoreId)]).fx.run = some r → r.done = true) :
    fxLoses z cause s = s := by
  unfold fxLoses
  split
  · next hz =>
    cases hrun : (s.cores[(⟨z.val, hz⟩ : CoreId)]).fx.run with
    | none => exact (if_neg Bool.false_ne_true).trans (fxFault_none hrun)
    | some r => exact if_pos (h hz r hrun)
  · rfl

theorem fxLoses_ends {c : CoreId} {z : RegionId} {cause : Nat} {s : State} {r : FxRun} (hc : c.val = z.val) (hrun : (s.cores[c]).fx.run = some r)
    (hdone : r.done = false) : fxLoses z cause s = fxFault c cause 0 s := by
  have hz : z.val < 6 := by omega
  obtain rfl : c = ⟨z.val, hz⟩ := Fin.ext hc
  unfold fxLoses
  rw [dif_pos hz, hrun]
  exact if_neg (by rw [Option.any_some, hdone]; exact Bool.false_ne_true)

/-- A fault of a command, after a record of its own. -/
theorem posted_fxFault {s v : State} {c : CoreId} {cause code : Nat} {r : FxRun} (hcores : v.cores = s.cores) (hposted : Posted s v code)
    (hrun : (s.cores[c]).fx.run = some r) :
    ((fxFault c cause 0 v).cores[c]).fx.run = none ∧ ((fxFault c cause 0 v).cores[c]).fx.faultInfo = BitVec.ofNat 11 cause ∧
    (∀ d : CoreId, d ≠ c → (fxFault c cause 0 v).cores[d] = s.cores[d]) ∧ fld ((fxFault c cause 0 v).safety.log[fin 64 s.safety.seq.toNat]) 8 8 = code ∧
    (jobUnacked s (s.cores[c]).ctl.job = false → (fxFault c cause 0 v).safety.seq = s.safety.seq + 2 ∧
      fld ((fxFault c cause 0 v).safety.log[fin 64 (s.safety.seq + 1).toNat]) 8 8 = 0x35) := by
  obtain ⟨hseq, -, hcode⟩ := hposted
  obtain ⟨hnone, hinfo, hothers, -, -, hfault, hlog⟩ := fxFault_some (cause := cause) (err := 0) (s := v) (c := c) (by rw [hcores]; exact hrun)
  refine ⟨hnone, by simpa using hinfo, fun d hd => by rw [hothers d hd, hcores], ?_, fun hacked => ?_⟩
  · have hkept := hlog (fin 64 s.safety.seq.toNat) (by rw [hseq]; exact slot_next_ne s.safety.seq)
    exact (congrArg (fun w => fld w 8 8) hkept).trans hcode
  · obtain ⟨hnext, -, hlast⟩ := hfault (by rw [hcores, jobUnacked_congr hcores]; exact hacked)
    have hslot : ∀ n, v.safety.seq = n → fld ((fxFault c cause 0 v).safety.log[fin 64 n.toNat]) 8 8 = 0x35 := by
      rintro n rfl
      exact hlast
    exact ⟨by rw [hnext, hseq, BitVec.add_assoc]; rfl, hslot _ hseq⟩

/-! ### User watchdogs (R378) -/

theorem expire_eq (k : Fin 4) (s : State) {T : Nat} (h : T = max s.time ((s.fabric.timers[k]).since + us (s.fabric.timers[k]).reload.toNat)) :
    expire k s = { s with
      time := T
      fabric := { s.fabric with timers := updAt s.fabric.timers k (fun t => { t with since := T }) } } := by
  subst h
  rfl

/-- A user watchdog that has expired, its region's user logic at its initial values. -/
def barked (k : Fin 4) (s : State) : State :=
  initialValues (s.fabric.timers[k]).region (postRecord
    { code := 0x32, fc := 1, unit := 6, index := ((s.fabric.timers[k]).region).val, detail := k.val } (expire k s))

theorem barked_cores (k : Fin 4) (s : State) : (barked k s).cores = s.cores := (postRecord_cores _ _).trans rfl

theorem barked_posted (k : Fin 4) (s : State) : Posted s (barked k s) 0x32 :=
  (posted_postRecord { code := 0x32, fc := 1, unit := 6, index := ((s.fabric.timers[k]).region).val, detail := k.val } (expire k s)
    (by norm_num)).of_eq

theorem barked_time (k : Fin 4) (s : State) : (barked k s).time = (expire k s).time := postRecord_time _ _

theorem barked_fabric (k : Fin 4) (s : State) : (barked k s).fabric.timers = (expire k s).fabric.timers ∧
    ((barked k s).fabric.regions[(s.fabric.timers[k]).region]).cmdReady = false := by
  have htimers : ∀ p : State, (initialValues (s.fabric.timers[k]).region p).fabric.timers = p.fabric.timers ∧
      ((initialValues (s.fabric.timers[k]).region p).fabric.regions[(s.fabric.timers[k]).region]).cmdReady = false := fun p =>
    ⟨rfl, by rw [initialValues, modRegion_same]; rfl⟩
  obtain ⟨hkept, hready⟩ := htimers (postRecord
    { code := 0x32, fc := 1, unit := 6, index := ((s.fabric.timers[k]).region).val, detail := k.val } (expire k s))
  exact ⟨hkept.trans (by rw [postRecord_fabric]), hready⟩

/-- A user watchdog's expiry resets the user logic of its region; a command of the region's core ends in a fault. -/
theorem userWatchdogExpiry_eq {k : Fin 4} {s : State} (h : timerRuns s k 1 = true) :
    exec (.userWatchdogExpiry k) s = .next (if hz : ((s.fabric.timers[k]).region).val < 6 then
      fxFault ⟨((s.fabric.timers[k]).region).val, hz⟩ 6 0 (barked k s) else barked k s) :=
  congrArg Host.Outcome.next (if_neg (not_not.mpr h))

/-! ### The extension port -/

theorem hasPort_absent {s : State} {z : RegionId} (h : 6 ≤ z.val) : hasPort s z = false := dif_neg (by omega)

theorem hasPort_of {s : State} {z : RegionId} (h : z.val < 6) :
    hasPort s z = (corePresent s.grade ⟨z.val, h⟩ && !(s.cores[(⟨z.val, h⟩ : CoreId)]).retired) := dif_pos h

theorem cmdReady_ignored {s : State} {z : RegionId} (h : hasPort s z = false ∨ (s.fabric.regions[z]).extId = 0) :
    exec (.cmdReady z) s = .next s := by
  refine congrArg Host.Outcome.next (if_pos (.inr ?_))
  rcases h with h | h
  · exact .inl (Bool.eq_false_iff.mp h)
  · exact .inr h

theorem cmdReady_sends {s : State} {z : RegionId} (hstate : (s.fabric.regions[z]).state = 2) (hz : z.val < 6) (hport : hasPort s z = true)
    (hext : (s.fabric.regions[z]).extId ≠ 0) :
    exec (.cmdReady z) s = .next (fxSend ⟨z.val, hz⟩ (modRegion z (fun r => { r with cmdReady := true }) s)) := by
  refine congrArg Host.Outcome.next ((if_neg ?_).trans (dif_pos hz))
  rw [not_or, not_or]
  exact ⟨not_not.mpr hstate, not_not.mpr hport, hext⟩

/-- An uncorrectable word of a block RAM: the port's error output and the count of its region. -/
theorem ramUncorr_raised (z : RegionId) (port : Fin 96) (off : Nat) (s : State) :
    ramUncorr z port off (modRegion z (fun r => { r with logic := raiseRamErr port r.logic }) s) =
      postRecord { code := 0x33, unit := 6, index := z.val, detail := port.val / 2, addr := off } (modRegion z (fun r => { r with
        bramErr := satAdd r.bramErr 1
        logic := { r.logic with rams := updAt r.logic.rams port (fun x => (x.1, { x.2 with err := true })) } }) s) := by
  unfold ramUncorr
  rw [modRegion_modRegion]
  rfl

theorem b2n_eq (b : Bool) : b2n b = if b then 1 else 0 := rfl

end Sys2Proof.Machine
open Sys2Proof Sys2Proof.Machine

/-- Settles O55: what the scan, clocks, the extension port, timers, watchdogs and block RAM do in configured regions. -/
theorem regionEvents : Obligations.RegionEvents := by
  unfold Obligations.RegionEvents
  refine ⟨fun truth a b c d => ?_, fun s => ⟨fun z frame hstate => ⟨fun hload hframe => ?_, fun hload => ?_, fun hno => ?_,
      fun hz hext => ⟨fun hpresent hretired => ?_, fun hgone => ?_⟩, fun port off => ?_⟩, fun n hn => ?_,
    fun k T hT => ⟨fun hruns => ?_, fun hruns hz => ?_, fun c hruns hc => ?_, fun hruns hstate => ?_⟩⟩⟩
  · simp only [lutOut, b2n_eq, Nat.mul_comm]
  · refine ⟨_, configScanMismatch_fails hstate hload hframe, ?_, ?_, ?_, fun hz => ?_, fun c hc => ⟨fun hdone => ?_, fun r hrun hdone => ?_⟩⟩
    · rw [scanFails_region]
    · rw [scanFails_region]
    · rw [scanFails_region]
    · rw [scanFails_eq, fxLoses_spared (fun h => absurd h (by omega))]
      exact ⟨unconfigured_posted z frame.toNat s, unconfigured_cores z frame.toNat s⟩
    · rw [scanFails_eq, fxLoses_spared (fun h r hrun => ?_)]
      · exact ⟨unconfigured_posted z frame.toNat s, unconfigured_cores z frame.toNat s⟩
      · obtain rfl : c = ⟨z.val, h⟩ := Fin.ext hc
        exact hdone r (by rw [← unconfigured_cores z frame.toNat s]; exact hrun)
    · rw [scanFails_eq, fxLoses_ends hc (by rw [unconfigured_cores]; exact hrun) hdone]
      exact posted_fxFault (unconfigured_cores z frame.toNat s) (unconfigured_posted z frame.toNat s) hrun
  · exact congrArg Host.Outcome.next (if_pos (.inr (.inl hload)))
  · exact cmdReady_ignored (hno.imp_left hasPort_absent)
  · exact cmdReady_sends hstate hz (by rw [hasPort_of hz, hpresent, hretired]; rfl) hext
  · refine cmdReady_ignored (.inl ?_)
    rw [hasPort_of hz]
    rcases hgone with h | h
    · rw [h, Bool.false_and]
    · rw [h, Bool.not_true, Bool.and_false]
  · exact congrArg Host.Outcome.next ((if_neg (not_not.mpr hstate)).trans (ramUncorr_raised z port off s))
  · exact congrArg Host.Outcome.next (if_pos hn)
  · refine congrArg Host.Outcome.next ((if_pos hruns).trans ?_)
    rw [expire_eq k s hT, modTimer, modFabric]
    simp only [updAt_updAt]
  · rw [userWatchdogExpiry_eq hruns, dif_neg (by omega), ← expire_eq k s hT]
    rfl
  · have hz : ((s.fabric.timers[k]).region).val < 6 := by omega
    obtain ⟨d, hd⟩ : ∃ d : CoreId, d = ⟨((s.fabric.timers[k]).region).val, hz⟩ := ⟨_, rfl⟩
    obtain rfl : c = d := by rw [hd]; exact Fin.ext hc.symm
    have hexpire := expire_eq k s hT
    have htime : (barked k s).time = T := (barked_time k s).trans (congrArg State.time hexpire)
    have hsince : ((barked k s).fabric.timers[k]).since = T := by
      refine (congrArg (fun v : Vector FbTimer 4 => (v[k]).since)
        ((barked_fabric k s).1.trans (congrArg (fun t : State => t.fabric.timers) hexpire))).trans ?_
      exact congrArg FbTimer.since (updAt_get_same _ _ _)
    refine ⟨_, (userWatchdogExpiry_eq hruns).trans (congrArg Host.Outcome.next
      ((dif_pos hz).trans (congrArg (fun d => fxFault d 6 0 (barked k s)) hd.symm))), ?_⟩
    cases hrun : (s.cores[c]).fx.run with
    | none =>
      rw [fxFault_none (by rw [barked_cores]; exact hrun)]
      exact ⟨htime, (barked_fabric k s).2, hsince, (barked_posted k s).2.2, fun _ => ⟨barked_posted k s, barked_cores k s⟩, fun r hr => nomatch hr⟩
    | some r =>
      obtain ⟨hnone, hinfo, hothers, hfirst, hsecond⟩ := posted_fxFault (cause := 6) (barked_cores k s) (barked_posted k s) hrun
      obtain ⟨-, -, -, hfabric, hclock, -, -⟩ := fxFault_some (cause := 6) (err := 0)
        (show ((barked k s).cores[c]).fx.run = some r by rw [barked_cores]; exact hrun)
      rw [hclock, hfabric]
      exact ⟨htime, (barked_fabric k s).2, hsince, hfirst, fun h => absurd h (Option.some_ne_none r), fun _ _ => ⟨hnone, hinfo, hothers, hsecond⟩⟩
  · exact congrArg Host.Outcome.next (if_pos ⟨hruns, hstate⟩)

end

section
-- One declaration after another: fewer threads, so that the check of the whole text keeps within its memory.
set_option Elab.async false
/-! PROOFS. The beats of an FX command and a memory whose cells are out of order (O56). -/
namespace Sys2Proof.Machine
open Sys2Proof

/-- A command of no operands for the extension. -/
def fxPlain : EngCmd := {
  set := 0
  part := 0
  tag := 0
  job := 0
  start := true
  wait := none
  waitLog := 0
  post0 := none
  post1 := none
  chan := 0
  since := 0 }

/-- That command is at core 0's extension, one beat each way, its output from byte 32 on; the cells of core memory stand out of order. -/
def disorderedCore : State := modCore 0 (fun k => { k with
  mem := { k.mem with core := [(40, 1), (3, 1)] }
  fx := { k.fx with run := some { newFxRun fxPlain (Vector.replicate 64 1) false with sent := true } } }) State.reset

/-- What a core memory holds after a command of the model. -/
def memoryAfter (c : CoreId) (i : Instr) (s : State) : Option Memory :=
  match exec i s with
  | .next t => some (t.cores[c]).mem.core
  | _ => none

theorem memoryAfter_next {c : CoreId} {i : Instr} {s t : State} (h : exec i s = .next t) : memoryAfter c i s = some (t.cores[c]).mem.core := by
  rw [memoryAfter, h]

/-- A done without a beat to write leaves the memory as it is. -/
theorem memoryAfter_disorderedCore : memoryAfter 0 (.fxDone 0 0 []) disorderedCore = some [(40, 1), (3, 1)] := by decide +kernel

end Sys2Proof.Machine
open Sys2Proof Sys2Proof.Machine

/-- Refutes O56: where no beat is written, a memory whose cells are out of order stays as it is, while the memory that the statement names has them
put in order: an assumption that the memories are canonical is missing. -/
theorem not_fxCommandRuns : ¬ Obligations.FxCommandRuns := by
  unfold Obligations.FxCommandRuns
  rintro ⟨-, -, h, -⟩
  obtain ⟨-, -, -, hdone, -⟩ := h 0 disorderedCore 0 []
  obtain ⟨t, x, hexec, -, -, -, -, -, -, -, hmem, -⟩ := (hdone _ rfl).1 (by decide +kernel) (by decide +kernel)
  have hkept := (memoryAfter_next (c := 0) hexec).symm.trans memoryAfter_disorderedCore
  rw [hmem] at hkept
  exact absurd hkept (by decide +kernel)

end

section
-- One declaration after another: fewer threads, so that the check of the whole text keeps within its memory.
set_option Elab.async false
/-! PROOFS. The scrub of a core and a record that its reset lets go (O60). -/
namespace Sys2Proof.Machine
open Sys2Proof

/-- Core 0's scrub for the secure world runs, and a record of class FC_FATAL waits for writes of a job that are no longer outstanding. -/
def owingScrub : State := { State.reset with
  boot := { State.reset.boot with worldBusy := some (0, 0, true) }
  host := { State.reset.host with owed := [(0, { code := 0x01, fc := 5 })] } }

/-- Whether a core runs after a command of the model. -/
def liveAfter (c : CoreId) (i : Instr) (s : State) : Option Bool :=
  match exec i s with
  | .next t => some (decide ((t.cores[c]).phase = .live))
  | _ => none

theorem liveAfter_next {c : CoreId} {i : Instr} {s t : State} (h : exec i s = .next t) : liveAfter c i s = some (decide ((t.cores[c]).phase = .live)) := by
  rw [liveAfter, h]

/-- The record is written by the core's reset, and the fatal hold keeps the core in reset. -/
theorem liveAfter_owingScrub : liveAfter 0 .worldScrubDone owingScrub = some false := by decide +kernel

end Sys2Proof.Machine
open Sys2Proof Sys2Proof.Machine

/-- Refutes O60: the core reset of a scrub writes the records that waited for a job's writes (R20); where one of them is FC_FATAL, the engine is in
the fatal hold before the scrub ends, and the core stays in reset (R398). -/
theorem not_worldChangesScrub : ¬ Obligations.WorldChangesScrub := by
  unfold Obligations.WorldChangesScrub
  intro h
  obtain ⟨-, hcore, -⟩ := h owingScrub
  obtain ⟨t, hexec, -, -, -, -, -, -, -, -, -, -, hlive, -⟩ := hcore 0 true (by decide +kernel)
  have hphase := hlive (by decide +kernel)
  have hrun := (liveAfter_next (c := 0) hexec).symm.trans liveAfter_owingScrub
  exact absurd ((congrArg some (decide_eq_true hphase)).symm.trans hrun) (by decide)

end

section
-- One declaration after another: fewer threads, so that the check of the whole text keeps within its memory.
set_option Elab.async false
/-! PROOFS. The invariants of every step, continued: the candle table, ticks, lamp tests, retirement and recovery. -/
namespace Sys2Proof.Machine
open Sys2Proof

namespace Keeps
variable {s₀ s t : State}

/-! ### Entries and their jobs (R301 to R306) -/

theorem setShort (h : Keeps s₀ s) {b : BitVec 64} : Keeps s₀ { s with tick := { s.tick with short := b } } := h.setTick

theorem safetyShort (h : Keeps s₀ s) {w : BitVec 128} {n : Nat} : Keeps s₀ (Machine.safetyShort w n s) := .ite h.postRecord h

theorem recheckEntry (h : Keeps s₀ s) {i : Nat} {w : BitVec 128} : Keeps s₀ (Machine.recheckEntry i w s) := by
  unfold Machine.recheckEntry
  dsimp only
  refine .ite h ?_
  split
  · exact h.setShort
  · exact h.setShort.postRecord.safetyShort

theorem recheck (h : Keeps s₀ s) : Keeps s₀ (Machine.recheck s) := h.forAll fun _ _ hu => hu.recheckEntry

theorem preempt (h : Keeps s₀ s) {f : EntryId} : Keeps s₀ (Machine.preempt f s) := by
  unfold Machine.preempt
  dsimp only
  split
  · exact h.leaveRun
  · exact modJob (h.leaveRun.forAll fun _ _ hu => hu.snuffNow)

theorem pauseDemoted (h : Keeps s₀ s) {j : Job} : Keeps s₀ (Machine.pauseDemoted j s) := modJob (h.modRun.forAll fun _ _ hu => hu.snuffNow)

theorem refillBank (h : Keeps s₀ s) {j : Job} {x : SavedCore} : Keeps s₀ (Machine.refillBank j x s) := by
  unfold Machine.refillBank
  split
  · refine .ite h ?_
    split
    next heq => exact h.fillBank.of_snd heq
    next heq => exact (h.fillBank.of_snd heq).failJob
  · exact h

theorem recheckReady (h : Keeps s₀ s) {c : CoreId} : Keeps s₀ (Machine.recheckReady c s) := h.modCore

theorem resumeOn (h : Keeps s₀ s) {id : Nat} {c : CoreId} : Keeps s₀ (Machine.resumeOn id c s) := by
  unfold Machine.resumeOn
  split
  · exact h
  next j _ =>
    split
    · exact h.restartCore
    next x _ =>
      have hmerged : Keeps s₀ (Machine.modCore c (mergeCore j x) (Machine.refillBank j x (Machine.saveCore c s))) :=
        h.saveCore.refillBank.modCore fun _ hk => hk
      exact hmerged.progress.recheckReady.modJob.restartCore

theorem resumeJob (h : Keeps s₀ s) {j : Job} : Keeps s₀ (Machine.resumeJob j s) := h.forAll fun _ _ hu => hu.resumeOn

theorem overrunHalt (h : Keeps s₀ s) {j : Job} {detail : Nat} : Keeps s₀ (Machine.overrunHalt j detail s) :=
  h.forAll fun _ _ hu => raiseHalt (.ite hu.failJob hu)

theorem overrunPaused (h : Keeps s₀ s) {j : Job} {detail : Nat} : Keeps s₀ (Machine.overrunPaused j detail s) := by
  unfold Machine.overrunPaused
  extract_lets x halted f failed
  have hhalted : Keeps s₀ halted := h.forAll fun _ _ hu => hu.modCore.postFor
  have hfailed : Keeps s₀ failed := hhalted.modJob
  exact (hfailed.forAll fun _ _ hu => hu.ensureReset).jobComplete

theorem gutter (h : Keeps s₀ s) {e : EntryId} : Keeps s₀ (Machine.gutter e s) := by
  unfold Machine.gutter
  extract_lets w d job left tick counted posted
  have hcounted : Keeps s₀ counted := setTick (h.leaveRun.modRun)
  have hposted : Keeps s₀ posted := hcounted.postRecord
  clear_value job
  cases job with
  | none => exact hposted
  | some j => exact .ite (.ite hposted.modJob hposted.modJob.modRun) (.ite hposted.overrunPaused hposted.overrunHalt)

theorem candleGutter (h : Keeps s₀ s) {e : EntryId} : Keeps s₀ (Machine.candleGutter e s) := by
  unfold Machine.candleGutter
  refine .ite h ?_
  split
  · exact h
  · exact .ite h h.atTime.gutter

theorem candleEnded (h : Keeps s₀ s) {e : EntryId} (x : execCandleEnded e s = .next t) : Keeps s₀ t := by
  cases x
  exact .ite h h.atTime.leaveRun.modRun

theorem beginRun (h : Keeps s₀ s) {e : EntryId} : Keeps s₀ (Machine.beginRun e s) := h.modRun

theorem adopt (h : Keeps s₀ s) {e : EntryId} : Keeps s₀ (Machine.adopt e s) := by
  unfold Machine.adopt
  split
  · exact h
  · exact modJob (.ite h.resumeJob h)

theorem candleStart (h : Keeps s₀ s) {e : EntryId} : Keeps s₀ (Machine.candleStart e s) := by
  unfold Machine.candleStart
  extract_lets now r held preempted own paused
  have hpreempted : Keeps s₀ preempted := h.atTime.forAll fun _ _ hu => hu.preempt
  have hpaused : Keeps s₀ paused := hpreempted.forAll fun _ _ hu => hu.pauseDemoted
  exact .ite h hpaused.beginRun.adopt.endIdles

theorem preemptRestart (h : Keeps s₀ s) {id : Nat} : Keeps s₀ (Machine.preemptRestart id s) := by
  unfold Machine.preemptRestart
  split
  · exact h
  · exact .ite h (.ite (h.forAll fun _ _ hu => hu.pauseDemoted).resumeJob.modJob.beginRun (.ite h.resumeJob.modJob.modRun h))

theorem handover (h : Keeps s₀ s) {c : CoreId} (x : execHandover c s = .next t) : Keeps s₀ t := by
  cases x
  dsimp only
  split
  · exact h
  · exact .ite h (modJob (.ite h.failJob h))

/-! ### Ticks (R295 to R297) -/

theorem gateArrays (h : Keeps s₀ s) : Keeps s₀ (Machine.gateArrays s) :=
  h.forAll fun _ _ hu => hu.forAll fun _ _ hv => .ite hv hv.modCore.setTick

theorem retainCores (h : Keeps s₀ s) : Keeps s₀ (Machine.retainCores s) := by
  refine h.forAll fun c u hu => .ite hu (setTick (hu.modCore fun k hk => ?_))
  obtain ⟨hcore, hacc, hwbuf, hcurve, -, -, -⟩ := hk
  exact ⟨hcore, hacc, hwbuf, hcurve, memory_nil_wf, memory_nil_wf, memory_nil_wf⟩

theorem lampsDue (h : Keeps s₀ s) : Keeps s₀ (Machine.lampsDue s) := h.forAll fun _ _ hu => .ite hu hu.lampDue

theorem armLamps (h : Keeps s₀ s) {n : Nat} : Keeps s₀ (Machine.armLamps n s) :=
  h.forAll fun _ _ hu => hu.forAll fun _ _ hv => .ite hv hv.setSafety

/-- A toggle point drives the pins to opposite levels where the stop does not stand, and leaves them otherwise. -/
theorem togglePoint (h : Keeps s₀ s) : Keeps s₀ (Machine.togglePoint s) := by
  refine ⟨⟨h.mem, fun hs => ?_⟩, h.idle⟩
  obtain ⟨hlow, hboth⟩ := h.pins hs
  unfold Machine.togglePoint
  extract_lets sf go a
  cases hgo : go with
  | false => exact ⟨hlow, hboth⟩
  | true =>
    have hstopped : s.safety.stopped = false := by
      simp only [go, Bool.and_eq_true, Bool.not_eq_true'] at hgo
      exact hgo.1.1
    refine ⟨fun hstop => absurd (hstopped.symm.trans hstop) (by decide), ?_⟩
    rw [if_pos rfl]
    rintro ⟨ha, hb⟩
    change a = true at ha
    change (!a) = true at hb
    rw [ha] at hb
    exact absurd hb (by decide)

theorem applyTickCfg (h : Keeps s₀ s) {ctrl : Word} {period : BitVec 20} : Keeps s₀ (Machine.applyTickCfg ctrl period s) :=
  setTick (.ite h h.bumpGen)

theorem activate (h : Keeps s₀ s) {n : Nat} : Keeps s₀ (Machine.activate n s) := by
  unfold Machine.activate
  split
  · exact .ite h.setTick h
  · exact h

theorem freshRuns (h : Keeps s₀ s) : Keeps s₀ (Machine.freshRuns s) := h.setTick

theorem gutterAtTick (h : Keeps s₀ s) {e : EntryId} : Keeps s₀ (Machine.gutterAtTick e s) := by
  unfold Machine.gutterAtTick
  split
  · exact h.gutter
  · exact h.gutter
  · exact .ite h.gutter h
  · exact h

theorem takeTick (h : Keeps s₀ s) {n : Nat} : Keeps s₀ (Machine.takeTick n s) := by
  unfold Machine.takeTick
  extract_lets now active tick counted configured
  have hactive : Keeps s₀ active := activate (h.atTime.forAll fun _ _ hu => hu.gutterAtTick)
  have hcounted : Keeps s₀ counted := hactive.setTick
  have hconfigured : Keeps s₀ configured := by
    unfold configured
    split
    · exact hcounted.applyTickCfg
    · exact hcounted
  exact hconfigured.freshRuns.gateArrays.retainCores.armLamps.lampsDue.togglePoint

theorem startTick (h : Keeps s₀ s) : Keeps s₀ (Machine.startTick s) := h.setTick.takeTick

theorem sendMarkers (h : Keeps s₀ s) : Keeps s₀ (Machine.sendMarkers s) := h.setLinks.forAll fun _ _ hu => hu.sendControl

theorem lockTick (h : Keeps s₀ s) {n : Nat} : Keeps s₀ (Machine.lockTick n s) := takeTick (setTick (.ite h.postRecord h))

theorem tickSourceEvent (h : Keeps s₀ s) : Keeps s₀ (Machine.tickSourceEvent s) := by
  unfold Machine.tickSourceEvent
  split
  · exact h
  · exact .ite h.setTick (.ite h.setTick.setTick (.ite h.setTick.setLinks.sendMarkers h.setTick.lockTick))

theorem tickTimerExpiry (h : Keeps s₀ s) (x : execTickTimerExpiry s = .next t) : Keeps s₀ t := by
  cases x
  exact .ite h h.atTime.raiseTick

theorem synthesise (h : Keeps s₀ s) {n : Nat} : Keeps s₀ (Machine.synthesise n s) := by
  unfold Machine.synthesise
  extract_lets tick taken
  have htaken : Keeps s₀ taken := h.setTick.setGint.takeTick
  exact .ite htaken.sendMarkers htaken

theorem tickWatchdogExpiry (h : Keeps s₀ s) (x : execTickWatchdogExpiry s = .next t) : Keeps s₀ t := by
  cases x
  exact .ite h h.atTime.postRecord.setTick.synthesise

theorem holdoverTick (h : Keeps s₀ s) (x : execHoldoverTick s = .next t) : Keeps s₀ t := by
  cases x
  exact .ite h h.synthesise

theorem mbTickConfig (h : Keeps s₀ s) {m : MboxId} {p : PartId} {b : List Byte} : Keeps s₀ (Machine.mbTickConfig m p b s) :=
  .ite h.reply (.ite h.reply (.ite (reply (.ite h.applyTickCfg.startTick h.applyTickCfg)) h.setTick.reply))

theorem mbCandleTable (h : Keeps s₀ s) {m : MboxId} {p : PartId} {b : List Byte} : Keeps s₀ (Machine.mbCandleTable m p b s) := by
  unfold Machine.mbCandleTable
  dsimp only
  refine .ite h.setTick.reply ?_
  split
  · exact h.safetyShort.reply
  · exact h.setTick.reply

/-! ### Lamp tests (R307, R308) -/

theorem lampSubtimerExpiry (h : Keeps s₀ s) (x : execLampSubtimerExpiry s = .next t) : Keeps s₀ t := by
  cases x
  exact .ite h h.atTime.setTick.lampsDue.togglePoint

theorem beginLamp (h : Keeps s₀ s) {c : CoreId} {tick : Bool} : Keeps s₀ (Machine.beginLamp c tick s) :=
  h.modCore fun k hk => by split <;> exact hk

theorem lampTestStart (h : Keeps s₀ s) {c : CoreId} : Keeps s₀ (Machine.lampTestStart c s) := by
  unfold Machine.lampTestStart
  dsimp only
  split
  · exact .ite h h.beginLamp
  · exact h

theorem lampDeferExpiry (h : Keeps s₀ s) {c : CoreId} (x : execLampDeferExpiry c s = .next t) : Keeps s₀ t := by
  cases x
  split
  · exact .ite h h.atTime.snuffNow.modCore.beginLamp
  · exact h

theorem setSignature (h : Keeps s₀ s) {c : CoreId} {a : ArrId} {bad : Bool} : Keeps s₀ (Machine.setSignature c a bad s) := by
  unfold Machine.setSignature
  extract_lets i r
  have hread : Keeps s₀ r.2 := by
    unfold r
    split
    · exact h.takeFree
    · exact h
  exact hread.setSafety

theorem lampPassed (h : Keeps s₀ s) {c : CoreId} {a : ArrId} : Keeps s₀ (Machine.lampPassed c a s) := h.setSafety

theorem haltLamp (h : Keeps s₀ s) {c : CoreId} {x : HaltCond} : Keeps s₀ (Machine.haltLamp c x s) := by
  unfold Machine.haltLamp
  extract_lets k
  split
  · extract_lets recorded
    have hrecorded : Keeps s₀ recorded := .ite h.modCore h
    exact .ite hrecorded (hrecorded.forAll fun _ _ hu => hu.failJob)
  · exact h.raiseHalt

theorem lampRestart (h : Keeps s₀ s) {c : CoreId} : Keeps s₀ (Machine.lampRestart c s) := by
  unfold Machine.lampRestart
  dsimp only
  split
  · exact modCore (.ite h.restartCore h)
  · exact h

theorem lampVerdict (h : Keeps s₀ s) {c : CoreId} {failing : BitVec 32} : Keeps s₀ (Machine.lampVerdict c failing s) := by
  unfold Machine.lampVerdict
  extract_lets advanced
  have hadvanced : Keeps s₀ advanced := h.advance
  split
  · extract_lets bad tested signed passed judged safety counted x groups marked posted
    have hpassed : Keeps s₀ passed := (hadvanced.forAll fun _ _ hu => hu.setSignature).forAll fun _ _ hu => hu.lampPassed
    have hjudged : Keeps s₀ judged := hpassed.modCore fun k hk => by rwa [lampOver_mem]
    have hmarked : Keeps s₀ marked := hjudged.modCore
    have hposted : Keeps s₀ posted := hmarked.forAll fun _ _ hu => hu.postFor
    exact .ite hjudged.setSafety.modMx.lampRestart hposted.haltLamp
  · exact h

theorem powerArrays (h : Keeps s₀ s) {c : CoreId} {mask : BitVec 4} : Keeps s₀ (Machine.powerArrays c mask s) := by
  unfold Machine.powerArrays
  extract_lets bits powered
  have hpowered : Keeps s₀ powered := h.modCore
  exact hpowered.of_eq rfl

theorem arrayWake (h : Keeps s₀ s) {c : CoreId} {a : ArrId} : Keeps s₀ (Machine.arrayWake c a s) := by
  unfold Machine.arrayWake
  dsimp only
  refine .ite h ?_
  split
  · refine .ite h ((h.atTime.powerArrays.forAll fun _ _ hu => hu.postRecord).modCore fun k hk => ?_)
    split <;> exact hk
  · exact .ite h.atTime.powerArrays h

/-! ### Retirement and recovery (R249, R324) -/

theorem stopOthers (h : Keeps s₀ s) {c : CoreId} : Keeps s₀ (Machine.stopOthers c s) := h.forAll fun _ _ hu => hu.snuffCore
theorem unbindPorts (h : Keeps s₀ s) {c : CoreId} : Keeps s₀ (Machine.unbindPorts c s) := h.forAll fun _ _ hu => hu.modPort.setGint
theorem failDegraded (h : Keeps s₀ s) {c : CoreId} : Keeps s₀ (Machine.failDegraded c s) := h.forAll fun _ _ hu => hu.failJob

theorem retireCore (h : Keeps s₀ s) {c : CoreId} {cause : Nat} : Keeps s₀ (Machine.retireCore c cause s) :=
  .ite h h.stopOthers.failDegraded.unbindPorts.ensureReset.modCore.bumpGen.postRecord.recheck

theorem retireArray (h : Keeps s₀ s) {c : CoreId} {a : ArrId} {cause : Nat} : Keeps s₀ (Machine.retireArray c a cause s) := by
  unfold Machine.retireArray
  extract_lets u left tick ungated posted
  have hposted : Keeps s₀ posted := h.modCore.bumpGen.setTick.postRecord.recheck
  exact .ite h (.ite hposted.retireCore hposted)

theorem bypassColumn (h : Keeps s₀ s) {c : CoreId} {a : ArrId} {j : Fin 128} : Keeps s₀ (Machine.bypassColumn c a j s) :=
  h.modCore.postRecord.bumpGen

theorem diagnosed (h : Keeps s₀ s) {c : CoreId} : Keeps s₀ (Machine.diagnosed c s) := .ite h h.stopOthers.coreReset

theorem columnDiagnosis (h : Keeps s₀ s) {c : CoreId} {a : ArrId} {column : Option (Fin 128)} : Keeps s₀ (Machine.columnDiagnosis c a column s) := by
  unfold Machine.columnDiagnosis
  dsimp only
  refine .ite h ?_
  split
  · exact h.retireArray.diagnosed
  · exact .ite h.retireArray.diagnosed (.ite h (.ite h.retireArray.diagnosed h.bypassColumn.diagnosed))

theorem noteUncorr (h : Keeps s₀ s) {c : CoreId} {m : MemName} {off cause : Nat} : Keeps s₀ (Machine.noteUncorr c m off cause s) :=
  .ite h.retireCore h.setSafety

theorem uncorrUnit (h : Keeps s₀ s) {cause : Nat} {m : MemName} {off : Nat} : Keeps s₀ (Machine.uncorrUnit cause m off s) := by
  unfold Machine.uncorrUnit
  split
  · exact h.noteUncorr
  · exact h.noteUncorr
  · exact h.noteUncorr
  · exact .ite (.ite h.retireArray h.retireArray.stopOthers.failDegraded.ensureReset) h.setSafety
  · exact h

theorem wordMet (h : Keeps s₀ s) {c : CoreId} {cause : Nat} {w : WordAt} : Keeps s₀ (Machine.wordMet c cause w s) := by
  unfold Machine.wordMet
  split
  · exact h
  · exact .ite h.uncorrUnit h

theorem recoverMore (h : Keeps s₀ s) {c : CoreId} {x : HaltCond} {ok : Bool} : Keeps s₀ (Machine.recoverMore c x ok s) :=
  .ite h.tagBank.noteUncorr (.ite h.retireCore h)

theorem lockstepRecord (h : Keeps s₀ s) {c : CoreId} {x : HaltCond} {ok : Bool} : Keeps s₀ (Machine.lockstepRecord c x ok s) :=
  .ite h (h.postFor.forAll fun _ _ hu => hu.failJob)

theorem coreRecovery (h : Keeps s₀ s) {c : CoreId} {ok : Bool} : Keeps s₀ (Machine.coreRecovery c ok s) := by
  unfold Machine.coreRecovery
  dsimp only
  split
  · exact .ite h h.lockstepRecord.stopOthers.coreReset.recoverMore
  · exact .ite h.stopOthers.snuffNow.coreReset h
  · exact h

end Keeps

end Sys2Proof.Machine
end

section
-- One declaration after another: fewer threads, so that the check of the whole text keeps within its memory.
set_option Elab.async false
/-! PROOFS. What a tick and the Lamplighter's release leave of boot, staging and planner (R296, R329, R395). -/
namespace Sys2Proof.Machine
open Sys2Proof

namespace Carried
variable {s₀ s t : State}

/-! ### Records of every kind -/

theorem record (h : Carried s₀ s) {r : RecIn} : Carried s₀ (Machine.postRecord r s) := by
  have hgint : (Machine.postRecord r s).bnd.gintStatus = s.bnd.gintStatus := by
    obtain ⟨x, hx⟩ := afterRings_changes r s
    rw [postRecord_eq, hx, ksafeStop]
    dsimp only
    split
    · split <;> rfl
    · rfl
  exact h.of_eq (postRecord_time r s) (postRecord_genCount r s) hgint (congrArg systemOf (postRecord_links r s)) (postRecord_standing r s)

theorem ksafeStop (h : Carried s₀ s) {code : Nat} : Carried s₀ (Machine.ksafeStop code s) := by
  unfold Machine.ksafeStop
  dsimp only
  split <;> exact h.of_eq

theorem postFor (h : Carried s₀ s) {id : Nat} {r : RecIn} : Carried s₀ (Machine.postFor id r s) :=
  ite (ite (h.of_eq (t := { s with host := { s.host with owed := s.host.owed ++ [(id, r)] } })).ksafeStop h.of_eq) h.record

theorem flushOwed (h : Carried s₀ s) : Carried s₀ (Machine.flushOwed s) := by
  unfold Machine.flushOwed
  dsimp only
  exact forAll h.of_eq fun _ _ hu => hu.record

/-! ### A core reset -/

theorem modRun (h : Carried s₀ s) {e : EntryId} {f : EntryRun → EntryRun} : Carried s₀ (Machine.modRun e f s) := by
  unfold Machine.modRun
  split <;> exact h.of_eq

theorem modJob (h : Carried s₀ s) {id : Nat} {f : Job → Job} : Carried s₀ (Machine.modJob id f s) := h.of_eq
theorem failJob (h : Carried s₀ s) {id : Nat} {f : JobFail} : Carried s₀ (Machine.failJob id f s) := h.of_eq
theorem endPart (h : Carried s₀ s) {id : Nat} {c : CoreId} : Carried s₀ (Machine.endPart id c s) := h.of_eq

theorem dxLand (h : Carried s₀ s) {c : CoreId} {x : DxXfer} : Carried s₀ (Machine.dxLand c x s) := by
  unfold Machine.dxLand
  extract_lets fresh into fills
  have hfresh : Carried s₀ fresh := h.forAll fun _ _ hu => hu.of_eq
  cases x.target
  case cast mask => exact hfresh.forAll fun _ _ hu => hu.modCore
  all_goals exact hfresh.of_eq

theorem dxPerform (h : Carried s₀ s) {c : CoreId} {x : DxXfer} : Carried s₀ (Machine.dxPerform c x s) :=
  ite h (ite (forAll (h.forAll fun _ _ hu => hu.forAll fun _ _ hv => hv.modCore) fun _ _ hu => hu.dxLand) h.dxLand)

theorem hbTell (h : Carried s₀ s) {c : CoreId} {b : HaloBuf} {grant : Option Byte} : Carried s₀ (Machine.hbTell c b grant s) := by
  unfold Machine.hbTell
  dsimp only
  split
  · exact ite h h.of_eq
  · exact ite h h.of_eq
  · split
    · exact h.of_eq
    · exact h
  · exact h

theorem haloReset (h : Carried s₀ s) {c : CoreId} : Carried s₀ (Machine.haloReset c s) := by
  unfold Machine.haloReset
  extract_lets disabled emptied
  have hdisabled : Carried s₀ disabled := h.forAll fun _ _ hu => hu.modCore.hbTell
  have hemptied : Carried s₀ emptied := hdisabled.of_eq
  exact hemptied.modCore

theorem resetBody (h : Carried s₀ s) {c : CoreId} : Carried s₀ (Machine.resetBody c s) := by
  have hlanded : Carried s₀ (landExternal c s) := h.forAll fun _ _ hu => hu.dxPerform
  have hstem : Carried s₀ (stemReset c (landExternal c s)) := hlanded.forAll fun _ _ hu => hu.of_eq
  have hhalo : Carried s₀ (Machine.haloReset c (holdAbort c (Machine.modCore c (resetUnits s.time) (stemReset c (landExternal c s))))) :=
    hstem.modCore.modCore.haloReset
  have hprogress : Carried s₀ (progress c
      (Machine.haloReset c (holdAbort c (Machine.modCore c (resetUnits s.time) (stemReset c (landExternal c s)))))) := hhalo.of_eq
  exact hprogress.flushOwed

theorem ensureReset (h : Carried s₀ s) {c : CoreId} : Carried s₀ (Machine.ensureReset c s) :=
  ite h (resetBody (h.forAll fun _ _ hu => hu.failJob.endPart))

/-! ### Entries that gutter -/

theorem finishDestroy (h : Carried s₀ s) {qid : Nat} : Carried s₀ (Machine.finishDestroy qid s) := by
  have hgone : Carried s₀ { s with host := { s.host with queues := s.host.queues.filter (fun x => decide (x.qid ≠ qid)) } } := h.of_eq
  unfold Machine.finishDestroy
  split
  · exact h
  · split
    · exact h
    · exact ite h hgone.reply

theorem unloadSlot (h : Carried s₀ s) {i : Fin 64} : Carried s₀ (Machine.unloadSlot i s) := by
  unfold Machine.unloadSlot
  extract_lets handle gone emptied
  have hemptied : Carried s₀ emptied := h.forAll fun _ _ hu => hu.modCore
  exact hemptied.of_eq

theorem jobOut (h : Carried s₀ s) {j : Job} {c : Completion} : Carried s₀ (Machine.jobOut j c s) := by
  have hreleased : Carried s₀ (releaseCores j s) := h.forAll fun _ _ hu => hu.modCore
  have hleft : Carried s₀ (leaveDemoted j (releaseCores j s)) := ite hreleased.modRun hreleased
  unfold Machine.jobOut
  extract_lets illegal c' finished host safety gone
  have hfinished : Carried s₀ finished := hleft.jobFinish
  have hgone : Carried s₀ gone := hfinished.of_eq
  exact ite hgone.unloadSlot hgone

theorem overrunHalt (h : Carried s₀ s) {j : Job} {detail : Nat} : Carried s₀ (Machine.overrunHalt j detail s) :=
  h.forAll fun _ _ hu => raiseHalt (ite hu.failJob hu)

theorem overrunPaused (h : Carried s₀ s) {j : Job} {detail : Nat} : Carried s₀ (Machine.overrunPaused j detail s) := by
  unfold Machine.overrunPaused
  extract_lets x halted f failed
  have hhalted : Carried s₀ halted := h.forAll fun _ _ hu => hu.modCore.postFor
  have hfailed : Carried s₀ failed := hhalted.modJob
  exact (hfailed.forAll fun _ _ hu => hu.ensureReset).jobOut.writeBackAll.settle.finishDestroy

theorem gutter (h : Carried s₀ s) {e : EntryId} : Carried s₀ (Machine.gutter e s) := by
  unfold Machine.gutter
  extract_lets w d job left tick counted posted
  have hleft : Carried s₀ left := h.leaveRun.modRun
  have hcounted : Carried s₀ counted := hleft.of_eq
  have hposted : Carried s₀ posted := hcounted.record
  clear_value job
  cases job with
  | none => exact hposted
  | some j => exact ite (ite hposted.modJob hposted.modJob.modRun) (ite hposted.overrunPaused hposted.overrunHalt)

theorem gutterAtTick (h : Carried s₀ s) {e : EntryId} : Carried s₀ (Machine.gutterAtTick e s) := by
  unfold Machine.gutterAtTick
  split
  · exact h.gutter
  · exact h.gutter
  · exact ite h.gutter h
  · exact h

theorem activate (h : Carried s₀ s) {n : Nat} : Carried s₀ (Machine.activate n s) := by
  unfold Machine.activate
  split
  · exact ite h.of_eq h
  · exact h

theorem freshRuns (h : Carried s₀ s) : Carried s₀ (Machine.freshRuns s) := by
  unfold Machine.freshRuns
  exact h.of_eq

theorem gateArrays (h : Carried s₀ s) : Carried s₀ (Machine.gateArrays s) := h.forAll fun _ _ hu => hu.forAll fun _ _ hv => ite hv hv.of_eq
theorem retainCores (h : Carried s₀ s) : Carried s₀ (Machine.retainCores s) := h.forAll fun _ _ hu => ite hu hu.of_eq
theorem armLamps (h : Carried s₀ s) {n : Nat} : Carried s₀ (Machine.armLamps n s) := h.forAll fun _ _ hu => hu.forAll fun _ _ hv => ite hv hv.of_eq
theorem lampsDue (h : Carried s₀ s) : Carried s₀ (Machine.lampsDue s) := h.forAll fun _ _ hu => ite hu hu.modCore

theorem togglePoint (h : Carried s₀ s) : Carried s₀ (Machine.togglePoint s) := by
  unfold Machine.togglePoint
  extract_lets sf go a
  exact h.of_eq rfl rfl (by dsimp only; split <;> rfl)

/-- What follows the entries' fresh runs at a tick. -/
theorem tickEnd (h : Carried s₀ s) {n : Nat} :
    Carried s₀ (Machine.togglePoint (Machine.lampsDue (Machine.armLamps n (Machine.retainCores (Machine.gateArrays (Machine.freshRuns s)))))) :=
  h.freshRuns.gateArrays.retainCores.armLamps.lampsDue.togglePoint

end Carried

/-- A tick leaves the general interrupt causes, and what stands of boot, staging and planner. -/
theorem takeTick_stands (n : Nat) (s : State) : (takeTick n s).bnd.gintStatus = s.bnd.gintStatus ∧ standing (takeTick n s) = standing s := by
  unfold takeTick
  extract_lets now active tick counted configured
  have hactive : Carried now active := ((Carried.refl now).forAll fun _ _ hu => hu.gutterAtTick).activate
  have hconfigured : configured.bnd.gintStatus = s.bnd.gintStatus ∧ standing configured = standing s := by
    unfold configured applyTickCfg
    split
    · dsimp only
      split <;> exact ⟨hactive.gint, hactive.stand⟩
    · exact ⟨hactive.gint, hactive.stand⟩
  have hend := (Carried.refl configured).tickEnd (n := n)
  exact ⟨hend.gint.trans hconfigured.1, hend.stand.trans hconfigured.2⟩

end Sys2Proof.Machine
end

section
-- One declaration after another: fewer threads, so that the check of the whole text keeps within its memory.
set_option Elab.async false
/-! PROOFS. Startup: cold starts, the boot aperture, BIST and boot images (O57). -/
namespace Sys2Proof.Machine
open Sys2Proof

/-! ### Cold starts (R390) -/

theorem refreshWarn_frame (s : State) : ∃ b : Boundary, refreshWarn s = { s with bnd := b } ∧ b.kroot = s.bnd.kroot := by
  unfold refreshWarn
  dsimp only
  split
  · exact ⟨_, rfl, rfl⟩
  · exact ⟨_, rfl, rfl⟩

theorem coldStart_frame (kind : Nat) (s : State) : (coldStart kind s).boot.held = false ∧ (coldStart kind s).boot.state = 1 ∧
    (coldStart kind s).boot.cause = BitVec.ofNat 32 kind ∧ (coldStart kind s).time = 0 ∧
    (coldStart kind s).bnd.kroot = (s.bnd.krootPin && decide (s.grade ≠ .s92)) ∧ (coldStart kind s).grade = s.grade ∧
    (coldStart kind s).dram = s.dram ∧ (coldStart kind s).pending = s.pending ∧ (coldStart kind s).staging = [] ∧
    (coldStart kind s).safety.fatal = false ∧ (coldStart kind s).safety.seq = 0 ∧ (coldStart kind s).host = HostSide.cold ∧
    (coldStart kind s).cores = Vector.ofFn (coldCore s.grade) ∧ (coldStart kind s).links.ports = Vector.ofFn (coldPort s.grade) ∧
    (coldStart kind s).fabric.regions = Vector.ofFn (coldRegion s.grade) := by
  obtain ⟨u, hu, hkept⟩ : ∃ u : State, coldStart kind s = refreshWarn u ∧ u.boot.held = false ∧ u.boot.state = 1 ∧
      u.boot.cause = BitVec.ofNat 32 kind ∧ u.time = 0 ∧ u.bnd.kroot = (s.bnd.krootPin && decide (s.grade ≠ .s92)) ∧ u.grade = s.grade ∧
      u.dram = s.dram ∧ u.pending = s.pending ∧ u.staging = [] ∧ u.safety.fatal = false ∧ u.safety.seq = 0 ∧ u.host = HostSide.cold ∧
      u.cores = Vector.ofFn (coldCore s.grade) ∧ u.links.ports = Vector.ofFn (coldPort s.grade) ∧
      u.fabric.regions = Vector.ofFn (coldRegion s.grade) := ⟨_, rfl, rfl, rfl, rfl, rfl, rfl, rfl, rfl, rfl, rfl, rfl, rfl, rfl, rfl, rfl, rfl⟩
  obtain ⟨b, hb, hkroot⟩ := refreshWarn_frame u
  rw [hu, hb, hkroot]
  exact hkept

theorem ofFn_get {α : Type} {n : Nat} (f : Fin n → α) (i : Fin n) : (Vector.ofFn f)[i] = f i := Vector.getElem_ofFn ..

theorem coldCore_spec (g : Grade) (c : CoreId) : (coldCore g c).powered = corePresent g c ∧ (coldCore g c).mem = Core.cold.mem := by
  unfold coldCore
  split
  next h => exact ⟨h.symm, rfl⟩
  next h => exact ⟨(Bool.eq_false_iff.mpr h).symm, rfl⟩

theorem coldPort_state (g : Grade) (l : LinkId) : (coldPort g l).state = if linkPresent g l then 2 else 0 := by
  unfold coldPort
  split <;> rfl

theorem coldRegion_state (g : Grade) (z : RegionId) : (coldRegion g z).state = if regionPresent g z then 1 else 0 := by
  unfold coldRegion
  split <;> rfl

/-! ### BIST (R397) -/

/-- A core whose arrays BIST has repaired or retired. -/
def repairedArrays (found : BistFinding) (g : Grade) (c : CoreId) (k : Core) : Core :=
  { k with arrays := k.arrays.mapFinIdx (fun i u h => if arrayPresent g ⟨i, h⟩ then bistArray found c ⟨i, h⟩ u else u) }

/-- A core that BIST retires. -/
def givenUp (k : Core) : Core := { k with
  retired := true
  powered := false
  arrays := k.arrays.map (fun u => { u with powered := false }) }

theorem repairedArrays_get (found : BistFinding) (g : Grade) (c : CoreId) (k : Core) (a : ArrId) :
    (repairedArrays found g c k).arrays[a] = if arrayPresent g a then bistArray found c a k.arrays[a] else k.arrays[a] :=
  Vector.getElem_mapFinIdx ..

theorem givenUp_get (k : Core) (a : ArrId) : (givenUp k).arrays[a] = { k.arrays[a] with powered := false } := Vector.getElem_map ..

theorem bistCore_absent {found : BistFinding} {c : CoreId} {s : State} (h : corePresent s.grade c = false) : bistCore found c s = s :=
  if_pos (Bool.eq_false_iff.mp h)

theorem bistCore_present {found : BistFinding} {c : CoreId} {s : State} (h : corePresent s.grade c = true) :
    bistCore found c s = modCore c givenUp (modCore c (repairedArrays found s.grade c) s) ∨
    (c ∉ found.cores ∧ bistCore found c s = modCore c (repairedArrays found s.grade c) s) := by
  unfold bistCore
  rw [if_neg (not_not.mpr h)]
  dsimp only
  split
  · exact .inl rfl
  next hno =>
    rw [Bool.or_eq_true, not_or] at hno
    exact .inr ⟨fun hin => hno.1 (decide_eq_true hin), rfl⟩

/-- What BIST's finding makes of a core that is there. -/
structure Repaired (found : BistFinding) (g : Grade) (c : CoreId) (k k' : Core) : Prop where
  mem : k'.mem = k.mem
  absent : ∀ a : ArrId, arrayPresent g a = false → (k'.arrays[a]).retired = (k.arrays[a]).retired
  lost : ∀ a : ArrId, arrayPresent g a = true → (c, a) ∈ found.arrays ∨ 8 < popcount 128 (foundMap found c a).toNat →
    (k'.arrays[a]).retired = true
  kept : ∀ a : ArrId, arrayPresent g a = true → (c, a) ∉ found.arrays → popcount 128 (foundMap found c a).toNat ≤ 8 →
    (k'.arrays[a]).retired = (k.arrays[a]).retired ∧ (k'.arrays[a]).staged = foundMap found c a ∧ (k'.arrays[a]).mapNow = foundMap found c a
  core : c ∈ found.cores → k'.retired = true ∧ k'.powered = false

theorem repairedArrays_repaired {found : BistFinding} {c : CoreId} (g : Grade) (k : Core) (h : c ∉ found.cores) :
    Repaired found g c k (repairedArrays found g c k) where
  mem := rfl
  absent a ha := by rw [repairedArrays_get, if_neg (Bool.eq_false_iff.mp ha)]
  lost a ha hlost := by
    rw [repairedArrays_get, if_pos ha]
    exact congrArg ArrayUnit.retired (if_pos (Bool.or_eq_true _ _ ▸ hlost.imp decide_eq_true decide_eq_true))
  kept a ha hin hfew := by
    have hno : ¬ ((decide ((c, a) ∈ found.arrays) || decide (8 < popcount 128 (foundMap found c a).toNat)) = true) := by
      rw [Bool.or_eq_true, decide_eq_true_eq, decide_eq_true_eq, not_or]
      exact ⟨hin, not_lt.mpr hfew⟩
    rw [repairedArrays_get, if_pos ha]
    unfold bistArray
    rw [if_neg hno]
    exact ⟨rfl, rfl, rfl⟩
  core hin := absurd hin h

/-- A core that is given up keeps what its arrays are. -/
theorem givenUp_repaired {found : BistFinding} {c : CoreId} (g : Grade) (k : Core) :
    Repaired found g c k (givenUp (repairedArrays found g c k)) := by
  obtain ⟨-, habsent, hlost, hkept, -⟩ := repairedArrays_repaired (found := { found with cores := [] }) (c := c) g k List.not_mem_nil
  have harrays : ∀ a : ArrId, (givenUp (repairedArrays found g c k)).arrays[a] =
      { (repairedArrays { found with cores := [] } g c k).arrays[a] with powered := false } := givenUp_get _
  refine ⟨rfl, fun a ha => ?_, fun a ha hl => ?_, fun a ha hin hfew => ?_, fun _ => ⟨rfl, rfl⟩⟩
  · rw [harrays a]
    exact habsent a ha
  · rw [harrays a]
    exact hlost a ha hl
  · rw [harrays a]
    exact hkept a ha hin hfew

theorem bistCore_repairs {found : BistFinding} {c : CoreId} {s : State} (h : corePresent s.grade c = true) :
    Repaired found s.grade c s.cores[c] (bistCore found c s).cores[c] := by
  rcases bistCore_present (found := found) h with heq | ⟨hno, heq⟩
  · rw [heq, modCore_same, modCore_same]
    exact givenUp_repaired _ _
  · rw [heq, modCore_same]
    exact repairedArrays_repaired _ _ hno

theorem bistCore_other {found : BistFinding} {c d : CoreId} {s : State} (h : d ≠ c) : (bistCore found c s).cores[d] = s.cores[d] := by
  cases hp : corePresent s.grade c with
  | false => rw [bistCore_absent hp]
  | true =>
    rcases bistCore_present (found := found) hp with heq | ⟨-, heq⟩
    · rw [heq, modCore_other _ _ _ _ h, modCore_other _ _ _ _ h]
    · rw [heq, modCore_other _ _ _ _ h]

theorem bistCore_frame (found : BistFinding) (c : CoreId) (s : State) : (bistCore found c s).boot = s.boot ∧ (bistCore found c s).grade = s.grade := by
  cases hp : corePresent s.grade c with
  | false => rw [bistCore_absent hp]; exact ⟨rfl, rfl⟩
  | true =>
    rcases bistCore_present (found := found) hp with heq | ⟨-, heq⟩
    · rw [heq]; exact ⟨rfl, rfl⟩
    · rw [heq]; exact ⟨rfl, rfl⟩

/-- The cores with their repair record. -/
def repairedCores (found : BistFinding) (s : State) : State := forAll (List.finRange 6) (bistCore found) s

theorem repairedCores_frame (found : BistFinding) (s : State) :
    (repairedCores found s).boot = s.boot ∧ (repairedCores found s).grade = s.grade :=
  ⟨forAll_keeps State.boot _ (fun c u => (bistCore_frame found c u).1) _ s, forAll_keeps State.grade _ (fun c u => (bistCore_frame found c u).2) _ s⟩

/-- The other cores' records come before and after a core's own. -/
theorem forAll_once {f : CoreId → State → State} (c : CoreId) (l : List CoreId) (hl : l.Nodup) (hc : c ∈ l)
    (hother : ∀ d u, c ≠ d → (f d u).cores[c] = u.cores[c]) (hgrade : ∀ d u, (f d u).grade = u.grade) (s : State) :
    ∃ u : State, u.cores[c] = s.cores[c] ∧ u.grade = s.grade ∧ (forAll l f s).cores[c] = (f c u).cores[c] := by
  induction l generalizing s with
  | nil => exact absurd hc List.not_mem_nil
  | cons d l ih =>
    obtain ⟨hd, hl⟩ := List.nodup_cons.mp hl
    rw [forAll_cons]
    rcases List.mem_cons.mp hc with rfl | hc
    · have hrest : ∀ (m : List CoreId) (u : State), c ∉ m → (forAll m f u).cores[c] = u.cores[c] := by
        intro m
        induction m with
        | nil => exact fun _ _ => rfl
        | cons e m ihm =>
          intro u hm
          rw [forAll_cons, ihm _ (fun h => hm (List.mem_cons_of_mem _ h)), hother e u (fun h => hm (h ▸ List.mem_cons_self))]
      exact ⟨s, rfl, rfl, hrest l _ hd⟩
    · obtain ⟨u, hcore, hg, hu⟩ := ih hl hc (f d s)
      exact ⟨u, hcore.trans (hother d s (fun e => hd (e ▸ hc))), hg.trans (hgrade d s), hu⟩

theorem repairedCores_present {found : BistFinding} {c : CoreId} {s : State} (h : corePresent s.grade c = true) :
    Repaired found s.grade c s.cores[c] (repairedCores found s).cores[c] := by
  obtain ⟨u, hcore, hg, hu⟩ := forAll_once (f := bistCore found) c (List.finRange 6) (List.nodup_finRange 6) (List.mem_finRange c)
    (fun d u hne => bistCore_other hne) (fun d u => (bistCore_frame found d u).2) s
  have hrepaired := bistCore_repairs (found := found) (hg ▸ h : corePresent u.grade c = true)
  rw [hg, hcore, ← hu] at hrepaired
  exact hrepaired

theorem repairedCores_absent {found : BistFinding} {c : CoreId} {s : State} (h : corePresent s.grade c = false) :
    (repairedCores found s).cores[c] = s.cores[c] := by
  obtain ⟨u, hcore, hg, hu⟩ := forAll_once (f := bistCore found) c (List.finRange 6) (List.nodup_finRange 6) (List.mem_finRange c)
    (fun d u hne => bistCore_other hne) (fun d u => (bistCore_frame found d u).2) s
  exact hu.trans ((congrArg (fun v : State => v.cores[c]) (bistCore_absent (hg ▸ h))).trans hcore)

theorem bistEvents_frame (found : BistFinding) (c : CoreId) (s : State) : (bistEvents found c s).cores = s.cores ∧ (bistEvents found c s).boot = s.boot := by
  have harray : ∀ (a : ArrId) (u : State), ((bistArrayEvents found c a u).cores, (bistArrayEvents found c a u).boot) = (u.cores, u.boot) := by
    intro a u
    unfold bistArrayEvents
    dsimp only
    split
    · rw [postRecord_cores, postRecord_boot]
    · exact forAll_keeps (fun v : State => (v.cores, v.boot)) _ (fun j v => by rw [postRecord_cores, postRecord_boot]) _ u
  obtain ⟨hcores, hboot⟩ := Prod.mk.inj (forAll_keeps (fun v : State => (v.cores, v.boot)) _ harray (List.finRange 4) s)
  unfold bistEvents
  dsimp only
  split
  · exact ⟨(postRecord_cores _ _).trans hcores, (postRecord_boot _ _).trans hboot⟩
  · exact ⟨hcores, hboot⟩

theorem bistWord_congr {s t : State} (h : t.cores = s.cores) : bistWord t = bistWord s := by
  unfold bistWord
  rw [h]

/-- The state in which the repair record is built and reported. -/
def bistBuilt (found : BistFinding) (s : State) : State := forAll (List.finRange 6) (bistEvents found)
  (modBoot (fun b => { b with bistDone := true, bist := bistWord (repairedCores found s) }) (repairedCores found s))

theorem bistBuilt_frame (found : BistFinding) (s : State) : (bistBuilt found s).cores = (repairedCores found s).cores ∧
    (bistBuilt found s).boot = { s.boot with bistDone := true, bist := bistWord (repairedCores found s) } := by
  obtain ⟨u, hu⟩ : ∃ u, u = modBoot (fun b => { b with bistDone := true, bist := bistWord (repairedCores found s) }) (repairedCores found s) := ⟨_, rfl⟩
  have hcores : (bistBuilt found s).cores = u.cores := by
    rw [hu]
    exact forAll_keeps State.cores _ (fun c v => (bistEvents_frame found c v).1) _ _
  have hboot : (bistBuilt found s).boot = u.boot := by
    rw [hu]
    exact forAll_keeps State.boot _ (fun c v => (bistEvents_frame found c v).2) _ _
  rw [hcores, hboot, hu]
  refine ⟨rfl, ?_⟩
  unfold modBoot
  rw [(repairedCores_frame found s).1]

/-- BIST without a release that was seen: its cores are repaired, its result stands, and the engine goes on waiting. -/
theorem bistDone_built {found : BistFinding} {s : State} (hstate : s.boot.state = 1) (hdone : s.boot.bistDone = false)
    (hseen : s.boot.releaseSeen = false) : bistDone found s = bistBuilt found s := by
  have hdef : bistDone found s = if s.boot.state ≠ 1 ∨ s.boot.bistDone then s
      else if (bistBuilt found s).boot.releaseSeen then beginCheck (bistBuilt found s) else bistBuilt found s := by
    unfold bistDone bistBuilt repairedCores
    rfl
  rw [hdef, if_neg (not_or.mpr ⟨not_not.mpr hstate, Bool.eq_false_iff.mp hdone⟩), if_neg]
  rw [(bistBuilt_frame found s).2]
  exact Bool.eq_false_iff.mp hseen

theorem foundMap_nil (c : CoreId) (a : ArrId) : foundMap ⟨[], [], []⟩ c a = 0 := by
  simp [foundMap, b2n]

/-! ### Boot images (R392 to R395) -/

/-- A state in which an image has been taken, before the Lamplighter is released. -/
def imageTaken (i : Nat) (s : State) : State :=
  let h := bootHeader s i
  let s := modBoot (fun b => { b with
    state := 3, slotB := decide (i = 1), header := h, seq := BitVec.ofNat 32 (bhSeq h), vector := BitVec.ofNat 32 (bhEntry h)
    llImem := memStore [] 0 (memBytes s.staging (i * 0x100000 + 64) (bhLen h)) }) s
  let own (r : Fin 16) (x : SgRegion) : SgRegion := if r.val < 2 then { x with owner := 8, boot := false } else x
  let s := { s with sg := { s.sg with regions := s.sg.regions.mapFinIdx (fun i x h => own ⟨i, h⟩ x) } }
  setGint 0x001 (freshWords .llImem [(0, bhLen h)] s)

theorem takeImage_eq (i : Nat) (s : State) : takeImage i s = releaseLl (imageTaken i s) := rfl

theorem startTick_stands (s : State) : (startTick s).bnd.gintStatus = s.bnd.gintStatus ∧ standing (startTick s) = standing s ∧
    (startTick s).tick.last = s.time := by
  obtain ⟨u, hu, hbnd, hsame⟩ : ∃ u : State, startTick s = takeTick s.time u ∧ u.bnd = s.bnd ∧ standing u = standing s := ⟨_, rfl, rfl, rfl⟩
  obtain ⟨hgint, hstand⟩ := takeTick_stands s.time u
  rw [hu]
  exact ⟨hgint.trans (congrArg Boundary.gintStatus hbnd), hstand.trans hsame, (takeTick_last _ _).1⟩

/-- What stands once the Lamplighter begins. -/
theorem llBegins_spec (s : State) : (llBegins s).boot = s.boot ∧ (llBegins s).sg.regions = s.sg.regions ∧
    (llBegins s).bnd.gintStatus = s.bnd.gintStatus ∧ (llBegins s).safety.plannerDue = true ∧
    (bitAt s.tick.ctrl 0 = false → (llBegins s).cores = s.cores) ∧ (bitAt s.tick.ctrl 0 = true → (llBegins s).tick.last = s.time) := by
  unfold llBegins
  extract_lets claimed safety asked
  have hclaimed : claimed.boot = s.boot ∧ claimed.sg = s.sg ∧ claimed.bnd = s.bnd ∧ claimed.cores = s.cores ∧ claimed.tick = s.tick ∧
      claimed.time = s.time := ⟨rfl, rfl, rfl, rfl, rfl, rfl⟩
  clear_value claimed
  obtain ⟨hboot, hsg, hbnd, hcores, htick, htime⟩ := hclaimed
  have hstand : standing asked = (s.boot, s.sg.regions, true) := by rw [← hboot, ← hsg]
  have hrest : asked.bnd = s.bnd ∧ asked.cores = s.cores ∧ asked.tick = s.tick ∧ asked.time = s.time := ⟨hbnd, hcores, htick, htime⟩
  clear hboot hsg hbnd hcores htick htime
  clear_value asked
  obtain ⟨hbnd, hcores, htick, htime⟩ := hrest
  obtain ⟨hboot, hregions⟩ := Prod.mk.inj hstand
  obtain ⟨hregions, hplanner⟩ := Prod.mk.inj hregions
  rw [htick]
  split
  next hon =>
    obtain ⟨hgint, hkept, hlast⟩ := startTick_stands asked
    obtain ⟨hkboot, hkrest⟩ := Prod.mk.inj (hkept.trans hstand)
    obtain ⟨hkregions, hkplanner⟩ := Prod.mk.inj hkrest
    exact ⟨hkboot, hkregions, hgint.trans (congrArg Boundary.gintStatus hbnd), hkplanner, fun h => absurd (hon.symm.trans h) (by decide),
      fun _ => hlast.trans htime⟩
  next hoff => exact ⟨hboot, hregions, congrArg Boundary.gintStatus hbnd, hplanner, fun _ => hcores, fun h => absurd h hoff⟩

theorem Keeps.llBegins {s₀ s : State} (h : Keeps s₀ s) : Keeps s₀ (Machine.llBegins s) := by
  unfold Machine.llBegins
  extract_lets claimed safety asked
  have hasked : Keeps s₀ asked := h.claimSubTimer.setSafety
  exact .ite hasked.startTick hasked

/-- Where no request waits, the Lamplighter serves none at its release. -/
theorem releaseLl_idle {s : State} (h : s.host.sent = []) : releaseLl s = llBegins s := drain_of_sent_nil ((Keeps.refl s).llBegins.idle h)

theorem imageTaken_rest (i : Nat) (s : State) : (imageTaken i s).host = s.host ∧ (imageTaken i s).cores = s.cores ∧
    (imageTaken i s).tick = s.tick ∧ (imageTaken i s).time = s.time ∧ (imageTaken i s).bnd.gintStatus = s.bnd.gintStatus ||| 0x001 ∧
    (imageTaken i s).boot = { s.boot with
      state := 3, slotB := decide (i = 1), header := bootHeader s i, seq := BitVec.ofNat 32 (bhSeq (bootHeader s i))
      vector := BitVec.ofNat 32 (bhEntry (bootHeader s i))
      llImem := memStore [] 0 (memBytes s.staging (i * 0x100000 + 64) (bhLen (bootHeader s i))) } := ⟨rfl, rfl, rfl, rfl, rfl, rfl⟩

/-- The first two regions of staging are the Lamplighter's. -/
theorem imageTaken_owner (i : Nat) (s : State) {r : Fin 16} (h : r.val < 2) : ((imageTaken i s).sg.regions[r]).owner = 8 := by
  have hregion : (imageTaken i s).sg.regions[r] = if r.val < 2 then { s.sg.regions[r] with owner := 8, boot := false } else s.sg.regions[r] :=
    Vector.getElem_mapFinIdx ..
  rw [hregion, if_pos h]

/-- An image that is taken runs, where no request waits. -/
theorem takeImage_spec (i : Nat) {s : State} (h : s.host.sent = []) : (takeImage i s).boot = { s.boot with
      state := 3, slotB := decide (i = 1), header := bootHeader s i, seq := BitVec.ofNat 32 (bhSeq (bootHeader s i))
      vector := BitVec.ofNat 32 (bhEntry (bootHeader s i))
      llImem := memStore [] 0 (memBytes s.staging (i * 0x100000 + 64) (bhLen (bootHeader s i))) } ∧
    (∀ r : Fin 16, r.val < 2 → ((takeImage i s).sg.regions[r]).owner = 8) ∧ (takeImage i s).bnd.gintStatus = s.bnd.gintStatus ||| 0x001 ∧
    (takeImage i s).safety.plannerDue = true ∧ (bitAt s.tick.ctrl 0 = false → (takeImage i s).cores = s.cores) ∧
    (bitAt s.tick.ctrl 0 = true → (takeImage i s).tick.last = s.time) := by
  obtain ⟨hhost, hcores, htick, htime, hgint, hboot⟩ := imageTaken_rest i s
  obtain ⟨hkboot, hkregions, hkgint, hkplanner, hkcores, hklast⟩ := llBegins_spec (imageTaken i s)
  rw [takeImage_eq, releaseLl_idle (by rw [hhost]; exact h)]
  rw [htick] at hkcores hklast
  exact ⟨hkboot.trans hboot, fun r hr => by rw [hkregions]; exact imageTaken_owner i s hr, hkgint.trans hgint, hkplanner,
    fun hoff => (hkcores hoff).trans hcores, fun hon => (hklast hon).trans htime⟩

/-! ### The choice between the slots (R394, R395) -/

theorem slotOrder_single {s : State} {a b i : Nat} (h : slotOrder s a b = [i]) : i < 2 := by
  unfold slotOrder at h
  dsimp only at h
  split at h
  · split at h <;> simp at h
  · split at h
    · simp at h
      omega
    · split at h
      · simp at h
        omega
      · simp at h

theorem slotOrder_pair {s : State} {a b i j : Nat} (h : slotOrder s a b = [i, j]) : (a = 1 ∧ b = 1) ∧ (i = 1 ∧ j = 0 ∨ i = 0 ∧ j = 1) := by
  unfold slotOrder at h
  dsimp only at h
  split at h
  next hvalid =>
    refine ⟨hvalid, ?_⟩
    split at h
    · simp at h
      omega
    · simp at h
      omega
  · split at h
    · simp at h
    · split at h <;> simp at h

theorem slotOrder_none {s : State} {a b : Nat} (ha : a ≠ 1) (hb : b ≠ 1) : slotOrder s a b = [] := by
  unfold slotOrder
  dsimp only
  rw [if_neg (fun h => ha h.1), if_neg ha, if_neg hb]

/-- The results of a check stand. -/
def slotsChecked (s : State) : State :=
  modBoot (fun x => { x with slotCode := #v[BitVec.ofNat 3 (slotCode s 0), BitVec.ofNat 3 (slotCode s 1)] }) s

/-- A slot's copy has failed its re-check. -/
def copyFailed (i : Nat) (s : State) : State := modBoot (fun b => { b with slotCode := b.slotCode.setIfInBounds i 7 }) s

theorem bootImageCheck_eq {copyBad : BitVec 2} {s : State} (h : s.boot.state = 2) :
    exec (.bootImageCheck copyBad) s = .next (copyImage copyBad (slotOrder s (slotCode s 0) (slotCode s 1)) (slotsChecked s)) :=
  congrArg Host.Outcome.next (if_neg (not_not.mpr h))

theorem copyImage_bad {copyBad : BitVec 2} {i : Nat} {l : List Nat} {s : State} (h : bitAt copyBad i = true) :
    copyImage copyBad (i :: l) s = copyImage copyBad l (copyFailed i s) := if_pos h

theorem copyImage_good {copyBad : BitVec 2} {i : Nat} {l : List Nat} {s : State} (h : bitAt copyBad i = false) :
    copyImage copyBad (i :: l) s = takeImage i s := if_neg (Bool.eq_false_iff.mp h)

theorem copyImage_none (copyBad : BitVec 2) (s : State) : copyImage copyBad [] s = noValidImage s := rfl

theorem bitAt_gint1 (w : BitVec 12) : bitAt (w ||| 0x002) 1 = true := by
  unfold bitAt
  rw [BitVec.toNat_or, Nat.testBit_or]
  exact Bool.or_true _

theorem bitAt_gint0 (w : BitVec 12) : bitAt (w ||| 0x001) 0 = true := by
  unfold bitAt
  rw [BitVec.toNat_or, Nat.testBit_or]
  exact Bool.or_true _

/-- No valid image: the engine waits again, and says so. -/
theorem noValidImage_spec (s : State) : (noValidImage s).boot = { s.boot with state := 1, noValid := true } ∧
    bitAt (noValidImage s).bnd.gintStatus 1 = true ∧ (noValidImage s).cores = s.cores := ⟨rfl, bitAt_gint1 _, rfl⟩

theorem answers_aperture {s : State} {off : Nat} : answers s (0x1000000 + off) = true := by
  unfold answers
  rw [if_neg (by omega), if_neg (by omega), if_neg (by omega), if_neg (by omega), if_neg (by omega)]

theorem passes_aperture {acc : Access} {s : State} {off : Nat} (h : acc.secure = true) : Passes acc s (0x1000000 + off) true :=
  ⟨.inl h, answers_aperture⟩

theorem passes_boot {acc : Access} {s : State} {off : Nat} (h : acc.secure = true) (hoff : 0x8000 ≤ off ∧ off < 0x9000) : Passes acc s off true :=
  ⟨.inl h, answers_of_plain (by omega)⟩

end Sys2Proof.Machine
open Sys2Proof Sys2Proof.Machine

/-- Settles O57: what a cold start, the boot aperture, BIST and the choice of the boot image leave. -/
theorem startupAndBoot : Obligations.StartupAndBoot := by
  unfold Obligations.StartupAndBoot
  refine ⟨fun kroot s => ⟨fun hheld => ?_, fun hfree => ?_, fun acc val hacc hfree hbit => ?_, fun acc off data hacc => ⟨fun hstate hfits => ?_, fun hno => ?_⟩,
      fun acc val hacc => ⟨fun hbit hstate hdone => ?_, fun hbit hstate hdone => ?_, fun hno => ?_⟩⟩,
    fun s => ⟨fun hstate hdone hseen => ?_, fun found hstate hdone hseen => ?_, fun hstate => ⟨fun bad i horder hbad => ?_,
      fun bad i j horder hbad => ⟨fun hbad' => ?_, fun hgood hidle => ?_⟩, fun ha hb => ?_, fun i hhead hidle => ?_⟩, ?_⟩⟩
  · obtain ⟨hfree, hstate, hcause, htime, hkroot, hgrade, hdram, hpending, hstaging, hfatal, hseq, hhost, hcores, hports, hregions⟩ :=
      coldStart_frame 0 { s with bnd := { s.bnd with krootPin := kroot } }
    refine ⟨_, congrArg Host.Outcome.next (if_neg (not_not.mpr hheld)), hfree, hstate, hcause, htime, hkroot, hgrade, hdram, hpending, hstaging, hfatal,
      hseq, hhost, fun c => ?_, fun l => ?_, fun z => ?_⟩
    · rw [hcores, ofFn_get]
      exact coldCore_spec _ c
    · rw [hports, ofFn_get]
      exact coldPort_state _ l
    · rw [hregions, ofFn_get]
      exact coldRegion_state _ z
  · exact congrArg Host.Outcome.next (if_pos (Bool.eq_false_iff.mp hfree))
  · exact congrArg Host.Outcome.next ((access_passes (passes_boot hacc (by omega))).trans
      ((if_neg (Bool.eq_false_iff.mp hfree)).trans (if_pos hbit)))
  · exact congrArg Host.Outcome.next ((access_passes (passes_aperture hacc)).trans
      (if_neg (not_or.mpr ⟨not_not.mpr hstate, not_lt.mpr hfits⟩)))
  · exact congrArg Host.Outcome.next ((access_passes (passes_aperture hacc)).trans (if_pos hno))
  · exact congrArg Host.Outcome.next ((access_passes (passes_boot hacc (by omega))).trans
      ((if_neg (not_or.mpr ⟨not_not.mpr hbit, not_not.mpr hstate⟩)).trans (if_neg (Bool.eq_false_iff.mp hdone))))
  · exact congrArg Host.Outcome.next ((access_passes (passes_boot hacc (by omega))).trans
      ((if_neg (not_or.mpr ⟨not_not.mpr hbit, not_not.mpr hstate⟩)).trans (if_pos hdone)))
  · exact congrArg Host.Outcome.next ((access_passes (passes_boot hacc (by omega))).trans (if_pos (hno.imp_left Bool.eq_false_iff.mp)))
  · obtain ⟨hcores, hboot⟩ := bistBuilt_frame ⟨[], [], []⟩ s
    refine ⟨_, congrArg Host.Outcome.next (bistDone_built hstate hdone hseen), by rw [hboot], by rw [hboot]; exact hstate, fun c a => ?_⟩
    rw [hcores]
    cases hpresent : corePresent s.grade c with
    | false =>
      rw [repairedCores_absent hpresent]
      exact ⟨rfl, rfl⟩
    | true =>
      obtain ⟨hmem, habsent, -, hkept, -⟩ := repairedCores_present (found := ⟨[], [], []⟩) hpresent
      refine ⟨?_, hmem⟩
      cases harray : arrayPresent s.grade a with
      | false => exact habsent a harray
      | true => exact (hkept a harray List.not_mem_nil (by rw [foundMap_nil]; decide)).1
  · obtain ⟨hcores, hboot⟩ := bistBuilt_frame found s
    refine ⟨_, congrArg Host.Outcome.next (bistDone_built hstate hdone hseen), by rw [hboot], by rw [hboot]; exact hstate, ?_, fun c => ?_⟩
    · rw [hboot]
      exact (bistWord_congr hcores).symm
    · rw [hcores]
      cases hpresent : corePresent s.grade c with
      | false =>
        rw [repairedCores_absent hpresent]
        exact ⟨rfl, fun _ => rfl, fun h => absurd h (by decide)⟩
      | true =>
        obtain ⟨hmem, -, hlost, hkept, hcore⟩ := repairedCores_present (found := found) hpresent
        exact ⟨hmem, fun h => absurd h (by decide), fun _ => ⟨fun a ha => ⟨hlost a ha, hkept a ha⟩, hcore⟩⟩
  · obtain ⟨hboot, hgint, hcores⟩ := noValidImage_spec (copyFailed i (slotsChecked s))
    refine ⟨_, (bootImageCheck_eq hstate).trans (congrArg Host.Outcome.next (by rw [horder, copyImage_bad hbad, copyImage_none])), by rw [hboot],
      by rw [hboot], ?_, by rw [hboot]; rfl, hgint, hcores⟩
    rw [hboot]
    exact Vector.getElem?_setIfInBounds_self_of_lt (slotOrder_single horder)
  · obtain ⟨hboot, -, hcores⟩ := noValidImage_spec (copyFailed j (copyFailed i (slotsChecked s)))
    refine ⟨_, (bootImageCheck_eq hstate).trans (congrArg Host.Outcome.next (by rw [horder, copyImage_bad hbad, copyImage_bad hbad', copyImage_none])),
      by rw [hboot], by rw [hboot], ?_, hcores⟩
    rw [hboot]
    obtain ⟨-, ⟨rfl, rfl⟩ | ⟨rfl, rfl⟩⟩ := slotOrder_pair horder
    · rfl
    · rfl
  · obtain ⟨hboot, -⟩ := takeImage_spec j (s := copyFailed i (slotsChecked s)) hidle
    obtain ⟨⟨ha, hb⟩, hij⟩ := slotOrder_pair horder
    refine ⟨_, (bootImageCheck_eq hstate).trans (congrArg Host.Outcome.next (by rw [horder, copyImage_bad hbad, copyImage_good hgood])),
      by rw [hboot], by rw [hboot], ?_, ?_, by rw [hboot]; rfl⟩
    · rw [hboot]
      exact Vector.getElem?_setIfInBounds_self_of_lt (by omega)
    · rw [hboot]
      change (Vector.setIfInBounds #v[BitVec.ofNat 3 (slotCode s 0), BitVec.ofNat 3 (slotCode s 1)] i 7)[j]? = some 1
      rw [ha, hb]
      obtain ⟨rfl, rfl⟩ | ⟨rfl, rfl⟩ := hij
      · rfl
      · rfl
  · refine (bootImageCheck_eq hstate).trans (congrArg Host.Outcome.next ?_)
    rw [slotOrder_none ha hb, copyImage_none]
    rfl
  · obtain ⟨hboot, howner, hgint, hplanner, hoff, hon⟩ := takeImage_spec i (s := slotsChecked s) hidle
    obtain ⟨l, hl⟩ : ∃ l, slotOrder s (slotCode s 0) (slotCode s 1) = i :: l := by
      cases horder : slotOrder s (slotCode s 0) (slotCode s 1) with
      | nil => rw [horder] at hhead; exact absurd hhead (by simp)
      | cons k l =>
        rw [horder] at hhead
        exact ⟨l, by rw [Option.some.inj hhead]⟩
    refine ⟨_, (bootImageCheck_eq hstate).trans (congrArg Host.Outcome.next (by rw [hl, copyImage_good (by simp [bitAt])])), by rw [hboot], by rw [hboot],
      by rw [hboot]; rfl, by rw [hboot]; rfl, howner 0 (by decide), howner 1 (by decide), by rw [hgint]; exact bitAt_gint0 _, hplanner, hoff, hon⟩
  · unfold slotOrder
    exact if_pos (And.intro rfl rfl)

end

section
-- One declaration after another: fewer threads, so that the check of the whole text keeps within its memory.
set_option Elab.async false
/-! PROOFS. The invariants of every step, continued: boot, cold starts and warm restarts, resets, worlds and retention. -/
namespace Sys2Proof.Machine
open Sys2Proof

theorem coldCore_mem (g : Grade) (c : CoreId) : (coldCore g c).mem.wf := by
  rw [(coldCore_spec g c).2]
  exact ⟨memory_nil_wf, memory_nil_wf, memory_nil_wf, memory_nil_wf, memory_nil_wf, memory_nil_wf, memory_nil_wf⟩

theorem coldRegion_wf (g : Grade) (z : RegionId) : (coldRegion g z).wf := by
  unfold coldRegion
  split <;> exact ⟨memory_nil_wf, memory_nil_wf⟩

/-- A warm restart leaves block RAM and configuration of a region. -/
theorem warmFabric_memories (n : Nat) (f : Fabric) (z : RegionId) : ((warmFabric n f).regions[z]).bram = (f.regions[z]).bram ∧
    ((warmFabric n f).regions[z]).config = (f.regions[z]).config := by
  unfold warmFabric
  simp only [Fin.getElem_fin, Vector.getElem_map]
  split
  · unfold regionInitial
    exact ⟨rfl, rfl⟩
  · exact ⟨rfl, rfl⟩

namespace Keeps
variable {s₀ s t : State}

theorem setBoot (h : Keeps s₀ s) {b : Boot} (himem : Memory.wf s.boot.llImem → Memory.wf b.llImem := by exact id)
    (hdmem : Memory.wf s.boot.llDmem → Memory.wf b.llDmem := by exact id) : Keeps s₀ { s with boot := b } := by
  refine ⟨⟨fun hs => ?_, h.pins⟩, h.idle⟩
  obtain ⟨hcores, hdram, hstaging, hi, hd, hregions⟩ := h.mem hs
  exact ⟨hcores, hdram, hstaging, himem hi, hdmem hd, hregions⟩

theorem modBoot (h : Keeps s₀ s) {f : Boot → Boot} (himem : Memory.wf s.boot.llImem → Memory.wf (f s.boot).llImem := by exact id)
    (hdmem : Memory.wf s.boot.llDmem → Memory.wf (f s.boot).llDmem := by exact id) : Keeps s₀ (Machine.modBoot f s) := h.setBoot himem hdmem

/-! ### Boot (R390 to R397) -/

theorem coldStart (h : Keeps s₀ s) {kind : Nat} : Keeps s₀ (Machine.coldStart kind s) := by
  obtain ⟨u, hu, hcores, hdram, hstaging, himem, hdmem, hregions, ha, hb, hsent⟩ : ∃ u : State, Machine.coldStart kind s = Machine.refreshWarn u ∧
      u.cores = Vector.ofFn (coldCore s.grade) ∧ u.dram = s.dram ∧ u.staging = [] ∧
      u.boot.llImem = (if decide (kind = 1) = true then s.boot.llImem else []) ∧ u.boot.llDmem = [] ∧
      u.fabric.regions = Vector.ofFn (coldRegion s.grade) ∧ u.bnd.ksafeA = false ∧ u.bnd.ksafeB = false ∧ u.host.sent = [] :=
    ⟨_, rfl, rfl, rfl, rfl, rfl, rfl, rfl, rfl, rfl, rfl⟩
  have hkept : Keeps s₀ u := by
    refine ⟨⟨fun hs => ?_, fun _ => ?_⟩, fun _ => hsent⟩
    · obtain ⟨-, hsdram, -, hsimem, -, -⟩ := h.mem hs
      refine ⟨fun c => ?_, hdram ▸ hsdram, hstaging ▸ memory_nil_wf, ?_, hdmem ▸ memory_nil_wf, fun z => ?_⟩
      · rw [hcores, ofFn_get]
        exact coldCore_mem _ c
      · rw [himem]
        split
        · exact hsimem
        · exact memory_nil_wf
      · rw [hregions, ofFn_get]
        exact coldRegion_wf _ z
    · simp [State.pinsSafe, State.safeLow, ha, hb]
  rw [hu]
  exact hkept.refreshWarn

theorem coldResetRelease (h : Keeps s₀ s) {kroot : Bool} (x : execColdResetRelease kroot s = .next t) : Keeps s₀ t := by
  cases x
  exact .ite h h.setBnd.coldStart

theorem apertureWrite (h : Keeps s₀ s) {off : Nat} {data : List Byte} : Keeps s₀ (Machine.apertureWrite off data s) :=
  .ite h (h.setStaging (memStore_wf _ _)).freshWords

theorem beginCheck (h : Keeps s₀ s) : Keeps s₀ (Machine.beginCheck s) := h.modBoot
theorem bootReleaseWrite (h : Keeps s₀ s) {val : Word} : Keeps s₀ (Machine.bootReleaseWrite val s) := .ite h (.ite h.beginCheck h.modBoot)

theorem bistCore (h : Keeps s₀ s) {found : BistFinding} {c : CoreId} : Keeps s₀ (Machine.bistCore found c s) := by
  cases hp : corePresent s.grade c with
  | false => rwa [bistCore_absent hp]
  | true =>
    rcases bistCore_present (found := found) hp with heq | ⟨-, heq⟩
    · rw [heq]
      exact h.modCore.modCore
    · rw [heq]
      exact h.modCore

theorem bistArrayEvents (h : Keeps s₀ s) {found : BistFinding} {c : CoreId} {a : ArrId} : Keeps s₀ (Machine.bistArrayEvents found c a s) :=
  .ite h.postRecord (h.forAll fun _ _ hu => hu.postRecord)

theorem bistEvents (h : Keeps s₀ s) {found : BistFinding} {c : CoreId} : Keeps s₀ (Machine.bistEvents found c s) := by
  unfold Machine.bistEvents
  extract_lets arrays
  have harrays : Keeps s₀ arrays := h.forAll fun _ _ hu => hu.bistArrayEvents
  exact .ite harrays.postRecord harrays

theorem bistDone (h : Keeps s₀ s) {found : BistFinding} : Keeps s₀ (Machine.bistDone found s) := by
  unfold Machine.bistDone
  extract_lets repaired built
  have hrepaired : Keeps s₀ repaired := h.forAll fun _ _ hu => hu.bistCore
  have hbuilt : Keeps s₀ built := hrepaired.modBoot.forAll fun _ _ hu => hu.bistEvents
  exact .ite h (.ite hbuilt.beginCheck hbuilt)

theorem noValidImage (h : Keeps s₀ s) : Keeps s₀ (Machine.noValidImage s) := h.modBoot.setGint

theorem takeImage (h : Keeps s₀ s) {i : Nat} : Keeps s₀ (Machine.takeImage i s) := by
  unfold Machine.takeImage releaseLl
  extract_lets x booted own sg owned
  have hbooted : Keeps s₀ booted := h.modBoot fun _ => memStore_wf _ _ memory_nil_wf
  have howned : Keeps s₀ owned := hbooted.setSg
  exact howned.freshWords.setGint.llBegins.drain

theorem copyImage (h : Keeps s₀ s) {bad : BitVec 2} {l : List Nat} : Keeps s₀ (Machine.copyImage bad l s) := by
  induction l generalizing s with
  | nil => exact h.noValidImage
  | cons i l ih => exact .ite (ih h.modBoot) h.takeImage

theorem bootImageCheck (h : Keeps s₀ s) {bad : BitVec 2} : Keeps s₀ (Machine.bootImageCheck bad s) := .ite h h.modBoot.copyImage

/-! ### Warm restarts (R398 to R402) -/

theorem warmState (h : Keeps s₀ s) : Keeps s₀ (Machine.warmState s) := by
  unfold Machine.warmState
  extract_lets cleared hosted island boot warm
  have hcores : Keeps s₀ { s with cores := s.cores.map warmCore } := h.mapCores
  have hcleared : Keeps s₀ cleared := ⟨⟨hcores.mem, fun _ => ⟨fun _ => ⟨rfl, rfl⟩, fun hboth => absurd hboth.1 Bool.false_ne_true⟩⟩, hcores.idle⟩
  have hhosted : Keeps s₀ hosted := ⟨⟨hcleared.mem, fun _ => ⟨fun _ => ⟨rfl, rfl⟩, fun hboth => absurd hboth.1 Bool.false_ne_true⟩⟩, fun _ => rfl⟩
  have hfabric : Keeps s₀ { hosted with fabric := warmFabric hosted.time hosted.fabric } := hhosted.setFabric fun z hz => by
    obtain ⟨hbram, hconfig⟩ := warmFabric_memories hosted.time hosted.fabric z
    exact ⟨hbram ▸ hz.1, hconfig ▸ hz.2⟩
  have hwarm : Keeps s₀ warm := ⟨⟨hfabric.mem, hfabric.pins⟩, hfabric.idle⟩
  exact .ite hwarm.bumpGen hwarm

theorem warmStop (h : Keeps s₀ s) : Keeps s₀ (Machine.warmStop s) := by
  unfold Machine.warmStop
  extract_lets boot bnd tick fabric stopped
  have hstopped : Keeps s₀ stopped := h.lowPins rfl
  split
  · exact hstopped.loadFail
  · exact hstopped

theorem warmSnuff (h : Keeps s₀ s) : Keeps s₀ (Machine.warmSnuff s) := by
  unfold Machine.warmSnuff
  extract_lets host kept snuffed
  have hsnuffed : Keeps s₀ snuffed := h.setHost.forAll fun _ _ hu => hu.snuffNow
  exact hsnuffed.forAll fun _ _ hu => hu.stopJob

theorem warmReplies (h : Keeps s₀ s) {by_ : Option (Fin 9)} : Keeps s₀ (Machine.warmReplies by_ s) := by
  unfold Machine.warmReplies
  extract_lets replied
  have hreplied : Keeps s₀ replied := h.forAll fun _ _ hu => hu.reply
  split
  · exact hreplied.reply
  · exact hreplied

theorem errProxies (h : Keeps s₀ s) : Keeps s₀ (Machine.errProxies s) := h.setHost

theorem warmScan (h : Keeps s₀ s) : Keeps s₀ (Machine.warmScan s) := by
  refine h.atTime.modFabric.forAll fun z u hu => ?_
  split
  · exact hu.scanFails
  · exact hu

theorem warmRelease (h : Keeps s₀ s) {by_ : Option (Fin 9)} {kind code : Nat} : Keeps s₀ (Machine.warmRelease by_ kind code s) := by
  unfold Machine.warmRelease
  extract_lets island proxies begun
  have hproxies : Keeps s₀ proxies := .ite h.errProxies h
  have hbegun : Keeps s₀ begun := hproxies.modBoot.endJobs.llBegins
  exact drain (warmReplies (.ite hbegun.sendJoin hbegun))

theorem warmRestart (h : Keeps s₀ s) {by_ : Option (Fin 9)} {kind code : Nat} : Keeps s₀ (Machine.warmRestart by_ kind code s) := by
  unfold Machine.warmRestart
  extract_lets snuffed
  have hsnuffed : Keeps s₀ snuffed := h.warmStop.warmSnuff
  have hstepped : Keeps s₀ { Machine.vofsStep snuffed with time := snuffed.time + us 20 } := hsnuffed.vofsStep.setTime
  exact .ite hsnuffed.coldStart (hstepped.forAll fun _ _ hu => hu.resetBody).warmState.refreshWarn.reroute.warmScan.warmRelease

/-! ### Faults of the engine, reset registers (R311, R404, R405) -/

theorem fatalHold (h : Keeps s₀ s) {code : Nat} : Keeps s₀ (Machine.fatalHold code s) :=
  h.modBoot.ksafeStop.forAll fun _ _ hu => hu.ensureReset

theorem engineClass (h : Keeps s₀ s) {r : RecIn} : Keeps s₀ (Machine.engineClass r s) :=
  .ite h (.ite h.postRecord (.ite h.postRecord.fatalHold (.ite h.postRecord.warmRestart h.postRecord)))

theorem resetWrite (h : Keeps s₀ s) {val : Word} : Keeps s₀ (Machine.resetWrite val s) := .ite h (.ite h.coldStart (.ite h.warmRestart h))

theorem mbWarmRestart (h : Keeps s₀ s) {m : MboxId} {p : PartId} {b : List Byte} : Keeps s₀ (Machine.mbWarmRestart m p b s) :=
  .ite h.warmRestart h.reply

theorem clearTags (h : Keeps s₀ s) {x : Partition} : Keeps s₀ (Machine.clearTags x s) := h.setHost

theorem partReset (h : Keeps s₀ s) {p : PartId} : Keeps s₀ (Machine.partReset p s) := by
  unfold Machine.partReset
  extract_lets busy begun mine disabled killed settled own cleared asids bad host
  have hbegun : Keeps s₀ begun := h.modBoot
  have hdisabled : Keeps s₀ disabled := hbegun.forAll fun _ _ hu => hu.disableQueue
  have hsettled : Keeps s₀ settled := hdisabled.killJobs.discardQueues.settle
  have hcleared : Keeps s₀ cleared := hsettled.discardFences.clearTags
  exact modBoot hcleared.setHost

theorem partResetWrite (h : Keeps s₀ s) {val : Word} : Keeps s₀ (Machine.partResetWrite val s) := .ite h (h.forAll fun _ _ hu => hu.partReset)

theorem regionReset (h : Keeps s₀ s) {z : RegionId} : Keeps s₀ (Machine.regionReset z s) := by
  unfold Machine.regionReset
  refine .ite h ?_
  split
  · split
    · exact .ite h.loadFail h
    · exact h
  · exact h.initialValues
  · exact h

theorem regionResetWrite (h : Keeps s₀ s) {val : Word} : Keeps s₀ (Machine.regionResetWrite val s) := h.forAll fun _ _ hu => hu.regionReset

/-! ### Worlds and retention (R406, R407, R410) -/

theorem worldReqWrite (h : Keeps s₀ s) {val : Word} : Keeps s₀ (Machine.worldReqWrite val s) := by
  unfold Machine.worldReqWrite
  dsimp only
  split
  · exact h
  · exact .ite h (.ite h.modBoot.modBoot (.ite h.modBoot.modBoot.modCore h.modBoot.modBoot))

theorem zeroCore (h : Keeps s₀ s) {c : CoreId} : Keeps s₀ (Machine.zeroCore c s) := by
  unfold Machine.zeroCore
  exact (h.modCore fun _ _ => ⟨memory_nil_wf, memory_nil_wf, memory_nil_wf, memory_nil_wf, memory_nil_wf, memory_nil_wf, memory_nil_wf⟩).setSafety

theorem scrubCore (h : Keeps s₀ s) {c : CoreId} {world : Bool} : Keeps s₀ (Machine.scrubCore c world s) := by
  unfold Machine.scrubCore
  extract_lets zeroed
  have hzeroed : Keeps s₀ zeroed := h.zeroCore.resetBody
  exact hzeroed.modCore.unbindPorts

theorem scrubRegion (h : Keeps s₀ s) {z : RegionId} {world : Bool} : Keeps s₀ (Machine.scrubRegion z world s) :=
  bumpGen (h.modRegion fun _ _ => ⟨memory_nil_wf, memory_nil_wf⟩)

theorem scrubPort (h : Keeps s₀ s) {l : LinkId} {world : Bool} : Keeps s₀ (Machine.scrubPort l world s) := h.modLink.retrainStart

theorem worldScrubDone (h : Keeps s₀ s) : Keeps s₀ (Machine.worldScrubDone s) := by
  unfold Machine.worldScrubDone
  split
  · exact h
  · dsimp only
    split
    · exact h.modBoot.scrubCore
    · exact h.modBoot.scrubRegion
    · exact h.modBoot.scrubPort

theorem retentionExit (h : Keeps s₀ s) {c : CoreId} : Keeps s₀ (Machine.retentionExit c s) := .ite h h.setTime.modCore.resetBody

end Keeps

end Sys2Proof.Machine
end

section
-- One declaration after another: fewer threads, so that the check of the whole text keeps within its memory.
set_option Elab.async false
/-! PROOFS. The invariants of every step, continued: links, memory protection, monitors, margins, enumeration and membership. -/
namespace Sys2Proof.Machine
open Sys2Proof

namespace Keeps
variable {s₀ s t : State}

/-! ### Flits and messages (R335 to R341) -/

theorem freeBuffer (h : Keeps s₀ s) {l : LinkId} {cls : Fin 4} : Keeps s₀ (Machine.freeBuffer l cls s) := h.modLink

theorem takeHeartbeat (h : Keeps s₀ s) {l : LinkId} {r : HbRec} : Keeps s₀ (Machine.takeHeartbeat l r s) := by
  unfold Machine.takeHeartbeat
  extract_lets e first restart heard
  have hheard : Keeps s₀ heard := h.modLinks
  exact .ite h (.ite hheard (hheard.forAll fun _ _ hu => hu.modLink))

theorem takeControl (h : Keeps s₀ s) {l : LinkId} {raw : List Byte} : Keeps s₀ (Machine.takeControl l raw s) := by
  unfold Machine.takeControl
  extract_lets ack flags taken p changed
  have htaken : Keeps s₀ taken := h.modLink
  have hchanged : Keeps s₀ changed := .ite htaken htaken.portChange
  exact (hchanged.forAll fun _ _ hu => hu.takeHeartbeat).pump

theorem discardFlit (h : Keeps s₀ s) {l : LinkId} : Keeps s₀ (Machine.discardFlit l s) := h.modLink

theorem controlFlitReceive (h : Keeps s₀ s) {l : LinkId} {raw : List Byte} (x : execControlFlitReceive l raw s = .next t) : Keeps s₀ t := by
  cases x
  exact .ite h (.ite h.discardFlit (.ite h h.takeControl))

theorem dropRx (h : Keeps s₀ s) {l : List (LinkId × Flit)} : Keeps s₀ (Machine.dropRx l s) := h.modLinks.forAll fun _ _ hu => hu.freeBuffer

theorem haloRunAdded (h : Keeps s₀ s) {r : HaloRun} : Keeps s₀ { s with haloRuns := s.haloRuns ++ [r] } := h.of_eq rfl

theorem haloFromLink (h : Keeps s₀ s) {src : BitVec 5} : Keeps s₀ (Machine.haloFromLink src s) := by
  unfold Machine.haloFromLink
  split
  · exact h
  · exact dropRx (haloRunAdded h)

theorem takeRunFlit (h : Keeps s₀ s) {l : LinkId} {f : Flit} : Keeps s₀ (Machine.takeRunFlit l f s) := by
  unfold Machine.takeRunFlit
  dsimp only
  exact .ite (.ite h.modLinks.haloFromLink h.modLinks) (.ite (.ite h.freeBuffer.sendMsg h.freeBuffer) h.modLink.freeBuffer)

theorem passOn (h : Keeps s₀ s) {l : LinkId} {f : Flit} : Keeps s₀ (Machine.passOn l f s) := by
  unfold Machine.passOn
  split
  · exact h.sendOver
  · exact h.sendTo

theorem acceptFlit (h : Keeps s₀ s) {l : LinkId} {f : Flit} : Keeps s₀ (Machine.acceptFlit l f s) := by
  unfold Machine.acceptFlit
  extract_lets accepted
  have haccepted : Keeps s₀ accepted := h.modLink
  exact .ite haccepted.freeBuffer (.ite haccepted.takeRunFlit (.ite haccepted.modLinks haccepted.freeBuffer.passOn))

theorem dataFlit (h : Keeps s₀ s) {l : LinkId} {raw : List Byte} : Keeps s₀ (Machine.dataFlit l raw s) := by
  unfold Machine.dataFlit
  extract_lets heard f
  have hheard : Keeps s₀ heard := h.modLink
  exact .ite h (.ite h.discardFlit (.ite h (.ite hheard.acceptFlit hheard.discardFlit)))

theorem linkRetrain (h : Keeps s₀ s) {l : LinkId} (x : execLinkRetrain l s = .next t) : Keeps s₀ t := by
  cases x
  exact .ite h (.ite h.retrainStart h.atTime.retrainStart)

theorem retrainEnd (h : Keeps s₀ s) {l : LinkId} {lanes : Byte} : Keeps s₀ (Machine.retrainEnd l lanes s) := by
  unfold Machine.retrainEnd
  dsimp only
  exact .ite h (.ite h.portChange (.ite h.atTime.portChange h.atTime.retrainStart))

theorem portRetry (h : Keeps s₀ s) {l : LinkId} (x : execPortRetry l s = .next t) : Keeps s₀ t := by
  cases x
  exact .ite h h.atTime.retrainStart

theorem takeMsg (h : Keeps s₀ s) {l : LinkId} {cls : Fin 4} {type : Nat} {act : Flit → State → State}
    (hact : ∀ f u, Keeps s₀ u → Keeps s₀ (act f u)) : Keeps s₀ (Machine.takeMsg l cls type act s) := by
  unfold Machine.takeMsg
  split
  · exact h
  · exact hact _ _ h.dropRx

/-! ### Runs and fence messages (R341, R345, R346) -/

theorem runAck (h : Keeps s₀ s) {f : Flit} : Keeps s₀ (Machine.runAck f s) := by
  unfold Machine.runAck
  split
  · exact h.modLinks.memberAck
  · exact .ite h.groupAck h

theorem runRefuse (h : Keeps s₀ s) {f : Flit} : Keeps s₀ (Machine.runRefuse f s) := by
  unfold Machine.runRefuse
  split
  · exact h
  · exact h.denyRun

theorem multicastRun (h : Keeps s₀ s) {l : LinkId} : Keeps s₀ (Machine.multicastRun l s) := by
  unfold Machine.multicastRun
  split
  · exact h
  · split
    · exact h
    next x xs _ =>
      extract_lets f data lastFlit lo dropped
      have hdropped : Keeps s₀ dropped := h.dropRx
      exact .ite (sendMsg (hdropped.setStaging (memStore_wf _ _)).freshWords) hdropped.sendMsg

theorem msgSignal (h : Keeps s₀ s) {f : Flit} : Keeps s₀ (Machine.msgSignal f s) := settle (h.forAll fun _ _ hu => hu.signalRecord)

theorem msgUpdate (h : Keeps s₀ s) {f : Flit} : Keeps s₀ (Machine.msgUpdate f s) := h.setHost.settle

theorem msgSubscribe (h : Keeps s₀ s) {f : Flit} : Keeps s₀ (Machine.msgSubscribe f s) := by
  unfold Machine.msgSubscribe
  dsimp only
  split
  · exact h.sendFence
  · exact .ite h.sendFence h.modFence.sendFence

theorem msgSubReply (h : Keeps s₀ s) {f : Flit} : Keeps s₀ (Machine.msgSubReply f s) := by
  unfold Machine.msgSubReply
  split
  · exact h
  · split
    · exact h
    · exact .ite h.takeFree.setHost.reply h.setHost.reply

theorem dropSubs (h : Keeps s₀ s) {gone : Subscriber → Bool} : Keeps s₀ (Machine.dropSubs gone s) := h.forAll fun _ _ hu => hu.modFence.passFence

/-! ### Memory protection and monitors (chapter 14) -/

theorem setPoison (h : Keeps s₀ s) {m : MemName} {off : Nat} : Keeps s₀ (Machine.setPoison m off s) := h.setSafety
theorem setCorrected (h : Keeps s₀ s) {m : MemName} {off : Nat} {on : Bool} : Keeps s₀ (Machine.setCorrected m off on s) := h.setSafety
theorem countCorr (h : Keeps s₀ s) : Keeps s₀ (Machine.countCorr s) := h.setSafety

theorem uncorrFurther (h : Keeps s₀ s) {m : MemName} {off : Nat} : Keeps s₀ (Machine.uncorrFurther m off s) := by
  unfold Machine.uncorrFurther
  split
  · exact .ite h.tagBank h.tagBank.modCtl
  · exact h.engineClass
  · exact h.engineClass
  · exact h

theorem partState (h : Keeps s₀ s) {p : PartId} : Keeps s₀ (Machine.partState p s) := h.postRecord.partReset

theorem scrubUncorr (h : Keeps s₀ s) {m : MemName} {off : Nat} : Keeps s₀ (Machine.scrubUncorr m off s) := by
  unfold Machine.scrubUncorr
  split
  · exact h.partState
  · extract_lets fresh recorded
    have hrecorded : Keeps s₀ recorded := h.setCorrected.setPoison.postRecord
    exact uncorrFurther (.ite hrecorded.uncorrUnit hrecorded)

theorem scrubVisit (h : Keeps s₀ s) {m : MemName} {off : Nat} {found : EccFinding} : Keeps s₀ (Machine.scrubVisit m off found s) := by
  unfold Machine.scrubVisit
  extract_lets visited
  have hvisited : Keeps s₀ visited := .ite h.finishScrub h
  refine .ite h ?_
  split
  · exact hvisited.setCorrected
  · exact hvisited.setCorrected.countCorr
  · exact hvisited.scrubUncorr

theorem scrubWriteback (h : Keeps s₀ s) {m : MemName} {off : Nat} : Keeps s₀ (Machine.scrubWriteback m off s) :=
  .ite h (.ite h.setCorrected.countCorr.postRecord h.setCorrected.countCorr)

theorem coreAlive (h : Keeps s₀ s) {c : CoreId} : Keeps s₀ (Machine.coreAlive c s) := by
  unfold Machine.coreAlive
  extract_lets later again safety noted posted
  have hnoted : Keeps s₀ noted := h.setTime.setSafety
  have hposted : Keeps s₀ posted := hnoted.postFor
  exact .ite h (.ite hposted.retireCore hposted.stopOthers.ensureReset)

theorem engineFaultOf (h : Keeps s₀ s) {code unit index sub : Nat} : Keeps s₀ (Machine.engineFaultOf code unit index sub s) := h.engineClass

theorem llWatchdogExpiry (h : Keeps s₀ s) (x : execLlWatchdogExpiry s = .next t) : Keeps s₀ t := by
  cases x
  exact .ite h.engineFaultOf h

theorem llLockstepMismatch (h : Keeps s₀ s) (x : execLlLockstepMismatch s = .next t) : Keeps s₀ t := by
  cases x
  exact .ite h.engineFaultOf h

theorem clockMonitorFault (h : Keeps s₀ s) {n : Fin 9} (x : execClockMonitorFault n s = .next t) : Keeps s₀ t := by
  cases x
  exact .ite h h.setSafety.engineFaultOf

theorem sampleSupply (h : Keeps s₀ s) {pins : BitVec 6} : Keeps s₀ (Machine.sampleSupply pins s) := h.setSafety

theorem supplyFault (h : Keeps s₀ s) {rail : Fin 3} {sample : SupplySample} (x : execSupplyFault rail sample s = .next t) : Keeps s₀ t := by
  cases x
  exact .ite h (.ite h.sampleSupply (.ite h.sampleSupply.engineClass h.sampleSupply.engineFaultOf))

theorem pacingExpiry (h : Keeps s₀ s) (x : execPacingExpiry s = .next t) : Keeps s₀ t := by
  cases x
  split
  · exact h
  · exact .ite h h.atTime.engineFaultOf

theorem lampOverdueExpiry (h : Keeps s₀ s) {c : CoreId} {a : ArrId} (x : execLampOverdueExpiry c a s = .next t) : Keeps s₀ t := by
  cases x
  exact .ite h h.atTime.engineFaultOf

theorem ksafeStopWrite (h : Keeps s₀ s) {val : Word} : Keeps s₀ (Machine.ksafeStopWrite val s) := .ite h.setSafety.postRecord h
theorem dualMapWrite (h : Keeps s₀ s) {val : Word} : Keeps s₀ (Machine.dualMapWrite val s) := .ite h h.setSafety

/-! ### Margins (R328 to R331) -/

theorem takeReading (h : Keeps s₀ s) {r : SlackReading} : Keeps s₀ (Machine.takeReading r s) := .ite h h.setSafety

theorem slackWindow (h : Keeps s₀ s) {readings : List SlackReading} : Keeps s₀ (Machine.slackWindow readings s) := by
  unfold Machine.slackWindow
  extract_lets now bad safety taken
  have htaken : Keeps s₀ taken := h.atTime.setSafety.forAll fun _ _ hu => hu.takeReading
  exact .ite h (htaken.forAll fun _ _ hu => hu.engineClass)

theorem plannerEnd (h : Keeps s₀ s) : Keeps s₀ (Machine.plannerEnd s) := h.setSafety

theorem marginStep (h : Keeps s₀ s) {code bin drop mon : Nat} : Keeps s₀ (Machine.marginStep code bin drop mon s) :=
  h.setSafety.postRecord.bumpGen.setGint

theorem vofsAckArrival (h : Keeps s₀ s) (x : execVofsAckArrival s = .next t) : Keeps s₀ t := by
  cases x
  have hacked : Keeps s₀ { s with bnd := { s.bnd with vofsAck := s.bnd.vofsCode }, safety := { s.safety with planStep := none } } := h.of_eq rfl
  split
  · exact hacked.marginStep
  · exact .ite hacked hacked.vofsStep

theorem regulatorLate (h : Keeps s₀ s) : Keeps s₀ { s with bnd := { s.bnd with timedOut := true }, safety := { s.safety with planStep := none } } := h.of_eq rfl

theorem regulatorTimeout (h : Keeps s₀ s) (x : execRegulatorTimeout s = .next t) : Keeps s₀ t := by
  cases x
  have late : Keeps s₀ (Machine.atTime (s.bnd.vofsFrom + us 1000) s) := h.atTime
  exact .ite h late.regulatorLate.postRecord.setGint

theorem plannerRound (h : Keeps s₀ s) : Keeps s₀ (Machine.plannerRound s) := by
  unfold Machine.plannerRound
  dsimp only
  exact .ite h.plannerEnd (.ite (h.of_eq rfl) (.ite h.setTick.marginStep h.setSafety.postRecord.bumpGen.setGint.plannerEnd))

theorem plannerRun (h : Keeps s₀ s) : Keeps s₀ (Machine.plannerRun s) := .ite h (.ite h.plannerRound h.atTime.plannerRound)

theorem binChange (h : Keeps s₀ s) : Keeps s₀ (Machine.binChange s) := by
  unfold Machine.binChange
  split
  · exact h
  · extract_lets cores stopped tick safety changed
    have hstopped : Keeps s₀ stopped := h.forAll fun _ _ hu => .ite hu.snuffNow hu
    have hchanged : Keeps s₀ changed := hstopped.of_eq rfl
    exact .ite h hchanged.bumpGen.recheck

theorem relockDone (h : Keeps s₀ s) : Keeps s₀ (Machine.relockDone s) := by
  unfold Machine.relockDone
  split
  · exact h
  · exact h.setTick.atTime.forAll fun _ _ hu => .ite hu hu.restartCore

theorem mbMarginReport (h : Keeps s₀ s) {m : MboxId} {p : PartId} {b : List Byte} : Keeps s₀ (Machine.mbMarginReport m p b s) := h.reply

theorem memoryErrorResponse (h : Keeps s₀ s) {src : MemSource} (x : execMemoryErrorResponse src s = .next t) : Keeps s₀ t := by
  cases x
  split
  · exact h.dxPortError.flushOwed
  · exact h.setHost
  · exact h.of_eq rfl
  · exact .ite h.loadFail h

/-! ### Enumeration and membership (R342 to R352) -/

theorem loseChan (h : Keeps s₀ s) {lost : Word} {c : CoreId} {ch : ChanId} : Keeps s₀ (Machine.loseChan lost c ch s) := by
  unfold Machine.loseChan
  split
  · exact h
  · split
    · exact h
    · exact dxOwnHalt (modDxRun (.ite h.haloNote h))

theorem loseCore (h : Keeps s₀ s) {lost : Word} {c : CoreId} : Keeps s₀ (Machine.loseCore lost c s) :=
  h.modCore.haloLostWaits.forAll fun _ _ hu => hu.loseChan

theorem dropParts (h : Keeps s₀ s) {lost : Word} : Keeps s₀ (Machine.dropParts lost s) := h.forAll fun _ _ hu => hu.dropRx

theorem loseEngines (h : Keeps s₀ s) {lost : Word} : Keeps s₀ (Machine.loseEngines lost s) := by
  unfold Machine.loseEngines
  extract_lets halted gone forgotten cancelled host marked
  have hhalted : Keeps s₀ halted := h.forAll fun _ _ hu => hu.loseCore
  have hcancelled : Keeps s₀ cancelled := hhalted.modLinks.dropParts.cancelProxies
  have hmarked : Keeps s₀ marked := hcancelled.setHost
  exact hmarked.dropSubs.settle.groupAck

theorem adoptMembers (h : Keeps s₀ s) {m : Membership} : Keeps s₀ (Machine.adoptMembers m s) := by
  unfold Machine.adoptMembers
  extract_lets own old joined addr known found routed late tick ticked
  have hknown : Keeps s₀ known := h.modLinks
  have hfound : Keeps s₀ found := hknown.mapCores
  have hrouted : Keeps s₀ routed := hfound.loseEngines.reroute
  have hticked : Keeps s₀ ticked := hrouted.setTick
  exact hticked.bumpGen.setGint.postRecord

theorem passJoins (h : Keeps s₀ s) {low : Nat} : Keeps s₀ (Machine.passJoins low s) := .ite h (h.modLinks.forAll fun _ _ hu => hu.sendMsg)

theorem takeMembers (h : Keeps s₀ s) {l : LinkId} {f : Flit} : Keeps s₀ (Machine.takeMembers l f s) := by
  unfold Machine.takeMembers
  extract_lets m groupsOnly sent passed
  have hpassed : Keeps s₀ passed := h.adoptMembers.sendMembers.passJoins
  exact .ite h (.ite hpassed.sendMsg hpassed)

theorem takeProbe (h : Keeps s₀ s) {l : LinkId} {f : Flit} : Keeps s₀ (Machine.takeProbe l f s) := .ite h.sendOn h.sendMsg

theorem enumFail (h : Keeps s₀ s) {result engine port reached : Nat} : Keeps s₀ (Machine.enumFail result engine port reached s) := by
  unfold Machine.enumFail
  split
  · exact h
  · dsimp only
    split
    · exact h.modLinks.reroute.reply
    · exact h.modLinks.reroute

theorem enumDone (h : Keeps s₀ s) {e : EnumRun} : Keeps s₀ (Machine.enumDone e s) := by
  unfold Machine.enumDone
  dsimp only
  split
  · exact h.adoptMembers.sendMembers.modLinks.reply
  · exact h.adoptMembers.sendMembers

theorem enumMeasure (h : Keeps s₀ s) {e : EnumRun} : Keeps s₀ (Machine.enumMeasure e s) := h.modLinks.forAll fun _ _ hu => hu.sendMsg

theorem probeReply (h : Keeps s₀ s) {f : Flit} : Keeps s₀ (Machine.probeReply f s) := by
  unfold Machine.probeReply
  extract_lets n measured tick compensated
  have hmeasured : Keeps s₀ measured := h.modLinks
  have hcompensated : Keeps s₀ compensated := .ite hmeasured.setTick hmeasured
  split
  · exact .ite hcompensated (.ite hcompensated.modLinks.enumDone hcompensated.modLinks)
  · exact hcompensated

theorem tokenAnswer (h : Keeps s₀ s) {l : LinkId} {next result : Nat} : Keeps s₀ (Machine.tokenAnswer l next result s) := h.sendToken

theorem countDone (h : Keeps s₀ s) {e : EnumRun} {next : Nat} : Keeps s₀ (Machine.countDone e next s) :=
  .ite h.enumFail (.ite h.modLinks.sendToken h.enumMeasure)

theorem tokenHome (h : Keeps s₀ s) {l : LinkId} {e : EnumRun} {next phase : Nat} {f : Flit} : Keeps s₀ (Machine.tokenHome l e next phase f s) := by
  unfold Machine.tokenHome
  extract_lets e' home
  have hhome : Keeps s₀ home := h.modLinks
  exact .ite hhome.enumFail (.ite (.ite hhome.enumMeasure hhome.enumFail) (.ite hhome.enumFail
    (.ite (.ite hhome.sendToken (.ite hhome.countDone hhome.enumFail)) (.ite hhome.countDone hhome.enumFail))))

theorem takeAddress (h : Keeps s₀ s) {l : LinkId} {next : Nat} {starter : Bool} : Keeps s₀ (Machine.takeAddress l next starter s) :=
  h.modLinks.sendToken

theorem tokenOther (h : Keeps s₀ s) {l : LinkId} {next phase : Nat} {f : Flit} : Keeps s₀ (Machine.tokenOther l next phase f s) := by
  unfold Machine.tokenOther
  split
  · exact .ite h (.ite h.tokenAnswer (.ite h.takeAddress (.ite h.takeAddress h.tokenAnswer)))
  · exact .ite h.enumFail.sendToken (.ite (.ite h.sendToken h.tokenAnswer) (.ite h.modLinks.sendToken h.tokenAnswer))

theorem takeToken (h : Keeps s₀ s) {l : LinkId} {f : Flit} : Keeps s₀ (Machine.takeToken l f s) := by
  unfold Machine.takeToken
  split
  · exact .ite h.tokenHome h.tokenOther
  · exact h.tokenOther

theorem enumTokenTimeout (h : Keeps s₀ s) (x : execEnumTokenTimeout s = .next t) : Keeps s₀ t := by
  cases x
  split
  · exact h
  · exact h.atTime.enumFail

theorem admitJoins (h : Keeps s₀ s) {n : Nat} : Keeps s₀ (Machine.admitJoins n s) := by
  induction n generalizing s with
  | zero => exact h
  | succ n ih =>
    unfold Machine.admitJoins
    split
    · exact h
    · exact .ite h (.ite (ih h.modLinks) (ih h.modLinks.adoptMembers.sendMembers))

theorem takeJoin (h : Keeps s₀ s) {l : LinkId} {f : Flit} : Keeps s₀ (Machine.takeJoin l f s) := by
  unfold Machine.takeJoin
  dsimp only
  exact .ite h.sendOn (.ite h (.ite h.sendTo h.modLinks.admitJoins))

theorem joinTimeout (h : Keeps s₀ s) (x : execJoinTimeout s = .next t) : Keeps s₀ t := by
  cases x
  split
  · exact h
  · exact h.atTime.modLinks.postRecord

theorem heartbeatSend (h : Keeps s₀ s) (x : execHeartbeatSend s = .next t) : Keeps s₀ t := by
  cases x
  exact h.atTime.modLinks.forAll fun _ _ hu => hu.modLink

theorem heartbeatLoss (h : Keeps s₀ s) {e : BitVec 5} (x : execHeartbeatLoss e s = .next t) : Keeps s₀ t := by
  cases x
  split
  · exact h
  · exact .ite h h.atTime.modLinks

theorem settleEnd (h : Keeps s₀ s) : Keeps s₀ (Machine.settleEnd s) := by
  unfold Machine.settleEnd
  split
  · exact h
  · extract_lets ended held m sent
    have hended : Keeps s₀ ended := h.atTime.modLinks
    exact .ite hended (.ite hended.engineClass (.ite hended.passJoins hended.adoptMembers.sendMembers.admitJoins))

theorem linkTickMarker (h : Keeps s₀ s) {l : LinkId} {at_ : Nat} {count : Word} (x : execLinkTickMarker l at_ count s = .next t) : Keeps s₀ t := by
  cases x
  have hsent : Keeps s₀ (Machine.forAll (markerPorts (Machine.atTime at_ s)) (Machine.sendControl (some count))
      (Machine.modLinks (fun k => { k with tickFwd := count }) (Machine.atTime at_ s))) := h.atTime.modLinks.forAll fun _ _ hu => hu.sendControl
  exact .ite h (.ite hsent hsent.modLinks)

theorem linkTickDue (h : Keeps s₀ s) (x : execLinkTickDue s = .next t) : Keeps s₀ t := by
  cases x
  split
  · exact h
  · exact .ite h.modLinks.atTime (.ite h.modLinks.atTime.setTick h.modLinks.atTime.lockTick)

end Keeps

end Sys2Proof.Machine
end

section
-- One declaration after another: fewer threads, so that the check of the whole text keeps within its memory.
set_option Elab.async false
/-! PROOFS. MB_PARTITION_CONFIG and the writes of the register window keep the invariants of every step (R11, R13, R264). -/
namespace Sys2Proof.Machine
open Sys2Proof

/-! ### A core's new allocation (R130, R234) -/

theorem zeroSlot_mem_wf {n : Nat} {k : Core} (h : k.mem.wf) : (zeroSlot n k).mem.wf := by
  refine CoreMem.wf.setAcc h fun hacc => ?_
  generalize slotRanges n = ranges
  generalize k.mem.acc = m at hacc
  induction ranges generalizing m with
  | nil => exact hacc
  | cons r rs ih => exact ih _ (memZero_wf _ _ hacc)

theorem zeroSet_mem_wf {n : SetId} {k : Core} (h : k.mem.wf) : (zeroSet n k).mem.wf :=
  foldl_mem_wf (fun j e hj => by rwa [Keeps.modSet_mem]) h

theorem giveAlloc_mem_wf {p : PartId} {want : Alloc} {k : Core} (h : k.mem.wf) : (giveAlloc p want k).mem.wf := by
  unfold giveAlloc
  extract_lets accs toks sets slotted counted emptied
  have hslotted : slotted.mem.wf := foldl_mem_wf (fun j i hj => zeroSlot_mem_wf (n := i.val) hj) h
  have hcounted : counted.mem.wf := by
    refine foldl_mem_wf (fun j i hj => ?_) hslotted
    exact hj
  have hemptied : emptied.mem.wf := by
    refine foldl_mem_wf (fun j i hj => ?_) hcounted
    exact zeroSet_mem_wf (n := i) hj
  exact hemptied

namespace Keeps
variable {s₀ s t : State}

/-- Requests that wait at a mailbox are dropped. -/
theorem filterSent (h : Keeps s₀ s) {f : MboxId → Bool} :
    Keeps s₀ { s with host := { s.host with sent := s.host.sent.filter f } } :=
  ⟨⟨h.mem, h.pins⟩, fun hs => by simp [h.idle hs]⟩

theorem scrubPart (h : Keeps s₀ s) {p : PartId} {b : List Byte} : Keeps s₀ (Machine.scrubPart p b s) := by
  unfold Machine.scrubPart
  extract_lets cleared part scrubbed
  have hscrubbed : Keeps s₀ scrubbed := h.clearTags.modPart
  exact hscrubbed.filterSent.clearTags

theorem assignStaging (h : Keeps s₀ s) {p : PartId} {b : List Byte} {r : Fin 16} : Keeps s₀ (Machine.setStaging p b r s) :=
  .ite h.giveStaging (.ite h.freeResource h)

theorem configure (h : Keeps s₀ s) {p : PartId} {b : List Byte} : Keeps s₀ (Machine.configure p b s) := by
  unfold Machine.configure
  extract_lets old scrubbed named staged given
  have hscrubbed : Keeps s₀ scrubbed := .ite h h.scrubPart
  have hstaged : Keeps s₀ staged := hscrubbed.modPart.forAll fun _ _ hu => hu.assignStaging
  have hgiven : Keeps s₀ given := hstaged.forAll fun c u hu => by
    extract_lets slots next
    have hnext : Keeps s₀ next := freshWords (hu.modCore fun _ hk => giveAlloc_mem_wf hk)
    exact .ite hnext hnext.progress
  exact .ite hgiven.dropClaims hgiven

theorem mbPartitionConfig (h : Keeps s₀ s) {m : MboxId} {p : PartId} {b : List Byte} : Keeps s₀ (Machine.mbPartitionConfig m p b s) :=
  .ite h.reply h.configure.reply

/-! ### Registers that are not a mailbox's -/

theorem clearRecord_mem {e : EngId} {n : SetId} {k : Core} : (clearRecord e n k).mem = k.mem := by
  unfold clearRecord
  extract_lets vec
  split
  · split <;> rfl
  · rfl
  · rfl
  · rfl
  · split <;> rfl

theorem setWrite (h : Keeps s₀ s) {c : CoreId} {e : EngId} {n : SetId} {i : Nat} {val : Word} : Keeps s₀ (Machine.setWrite c e n i val s) :=
  .ite (h.modCore fun k hk => by rwa [clearRecord_mem, modSet_mem]) h

theorem coreSetWrite (h : Keeps s₀ s) {c : CoreId} {o : Nat} {val : Word} : Keeps s₀ (Machine.coreSetWrite c o val s) := by
  unfold Machine.coreSetWrite
  split
  · exact h.setWrite
  · exact h

theorem writeStream (h : Keeps s₀ s) {secure : Bool} {n : StreamId} {o : Nat} {val : Word} :
    Keeps s₀ (match o with | 0 => Machine.writeStreamCtrl secure n val s | 4 => Machine.writeStreamRing n val s | _ => s) := by
  split
  · exact h.writeStreamCtrl
  · exact h.writeStreamRing
  · exact h

theorem writeLow (h : Keeps s₀ s) {secure : Bool} {o : Nat} {val : Word} : Keeps s₀ (Machine.writeLow secure o val s) :=
  .ite h.setBnd <| .ite h.setBnd <| .ite h.writeStream <| .ite h.setBnd.refreshWarn <| .ite h.setSg <| .ite h.setSg <| .ite h.writeMpqLock h

theorem writeSafety (h : Keeps s₀ s) {o : Nat} {val : Word} : Keeps s₀ (Machine.writeSafety o val s) :=
  .ite h.ksafeStopWrite <| .ite h.dualMapWrite <| .ite h.setSafety <| .ite h.setSafety h

theorem writeFabric (h : Keeps s₀ s) {secure : Bool} {o : Nat} {val : Word} : Keeps s₀ (Machine.writeFabric secure o val s) :=
  .ite h.modFabric <| .ite h.cfgCmdWrite <| .ite h.modFabric <| .ite h.cfgDataPush <| .ite h.uclkWrite <| .ite h.kioWrite <| .ite h.timerWrite h

theorem writeCore (h : Keeps s₀ s) {c : CoreId} {o : Nat} {val : Word} : Keeps s₀ (Machine.writeCore c o val s) := by
  unfold Machine.writeCore
  refine .ite h.writeCoreCtrl (.ite (.ite h.setTok h) (.ite ?_ (.ite h.modCore h.coreSetWrite)))
  dsimp only
  split
  · exact h.writeHbWindow
  · exact h.writeHbWindow
  · exact h.writeHbWindow
  · exact h

end Keeps
end Sys2Proof.Machine
end

section
-- One declaration after another: fewer threads, so that the check of the whole text keeps within its memory.
set_option Elab.async false
/-! PROOFS. Writes of the whole register window, with the mailbox's SEND among them (R11 to R13, R265), and what the engine does in an idle cycle. -/
namespace Sys2Proof.Machine
open Sys2Proof

/-! ### Steps that may bring a mailbox request -/

namespace KeepsSound
variable {s t u : State}

theorem refl (s : State) : KeepsSound s s := (Keeps.refl s).toKeepsSound

theorem trans (h : KeepsSound s t) (g : KeepsSound t u) : KeepsSound s u := ⟨fun hs => g.mem (h.mem hs), fun hs => g.pins (h.pins hs)⟩

theorem ite {c : Prop} [Decidable c] (hs : KeepsSound s t) (ht : KeepsSound s u) : KeepsSound s (if c then t else u) := by
  split
  · exact hs
  · exact ht

theorem access {acc : Access} {off : Nat} {write : Bool} {f : State → State} (hf : KeepsSound s (f s)) :
    KeepsSound s (Machine.access acc off write f s) :=
  .ite (Keeps.refl s).refuseAccess.toKeepsSound (.ite hf (.ite (refl s) (Keeps.refl s).setBusData.toKeepsSound))

theorem sendAdded {l : List MboxId} : KeepsSound s { s with host := { s.host with sent := l } } := ⟨id, id⟩

theorem mbSendWrite {m : MboxId} {val : Word} : KeepsSound s (Machine.mbSendWrite m val s) := by
  have hmb {f : Mailbox → Mailbox} : Keeps s (modMb m f s) := (Keeps.refl s).modMb
  exact .ite (refl s) (.ite hmb.toKeepsSound ((hmb.toKeepsSound.trans sendAdded).trans (Keeps.refl _).drain.toKeepsSound))

theorem writeMailbox {m : MboxId} {o : Nat} {val : Word} : KeepsSound s (Machine.writeMailbox m o val s) :=
  have r := Keeps.refl s
  .ite (Keeps.ite r r.modMb).toKeepsSound (.ite mbSendWrite (.ite (Keeps.ite r.mbAckWrite r).toKeepsSound (refl s)))

theorem writeHigh {o : Nat} {val : Word} : KeepsSound s (Machine.writeHigh o val s) :=
  have r := Keeps.refl s
  .ite r.bootReleaseWrite.toKeepsSound <| .ite r.resetWrite.toKeepsSound <| .ite r.partResetWrite.toKeepsSound <|
  .ite r.regionResetWrite.toKeepsSound <| .ite r.worldReqWrite.toKeepsSound <| .ite r.modBoot.toKeepsSound <| .ite r.modBoot.toKeepsSound <|
  .ite writeMailbox <| .ite r.setHost.toKeepsSound <| .ite r.setHost.toKeepsSound (refl s)

theorem writePage {p : PartId} {o : Nat} {val : Word} : KeepsSound s (Machine.writePage p o val s) := by
  have r := Keeps.refl s
  have hpart {f : Partition → Partition} : Keeps s (modPart p f s) := r.modPart
  unfold Machine.writePage
  extract_lets hold
  have hhold {f : Partition → Partition} : Keeps s (hold f) := .ite r hpart
  refine .ite writeMailbox (Keeps.toKeepsSound ?_)
  exact .ite hpart <| .ite hpart <| .ite r.doorbellWrite <| .ite hpart <| .ite hhold <| .ite hhold <| .ite r.frCtrlWrite <|
    .ite r.frTailWrite <| .ite hpart <| .ite hpart <| .ite hpart <| .ite r.fencePortSignal <| .ite hpart <| .ite r.tlbInvWrite <|
    .ite hpart <| .ite hpart r

theorem writeReg {secure : Bool} {off : Nat} {val : Word} : KeepsSound s (Machine.writeReg secure off val s) :=
  have r := Keeps.refl s
  .ite r.writeLow.toKeepsSound <| .ite writeHigh <| .ite writePage <| .ite r.writeSafety.toKeepsSound <| .ite r.writeFabric.toKeepsSound <|
  .ite r.writeCore.toKeepsSound <| .ite r.apertureWrite.toKeepsSound (refl s)

theorem write32 {acc : Access} {off : Nat} {val : Word} : KeepsSound s (Machine.write32 acc off val s) := access writeReg

theorem windowWrite {acc : Access} {off : Nat} {size : AccSize} {val : Dword} : KeepsSound s (Machine.windowWrite acc off size val s) := by
  refine .ite (Keeps.refl s).refuseAccess.toKeepsSound ?_
  split
  · exact .ite write32 (refl s)
  · exact .ite (write32.trans write32) (refl s)
  · exact refl s

end KeepsSound

/-! ### The idle cycle (log 1) -/

namespace Keeps
variable {s₀ s t : State}

theorem fabricTick (h : Keeps s₀ s) {n : Nat} : Keeps s₀ (Machine.fabricTick n s) := by
  unfold Machine.fabricTick
  extract_lets edged ports
  have hedged : Keeps s₀ edged := h.atTime.forAll fun _ _ hu => hu.regionEdge
  exact hedged.forAll fun _ _ hu => hu.fxEdge

theorem runFabric (h : Keeps s₀ s) {n : Nat} : Keeps s₀ (Machine.runFabric n s) := by
  unfold Machine.runFabric
  extract_lets zs ticked
  have hticked : Keeps s₀ ticked := h.forAll fun _ _ hu => hu.fabricTick
  exact (hticked.forAll fun _ _ hu => hu.modRegion).forAll fun _ _ hu => hu.fxSend

theorem runScan (h : Keeps s₀ s) {n : Nat} : Keeps s₀ (Machine.runScan n s) := h.scanOn.forAll fun _ _ hu => .ite hu.scanFails hu

theorem idleCore (h : Keeps s₀ s) {c : CoreId} : Keeps s₀ (Machine.idleCore c s) := h.coreCycle.countCredit

theorem idleStep (h : Keeps s₀ s) : Keeps s₀ (Machine.idleStep s) := by
  unfold Machine.idleStep
  extract_lets cycled learned controlled n
  have hcycled : Keeps s₀ cycled := (h.forAll fun _ _ hu => hu.idleCore).stallCycle.throttleDue
  have hlearned : Keeps s₀ learned := hcycled.flushRefused.learnPorts.forAll fun _ _ hu => hu.pump
  have hcontrolled : Keeps s₀ controlled := hlearned.forAll fun _ _ hu => hu.sendControl
  exact hcontrolled.runFabric.runScan.atTime

end Keeps
end Sys2Proof.Machine
end

section
-- One declaration after another: fewer threads, so that the check of the whole text keeps within its memory.
set_option Elab.async false
/-! PROOFS. Every command keeps the invariants of every step, and so does the step itself (R28, R318). -/
namespace Sys2Proof.Machine
open Sys2Proof

namespace Keeps
variable {s₀ s t : State}

/-! ### Commands that choose among the shared operations -/

theorem accReadRelease (h : Keeps s₀ s) {c : CoreId} {unit : ReadUnit} (e : execAccReadRelease c unit s = .next t) : Keeps s₀ t := by
  cases e
  cases unit with
  | vx => exact h.modCore
  | wx => exact h
  | dx ch => exact h.dxReadRelease

theorem haloCreditGrant (h : Keeps s₀ s) {c : CoreId} {path : HaloPath} {v : Byte} (e : execHaloCreditGrant c path v s = .next t) :
    Keeps s₀ t := by
  cases e
  split
  · exact .ite h.takeGrant h
  · split
    · exact h.takeGrant.haloMsgDone
    · exact h

theorem haloCreditReturn (h : Keeps s₀ s) {c : CoreId} {path : HaloPath} (e : execHaloCreditReturn c path s = .next t) : Keeps s₀ t := by
  cases e
  split
  · exact .ite h.takeReturn h
  · split
    · exact h.takeReturn.haloMsgDone
    · exact h

theorem runsLeft (h : Keeps s₀ s) {l : List HaloRun} : Keeps s₀ { s with haloRuns := l } := h.of_eq rfl

theorem haloRunArrival (h : Keeps s₀ s) {c : CoreId} {path : HaloPath} (e : execHaloRunArrival c path s = .next t) : Keeps s₀ t := by
  cases e
  split
  · exact h
  · exact h.runsLeft.haloArrive.haloAck

theorem haloRelease (h : Keeps s₀ s) {c : CoreId} {k : HaloId} (e : execHaloRelease c k s = .next t) : Keeps s₀ t := by
  cases e
  split
  · exact .ite h.decTok.modHb.hbTell h
  · exact h

theorem haloTimeout (h : Keeps s₀ s) {c : CoreId} {unit : HaloWaiter} (e : execHaloTimeout c unit s = .next t) : Keeps s₀ t := by
  cases e
  refine .ite h ?_
  split
  · split
    · split
      · exact .ite h h.atTime.haloExpire
      · exact h
    · exact h
  · split
    · exact h.atTime.haloExpire
    · exact h

theorem ctlHaloRegWrite (h : Keeps s₀ s) {c : CoreId} {k : HaloId} {r : HaloReg} {val : Word}
    (e : execCtlHaloRegWrite c k r val s = .next t) : Keeps s₀ t := by
  cases e
  refine .ite h ?_
  cases r with
  | ctrl => exact h.writeHbCtrl
  | win => exact h.writeHbWin
  | seq => exact h.writeHbSeq

theorem tlbInvalidateDone (h : Keeps s₀ s) {p : PartId} (e : execTlbInvalidateDone p s = .next t) : Keeps s₀ t := by
  cases e
  split
  · exact h
  · exact h.setHost

/-- The state that an outcome names. -/
theorem next {u : State} (e : (Host.Outcome.next u : Host.Outcome State Fault Refusal) = .next t) (h : Keeps s u) : KeepsSound s t := by
  cases e
  exact h.toKeepsSound

end Keeps

theorem KeepsSound.next {s t u : State} (e : (Host.Outcome.next u : Host.Outcome State Fault Refusal) = .next t) (h : KeepsSound s u) :
    KeepsSound s t := by
  cases e
  exact h

/-! ### A step -/

open Keeps (next) in
/-- Every command, by the operation that it is. -/
theorem exec_keeps {i : Instr} {s t : State} (e : exec i s = .next t) : KeepsSound s t := by
  have r := Keeps.refl s
  cases i with
  | registerWrite _ _ _ _ => exact KeepsSound.next e KeepsSound.windowWrite
  | gintStatusClear _ _ => exact next e (r.access r.setBnd)
  | ptIntStatusClear _ _ _ => exact next e (r.access r.modPart)
  | smIntStatusClear _ _ => exact next e (r.access r.setHost)
  | sfIntStatusClear _ _ => exact next e (r.access r.setSafety)
  | streamCtrlWrite _ _ _ => exact next e (r.access r.writeStreamCtrl)
  | streamRingWrite _ _ _ => exact next e (r.access r.writeStreamRing)
  | streamLineArrival _ _ _ => exact (r.streamLineArrival e).toKeepsSound
  | streamDropRead _ _ => exact next e (r.rcRead fun _ => r.setBusData.modPort)
  | stemLineAvailable _ => exact next e r.modPort
  | vofsAckArrival => exact (r.vofsAckArrival e).toKeepsSound
  | regulatorTimeout => exact (r.regulatorTimeout e).toKeepsSound
  | throttleLevelChange _ => exact next e r.setBnd.throttleDue
  | tempUpdate _ => exact next e r.setBnd.refreshWarn
  | ktickEdge _ => exact (r.ktickEdge e).toKeepsSound
  | memoryErrorResponse _ => exact (r.memoryErrorResponse e).toKeepsSound
  | curveWriteRelease _ => exact next e r.curveWriteRelease
  | configSetWrite _ _ _ => exact next e (r.access (.ite r.coreSetWrite r))
  | mxCommandStart _ => exact next e r.mxCommandStart
  | mxPassFormation _ => exact next e r.mxPassFormation
  | mxPassStart _ => exact next e r.mxPassStart
  | mxCommandComplete _ => exact next e r.mxCommandComplete
  | mxSnuffComplete _ => exact next e r.mxSnuffComplete
  | mxSnuffTimeout _ => exact next e r.mxSnuffTimeout
  | arrayFault _ _ => exact next e r.arrayFault.wordMet
  | arrayReplayDone _ => exact next e r.arrayReplayDone
  | mxOutputReadFault _ => exact next e r.mxOutputReadFault.wordMet
  | accReadRelease _ _ => exact (r.accReadRelease e).toKeepsSound
  | satCountRead _ _ => exact next e r.coreRc
  | rowsIssuedRead _ _ => exact next e r.coreRc
  | zeroCellsRead _ _ => exact next e r.coreRc
  | stallFeedRead _ _ => exact next e r.coreRc
  | stallDrainRead _ _ => exact next e r.coreRc
  | stallLoadRead _ _ => exact next e r.coreRc
  | frozenRead _ _ => exact next e r.coreRc
  | throttledRead _ _ => exact next e r.coreRc
  | swapWaitRead _ _ => exact next e r.coreRc
  | stallMapRead _ _ => exact next e r.coreRc
  | replaysRead _ _ => exact next e r.coreRc
  | stemSkipRead _ _ => exact next e r.coreRc
  | stemWaitRead _ _ => exact next e r.coreRc
  | vxCommandStart _ => exact next e r.vecStart
  | vxCommandComplete _ => exact next e r.vecComplete
  | wxCommandStart _ => exact next e r.vecStart
  | wxCommandComplete _ => exact next e r.vecComplete
  | vxwxSnuffComplete _ _ => exact next e r.vecSnuffComplete
  | engineFault _ _ => exact next e r.engineFault.wordMet
  | vxElemsRead _ _ => exact next e r.coreRc
  | wxElemsRead _ _ => exact next e r.coreRc
  | dxCommandStart _ _ => exact next e r.dxCommandStart
  | dxTransferIssue _ _ => exact next e r.dxTransferIssue
  | dxTransferAck _ _ _ => exact next e r.dxTransferAck.flushOwed
  | dxCommandComplete _ _ => exact next e r.dxCommandComplete
  | dxSnuffComplete _ _ => exact next e r.dxSnuffComplete
  | dxFault _ _ _ => exact next e r.dxFaultFound.wordMet
  | mportCapWindow => exact next e r.mportCapWindow
  | mpqLockSet _ _ => exact next e (r.access r.writeMpqLock)
  | bytesExtRead _ _ => exact next e r.coreRc
  | xfersRead _ _ => exact next e r.coreRc
  | creditWaitRead _ _ => exact next e r.coreRc
  | mpBytesRead _ _ => exact next e (r.rcRead fun _ => r.setBusData.setSg)
  | hbCtrlWrite _ _ _ _ => exact next e (r.access r.writeHbWindow)
  | haloCreditGrant _ _ _ => exact (r.haloCreditGrant e).toKeepsSound
  | haloRunArrival _ _ => exact (r.haloRunArrival e).toKeepsSound
  | haloRelease _ _ => exact (r.haloRelease e).toKeepsSound
  | haloCreditReturn _ _ => exact (r.haloCreditReturn e).toKeepsSound
  | haloTimeout _ _ => exact (r.haloTimeout e).toKeepsSound
  | haloDropRead _ _ => exact next e r.coreRc
  | queueWordPush _ _ _ _ _ => exact (r.queueWordPush e).toKeepsSound
  | packetAbort _ _ => exact next e (.ite r.modQ r)
  | ctlTokenWrite _ _ _ => exact (r.ctlTokenWrite e).toKeepsSound
  | ctlHaloRegWrite _ _ _ _ => exact (r.ctlHaloRegWrite e).toKeepsSound
  | ctlRead _ _ => exact (r.ctlRead e).toKeepsSound
  | ctlBranch _ _ => exact (r.ctlBranch e).toKeepsSound
  | ctlWait _ _ => exact (r.ctlWait e).toKeepsSound
  | ctlWaitSatisfied _ => exact (r.ctlWaitSatisfied e).toKeepsSound
  | ctlProgramEnd _ _ => exact (r.ctlProgramEnd e).toKeepsSound
  | ctlLockstepMismatch _ _ => exact (r.ctlLockstepMismatch e).toKeepsSound
  | bankSwitchPoint _ _ _ => exact (r.bankSwitchPoint e).toKeepsSound
  | bankSwitch _ => exact (r.bankSwitch e).toKeepsSound
  | imemWrite _ _ _ _ => exact (r.imemWrite e).toKeepsSound
  | bankReady _ => exact next e (.ite r r.bankReady)
  | packetTake _ _ _ => exact next e r.packetTake
  | queuePointerMismatch _ _ _ _ _ => exact (r.queuePointerMismatch e).toKeepsSound
  | stallMonitorExpiry _ => exact next e r.stallExpiry
  | haltComplete _ => exact next e r.haltComplete
  | coreRestart _ _ => exact next e (r.access r.writeCoreCtrl)
  | coreReset _ _ => exact next e (r.access r.writeCoreCtrl)
  | haltReq _ _ => exact next e (r.access r.writeCoreCtrl)
  | coreRecoveryReset _ _ => exact next e r.coreRecovery
  | queueCntRead _ _ _ => exact next e r.coreRc
  | mbAck _ _ => exact next e (r.access r.mbAckWrite)
  | mbCapsRead => exact next e (r.serve fun _ _ _ _ hu => hu.mbCapsRead)
  | mbPartitionConfig => exact next e (r.serve fun _ _ _ _ hu => hu.mbPartitionConfig)
  | mbQueueCreate => exact next e (r.serve fun _ _ _ _ hu => hu.mbQueueCreate)
  | mbQueueDestroy => exact next e (r.serve fun _ _ _ _ hu => hu.mbQueueDestroy)
  | mbAsidAttach => exact next e (r.serve fun _ _ _ _ hu => hu.mbAsidAttach)
  | mbAsidRevoke => exact next e (r.serve fun _ _ _ _ hu => hu.mbAsidRevoke)
  | mbProgramLoad => exact next e (r.serve fun _ _ _ _ hu => hu.mbProgramLoad)
  | packageVerifyEnd => exact (r.packageVerifyEnd e).toKeepsSound
  | mbProgramUnload => exact next e (r.serve fun _ _ _ _ hu => hu.mbProgramUnload)
  | fenceRegister => exact next e (r.serve fun _ _ _ _ hu => hu.fenceRegister)
  | fenceRelease => exact next e (r.serve fun _ _ _ _ hu => hu.fenceRelease)
  | fenceClearError => exact next e (r.serve fun _ _ _ _ hu => hu.fenceClearError)
  | fenceRegisterProxy => exact next e (r.serve fun _ _ _ _ hu => hu.fenceRegisterProxy)
  | mbTickConfig => exact next e (r.serve fun _ _ _ _ hu => hu.mbTickConfig)
  | mbCandleTable => exact next e (r.serve fun _ _ _ _ hu => hu.mbCandleTable)
  | fabricLoad => exact next e (r.serve fun _ _ _ _ hu => hu.fabricLoad)
  | fabricUnload => exact next e (r.serve fun _ _ _ _ hu => hu.fabricUnload)
  | fabricLoadAbort => exact next e (r.serve fun _ _ _ _ hu => hu.fabricAbort)
  | linkEnumerate => exact next e (r.serve fun _ _ _ _ hu => hu.linkEnumerate)
  | linkSetGroup => exact next e (r.serve fun _ _ _ _ hu => hu.linkSetGroup)
  | mbMarginReport => exact next e (r.serve fun _ _ _ _ hu => hu.mbMarginReport)
  | resourceClaim => exact next e (r.serve fun _ _ _ _ hu => hu.resourceClaim)
  | resourceRelease => exact next e (r.serve fun _ _ _ _ hu => hu.resourceRelease)
  | resourceQuery => exact next e (r.serve fun _ _ _ _ hu => hu.resourceQuery)
  | mbWarmRestart => exact next e (r.serve fun _ _ _ _ hu => hu.mbWarmRestart)
  | doorbell _ _ _ => exact next e (r.access r.doorbellWrite)
  | dbRejectRead _ _ => exact next e r.pageRc
  | jobAdmission _ => exact next e r.jobAdmission
  | jobPull _ _ => exact next e r.jobPull
  | jobEnd _ => exact next e r.jobEnd
  | fencePortSignal _ _ _ => exact next e (r.access r.fencePortSignal)
  | fenceIoError _ => exact (r.fenceIoError e).toKeepsSound
  | fenceStaleRead _ _ => exact next e r.pageRc
  | fsigRejectRead _ _ => exact next e r.pageRc
  | tlbInvalidate _ _ _ => exact next e (r.access r.tlbInvWrite)
  | tlbInvalidateDone _ => exact (r.tlbInvalidateDone e).toKeepsSound
  | faultRingEnable _ _ _ => exact next e (r.access r.frCtrlWrite)
  | faultRingTailWrite _ _ _ => exact next e (r.access r.frTailWrite)
  | frLostRead _ _ => exact next e r.pageRc
  | tickSourceEvent => exact next e r.tickSourceEvent
  | tickTimerExpiry => exact (r.tickTimerExpiry e).toKeepsSound
  | tickWatchdogExpiry => exact (r.tickWatchdogExpiry e).toKeepsSound
  | holdoverTick => exact (r.holdoverTick e).toKeepsSound
  | earlyRead _ => exact next e (r.rcRead fun _ => r.setBusData.setTick)
  | synthRead _ => exact next e (r.rcRead fun _ => r.setBusData.setTick)
  | guttersRead _ => exact next e (r.rcRead fun _ => r.setBusData.setTick)
  | candleStart _ => exact next e r.candleStart
  | preemptRestart _ => exact next e r.preemptRestart
  | candleGutter _ => exact next e r.candleGutter
  | handover _ => exact (r.handover e).toKeepsSound
  | lampSubtimerExpiry => exact (r.lampSubtimerExpiry e).toKeepsSound
  | lampTestStart _ => exact next e r.lampTestStart
  | lampDeferExpiry _ => exact (r.lampDeferExpiry e).toKeepsSound
  | lampVerdict _ _ => exact next e r.lampVerdict
  | arrayWake _ _ => exact next e r.arrayWake
  | columnDiagnosis _ _ _ => exact next e r.columnDiagnosis
  | scrubVisit _ _ _ => exact next e r.scrubVisit
  | scrubWriteback _ _ => exact next e r.scrubWriteback
  | coreAliveExpiry _ => exact next e r.coreAlive
  | llWatchdogExpiry => exact (r.llWatchdogExpiry e).toKeepsSound
  | llLockstepMismatch => exact (r.llLockstepMismatch e).toKeepsSound
  | clockMonitorFault _ => exact (r.clockMonitorFault e).toKeepsSound
  | supplyFault _ _ => exact (r.supplyFault e).toKeepsSound
  | pacingExpiry => exact (r.pacingExpiry e).toKeepsSound
  | lampOverdueExpiry _ _ => exact (r.lampOverdueExpiry e).toKeepsSound
  | sfKsafeStopWrite _ _ => exact next e (r.access r.ksafeStopWrite)
  | sfDualMapWrite _ _ => exact next e (r.access r.dualMapWrite)
  | fcCountRead _ _ => exact next e (r.rcRead fun _ => r.setBusData.setSafety)
  | corrCountRead _ => exact next e (r.rcRead fun _ => r.setBusData.setSafety)
  | dualFailRead _ => exact next e (r.rcRead fun _ => r.setBusData.setSafety)
  | slackWindow _ => exact next e r.slackWindow
  | marginPlannerRun => exact next e r.plannerRun
  | binChange => exact next e r.binChange
  | clockRelockDone => exact next e r.relockDone
  | dataFlitReceive _ _ => exact next e r.dataFlit
  | controlFlitReceive _ _ => exact (r.controlFlitReceive e).toKeepsSound
  | linkRetrain _ => exact (r.linkRetrain e).toKeepsSound
  | linkRetrainEnd _ _ => exact next e r.retrainEnd
  | portRetry _ => exact (r.portRetry e).toKeepsSound
  | crcRead _ _ => exact next e r.linkRc
  | replayRead _ _ => exact next e r.linkRc
  | retrainRead _ _ => exact next e r.linkRc
  | flitsRead _ _ => exact next e r.linkRc
  | token _ => exact next e (r.takeMsg fun _ _ hu => hu.takeToken)
  | enumTokenTimeout => exact (r.enumTokenTimeout e).toKeepsSound
  | membership _ => exact next e (r.takeMsg fun _ _ hu => hu.takeMembers)
  | join _ => exact next e (r.takeMsg fun _ _ hu => hu.takeJoin)
  | joinTimeout => exact (r.joinTimeout e).toKeepsSound
  | probe _ => exact next e (r.takeMsg fun _ _ hu => hu.takeProbe)
  | probeReply _ => exact next e (r.takeMsg fun _ _ hu => hu.probeReply)
  | runAck _ => exact next e (r.takeMsg fun _ _ hu => hu.runAck)
  | runRefuse _ => exact next e (r.takeMsg fun _ _ hu => hu.runRefuse)
  | multicastRunReceive _ => exact next e r.multicastRun
  | signal _ => exact next e (r.takeMsg fun _ _ hu => hu.msgSignal)
  | update _ => exact next e (r.takeMsg fun _ _ hu => hu.msgUpdate)
  | subscribe _ => exact next e (r.takeMsg fun _ _ hu => hu.msgSubscribe)
  | subReply _ => exact next e (r.takeMsg fun _ _ hu => hu.msgSubReply)
  | unsubscribe _ => exact next e (r.takeMsg fun _ _ hu => hu.dropSubs)
  | heartbeatSend => exact (r.heartbeatSend e).toKeepsSound
  | heartbeatLoss _ => exact (r.heartbeatLoss e).toKeepsSound
  | settleWindowEnd => exact next e r.settleEnd
  | linkTickMarker _ _ _ => exact (r.linkTickMarker e).toKeepsSound
  | linkTickDue => exact (r.linkTickDue e).toKeepsSound
  | fabricFrame _ => exact next e r.fabricFrame
  | fabricRelease => exact next e r.fabricRelease
  | cfgStart _ _ => exact next e (r.access r.cfgCmdWrite)
  | cfgAbort _ _ => exact next e (r.access r.cfgCmdWrite)
  | cfgDataPush _ _ => exact next e (r.access r.cfgDataPush)
  | configScanMismatch _ _ => exact (r.configScanMismatch e).toKeepsSound
  | uclkWrite _ _ _ => exact next e (r.access r.uclkWrite)
  | uclkErrRead _ => exact next e (r.rcRead fun _ => r.setBusData.setFabric (fun _ h => h))
  | kioWrite _ _ _ => exact next e (r.access r.kioWrite)
  | timerCtrlWrite _ _ _ => exact next e (r.access r.timerWrite)
  | timerPeriodicExpiry _ => exact (r.timerPeriodicExpiry e).toKeepsSound
  | userWatchdogExpiry _ => exact (r.userWatchdogExpiry e).toKeepsSound
  | watchdogService _ => exact (r.watchdogService e).toKeepsSound
  | loadsRead _ _ => exact next e r.regionRc
  | bramErrRead _ _ => exact next e r.regionRc
  | bramUncorr _ _ _ => exact (r.bramUncorr e).toKeepsSound
  | fxCommandStart _ => exact next e r.fxStart
  | fxDone _ _ _ => exact next e r.fxDone
  | fxErr _ _ _ _ => exact next e r.fxErr
  | fxCommandComplete _ => exact next e r.fxComplete
  | fxFault _ _ => exact next e r.fxFaultFound.wordMet
  | fxSnuffComplete _ => exact next e r.fxSnuffComplete
  | fxSnuffTimeout _ => exact next e r.fxSnuffTimeout
  | fxSpuriousRead _ _ => exact next e r.coreRc
  | coldResetRelease _ => exact (r.coldResetRelease e).toKeepsSound
  | llResetCold _ _ => exact next e (r.access r.resetWrite)
  | bootApertureWrite _ _ _ => exact next e (r.access r.apertureWrite)
  | bootRelease _ _ => exact next e (r.access r.bootReleaseWrite)
  | bistDone _ => exact next e r.bistDone
  | bootImageCheck _ => exact next e r.bootImageCheck
  | llResetWarm _ _ => exact next e (r.access r.resetWrite)
  | llPartResetWrite _ _ => exact next e (r.access r.partResetWrite)
  | llRegionResetWrite _ _ => exact next e (r.access r.regionResetWrite)
  | llWorldReq _ _ => exact next e (r.access r.worldReqWrite)
  | worldScrubDone => exact next e r.worldScrubDone
  | coreRetentionExit _ => exact next e r.retentionExit
  | mbSend _ _ _ => exact KeepsSound.next e (KeepsSound.access KeepsSound.mbSendWrite)
  | candleEnded _ => exact (r.candleEnded e).toKeepsSound
  | cmdReady _ => exact (r.cmdReady e).toKeepsSound
  | uclkLock _ => exact (r.uclkLock e).toKeepsSound
  | coreResetDone _ => exact next e r.coreResetDone

theorem step_keeps {s t : State} (e : step s = .next t) : KeepsSound s t := by
  unfold step at e
  split at e
  · exact Keeps.next e (Keeps.refl s).idleStep
  · next i rest _ =>
    have htaken : KeepsSound s { s with pending := rest } := ⟨id, id⟩
    exact htaken.trans (exec_keeps e)

end Sys2Proof.Machine
open Sys2Proof Sys2Proof.Machine

/-- Settles O6: each operation of the model that writes a memory writes it in order and without zero cells (`step_keeps`). -/
theorem stepKeepsMemoriesCanonical : Obligations.StepKeepsMemoriesCanonical := by
  unfold Obligations.StepKeepsMemoriesCanonical
  exact fun s t hs e => (step_keeps e).mem hs

/-- Settles O7: only the toggle point of a tick raises a KSAFE pin, one of the two and none under the stop; all else leaves the pins or lowers them
(`step_keeps`). -/
theorem stepKeepsPinsSafe : Obligations.StepKeepsPinsSafe := by
  unfold Obligations.StepKeepsPinsSafe
  exact fun s t hs e => (step_keeps e).pins hs
end
